-- ==== Sys2Proof/Word.lean ====
section
/-! DEFINITION. The word types: what the spec treats as bits of fixed width (R3, R20, R78). -/
namespace Sys2Proof

/-- A byte of memory. -/
abbrev Byte := BitVec 8
/-- A 64-bit register or address. -/
abbrev Word := BitVec 64
/-- A 96-bit instruction slot (R21). -/
abbrev Slot := BitVec 96
/-- A q register: a set of 256 member indices (R78). -/
abbrev QSet := BitVec 256

end Sys2Proof
end

