-- ==== Sys2Proof/Syntax.lean ====
section
/-! DEFINITION. The instructions of the Jallon X4 and its events: one constructor per row of spec/opcode_table.json.
An instruction carries the fields of its format that it uses (R31-R36), and SUBF as `sub` where SUBF is an operand.
The rows from LINE_REFETCH on are events of the machine and of its environment (spec/95); their arguments are the
choices the spec leaves to the environment: which message, core, line or data the event concerns. -/
namespace Sys2Proof

/-- One row of the opcode table. The guard of a slot (R30) is read beside the instruction, not in it. -/
inductive Instr where
  | nop -- R102
  | brk (imm : BitVec 32) -- R345
  | svc (imm : BitVec 32) -- R345
  | trap (sub : BitVec 4) (a b : BitVec 6) (imm : BitVec 32) -- R345
  | ill -- R39
  | mfs (d : BitVec 6) (sreg : BitVec 12) -- R103
  | mfsFpsr (d : BitVec 6) -- R71
  | mts (a : BitVec 6) (sreg : BitVec 12) -- R103
  | mtsFpcr (a : BitVec 6) -- R65
  | mtsFpsr (a : BitVec 6) -- R71
  | mtsPriv (a : BitVec 6) -- R85
  | mtsRseq (a : BitVec 6) -- R100
  | ifence -- R104
  | rand (d : BitVec 6) -- R101
  | randR16 (d : BitVec 6) -- R101
  | add (d a b : BitVec 6) (w : BitVec 4) -- R89
  | sub (d a b : BitVec 6) (w : BitVec 4) -- R89
  | mul (d a b : BitVec 6) (w : BitVec 4) -- R89
  | mulh (d a b : BitVec 6) (w : BitVec 4) -- R89
  | div (d a b : BitVec 6) (w : BitVec 4) -- R89
  | rem (d a b : BitVec 6) (w : BitVec 4) -- R89
  | and (d a b : BitVec 6) (w : BitVec 4) -- R89
  | or (d a b : BitVec 6) (w : BitVec 4) -- R89
  | xor (d a b : BitVec 6) (w : BitVec 4) -- R89
  | andn (d a b : BitVec 6) (w : BitVec 4) -- R89
  | min (d a b : BitVec 6) (w : BitVec 4) -- R89
  | max (d a b : BitVec 6) (w : BitVec 4) -- R89
  | sel (d a b c : BitVec 6) (w : BitVec 4) -- R89
  | madd (d a b c : BitVec 6) (w : BitVec 4) -- R89
  | adds (sub : BitVec 4) (d a b : BitVec 6) (w : BitVec 4) -- R89
  | absd (d a b : BitVec 6) (w : BitVec 4) -- R89
  | addi (d a : BitVec 6) (w : BitVec 4) (imm : BitVec 64) -- R89
  | muli (d a : BitVec 6) (w : BitVec 4) (imm : BitVec 64) -- R89
  | andi (d a : BitVec 6) (w : BitVec 4) (imm : BitVec 64) -- R89
  | ori (d a : BitVec 6) (w : BitVec 4) (imm : BitVec 64) -- R89
  | xori (d a : BitVec 6) (w : BitVec 4) (imm : BitVec 64) -- R89
  | ldi (d : BitVec 6) (w : BitVec 4) (imm : BitVec 64) -- R90
  | lea (d : BitVec 6) (w : BitVec 4) (imm : BitVec 64) -- R90
  | sll (d a b : BitVec 6) (w : BitVec 4) -- R91
  | srl (d a b : BitVec 6) (w : BitVec 4) -- R91
  | sra (d a b : BitVec 6) (w : BitVec 4) -- R91
  | slli (d a : BitVec 6) (w : BitVec 4) (imm : BitVec 64) -- R91
  | srli (d a : BitVec 6) (w : BitVec 4) (imm : BitVec 64) -- R91
  | srai (d a : BitVec 6) (w : BitVec 4) (imm : BitVec 64) -- R91
  | rot (d a b : BitVec 6) (w : BitVec 4) -- R91
  | clz (d a : BitVec 6) (w : BitVec 4) -- R91
  | ctz (d a : BitVec 6) (w : BitVec 4) -- R91
  | popc (d a : BitVec 6) (w : BitVec 4) -- R91
  | brev (d a : BitVec 6) (w : BitVec 4) -- R91
  | bfx (d a b c : BitVec 6) (w : BitVec 4) -- R92
  | bfi (d a b c : BitVec 6) (w : BitVec 4) -- R92
  | xfold (sub : BitVec 4) (d a b : BitVec 6) -- R93
  | cmp (sub : BitVec 4) (d a b : BitVec 6) (w : BitVec 4) -- R95
  | cmpi (sub : BitVec 4) (d a : BitVec 6) (w : BitVec 4) (imm : BitVec 64) -- R95
  | plog (sub : BitVec 4) (d a b : BitVec 6) -- R96
  | pmovTox (d : BitVec 6) -- R96
  | pmovFromx (a : BitVec 6) -- R96
  | pmovNz (d a : BitVec 6) -- R96
  | br (disp : BitVec 37) (slot : BitVec 3) -- R97
  | call (disp : BitVec 37) (slot : BitVec 3) -- R97
  | callR (a : BitVec 6) -- R97
  | ret (a : BitVec 6) -- R97
  | jmp (a : BitVec 6) -- R97
  | loop (a : BitVec 6) (disp : BitVec 37) (slot : BitVec 3) -- R97
  | brz (a : BitVec 6) (cond : BitVec 4) (disp : BitVec 37) (slot : BitVec 3) -- R97
  | brcmp (a b : BitVec 6) (cond : BitVec 4) (disp : BitVec 37) (slot : BitVec 3) -- R97
  | ld (sub : BitVec 4) (d base idx : BitVec 6) (scl : BitVec 2) (size ord scope hint : BitVec 3) (off : BitVec 48) -- R248
  | st (d base idx : BitVec 6) (scl : BitVec 2) (size ord scope hint : BitVec 3) (off : BitVec 48) -- R248
  | ldf (d base idx : BitVec 6) (scl : BitVec 2) (size ord scope hint : BitVec 3) (off : BitVec 48) -- R248
  | stf (d base idx : BitVec 6) (scl : BitVec 2) (size ord scope hint : BitVec 3) (off : BitVec 48) -- R248
  | ldp (d base idx : BitVec 6) (scl : BitVec 2) (size ord scope hint : BitVec 3) (off : BitVec 48) -- R248
  | stp (d base idx : BitVec 6) (scl : BitVec 2) (size ord scope hint : BitVec 3) (off : BitVec 48) -- R248
  | ldb (sub : BitVec 4) (d base idx : BitVec 6) (scl : BitVec 2) (size hint : BitVec 3) (off : BitVec 48) -- R166
  | stb (d base idx : BitVec 6) (scl : BitVec 2) (size hint : BitVec 3) (off : BitVec 48) -- R166
  | prefL1 (base idx : BitVec 6) (scl : BitVec 2) (hint : BitVec 3) (off : BitVec 48) -- R250
  | prefL2 (base idx : BitVec 6) (scl : BitVec 2) (hint : BitVec 3) (off : BitVec 48) -- R250
  | drain -- R278
  | drainL (base idx : BitVec 6) (scl : BitVec 2) (off : BitVec 48) -- R278
  | amoAdd (d base idx : BitVec 6) (size ord scope : BitVec 3) (off : BitVec 48) -- R251
  | amoAnd (d base idx : BitVec 6) (size ord scope : BitVec 3) (off : BitVec 48) -- R251
  | amoOr (d base idx : BitVec 6) (size ord scope : BitVec 3) (off : BitVec 48) -- R251
  | amoXor (d base idx : BitVec 6) (size ord scope : BitVec 3) (off : BitVec 48) -- R251
  | amoSmin (d base idx : BitVec 6) (size ord scope : BitVec 3) (off : BitVec 48) -- R251
  | amoSmax (d base idx : BitVec 6) (size ord scope : BitVec 3) (off : BitVec 48) -- R251
  | amoUmin (d base idx : BitVec 6) (size ord scope : BitVec 3) (off : BitVec 48) -- R251
  | amoUmax (d base idx : BitVec 6) (size ord scope : BitVec 3) (off : BitVec 48) -- R251
  | amoSwap (d base idx : BitVec 6) (size ord scope : BitVec 3) (off : BitVec 48) -- R251
  | cas (d base idx : BitVec 6) (size ord scope : BitVec 3) (off : BitVec 48) -- R251
  | amofAdd (d base idx : BitVec 6) (size ord scope : BitVec 3) (off : BitVec 48) -- R251
  | amofMin (d base idx : BitVec 6) (size ord scope : BitVec 3) (off : BitVec 48) -- R251
  | amofMax (d base idx : BitVec 6) (size ord scope : BitVec 3) (off : BitVec 48) -- R251
  | fence (ord scope : BitVec 3) -- R277
  | barw (d base idx : BitVec 6) (scl : BitVec 2) (size ord scope : BitVec 3) (off : BitVec 48) -- R279
  | waitv (sub : BitVec 4) (d base idx : BitVec 6) (size ord scope : BitVec 3) (off : BitVec 48) -- R280
  | fork (d b : BitVec 6) (pd : BitVec 3) (disp : BitVec 37) (slot : BitVec 3) -- R117
  | forkJ (d a b : BitVec 6) (pd : BitVec 3) (disp : BitVec 37) (slot : BitVec 3) -- R117
  | join (a : BitVec 6) -- R118
  | retire -- R118
  | retireJ (a : BitVec 6) -- R118
  | yield (a : BitVec 6) -- R119
  | park (a : BitVec 6) -- R120
  | parkRel (a : BitVec 6) -- R120
  | send (a b : BitVec 6) -- R123
  | waitf (d base idx : BitVec 6) (scl : BitVec 2) (size : BitVec 3) (off : BitVec 48) -- R168
  | waitfE (d base idx : BitVec 6) (scl : BitVec 2) (size : BitVec 3) (off : BitVec 48) -- R168
  | fill (d base idx : BitVec 6) (scl : BitVec 2) (size : BitVec 3) (off : BitVec 48) -- R168
  | empty (base idx : BitVec 6) (scl : BitVec 2) (size : BitVec 3) (off : BitVec 48) -- R168
  | dqpush (b : BitVec 6) (pd : BitVec 3) -- R136
  | dqpop (d : BitVec 6) (pd : BitVec 3) -- R138
  | dqsplit (a : BitVec 6) (pd : BitVec 3) (disp : BitVec 37) (slot : BitVec 3) -- R137
  | dqsteal (d : BitVec 6) (pd : BitVec 3) -- R139
  | dqstealAt (d a : BitVec 6) (pd : BitVec 3) -- R139
  | dqrun -- R140
  | launch (d a b : BitVec 6) (pd : BitVec 3) -- R330
  | lwait (d a : BitVec 6) -- R331
  | qalloc (pd : BitVec 3) (imm : BitVec 32) -- R149
  | qfree (imm : BitVec 32) -- R149
  | qlogAnd (qd qa qb pd : BitVec 3) -- R150
  | qlogOr (qd qa qb pd : BitVec 3) -- R150
  | qlogXor (qd qa qb pd : BitVec 3) -- R150
  | qlogAndn (qd qa qb pd : BitVec 3) -- R150
  | qlogCopy (qd qa pd : BitVec 3) -- R150
  | qlogClear (qd pd : BitVec 3) -- R150
  | qlogFull (qd pd : BitVec 3) -- R150
  | qlogNot (qd qa pd : BitVec 3) -- R150
  | qbitSet (qd : BitVec 3) (xa : BitVec 6) (pd : BitVec 3) -- R150
  | qbitClr (qd : BitVec 3) (xa : BitVec 6) (pd : BitVec 3) -- R150
  | qpop (qa : BitVec 3) (xa : BitVec 6) (pd : BitVec 3) -- R150
  | qcnt (qa : BitVec 3) (xa : BitVec 6) (pd : BitVec 3) -- R150
  | qtest (qa : BitVec 3) (xb : BitVec 6) (pd : BitVec 3) -- R150
  | qeqEmpty (qa pd : BitVec 3) -- R150
  | qeqEq (qa qb pd : BitVec 3) -- R150
  | qeqSub (qa qb pd : BitVec 3) -- R150
  | qeqDisj (qa qb pd : BitVec 3) -- R150
  | qaddr (xa xb : BitVec 6) -- R150
  | qaddrQn (xa xb : BitVec 6) -- R150
  | qwin (xa xb : BitVec 6) -- R150
  | qmask (qd qa pd : BitVec 3) (imm : BitVec 32) -- R152
  | qsplit (qd qa qb pd : BitVec 3) (xa : BitVec 6) -- R151
  | qmovTox (qa : BitVec 3) (xa : BitVec 6) -- R153
  | qmovFromx (qd : BitVec 3) (xa : BitVec 6) -- R153
  | qmovLd (qd : BitVec 3) (xa : BitVec 6) (imm : BitVec 32) -- R153
  | qmovSt (qa : BitVec 3) (xa : BitVec 6) (imm : BitVec 32) -- R153
  | arrive (qa : BitVec 3) (xa xb : BitVec 6) (pd : BitVec 3) -- R154
  | depart (qa : BitVec 3) (xa xb : BitVec 6) (pd : BitVec 3) -- R155
  | departW (qa : BitVec 3) (xa xb : BitVec 6) (pd : BitVec 3) -- R155
  | qfork (qa : BitVec 3) (xa xb : BitVec 6) (pd : BitVec 3) (imm : BitVec 32) -- R157
  | scfg (fs : BitVec 5) (xa xb : BitVec 6) (loops : BitVec 2) (dir space : BitVec 1) (fmt : BitVec 4) (pd : BitVec 3) -- R173
  | scfgm (fs : BitVec 5) (dir space : BitVec 1) (fmt : BitVec 4) (qs pd : BitVec 3) -- R174
  | sen (mask : BitVec 8) -- R175
  | sdis (mask : BitVec 8) -- R175
  | swait (mask : BitVec 8) -- R175
  | vadd (fd fa fb : BitVec 5) (fmt : BitVec 4) (rnd : BitVec 3) (bc : BitVec 2) -- R185
  | vsub (fd fa fb : BitVec 5) (fmt : BitVec 4) (rnd : BitVec 3) (bc : BitVec 2) -- R185
  | vmul (fd fa fb : BitVec 5) (fmt : BitVec 4) (rnd : BitVec 3) (bc : BitVec 2) -- R185
  | vfma (fd fa fb fc : BitVec 5) (fmt : BitVec 4) (rnd : BitVec 3) (bc : BitVec 2) -- R185
  | vfmaMs (fd fa fb fc : BitVec 5) (fmt : BitVec 4) (rnd : BitVec 3) (bc : BitVec 2) -- R185
  | vfmaNma (fd fa fb fc : BitVec 5) (fmt : BitVec 4) (rnd : BitVec 3) (bc : BitVec 2) -- R185
  | vfmaNms (fd fa fb fc : BitVec 5) (fmt : BitVec 4) (rnd : BitVec 3) (bc : BitVec 2) -- R185
  | vmin (fd fa fb : BitVec 5) (fmt : BitVec 4) (bc : BitVec 2) -- R185
  | vmax (fd fa fb : BitVec 5) (fmt : BitVec 4) (bc : BitVec 2) -- R185
  | vsgnCpy (fd fa fb : BitVec 5) (fmt : BitVec 4) (bc : BitVec 2) -- R185
  | vsgnNeg (fd fa fb : BitVec 5) (fmt : BitVec 4) (bc : BitVec 2) -- R185
  | vsgnXor (fd fa fb : BitVec 5) (fmt : BitVec 4) (bc : BitVec 2) -- R185
  | vcmp (sub : BitVec 4) (fd fa fb : BitVec 5) (fmt : BitVec 4) (pd : BitVec 3) (bc : BitVec 2) (imm : BitVec 32) -- R187
  | vsel (fd fa fb fc : BitVec 5) (fmt : BitVec 4) (bc : BitVec 2) -- R185
  | vdiv (fd fa fb : BitVec 5) (fmt : BitVec 4) (rnd : BitVec 3) (bc : BitVec 2) -- R185
  | vsqrt (fd fa : BitVec 5) (fmt : BitVec 4) (rnd : BitVec 3) -- R185
  | vredSum (fd fa : BitVec 5) (fmt : BitVec 4) (rnd : BitVec 3) -- R189
  | vredMin (fd fa : BitVec 5) (fmt : BitVec 4) (rnd : BitVec 3) -- R189
  | vredMax (fd fa : BitVec 5) (fmt : BitVec 4) (rnd : BitVec 3) -- R189
  | vdot (fd fa fb : BitVec 5) (fmt : BitVec 4) (rnd : BitVec 3) (bc : BitVec 2) -- R189
  | vmov (fd fa : BitVec 5) (fmt : BitVec 4) -- R185
  | vsclI (fd fa : BitVec 5) (fmt : BitVec 4) (rnd : BitVec 3) (imm : BitVec 32) -- R185
  | vsclE (fd fa fb : BitVec 5) (fmt : BitVec 4) (rnd : BitVec 3) (bc : BitVec 2) -- R185
  | vcls (fd fa : BitVec 5) (fmt : BitVec 4) (pd : BitVec 3) (imm : BitVec 32) -- R187
  | vexp (fd fa : BitVec 5) (fmt : BitVec 4) -- R188
  | vlog (fd fa : BitVec 5) (fmt : BitVec 4) -- R188
  | vrcp (fd fa : BitVec 5) (fmt : BitVec 4) -- R188
  | vrsq (fd fa : BitVec 5) (fmt : BitVec 4) -- R188
  | vsinpi (fd fa : BitVec 5) (fmt : BitVec 4) -- R188
  | vcospi (fd fa : BitVec 5) (fmt : BitVec 4) -- R188
  | vtanh (fd fa : BitVec 5) (fmt : BitVec 4) -- R188
  | viaddAdd (fd fa fb : BitVec 5) (fmt : BitVec 4) (bc : BitVec 2) -- R190
  | viaddSub (fd fa fb : BitVec 5) (fmt : BitVec 4) (bc : BitVec 2) -- R190
  | viaddAdds (fd fa fb : BitVec 5) (fmt : BitVec 4) (bc : BitVec 2) -- R190
  | viaddSubs (fd fa fb : BitVec 5) (fmt : BitVec 4) (bc : BitVec 2) -- R190
  | viaddMin (fd fa fb : BitVec 5) (fmt : BitVec 4) (bc : BitVec 2) -- R190
  | viaddMax (fd fa fb : BitVec 5) (fmt : BitVec 4) (bc : BitVec 2) -- R190
  | viaddAbsd (fd fa fb : BitVec 5) (fmt : BitVec 4) (bc : BitVec 2) -- R190
  | vimulLo (fd fa fb : BitVec 5) (fmt : BitVec 4) (bc : BitVec 2) -- R190
  | vimulHi (fd fa fb : BitVec 5) (fmt : BitVec 4) (bc : BitVec 2) -- R190
  | vimulHiu (fd fa fb : BitVec 5) (fmt : BitVec 4) (bc : BitVec 2) -- R190
  | vlogicAnd (fd fa fb : BitVec 5) (fmt : BitVec 4) (bc : BitVec 2) -- R190
  | vlogicOr (fd fa fb : BitVec 5) (fmt : BitVec 4) (bc : BitVec 2) -- R190
  | vlogicXor (fd fa fb : BitVec 5) (fmt : BitVec 4) (bc : BitVec 2) -- R190
  | vlogicAndn (fd fa fb : BitVec 5) (fmt : BitVec 4) (bc : BitVec 2) -- R190
  | vlogicNot (fd fa : BitVec 5) (fmt : BitVec 4) -- R190
  | vshfSll (fd fa fb : BitVec 5) (fmt : BitVec 4) (bc : BitVec 2) -- R190
  | vshfSrl (fd fa fb : BitVec 5) (fmt : BitVec 4) (bc : BitVec 2) -- R190
  | vshfSra (fd fa fb : BitVec 5) (fmt : BitVec 4) (bc : BitVec 2) -- R190
  | vshfRot (fd fa fb : BitVec 5) (fmt : BitVec 4) (bc : BitVec 2) -- R190
  | cvt (sub : BitVec 4) (fd fa : BitVec 5) (fmt : BitVec 4) (rnd : BitVec 3) (imm : BitVec 32) -- R74
  | cvti (sub : BitVec 4) (fd fa : BitVec 5) (fmt : BitVec 4) (rnd : BitVec 3) (imm : BitVec 32) -- R74
  | pack (sub : BitVec 4) (fd fa fb : BitVec 5) (fmt : BitVec 4) (rnd : BitVec 3) (imm : BitVec 32) -- R75
  | packStrm (sub : BitVec 4) (fd fa : BitVec 5) (fmt : BitVec 4) (rnd : BitVec 3) (imm : BitVec 32) -- R75
  | unpk (sub : BitVec 4) (fd fa : BitVec 5) (fmt : BitVec 4) (rnd : BitVec 3) (imm : BitVec 32) -- R76
  | unpkHi (sub : BitVec 4) (fd fa : BitVec 5) (fmt : BitVec 4) (rnd : BitVec 3) (imm : BitVec 32) -- R76
  | unpkStrm (sub : BitVec 4) (fd fa : BitVec 5) (fmt : BitVec 4) (rnd : BitVec 3) (imm : BitVec 32) -- R76
  | plane (fd fa : BitVec 5) (fmt : BitVec 4) -- R191
  | unplane (fd fa : BitVec 5) (fmt : BitVec 4) -- R192
  | spack (fd fa fb : BitVec 5) (fmt : BitVec 4) (pd : BitVec 3) -- R206
  | spackChk (fd fa : BitVec 5) (fmt : BitVec 4) (pd : BitVec 3) -- R207
  | nfscan (fd fa : BitVec 5) (fmt : BitVec 4) (pd : BitVec 3) -- R208
  | cclaim (xd : BitVec 6) -- R230
  | crel -- R230
  | ccfg (xd : BitVec 6) -- R216
  | cmul (xa xb xg xd xn : BitVec 6) (acb : BitVec 9) (spa za : BitVec 1) -- R219
  | cprom (xa xb xd xn : BitVec 6) (acb : BitVec 9) (nsc : BitVec 2) -- R226
  | czero (xn : BitVec 6) (acb : BitVec 9) -- R228
  | cstat (xd : BitVec 6) -- R231
  | cstatClr (xd : BitVec 6) -- R231
  | cwait (xa : BitVec 6) -- R220
  | cstorAcc (xa xn : BitVec 6) (acb : BitVec 9) -- R229
  | cstorL0 (xa xn : BitVec 6) (acb : BitVec 9) -- R229
  | cstorL1 (xa xn : BitVec 6) (acb : BitVec 9) -- R229
  | cstorCnt (xa xn : BitVec 6) (acb : BitVec 9) -- R229
  | cloadAcc (xa xn : BitVec 6) (acb : BitVec 9) -- R229
  | cloadL0 (xa xn : BitVec 6) (acb : BitVec 9) -- R229
  | cloadL1 (xa xn : BitVec 6) (acb : BitVec 9) -- R229
  | cloadCnt (xa xn : BitVec 6) (acb : BitVec 9) -- R229
  | cring (xa xn : BitVec 6) -- R346
  | cretry (xa xb : BitVec 6) -- R347
  | cqput (d a b : BitVec 6) (pd : BitVec 3) -- R286
  | hstat (d hn : BitVec 6) -- R296
  | hwait (d hn : BitVec 6) (smask : BitVec 4) -- R296
  | hsetDrn (hn : BitVec 6) (pd : BitVec 3) -- R294
  | hsetFree (hn : BitVec 6) (pd : BitVec 3) -- R294
  | halloc (a b hn : BitVec 6) (pd : BitVec 3) -- R295
  | hfree (hn : BitVec 6) (pd : BitVec 3) -- R295
  | cqinitBind (a b : BitVec 6) (pd : BitVec 3) -- R287
  | cqinitUnb (a : BitVec 6) (pd : BitVec 3) -- R287
  | trecv (d : BitVec 6) -- R341
  | trecvTry (d : BitVec 6) (pd : BitVec 3) -- R341
  | tread (d a : BitVec 6) (sreg : BitVec 12) (pd : BitVec 3) (imm : BitVec 32) -- R342
  | twrite (a b : BitVec 6) (sreg : BitVec 12) (pd : BitVec 3) (imm : BitVec 32) -- R342
  | tresume (a : BitVec 6) (pd : BitVec 3) -- R343
  | tresumeNext (a : BitVec 6) (pd : BitVec 3) -- R343
  | tkill (a : BitVec 6) (pd : BitVec 3) -- R344
  | xlinvVa (a b : BitVec 6) -- R240
  | xlinvAs (a : BitVec 6) -- R240
  | xlinvAll -- R240
  | xlsync -- R240
  | ckptTake (a : BitVec 6) (pd : BitVec 3) -- R354
  | ckptRoll (a : BitVec 6) (pd : BitVec 3) -- R354
  | ckptStat (d a : BitVec 6) (pd : BitVec 3) -- R354
  | bflipHost (a : BitVec 6) (pd : BitVec 3) -- R311
  | bflipDev (a : BitVec 6) (pd : BitVec 3) -- R311
  | bflipRd (d a : BitVec 6) -- R311
  | keyldInst (d a b : BitVec 6) (pd : BitVec 3) -- R366
  | keyldClr (a : BitVec 6) (pd : BitVec 3) -- R366
  | keyldStat (d a : BitVec 6) (pd : BitVec 3) -- R366
  | energyRd (d a : BitVec 6) (pd : BitVec 3) -- R380
  | energySet (a b : BitVec 6) (pd : BitVec 3) -- R380
  | gauge (d a : BitVec 6) (pd : BitVec 3) -- R382
  | scopt (d a b : BitVec 6) (pd : BitVec 3) -- R360
  | scoptCnt (d a : BitVec 6) -- R360
  | partctlCreate (d a : BitVec 6) (pd : BitVec 3) -- R358
  | partctlDestroy (a : BitVec 6) (pd : BitVec 3) -- R359
  | partctlStat (d a : BitVec 6) -- R359
  | lineRefetch (core slot : Nat) -- R24
  | fetchLineArrival (core slot : Nat) -- R99
  | slotTurn (core : Nat) -- R106
  | threadFirstFetch (core slot : Nat) -- R113
  | loadReplyArrival (id : Nat) -- R109
  | wakeNotice (id : Nat) -- R110
  | parkDeadline (core slot : Nat) -- R120
  | yieldExpiry (core slot : Nat) -- R119
  | plainLoadAtHome (id : Nat) -- R248
  | writeBackAtHome (id : Nat) -- R242
  | atomicAtHome (id : Nat) -- R251
  | amoAckArrival (id : Nat) -- R251
  | releaseAtHome (id : Nat) -- R264
  | releaseAckArrival (id : Nat) -- R267
  | orderedReadAtHome (id : Nat) -- R265
  | drainRequest (id : Nat) -- R266
  | drainAckAtHome (id : Nat) -- R266
  | fold (core : Nat) -- R268
  | foldEnd (core : Nat) -- R268
  | llcEvictionDrain (dom line : Nat) -- R270
  | barwArrivalAtHome (id : Nat) -- R279
  | waitvReread (id : Nat) -- R280
  | joinCounterUpdate (id : Nat) -- R117
  | switchCombine (reqs : List (Nat × Nat)) -- R252
  | arriveAtHome (id : Nat) -- R154
  | departAtHome (id : Nat) -- R155
  | ageSeal (dom ent : Nat) -- R145
  | closedEntryInvalidate (dom ent : Nat) -- R143
  | stealRound (core slot : Nat) -- R140
  | stealRequest (id : Nat) -- R133
  | stealAnswer (id : Nat) -- R140
  | messageDelivery (core target : Nat) -- R124
  | messageRetry (core target : Nat) -- R124
  | handlerStart (core : Nat) -- R125
  | streamElementFetch (core gen : Nat) -- R176
  | streamPushWrite (core gen : Nat) -- R176
  | vectorOpComplete (core : Nat) (seq : BitVec 16) -- R181
  | vectorStageFree (core : Nat) -- R181
  | cubeDispatch (core : Nat) -- R219
  | cubePassEnd (core : Nat) -- R223
  | cubeCommandComplete (core : Nat) -- R219
  | cubeDataError (core : Nat) (stream : BitVec 2) -- R232
  | lateFaultDelivery (core slot : Nat) -- R337
  | supervisorRestart (core : Nat) -- R339
  | copyPacketAccept (core : Nat) -- R289
  | copyPageBoundary (core : Nat) -- R293
  | copyComplete (core : Nat) -- R291
  | copyError (core : Nat) -- R291
  | xlinvReceipt (inv unit : Nat) -- R240
  | xlinvAckArrival (inv unit : Nat) -- R240
  | launchPacketTake (dom queue : Nat) -- R317
  | dependenceReread (dom queue : Nat) -- R321
  | weirAdmit (dom : Nat) -- R319
  | entryStart (dom serial : Nat) -- R327
  | preempt (dom : Nat) -- R323
  | quantumExpiry (core : Nat) -- R323
  | threadEvict (core slot : Nat) -- R323
  | coreSaveEnd (core serial : Nat) -- R323
  | contextRestore (dom : Nat) -- R325
  | launchComplete (dom serial : Nat) -- R328
  | checkpoint (dom serial : Nat) -- R351
  | rollback (dom serial : Nat) -- R353
  | contextTerminate (dom serial : Nat) -- R350
  | energyIntervalEnd (dom : Nat) (charges : List (Nat × Nat)) (own : Nat) -- R376
  | rds (dom agent pa : Nat) -- R304
  | rdo (dom agent pa : Nat) -- R304
  | wrb (dom agent pa : Nat) (mask : BitVec 128) (data : BitVec 1024) -- R305
  | evn (dom agent pa : Nat) -- R305
  | invalidationAck (dom agent pa : Nat) (mask : BitVec 128) (data : BitVec 1024) -- R304
  | entryMerge (dom pa : Nat) -- R306
  | directoryUe (dom pa : Nat) -- R308
  | hostRequest (dom pa : Nat) (kind : Nat × Bool) (mask : BitVec 128) (data : BitVec 1024) -- R310
  | backInvalidateResponse (dom pa : Nat) (mask : BitVec 128) (data : BitVec 1024) -- R310
  | window0Access (fn off : Nat) (write : Bool) (size : Nat) (data : BitVec 1024) -- R371
  | mringRequest (fn queue header : Nat) (prio : BitVec 3) (lvl : BitVec 2) -- R371
  | window2Access (fn off : Nat) (write : Bool) (size : Nat) (data : BitVec 1024) -- R372
  | flitReplay (port : Nat) (ok : Bool) -- R373
  | peerUnreachable (id : Nat) -- R374
  | deviceReset (start : Bool) (result : BitVec 8 × BitVec 512) -- R383
  | gaugeSave -- R381
  | correctableError (kind inst : Nat) -- R348
  | ueCleanData (kind unit addr : Nat) -- R348
  | uePoison (kind unit addr : Nat) -- R348
  | ueStateMachineCheck (dom serial core : Nat) -- R348
  | keyDeliveryRequest (endpoint session : Nat) (head : Option (BitVec 64)) (kid : BitVec 64) (meas : BitVec 512) (nchunk : BitVec 64) (sealed : BitVec 384) -- R369
  | spdmSessionEnd (endpoint session : Nat) -- R369
  | hostSnoop (addr : Nat) (inval : Bool × Option (BitVec 1024)) -- R309
  | replicaDrop (dom line cluster : Nat) -- R246
  | tlbEntryDrop (kind unit idx : Nat) -- R239
  | spdmRequest (endpoint code arg : Nat) -- R368
  | gaugeMctpRead (idx : BitVec 24) -- R382
  | supplyDroop (die : Nat) -- R381
  | temperatureSecond (bins : List Nat) -- R381
  | lossOfPower -- R381
  deriving DecidableEq, Repr

end Sys2Proof
end

