-- ==== Sys2Proof/Decode.lean ====
section
/-! DEFINITION. The decoder and the encoder of a 96-bit slot (R21, R30-R40), and the line word (R22, R23).
The decoder reads the common header, finds the instruction of the opcode and SUBF, takes the fields of the format,
and refuses by name: a reserved opcode, a reserved SUBF, a non-zero reserved field (the word differs from the
encoding of the instruction read), a field value a code table or an entry marks reserved. -/
namespace Sys2Proof

/-- Why a slot is refused (R40): every reason raises Illegal-Instruction when the slot is guarded on. -/
inductive DecodeError where
  | reservedOpcode | reservedSubf | reservedField | reservedValue
  deriving DecidableEq, Repr

/-- The guard of a slot: PRED and PNEG (R30). -/
structure Guard where
  pred : BitVec 3
  neg : Bool
  deriving DecidableEq, Repr

/-- Special registers that MFS may name (R83). -/
def sregReadable (i : BitVec 12) : Bool :=
  [0x000#12, 0x001#12, 0x002#12, 0x003#12, 0x004#12, 0x005#12, 0x006#12, 0x010#12, 0x011#12, 0x020#12, 0x021#12,
   0x022#12, 0x023#12, 0x024#12, 0x030#12, 0x031#12, 0x040#12, 0x050#12, 0x051#12, 0x052#12, 0x060#12, 0x070#12].contains i

/-- Element formats a stream may be bound with (R172). -/
def streamFmt (f : BitVec 4) : Bool := [0#4, 1#4, 2#4, 3#4, 4#4, 6#4, 9#4, 10#4, 11#4].contains f

/-- Formats of CVT (R73). -/
def cvtFmt (f : BitVec 4) : Bool := f.toNat ≤ 5 || f == 10#4 || f == 11#4

/-- Integer formats of CVTI (R73). -/
def cvtiInt (f : BitVec 4) : Bool := f == 6#4 || f == 7#4 || f == 9#4

/-- Floating formats of CVTI (R73). -/
def cvtiFloat (f : BitVec 4) : Bool := f.toNat ≤ 5 || f == 11#4

/-- Legal pairs of CVTI (R73). -/
def cvtiPair (src dst : BitVec 4) : Bool :=
  if cvtiInt src then cvtiInt dst || cvtiFloat dst else cvtiFloat src && cvtiInt dst

/-- Unpacked formats of PACK and UNPK (R73). -/
def packSrc (f : BitVec 4) : Bool := f.toNat ≤ 2 || f == 6#4 || f == 9#4

/-- Per-thread special registers, which TREAD and TWRITE may name (R342, R83). -/
def sregThread (i : BitVec 12) : Bool :=
  [0x000#12, 0x002#12, 0x003#12, 0x005#12, 0x006#12, 0x010#12, 0x011#12, 0x020#12, 0x021#12, 0x022#12, 0x023#12,
   0x024#12].contains i

/-- A register selector of TREAD and TWRITE (R342): class in IMM32[11:8], number below; SREG only in class 6. -/
def ctxReg (imm : BitVec 32) (sreg : BitVec 12) : Bool :=
  match imm.toNat / 256 with
  | 0 => imm.toNat % 256 < 64 && sreg == 0#12
  | 1 => imm.toNat % 256 < 32 && sreg == 0#12
  | 2 => imm.toNat % 256 == 0 && sreg == 0#12
  | 3 => imm.toNat % 256 < 32 && sreg == 0#12
  | 4 => imm.toNat % 256 == 0 && sreg == 0#12
  | 5 => imm.toNat % 256 == 0 && sreg == 0#12
  | 6 => imm.toNat % 256 == 0 && sregThread sreg
  | _ => false

/-- A TWRITE to a read-only special register is illegal, as MTS is (R342, R83). -/
def ctxWritable (imm : BitVec 32) (sreg : BitVec 12) : Bool :=
  imm.toNat / 256 != 6 ||
    [0x005#12, 0x006#12, 0x010#12, 0x011#12, 0x020#12, 0x021#12, 0x022#12, 0x023#12].contains sreg

/-- Bits 79:0 of format R (R31), reserved bits zero. -/
def bodyR (d a b c : BitVec 6) (w : BitVec 4) : BitVec 80 :=
  d ++ a ++ b ++ c ++ w ++ 0#52

/-- Bits 79:0 of format I (R31), reserved bits zero. -/
def bodyI (d a : BitVec 6) (w : BitVec 4) (imm : BitVec 64) : BitVec 80 :=
  d ++ a ++ w ++ imm

/-- Bits 79:0 of format B (R31), reserved bits zero. -/
def bodyB (a b : BitVec 6) (cond : BitVec 4) (disp : BitVec 37) (slot : BitVec 3) : BitVec 80 :=
  a ++ b ++ cond ++ 0#24 ++ disp ++ slot

/-- Bits 79:0 of format M (R33), reserved bits zero. -/
def bodyM (d base idx : BitVec 6) (scl : BitVec 2) (size ord scope hint : BitVec 3) (off : BitVec 48) : BitVec 80 :=
  d ++ base ++ idx ++ scl ++ size ++ ord ++ scope ++ hint ++ off

/-- Bits 79:0 of format Q (R34), reserved bits zero. -/
def bodyQ (qd qa qb : BitVec 3) (xa xb : BitVec 6) (pd : BitVec 3) (imm : BitVec 32) : BitVec 80 :=
  qd ++ qa ++ qb ++ xa ++ xb ++ pd ++ 0#8 ++ imm ++ 0#16

/-- Bits 79:0 of format V (R34), reserved bits zero. -/
def bodyV (fd fa fb fc : BitVec 5) (fmt : BitVec 4) (rnd pd : BitVec 3) (bc : BitVec 2) (imm : BitVec 32) : BitVec 80 :=
  fd ++ fa ++ fb ++ fc ++ fmt ++ rnd ++ pd ++ bc ++ imm ++ 0#16

/-- Bits 79:0 of format C (R35), reserved bits zero. -/
def bodyC (xa xb xg xd xn : BitVec 6) (acb : BitVec 9) (spa : BitVec 1) (nsc : BitVec 2) (za : BitVec 1) : BitVec 80 :=
  xa ++ xb ++ xg ++ xd ++ xn ++ acb ++ spa ++ nsc ++ za ++ 0#37

/-- Bits 79:0 of format T (R36), reserved bits zero. -/
def bodyT (d a b c : BitVec 6) (pd : BitVec 3) (disp : BitVec 37) (slot : BitVec 3) : BitVec 80 :=
  d ++ a ++ b ++ c ++ pd ++ 0#5 ++ disp ++ slot ++ 0#8

/-- Bits 79:0 of format H (R36), reserved bits zero. -/
def bodyH (d a b hn : BitVec 6) (smask : BitVec 4) (pd : BitVec 3) : BitVec 80 :=
  d ++ a ++ b ++ hn ++ smask ++ pd ++ 0#49

/-- Bits 79:0 of format S (R36), reserved bits zero. -/
def bodyS (fs : BitVec 5) (xa xb : BitVec 6) (loops : BitVec 2) (dir space : BitVec 1) (fmt : BitVec 4) (qs pd : BitVec 3) (mask : BitVec 8) : BitVec 80 :=
  fs ++ xa ++ xb ++ loops ++ dir ++ space ++ fmt ++ qs ++ pd ++ 0#1 ++ mask ++ 0#40

/-- Bits 79:0 of format X (R36), reserved bits zero. -/
def bodyX (d a b : BitVec 6) (sreg : BitVec 12) (pd : BitVec 3) (imm : BitVec 32) : BitVec 80 :=
  d ++ a ++ b ++ sreg ++ pd ++ 0#15 ++ imm

/-- Field D of format R (R31). -/
def getRD (v : BitVec 80) : BitVec 6 := v.extractLsb' 74 6

/-- Field A of format R (R31). -/
def getRA (v : BitVec 80) : BitVec 6 := v.extractLsb' 68 6

/-- Field B of format R (R31). -/
def getRB (v : BitVec 80) : BitVec 6 := v.extractLsb' 62 6

/-- Field C of format R (R31). -/
def getRC (v : BitVec 80) : BitVec 6 := v.extractLsb' 56 6

/-- Field W of format R (R31). -/
def getRW (v : BitVec 80) : BitVec 4 := v.extractLsb' 52 4

/-- Field D of format I (R31). -/
def getID (v : BitVec 80) : BitVec 6 := v.extractLsb' 74 6

/-- Field A of format I (R31). -/
def getIA (v : BitVec 80) : BitVec 6 := v.extractLsb' 68 6

/-- Field W of format I (R31). -/
def getIW (v : BitVec 80) : BitVec 4 := v.extractLsb' 64 4

/-- Field IMM of format I (R31). -/
def getIImm (v : BitVec 80) : BitVec 64 := v.extractLsb' 0 64

/-- Field A of format B (R31). -/
def getBA (v : BitVec 80) : BitVec 6 := v.extractLsb' 74 6

/-- Field B of format B (R31). -/
def getBB (v : BitVec 80) : BitVec 6 := v.extractLsb' 68 6

/-- Field COND of format B (R31). -/
def getBCond (v : BitVec 80) : BitVec 4 := v.extractLsb' 64 4

/-- Field DISP of format B (R31). -/
def getBDisp (v : BitVec 80) : BitVec 37 := v.extractLsb' 3 37

/-- Field SLOT of format B (R31). -/
def getBSlot (v : BitVec 80) : BitVec 3 := v.extractLsb' 0 3

/-- Field D of format M (R33). -/
def getMD (v : BitVec 80) : BitVec 6 := v.extractLsb' 74 6

/-- Field BASE of format M (R33). -/
def getMBase (v : BitVec 80) : BitVec 6 := v.extractLsb' 68 6

/-- Field IDX of format M (R33). -/
def getMIdx (v : BitVec 80) : BitVec 6 := v.extractLsb' 62 6

/-- Field SCL of format M (R33). -/
def getMScl (v : BitVec 80) : BitVec 2 := v.extractLsb' 60 2

/-- Field SIZE of format M (R33). -/
def getMSize (v : BitVec 80) : BitVec 3 := v.extractLsb' 57 3

/-- Field ORD of format M (R33). -/
def getMOrd (v : BitVec 80) : BitVec 3 := v.extractLsb' 54 3

/-- Field SCOPE of format M (R33). -/
def getMScope (v : BitVec 80) : BitVec 3 := v.extractLsb' 51 3

/-- Field HINT of format M (R33). -/
def getMHint (v : BitVec 80) : BitVec 3 := v.extractLsb' 48 3

/-- Field OFF of format M (R33). -/
def getMOff (v : BitVec 80) : BitVec 48 := v.extractLsb' 0 48

/-- Field QD of format Q (R34). -/
def getQQd (v : BitVec 80) : BitVec 3 := v.extractLsb' 77 3

/-- Field QA of format Q (R34). -/
def getQQa (v : BitVec 80) : BitVec 3 := v.extractLsb' 74 3

/-- Field QB of format Q (R34). -/
def getQQb (v : BitVec 80) : BitVec 3 := v.extractLsb' 71 3

/-- Field XA of format Q (R34). -/
def getQXa (v : BitVec 80) : BitVec 6 := v.extractLsb' 65 6

/-- Field XB of format Q (R34). -/
def getQXb (v : BitVec 80) : BitVec 6 := v.extractLsb' 59 6

/-- Field PD of format Q (R34). -/
def getQPd (v : BitVec 80) : BitVec 3 := v.extractLsb' 56 3

/-- Field IMM of format Q (R34). -/
def getQImm (v : BitVec 80) : BitVec 32 := v.extractLsb' 16 32

/-- Field FD of format V (R34). -/
def getVFd (v : BitVec 80) : BitVec 5 := v.extractLsb' 75 5

/-- Field FA of format V (R34). -/
def getVFa (v : BitVec 80) : BitVec 5 := v.extractLsb' 70 5

/-- Field FB of format V (R34). -/
def getVFb (v : BitVec 80) : BitVec 5 := v.extractLsb' 65 5

/-- Field FC of format V (R34). -/
def getVFc (v : BitVec 80) : BitVec 5 := v.extractLsb' 60 5

/-- Field FMT of format V (R34). -/
def getVFmt (v : BitVec 80) : BitVec 4 := v.extractLsb' 56 4

/-- Field RND of format V (R34). -/
def getVRnd (v : BitVec 80) : BitVec 3 := v.extractLsb' 53 3

/-- Field PD of format V (R34). -/
def getVPd (v : BitVec 80) : BitVec 3 := v.extractLsb' 50 3

/-- Field BC of format V (R34). -/
def getVBc (v : BitVec 80) : BitVec 2 := v.extractLsb' 48 2

/-- Field IMM of format V (R34). -/
def getVImm (v : BitVec 80) : BitVec 32 := v.extractLsb' 16 32

/-- Field XA of format C (R35). -/
def getCXa (v : BitVec 80) : BitVec 6 := v.extractLsb' 74 6

/-- Field XB of format C (R35). -/
def getCXb (v : BitVec 80) : BitVec 6 := v.extractLsb' 68 6

/-- Field XG of format C (R35). -/
def getCXg (v : BitVec 80) : BitVec 6 := v.extractLsb' 62 6

/-- Field XD of format C (R35). -/
def getCXd (v : BitVec 80) : BitVec 6 := v.extractLsb' 56 6

/-- Field XN of format C (R35). -/
def getCXn (v : BitVec 80) : BitVec 6 := v.extractLsb' 50 6

/-- Field ACB of format C (R35). -/
def getCAcb (v : BitVec 80) : BitVec 9 := v.extractLsb' 41 9

/-- Field SPA of format C (R35). -/
def getCSpa (v : BitVec 80) : BitVec 1 := v.extractLsb' 40 1

/-- Field NSC of format C (R35). -/
def getCNsc (v : BitVec 80) : BitVec 2 := v.extractLsb' 38 2

/-- Field ZA of format C (R35). -/
def getCZa (v : BitVec 80) : BitVec 1 := v.extractLsb' 37 1

/-- Field D of format T (R36). -/
def getTD (v : BitVec 80) : BitVec 6 := v.extractLsb' 74 6

/-- Field A of format T (R36). -/
def getTA (v : BitVec 80) : BitVec 6 := v.extractLsb' 68 6

/-- Field B of format T (R36). -/
def getTB (v : BitVec 80) : BitVec 6 := v.extractLsb' 62 6

/-- Field C of format T (R36). -/
def getTC (v : BitVec 80) : BitVec 6 := v.extractLsb' 56 6

/-- Field PD of format T (R36). -/
def getTPd (v : BitVec 80) : BitVec 3 := v.extractLsb' 53 3

/-- Field DISP of format T (R36). -/
def getTDisp (v : BitVec 80) : BitVec 37 := v.extractLsb' 11 37

/-- Field SLOT of format T (R36). -/
def getTSlot (v : BitVec 80) : BitVec 3 := v.extractLsb' 8 3

/-- Field D of format H (R36). -/
def getHD (v : BitVec 80) : BitVec 6 := v.extractLsb' 74 6

/-- Field A of format H (R36). -/
def getHA (v : BitVec 80) : BitVec 6 := v.extractLsb' 68 6

/-- Field B of format H (R36). -/
def getHB (v : BitVec 80) : BitVec 6 := v.extractLsb' 62 6

/-- Field HN of format H (R36). -/
def getHHn (v : BitVec 80) : BitVec 6 := v.extractLsb' 56 6

/-- Field SMASK of format H (R36). -/
def getHSmask (v : BitVec 80) : BitVec 4 := v.extractLsb' 52 4

/-- Field PD of format H (R36). -/
def getHPd (v : BitVec 80) : BitVec 3 := v.extractLsb' 49 3

/-- Field FS of format S (R36). -/
def getSFs (v : BitVec 80) : BitVec 5 := v.extractLsb' 75 5

/-- Field XA of format S (R36). -/
def getSXa (v : BitVec 80) : BitVec 6 := v.extractLsb' 69 6

/-- Field XB of format S (R36). -/
def getSXb (v : BitVec 80) : BitVec 6 := v.extractLsb' 63 6

/-- Field LOOPS of format S (R36). -/
def getSLoops (v : BitVec 80) : BitVec 2 := v.extractLsb' 61 2

/-- Field DIR of format S (R36). -/
def getSDir (v : BitVec 80) : BitVec 1 := v.extractLsb' 60 1

/-- Field SPACE of format S (R36). -/
def getSSpace (v : BitVec 80) : BitVec 1 := v.extractLsb' 59 1

/-- Field FMT of format S (R36). -/
def getSFmt (v : BitVec 80) : BitVec 4 := v.extractLsb' 55 4

/-- Field QS of format S (R36). -/
def getSQs (v : BitVec 80) : BitVec 3 := v.extractLsb' 52 3

/-- Field PD of format S (R36). -/
def getSPd (v : BitVec 80) : BitVec 3 := v.extractLsb' 49 3

/-- Field MASK of format S (R36). -/
def getSMask (v : BitVec 80) : BitVec 8 := v.extractLsb' 40 8

/-- Field D of format X (R36). -/
def getXD (v : BitVec 80) : BitVec 6 := v.extractLsb' 74 6

/-- Field A of format X (R36). -/
def getXA (v : BitVec 80) : BitVec 6 := v.extractLsb' 68 6

/-- Field B of format X (R36). -/
def getXB (v : BitVec 80) : BitVec 6 := v.extractLsb' 62 6

/-- Field SREG of format X (R36). -/
def getXSreg (v : BitVec 80) : BitVec 12 := v.extractLsb' 50 12

/-- Field PD of format X (R36). -/
def getXPd (v : BitVec 80) : BitVec 3 := v.extractLsb' 47 3

/-- Field IMM of format X (R36). -/
def getXImm (v : BitVec 80) : BitVec 32 := v.extractLsb' 0 32

/-- Opcodes 0x00 to 0x0F (R38, R39), by low nibble. -/
def instrOf0 (lo : Nat) (sub : BitVec 4) (v : BitVec 80) : Except DecodeError Instr :=
  match lo with
  | 0 => if sub = 0#4 then .ok (.nop) else .error .reservedSubf
  | 1 => if sub = 0#4 then .ok (.brk (getXImm v)) else .error .reservedSubf
  | 2 => if sub = 0#4 then .ok (.svc (getXImm v)) else .error .reservedSubf
  | 3 => .ok (.trap sub (getXA v) (getXB v) (getXImm v))
  | 4 => if sub = 0#4 then if getXSreg v = 0x011#12 then .ok (.mfsFpsr (getXD v)) else .ok (.mfs (getXD v) (getXSreg v)) else .error .reservedSubf
  | 5 => if sub = 0#4 then if getXSreg v = 0x010#12 then .ok (.mtsFpcr (getXA v)) else if getXSreg v = 0x011#12 then .ok (.mtsFpsr (getXA v)) else if getXSreg v = 0x005#12 then .ok (.mtsPriv (getXA v)) else if getXSreg v = 0x006#12 then .ok (.mtsRseq (getXA v)) else .ok (.mts (getXA v) (getXSreg v)) else .error .reservedSubf
  | 6 => if sub = 0#4 then .ok (.ifence) else .error .reservedSubf
  | 7 => if sub = 0#4 then .ok (.rand (getXD v)) else if sub = 1#4 then .ok (.randR16 (getXD v)) else .error .reservedSubf
  | _ => .error .reservedOpcode

/-- Opcodes 0x10 to 0x1F (R38, R39), by low nibble. -/
def instrOf1 (lo : Nat) (sub : BitVec 4) (v : BitVec 80) : Except DecodeError Instr :=
  match lo with
  | 0 => if sub = 0#4 then .ok (.add (getRD v) (getRA v) (getRB v) (getRW v)) else .error .reservedSubf
  | 1 => if sub = 0#4 then .ok (.sub (getRD v) (getRA v) (getRB v) (getRW v)) else .error .reservedSubf
  | 2 => if sub = 0#4 then .ok (.mul (getRD v) (getRA v) (getRB v) (getRW v)) else .error .reservedSubf
  | 3 => if sub = 0#4 then .ok (.mulh (getRD v) (getRA v) (getRB v) (getRW v)) else .error .reservedSubf
  | 4 => if sub = 0#4 then .ok (.div (getRD v) (getRA v) (getRB v) (getRW v)) else .error .reservedSubf
  | 5 => if sub = 0#4 then .ok (.rem (getRD v) (getRA v) (getRB v) (getRW v)) else .error .reservedSubf
  | 6 => if sub = 0#4 then .ok (.and (getRD v) (getRA v) (getRB v) (getRW v)) else .error .reservedSubf
  | 7 => if sub = 0#4 then .ok (.or (getRD v) (getRA v) (getRB v) (getRW v)) else .error .reservedSubf
  | 8 => if sub = 0#4 then .ok (.xor (getRD v) (getRA v) (getRB v) (getRW v)) else .error .reservedSubf
  | 9 => if sub = 0#4 then .ok (.andn (getRD v) (getRA v) (getRB v) (getRW v)) else .error .reservedSubf
  | 10 => if sub = 0#4 then .ok (.min (getRD v) (getRA v) (getRB v) (getRW v)) else .error .reservedSubf
  | 11 => if sub = 0#4 then .ok (.max (getRD v) (getRA v) (getRB v) (getRW v)) else .error .reservedSubf
  | 12 => if sub = 0#4 then .ok (.sel (getRD v) (getRA v) (getRB v) (getRC v) (getRW v)) else .error .reservedSubf
  | 13 => if sub = 0#4 then .ok (.madd (getRD v) (getRA v) (getRB v) (getRC v) (getRW v)) else .error .reservedSubf
  | 14 => .ok (.adds sub (getRD v) (getRA v) (getRB v) (getRW v))
  | 15 => if sub = 0#4 then .ok (.absd (getRD v) (getRA v) (getRB v) (getRW v)) else .error .reservedSubf
  | _ => .error .reservedOpcode

/-- Opcodes 0x20 to 0x2F (R38, R39), by low nibble. -/
def instrOf2 (lo : Nat) (sub : BitVec 4) (v : BitVec 80) : Except DecodeError Instr :=
  match lo with
  | 0 => if sub = 0#4 then .ok (.addi (getID v) (getIA v) (getIW v) (getIImm v)) else .error .reservedSubf
  | 1 => if sub = 0#4 then .ok (.muli (getID v) (getIA v) (getIW v) (getIImm v)) else .error .reservedSubf
  | 2 => if sub = 0#4 then .ok (.andi (getID v) (getIA v) (getIW v) (getIImm v)) else .error .reservedSubf
  | 3 => if sub = 0#4 then .ok (.ori (getID v) (getIA v) (getIW v) (getIImm v)) else .error .reservedSubf
  | 4 => if sub = 0#4 then .ok (.xori (getID v) (getIA v) (getIW v) (getIImm v)) else .error .reservedSubf
  | 5 => if sub = 0#4 then .ok (.ldi (getID v) (getIW v) (getIImm v)) else .error .reservedSubf
  | 6 => if sub = 0#4 then .ok (.lea (getID v) (getIW v) (getIImm v)) else .error .reservedSubf
  | 7 => if sub = 0#4 then .ok (.slli (getID v) (getIA v) (getIW v) (getIImm v)) else .error .reservedSubf
  | 8 => if sub = 0#4 then .ok (.srli (getID v) (getIA v) (getIW v) (getIImm v)) else .error .reservedSubf
  | 9 => if sub = 0#4 then .ok (.srai (getID v) (getIA v) (getIW v) (getIImm v)) else .error .reservedSubf
  | 10 => .ok (.cmpi sub (getID v) (getIA v) (getIW v) (getIImm v))
  | _ => .error .reservedOpcode

/-- Opcodes 0x30 to 0x3F (R38, R39), by low nibble. -/
def instrOf3 (lo : Nat) (sub : BitVec 4) (v : BitVec 80) : Except DecodeError Instr :=
  match lo with
  | 0 => if sub = 0#4 then .ok (.sll (getRD v) (getRA v) (getRB v) (getRW v)) else .error .reservedSubf
  | 1 => if sub = 0#4 then .ok (.srl (getRD v) (getRA v) (getRB v) (getRW v)) else .error .reservedSubf
  | 2 => if sub = 0#4 then .ok (.sra (getRD v) (getRA v) (getRB v) (getRW v)) else .error .reservedSubf
  | 3 => if sub = 0#4 then .ok (.rot (getRD v) (getRA v) (getRB v) (getRW v)) else .error .reservedSubf
  | 4 => if sub = 0#4 then .ok (.clz (getRD v) (getRA v) (getRW v)) else .error .reservedSubf
  | 5 => if sub = 0#4 then .ok (.ctz (getRD v) (getRA v) (getRW v)) else .error .reservedSubf
  | 6 => if sub = 0#4 then .ok (.popc (getRD v) (getRA v) (getRW v)) else .error .reservedSubf
  | 7 => if sub = 0#4 then .ok (.bfx (getRD v) (getRA v) (getRB v) (getRC v) (getRW v)) else .error .reservedSubf
  | 8 => if sub = 0#4 then .ok (.bfi (getRD v) (getRA v) (getRB v) (getRC v) (getRW v)) else .error .reservedSubf
  | 9 => if sub = 0#4 then .ok (.brev (getRD v) (getRA v) (getRW v)) else .error .reservedSubf
  | 10 => .ok (.cmp sub (getRD v) (getRA v) (getRB v) (getRW v))
  | 11 => .ok (.plog sub (getRD v) (getRA v) (getRB v))
  | 12 => if sub = 0#4 then .ok (.pmovTox (getRD v)) else if sub = 1#4 then .ok (.pmovFromx (getRA v)) else if sub = 2#4 then .ok (.pmovNz (getRD v) (getRA v)) else .error .reservedSubf
  | 13 => .ok (.xfold sub (getRD v) (getRA v) (getRB v))
  | _ => .error .reservedOpcode

/-- Opcodes 0x40 to 0x4F (R38, R39), by low nibble. -/
def instrOf4 (lo : Nat) (sub : BitVec 4) (v : BitVec 80) : Except DecodeError Instr :=
  match lo with
  | 0 => if sub = 0#4 then .ok (.br (getBDisp v) (getBSlot v)) else .error .reservedSubf
  | 1 => if sub = 0#4 then .ok (.call (getBDisp v) (getBSlot v)) else if sub = 1#4 then .ok (.callR (getBA v)) else .error .reservedSubf
  | 2 => if sub = 0#4 then .ok (.ret (getBA v)) else .error .reservedSubf
  | 3 => if sub = 0#4 then .ok (.jmp (getBA v)) else .error .reservedSubf
  | 4 => if sub = 0#4 then .ok (.loop (getBA v) (getBDisp v) (getBSlot v)) else .error .reservedSubf
  | 5 => if sub = 0#4 then .ok (.brz (getBA v) (getBCond v) (getBDisp v) (getBSlot v)) else .error .reservedSubf
  | 6 => if sub = 0#4 then .ok (.brcmp (getBA v) (getBB v) (getBCond v) (getBDisp v) (getBSlot v)) else .error .reservedSubf
  | _ => .error .reservedOpcode

/-- Opcodes 0x50 to 0x5F (R38, R39), by low nibble. -/
def instrOf5 (lo : Nat) (sub : BitVec 4) (v : BitVec 80) : Except DecodeError Instr :=
  match lo with
  | 0 => .ok (.ld sub (getMD v) (getMBase v) (getMIdx v) (getMScl v) (getMSize v) (getMOrd v) (getMScope v) (getMHint v) (getMOff v))
  | 1 => if sub = 0#4 then .ok (.st (getMD v) (getMBase v) (getMIdx v) (getMScl v) (getMSize v) (getMOrd v) (getMScope v) (getMHint v) (getMOff v)) else .error .reservedSubf
  | 2 => if sub = 0#4 then .ok (.ldf (getMD v) (getMBase v) (getMIdx v) (getMScl v) (getMSize v) (getMOrd v) (getMScope v) (getMHint v) (getMOff v)) else .error .reservedSubf
  | 3 => if sub = 0#4 then .ok (.stf (getMD v) (getMBase v) (getMIdx v) (getMScl v) (getMSize v) (getMOrd v) (getMScope v) (getMHint v) (getMOff v)) else .error .reservedSubf
  | 4 => if sub = 0#4 then .ok (.ldp (getMD v) (getMBase v) (getMIdx v) (getMScl v) (getMSize v) (getMOrd v) (getMScope v) (getMHint v) (getMOff v)) else .error .reservedSubf
  | 5 => if sub = 0#4 then .ok (.stp (getMD v) (getMBase v) (getMIdx v) (getMScl v) (getMSize v) (getMOrd v) (getMScope v) (getMHint v) (getMOff v)) else .error .reservedSubf
  | 6 => .ok (.ldb sub (getMD v) (getMBase v) (getMIdx v) (getMScl v) (getMSize v) (getMHint v) (getMOff v))
  | 7 => if sub = 0#4 then .ok (.stb (getMD v) (getMBase v) (getMIdx v) (getMScl v) (getMSize v) (getMHint v) (getMOff v)) else .error .reservedSubf
  | 8 => if sub = 0#4 then .ok (.prefL1 (getMBase v) (getMIdx v) (getMScl v) (getMHint v) (getMOff v)) else if sub = 1#4 then .ok (.prefL2 (getMBase v) (getMIdx v) (getMScl v) (getMHint v) (getMOff v)) else .error .reservedSubf
  | 9 => if sub = 0#4 then .ok (.drain) else if sub = 1#4 then .ok (.drainL (getMBase v) (getMIdx v) (getMScl v) (getMOff v)) else .error .reservedSubf
  | _ => .error .reservedOpcode

/-- Opcodes 0x60 to 0x6F (R38, R39), by low nibble. -/
def instrOf6 (lo : Nat) (sub : BitVec 4) (v : BitVec 80) : Except DecodeError Instr :=
  match lo with
  | 0 => if sub = 0#4 then .ok (.amoAdd (getMD v) (getMBase v) (getMIdx v) (getMSize v) (getMOrd v) (getMScope v) (getMOff v)) else if sub = 1#4 then .ok (.amoAnd (getMD v) (getMBase v) (getMIdx v) (getMSize v) (getMOrd v) (getMScope v) (getMOff v)) else if sub = 2#4 then .ok (.amoOr (getMD v) (getMBase v) (getMIdx v) (getMSize v) (getMOrd v) (getMScope v) (getMOff v)) else if sub = 3#4 then .ok (.amoXor (getMD v) (getMBase v) (getMIdx v) (getMSize v) (getMOrd v) (getMScope v) (getMOff v)) else if sub = 4#4 then .ok (.amoSmin (getMD v) (getMBase v) (getMIdx v) (getMSize v) (getMOrd v) (getMScope v) (getMOff v)) else if sub = 5#4 then .ok (.amoSmax (getMD v) (getMBase v) (getMIdx v) (getMSize v) (getMOrd v) (getMScope v) (getMOff v)) else if sub = 6#4 then .ok (.amoUmin (getMD v) (getMBase v) (getMIdx v) (getMSize v) (getMOrd v) (getMScope v) (getMOff v)) else if sub = 7#4 then .ok (.amoUmax (getMD v) (getMBase v) (getMIdx v) (getMSize v) (getMOrd v) (getMScope v) (getMOff v)) else if sub = 8#4 then .ok (.amoSwap (getMD v) (getMBase v) (getMIdx v) (getMSize v) (getMOrd v) (getMScope v) (getMOff v)) else .error .reservedSubf
  | 1 => if sub = 0#4 then .ok (.cas (getMD v) (getMBase v) (getMIdx v) (getMSize v) (getMOrd v) (getMScope v) (getMOff v)) else .error .reservedSubf
  | 2 => if sub = 0#4 then .ok (.amofAdd (getMD v) (getMBase v) (getMIdx v) (getMSize v) (getMOrd v) (getMScope v) (getMOff v)) else if sub = 1#4 then .ok (.amofMin (getMD v) (getMBase v) (getMIdx v) (getMSize v) (getMOrd v) (getMScope v) (getMOff v)) else if sub = 2#4 then .ok (.amofMax (getMD v) (getMBase v) (getMIdx v) (getMSize v) (getMOrd v) (getMScope v) (getMOff v)) else .error .reservedSubf
  | 3 => if sub = 0#4 then .ok (.fence (getMOrd v) (getMScope v)) else .error .reservedSubf
  | 4 => if sub = 0#4 then .ok (.barw (getMD v) (getMBase v) (getMIdx v) (getMScl v) (getMSize v) (getMOrd v) (getMScope v) (getMOff v)) else .error .reservedSubf
  | 5 => .ok (.waitv sub (getMD v) (getMBase v) (getMIdx v) (getMSize v) (getMOrd v) (getMScope v) (getMOff v))
  | _ => .error .reservedOpcode

/-- Opcodes 0x70 to 0x7F (R38, R39), by low nibble. -/
def instrOf7 (lo : Nat) (sub : BitVec 4) (v : BitVec 80) : Except DecodeError Instr :=
  match lo with
  | 0 => if sub = 0#4 then .ok (.fork (getTD v) (getTB v) (getTPd v) (getTDisp v) (getTSlot v)) else if sub = 1#4 then .ok (.forkJ (getTD v) (getTA v) (getTB v) (getTPd v) (getTDisp v) (getTSlot v)) else .error .reservedSubf
  | 1 => if sub = 0#4 then .ok (.join (getTA v)) else .error .reservedSubf
  | 2 => if sub = 0#4 then .ok (.retire) else if sub = 1#4 then .ok (.retireJ (getTA v)) else .error .reservedSubf
  | 3 => if sub = 0#4 then .ok (.yield (getTA v)) else .error .reservedSubf
  | 4 => if sub = 0#4 then .ok (.send (getTA v) (getTB v)) else .error .reservedSubf
  | 5 => if sub = 0#4 then .ok (.waitf (getMD v) (getMBase v) (getMIdx v) (getMScl v) (getMSize v) (getMOff v)) else if sub = 1#4 then .ok (.waitfE (getMD v) (getMBase v) (getMIdx v) (getMScl v) (getMSize v) (getMOff v)) else .error .reservedSubf
  | 6 => if sub = 0#4 then .ok (.fill (getMD v) (getMBase v) (getMIdx v) (getMScl v) (getMSize v) (getMOff v)) else .error .reservedSubf
  | 7 => if sub = 0#4 then .ok (.empty (getMBase v) (getMIdx v) (getMScl v) (getMSize v) (getMOff v)) else .error .reservedSubf
  | 8 => if sub = 0#4 then .ok (.park (getTA v)) else if sub = 1#4 then .ok (.parkRel (getTA v)) else .error .reservedSubf
  | _ => .error .reservedOpcode

/-- Opcodes 0x80 to 0x8F (R38, R39), by low nibble. -/
def instrOf8 (lo : Nat) (sub : BitVec 4) (v : BitVec 80) : Except DecodeError Instr :=
  match lo with
  | 0 => if sub = 0#4 then .ok (.dqpush (getTB v) (getTPd v)) else .error .reservedSubf
  | 1 => if sub = 0#4 then .ok (.dqpop (getTD v) (getTPd v)) else .error .reservedSubf
  | 2 => if sub = 0#4 then .ok (.dqsplit (getTA v) (getTPd v) (getTDisp v) (getTSlot v)) else .error .reservedSubf
  | 3 => if sub = 0#4 then .ok (.dqsteal (getTD v) (getTPd v)) else if sub = 1#4 then .ok (.dqstealAt (getTD v) (getTA v) (getTPd v)) else .error .reservedSubf
  | 4 => if sub = 0#4 then .ok (.dqrun) else .error .reservedSubf
  | 5 => if sub = 0#4 then .ok (.launch (getTD v) (getTA v) (getTB v) (getTPd v)) else .error .reservedSubf
  | 6 => if sub = 0#4 then .ok (.lwait (getTD v) (getTA v)) else .error .reservedSubf
  | _ => .error .reservedOpcode

/-- Opcodes 0x90 to 0x9F (R38, R39), by low nibble. -/
def instrOf9 (lo : Nat) (sub : BitVec 4) (v : BitVec 80) : Except DecodeError Instr :=
  match lo with
  | 0 => if sub = 0#4 then .ok (.qalloc (getQPd v) (getQImm v)) else .error .reservedSubf
  | 1 => if sub = 0#4 then .ok (.qfree (getQImm v)) else .error .reservedSubf
  | 2 => if sub = 0#4 then .ok (.qlogAnd (getQQd v) (getQQa v) (getQQb v) (getQPd v)) else if sub = 1#4 then .ok (.qlogOr (getQQd v) (getQQa v) (getQQb v) (getQPd v)) else if sub = 2#4 then .ok (.qlogXor (getQQd v) (getQQa v) (getQQb v) (getQPd v)) else if sub = 3#4 then .ok (.qlogAndn (getQQd v) (getQQa v) (getQQb v) (getQPd v)) else if sub = 4#4 then .ok (.qlogCopy (getQQd v) (getQQa v) (getQPd v)) else if sub = 5#4 then .ok (.qlogClear (getQQd v) (getQPd v)) else if sub = 6#4 then .ok (.qlogFull (getQQd v) (getQPd v)) else if sub = 7#4 then .ok (.qlogNot (getQQd v) (getQQa v) (getQPd v)) else .error .reservedSubf
  | 3 => if sub = 0#4 then .ok (.qbitSet (getQQd v) (getQXa v) (getQPd v)) else if sub = 1#4 then .ok (.qbitClr (getQQd v) (getQXa v) (getQPd v)) else .error .reservedSubf
  | 4 => if sub = 0#4 then .ok (.qpop (getQQa v) (getQXa v) (getQPd v)) else .error .reservedSubf
  | 5 => if sub = 0#4 then .ok (.qcnt (getQQa v) (getQXa v) (getQPd v)) else .error .reservedSubf
  | 6 => if sub = 0#4 then .ok (.qtest (getQQa v) (getQXb v) (getQPd v)) else .error .reservedSubf
  | 7 => if sub = 0#4 then .ok (.qmask (getQQd v) (getQQa v) (getQPd v) (getQImm v)) else .error .reservedSubf
  | 8 => if sub = 0#4 then .ok (.qsplit (getQQd v) (getQQa v) (getQQb v) (getQPd v) (getQXa v)) else .error .reservedSubf
  | 9 => if sub = 0#4 then .ok (.arrive (getQQa v) (getQXa v) (getQXb v) (getQPd v)) else .error .reservedSubf
  | 10 => if sub = 0#4 then .ok (.depart (getQQa v) (getQXa v) (getQXb v) (getQPd v)) else if sub = 1#4 then .ok (.departW (getQQa v) (getQXa v) (getQXb v) (getQPd v)) else .error .reservedSubf
  | 11 => if sub = 0#4 then .ok (.qfork (getQQa v) (getQXa v) (getQXb v) (getQPd v) (getQImm v)) else .error .reservedSubf
  | 12 => if sub = 0#4 then .ok (.qaddr (getQXa v) (getQXb v)) else if sub = 1#4 then .ok (.qaddrQn (getQXa v) (getQXb v)) else .error .reservedSubf
  | 13 => if sub = 0#4 then .ok (.qeqEmpty (getQQa v) (getQPd v)) else if sub = 1#4 then .ok (.qeqEq (getQQa v) (getQQb v) (getQPd v)) else if sub = 2#4 then .ok (.qeqSub (getQQa v) (getQQb v) (getQPd v)) else if sub = 3#4 then .ok (.qeqDisj (getQQa v) (getQQb v) (getQPd v)) else .error .reservedSubf
  | 14 => if sub = 0#4 then .ok (.qmovTox (getQQa v) (getQXa v)) else if sub = 1#4 then .ok (.qmovFromx (getQQd v) (getQXa v)) else if sub = 2#4 then .ok (.qmovLd (getQQd v) (getQXa v) (getQImm v)) else if sub = 3#4 then .ok (.qmovSt (getQQa v) (getQXa v) (getQImm v)) else .error .reservedSubf
  | 15 => if sub = 0#4 then .ok (.qwin (getQXa v) (getQXb v)) else .error .reservedSubf
  | _ => .error .reservedOpcode

/-- Opcodes 0xA0 to 0xAF (R38, R39), by low nibble. -/
def instrOfA (lo : Nat) (sub : BitVec 4) (v : BitVec 80) : Except DecodeError Instr :=
  match lo with
  | 0 => if sub = 0#4 then .ok (.scfg (getSFs v) (getSXa v) (getSXb v) (getSLoops v) (getSDir v) (getSSpace v) (getSFmt v) (getSPd v)) else .error .reservedSubf
  | 1 => if sub = 0#4 then .ok (.scfgm (getSFs v) (getSDir v) (getSSpace v) (getSFmt v) (getSQs v) (getSPd v)) else .error .reservedSubf
  | 2 => if sub = 0#4 then .ok (.sen (getSMask v)) else .error .reservedSubf
  | 3 => if sub = 0#4 then .ok (.sdis (getSMask v)) else .error .reservedSubf
  | 4 => if sub = 0#4 then .ok (.swait (getSMask v)) else .error .reservedSubf
  | 5 => if sub = 0#4 then .ok (.plane (getVFd v) (getVFa v) (getVFmt v)) else .error .reservedSubf
  | 6 => if sub = 0#4 then .ok (.unplane (getVFd v) (getVFa v) (getVFmt v)) else .error .reservedSubf
  | 7 => if sub = 0#4 then .ok (.spack (getVFd v) (getVFa v) (getVFb v) (getVFmt v) (getVPd v)) else if sub = 1#4 then .ok (.spackChk (getVFd v) (getVFa v) (getVFmt v) (getVPd v)) else .error .reservedSubf
  | 8 => if sub = 0#4 then .ok (.nfscan (getVFd v) (getVFa v) (getVFmt v) (getVPd v)) else .error .reservedSubf
  | _ => .error .reservedOpcode

/-- Opcodes 0xB0 to 0xBF (R38, R39), by low nibble. -/
def instrOfB (lo : Nat) (sub : BitVec 4) (v : BitVec 80) : Except DecodeError Instr :=
  match lo with
  | 0 => if sub = 0#4 then .ok (.vadd (getVFd v) (getVFa v) (getVFb v) (getVFmt v) (getVRnd v) (getVBc v)) else .error .reservedSubf
  | 1 => if sub = 0#4 then .ok (.vsub (getVFd v) (getVFa v) (getVFb v) (getVFmt v) (getVRnd v) (getVBc v)) else .error .reservedSubf
  | 2 => if sub = 0#4 then .ok (.vmul (getVFd v) (getVFa v) (getVFb v) (getVFmt v) (getVRnd v) (getVBc v)) else .error .reservedSubf
  | 3 => if sub = 0#4 then .ok (.vfma (getVFd v) (getVFa v) (getVFb v) (getVFc v) (getVFmt v) (getVRnd v) (getVBc v)) else if sub = 1#4 then .ok (.vfmaMs (getVFd v) (getVFa v) (getVFb v) (getVFc v) (getVFmt v) (getVRnd v) (getVBc v)) else if sub = 2#4 then .ok (.vfmaNma (getVFd v) (getVFa v) (getVFb v) (getVFc v) (getVFmt v) (getVRnd v) (getVBc v)) else if sub = 3#4 then .ok (.vfmaNms (getVFd v) (getVFa v) (getVFb v) (getVFc v) (getVFmt v) (getVRnd v) (getVBc v)) else .error .reservedSubf
  | 4 => if sub = 0#4 then .ok (.vmin (getVFd v) (getVFa v) (getVFb v) (getVFmt v) (getVBc v)) else .error .reservedSubf
  | 5 => if sub = 0#4 then .ok (.vmax (getVFd v) (getVFa v) (getVFb v) (getVFmt v) (getVBc v)) else .error .reservedSubf
  | 6 => if sub = 0#4 then .ok (.vsgnCpy (getVFd v) (getVFa v) (getVFb v) (getVFmt v) (getVBc v)) else if sub = 1#4 then .ok (.vsgnNeg (getVFd v) (getVFa v) (getVFb v) (getVFmt v) (getVBc v)) else if sub = 2#4 then .ok (.vsgnXor (getVFd v) (getVFa v) (getVFb v) (getVFmt v) (getVBc v)) else .error .reservedSubf
  | 7 => .ok (.vcmp sub (getVFd v) (getVFa v) (getVFb v) (getVFmt v) (getVPd v) (getVBc v) (getVImm v))
  | 8 => if sub = 0#4 then .ok (.vsel (getVFd v) (getVFa v) (getVFb v) (getVFc v) (getVFmt v) (getVBc v)) else .error .reservedSubf
  | 9 => if sub = 0#4 then .ok (.vdiv (getVFd v) (getVFa v) (getVFb v) (getVFmt v) (getVRnd v) (getVBc v)) else .error .reservedSubf
  | 10 => if sub = 0#4 then .ok (.vsqrt (getVFd v) (getVFa v) (getVFmt v) (getVRnd v)) else .error .reservedSubf
  | 11 => if sub = 0#4 then .ok (.vredSum (getVFd v) (getVFa v) (getVFmt v) (getVRnd v)) else if sub = 1#4 then .ok (.vredMin (getVFd v) (getVFa v) (getVFmt v) (getVRnd v)) else if sub = 2#4 then .ok (.vredMax (getVFd v) (getVFa v) (getVFmt v) (getVRnd v)) else .error .reservedSubf
  | 12 => if sub = 0#4 then .ok (.vdot (getVFd v) (getVFa v) (getVFb v) (getVFmt v) (getVRnd v) (getVBc v)) else .error .reservedSubf
  | 13 => if sub = 0#4 then .ok (.vmov (getVFd v) (getVFa v) (getVFmt v)) else .error .reservedSubf
  | 14 => if sub = 0#4 then .ok (.vsclI (getVFd v) (getVFa v) (getVFmt v) (getVRnd v) (getVImm v)) else if sub = 1#4 then .ok (.vsclE (getVFd v) (getVFa v) (getVFb v) (getVFmt v) (getVRnd v) (getVBc v)) else .error .reservedSubf
  | 15 => if sub = 0#4 then .ok (.vcls (getVFd v) (getVFa v) (getVFmt v) (getVPd v) (getVImm v)) else .error .reservedSubf
  | _ => .error .reservedOpcode

/-- Opcodes 0xC0 to 0xCF (R38, R39), by low nibble. -/
def instrOfC (lo : Nat) (sub : BitVec 4) (v : BitVec 80) : Except DecodeError Instr :=
  match lo with
  | 0 => if sub = 0#4 then .ok (.vexp (getVFd v) (getVFa v) (getVFmt v)) else .error .reservedSubf
  | 1 => if sub = 0#4 then .ok (.vlog (getVFd v) (getVFa v) (getVFmt v)) else .error .reservedSubf
  | 2 => if sub = 0#4 then .ok (.vrcp (getVFd v) (getVFa v) (getVFmt v)) else .error .reservedSubf
  | 3 => if sub = 0#4 then .ok (.vrsq (getVFd v) (getVFa v) (getVFmt v)) else .error .reservedSubf
  | 4 => if sub = 0#4 then .ok (.vsinpi (getVFd v) (getVFa v) (getVFmt v)) else .error .reservedSubf
  | 5 => if sub = 0#4 then .ok (.vcospi (getVFd v) (getVFa v) (getVFmt v)) else .error .reservedSubf
  | 6 => if sub = 0#4 then .ok (.vtanh (getVFd v) (getVFa v) (getVFmt v)) else .error .reservedSubf
  | 8 => .ok (.cvt sub (getVFd v) (getVFa v) (getVFmt v) (getVRnd v) (getVImm v))
  | 9 => .ok (.cvti sub (getVFd v) (getVFa v) (getVFmt v) (getVRnd v) (getVImm v))
  | 10 => if (getVImm v).getLsbD 2 then .ok (.packStrm sub (getVFd v) (getVFa v) (getVFmt v) (getVRnd v) (getVImm v)) else .ok (.pack sub (getVFd v) (getVFa v) (getVFb v) (getVFmt v) (getVRnd v) (getVImm v))
  | 11 => if (getVImm v).getLsbD 2 then .ok (.unpkStrm sub (getVFd v) (getVFa v) (getVFmt v) (getVRnd v) (getVImm v)) else if (getVImm v).getLsbD 1 then .ok (.unpkHi sub (getVFd v) (getVFa v) (getVFmt v) (getVRnd v) (getVImm v)) else .ok (.unpk sub (getVFd v) (getVFa v) (getVFmt v) (getVRnd v) (getVImm v))
  | 12 => if sub = 0#4 then .ok (.viaddAdd (getVFd v) (getVFa v) (getVFb v) (getVFmt v) (getVBc v)) else if sub = 1#4 then .ok (.viaddSub (getVFd v) (getVFa v) (getVFb v) (getVFmt v) (getVBc v)) else if sub = 2#4 then .ok (.viaddAdds (getVFd v) (getVFa v) (getVFb v) (getVFmt v) (getVBc v)) else if sub = 3#4 then .ok (.viaddSubs (getVFd v) (getVFa v) (getVFb v) (getVFmt v) (getVBc v)) else if sub = 4#4 then .ok (.viaddMin (getVFd v) (getVFa v) (getVFb v) (getVFmt v) (getVBc v)) else if sub = 5#4 then .ok (.viaddMax (getVFd v) (getVFa v) (getVFb v) (getVFmt v) (getVBc v)) else if sub = 6#4 then .ok (.viaddAbsd (getVFd v) (getVFa v) (getVFb v) (getVFmt v) (getVBc v)) else .error .reservedSubf
  | 13 => if sub = 0#4 then .ok (.vimulLo (getVFd v) (getVFa v) (getVFb v) (getVFmt v) (getVBc v)) else if sub = 1#4 then .ok (.vimulHi (getVFd v) (getVFa v) (getVFb v) (getVFmt v) (getVBc v)) else if sub = 2#4 then .ok (.vimulHiu (getVFd v) (getVFa v) (getVFb v) (getVFmt v) (getVBc v)) else .error .reservedSubf
  | 14 => if sub = 0#4 then .ok (.vlogicAnd (getVFd v) (getVFa v) (getVFb v) (getVFmt v) (getVBc v)) else if sub = 1#4 then .ok (.vlogicOr (getVFd v) (getVFa v) (getVFb v) (getVFmt v) (getVBc v)) else if sub = 2#4 then .ok (.vlogicXor (getVFd v) (getVFa v) (getVFb v) (getVFmt v) (getVBc v)) else if sub = 3#4 then .ok (.vlogicAndn (getVFd v) (getVFa v) (getVFb v) (getVFmt v) (getVBc v)) else if sub = 4#4 then .ok (.vlogicNot (getVFd v) (getVFa v) (getVFmt v)) else .error .reservedSubf
  | 15 => if sub = 0#4 then .ok (.vshfSll (getVFd v) (getVFa v) (getVFb v) (getVFmt v) (getVBc v)) else if sub = 1#4 then .ok (.vshfSrl (getVFd v) (getVFa v) (getVFb v) (getVFmt v) (getVBc v)) else if sub = 2#4 then .ok (.vshfSra (getVFd v) (getVFa v) (getVFb v) (getVFmt v) (getVBc v)) else if sub = 3#4 then .ok (.vshfRot (getVFd v) (getVFa v) (getVFb v) (getVFmt v) (getVBc v)) else .error .reservedSubf
  | _ => .error .reservedOpcode

/-- Opcodes 0xD0 to 0xDF (R38, R39), by low nibble. -/
def instrOfD (lo : Nat) (sub : BitVec 4) (v : BitVec 80) : Except DecodeError Instr :=
  match lo with
  | 0 => if sub = 0#4 then .ok (.cclaim (getCXd v)) else .error .reservedSubf
  | 1 => if sub = 0#4 then .ok (.crel) else .error .reservedSubf
  | 2 => if sub = 0#4 then .ok (.ccfg (getCXd v)) else .error .reservedSubf
  | 3 => if sub = 0#4 then .ok (.cmul (getCXa v) (getCXb v) (getCXg v) (getCXd v) (getCXn v) (getCAcb v) (getCSpa v) (getCZa v)) else .error .reservedSubf
  | 4 => if sub = 0#4 then .ok (.cprom (getCXa v) (getCXb v) (getCXd v) (getCXn v) (getCAcb v) (getCNsc v)) else .error .reservedSubf
  | 5 => if sub = 0#4 then .ok (.czero (getCXn v) (getCAcb v)) else .error .reservedSubf
  | 6 => if sub = 0#4 then .ok (.cstat (getCXd v)) else if sub = 1#4 then .ok (.cstatClr (getCXd v)) else .error .reservedSubf
  | 7 => if sub = 0#4 then .ok (.cwait (getCXa v)) else .error .reservedSubf
  | 8 => if sub = 0#4 then .ok (.cstorAcc (getCXa v) (getCXn v) (getCAcb v)) else if sub = 1#4 then .ok (.cstorL0 (getCXa v) (getCXn v) (getCAcb v)) else if sub = 2#4 then .ok (.cstorL1 (getCXa v) (getCXn v) (getCAcb v)) else if sub = 3#4 then .ok (.cstorCnt (getCXa v) (getCXn v) (getCAcb v)) else .error .reservedSubf
  | 9 => if sub = 0#4 then .ok (.cloadAcc (getCXa v) (getCXn v) (getCAcb v)) else if sub = 1#4 then .ok (.cloadL0 (getCXa v) (getCXn v) (getCAcb v)) else if sub = 2#4 then .ok (.cloadL1 (getCXa v) (getCXn v) (getCAcb v)) else if sub = 3#4 then .ok (.cloadCnt (getCXa v) (getCXn v) (getCAcb v)) else .error .reservedSubf
  | 10 => if sub = 0#4 then .ok (.cring (getCXa v) (getCXn v)) else .error .reservedSubf
  | 11 => if sub = 0#4 then .ok (.cretry (getCXa v) (getCXb v)) else .error .reservedSubf
  | _ => .error .reservedOpcode

/-- Opcodes 0xE0 to 0xEF (R38, R39), by low nibble. -/
def instrOfE (lo : Nat) (sub : BitVec 4) (v : BitVec 80) : Except DecodeError Instr :=
  match lo with
  | 0 => if sub = 0#4 then .ok (.cqput (getHD v) (getHA v) (getHB v) (getHPd v)) else .error .reservedSubf
  | 1 => if sub = 0#4 then .ok (.hstat (getHD v) (getHHn v)) else .error .reservedSubf
  | 2 => if sub = 0#4 then .ok (.hwait (getHD v) (getHHn v) (getHSmask v)) else .error .reservedSubf
  | 3 => if sub = 0#4 then .ok (.hsetDrn (getHHn v) (getHPd v)) else if sub = 1#4 then .ok (.hsetFree (getHHn v) (getHPd v)) else .error .reservedSubf
  | 4 => if sub = 0#4 then .ok (.halloc (getHA v) (getHB v) (getHHn v) (getHPd v)) else .error .reservedSubf
  | 5 => if sub = 0#4 then .ok (.hfree (getHHn v) (getHPd v)) else .error .reservedSubf
  | 6 => if sub = 0#4 then .ok (.cqinitBind (getHA v) (getHB v) (getHPd v)) else if sub = 1#4 then .ok (.cqinitUnb (getHA v) (getHPd v)) else .error .reservedSubf
  | _ => .error .reservedOpcode

/-- Opcodes 0xF0 to 0xFF (R38, R39), by low nibble. -/
noncomputable def instrOfF (lo : Nat) (sub : BitVec 4) (v : BitVec 80) : Except DecodeError Instr :=
  match lo with
  | 0 => if sub = 0#4 then .ok (.trecv (getXD v)) else if sub = 1#4 then .ok (.trecvTry (getXD v) (getXPd v)) else .error .reservedSubf
  | 1 => if sub = 0#4 then .ok (.tread (getXD v) (getXA v) (getXSreg v) (getXPd v) (getXImm v)) else .error .reservedSubf
  | 2 => if sub = 0#4 then .ok (.twrite (getXA v) (getXB v) (getXSreg v) (getXPd v) (getXImm v)) else .error .reservedSubf
  | 3 => if sub = 0#4 then .ok (.tresume (getXA v) (getXPd v)) else if sub = 1#4 then .ok (.tresumeNext (getXA v) (getXPd v)) else .error .reservedSubf
  | 4 => if sub = 0#4 then .ok (.tkill (getXA v) (getXPd v)) else .error .reservedSubf
  | 5 => if sub = 0#4 then .ok (.xlinvVa (getXA v) (getXB v)) else if sub = 1#4 then .ok (.xlinvAs (getXA v)) else if sub = 2#4 then .ok (.xlinvAll) else .error .reservedSubf
  | 6 => if sub = 0#4 then .ok (.xlsync) else .error .reservedSubf
  | 7 => if sub = 0#4 then .ok (.ckptTake (getXA v) (getXPd v)) else if sub = 1#4 then .ok (.ckptRoll (getXA v) (getXPd v)) else if sub = 2#4 then .ok (.ckptStat (getXD v) (getXA v) (getXPd v)) else .error .reservedSubf
  | 8 => if sub = 0#4 then .ok (.bflipHost (getXA v) (getXPd v)) else if sub = 1#4 then .ok (.bflipDev (getXA v) (getXPd v)) else if sub = 2#4 then .ok (.bflipRd (getXD v) (getXA v)) else .error .reservedSubf
  | 9 => if sub = 0#4 then .ok (.keyldInst (getXD v) (getXA v) (getXB v) (getXPd v)) else if sub = 1#4 then .ok (.keyldClr (getXA v) (getXPd v)) else if sub = 2#4 then .ok (.keyldStat (getXD v) (getXA v) (getXPd v)) else .error .reservedSubf
  | 10 => if sub = 0#4 then .ok (.energyRd (getXD v) (getXA v) (getXPd v)) else if sub = 1#4 then .ok (.energySet (getXA v) (getXB v) (getXPd v)) else .error .reservedSubf
  | 11 => if sub = 0#4 then .ok (.gauge (getXD v) (getXA v) (getXPd v)) else .error .reservedSubf
  | 12 => if sub = 0#4 then .ok (.scopt (getXD v) (getXA v) (getXB v) (getXPd v)) else if sub = 1#4 then .ok (.scoptCnt (getXD v) (getXA v)) else .error .reservedSubf
  | 13 => if sub = 0#4 then .ok (.partctlCreate (getXD v) (getXA v) (getXPd v)) else if sub = 1#4 then .ok (.partctlDestroy (getXA v) (getXPd v)) else if sub = 2#4 then .ok (.partctlStat (getXD v) (getXA v)) else .error .reservedSubf
  | 15 => .ok .ill
  | _ => .error .reservedOpcode

/-- The instruction of an opcode, SUBF and bits 79:0 (R38, R39, R40). -/
noncomputable def instrOf (opc : BitVec 8) (sub : BitVec 4) (v : BitVec 80) : Except DecodeError Instr :=
  match opc.toNat / 16 with
  | 0 => instrOf0 (opc.toNat % 16) sub v
  | 1 => instrOf1 (opc.toNat % 16) sub v
  | 2 => instrOf2 (opc.toNat % 16) sub v
  | 3 => instrOf3 (opc.toNat % 16) sub v
  | 4 => instrOf4 (opc.toNat % 16) sub v
  | 5 => instrOf5 (opc.toNat % 16) sub v
  | 6 => instrOf6 (opc.toNat % 16) sub v
  | 7 => instrOf7 (opc.toNat % 16) sub v
  | 8 => instrOf8 (opc.toNat % 16) sub v
  | 9 => instrOf9 (opc.toNat % 16) sub v
  | 10 => instrOfA (opc.toNat % 16) sub v
  | 11 => instrOfB (opc.toNat % 16) sub v
  | 12 => instrOfC (opc.toNat % 16) sub v
  | 13 => instrOfD (opc.toNat % 16) sub v
  | 14 => instrOfE (opc.toNat % 16) sub v
  | _ => instrOfF (opc.toNat % 16) sub v

/-- The field values an instruction admits (R40): value limits of the code tables and of the entries.
An event is no instruction of a slot and is never admitted. -/
def operandsOk : Instr → Bool
  | .nop => true
  | .brk _ => true
  | .svc _ => true
  | .trap sub _ _ _ => decide (sub.toNat ≤ 11)
  | .ill => true
  | .mfs _ sreg => decide ((sregReadable sreg) ∧ (sreg ≠ 0x011#12))
  | .mfsFpsr _ => true
  | .mts _ sreg => decide (sreg = 0x020#12 ∨ sreg = 0x021#12 ∨ sreg = 0x022#12 ∨ sreg = 0x023#12)
  | .mtsFpcr _ => true
  | .mtsFpsr _ => true
  | .mtsPriv _ => true
  | .mtsRseq _ => true
  | .ifence => true
  | .rand _ => true
  | .randR16 _ => true
  | .add _ _ _ _ => true
  | .sub _ _ _ _ => true
  | .mul _ _ _ _ => true
  | .mulh _ _ _ w => decide (w.getLsbD 3 = false)
  | .div _ _ _ _ => true
  | .rem _ _ _ w => decide (w.getLsbD 3 = false)
  | .and _ _ _ w => decide (w.getLsbD 3 = false)
  | .or _ _ _ w => decide (w.getLsbD 3 = false)
  | .xor _ _ _ w => decide (w.getLsbD 3 = false)
  | .andn _ _ _ w => decide (w.getLsbD 3 = false)
  | .min _ _ _ w => decide (w.getLsbD 3 = false)
  | .max _ _ _ w => decide (w.getLsbD 3 = false)
  | .sel _ _ _ c w => decide ((w = 3#4) ∧ (c.toNat < 8))
  | .madd _ _ _ _ _ => true
  | .adds sub _ _ _ _ => decide (sub.toNat ≤ 3)
  | .absd _ _ _ w => decide (w.getLsbD 3 = false)
  | .addi _ _ _ _ => true
  | .muli _ _ _ _ => true
  | .andi _ _ w _ => decide (w.getLsbD 3 = false)
  | .ori _ _ w _ => decide (w.getLsbD 3 = false)
  | .xori _ _ w _ => decide (w.getLsbD 3 = false)
  | .ldi _ w _ => decide (w = 3#4)
  | .lea _ w _ => decide (w = 3#4)
  | .sll _ _ _ w => decide (w.getLsbD 3 = false)
  | .srl _ _ _ w => decide (w.getLsbD 3 = false)
  | .sra _ _ _ w => decide (w.getLsbD 3 = false)
  | .slli _ _ w imm => decide ((w.getLsbD 3 = false) ∧ (imm.toNat < 8 * 2 ^ (w.toNat % 4)))
  | .srli _ _ w imm => decide ((w.getLsbD 3 = false) ∧ (imm.toNat < 8 * 2 ^ (w.toNat % 4)))
  | .srai _ _ w imm => decide ((w.getLsbD 3 = false) ∧ (imm.toNat < 8 * 2 ^ (w.toNat % 4)))
  | .rot _ _ _ w => decide (w.getLsbD 3 = false)
  | .clz _ _ w => decide (w.getLsbD 2 = false ∧ w.getLsbD 3 = false)
  | .ctz _ _ w => decide (w.getLsbD 2 = false ∧ w.getLsbD 3 = false)
  | .popc _ _ w => decide (w.getLsbD 2 = false ∧ w.getLsbD 3 = false)
  | .brev _ _ w => decide (w.getLsbD 2 = false ∧ w.getLsbD 3 = false)
  | .bfx _ _ _ _ w => decide (w = 3#4 ∨ w = 7#4)
  | .bfi _ _ _ _ w => decide (w = 3#4)
  | .xfold _ _ _ _ => true
  | .cmp sub d _ _ w => decide ((sub.toNat ≤ 11) ∧ (d.toNat < 8) ∧ (w.getLsbD 2 = false ∧ w.getLsbD 3 = false))
  | .cmpi sub d _ w _ => decide ((sub.toNat ≤ 11) ∧ (d.toNat < 8) ∧ (w.getLsbD 2 = false ∧ w.getLsbD 3 = false))
  | .plog sub d a b => decide ((sub.toNat ≤ 7) ∧ (d.toNat < 8) ∧ (a.toNat < 8) ∧ (b.toNat < 8))
  | .pmovTox _ => true
  | .pmovFromx _ => true
  | .pmovNz d _ => decide (d.toNat < 8)
  | .br _ _ => true
  | .call _ _ => true
  | .callR _ => true
  | .ret _ => true
  | .jmp _ => true
  | .loop a _ _ => decide (a ≠ 0#6)
  | .brz _ cond _ _ => decide (cond.toNat ≤ 11)
  | .brcmp _ _ cond _ _ => decide (cond.toNat ≤ 11)
  | .ld sub _ _ _ _ size ord scope hint _ => decide ((sub.toNat ≤ 1) ∧ (size.toNat ≤ 3) ∧ ((sub = 1#4 → size.toNat ≤ 2)) ∧ (ord = 0#3 ∨ ord = 1#3 ∨ ord = 2#3 ∨ ord = 6#3) ∧ (hint.toNat ≤ 2) ∧ ((ord = 0#3 → scope = 0#3)) ∧ (scope.toNat ≤ 6))
  | .st _ _ _ _ size ord scope hint _ => decide ((size.toNat ≤ 3) ∧ (ord = 0#3 ∨ ord = 1#3 ∨ ord = 3#3 ∨ ord = 5#3 ∨ ord = 6#3) ∧ (hint = 0#3 ∨ hint = 2#3) ∧ ((ord = 0#3 → scope = 0#3)) ∧ (scope.toNat ≤ 6))
  | .ldf d _ _ _ size ord scope hint _ => decide ((d.toNat < 32) ∧ (1 ≤ size.toNat ∧ size.toNat ≤ 3) ∧ (ord = 0#3 ∨ ord = 1#3 ∨ ord = 2#3 ∨ ord = 6#3) ∧ (hint.toNat ≤ 2) ∧ ((ord = 0#3 → scope = 0#3)) ∧ (scope.toNat ≤ 6))
  | .stf d _ _ _ size ord scope hint _ => decide ((d.toNat < 32) ∧ (1 ≤ size.toNat ∧ size.toNat ≤ 3) ∧ (ord = 0#3 ∨ ord = 1#3 ∨ ord = 3#3 ∨ ord = 5#3 ∨ ord = 6#3) ∧ (hint = 0#3 ∨ hint = 2#3) ∧ ((ord = 0#3 → scope = 0#3)) ∧ (scope.toNat ≤ 6))
  | .ldp d _ _ _ size ord scope hint _ => decide ((d.toNat ≤ 62) ∧ (size = 4#3) ∧ (ord = 0#3 ∨ ord = 1#3 ∨ ord = 2#3 ∨ ord = 6#3) ∧ (hint.toNat ≤ 2) ∧ ((ord = 0#3 → scope = 0#3)) ∧ (scope.toNat ≤ 6))
  | .stp d _ _ _ size ord scope hint _ => decide ((d.toNat ≤ 62) ∧ (size = 4#3) ∧ (ord = 0#3 ∨ ord = 1#3 ∨ ord = 3#3 ∨ ord = 5#3 ∨ ord = 6#3) ∧ (hint = 0#3 ∨ hint = 2#3) ∧ ((ord = 0#3 → scope = 0#3)) ∧ (scope.toNat ≤ 6))
  | .ldb sub _ _ _ _ _ _ _ => decide (sub.toNat ≤ 1)
  | .stb _ _ _ _ _ _ _ => true
  | .prefL1 _ _ _ hint _ => decide (hint.toNat ≤ 1)
  | .prefL2 _ _ _ hint _ => decide (hint.toNat ≤ 1)
  | .drain => true
  | .drainL _ _ _ _ => true
  | .amoAdd _ _ _ size ord scope _ => decide ((size = 2#3 ∨ size = 3#3) ∧ (1 ≤ ord.toNat ∧ ord.toNat ≤ 6) ∧ (scope.toNat ≤ 6))
  | .amoAnd _ _ _ size ord scope _ => decide ((size = 2#3 ∨ size = 3#3) ∧ (1 ≤ ord.toNat ∧ ord.toNat ≤ 6) ∧ (scope.toNat ≤ 6))
  | .amoOr _ _ _ size ord scope _ => decide ((size = 2#3 ∨ size = 3#3) ∧ (1 ≤ ord.toNat ∧ ord.toNat ≤ 6) ∧ (scope.toNat ≤ 6))
  | .amoXor _ _ _ size ord scope _ => decide ((size = 2#3 ∨ size = 3#3) ∧ (1 ≤ ord.toNat ∧ ord.toNat ≤ 6) ∧ (scope.toNat ≤ 6))
  | .amoSmin _ _ _ size ord scope _ => decide ((size = 2#3 ∨ size = 3#3) ∧ (1 ≤ ord.toNat ∧ ord.toNat ≤ 6) ∧ (scope.toNat ≤ 6))
  | .amoSmax _ _ _ size ord scope _ => decide ((size = 2#3 ∨ size = 3#3) ∧ (1 ≤ ord.toNat ∧ ord.toNat ≤ 6) ∧ (scope.toNat ≤ 6))
  | .amoUmin _ _ _ size ord scope _ => decide ((size = 2#3 ∨ size = 3#3) ∧ (1 ≤ ord.toNat ∧ ord.toNat ≤ 6) ∧ (scope.toNat ≤ 6))
  | .amoUmax _ _ _ size ord scope _ => decide ((size = 2#3 ∨ size = 3#3) ∧ (1 ≤ ord.toNat ∧ ord.toNat ≤ 6) ∧ (scope.toNat ≤ 6))
  | .amoSwap _ _ _ size ord scope _ => decide ((size = 2#3 ∨ size = 3#3) ∧ (1 ≤ ord.toNat ∧ ord.toNat ≤ 6) ∧ (scope.toNat ≤ 6))
  | .cas _ _ _ size ord scope _ => decide ((size = 2#3 ∨ size = 3#3) ∧ (1 ≤ ord.toNat ∧ ord.toNat ≤ 6) ∧ (scope.toNat ≤ 6))
  | .amofAdd d _ idx size ord scope _ => decide ((size = 2#3) ∧ (1 ≤ ord.toNat ∧ ord.toNat ≤ 6) ∧ (scope.toNat ≤ 6) ∧ (d.toNat < 32) ∧ (idx.toNat < 32))
  | .amofMin d _ idx size ord scope _ => decide ((size = 2#3) ∧ (1 ≤ ord.toNat ∧ ord.toNat ≤ 6) ∧ (scope.toNat ≤ 6) ∧ (d.toNat < 32) ∧ (idx.toNat < 32))
  | .amofMax d _ idx size ord scope _ => decide ((size = 2#3) ∧ (1 ≤ ord.toNat ∧ ord.toNat ≤ 6) ∧ (scope.toNat ≤ 6) ∧ (d.toNat < 32) ∧ (idx.toNat < 32))
  | .fence ord scope => decide ((2 ≤ ord.toNat ∧ ord.toNat ≤ 6) ∧ (scope.toNat ≤ 6))
  | .barw _ _ _ _ size ord scope _ => decide ((size = 3#3) ∧ (ord = 4#3) ∧ (scope.toNat ≤ 6))
  | .waitv sub _ _ _ size ord scope _ => decide ((sub.toNat ≤ 11) ∧ (size = 2#3 ∨ size = 3#3) ∧ (ord = 1#3 ∨ ord = 2#3) ∧ (scope.toNat ≤ 6))
  | .fork _ b _ _ _ => decide (b.toNat ≤ 59)
  | .forkJ _ a b _ _ _ => decide ((b.toNat ≤ 59) ∧ (a ≠ 0#6))
  | .join _ => true
  | .retire => true
  | .retireJ a => decide (a ≠ 0#6)
  | .yield _ => true
  | .park _ => true
  | .parkRel _ => true
  | .send _ b => decide (1 ≤ b.toNat ∧ b.toNat ≤ 56)
  | .waitf _ _ _ _ size _ => decide (size = 3#3)
  | .waitfE _ _ _ _ size _ => decide (size = 3#3)
  | .fill _ _ _ _ size _ => decide (size = 3#3)
  | .empty _ _ _ size _ => decide (size = 3#3)
  | .dqpush b _ => decide (1 ≤ b.toNat ∧ b.toNat ≤ 56)
  | .dqpop d _ => decide (1 ≤ d.toNat ∧ d.toNat ≤ 56)
  | .dqsplit a _ _ _ => decide (1 ≤ a.toNat ∧ a.toNat ≤ 60)
  | .dqsteal d _ => decide (1 ≤ d.toNat ∧ d.toNat ≤ 56)
  | .dqstealAt d _ _ => decide (1 ≤ d.toNat ∧ d.toNat ≤ 56)
  | .dqrun => true
  | .launch _ _ b _ => decide (1 ≤ b.toNat ∧ b.toNat ≤ 56)
  | .lwait _ _ => true
  | .qalloc _ imm => decide (imm.toNat ≤ 8)
  | .qfree imm => decide (imm.toNat ≤ 8)
  | .qlogAnd _ _ _ _ => true
  | .qlogOr _ _ _ _ => true
  | .qlogXor _ _ _ _ => true
  | .qlogAndn _ _ _ _ => true
  | .qlogCopy _ _ _ => true
  | .qlogClear _ _ => true
  | .qlogFull _ _ => true
  | .qlogNot _ _ _ => true
  | .qbitSet _ _ _ => true
  | .qbitClr _ _ _ => true
  | .qpop _ _ _ => true
  | .qcnt _ _ _ => true
  | .qtest _ _ _ => true
  | .qeqEmpty _ _ => true
  | .qeqEq _ _ _ => true
  | .qeqSub _ _ _ => true
  | .qeqDisj _ _ _ => true
  | .qaddr _ _ => true
  | .qaddrQn _ _ => true
  | .qwin _ _ => true
  | .qmask _ _ _ imm => decide (imm.toNat ≤ 7)
  | .qsplit _ _ _ _ _ => true
  | .qmovTox _ xa => decide (1 ≤ xa.toNat ∧ xa.toNat ≤ 60)
  | .qmovFromx _ xa => decide (1 ≤ xa.toNat ∧ xa.toNat ≤ 60)
  | .qmovLd _ _ _ => true
  | .qmovSt _ _ _ => true
  | .arrive _ _ _ _ => true
  | .depart _ _ _ _ => true
  | .departW _ _ _ _ => true
  | .qfork _ _ _ _ _ => true
  | .scfg fs _ xb loops _ _ fmt _ => decide ((fs.toNat < 8) ∧ (streamFmt fmt) ∧ (1 ≤ xb.toNat ∧ xb.toNat ≤ 64 - 2 * (loops.toNat + 1)))
  | .scfgm fs _ _ fmt _ _ => decide ((fs.toNat < 8) ∧ (streamFmt fmt))
  | .sen mask => decide (mask ≠ 0#8)
  | .sdis mask => decide (mask ≠ 0#8)
  | .swait mask => decide (mask ≠ 0#8)
  | .vadd _ _ _ fmt rnd bc => decide ((fmt.toNat ≤ 2) ∧ (rnd.toNat ≤ 6) ∧ (bc.getLsbD 1 = false))
  | .vsub _ _ _ fmt rnd bc => decide ((fmt.toNat ≤ 2) ∧ (rnd.toNat ≤ 6) ∧ (bc.getLsbD 1 = false))
  | .vmul _ _ _ fmt rnd bc => decide ((fmt.toNat ≤ 2) ∧ (rnd.toNat ≤ 6) ∧ (bc.getLsbD 1 = false))
  | .vfma _ _ _ _ fmt rnd _ => decide ((fmt.toNat ≤ 2) ∧ (rnd.toNat ≤ 6))
  | .vfmaMs _ _ _ _ fmt rnd _ => decide ((fmt.toNat ≤ 2) ∧ (rnd.toNat ≤ 6))
  | .vfmaNma _ _ _ _ fmt rnd _ => decide ((fmt.toNat ≤ 2) ∧ (rnd.toNat ≤ 6))
  | .vfmaNms _ _ _ _ fmt rnd _ => decide ((fmt.toNat ≤ 2) ∧ (rnd.toNat ≤ 6))
  | .vmin _ _ _ fmt bc => decide ((fmt.toNat ≤ 2) ∧ (bc.getLsbD 1 = false))
  | .vmax _ _ _ fmt bc => decide ((fmt.toNat ≤ 2) ∧ (bc.getLsbD 1 = false))
  | .vsgnCpy _ _ _ fmt bc => decide ((fmt.toNat ≤ 2) ∧ (bc.getLsbD 1 = false))
  | .vsgnNeg _ _ _ fmt bc => decide ((fmt.toNat ≤ 2) ∧ (bc.getLsbD 1 = false))
  | .vsgnXor _ _ _ fmt bc => decide ((fmt.toNat ≤ 2) ∧ (bc.getLsbD 1 = false))
  | .vcmp sub fd _ _ fmt _ bc imm => decide ((sub.toNat ≤ 7) ∧ (fmt.toNat ≤ 2) ∧ (bc.getLsbD 1 = false) ∧ (imm.toNat ≤ 1) ∧ ((imm = 0#32 → fd = 0#5)))
  | .vsel _ _ _ _ fmt _ => decide (fmt.toNat ≤ 2 ∨ fmt = 6#4 ∨ fmt = 9#4)
  | .vdiv _ _ _ fmt rnd bc => decide ((fmt.toNat ≤ 2) ∧ (rnd.toNat ≤ 6) ∧ (bc.getLsbD 1 = false))
  | .vsqrt _ _ fmt rnd => decide ((fmt.toNat ≤ 2) ∧ (rnd.toNat ≤ 6))
  | .vredSum _ _ fmt rnd => decide ((fmt.toNat ≤ 2) ∧ (rnd.toNat ≤ 6))
  | .vredMin _ _ fmt rnd => decide ((fmt.toNat ≤ 2) ∧ (rnd.toNat ≤ 6))
  | .vredMax _ _ fmt rnd => decide ((fmt.toNat ≤ 2) ∧ (rnd.toNat ≤ 6))
  | .vdot _ _ _ fmt rnd bc => decide ((fmt.toNat ≤ 2) ∧ (rnd.toNat ≤ 6) ∧ (bc.getLsbD 1 = false))
  | .vmov _ _ fmt => decide (fmt.toNat ≤ 2 ∨ fmt = 6#4 ∨ fmt = 9#4)
  | .vsclI _ _ fmt rnd _ => decide ((fmt.toNat ≤ 2) ∧ (rnd.toNat ≤ 6))
  | .vsclE _ _ _ fmt rnd bc => decide ((fmt.toNat ≤ 2) ∧ (rnd.toNat ≤ 6) ∧ (bc.getLsbD 1 = false))
  | .vcls _ _ fmt _ imm => decide ((fmt.toNat ≤ 2) ∧ (imm.toNat < 512))
  | .vexp _ _ fmt => decide (fmt.toNat ≤ 2)
  | .vlog _ _ fmt => decide (fmt.toNat ≤ 2)
  | .vrcp _ _ fmt => decide (fmt.toNat ≤ 2)
  | .vrsq _ _ fmt => decide (fmt.toNat ≤ 2)
  | .vsinpi _ _ fmt => decide (fmt.toNat ≤ 2)
  | .vcospi _ _ fmt => decide (fmt.toNat ≤ 2)
  | .vtanh _ _ fmt => decide (fmt.toNat ≤ 2)
  | .viaddAdd _ _ _ fmt bc => decide ((fmt = 6#4 ∨ fmt = 9#4) ∧ (bc.getLsbD 1 = false))
  | .viaddSub _ _ _ fmt bc => decide ((fmt = 6#4 ∨ fmt = 9#4) ∧ (bc.getLsbD 1 = false))
  | .viaddAdds _ _ _ fmt bc => decide ((fmt = 6#4 ∨ fmt = 9#4) ∧ (bc.getLsbD 1 = false))
  | .viaddSubs _ _ _ fmt bc => decide ((fmt = 6#4 ∨ fmt = 9#4) ∧ (bc.getLsbD 1 = false))
  | .viaddMin _ _ _ fmt bc => decide ((fmt = 6#4 ∨ fmt = 9#4) ∧ (bc.getLsbD 1 = false))
  | .viaddMax _ _ _ fmt bc => decide ((fmt = 6#4 ∨ fmt = 9#4) ∧ (bc.getLsbD 1 = false))
  | .viaddAbsd _ _ _ fmt bc => decide ((fmt = 6#4 ∨ fmt = 9#4) ∧ (bc.getLsbD 1 = false))
  | .vimulLo _ _ _ fmt bc => decide ((fmt = 6#4 ∨ fmt = 9#4) ∧ (bc.getLsbD 1 = false))
  | .vimulHi _ _ _ fmt bc => decide ((fmt = 6#4 ∨ fmt = 9#4) ∧ (bc.getLsbD 1 = false))
  | .vimulHiu _ _ _ fmt bc => decide ((fmt = 6#4 ∨ fmt = 9#4) ∧ (bc.getLsbD 1 = false))
  | .vlogicAnd _ _ _ fmt bc => decide ((fmt = 6#4 ∨ fmt = 9#4) ∧ (bc.getLsbD 1 = false))
  | .vlogicOr _ _ _ fmt bc => decide ((fmt = 6#4 ∨ fmt = 9#4) ∧ (bc.getLsbD 1 = false))
  | .vlogicXor _ _ _ fmt bc => decide ((fmt = 6#4 ∨ fmt = 9#4) ∧ (bc.getLsbD 1 = false))
  | .vlogicAndn _ _ _ fmt bc => decide ((fmt = 6#4 ∨ fmt = 9#4) ∧ (bc.getLsbD 1 = false))
  | .vlogicNot _ _ fmt => decide (fmt = 6#4 ∨ fmt = 9#4)
  | .vshfSll _ _ _ fmt bc => decide ((fmt = 6#4 ∨ fmt = 9#4) ∧ (bc.getLsbD 1 = false))
  | .vshfSrl _ _ _ fmt bc => decide ((fmt = 6#4 ∨ fmt = 9#4) ∧ (bc.getLsbD 1 = false))
  | .vshfSra _ _ _ fmt bc => decide ((fmt = 6#4 ∨ fmt = 9#4) ∧ (bc.getLsbD 1 = false))
  | .vshfRot _ _ _ fmt bc => decide ((fmt = 6#4 ∨ fmt = 9#4) ∧ (bc.getLsbD 1 = false))
  | .cvt sub _ _ fmt rnd imm => decide ((cvtFmt sub) ∧ (cvtFmt fmt) ∧ (rnd.toNat ≤ 6) ∧ (imm.toNat ≤ 1))
  | .cvti sub _ _ fmt rnd imm => decide ((cvtiPair sub fmt) ∧ (rnd.toNat ≤ 6) ∧ (imm.toNat ≤ 1))
  | .pack sub _ _ _ fmt rnd imm => decide ((packSrc sub) ∧ (fmt = 5#4 ∨ fmt = 7#4) ∧ (rnd.toNat ≤ 6) ∧ (imm.toNat ≤ 1))
  | .packStrm sub _ _ fmt rnd imm => decide ((packSrc sub) ∧ (fmt = 5#4 ∨ fmt = 7#4 ∨ fmt = 8#4) ∧ (rnd.toNat ≤ 6) ∧ (imm = 4#32 ∨ (imm = 5#32 ∧ fmt ≠ 8#4)))
  | .unpk sub _ _ fmt rnd imm => decide ((sub = 5#4 ∨ sub = 7#4) ∧ (packSrc fmt) ∧ (rnd.toNat ≤ 6) ∧ (imm.toNat ≤ 1))
  | .unpkHi sub _ _ fmt rnd imm => decide ((sub = 5#4 ∨ sub = 7#4) ∧ (packSrc fmt) ∧ (rnd.toNat ≤ 6) ∧ (imm = 2#32 ∨ imm = 3#32))
  | .unpkStrm sub _ _ fmt rnd imm => decide ((sub = 5#4 ∨ sub = 7#4 ∨ sub = 8#4) ∧ (packSrc fmt) ∧ (rnd.toNat ≤ 6) ∧ (imm = 4#32 ∨ imm = 5#32))
  | .plane _ _ fmt => decide (1 ≤ fmt.toNat ∧ fmt.toNat ≤ 7)
  | .unplane _ _ fmt => decide (1 ≤ fmt.toNat ∧ fmt.toNat ≤ 7)
  | .spack _ _ _ fmt _ => decide (1 ≤ fmt.toNat ∧ fmt.toNat ≤ 7)
  | .spackChk _ _ fmt _ => decide (fmt = 6#4)
  | .nfscan _ _ fmt _ => decide (1 ≤ fmt.toNat ∧ fmt.toNat ≤ 4)
  | .cclaim xd => decide (xd.toNat < 8)
  | .crel => true
  | .ccfg _ => true
  | .cmul _ _ _ _ _ _ _ _ => true
  | .cprom _ _ _ _ _ nsc => decide (nsc.toNat ≤ 2)
  | .czero _ _ => true
  | .cstat _ => true
  | .cstatClr _ => true
  | .cwait _ => true
  | .cstorAcc _ _ _ => true
  | .cstorL0 _ _ _ => true
  | .cstorL1 _ _ _ => true
  | .cstorCnt _ _ _ => true
  | .cloadAcc _ _ _ => true
  | .cloadL0 _ _ _ => true
  | .cloadL1 _ _ _ => true
  | .cloadCnt _ _ _ => true
  | .cring _ _ => true
  | .cretry _ _ => true
  | .cqput _ _ b _ => decide (1 ≤ b.toNat ∧ b.toNat ≤ 56)
  | .hstat _ _ => true
  | .hwait _ _ smask => decide (smask ≠ 0#4)
  | .hsetDrn _ _ => true
  | .hsetFree _ _ => true
  | .halloc _ _ _ _ => true
  | .hfree _ _ => true
  | .cqinitBind _ _ _ => true
  | .cqinitUnb _ _ => true
  | .trecv d => decide (1 ≤ d.toNat ∧ d.toNat ≤ 60)
  | .trecvTry d _ => decide (1 ≤ d.toNat ∧ d.toNat ≤ 60)
  | .tread _ _ sreg _ imm => decide (ctxReg imm sreg)
  | .twrite _ _ sreg _ imm => decide (ctxReg imm sreg ∧ ctxWritable imm sreg)
  | .tresume _ _ => true
  | .tresumeNext _ _ => true
  | .tkill _ _ => true
  | .xlinvVa _ _ => true
  | .xlinvAs _ => true
  | .xlinvAll => true
  | .xlsync => true
  | .ckptTake _ _ => true
  | .ckptRoll _ _ => true
  | .ckptStat _ _ _ => true
  | .bflipHost _ _ => true
  | .bflipDev _ _ => true
  | .bflipRd _ _ => true
  | .keyldInst _ _ _ _ => true
  | .keyldClr _ _ => true
  | .keyldStat _ _ _ => true
  | .energyRd _ _ _ => true
  | .energySet _ _ _ => true
  | .gauge _ _ _ => true
  | .scopt _ _ _ _ => true
  | .scoptCnt _ _ => true
  | .partctlCreate _ _ _ => true
  | .partctlDestroy _ _ => true
  | .partctlStat _ _ => true
  | .lineRefetch _ _ => false
  | .fetchLineArrival _ _ => false
  | .slotTurn _ => false
  | .threadFirstFetch _ _ => false
  | .loadReplyArrival _ => false
  | .wakeNotice _ => false
  | .parkDeadline _ _ => false
  | .yieldExpiry _ _ => false
  | .plainLoadAtHome _ => false
  | .writeBackAtHome _ => false
  | .atomicAtHome _ => false
  | .amoAckArrival _ => false
  | .releaseAtHome _ => false
  | .releaseAckArrival _ => false
  | .orderedReadAtHome _ => false
  | .drainRequest _ => false
  | .drainAckAtHome _ => false
  | .fold _ => false
  | .foldEnd _ => false
  | .llcEvictionDrain _ _ => false
  | .barwArrivalAtHome _ => false
  | .waitvReread _ => false
  | .joinCounterUpdate _ => false
  | .switchCombine _ => false
  | .arriveAtHome _ => false
  | .departAtHome _ => false
  | .ageSeal _ _ => false
  | .closedEntryInvalidate _ _ => false
  | .stealRound _ _ => false
  | .stealRequest _ => false
  | .stealAnswer _ => false
  | .messageDelivery _ _ => false
  | .messageRetry _ _ => false
  | .handlerStart _ => false
  | .streamElementFetch _ _ => false
  | .streamPushWrite _ _ => false
  | .vectorOpComplete _ _ => false
  | .vectorStageFree _ => false
  | .cubeDispatch _ => false
  | .cubePassEnd _ => false
  | .cubeCommandComplete _ => false
  | .cubeDataError _ _ => false
  | .lateFaultDelivery _ _ => false
  | .supervisorRestart _ => false
  | .copyPacketAccept _ => false
  | .copyPageBoundary _ => false
  | .copyComplete _ => false
  | .copyError _ => false
  | .xlinvReceipt _ _ => false
  | .xlinvAckArrival _ _ => false
  | .launchPacketTake _ _ => false
  | .dependenceReread _ _ => false
  | .weirAdmit _ => false
  | .entryStart _ _ => false
  | .preempt _ => false
  | .quantumExpiry _ => false
  | .threadEvict _ _ => false
  | .coreSaveEnd _ _ => false
  | .contextRestore _ => false
  | .launchComplete _ _ => false
  | .checkpoint _ _ => false
  | .rollback _ _ => false
  | .contextTerminate _ _ => false
  | .energyIntervalEnd _ _ _ => false
  | .rds _ _ _ => false
  | .rdo _ _ _ => false
  | .wrb _ _ _ _ _ => false
  | .evn _ _ _ => false
  | .invalidationAck _ _ _ _ _ => false
  | .entryMerge _ _ => false
  | .directoryUe _ _ => false
  | .hostRequest _ _ _ _ _ => false
  | .backInvalidateResponse _ _ _ _ => false
  | .window0Access _ _ _ _ _ => false
  | .mringRequest _ _ _ _ _ => false
  | .window2Access _ _ _ _ _ => false
  | .flitReplay _ _ => false
  | .peerUnreachable _ => false
  | .deviceReset _ _ => false
  | .gaugeSave => false
  | .correctableError _ _ => false
  | .ueCleanData _ _ _ => false
  | .uePoison _ _ _ => false
  | .ueStateMachineCheck _ _ _ => false
  | .keyDeliveryRequest _ _ _ _ _ _ _ => false
  | .spdmSessionEnd _ _ => false
  | .hostSnoop _ _ => false
  | .replicaDrop _ _ _ => false
  | .tlbEntryDrop _ _ _ => false
  | .spdmRequest _ _ _ => false
  | .gaugeMctpRead _ => false
  | .supplyDroop _ => false
  | .temperatureSecond _ => false
  | .lossOfPower => false

/-- Opcode, SUBF and bits 79:0 of an instruction (R31-R39); none for an event. -/
def encodeParts : Instr → Option (BitVec 8 × BitVec 4 × BitVec 80)
  | .nop => some (0x00#8, 0#4, bodyX 0#6 0#6 0#6 0#12 0#3 0#32)
  | .brk imm => some (0x01#8, 0#4, bodyX 0#6 0#6 0#6 0#12 0#3 imm)
  | .svc imm => some (0x02#8, 0#4, bodyX 0#6 0#6 0#6 0#12 0#3 imm)
  | .trap sub a b imm => some (0x03#8, sub, bodyX 0#6 a b 0#12 0#3 imm)
  | .ill => some (0xFF#8, 0#4, 0#80)
  | .mfs d sreg => some (0x04#8, 0#4, bodyX d 0#6 0#6 sreg 0#3 0#32)
  | .mfsFpsr d => some (0x04#8, 0#4, bodyX d 0#6 0#6 0x011#12 0#3 0#32)
  | .mts a sreg => some (0x05#8, 0#4, bodyX 0#6 a 0#6 sreg 0#3 0#32)
  | .mtsFpcr a => some (0x05#8, 0#4, bodyX 0#6 a 0#6 0x010#12 0#3 0#32)
  | .mtsFpsr a => some (0x05#8, 0#4, bodyX 0#6 a 0#6 0x011#12 0#3 0#32)
  | .mtsPriv a => some (0x05#8, 0#4, bodyX 0#6 a 0#6 0x005#12 0#3 0#32)
  | .mtsRseq a => some (0x05#8, 0#4, bodyX 0#6 a 0#6 0x006#12 0#3 0#32)
  | .ifence => some (0x06#8, 0#4, bodyX 0#6 0#6 0#6 0#12 0#3 0#32)
  | .rand d => some (0x07#8, 0#4, bodyX d 0#6 0#6 0#12 0#3 0#32)
  | .randR16 d => some (0x07#8, 1#4, bodyX d 0#6 0#6 0#12 0#3 0#32)
  | .add d a b w => some (0x10#8, 0#4, bodyR d a b 0#6 w)
  | .sub d a b w => some (0x11#8, 0#4, bodyR d a b 0#6 w)
  | .mul d a b w => some (0x12#8, 0#4, bodyR d a b 0#6 w)
  | .mulh d a b w => some (0x13#8, 0#4, bodyR d a b 0#6 w)
  | .div d a b w => some (0x14#8, 0#4, bodyR d a b 0#6 w)
  | .rem d a b w => some (0x15#8, 0#4, bodyR d a b 0#6 w)
  | .and d a b w => some (0x16#8, 0#4, bodyR d a b 0#6 w)
  | .or d a b w => some (0x17#8, 0#4, bodyR d a b 0#6 w)
  | .xor d a b w => some (0x18#8, 0#4, bodyR d a b 0#6 w)
  | .andn d a b w => some (0x19#8, 0#4, bodyR d a b 0#6 w)
  | .min d a b w => some (0x1A#8, 0#4, bodyR d a b 0#6 w)
  | .max d a b w => some (0x1B#8, 0#4, bodyR d a b 0#6 w)
  | .sel d a b c w => some (0x1C#8, 0#4, bodyR d a b c w)
  | .madd d a b c w => some (0x1D#8, 0#4, bodyR d a b c w)
  | .adds sub d a b w => some (0x1E#8, sub, bodyR d a b 0#6 w)
  | .absd d a b w => some (0x1F#8, 0#4, bodyR d a b 0#6 w)
  | .addi d a w imm => some (0x20#8, 0#4, bodyI d a w imm)
  | .muli d a w imm => some (0x21#8, 0#4, bodyI d a w imm)
  | .andi d a w imm => some (0x22#8, 0#4, bodyI d a w imm)
  | .ori d a w imm => some (0x23#8, 0#4, bodyI d a w imm)
  | .xori d a w imm => some (0x24#8, 0#4, bodyI d a w imm)
  | .ldi d w imm => some (0x25#8, 0#4, bodyI d 0#6 w imm)
  | .lea d w imm => some (0x26#8, 0#4, bodyI d 0#6 w imm)
  | .sll d a b w => some (0x30#8, 0#4, bodyR d a b 0#6 w)
  | .srl d a b w => some (0x31#8, 0#4, bodyR d a b 0#6 w)
  | .sra d a b w => some (0x32#8, 0#4, bodyR d a b 0#6 w)
  | .slli d a w imm => some (0x27#8, 0#4, bodyI d a w imm)
  | .srli d a w imm => some (0x28#8, 0#4, bodyI d a w imm)
  | .srai d a w imm => some (0x29#8, 0#4, bodyI d a w imm)
  | .rot d a b w => some (0x33#8, 0#4, bodyR d a b 0#6 w)
  | .clz d a w => some (0x34#8, 0#4, bodyR d a 0#6 0#6 w)
  | .ctz d a w => some (0x35#8, 0#4, bodyR d a 0#6 0#6 w)
  | .popc d a w => some (0x36#8, 0#4, bodyR d a 0#6 0#6 w)
  | .brev d a w => some (0x39#8, 0#4, bodyR d a 0#6 0#6 w)
  | .bfx d a b c w => some (0x37#8, 0#4, bodyR d a b c w)
  | .bfi d a b c w => some (0x38#8, 0#4, bodyR d a b c w)
  | .xfold sub d a b => some (0x3D#8, sub, bodyR d a b 0#6 0#4)
  | .cmp sub d a b w => some (0x3A#8, sub, bodyR d a b 0#6 w)
  | .cmpi sub d a w imm => some (0x2A#8, sub, bodyI d a w imm)
  | .plog sub d a b => some (0x3B#8, sub, bodyR d a b 0#6 0#4)
  | .pmovTox d => some (0x3C#8, 0#4, bodyR d 0#6 0#6 0#6 0#4)
  | .pmovFromx a => some (0x3C#8, 1#4, bodyR 0#6 a 0#6 0#6 0#4)
  | .pmovNz d a => some (0x3C#8, 2#4, bodyR d a 0#6 0#6 0#4)
  | .br disp slot => some (0x40#8, 0#4, bodyB 0#6 0#6 0#4 disp slot)
  | .call disp slot => some (0x41#8, 0#4, bodyB 0#6 0#6 0#4 disp slot)
  | .callR a => some (0x41#8, 1#4, bodyB a 0#6 0#4 0#37 0#3)
  | .ret a => some (0x42#8, 0#4, bodyB a 0#6 0#4 0#37 0#3)
  | .jmp a => some (0x43#8, 0#4, bodyB a 0#6 0#4 0#37 0#3)
  | .loop a disp slot => some (0x44#8, 0#4, bodyB a 0#6 0#4 disp slot)
  | .brz a cond disp slot => some (0x45#8, 0#4, bodyB a 0#6 cond disp slot)
  | .brcmp a b cond disp slot => some (0x46#8, 0#4, bodyB a b cond disp slot)
  | .ld sub d base idx scl size ord scope hint off => some (0x50#8, sub, bodyM d base idx scl size ord scope hint off)
  | .st d base idx scl size ord scope hint off => some (0x51#8, 0#4, bodyM d base idx scl size ord scope hint off)
  | .ldf d base idx scl size ord scope hint off => some (0x52#8, 0#4, bodyM d base idx scl size ord scope hint off)
  | .stf d base idx scl size ord scope hint off => some (0x53#8, 0#4, bodyM d base idx scl size ord scope hint off)
  | .ldp d base idx scl size ord scope hint off => some (0x54#8, 0#4, bodyM d base idx scl size ord scope hint off)
  | .stp d base idx scl size ord scope hint off => some (0x55#8, 0#4, bodyM d base idx scl size ord scope hint off)
  | .ldb sub d base idx scl size hint off => some (0x56#8, sub, bodyM d base idx scl size 0#3 0#3 hint off)
  | .stb d base idx scl size hint off => some (0x57#8, 0#4, bodyM d base idx scl size 0#3 0#3 hint off)
  | .prefL1 base idx scl hint off => some (0x58#8, 0#4, bodyM 0#6 base idx scl 0#3 0#3 0#3 hint off)
  | .prefL2 base idx scl hint off => some (0x58#8, 1#4, bodyM 0#6 base idx scl 0#3 0#3 0#3 hint off)
  | .drain => some (0x59#8, 0#4, bodyM 0#6 0#6 0#6 0#2 0#3 0#3 0#3 0#3 0#48)
  | .drainL base idx scl off => some (0x59#8, 1#4, bodyM 0#6 base idx scl 0#3 0#3 0#3 0#3 off)
  | .amoAdd d base idx size ord scope off => some (0x60#8, 0#4, bodyM d base idx 0#2 size ord scope 0#3 off)
  | .amoAnd d base idx size ord scope off => some (0x60#8, 1#4, bodyM d base idx 0#2 size ord scope 0#3 off)
  | .amoOr d base idx size ord scope off => some (0x60#8, 2#4, bodyM d base idx 0#2 size ord scope 0#3 off)
  | .amoXor d base idx size ord scope off => some (0x60#8, 3#4, bodyM d base idx 0#2 size ord scope 0#3 off)
  | .amoSmin d base idx size ord scope off => some (0x60#8, 4#4, bodyM d base idx 0#2 size ord scope 0#3 off)
  | .amoSmax d base idx size ord scope off => some (0x60#8, 5#4, bodyM d base idx 0#2 size ord scope 0#3 off)
  | .amoUmin d base idx size ord scope off => some (0x60#8, 6#4, bodyM d base idx 0#2 size ord scope 0#3 off)
  | .amoUmax d base idx size ord scope off => some (0x60#8, 7#4, bodyM d base idx 0#2 size ord scope 0#3 off)
  | .amoSwap d base idx size ord scope off => some (0x60#8, 8#4, bodyM d base idx 0#2 size ord scope 0#3 off)
  | .cas d base idx size ord scope off => some (0x61#8, 0#4, bodyM d base idx 0#2 size ord scope 0#3 off)
  | .amofAdd d base idx size ord scope off => some (0x62#8, 0#4, bodyM d base idx 0#2 size ord scope 0#3 off)
  | .amofMin d base idx size ord scope off => some (0x62#8, 1#4, bodyM d base idx 0#2 size ord scope 0#3 off)
  | .amofMax d base idx size ord scope off => some (0x62#8, 2#4, bodyM d base idx 0#2 size ord scope 0#3 off)
  | .fence ord scope => some (0x63#8, 0#4, bodyM 0#6 0#6 0#6 0#2 0#3 ord scope 0#3 0#48)
  | .barw d base idx scl size ord scope off => some (0x64#8, 0#4, bodyM d base idx scl size ord scope 0#3 off)
  | .waitv sub d base idx size ord scope off => some (0x65#8, sub, bodyM d base idx 0#2 size ord scope 0#3 off)
  | .fork d b pd disp slot => some (0x70#8, 0#4, bodyT d 0#6 b 0#6 pd disp slot)
  | .forkJ d a b pd disp slot => some (0x70#8, 1#4, bodyT d a b 0#6 pd disp slot)
  | .join a => some (0x71#8, 0#4, bodyT 0#6 a 0#6 0#6 0#3 0#37 0#3)
  | .retire => some (0x72#8, 0#4, bodyT 0#6 0#6 0#6 0#6 0#3 0#37 0#3)
  | .retireJ a => some (0x72#8, 1#4, bodyT 0#6 a 0#6 0#6 0#3 0#37 0#3)
  | .yield a => some (0x73#8, 0#4, bodyT 0#6 a 0#6 0#6 0#3 0#37 0#3)
  | .park a => some (0x78#8, 0#4, bodyT 0#6 a 0#6 0#6 0#3 0#37 0#3)
  | .parkRel a => some (0x78#8, 1#4, bodyT 0#6 a 0#6 0#6 0#3 0#37 0#3)
  | .send a b => some (0x74#8, 0#4, bodyT 0#6 a b 0#6 0#3 0#37 0#3)
  | .waitf d base idx scl size off => some (0x75#8, 0#4, bodyM d base idx scl size 0#3 0#3 0#3 off)
  | .waitfE d base idx scl size off => some (0x75#8, 1#4, bodyM d base idx scl size 0#3 0#3 0#3 off)
  | .fill d base idx scl size off => some (0x76#8, 0#4, bodyM d base idx scl size 0#3 0#3 0#3 off)
  | .empty base idx scl size off => some (0x77#8, 0#4, bodyM 0#6 base idx scl size 0#3 0#3 0#3 off)
  | .dqpush b pd => some (0x80#8, 0#4, bodyT 0#6 0#6 b 0#6 pd 0#37 0#3)
  | .dqpop d pd => some (0x81#8, 0#4, bodyT d 0#6 0#6 0#6 pd 0#37 0#3)
  | .dqsplit a pd disp slot => some (0x82#8, 0#4, bodyT 0#6 a 0#6 0#6 pd disp slot)
  | .dqsteal d pd => some (0x83#8, 0#4, bodyT d 0#6 0#6 0#6 pd 0#37 0#3)
  | .dqstealAt d a pd => some (0x83#8, 1#4, bodyT d a 0#6 0#6 pd 0#37 0#3)
  | .dqrun => some (0x84#8, 0#4, bodyT 0#6 0#6 0#6 0#6 0#3 0#37 0#3)
  | .launch d a b pd => some (0x85#8, 0#4, bodyT d a b 0#6 pd 0#37 0#3)
  | .lwait d a => some (0x86#8, 0#4, bodyT d a 0#6 0#6 0#3 0#37 0#3)
  | .qalloc pd imm => some (0x90#8, 0#4, bodyQ 0#3 0#3 0#3 0#6 0#6 pd imm)
  | .qfree imm => some (0x91#8, 0#4, bodyQ 0#3 0#3 0#3 0#6 0#6 0#3 imm)
  | .qlogAnd qd qa qb pd => some (0x92#8, 0#4, bodyQ qd qa qb 0#6 0#6 pd 0#32)
  | .qlogOr qd qa qb pd => some (0x92#8, 1#4, bodyQ qd qa qb 0#6 0#6 pd 0#32)
  | .qlogXor qd qa qb pd => some (0x92#8, 2#4, bodyQ qd qa qb 0#6 0#6 pd 0#32)
  | .qlogAndn qd qa qb pd => some (0x92#8, 3#4, bodyQ qd qa qb 0#6 0#6 pd 0#32)
  | .qlogCopy qd qa pd => some (0x92#8, 4#4, bodyQ qd qa 0#3 0#6 0#6 pd 0#32)
  | .qlogClear qd pd => some (0x92#8, 5#4, bodyQ qd 0#3 0#3 0#6 0#6 pd 0#32)
  | .qlogFull qd pd => some (0x92#8, 6#4, bodyQ qd 0#3 0#3 0#6 0#6 pd 0#32)
  | .qlogNot qd qa pd => some (0x92#8, 7#4, bodyQ qd qa 0#3 0#6 0#6 pd 0#32)
  | .qbitSet qd xa pd => some (0x93#8, 0#4, bodyQ qd 0#3 0#3 xa 0#6 pd 0#32)
  | .qbitClr qd xa pd => some (0x93#8, 1#4, bodyQ qd 0#3 0#3 xa 0#6 pd 0#32)
  | .qpop qa xa pd => some (0x94#8, 0#4, bodyQ 0#3 qa 0#3 xa 0#6 pd 0#32)
  | .qcnt qa xa pd => some (0x95#8, 0#4, bodyQ 0#3 qa 0#3 xa 0#6 pd 0#32)
  | .qtest qa xb pd => some (0x96#8, 0#4, bodyQ 0#3 qa 0#3 0#6 xb pd 0#32)
  | .qeqEmpty qa pd => some (0x9D#8, 0#4, bodyQ 0#3 qa 0#3 0#6 0#6 pd 0#32)
  | .qeqEq qa qb pd => some (0x9D#8, 1#4, bodyQ 0#3 qa qb 0#6 0#6 pd 0#32)
  | .qeqSub qa qb pd => some (0x9D#8, 2#4, bodyQ 0#3 qa qb 0#6 0#6 pd 0#32)
  | .qeqDisj qa qb pd => some (0x9D#8, 3#4, bodyQ 0#3 qa qb 0#6 0#6 pd 0#32)
  | .qaddr xa xb => some (0x9C#8, 0#4, bodyQ 0#3 0#3 0#3 xa xb 0#3 0#32)
  | .qaddrQn xa xb => some (0x9C#8, 1#4, bodyQ 0#3 0#3 0#3 xa xb 0#3 0#32)
  | .qwin xa xb => some (0x9F#8, 0#4, bodyQ 0#3 0#3 0#3 xa xb 0#3 0#32)
  | .qmask qd qa pd imm => some (0x97#8, 0#4, bodyQ qd qa 0#3 0#6 0#6 pd imm)
  | .qsplit qd qa qb pd xa => some (0x98#8, 0#4, bodyQ qd qa qb xa 0#6 pd 0#32)
  | .qmovTox qa xa => some (0x9E#8, 0#4, bodyQ 0#3 qa 0#3 xa 0#6 0#3 0#32)
  | .qmovFromx qd xa => some (0x9E#8, 1#4, bodyQ qd 0#3 0#3 xa 0#6 0#3 0#32)
  | .qmovLd qd xa imm => some (0x9E#8, 2#4, bodyQ qd 0#3 0#3 xa 0#6 0#3 imm)
  | .qmovSt qa xa imm => some (0x9E#8, 3#4, bodyQ 0#3 qa 0#3 xa 0#6 0#3 imm)
  | .arrive qa xa xb pd => some (0x99#8, 0#4, bodyQ 0#3 qa 0#3 xa xb pd 0#32)
  | .depart qa xa xb pd => some (0x9A#8, 0#4, bodyQ 0#3 qa 0#3 xa xb pd 0#32)
  | .departW qa xa xb pd => some (0x9A#8, 1#4, bodyQ 0#3 qa 0#3 xa xb pd 0#32)
  | .qfork qa xa xb pd imm => some (0x9B#8, 0#4, bodyQ 0#3 qa 0#3 xa xb pd imm)
  | .scfg fs xa xb loops dir space fmt pd => some (0xA0#8, 0#4, bodyS fs xa xb loops dir space fmt 0#3 pd 0#8)
  | .scfgm fs dir space fmt qs pd => some (0xA1#8, 0#4, bodyS fs 0#6 0#6 0#2 dir space fmt qs pd 0#8)
  | .sen mask => some (0xA2#8, 0#4, bodyS 0#5 0#6 0#6 0#2 0#1 0#1 0#4 0#3 0#3 mask)
  | .sdis mask => some (0xA3#8, 0#4, bodyS 0#5 0#6 0#6 0#2 0#1 0#1 0#4 0#3 0#3 mask)
  | .swait mask => some (0xA4#8, 0#4, bodyS 0#5 0#6 0#6 0#2 0#1 0#1 0#4 0#3 0#3 mask)
  | .vadd fd fa fb fmt rnd bc => some (0xB0#8, 0#4, bodyV fd fa fb 0#5 fmt rnd 0#3 bc 0#32)
  | .vsub fd fa fb fmt rnd bc => some (0xB1#8, 0#4, bodyV fd fa fb 0#5 fmt rnd 0#3 bc 0#32)
  | .vmul fd fa fb fmt rnd bc => some (0xB2#8, 0#4, bodyV fd fa fb 0#5 fmt rnd 0#3 bc 0#32)
  | .vfma fd fa fb fc fmt rnd bc => some (0xB3#8, 0#4, bodyV fd fa fb fc fmt rnd 0#3 bc 0#32)
  | .vfmaMs fd fa fb fc fmt rnd bc => some (0xB3#8, 1#4, bodyV fd fa fb fc fmt rnd 0#3 bc 0#32)
  | .vfmaNma fd fa fb fc fmt rnd bc => some (0xB3#8, 2#4, bodyV fd fa fb fc fmt rnd 0#3 bc 0#32)
  | .vfmaNms fd fa fb fc fmt rnd bc => some (0xB3#8, 3#4, bodyV fd fa fb fc fmt rnd 0#3 bc 0#32)
  | .vmin fd fa fb fmt bc => some (0xB4#8, 0#4, bodyV fd fa fb 0#5 fmt 0#3 0#3 bc 0#32)
  | .vmax fd fa fb fmt bc => some (0xB5#8, 0#4, bodyV fd fa fb 0#5 fmt 0#3 0#3 bc 0#32)
  | .vsgnCpy fd fa fb fmt bc => some (0xB6#8, 0#4, bodyV fd fa fb 0#5 fmt 0#3 0#3 bc 0#32)
  | .vsgnNeg fd fa fb fmt bc => some (0xB6#8, 1#4, bodyV fd fa fb 0#5 fmt 0#3 0#3 bc 0#32)
  | .vsgnXor fd fa fb fmt bc => some (0xB6#8, 2#4, bodyV fd fa fb 0#5 fmt 0#3 0#3 bc 0#32)
  | .vcmp sub fd fa fb fmt pd bc imm => some (0xB7#8, sub, bodyV fd fa fb 0#5 fmt 0#3 pd bc imm)
  | .vsel fd fa fb fc fmt bc => some (0xB8#8, 0#4, bodyV fd fa fb fc fmt 0#3 0#3 bc 0#32)
  | .vdiv fd fa fb fmt rnd bc => some (0xB9#8, 0#4, bodyV fd fa fb 0#5 fmt rnd 0#3 bc 0#32)
  | .vsqrt fd fa fmt rnd => some (0xBA#8, 0#4, bodyV fd fa 0#5 0#5 fmt rnd 0#3 0#2 0#32)
  | .vredSum fd fa fmt rnd => some (0xBB#8, 0#4, bodyV fd fa 0#5 0#5 fmt rnd 0#3 0#2 0#32)
  | .vredMin fd fa fmt rnd => some (0xBB#8, 1#4, bodyV fd fa 0#5 0#5 fmt rnd 0#3 0#2 0#32)
  | .vredMax fd fa fmt rnd => some (0xBB#8, 2#4, bodyV fd fa 0#5 0#5 fmt rnd 0#3 0#2 0#32)
  | .vdot fd fa fb fmt rnd bc => some (0xBC#8, 0#4, bodyV fd fa fb 0#5 fmt rnd 0#3 bc 0#32)
  | .vmov fd fa fmt => some (0xBD#8, 0#4, bodyV fd fa 0#5 0#5 fmt 0#3 0#3 0#2 0#32)
  | .vsclI fd fa fmt rnd imm => some (0xBE#8, 0#4, bodyV fd fa 0#5 0#5 fmt rnd 0#3 0#2 imm)
  | .vsclE fd fa fb fmt rnd bc => some (0xBE#8, 1#4, bodyV fd fa fb 0#5 fmt rnd 0#3 bc 0#32)
  | .vcls fd fa fmt pd imm => some (0xBF#8, 0#4, bodyV fd fa 0#5 0#5 fmt 0#3 pd 0#2 imm)
  | .vexp fd fa fmt => some (0xC0#8, 0#4, bodyV fd fa 0#5 0#5 fmt 0#3 0#3 0#2 0#32)
  | .vlog fd fa fmt => some (0xC1#8, 0#4, bodyV fd fa 0#5 0#5 fmt 0#3 0#3 0#2 0#32)
  | .vrcp fd fa fmt => some (0xC2#8, 0#4, bodyV fd fa 0#5 0#5 fmt 0#3 0#3 0#2 0#32)
  | .vrsq fd fa fmt => some (0xC3#8, 0#4, bodyV fd fa 0#5 0#5 fmt 0#3 0#3 0#2 0#32)
  | .vsinpi fd fa fmt => some (0xC4#8, 0#4, bodyV fd fa 0#5 0#5 fmt 0#3 0#3 0#2 0#32)
  | .vcospi fd fa fmt => some (0xC5#8, 0#4, bodyV fd fa 0#5 0#5 fmt 0#3 0#3 0#2 0#32)
  | .vtanh fd fa fmt => some (0xC6#8, 0#4, bodyV fd fa 0#5 0#5 fmt 0#3 0#3 0#2 0#32)
  | .viaddAdd fd fa fb fmt bc => some (0xCC#8, 0#4, bodyV fd fa fb 0#5 fmt 0#3 0#3 bc 0#32)
  | .viaddSub fd fa fb fmt bc => some (0xCC#8, 1#4, bodyV fd fa fb 0#5 fmt 0#3 0#3 bc 0#32)
  | .viaddAdds fd fa fb fmt bc => some (0xCC#8, 2#4, bodyV fd fa fb 0#5 fmt 0#3 0#3 bc 0#32)
  | .viaddSubs fd fa fb fmt bc => some (0xCC#8, 3#4, bodyV fd fa fb 0#5 fmt 0#3 0#3 bc 0#32)
  | .viaddMin fd fa fb fmt bc => some (0xCC#8, 4#4, bodyV fd fa fb 0#5 fmt 0#3 0#3 bc 0#32)
  | .viaddMax fd fa fb fmt bc => some (0xCC#8, 5#4, bodyV fd fa fb 0#5 fmt 0#3 0#3 bc 0#32)
  | .viaddAbsd fd fa fb fmt bc => some (0xCC#8, 6#4, bodyV fd fa fb 0#5 fmt 0#3 0#3 bc 0#32)
  | .vimulLo fd fa fb fmt bc => some (0xCD#8, 0#4, bodyV fd fa fb 0#5 fmt 0#3 0#3 bc 0#32)
  | .vimulHi fd fa fb fmt bc => some (0xCD#8, 1#4, bodyV fd fa fb 0#5 fmt 0#3 0#3 bc 0#32)
  | .vimulHiu fd fa fb fmt bc => some (0xCD#8, 2#4, bodyV fd fa fb 0#5 fmt 0#3 0#3 bc 0#32)
  | .vlogicAnd fd fa fb fmt bc => some (0xCE#8, 0#4, bodyV fd fa fb 0#5 fmt 0#3 0#3 bc 0#32)
  | .vlogicOr fd fa fb fmt bc => some (0xCE#8, 1#4, bodyV fd fa fb 0#5 fmt 0#3 0#3 bc 0#32)
  | .vlogicXor fd fa fb fmt bc => some (0xCE#8, 2#4, bodyV fd fa fb 0#5 fmt 0#3 0#3 bc 0#32)
  | .vlogicAndn fd fa fb fmt bc => some (0xCE#8, 3#4, bodyV fd fa fb 0#5 fmt 0#3 0#3 bc 0#32)
  | .vlogicNot fd fa fmt => some (0xCE#8, 4#4, bodyV fd fa 0#5 0#5 fmt 0#3 0#3 0#2 0#32)
  | .vshfSll fd fa fb fmt bc => some (0xCF#8, 0#4, bodyV fd fa fb 0#5 fmt 0#3 0#3 bc 0#32)
  | .vshfSrl fd fa fb fmt bc => some (0xCF#8, 1#4, bodyV fd fa fb 0#5 fmt 0#3 0#3 bc 0#32)
  | .vshfSra fd fa fb fmt bc => some (0xCF#8, 2#4, bodyV fd fa fb 0#5 fmt 0#3 0#3 bc 0#32)
  | .vshfRot fd fa fb fmt bc => some (0xCF#8, 3#4, bodyV fd fa fb 0#5 fmt 0#3 0#3 bc 0#32)
  | .cvt sub fd fa fmt rnd imm => some (0xC8#8, sub, bodyV fd fa 0#5 0#5 fmt rnd 0#3 0#2 imm)
  | .cvti sub fd fa fmt rnd imm => some (0xC9#8, sub, bodyV fd fa 0#5 0#5 fmt rnd 0#3 0#2 imm)
  | .pack sub fd fa fb fmt rnd imm => some (0xCA#8, sub, bodyV fd fa fb 0#5 fmt rnd 0#3 0#2 imm)
  | .packStrm sub fd fa fmt rnd imm => some (0xCA#8, sub, bodyV fd fa 0#5 0#5 fmt rnd 0#3 0#2 imm)
  | .unpk sub fd fa fmt rnd imm => some (0xCB#8, sub, bodyV fd fa 0#5 0#5 fmt rnd 0#3 0#2 imm)
  | .unpkHi sub fd fa fmt rnd imm => some (0xCB#8, sub, bodyV fd fa 0#5 0#5 fmt rnd 0#3 0#2 imm)
  | .unpkStrm sub fd fa fmt rnd imm => some (0xCB#8, sub, bodyV fd fa 0#5 0#5 fmt rnd 0#3 0#2 imm)
  | .plane fd fa fmt => some (0xA5#8, 0#4, bodyV fd fa 0#5 0#5 fmt 0#3 0#3 0#2 0#32)
  | .unplane fd fa fmt => some (0xA6#8, 0#4, bodyV fd fa 0#5 0#5 fmt 0#3 0#3 0#2 0#32)
  | .spack fd fa fb fmt pd => some (0xA7#8, 0#4, bodyV fd fa fb 0#5 fmt 0#3 pd 0#2 0#32)
  | .spackChk fd fa fmt pd => some (0xA7#8, 1#4, bodyV fd fa 0#5 0#5 fmt 0#3 pd 0#2 0#32)
  | .nfscan fd fa fmt pd => some (0xA8#8, 0#4, bodyV fd fa 0#5 0#5 fmt 0#3 pd 0#2 0#32)
  | .cclaim xd => some (0xD0#8, 0#4, bodyC 0#6 0#6 0#6 xd 0#6 0#9 0#1 0#2 0#1)
  | .crel => some (0xD1#8, 0#4, bodyC 0#6 0#6 0#6 0#6 0#6 0#9 0#1 0#2 0#1)
  | .ccfg xd => some (0xD2#8, 0#4, bodyC 0#6 0#6 0#6 xd 0#6 0#9 0#1 0#2 0#1)
  | .cmul xa xb xg xd xn acb spa za => some (0xD3#8, 0#4, bodyC xa xb xg xd xn acb spa 0#2 za)
  | .cprom xa xb xd xn acb nsc => some (0xD4#8, 0#4, bodyC xa xb 0#6 xd xn acb 0#1 nsc 0#1)
  | .czero xn acb => some (0xD5#8, 0#4, bodyC 0#6 0#6 0#6 0#6 xn acb 0#1 0#2 0#1)
  | .cstat xd => some (0xD6#8, 0#4, bodyC 0#6 0#6 0#6 xd 0#6 0#9 0#1 0#2 0#1)
  | .cstatClr xd => some (0xD6#8, 1#4, bodyC 0#6 0#6 0#6 xd 0#6 0#9 0#1 0#2 0#1)
  | .cwait xa => some (0xD7#8, 0#4, bodyC xa 0#6 0#6 0#6 0#6 0#9 0#1 0#2 0#1)
  | .cstorAcc xa xn acb => some (0xD8#8, 0#4, bodyC xa 0#6 0#6 0#6 xn acb 0#1 0#2 0#1)
  | .cstorL0 xa xn acb => some (0xD8#8, 1#4, bodyC xa 0#6 0#6 0#6 xn acb 0#1 0#2 0#1)
  | .cstorL1 xa xn acb => some (0xD8#8, 2#4, bodyC xa 0#6 0#6 0#6 xn acb 0#1 0#2 0#1)
  | .cstorCnt xa xn acb => some (0xD8#8, 3#4, bodyC xa 0#6 0#6 0#6 xn acb 0#1 0#2 0#1)
  | .cloadAcc xa xn acb => some (0xD9#8, 0#4, bodyC xa 0#6 0#6 0#6 xn acb 0#1 0#2 0#1)
  | .cloadL0 xa xn acb => some (0xD9#8, 1#4, bodyC xa 0#6 0#6 0#6 xn acb 0#1 0#2 0#1)
  | .cloadL1 xa xn acb => some (0xD9#8, 2#4, bodyC xa 0#6 0#6 0#6 xn acb 0#1 0#2 0#1)
  | .cloadCnt xa xn acb => some (0xD9#8, 3#4, bodyC xa 0#6 0#6 0#6 xn acb 0#1 0#2 0#1)
  | .cring xa xn => some (0xDA#8, 0#4, bodyC xa 0#6 0#6 0#6 xn 0#9 0#1 0#2 0#1)
  | .cretry xa xb => some (0xDB#8, 0#4, bodyC xa xb 0#6 0#6 0#6 0#9 0#1 0#2 0#1)
  | .cqput d a b pd => some (0xE0#8, 0#4, bodyH d a b 0#6 0#4 pd)
  | .hstat d hn => some (0xE1#8, 0#4, bodyH d 0#6 0#6 hn 0#4 0#3)
  | .hwait d hn smask => some (0xE2#8, 0#4, bodyH d 0#6 0#6 hn smask 0#3)
  | .hsetDrn hn pd => some (0xE3#8, 0#4, bodyH 0#6 0#6 0#6 hn 0#4 pd)
  | .hsetFree hn pd => some (0xE3#8, 1#4, bodyH 0#6 0#6 0#6 hn 0#4 pd)
  | .halloc a b hn pd => some (0xE4#8, 0#4, bodyH 0#6 a b hn 0#4 pd)
  | .hfree hn pd => some (0xE5#8, 0#4, bodyH 0#6 0#6 0#6 hn 0#4 pd)
  | .cqinitBind a b pd => some (0xE6#8, 0#4, bodyH 0#6 a b 0#6 0#4 pd)
  | .cqinitUnb a pd => some (0xE6#8, 1#4, bodyH 0#6 a 0#6 0#6 0#4 pd)
  | .trecv d => some (0xF0#8, 0#4, bodyX d 0#6 0#6 0#12 0#3 0#32)
  | .trecvTry d pd => some (0xF0#8, 1#4, bodyX d 0#6 0#6 0#12 pd 0#32)
  | .tread d a sreg pd imm => some (0xF1#8, 0#4, bodyX d a 0#6 sreg pd imm)
  | .twrite a b sreg pd imm => some (0xF2#8, 0#4, bodyX 0#6 a b sreg pd imm)
  | .tresume a pd => some (0xF3#8, 0#4, bodyX 0#6 a 0#6 0#12 pd 0#32)
  | .tresumeNext a pd => some (0xF3#8, 1#4, bodyX 0#6 a 0#6 0#12 pd 0#32)
  | .tkill a pd => some (0xF4#8, 0#4, bodyX 0#6 a 0#6 0#12 pd 0#32)
  | .xlinvVa a b => some (0xF5#8, 0#4, bodyX 0#6 a b 0#12 0#3 0#32)
  | .xlinvAs a => some (0xF5#8, 1#4, bodyX 0#6 a 0#6 0#12 0#3 0#32)
  | .xlinvAll => some (0xF5#8, 2#4, bodyX 0#6 0#6 0#6 0#12 0#3 0#32)
  | .xlsync => some (0xF6#8, 0#4, bodyX 0#6 0#6 0#6 0#12 0#3 0#32)
  | .ckptTake a pd => some (0xF7#8, 0#4, bodyX 0#6 a 0#6 0#12 pd 0#32)
  | .ckptRoll a pd => some (0xF7#8, 1#4, bodyX 0#6 a 0#6 0#12 pd 0#32)
  | .ckptStat d a pd => some (0xF7#8, 2#4, bodyX d a 0#6 0#12 pd 0#32)
  | .bflipHost a pd => some (0xF8#8, 0#4, bodyX 0#6 a 0#6 0#12 pd 0#32)
  | .bflipDev a pd => some (0xF8#8, 1#4, bodyX 0#6 a 0#6 0#12 pd 0#32)
  | .bflipRd d a => some (0xF8#8, 2#4, bodyX d a 0#6 0#12 0#3 0#32)
  | .keyldInst d a b pd => some (0xF9#8, 0#4, bodyX d a b 0#12 pd 0#32)
  | .keyldClr a pd => some (0xF9#8, 1#4, bodyX 0#6 a 0#6 0#12 pd 0#32)
  | .keyldStat d a pd => some (0xF9#8, 2#4, bodyX d a 0#6 0#12 pd 0#32)
  | .energyRd d a pd => some (0xFA#8, 0#4, bodyX d a 0#6 0#12 pd 0#32)
  | .energySet a b pd => some (0xFA#8, 1#4, bodyX 0#6 a b 0#12 pd 0#32)
  | .gauge d a pd => some (0xFB#8, 0#4, bodyX d a 0#6 0#12 pd 0#32)
  | .scopt d a b pd => some (0xFC#8, 0#4, bodyX d a b 0#12 pd 0#32)
  | .scoptCnt d a => some (0xFC#8, 1#4, bodyX d a 0#6 0#12 0#3 0#32)
  | .partctlCreate d a pd => some (0xFD#8, 0#4, bodyX d a 0#6 0#12 pd 0#32)
  | .partctlDestroy a pd => some (0xFD#8, 1#4, bodyX 0#6 a 0#6 0#12 pd 0#32)
  | .partctlStat d a => some (0xFD#8, 2#4, bodyX d a 0#6 0#12 0#3 0#32)
  | .lineRefetch _ _ => none
  | .fetchLineArrival _ _ => none
  | .slotTurn _ => none
  | .threadFirstFetch _ _ => none
  | .loadReplyArrival _ => none
  | .wakeNotice _ => none
  | .parkDeadline _ _ => none
  | .yieldExpiry _ _ => none
  | .plainLoadAtHome _ => none
  | .writeBackAtHome _ => none
  | .atomicAtHome _ => none
  | .amoAckArrival _ => none
  | .releaseAtHome _ => none
  | .releaseAckArrival _ => none
  | .orderedReadAtHome _ => none
  | .drainRequest _ => none
  | .drainAckAtHome _ => none
  | .fold _ => none
  | .foldEnd _ => none
  | .llcEvictionDrain _ _ => none
  | .barwArrivalAtHome _ => none
  | .waitvReread _ => none
  | .joinCounterUpdate _ => none
  | .switchCombine _ => none
  | .arriveAtHome _ => none
  | .departAtHome _ => none
  | .ageSeal _ _ => none
  | .closedEntryInvalidate _ _ => none
  | .stealRound _ _ => none
  | .stealRequest _ => none
  | .stealAnswer _ => none
  | .messageDelivery _ _ => none
  | .messageRetry _ _ => none
  | .handlerStart _ => none
  | .streamElementFetch _ _ => none
  | .streamPushWrite _ _ => none
  | .vectorOpComplete _ _ => none
  | .vectorStageFree _ => none
  | .cubeDispatch _ => none
  | .cubePassEnd _ => none
  | .cubeCommandComplete _ => none
  | .cubeDataError _ _ => none
  | .lateFaultDelivery _ _ => none
  | .supervisorRestart _ => none
  | .copyPacketAccept _ => none
  | .copyPageBoundary _ => none
  | .copyComplete _ => none
  | .copyError _ => none
  | .xlinvReceipt _ _ => none
  | .xlinvAckArrival _ _ => none
  | .launchPacketTake _ _ => none
  | .dependenceReread _ _ => none
  | .weirAdmit _ => none
  | .entryStart _ _ => none
  | .preempt _ => none
  | .quantumExpiry _ => none
  | .threadEvict _ _ => none
  | .coreSaveEnd _ _ => none
  | .contextRestore _ => none
  | .launchComplete _ _ => none
  | .checkpoint _ _ => none
  | .rollback _ _ => none
  | .contextTerminate _ _ => none
  | .energyIntervalEnd _ _ _ => none
  | .rds _ _ _ => none
  | .rdo _ _ _ => none
  | .wrb _ _ _ _ _ => none
  | .evn _ _ _ => none
  | .invalidationAck _ _ _ _ _ => none
  | .entryMerge _ _ => none
  | .directoryUe _ _ => none
  | .hostRequest _ _ _ _ _ => none
  | .backInvalidateResponse _ _ _ _ => none
  | .window0Access _ _ _ _ _ => none
  | .mringRequest _ _ _ _ _ => none
  | .window2Access _ _ _ _ _ => none
  | .flitReplay _ _ => none
  | .peerUnreachable _ => none
  | .deviceReset _ _ => none
  | .gaugeSave => none
  | .correctableError _ _ => none
  | .ueCleanData _ _ _ => none
  | .uePoison _ _ _ => none
  | .ueStateMachineCheck _ _ _ => none
  | .keyDeliveryRequest _ _ _ _ _ _ _ => none
  | .spdmSessionEnd _ _ => none
  | .hostSnoop _ _ => none
  | .replicaDrop _ _ _ => none
  | .tlbEntryDrop _ _ _ => none
  | .spdmRequest _ _ _ => none
  | .gaugeMctpRead _ => none
  | .supplyDroop _ => none
  | .temperatureSecond _ => none
  | .lossOfPower => none

/-- The 96 bits of a slot from its parts (R30). -/
def packSlot (opc : BitVec 8) (sub : BitVec 4) (g : Guard) (v : BitVec 80) : BitVec 96 :=
  opc ++ sub ++ g.pred ++ BitVec.ofBool g.neg ++ v

/-- The slot that holds an instruction under a guard; none for an event. -/
def encode (g : Guard) (i : Instr) : Option (BitVec 96) :=
  (encodeParts i).map fun p => packSlot p.1 p.2.1 g p.2.2

/-- Opcode of a slot (R30). -/
def slotOpc (w : BitVec 96) : BitVec 8 := w.extractLsb' 88 8
/-- SUBF of a slot (R30). -/
def slotSubf (w : BitVec 96) : BitVec 4 := w.extractLsb' 84 4
/-- Guard of a slot (R30). -/
def slotGuard (w : BitVec 96) : Guard := ⟨w.extractLsb' 81 3, w.getLsbD 80⟩
/-- Bits 79:0 of a slot (R30). -/
def slotBody (w : BitVec 96) : BitVec 80 := w.extractLsb' 0 80

/-- Decode the parts of a slot without its guard: opcode and SUBF, then reserved fields, then reserved values (R40).
Opcode 0xFF is `ill` whatever the other bits hold (R30). -/
noncomputable def decodeParts (opc : BitVec 8) (sub : BitVec 4) (v : BitVec 80) : Except DecodeError Instr :=
  match instrOf opc sub v with
  | .error e => .error e
  | .ok .ill => .ok .ill
  | .ok i =>
    if encodeParts i = some (opc, sub, v) then
      if operandsOk i then .ok i else .error .reservedValue
    else .error .reservedField

/-- Decode one slot. -/
noncomputable def decodeSlot (w : BitVec 96) : Except DecodeError Instr := decodeParts (slotOpc w) (slotSubf w) (slotBody w)

/-- The instruction this decoder reads from the bits of one slot, bit 0 lowest; bits above the slot are ignored. -/
noncomputable def decodeTableWord (_nbits w : Nat) : Option Instr :=
  match decodeSlot (BitVec.ofNat 96 w) with
  | .ok i => some i
  | .error _ => none

/-- The class of an opcode that issues on the vector engine (R38): true for class V. -/
def classV (opc : BitVec 8) : Bool :=
  (0xA5 ≤ opc.toNat && opc.toNat ≤ 0xA8) || (0xB0 ≤ opc.toNat && opc.toNat ≤ 0xC6) ||
    (0xC8 ≤ opc.toNat && opc.toNat ≤ 0xCF)

/-- Opcodes of class I (R38). -/
def classI (opc : BitVec 8) : Bool :=
  let n := opc.toNat
  n ≤ 0x07 || (0x10 ≤ n && n ≤ 0x2A) || (0x30 ≤ n && n ≤ 0x3D) || (0x40 ≤ n && n ≤ 0x46) || (0x50 ≤ n && n ≤ 0x59) ||
    (0x60 ≤ n && n ≤ 0x65) || (0x70 ≤ n && n ≤ 0x78) || (0x80 ≤ n && n ≤ 0x86) || (0x90 ≤ n && n ≤ 0x9F) ||
    (0xA0 ≤ n && n ≤ 0xA4) || (0xD0 ≤ n && n ≤ 0xDB) || (0xE0 ≤ n && n ≤ 0xE6) || (0xF0 ≤ n && n ≤ 0xFD)

/-- Slot `i` of a fetch line (R20, R21). -/
def lineSlot (l : BitVec 512) (i : Nat) : BitVec 96 := l.extractLsb' (96 * i) 96
/-- The line word (R20). -/
def lineWord (l : BitVec 512) : BitVec 32 := l.extractLsb' 480 32
/-- TGT bit of slot `i` (R22). -/
def lineTgt (l : BitVec 512) (i : Nat) : Bool := (lineWord l).getLsbD i
/-- TPL (R22). -/
def lineTpl (l : BitVec 512) : BitVec 4 := (lineWord l).extractLsb' 5 4

/-- Whether the number of ones of a word is odd. -/
def parityOf {w : Nat} (v : BitVec w) : Bool :=
  (List.range w).foldl (fun acc i => acc ^^ v.getLsbD i) false

/-- PLW and the five PAR bits hold (R22): each slot with its PAR bit, and the line word, hold an even number of ones. -/
def lineParityOk (l : BitVec 512) : Bool :=
  !parityOf (lineWord l) &&
    (List.range 5).all fun i => parityOf (lineSlot l i) == (lineWord l).getLsbD (9 + i)

/-- The first slots of the pairs that TPL names (R23). -/
def tplPairs (t : BitVec 4) : List Nat :=
  match t.toNat with
  | 1 => [0]
  | 2 => [1]
  | 3 => [2]
  | 4 => [3]
  | 5 => [0, 2]
  | 6 => [0, 3]
  | 7 => [1, 3]
  | _ => []

/-- A pair is legal (R25): class I, then class V, and the second slot is no target. -/
def pairOk (l : BitVec 512) (i : Nat) : Bool :=
  classI (slotOpc (lineSlot l i)) && classV (slotOpc (lineSlot l (i + 1))) && !lineTgt l (i + 1)

/-- What a thread that enters a line of good parity finds (R25). -/
inductive LineCheck where
  | ok | illegalLine | illegalPair
  deriving DecidableEq, Repr

/-- The line checks of R25, in their order. -/
def lineCheck (l : BitVec 512) : LineCheck :=
  if (lineWord l).extractLsb' 15 17 ≠ 0#17 ∨ 8 ≤ (lineTpl l).toNat then .illegalLine
  else if (tplPairs (lineTpl l)).all (pairOk l) then .ok
  else .illegalPair

/-- The line word with TGT and TPL as given and the parity bits that make the line good (R22). -/
def mkLineWord (slots : BitVec 480) (tgt : BitVec 5) (tpl : BitVec 4) : BitVec 32 :=
  let par := (List.range 5).foldl
    (fun acc i => acc ||| (BitVec.ofBool (parityOf (slots.extractLsb' (96 * i) 96))).setWidth 5 <<< i) 0#5
  let low : BitVec 14 := par ++ tpl ++ tgt
  0#17 ++ BitVec.ofBool (parityOf low) ++ low

end Sys2Proof
end

