-- ==== Sys2Proof/Config.lean ====
section
/-! DEFINITION. What the spec fixes for every part and what it leaves to a named outside standard or to chance.
The opaque constants are free values: nothing in Lean can evaluate them, so no statement can rest on one value of them
(log entries 5 and 6). -/
namespace Sys2Proof.Config

/-- Cores of the device (R8, R13). -/
def cores : Nat := 3840
/-- Bytes of local memory of a core (R161). -/
def lmemBytes : Nat := 262144
/-- First virtual address of the local window (R161). -/
def windowBase : Nat := 0xFF80000000000000
/-- Bytes of the local window (R161). -/
def windowBytes : Nat := 0x1000000
/-- Bytes of one memory stack (R13, R372). -/
def stackBytes : Nat := 96 * 2 ^ 30
/-- Ways and sets of an L1 data cache of one core: 64 KiB, 8 ways, 128-byte lines (R242). -/
def l1Ways : Nat := 8
def l1Sets : Nat := 64
/-- Lines of an L2 slice of 2 MiB and of an LLC slice of 16 MiB (R8, R13, R244). -/
def l2Lines : Nat := 16384
def llcLines : Nat := 131072
/-- The domain number under which device firmware runs before and beside the partitions 0 to 15 (log 7). -/
def firmwareDomain : Nat := 16

/-- FREE VALUE. A 64-bit value the spec leaves open, one for each count of the state's free-value counter (log 5). -/
opaque freeWord : Nat → BitVec 64

/-- FREE VALUE. AES-256-GCM decryption of R365 and R369: key, 96-bit IV, additional data, ciphertext, tag; none when
authentication fails (log 6). -/
opaque gcmDecrypt : BitVec 256 → BitVec 96 → List (BitVec 8) → List (BitVec 8) → BitVec 128 → Option (List (BitVec 8))

/-- FREE VALUE. HKDF-Expand of R369 over the export master secret of a session, which the session's number in the model
stands for (log 6). -/
opaque sessionKey : Nat → BitVec 256

/-- FREE VALUE. AES-256-XTS encryption of R362 under a 512-bit key and a 128-bit tweak, an outside standard (log 6). -/
opaque xtsEncrypt : BitVec 512 → BitVec 128 → BitVec 1024 → BitVec 1024

/-- FREE VALUE. The SECDED code over the fields of a directory entry (R301), which the spec does not state (log 6). -/
opaque dirEcc : BitVec 45 → Nat → Bool → Bool → Nat → BitVec 64 → Nat → BitVec 16

/-- FREE VALUE. The answer an SPDM responder computes for a request code and argument (R368), fixed by the outside
SPDM 1.3 specification (log 6). -/
opaque spdmAnswer : Nat → Nat → Nat → BitVec 512

/-- FREE VALUE. The digest of the boot ROM, which never changes (R367, log 6). -/
opaque romDigest : BitVec 512

/-- FREE VALUE. The identity key that SHAKE256 gives of the fused secret and the digest of the security-processor firmware
(R367, log 6). -/
opaque identityKey : BitVec 512 → BitVec 456

/-- FREE VALUE. The first bytes of the X.509 certificate chain of an identity key, in SPDM certificate slot 0 (R367, log
6). -/
opaque certChain : BitVec 456 → BitVec 1024

end Sys2Proof.Config
end

