-- ==== Sys2Proof/Machine/State.lean ====
section
/-! DEFINITION. The state of the machine: every piece of state the spec names, as plain data, and the state after
reset. INVENTORY.md lists each piece with its rule. Maps are lists of (key, value) pairs. -/
namespace Sys2Proof.Machine

/-- Why the machine stops. -/
inductive Fault where
  /-- A physical address at which no memory stands. Raised by no meaning: what a unit of the device does with such an address is
  said in log 9. Safe. -/
  | absentPhysical (pa : Nat)
  deriving DecidableEq, Repr

/-- Why an instruction has no meaning. -/
inductive Refusal where
  /-- The instruction is not modelled; raised by no arm of a finished model. Safe. -/
  | notModelled (mnemonic : String)
  deriving DecidableEq, Repr

/-- The causes of traps, faults and machine checks (R332). -/
inductive Cause where
  | machineCheck | illegalInstruction | illegalRegister | illegalLine | illegalTarget | illegalPair | privilege
  | translation | protection | alignment | poison | cubeShape | cubeData | vectorStream | handlerOverrun | handlerBlock
  | breakpoint | svc | trap | cubeOwner | sparseMetadata | scaleCount | copyError
  deriving DecidableEq, Repr

/-- A trap record: four words (R333). -/
structure TrapRec where
  w0 : Word
  w1 : Word
  w2 : Word
  w3 : Word
  deriving DecidableEq, Repr

/-- A release record of a line, a message or a work item (R263, R273). `agent` is the releaser: a core's linear index,
or 4096 plus a cluster for a fused cluster. -/
structure RelRec where
  agent : Nat
  epoch : BitVec 24
  scope : Nat
  /-- 1 undrained, 2 draining, 3 drained. -/
  st : Nat
  deriving DecidableEq, Repr

/-- What a parked thread waits for (R109). -/
inductive Wake where
  /-- A request of the thread at a home: a reply, or an entry of the home's wait list (JOIN, WAITV, LWAIT, BARW). -/
  | home (id : Nat)
  /-- WAITF on the local word at byte `addr`; `take` for WAITF.E; the word goes to x register `d` (R168). -/
  | word (addr : Nat) (take : Bool) (d : BitVec 6)
  /-- HWAIT (R296). -/
  | handle (hn : Nat) (smask : BitVec 4) (d : BitVec 6)
  /-- CWAIT (R220). -/
  | cube (seq : BitVec 16)
  /-- TRECV (R341). -/
  | record (d : BitVec 6)
  /-- PARK (R120): CYCLE reaches the deadline. -/
  | deadline (cycle : Nat)
  /-- YIELD (R119): turns of the slot still to pass. -/
  | turns (k : Nat)
  /-- DQRUN (R140): the cycle of the next steal round. -/
  | deque (next : Nat)
  /-- A quantum expiry (R323). -/
  | scheduler
  deriving DecidableEq, Repr

/-- The states of an occupied slot (R111); a FREE slot holds no thread. -/
inductive ThreadSt where
  | ready
  | parked (w : Wake)
  | trapped
  deriving DecidableEq, Repr

/-- The copy of a fetch line in which a thread runs (R104). -/
structure HeldLine where
  va : Word
  bits : BitVec 512
  deriving DecidableEq, Repr

/-- How far an instruction that loses turns until its work is done has come. -/
structure Prog where
  stage : Nat
  ids : List Nat
  val : Word
  deriving DecidableEq, Repr

/-- A V half that issues after the parked I half of its pair has completed (R28, log 12), with the f registers it
reads. Its guard has held. -/
structure PendV where
  raw : Slot
  pc : Word
  npc : Word
  f : Vector Word 32
  deriving DecidableEq, Repr

/-- A steal round under way (R134): the level it stands at, 1 to 3; the cores of level 1 still to visit, once its draw has
been made; and the visits left at levels 2 and 3. -/
structure Round where
  level : Nat
  near : Option (List Nat)
  left : Nat
  deriving DecidableEq, Repr

/-- A thread: the registers of R78 and R83 and where it stands. -/
structure Thread where
  /-- The model's own number of the thread, one per start. -/
  gen : Nat
  st : ThreadSt
  x : Vector Word 64
  f : Vector Word 32
  p : BitVec 8
  q : Vector QSet 8
  pc : Word
  npc : Word
  /-- The next fetch is a transfer and checks TGT (R26). -/
  xfer : Bool
  /-- The next fetch is that of a TRESUME, which a PAIR record lets target an I half (R26). -/
  resumed : Bool
  held : Option HeldLine
  /-- The first turn comes at or after this cycle (R113). -/
  startAt : Nat
  /-- PC of the last bundle issued (R29). -/
  lastPc : Word
  /-- PC and PAIR of the most recent trap record (R26). -/
  lastTrap : Option (Word × Bool)
  /-- QALLOT.N (R84). -/
  allot : Nat
  lvl : BitVec 2
  fpcr : BitVec 3
  fpsr : BitVec 5
  rseq : Word
  qsb : Word
  qss : Word
  qwin : Word
  trav : Word
  dom : Nat
  asn : Nat
  /-- Physical address of the level-0 table (R234). -/
  root : Nat
  /-- Launch serial; 0 for the supervisor and device firmware. -/
  launch : Nat
  prog : Option Prog
  /-- A request whose reply it loses turns for: a handler's (R126), or one it was parked for when a late fault took it
  (R337). -/
  awaits : Option Nat
  /-- A late fault waits for the thread's next turn (R337). -/
  late : Bool
  /-- A DQRUN has parked it, which counted as its end (R140). -/
  ended : Bool
  /-- Bundles issued by a handler (R126). -/
  count : Nat
  pendV : Option PendV
  /-- An instruction-fetch miss or refetch of this physical line is outstanding (R99, R24). -/
  fetching : Option (Nat × Bool)
  /-- Requests whose acknowledgement the thread's first bundle waits for: a handed-off item's release (R140, R273). -/
  hold : List Nat
  /-- The current steal round (R134, R139, log 20). -/
  round : Option Round
  deriving DecidableEq, Repr

/-- A fetched stream element: its value, or the fault it raises when it is popped (R173, R176). -/
inductive Elem where
  | ok (v : BitVec 32)
  | bad (c : Cause) (addr : Word) (info : Word)
  deriving DecidableEq, Repr

/-- A pushed element that is not yet written (R176): its index and value, the instruction that pushed it, its sequence
number in a record, and the first number of the core's later commands (R333, R337). -/
structure Push where
  idx : Nat
  v : BitVec 32
  pc : Word
  seq : BitVec 16
  next : BitVec 16
  deriving DecidableEq, Repr

/-- A stream address generator bound to an f register (R171, R173, R174). -/
structure Gen where
  slot : Nat
  gen : Nat
  freg : BitVec 3
  wr : Bool
  glob : Bool
  fmt : BitVec 4
  base : Word
  /-- Bound and stride of each loop, innermost first. -/
  loops : List (Nat × Int)
  /-- The set, QSB and QSS of a member-index stream. -/
  members : Option (QSet × Word × Word)
  total : Nat
  enabled : Bool
  /-- Elements popped, or pushed, so far. -/
  pos : Nat
  /-- Elements fetched ahead, from `pos` on. -/
  ahead : List Elem
  /-- Pushed elements not yet written, oldest first. -/
  pushes : List Push
  /-- SDIS or RETIRE named it: it frees once its pushes are written (R175, R118). -/
  closing : Bool
  /-- The context of the thread that bound it. -/
  dom : Nat
  asn : Nat
  root : Nat
  launch : Nat
  lbase : Nat
  /-- Lines whose L1 copies hold written elements, and stores on their way to homes, since the last SWAIT (R175). -/
  lines : List Nat
  sent : List Nat
  deriving DecidableEq, Repr

/-- A V-operation in flight (R181). -/
structure VecOp where
  seq : BitVec 16
  slot : Nat
  gen : Nat
  pc : Word
  doneAt : Nat
  wf : Option (BitVec 5 × Word)
  wp : Option (BitVec 3 × Bool)
  flags : BitVec 5
  fault : Option (Cause × Word × Word)
  readsF : BitVec 32
  writesF : BitVec 32
  writesP : BitVec 8
  streams : BitVec 8
  deriving DecidableEq, Repr

/-- The vector engine: the cycle to which its input stage is held, and the operations in flight (R181). -/
structure Vec where
  stage : Option Nat
  ops : List VecOp
  deriving DecidableEq, Repr

/-- A queued or executing cube command, as the ring entry of R338 rebuilds it. -/
structure CubeCmd where
  seq : BitVec 16
  slot : Nat
  gen : Nat
  tid : BitVec 17
  pc : Word
  prom : Bool
  cfg : BitVec 43
  offA : Nat
  offB : Nat
  offG : Nat
  n16 : Nat
  acb : Nat
  spa : Bool
  za : Bool
  nsc : Nat
  /-- The next pass. -/
  pass : Nat
  tileA : List Byte
  tileG : List Byte
  /-- A word of the lead-in's tiles was poisoned: the stream, 0 A or 2 G, and its local address. -/
  bad : Option (BitVec 2 × Nat)
  flags : BitVec 4
  readyAt : Nat
  /-- Local address of the owner's region, as it stood at issue (R161). -/
  lbase : Nat
  deriving DecidableEq, Repr

/-- The cube array of a core (R215, R217, R219). Lanes are maps from 512 × row + column; unlisted words are zero. -/
structure Cube where
  l0 : List (Nat × BitVec 32)
  l1 : List (Nat × BitVec 32)
  acc : List (Nat × BitVec 32)
  cnt : List (Nat × BitVec 7)
  cfg : BitVec 43
  /-- SCM, SMD, SAT, OVF in bits 3 to 0. -/
  sticky : BitVec 4
  owner : Option Nat
  /-- The owner has ended, or released the cube: ownership goes when its queued commands have completed and the requests
  `after` have been acknowledged (R118, R230, R273). -/
  leaving : Bool
  after : List Nat
  done : BitVec 16
  queue : List CubeCmd
  exec : Option CubeCmd
  deriving DecidableEq, Repr

/-- An entry of the command ring (R338). -/
structure RingEnt where
  seq : BitVec 16
  tid : BitVec 17
  /-- 0 issued, 1 completed, 2 faulted, 3 cancelled, 4 dropped. -/
  st : BitVec 3
  opc : BitVec 8
  passes : BitVec 6
  pc : Word
  snap0 : Word
  snap1 : Word
  /-- CUBEST flags raised by passes that ended before a fault (R217). -/
  flags : BitVec 4
  deriving DecidableEq, Repr

/-- An allotted buffer handle (R294, R296). -/
structure Handle where
  base : Nat
  len : Nat
  /-- 0 free, 1 filling, 2 full, 3 draining. -/
  st : BitVec 2
  err : Bool
  reason : BitVec 4
  deriving DecidableEq, Repr

/-- A Sluice queue bound to an engine (R287). -/
structure EngQueue where
  va : Word
  launch : Nat
  dom : Nat
  asn : Nat
  root : Nat
  prio : Nat
  cap : Nat
  next : Nat
  deriving DecidableEq, Repr

/-- The packet a copy engine has taken (R289 to R293). -/
structure Xfer where
  qva : Word
  launch : Nat
  dom : Nat
  asn : Nat
  root : Nat
  idx : Nat
  w : List Word
  /-- Physical completion address as translated at acceptance; none once it must be translated again (R291). -/
  caddr : Option Nat
  /-- Source bytes read and destination bytes written so far, in packet order. -/
  rpos : Nat
  wpos : Nat
  /-- Bytes read that no transform has taken, and bytes ready to be written. -/
  buf : List Byte
  out : List Byte
  /-- Every byte copied, for the non-finite scan (R292). -/
  scan : List Byte
  scanned : Bool
  /-- Steps 1 to 3 of completion are done (R291). -/
  closed : Bool
  /-- The source and the destination page in progress and where each lies (R293). -/
  spage : Option (Nat × Nat)
  dpage : Option (Nat × Nat)
  /-- Why the packet failed, and the fault address (R290). -/
  fail : Option (Nat × Word)
  deriving DecidableEq, Repr

/-- The copy engine of a core (R288, R289). -/
structure Engine where
  queues : List EngQueue
  /-- The queue served last: launch and header address. -/
  last : Option (Nat × Word)
  cur : Option Xfer
  deriving DecidableEq, Repr

/-- A work item: eight words and the record of its push (R129, R273). The words of a spilled item stand in its entry of
the spill area alone (R131). -/
structure Item where
  w : List Word
  spill : Option Nat
  rel : Option RelRec
  /-- Requests that must be acknowledged before the item can be taken (R117, R273). -/
  after : List Nat
  /-- The model's own number of its push: the oldest entry of a full store is the one that is spilled (R131). -/
  born : Nat
  deriving DecidableEq, Repr

/-- A message of SEND (R121, R123). -/
structure Message where
  target : Nat
  sender : Nat
  w : List Word
  dom : Nat
  launch : Nat
  rel : Option RelRec
  after : List Nat
  retryAt : Nat
  deriving DecidableEq, Repr

/-- An L1 instruction-cache line: 64 bytes at a physical address of a domain. -/
structure ICLine where
  dom : Nat
  pa : Nat
  bits : BitVec 512
  deriving DecidableEq, Repr

/-- A TLB entry (R239, R236): a page of 2^size bytes. `flags` holds bits 9 to 0 of the leaf, `level` the leaf's level,
`bias` the bias of each 4 KiB page of it, by number in the entry, as the walks for them found it (R310). -/
structure TlbEnt where
  dom : Nat
  asn : Nat
  va : Nat
  size : Nat
  pa : Nat
  flags : BitVec 10
  key : BitVec 4
  bias : List (Nat × BitVec 2)
  level : Nat
  deriving DecidableEq, Repr

/-- A walker-cache entry: the table entry of a level for a virtual-address range (R239). -/
structure WalkEnt where
  asn : Nat
  level : Nat
  tag : Nat
  pte : Word
  deriving DecidableEq, Repr

/-- A FILL that is held until its thread's requests have been acknowledged (R170, R273): the word at a local byte address,
and its value. -/
structure Fill where
  launch : Nat
  a : Nat
  v : Word
  after : List Nat
  deriving DecidableEq, Repr

/-- A core (R106, R112). -/
structure Core where
  part : Option Nat
  /-- Its cluster is held by a fused launch (R243). -/
  fused : Bool
  cyc : Nat
  tc : Nat
  slots : List (Nat × Thread)
  /-- Slots whose thread was killed while a steal was in flight (R140). -/
  ghosts : List Nat
  vseq : BitVec 32
  lmem : List Host.Cell
  full : List Nat
  lpoison : List Nat
  fill : Option Fill
  icache : List ICLine
  tlb : List TlbEnt
  trapq : List TrapRec
  /-- The cycle of the last record raised and the number raised in it, which stand last in the queue (R335). -/
  trapMark : Nat × Nat
  supFault : Option TrapRec
  supAt : Option Nat
  ring : List RingEnt
  seq : BitVec 16
  cube : Cube
  vec : Vec
  gens : List (Nat × Gen)
  /-- Handles by 64 × launch + number. -/
  handles : List (Nat × Handle)
  eng : Engine
  inbox : List Message
  outq : List Message
  /-- Cycle and sender of the last message accepted (R124), and the cycle of the last allotment of a slot (R114). -/
  accepted : Option (Nat × Nat)
  allotted : Option Nat
  /-- Deques by launch, bottom first. -/
  deques : List (Nat × List Item)
  deriving DecidableEq, Repr

/-- A line of an L1 data cache (R242, R262). -/
structure L1Line where
  dom : Nat
  line : Nat
  data : BitVec 1024
  valid : BitVec 128
  dirty : BitVec 128
  epoch : BitVec 24
  /-- Of an IMM or PRIVC page: exempt from self-invalidation. -/
  keep : Bool
  /-- Words that were poisoned at the home, and words whose dirty bytes are poisoned (R348, R349). -/
  poison : BitVec 16
  dpoison : BitVec 16
  /-- Dirty words that one store has written whole (R249). -/
  whole : BitVec 16
  /-- The launch that last wrote each dirty byte (R351, R352). -/
  owners : List (Nat × BitVec 128)
  deriving DecidableEq, Repr

/-- An L1 data cache, of a core or of a fused cluster, with its counters (R242, R261, R272). Lines most recently used
first. -/
structure Cache where
  lines : List L1Line
  relcnt : Word
  drains : BitVec 32
  dlines : BitVec 32
  /-- A fold that is due or running: whether it has begun, and its write-backs (R268). -/
  fold : Option (Bool × List Nat)
  deriving DecidableEq, Repr

/-- Where the reply of a request goes. -/
inductive Dst where
  | none
  /-- x register, sign-extended from `n` bytes when `sx`. -/
  | x (d : BitVec 6) (sx : Bool)
  | xpair (d : BitVec 6)
  | f (d : BitVec 5)
  | q (d : BitVec 3)
  | arrive (qa : BitVec 3) (xs : BitVec 6) (pd : BitVec 3)
  | depart (qa : BitVec 3) (xc : BitVec 6) (pd : BitVec 3)
  /-- CQPUT and LAUNCH. -/
  | claim (d : BitVec 6) (pd : BitVec 3)
  /-- DQSTEAL. -/
  | steal (d : BitVec 6) (pd : BitVec 3)
  deriving DecidableEq, Repr

/-- What a request does at its home. -/
inductive MKind where
  /-- A load: allocate in L1, exempt from self-invalidation, serve from a replica. -/
  | load (alloc keep repl : Bool)
  /-- A plain store performed at the home (C = 0 page, .STRM, HOST bias), or a relaxed ordered store. -/
  | store
  | writeBack
  /-- AMO by SUBF 0 to 8, CAS 9, AMOF 10 to 12. -/
  | atomic (op : Nat) (cmp : Word)
  | release
  | read
  | join
  | waitv (cc : BitVec 4) (cmp : Word)
  | lwait
  | barw
  /-- A join-counter update: RETIRE.J when `down` (R117, R118). -/
  | counter (down : Bool)
  | arrive (set : QSet) (trav win : Word)
  | depart (wait : Bool) (trav win : Word)
  /-- DRAIN to a releaser up to an epoch, for a held request (R265). -/
  | drain (target : Nat) (epoch : BitVec 24) (held : Nat)
  /-- A packet claim of CQPUT or LAUNCH (R286, R330). -/
  | claim (launch : Bool) (h : Word) (w : List Word) (lvl : BitVec 2)
  /-- A steal attempt at a victim, with the victims still to visit (R134, R139, R140). -/
  | steal (victim : Nat) (rest : List Nat) (item : Option Item)
  deriving DecidableEq, Repr

/-- Where a request stands. -/
inductive MSt where
  | sent | held | waiting | poked | replied
  /-- A member of a combined request after the first, which carries it (R159, R252). -/
  | combined
  deriving DecidableEq, Repr

/-- A request of a thread or engine on its way to a home, at it, or on its way back. -/
structure Msg where
  id : Nat
  kind : MKind
  core : Nat
  slot : Nat
  gen : Nat
  agent : Nat
  dom : Nat
  asn : Nat
  root : Nat
  pa : Nat
  n : Nat
  va : Word
  ord : Nat
  scope : Nat
  /-- RELCNT[23:0] after the count of a release (R261, R264). -/
  epoch : BitVec 24
  after : List Nat
  st : MSt
  pc : Word
  npc : Word
  pair : Bool
  data : BitVec 1024
  mask : BitVec 128
  dst : Dst
  /-- The issuing thread parks, or loses turns, for the reply. -/
  wait : Bool
  poisoned : Bool
  /-- Poisoned words of the line a load reply or a write-back carries. -/
  pmask : BitVec 16
  /-- Words of a write-back that one store has written whole, and the launches of its bytes (R249, R352). -/
  whole : BitVec 16
  owners : List (Nat × BitVec 128)
  /-- The requester self-invalidates when the reply arrives (R265, R267). -/
  inval : Bool
  /-- The members that a switch has combined behind this request, in order (R252, R159). -/
  group : List Nat
  /-- Launch serial of the requester. -/
  launch : Nat
  /-- Cycle at which it left. -/
  sentAt : Nat
  deriving DecidableEq, Repr

/-- States of a Confluence entry; INVALID is absence (R142). -/
inductive ConfSt where
  | opened | sealed | closed
  deriving DecidableEq, Repr

/-- A Confluence-table entry (R142). -/
structure ConfEnt where
  id : Nat
  slice : Nat
  way : Nat
  key : BitVec 185
  st : ConfSt
  leader : BitVec 17
  lgen : Nat
  launch : Nat
  union : QSet
  count : Nat
  born : Nat
  openMax : Nat
  pin : Bool
  deriving DecidableEq, Repr

/-- A directory entry that is not INVALID (R301); `line` is PA[51:7] of its base. -/
structure DirEnt where
  line : Nat
  size : Nat
  owned : Bool
  coarse : Bool
  nptr : Nat
  holders : BitVec 64
  last : Nat
  deriving DecidableEq, Repr

/-- What waits for the acknowledgements of a line (R304, R307, R308, R310, R311). -/
inductive DirWhy where
  | rds (agent : Nat)
  | rdo (agent : Nat)
  /-- Recall of an entry, before a request of `agent` (R307). -/
  | recall
  /-- BFLIP.DEV (R311). -/
  | flip
  /-- An uncorrectable entry: the first line and SIZE of its region (R308). -/
  | rebuild (line size : Nat)
  /-- A core access to a HOST page: request `id`, a write when `write` (R310). -/
  | core (id : Nat) (write : Bool)
  deriving DecidableEq, Repr

/-- Outstanding invalidations or back-invalidates of one line. -/
structure DirPend where
  line : Nat
  agents : List Nat
  why : DirWhy
  deriving DecidableEq, Repr

/-- A request that waits at the directory (R303, R310, R312). Kind 0 uncached read, 1 uncached write, 2 RdS, 3 RdO, 4 WrB,
5 EvN; kind 6 is the core access that request `id` of the network makes. -/
structure ExtReq where
  agent : Nat
  pa : Nat
  kind : Nat
  id : Nat
  mask : BitVec 128
  data : BitVec 1024
  deriving DecidableEq, Repr

/-- The kernel header (R47). -/
structure Hdr where
  clusters : Nat
  cols : Nat
  rows : Nat
  prio : Nat
  steal : Nat
  deque : Nat
  inbox : Nat
  handles : Nat
  sluice : Nat
  conf : Nat
  openMax : Nat
  qregs : Nat
  lmem : Nat
  cube : Bool
  fuse : Bool
  energy : Nat
  ckpt : Nat
  deriving DecidableEq, Repr

/-- What a thread of a saved context holds beside its registers. -/
structure SavedThread where
  slot : Nat
  thread : Thread
  /-- The request with which it stood on a wait list. -/
  msg : Option Msg
  gens : List (Nat × Gen)
  deriving DecidableEq, Repr

/-- One core's part of a save area or checkpoint image (R323, R351). -/
structure SavedCore where
  core : Nat
  /-- The core has been saved; before that only evicted threads are here. -/
  ended : Bool
  threads : List SavedThread
  lmem : List Host.Cell
  full : List Nat
  lpoison : List Nat
  items : List Item
  handles : List (Nat × Handle)
  cube : Option Cube
  queues : List EngQueue
  inbox : List Message
  outq : List Message
  deriving DecidableEq, Repr

/-- Phases of a live launch (R322, R323, R327, R328, R350, R351). -/
inductive LPhase where
  | running
  /-- Being pre-empted since a cycle. -/
  | preempting (t : Nat)
  /-- Evicted from every core. -/
  | out
  /-- A checkpoint in progress since a cycle. -/
  | checkpointing (t : Nat)
  /-- Every core is saved for a checkpoint; the placed cores are being drained. -/
  | ckptDrain (ids : List Nat)
  /-- An unrecoverable fault awaits rollback or termination (R350); `out` when the context stood evicted. -/
  | failed (out : Bool)
  | draining (ids : List Nat)
  deriving DecidableEq, Repr

/-- A checkpoint image (R351). -/
structure Image where
  cores : List SavedCore
  conf : List ConfEnt
  work : Nat
  left : List Nat
  deriving DecidableEq, Repr

/-- A live launch (R314 to R328). -/
structure Launch where
  serial : Nat
  queue : Nat
  asn : Nat
  root : Nat
  save : Nat
  saveKb : Nat
  hdr : Hdr
  lvl : BitVec 2
  prio : Nat
  crec : Word
  crecPa : Nat
  deps : List Nat
  arg0 : Word
  arg1 : Word
  /-- Cores in position order (R318). -/
  cores : List Nat
  /-- Role of each position (R51). -/
  roles : List Nat
  /-- Entry PC of each role. -/
  entries : List Word
  preload : List Byte
  digest : BitVec 512
  work : Nat
  startAt : Nat
  order : Nat
  lbase : Nat
  phase : LPhase
  /-- Placed cores whose entry thread is still to start (R327). -/
  left : List Nat
  energyRes : Int
  energyTot : Nat
  saved : List SavedCore
  spilled : List ConfEnt
  ckpt : Option Image
  undo : List Host.Cell
  /-- Words the launch has written, with whether each was poisoned before (R349, R352), newest first. -/
  undoPoison : List (Nat × Bool)
  /-- Cycle at which the next checkpoint is due (R351). -/
  ckptDue : Nat
  taken : Nat
  rolled : Nat
  deriving DecidableEq, Repr

/-- The head of a launch queue that the unit has taken and checked (R317). -/
structure QHead where
  idx : Nat
  h : Nat
  asn : Nat
  root : Nat
  save : Nat
  saveKb : Nat
  hdr : Hdr
  lvl : BitVec 2
  prio : Nat
  crec : Word
  crecPa : Nat
  deps : List Nat
  dfail : Bool
  depsOk : Bool
  arg0 : Word
  arg1 : Word
  origin : Nat
  roleMap : List (Nat × Nat × Nat)
  entries : List Word
  preload : List Byte
  digest : BitVec 512
  deriving DecidableEq, Repr

/-- A model-key slot that is VALID (R363). -/
structure KeySlot where
  key : BitVec 256
  kid : BitVec 64
  meas : BitVec 512
  pbase : Nat
  nchunk : Nat
  tagbase : Nat
  deriving DecidableEq, Repr

/-- A staging entry (R369). -/
structure Staging where
  key : BitVec 256
  kid : BitVec 64
  meas : BitVec 512
  nchunk : Nat
  session : Nat
  deriving DecidableEq, Repr

/-- An energy account (R376): B in microjoules; `snap` is the account at the last interval end. -/
structure Account where
  rate : Nat
  cap : Nat
  b : Int
  stage : Nat
  used : Nat
  snapB : Int
  snapStage : Nat
  snapUsed : Nat
  sets : List (Nat × Nat)
  next : Nat
  deriving DecidableEq, Repr

/-- The state of a partition (R359). -/
inductive PState where
  | none | creating | running | destroying
  deriving DecidableEq, Repr

/-- A partition, or the domain of device firmware: what it owns, its memory and its units (R355, R356). -/
structure Dom where
  st : PState
  groups : BitVec 40
  llcs : BitVec 64
  stks : BitVec 16
  hostSlot : BitVec 64
  fabSlot : BitVec 64
  quantum : Nat
  ctxt : Nat
  nctx : Nat
  lqt : Nat
  bias : Nat
  scope : Nat
  /-- The words of the three scope-table entries, as they stood at the partition's start (R255, R360). -/
  scopes : List (List Nat)
  supImg : Nat
  supAsn : Nat
  supRoot : Nat
  supPc : Word
  supDigest : BitVec 512
  desc : List Byte
  mem : List Host.Cell
  poison : List Nat
  recs : List (Nat × RelRec)
  /-- Lines of the L2 slices and of the LLC slices, most recently used first (R244). -/
  l2 : List Nat
  llc : List Nat
  replicas : List (Nat × Nat)
  walk : List WalkEnt
  conf : List ConfEnt
  dir : List DirEnt
  pend : List DirPend
  reqs : List ExtReq
  /-- Lines for which the host has answered a core read's back-invalidate, until the read is performed (R310). -/
  asked : List Nat
  /-- Of each home slice, the cycle and thread identifier of the last request performed (R253). -/
  served : List (Nat × Nat × Nat)
  heads : List (Nat × QHead)
  lastQ : Nat
  /-- The chosen head (false and its queue) or context (true and its serial) that cannot be reserved yet (R322). -/
  chosen : Option (Bool × Nat)
  launches : List (Nat × Launch)
  nextSerial : Nat
  keys : List (Nat × KeySlot)
  staging : List (Nat × Staging)
  acct : Account
  /-- The AES-256-XTS key (R358, R362). -/
  xts : BitVec 512
  deriving DecidableEq, Repr

/-- What an invalidation of XLINV or BFLIP covers (R240, R311). -/
inductive InvKind where
  | va (asn va : Nat)
  | space (asn : Nat)
  | all
  | page (pa : Nat)
  deriving DecidableEq, Repr

/-- An invalidation in flight: recipients that have not received it, and those whose acknowledgement is outstanding
with the write-backs it awaits. -/
structure Inval where
  id : Nat
  dom : Nat
  core : Nat
  kind : InvKind
  todo : List Nat
  acks : List (Nat × List Nat)
  deriving DecidableEq, Repr

/-- A management ring (R371): slots of eight words, write and read indices. -/
structure MRing where
  slots : List (Nat × Word)
  wi : Word
  ri : Word
  deriving DecidableEq, Repr

/-- Something the device has answered to an outside agent: a kind, the address or index, a size and the data. -/
structure Answer where
  kind : Nat
  addr : Nat
  size : Nat
  data : BitVec 1024
  deriving DecidableEq, Repr

/-- Whether the instruction of an issue has issued, lost its turn or trapped. -/
inductive IssSt where
  | issued | lost | trapped
  deriving DecidableEq, Repr

/-- The issue in progress: the thread, the bundle's PC, the address after it, and what the halves of a pair share. -/
structure Issue where
  core : Nat
  slot : Nat
  pc : Word
  npc : Word
  pair : Bool
  raw : Slot
  /-- The f registers a V half reads, as they stood before the I half (R28). -/
  shadow : Option (Vector Word 32)
  st : IssSt
  /-- An MTS of the I half, in effect after the V half (R103): register and value. -/
  mts : Option (Nat × Word)
  deriving DecidableEq, Repr

/-- A fetched bundle that the step runs next. -/
structure Latch where
  core : Nat
  slot : Nat
  pc : Word
  npc : Word
  pair : Bool
  halves : List Slot
  /-- f registers for a V half that issues alone after its parked I half. -/
  shadow : Option (Vector Word 32)
  deriving DecidableEq, Repr

/-- The machine. -/
structure State where
  cycle : Nat
  cores : List (Nat × Core)
  caches : List (Nat × Cache)
  ctlbs : List (Nat × List TlbEnt)
  doms : List (Nat × Dom)
  net : List Msg
  invals : List Inval
  nextId : Nat
  fresh : Nat
  /-- STAT (R371, R383): bring-up step, READY and error code. -/
  bootStep : Nat
  ready : Bool
  bootErr : BitVec 8
  /-- Management rings by function (R371). -/
  rings : List (Nat × MRing)
  /-- SPDM sessions: endpoint, session number, and the model's own number of the session (R368, R369). -/
  sessions : List (Nat × Nat × Nat)
  identity : BitVec 456
  /-- Digests of the security-processor firmware and of the device firmware, as bring-up measured them (R367, R383). -/
  spDigest : BitVec 512
  fwDigest : BitVec 512
  /-- The launch queue that the security processor has bound at LVL 3 (R361, R383). -/
  fwQueue : Option Word
  fabric : Nat
  /-- Ports taken down, and consecutive failed retries of ports (R373). -/
  portsDown : List Nat
  retries : List (Nat × Nat)
  /-- Host-memory lines the L2 holds under CXL.cache, with their bytes (R309). -/
  hostLines : List (Nat × BitVec 1024)
  gauge : List (Nat × Word)
  gaugeNv : List (Nat × Word)
  answers : List Answer
  iss : Issue
  latch : Option Latch
  /-- The events to come, in the order the environment chose; empty: the step takes the default event (log 4). -/
  agenda : List Instr
  deriving DecidableEq, Repr

/-- The cube of a core that no launch has been given (R215, R216, R217). -/
def Cube.empty : Cube := ⟨[], [], [], [], 0, 0, none, false, [], 0, [], none⟩

/-- The issue context before any bundle has issued. -/
def Issue.empty : Issue := ⟨0, 0, 0, 0, false, 0, none, .issued, none⟩

/-- The machine right after reset (R383): bring-up step 1, no partition, no thread, memory with nothing listed. -/
def State.reset : State where
  cycle := 0
  cores := []
  caches := []
  ctlbs := []
  doms := []
  net := []
  invals := []
  nextId := 1
  fresh := 0
  bootStep := 1
  ready := false
  bootErr := 0
  rings := []
  sessions := []
  identity := 0
  spDigest := 0
  fwDigest := 0
  fwQueue := none
  fabric := 0
  portsDown := []
  retries := []
  hostLines := []
  gauge := []
  gaugeNv := []
  answers := []
  iss := Issue.empty
  latch := none
  agenda := []

end Sys2Proof.Machine
end

