-- ==== Sys2Proof/Machine/Maps.lean ====
section
/-! DEFINITION. Maps as lists of (key, value) pairs, and byte memory as a list of cells in one canonical form:
addresses strictly rising and no cell equal to what an unlisted address reads as (log 1). -/
namespace Sys2Proof.Machine

/-- The value of a key. -/
def lookup {α : Type} : List (Nat × α) → Nat → Option α
  | [], _ => none
  | (k', v) :: t, k => if k' = k then some v else lookup t k

/-- Set the value of a key, keeping the keys rising. -/
def insertKey {α : Type} : List (Nat × α) → Nat → α → List (Nat × α)
  | [], k, v => [(k, v)]
  | (k', v') :: t, k, v =>
    if k < k' then (k, v) :: (k', v') :: t
    else if k = k' then (k, v) :: t
    else (k', v') :: insertKey t k v

/-- Remove a key. -/
def eraseKey {α : Type} (m : List (Nat × α)) (k : Nat) : List (Nat × α) := m.filter fun e => e.1 != k

/-- What a byte of memory that nothing has written reads as (log 1; R358 zeroes a new partition). -/
def Memory.unlisted : Byte := 0#8

/-- The byte at an address. -/
def Memory.get (m : List Host.Cell) (a : Nat) : Byte := (lookup m a).getD Memory.unlisted

/-- Write a byte, keeping the canonical form. -/
def Memory.set (m : List Host.Cell) (a : Nat) (b : Byte) : List Host.Cell :=
  if b = Memory.unlisted then eraseKey m a else insertKey m a b

/-- The keys of a map rise strictly. -/
def keysRise {α : Type} : List (Nat × α) → Bool
  | [] => true
  | [_] => true
  | (a, _) :: (b, v) :: t => decide (a < b) && keysRise ((b, v) :: t)

/-- The canonical form of a byte memory. -/
def Memory.wf (m : List Host.Cell) : Bool := keysRise m && m.all fun c => c.2 != Memory.unlisted

/-- `n` bytes from an address, as a number, least significant byte lowest (R3). -/
def Memory.read (m : List Host.Cell) (a : Nat) : Nat → Nat
  | 0 => 0
  | n + 1 => (Memory.get m a).toNat + 256 * Memory.read m (a + 1) n

/-- Write the low `n` bytes of a number (R3). -/
def Memory.write (m : List Host.Cell) (a : Nat) : Nat → Nat → List Host.Cell
  | 0, _ => m
  | n + 1, v => Memory.write (Memory.set m a (BitVec.ofNat 8 v)) (a + 1) n (v / 256)

/-- Write the bytes of `v` whose bit is set in `mask`, byte `i` at `a + i`, for `i` below `n`. -/
def Memory.writeMask (m : List Host.Cell) (a : Nat) : Nat → Nat → Nat → List Host.Cell
  | 0, _, _ => m
  | n + 1, mask, v =>
    Memory.writeMask (if mask % 2 = 1 then Memory.set m a (BitVec.ofNat 8 v) else m) (a + 1) n (mask / 2) (v / 256)

/-- `n` bytes as a list. -/
def Memory.bytes (m : List Host.Cell) (a n : Nat) : List Byte := (List.range n).map fun i => Memory.get m (a + i)

/-- Write a list of bytes. -/
def Memory.put (m : List Host.Cell) (a : Nat) : List Byte → List Host.Cell
  | [] => m
  | b :: t => Memory.put (Memory.set m a b) (a + 1) t

/-- A little-endian list of bytes as a number. -/
def bytesToNat : List Byte → Nat
  | [] => 0
  | b :: t => b.toNat + 256 * bytesToNat t

/-- The low `n` bytes of a number, least significant first. -/
def natToBytes : Nat → Nat → List Byte
  | 0, _ => []
  | n + 1, v => BitVec.ofNat 8 v :: natToBytes n (v / 256)

/-- Add `v` to a list of numbers unless it is there. -/
def addNew (l : List Nat) (v : Nat) : List Nat := if l.contains v then l else l ++ [v]

/-- The number of ones of a word. -/
def ones {w : Nat} (v : BitVec w) : Nat := (List.range w).foldl (fun n i => if v.getLsbD i then n + 1 else n) 0

/-- The positions of the ones of a word, rising. -/
def onesAt {w : Nat} (v : BitVec w) : List Nat := (List.range w).filter fun i => v.getLsbD i

end Sys2Proof.Machine
end

