-- ==== Sys2Proof/Machine/Ops.lean ====
section
/-! DEFINITION. The named operations over the state: cores, threads, registers, requests, losing a turn and parking,
and TAKING A TRAP with the return from it. -/
namespace Sys2Proof.Machine

/-- What a meaning answers. -/
abbrev Out := Host.Outcome State Fault Refusal

/-! ### Numbering of cores, threads and agents -/

/-- Core number in the layout of CORE from the linear index (R11, R12). -/
def coreNum (c : Nat) : Nat := c / 960 * 2048 + c / 6 % 160 * 8 + c % 6
/-- Linear index of a core number, when it names a core (R11, R12). -/
def coreOfNum (n : Nat) : Option Nat :=
  if n < 8192 ∧ n / 8 % 256 < 160 ∧ n % 8 < 6 then some (n / 2048 * 960 + n / 8 % 256 * 6 + n % 8) else none
/-- Thread identifier (R11). -/
def tidOf (c slot : Nat) : BitVec 17 := BitVec.ofNat 17 (coreNum c * 16 + slot)
/-- Cluster of a core, device-wide 0 to 639 (R9). -/
def clusterOf (c : Nat) : Nat := c / 6
/-- The agent number of a copy engine, distinct from every core (R273). -/
def engineAgent (c : Nat) : Nat := 8192 + c
/-- The agent number of a partition's launch unit. -/
def unitAgent (d : Nat) : Nat := 16384 + d
/-- The cluster an agent stands in; none for a launch unit. -/
def agentCluster (a : Nat) : Option Nat :=
  if a < 4096 then some (clusterOf a) else if a < 8192 then some (a - 4096)
  else if a < 16384 then some (clusterOf (a - 8192)) else none
/-- Scope `sc` of agent `a` covers agent `b`, both of one partition (R254). -/
def scopeCovers (sc a b : Nat) : Bool :=
  match sc with
  | 0 => a == b || (a ≥ 8192 && a < 16384 && a - 8192 == b) || (b ≥ 8192 && b < 16384 && b - 8192 == a)
  | 1 => (agentCluster a).isSome && agentCluster a == agentCluster b
  | _ => true

/-! ### Blank pieces -/

/-- A thread before its start has set anything (R80): all registers zero, no register allotted. -/
def Thread.blank : Thread where
  gen := 0
  st := .ready
  x := Vector.replicate 64 0
  f := Vector.replicate 32 0
  p := 0
  q := Vector.replicate 8 0
  pc := 0
  npc := 0
  xfer := true
  resumed := false
  held := none
  startAt := 0
  lastPc := 0
  lastTrap := none
  allot := 0
  lvl := 0
  fpcr := 0
  fpsr := 0
  rseq := 0
  qsb := 0
  qss := 0
  qwin := 0
  trav := 0
  dom := 0
  asn := 0
  root := 0
  launch := 0
  prog := none
  awaits := none
  late := false
  ended := false
  count := 0
  pendV := none
  fetching := none
  hold := []
  round := none

/-- A core in which nothing has happened up to cycle `t` (log 2 for VSEQ). -/
def Core.idle (c t : Nat) : Core where
  part := none
  fused := false
  cyc := t
  tc := t
  slots := []
  ghosts := []
  vseq := BitVec.ofNat 32 (c + 1)
  lmem := []
  full := []
  lpoison := []
  fill := none
  icache := []
  tlb := []
  trapq := []
  trapMark := (0, 0)
  supFault := none
  supAt := none
  ring := []
  seq := 0
  cube := Cube.empty
  vec := ⟨none, []⟩
  gens := []
  handles := []
  eng := ⟨[], none, none⟩
  inbox := []
  outq := []
  accepted := none
  allotted := none
  deques := []

/-- An L1 data cache that holds nothing. -/
def Cache.empty : Cache := ⟨[], 0, 0, 0, none⟩

/-- An energy account as CREATE resets it (R376). -/
def Account.zero : Account := ⟨0, 0, 0, 0, 0, 0, 0, 0, [], 0⟩

/-- A partition that does not exist; the firmware domain has the memory of all stacks (log 7). -/
def Dom.blank (d : Nat) : Dom where
  st := if d = Config.firmwareDomain then .running else .none
  groups := 0
  llcs := 0
  stks := if d = Config.firmwareDomain then 0xFFFF else 0
  hostSlot := 0
  fabSlot := 0
  quantum := 131072
  ctxt := 0
  nctx := 0
  lqt := 0
  bias := 0
  scope := 0
  scopes := []
  supImg := 0
  supAsn := 0
  supRoot := 0
  supPc := 0
  supDigest := 0
  desc := []
  mem := []
  poison := []
  recs := []
  l2 := []
  llc := []
  replicas := []
  walk := []
  conf := []
  dir := []
  pend := []
  reqs := []
  asked := []
  served := []
  heads := []
  lastQ := 63
  chosen := none
  launches := []
  nextSerial := 1
  keys := []
  staging := []
  acct := Account.zero
  xts := 0

/-- A kernel header with every declaration zero (R47). -/
def Hdr.zero : Hdr := ⟨0, 0, 0, 0, 0, 0, 0, 0, 0, 0, 0, 0, 0, false, false, 0, 0⟩

/-- A launch that declares nothing: what a thread of no launch sees. -/
def Launch.none : Launch where
  serial := 0
  queue := 0
  asn := 0
  root := 0
  save := 0
  saveKb := 0
  hdr := Hdr.zero
  lvl := 0
  prio := 0
  crec := 0
  crecPa := 0
  deps := []
  arg0 := 0
  arg1 := 0
  cores := []
  roles := []
  entries := []
  preload := []
  digest := 0
  work := 0
  startAt := 0
  order := 0
  lbase := 0
  phase := .running
  left := []
  energyRes := 0
  energyTot := 0
  saved := []
  spilled := []
  ckpt := Option.none
  undo := []
  undoPoison := []
  ckptDue := 0
  taken := 0
  rolled := 0

/-! ### Parts of the state -/

/-- A core; one nothing has touched is idle since reset (R106). -/
def State.core (s : State) (c : Nat) : Core := (lookup s.cores c).getD (Core.idle c s.cycle)
def State.setCore (s : State) (c : Nat) (k : Core) : State := { s with cores := insertKey s.cores c k }
def State.modCore (s : State) (c : Nat) (g : Core → Core) : State := s.setCore c (g (s.core c))

/-- A domain: partition 0 to 15, or the firmware domain. -/
def State.dom (s : State) (d : Nat) : Dom := (lookup s.doms d).getD (Dom.blank d)
def State.setDom (s : State) (d : Nat) (v : Dom) : State := { s with doms := insertKey s.doms d v }
def State.modDom (s : State) (d : Nat) (g : Dom → Dom) : State := s.setDom d (g (s.dom d))

/-- A live launch of a domain. -/
def State.launch (s : State) (d n : Nat) : Launch := (lookup (s.dom d).launches n).getD Launch.none
def State.modLaunch (s : State) (d n : Nat) (g : Launch → Launch) : State :=
  match lookup (s.dom d).launches n with
  | some l => s.modDom d fun v => { v with launches := insertKey v.launches n (g l) }
  | none => s

/-- Add to the outstanding-work count of a launch (R115). -/
def State.addWork (s : State) (d n : Nat) (k : Nat) : State := s.modLaunch d n fun l => { l with work := l.work + k }
def State.subWork (s : State) (d n : Nat) : State := s.modLaunch d n fun l => { l with work := l.work - 1 }

/-- The L1 data cache of an agent. -/
def State.cache (s : State) (a : Nat) : Cache := (lookup s.caches a).getD Cache.empty
def State.setCache (s : State) (a : Nat) (k : Cache) : State := { s with caches := insertKey s.caches a k }
def State.modCache (s : State) (a : Nat) (g : Cache → Cache) : State := s.setCache a (g (s.cache a))

/-- The agent whose L1 a core uses: itself, or its fused cluster (R243, R271). -/
def State.agentOf (s : State) (c : Nat) : Nat := if (s.core c).fused then 4096 + clusterOf c else c

/-- The thread in a slot of a core, if any. -/
def State.thread? (s : State) (c sl : Nat) : Option Thread := lookup (s.core c).slots sl
def State.thread (s : State) (c sl : Nat) : Thread := (s.thread? c sl).getD Thread.blank
def State.setThread (s : State) (c sl : Nat) (t : Thread) : State :=
  s.modCore c fun k => { k with slots := insertKey k.slots sl t }
def State.modThread (s : State) (c sl : Nat) (g : Thread → Thread) : State := s.setThread c sl (g (s.thread c sl))

/-- The issuing thread. -/
def State.cur (s : State) : Thread := s.thread s.iss.core s.iss.slot
def State.modCur (s : State) (g : Thread → Thread) : State := s.modThread s.iss.core s.iss.slot g
/-- The issuing core. -/
def State.curCore (s : State) : Core := s.core s.iss.core
def State.modCurCore (s : State) (g : Core → Core) : State := s.modCore s.iss.core g
/-- The launch of the issuing thread. -/
def State.curLaunch (s : State) : Launch := s.launch s.cur.dom s.cur.launch
/-- The domain of the issuing thread. -/
def State.curDom (s : State) : Dom := s.dom s.cur.dom

/-! ### Registers (R78 to R82) -/

/-- X[r]; x0 reads as zero (R79). -/
def Thread.getX (t : Thread) (r : BitVec 6) : Word := if r = 0#6 then 0#64 else t.x[r.toNat]'(r.isLt)
/-- Write X[r]; a write to x0 is discarded (R79). -/
def Thread.setX (t : Thread) (r : BitVec 6) (v : Word) : Thread :=
  if r = 0#6 then t else { t with x := t.x.set r.toNat v r.isLt }
def Thread.getF (t : Thread) (r : BitVec 5) : Word := t.f[r.toNat]'(r.isLt)
def Thread.setF (t : Thread) (r : BitVec 5) (v : Word) : Thread := { t with f := t.f.set r.toNat v r.isLt }
/-- P[r]; p0 reads as true (R79). -/
def Thread.getP (t : Thread) (r : BitVec 3) : Bool := r == 0#3 || t.p.getLsbD r.toNat
/-- Write P[r]; a write to p0 is discarded (R79). -/
def Thread.setP (t : Thread) (r : BitVec 3) (v : Bool) : Thread :=
  if r = 0#3 then t
  else { t with p := if v then t.p ||| (1#8 <<< r.toNat) else t.p &&& ~~~(1#8 <<< r.toNat) }
def Thread.getQ (t : Thread) (r : BitVec 3) : QSet := t.q[r.toNat]'(r.isLt)
def Thread.setQ (t : Thread) (r : BitVec 3) (v : QSet) : Thread := { t with q := t.q.set r.toNat v r.isLt }
/-- The predicates as PMOV form 0 gives them (R96). -/
def Thread.predWord (t : Thread) : Word := (t.p ||| 1#8).setWidth 64
/-- Register `r + j` of a group. -/
def regAt (r : BitVec 6) (j : Nat) : BitVec 6 := r + BitVec.ofNat 6 j
/-- Write a group of x registers from `r` on. -/
def Thread.setXs (t : Thread) (r : BitVec 6) : List Word → Thread
  | [] => t
  | v :: vs => (t.setX r v).setXs (r + 1#6) vs
/-- `n` x registers from `r` on. -/
def Thread.getXs (t : Thread) (r : BitVec 6) (n : Nat) : List Word := (List.range n).map fun j => t.getX (regAt r j)

def State.rx (s : State) (r : BitVec 6) : Word := s.cur.getX r
def State.wx (s : State) (r : BitVec 6) (v : Word) : State := s.modCur fun t => t.setX r v
def State.rp (s : State) (r : BitVec 3) : Bool := s.cur.getP r
def State.wp (s : State) (r : BitVec 3) (v : Bool) : State := s.modCur fun t => t.setP r v
def State.rq (s : State) (r : BitVec 3) : QSet := s.cur.getQ r
def State.wq (s : State) (r : BitVec 3) (v : QSet) : State := s.modCur fun t => t.setQ r v

/-! ### Trap records and the trap queue (R332 to R335) -/

/-- The code of a cause (R332). -/
def Cause.code : Cause → BitVec 8
  | .machineCheck => 0x00#8
  | .illegalInstruction => 0x01#8
  | .illegalRegister => 0x02#8
  | .illegalLine => 0x03#8
  | .illegalTarget => 0x04#8
  | .illegalPair => 0x05#8
  | .privilege => 0x06#8
  | .translation => 0x07#8
  | .protection => 0x08#8
  | .alignment => 0x09#8
  | .poison => 0x0A#8
  | .cubeShape => 0x0B#8
  | .cubeData => 0x0C#8
  | .vectorStream => 0x0D#8
  | .handlerOverrun => 0x0E#8
  | .handlerBlock => 0x0F#8
  | .breakpoint => 0x10#8
  | .svc => 0x11#8
  | .trap => 0x12#8
  | .cubeOwner => 0x13#8
  | .sparseMetadata => 0x14#8
  | .scaleCount => 0x15#8
  | .copyError => 0x16#8

/-- Flags of a record (R333): LATE, CANCEL, ENGINE, CONTAINED, PAIR from bit 0 up. -/
def recFlags (late cancel engine contained pair : Bool) : BitVec 8 :=
  0#3 ++ BitVec.ofBool pair ++ BitVec.ofBool contained ++ BitVec.ofBool engine ++ BitVec.ofBool cancel ++
    BitVec.ofBool late

/-- A trap record (R333). -/
def mkRec (c : Cause) (flags : BitVec 8) (tid : BitVec 17) (seq : BitVec 16) (pc addr extra : Word) : TrapRec :=
  ⟨seq ++ 0#15 ++ tid ++ flags ++ c.code, pc, addr, extra⟩

/-- The thread a record names; none for an engine record (R333). -/
def TrapRec.tid? (r : TrapRec) : Option (BitVec 17) :=
  if r.w0.getLsbD 10 then none else some (r.w0.extractLsb' 16 17)

/-- Number of records waiting in the queue of 16; later ones stand in their holding places (R335). -/
def Core.trapqCount (k : Core) : Nat := min k.trapq.length 16

/-- The place of a record among those of its cycle: its slot, an engine's after every slot's (R335). -/
def TrapRec.rank (r : TrapRec) : Nat := if r.w0.getLsbD 10 then 16 else (r.w0.extractLsb' 16 4).toNat

/-- Records of the core's present cycle, which stand last in the queue (R335). -/
def Core.raisedNow (k : Core) : Nat := if k.trapMark.1 = k.cyc then min k.trapMark.2 k.trapq.length else 0

/-- A record enters the queue or its holding place in raise order, among those of one cycle in ascending slot order with an
engine's last (R335). -/
def Core.enterRec (k : Core) (r : TrapRec) : Core :=
  let n := k.raisedNow
  let now := k.trapq.drop (k.trapq.length - n)
  { k with
    trapq := k.trapq.take (k.trapq.length - n) ++ now.takeWhile (fun x => x.rank ≤ r.rank) ++
      r :: now.dropWhile fun x => x.rank ≤ r.rank
    trapMark := (k.cyc, n + 1) }

/-- A record is raised; a TRECV that waits returns to rotation (R335, R341). -/
def State.pushRec (s : State) (c : Nat) (r : TrapRec) : State :=
  s.modCore c fun k =>
    { k.enterRec r with
      slots := k.slots.map fun e =>
        match e.2.st with
        | .parked (.record _) => (e.1, { e.2 with st := .ready, startAt := max e.2.startAt (k.cyc + 1) })
        | _ => e }

/-! ### Losing a turn and parking (R108, R109) -/

/-- The bundle does not issue: the thread stays at it and tries again at its next turn (R108). -/
def State.loseTurn (s : State) : State :=
  let s := s.modCur fun t => { t with pc := s.iss.pc }
  { s with iss := { s.iss with st := .lost } }

/-- Lose the turn and remember how far the instruction has come. -/
def State.loseWith (s : State) (p : Prog) : State := (s.modCur fun t => { t with prog := some p }).loseTurn

/-- Park with a wake condition, the PC already at the next bundle (R109). -/
def State.park (s : State) (w : Wake) : State := s.modCur fun t => { t with st := .parked w }

/-- Park at the bundle itself, which runs again when the thread returns. -/
def State.parkHere (s : State) (w : Wake) : State := s.modCur fun t => { t with st := .parked w, pc := s.iss.pc }

/-! ### Taking a trap, and the return from it (R336, R339, R343) -/

/-- Raise a precise trap of the thread in a slot (R336). The record holds cause, thread, PC, fault address and extra
word; the thread enters TRAPPED with its context PC at the bundle and NPC after it, and no part of the bundle takes
effect. The supervisor never enters TRAPPED: its record waits for its restart (R339). -/
def State.raiseAt (s : State) (c sl : Nat) (cause : Cause) (addr extra pc npc : Word) (pair : Bool) : State :=
  let r := mkRec cause (recFlags false false false false pair) (tidOf c sl) 0#16 pc addr extra
  if sl = 15 then
    (s.modCore c fun k => { k with supFault := some r }).modThread c sl fun t =>
      { t with pc := pc, npc := npc, prog := none, awaits := none, pendV := none, fetching := none }
  else
    (s.modThread c sl fun t =>
      { t with st := .trapped, pc := pc, npc := npc, lastTrap := some (pc, pair), prog := none, awaits := none,
               pendV := none, fetching := none }).pushRec c r

/-- TAKING A TRAP: the issuing bundle raises a precise trap (R336). -/
def State.takeTrap (s : State) (cause : Cause) (addr extra : Word) : State :=
  let s := s.raiseAt s.iss.core s.iss.slot cause addr extra s.iss.pc s.iss.npc s.iss.pair
  { s with iss := { s.iss with st := .trapped } }

/-- The next free value: a 64-bit word nothing constrains (log 5). -/
def State.freeWord (s : State) : Word := Config.freeWord s.fresh
def State.useFree (s : State) : State := { s with fresh := s.fresh + 1 }

/-- A Protection trap for which no walk took place: level 7 in bits 2:0 (R237). The spec states no reason code for it,
so bits 7:4 are a free value (log 16). -/
def State.protTrap (s : State) (addr : Word) : State :=
  s.useFree.takeTrap .protection addr (((s.freeWord &&& 15#64) <<< 4) ||| 7#64)

/-- A request of the slot for whose reply its thread is parked: it is under way, or stands on a wait list. -/
def State.parkedFor (s : State) (c sl gen : Nat) : Option Msg :=
  s.net.find? fun m => m.core == c && m.slot == sl && m.gen == gen && m.wait

/-- A parked thread enters TRAPPED and loses its wake condition (R337): it leaves a wait list it stands on. A request that
is under way still brings its result, for which the thread, once resumed, loses turns. -/
def State.trapParked (s : State) (c sl : Nat) : State :=
  let t := s.thread c sl
  let m := s.parkedFor c sl t.gen
  let onList := m.any fun m => m.st == .waiting || m.st == .poked
  let s := if onList then { s with net := s.net.filter fun x => some x.id != m.map (·.id) } else s
  s.modThread c sl fun t =>
    { t with st := .trapped, npc := t.pc, late := false,
             awaits := if onList then none else m.map (·.id) }

/-- A late fault (R337 steps 1 and 3): its record is queued with LATE; a parked thread enters TRAPPED at once and
loses its wake condition, any other at its next turn. -/
def State.raiseLate (s : State) (c sl : Nat) (cause : Cause) (cancel : Bool) (seq : BitVec 16)
    (pc addr extra : Word) : State :=
  let r := mkRec cause (recFlags true cancel false false false) (tidOf c sl) seq pc addr extra
  if sl = 15 then s.modCore c fun k => { k with supFault := some r }
  else
    let s := match (s.thread c sl).st with
      | .parked _ => s.trapParked c sl
      | .ready => s.modThread c sl fun t => { t with late := true }
      | .trapped => s
    (s.modThread c sl fun t => { t with lastTrap := some (pc, false) }).pushRec c r

/-- THE RETURN FROM A TRAP (R343): a TRAPPED thread returns to READY at its context PC or NPC, its handler count from
zero, its next fetch checked as a transfer, issuing from cycle `t + 16` on. -/
def Thread.resumeAt (t : Thread) (next : Bool) (cyc : Nat) : Thread :=
  { t with st := .ready, pc := if next then t.npc else t.pc, xfer := true, resumed := true, count := 0, startAt := cyc + 16,
           late := false, held := none }

/-! ### Checks every instruction shares (R41, R42, R82) -/

/-- Run `k` when the issuing thread's level is at least `n`, else take the Privilege trap (R42). -/
def State.needLevel (s : State) (n : Nat) (k : State → State) : State :=
  if s.cur.lvl.toNat < n then s.takeTrap .privilege 0 0 else k s

/-- Run `k` when every q register named is allotted, else take the Illegal-Register trap (R82). -/
def State.needQ (s : State) (qs : List (BitVec 3)) (k : State → State) : State :=
  if qs.all fun q => decide (q.toNat < s.cur.allot) then k s else s.takeTrap .illegalRegister 0 0

/-! ### Requests -/

/-- Whether a request has been acknowledged: it is no longer under way. -/
def State.acked (s : State) (id : Nat) : Bool := !(s.net.any fun m => m.id == id)

def State.findMsg (s : State) (id : Nat) : Option Msg := s.net.find? fun m => m.id == id
def State.dropMsg (s : State) (id : Nat) : State := { s with net := s.net.filter fun m => m.id != id }
def State.setMsg (s : State) (m : Msg) : State :=
  { s with net := s.net.map fun m' => if m'.id = m.id then m else m' }

/-- A request of a thread with nothing special about it. -/
def State.newMsg (s : State) (c sl : Nat) (kind : MKind) (pa n : Nat) (va : Word) : Msg :=
  let t := s.thread c sl
  { id := s.nextId, kind := kind, core := c, slot := sl, gen := t.gen, agent := s.agentOf c, dom := t.dom, asn := t.asn,
    root := t.root, pa := pa, n := n, va := va, ord := 0, scope := 0, epoch := 0, after := [], st := .sent, pc := s.iss.pc,
    npc := s.iss.npc, pair := s.iss.pair, data := 0, mask := 0, dst := .none, wait := false, poisoned := false,
    pmask := 0, whole := 0, owners := [], inval := false, group := [], launch := t.launch, sentAt := s.cycle }

/-- Send a request; its number is the state's next. -/
def State.post (s : State) (m : Msg) : State :=
  { s with net := s.net ++ [{ m with id := s.nextId }], nextId := s.nextId + 1 }

/-- Earlier requests of a thread of the kinds a release waits for: releases, atomics, home-performed stores and
counter updates (R264). -/
def State.outstanding (s : State) (c sl : Nat) : List Nat :=
  (s.net.filter fun m => m.core == c && m.slot == sl && m.gen == (s.thread c sl).gen && match m.kind with
    | .release | .store | .atomic _ _ | .counter _ | .barw | .arrive _ _ _ => true
    | _ => false).map (·.id)

/-- Earlier releases of a thread, before which none of its later ordered accesses is performed (R264). -/
def State.releases (s : State) (c sl : Nat) : List Nat :=
  (s.net.filter fun m => m.core == c && m.slot == sl && m.gen == (s.thread c sl).gen && match m.kind with
    | .release | .barw | .counter _ | .arrive _ _ _ => true
    | .atomic _ _ => m.ord ≥ 3
    | _ => false).map (·.id)

/-- The issuing thread waits for the reply of request `id`: it parks, or in slot 14 loses turns (R109, R126). -/
def State.awaitReply (s : State) (id : Nat) : State :=
  if s.iss.slot = 14 then s.modCur fun t => { t with awaits := some id } else s.park (.home id)

/-- Post a request for which the issuing thread waits. -/
def State.postWait (s : State) (m : Msg) : State :=
  (s.post { m with wait := true }).awaitReply s.nextId

/-- Device answers to outside agents are kept in order. -/
def State.answer (s : State) (a : Answer) : State := { s with answers := s.answers ++ [a] }

/-- Add one to a Gauge counter, saturating (R381). -/
def State.count (s : State) (cls kind inst : Nat) : State :=
  let i := cls * 65536 + kind * 4096 + inst
  let v := (lookup s.gauge i).getD 0
  { s with gauge := insertKey s.gauge i (if v = BitVec.allOnes 64 then v else v + 1) }

/-- A request to a peer that no route reaches is counted at its link port (R374, R381), which the spec does not state: a
free value (log 9). -/
def State.countPeer (s : State) : State := s.useFree.count 8 4 (s.freeWord.toNat % 32)

end Sys2Proof.Machine
end

