-- ==== Sys2Proof/Machine/Operands.lean ====
section
/-! DEFINITION. The operand forms: integer widths and extension (R32, R88), effective addresses (R33, R248), branch
targets (R26, R36, R157), the local window (R161). -/
namespace Sys2Proof.Machine

/-- The operand width W[1:0] names (R32). -/
def widthOf (w : BitVec 4) : Nat := 8 * 2 ^ (w.toNat % 4)
/-- W[2]: signed (R32). -/
def wSigned (w : BitVec 4) : Bool := w.getLsbD 2
/-- W[3]: saturating (R32). -/
def wSat (w : BitVec 4) : Bool := w.getLsbD 3

/-- Ext of the low `n` bits of a register as an integer (R88). -/
def extInt (v : Word) (n : Nat) (signed : Bool) : Int :=
  if signed then (v.setWidth n).toInt else ((v.setWidth n).toNat : Int)

/-- A result mod 2^n, extended to 64 bits (R88). -/
def extBack (r : Int) (n : Nat) (signed : Bool) : Word :=
  if signed then (BitVec.ofInt n r).signExtend 64 else (BitVec.ofInt n r).setWidth 64

/-- Clamp to a range. -/
def clampInt (r lo hi : Int) : Int := if r < lo then lo else if hi < r then hi else r

/-- The saturation of R88. -/
def saturate (w : BitVec 4) (r : Int) : Int :=
  let n := widthOf w
  if wSat w then
    if wSigned w then clampInt r (-(2 ^ (n - 1) : Int)) (2 ^ (n - 1) - 1) else clampInt r 0 (2 ^ n - 1)
  else r

/-- The register value of an exact result under W (R88). -/
def aluResult (w : BitVec 4) (r : Int) : Word := extBack (saturate w r) (widthOf w) (wSigned w)

/-- An operand under W as an integer (R88). -/
def aluOperand (w : BitVec 4) (v : Word) : Int := extInt v (widthOf w) (wSigned w)

/-- The effective address of format M (R33). -/
def eaOf (t : Thread) (base idx : BitVec 6) (scl : BitVec 2) (off : BitVec 48) : Word :=
  t.getX base + (t.getX idx <<< scl.toNat) + off.signExtend 64

/-- The effective address of an atomic (R248). -/
def eaAtomic (t : Thread) (base : BitVec 6) (off : BitVec 48) : Word := t.getX base + off.signExtend 64

/-- A branch target (R26). -/
def branchTarget (pc : Word) (disp : BitVec 37) (slot : BitVec 3) : Word :=
  (((pc >>> 6) + disp.signExtend 64) <<< 6) + 12#64 * slot.setWidth 64

/-- The target of QFORK (R157). -/
def qforkTarget (pc : Word) (imm : BitVec 32) : Word :=
  (((pc >>> 6) + (imm.extractLsb' 3 29).signExtend 64) <<< 6) + 12#64 * (imm.extractLsb' 0 3).setWidth 64

/-- The slot number a PC names in its line, when it names one (R26). -/
def pcSlot (pc : Word) : Option Nat :=
  match (pc &&& 63#64).toNat with
  | 0 => some 0
  | 12 => some 1
  | 24 => some 2
  | 36 => some 3
  | 48 => some 4
  | _ => none

/-- The line address of a PC (R26). -/
def pcLine (pc : Word) : Word := pc &&& ~~~63#64

/-- The address after slot `i` of the line of a PC (R27). -/
def slotAfter (pc : Word) (i : Nat) : Word :=
  if i < 4 then pcLine pc + BitVec.ofNat 64 (12 * (i + 1)) else pcLine pc + 64#64

/-- An address in the local window (R161). -/
def inWindow (a : Word) : Bool := Config.windowBase ≤ a.toNat && a.toNat < Config.windowBase + Config.windowBytes
/-- The window offset of an address in the local window (R161). -/
def winOff (a : Word) : Nat := a.toNat - Config.windowBase
/-- A canonical virtual address (R234). -/
def canonical (a : Word) : Bool :=
  let top := a.extractLsb' 55 9
  top == 0#9 || top == BitVec.allOnes 9
/-- The 56 address bits a walk uses (R234, R235). -/
def va56 (a : Word) : Nat := (a.extractLsb' 0 56).toNat
/-- The bytes a SIZE code names (R33). -/
def sizeBytes (size : BitVec 3) : Nat := 2 ^ size.toNat
/-- Whether an address is a multiple of `n`. -/
def alignedTo (a : Word) (n : Nat) : Bool := a.toNat % n == 0

/-- The first `n` bytes of the region at window offset `o` lie in it (R161). -/
def inRegion (lmem o n : Nat) : Bool := decide (o + n ≤ lmem)

end Sys2Proof.Machine
end

