-- ==== Sys2Proof/Machine/Flags.lean ====
section
/-! DEFINITION. Condition codes (R94), the sticky floating-point flags (R70), the linear-feedback sequence (R100). -/
namespace Sys2Proof.Machine

/-- A condition code over two operands of `n` bits (R94). -/
def condHolds (cc : BitVec 4) (n : Nat) (x y : Word) : Bool :=
  let a := x.setWidth n
  let b := y.setWidth n
  match cc.toNat with
  | 0 => a == b
  | 1 => a != b
  | 2 => a.slt b
  | 3 => b.sle a
  | 4 => a.ult b
  | 5 => b.ule a
  | 6 => b.slt a
  | 7 => a.sle b
  | 8 => b.ult a
  | 9 => a.ule b
  | 10 => (a &&& b) != 0
  | _ => (a &&& b) == 0

/-- Flags of FPSR (R70), bit 4 to 0: IX, UF, OF, DZ, IV. -/
def fIV : BitVec 5 := 1#5
def fDZ : BitVec 5 := 2#5
def fOF : BitVec 5 := 4#5
def fUF : BitVec 5 := 8#5
def fIX : BitVec 5 := 16#5

/-- OR flags into a thread's FPSR (R70). -/
def Thread.orFlags (t : Thread) (fl : BitVec 5) : Thread := { t with fpsr := t.fpsr ||| fl }

/-- One step of the 64-bit Galois sequence: the output bit and the next state (R100). -/
def stepSeq (r : Word) : Bool × Word :=
  let o := r.getLsbD 0
  let r' := r >>> 1
  (o, if o then r' ^^^ 0xD800000000000000#64 else r')

/-- `n` steps: bit i of the number is the output of step i (R100, R101). -/
def drawBits : Nat → Word → Nat × Word
  | 0, r => (0, r)
  | n + 1, r =>
    let (o, r') := stepSeq r
    let (v, r'') := drawBits n r'
    (o.toNat + 2 * v, r'')

/-- NextRand16 (R69, R100). -/
def nextRand16 (r : Word) : Nat × Word := drawBits 16 r

/-- The state an MTS stores: never zero (R100). -/
def rseqStored (v : Word) : Word := if v = 0#64 then 0x6A09E667#64 else v

/-- RSEQ at thread start (R100). -/
def rseqStart (tid : BitVec 17) : Word := (tid.setWidth 64 <<< 32) ||| 0x6A09E667#64

/-- One draw of a core's victim sequence (R134). -/
def drawVictim (v : BitVec 32) : Nat × BitVec 32 :=
  let v' := v >>> 1
  let v' := if v.getLsbD 0 then v' ^^^ 0x80200003#32 else v'
  ((v'.extractLsb' 0 16).toNat, v')

/-- The XFOLD fold of chunk width `k` (R93): chunks enter from the low end, as many as cover 64 bits. -/
def foldChunks (k : Nat) (v : Nat) : Nat → Nat
  | 0 => 0
  | n + 1 => (v % 2 ^ k) ^^^ foldChunks k (v / 2 ^ k) n

/-- FoldK of a 64-bit value without modulus (R93, R245). -/
def foldK (k : Nat) (v : Nat) : Nat := foldChunks k v ((64 + k - 1) / k)

end Sys2Proof.Machine
end

