-- ==== Sys2Proof/Machine/Gate.lean ====
section
/-! DEFINITION. What stands before an access at a home: the bias table, the L2 and LLC slices, the directory's entries and
the gate (R244, R245, R300 to R304, R307, R310, R312). -/
namespace Sys2Proof.Machine

/-- Bytes of a domain's memory: its stacks concatenated (R372). -/
def Dom.bytes (v : Dom) : Nat := ones v.stks * Config.stackBytes

/-- The bias code of the page that holds a physical address (R310); the firmware domain has no bias table. -/
def State.biasAt (s : State) (d pa : Nat) : BitVec 2 :=
  let v := s.dom d
  if d < 16 ∧ v.st ≠ .none then
    ((Memory.get v.mem (v.bias + pa / 4096 / 4)) >>> (2 * (pa / 4096 % 4))).setWidth 2
  else 0

/-- The line index of a physical address (R245). -/
def lineOf (pa : Nat) : Nat := pa / 128
/-- Byte mask of `n` bytes at offset `o` of a line. -/
def lineMask (o n : Nat) : BitVec 128 := BitVec.ofNat 128 ((2 ^ n - 1) * 2 ^ o)

/-- Home L2 slice of a line, device-wide 0 to 639 (R245). -/
def homeSlice (v : Dom) (line : Nat) : Nat :=
  let gs := onesAt v.groups
  let g := gs.getD (foldK 8 (line / 16) % max gs.length 1) 0
  g / 10 * 160 + g % 10 * 16 + foldK 4 line
/-- LLC slice of a line (R245). -/
def llcSlice (v : Dom) (line : Nat) : Nat :=
  let ls := onesAt v.llcs
  ls.getD (foldK 6 line % max ls.length 1) 0

/-! ### Directory entries (R300, R301) -/

/-- The entry covers a line. -/
def DirEnt.covers (e : DirEnt) (line : Nat) : Bool := e.line ≤ line && line < e.line + 2 ^ e.size
/-- The agents an entry names, within a partition's agent set (R301, R304). -/
def DirEnt.agents (e : DirEnt) (set : List Nat) : List Nat :=
  if e.coarse then set.filter fun a => e.holders.getLsbD (a / 32)
  else (List.range e.nptr).map fun j => (e.holders.extractLsb' (11 * j) 11).toNat
/-- An entry with one pointer or none. -/
def DirEnt.single (e : DirEnt) (owned : Bool) (agent : Nat) : DirEnt :=
  { e with owned := owned, coarse := false, nptr := 1, holders := BitVec.ofNat 64 agent }
/-- Add an agent to an entry (R304): a fifth pointer makes it coarse. -/
def DirEnt.addAgent (e : DirEnt) (a : Nat) : DirEnt :=
  if e.coarse then { e with holders := e.holders ||| (1#64 <<< (a / 32)) }
  else if (e.agents []).contains a then e
  else if e.nptr < 4 then { e with nptr := e.nptr + 1, holders := e.holders ||| (BitVec.ofNat 64 a <<< (11 * e.nptr)) }
  else
    { e with coarse := true, nptr := 0,
             holders := (a :: e.agents []).foldl (fun m g => m ||| (1#64 <<< (g / 32))) 0#64 }

/-- Partition and device pairs of scope-table entry `n`, from 1 to 3 (R255, R360). -/
def Dom.scopeEntry (v : Dom) (n : Nat) : List Nat := if n = 0 then [] else v.scopes.getD (n - 1) []

/-- The agent set of a partition: its L2, the host and the peers of its fabric-3 entry (R299). -/
def Dom.agentSet (v : Dom) : List Nat :=
  0 :: 1 :: ((v.scopeEntry 3).map fun w => 2 + w % 1024).eraseDups

/-- The smallest entry that covers a line: the one that says who holds it. A larger one that covers it too came later, for
lines whose own entry had become INVALID (R304). -/
def smallestOver (line : Nat) : List DirEnt → Option DirEnt
  | [] => none
  | e :: rest =>
    match smallestOver line rest with
    | some x => some (if e.covers line && e.size < x.size then e else x)
    | none => if e.covers line then some e else none

/-- The entry of a line. -/
def Dom.entryOf (v : Dom) (line : Nat) : Option DirEnt := smallestOver line v.dir
/-- An entry's lines: those of its region that no smaller entry covers. -/
def DirEnt.lines (e : DirEnt) (es : List DirEnt) : List Nat :=
  ((List.range (2 ^ e.size)).map (e.line + ·)).filter fun l => !(es.any fun x => x.covers l && x.size < e.size)

/-- Split the entry of a line until the line has an entry of its own (R304). A half whose lines all have entries of their
own stands for nothing and is left out. -/
def splitTo (line : Nat) : Nat → List DirEnt → List DirEnt
  | 0, es => es
  | fuel + 1, es =>
    match smallestOver line es with
    | none => es
    | some e =>
      if e.size = 0 then es
      else
        let rest := es.filter fun x => x != e
        let stale (x : DirEnt) : Bool :=
          (List.range (2 ^ x.size)).all fun i => rest.any fun y => y.covers (x.line + i) && y.size ≤ x.size
        let lo := { e with size := e.size - 1 }
        let hi := { e with line := e.line + 2 ^ (e.size - 1), size := e.size - 1 }
        splitTo line fuel ([lo, hi].filter (fun x => x.covers line || !stale x) ++ rest)

/-- Replace the entry of a line by another, or by none. -/
def Dom.setEntry (v : Dom) (line : Nat) (e : Option DirEnt) : Dom :=
  { v with dir := e.toList ++ v.dir.filter fun x => v.entryOf line != some x }

/-! ### Sets of a directory slice (R307) -/

/-- The 64 KiB block of a line (R300). -/
def blockOf (line : Nat) : Nat := line / 512
/-- The directory slice of a line: the LLC slice of the first line of its block (R300). -/
def Dom.dirSlice (v : Dom) (line : Nat) : Nat := llcSlice v (blockOf line * 512)

/-- The set of an entry with a first line: of a slice's 2,048 sets of 16 ways. Which bits index a set the spec does not
state (log 24). -/
def dirSet (line : Nat) : Nat := foldK 11 line

/-- The least recently requested of a list of entries. -/
def oldest : List DirEnt → Option DirEnt
  | [] => none
  | e :: rest =>
    match oldest rest with
    | none => some e
    | some x => if x.last < e.last then some x else some e

/-- Entries in the set that a new entry with this first line takes a way of. -/
def Dom.setMates (v : Dom) (line : Nat) : List DirEnt :=
  v.dir.filter fun e => v.dirSlice e.line == v.dirSlice line && dirSet e.line == dirSet line

/-- First lines of the upper halves that splitting the entry of a line down to the line makes (R304). -/
def splitBases (line : Nat) (es : List DirEnt) : List Nat :=
  match smallestOver line es with
  | none => []
  | some e => (List.range e.size).map fun k => e.line + (line - e.line) / 2 ^ (k + 1) * 2 ^ (k + 1) + 2 ^ k

/-- Invalidations of the line of an address go out to a list of agents (R304). -/
def Dom.sendInvals (v : Dom) (line : Nat) (agents : List Nat) (why : DirWhy) : Dom :=
  { v with pend := v.pend ++ [{ line := line, agents := agents, why := why }] }

/-- Room for an entry with a given first line (R307): none when a way is free; else the state in which the home has recalled
the least recently requested entry of the set, or waits for such a recall. An entry over `line` itself stays. -/
def Dom.roomFor (v : Dom) (line base : Nat) : Option Dom :=
  let mates := v.setMates base
  if mates.length < 16 then none
  else if v.pend.any fun p => p.why == .recall && v.dirSlice p.line == v.dirSlice base then some v
  else
    (oldest (mates.filter fun e => !e.covers line)).map fun e =>
      (e.lines v.dir).foldl (fun v l => v.sendInvals l (e.agents v.agentSet) .recall) v

/-- Split the entry of a line down to the line, once every half has a way; the domain as it then stands, or one in which a
recall is under way (R304, R307). -/
def Dom.splitFor (v : Dom) (line : Nat) : Except Dom Dom :=
  match (splitBases line v.dir).findSome? (v.roomFor line) with
  | some v' => .error v'
  | none => .ok { v with dir := splitTo line 9 v.dir }

/-- Change the entry of a line, at its size (R304). -/
def Dom.modEntry (v : Dom) (line : Nat) (g : DirEnt → DirEnt) : Dom :=
  { v with dir := v.dir.map fun e => if v.entryOf line == some e then g e else e }

/-- The 16-bit SECDED code that the directory keeps over an entry (R301); the spec does not state the code (log 6). -/
def DirEnt.ecc (e : DirEnt) : BitVec 16 :=
  Config.dirEcc (BitVec.ofNat 45 e.line) e.size e.owned e.coarse e.nptr e.holders e.last

/-! ### L2 and LLC slices (R244) -/

/-- A line enters the LLC in front. -/
def Dom.putLlc (v : Dom) (line : Nat) : Dom := { v with llc := line :: v.llc.erase line }

/-- A line leaves a full L2 slice for the LLC: the least recently used one, with its record and poison, which stand by
address (R244, R270). -/
def Dom.spillL2 (v : Dom) (line : Nat) : Dom :=
  if v.l2.length ≤ Config.l2Lines then v
  else
    let same := v.l2.filter fun l => homeSlice v l == homeSlice v line
    if same.length ≤ Config.l2Lines then v
    else
      match same.getLast? with
      | some old => { v with l2 := v.l2.erase old }.putLlc old
      | none => v

/-- A home uses a line: it becomes the most recently used of its slice. One that the L2 does not hold is fetched through the
LLC, and an entry over it names agent 0, its region requested now (R244, R301, R302). -/
def Dom.touchL2 (v : Dom) (line now : Nat) : Dom :=
  if v.l2.contains line then { v with l2 := line :: v.l2.erase line }
  else
    ({ v with
      l2 := line :: v.l2
      dir := v.dir.map fun (e : DirEnt) => if e.covers line then { e.addAgent 0 with last := now } else e }.putLlc line).spillL2 line

/-- A line that an LLC slice holds beyond its size: the least recently used one must leave (R244). -/
def Dom.llcVictim (v : Dom) : Option Nat :=
  if v.llc.length ≤ Config.llcLines then none
  else v.llc.reverse.find? fun l => Config.llcLines < (v.llc.filter fun x => llcSlice v x == llcSlice v l).length

/-- The line leaves the L2, with its replicas; its record travels with it to the LLC (R270, R302). -/
def Dom.dropL2 (v : Dom) (line : Nat) : Dom :=
  { v with l2 := v.l2.erase line, replicas := v.replicas.filter fun r => r.1 != line }.putLlc line

/-! ### The gate of an access at the home -/

/-- The answer of the gate. -/
inductive Gate where
  | ready (s : State)
  | blocked (s : State)

/-- The core access of a request, as it waits at the directory. -/
def ExtReq.ofCore (id pa : Nat) : ExtReq := { agent := 0, pa := pa, kind := 6, id := id, mask := 0, data := 0 }
/-- It is that core access. -/
def ExtReq.isCore (r : ExtReq) (id : Nat) : Bool := r.kind == 6 && r.id == id

/-- The request of the network that a gate is asked for is a write-back. -/
def State.isBack (s : State) (id : Nat) : Bool := s.net.any fun m => m.id == id && m.kind == .writeBack

/-- A core access that the gate holds back takes its place among the requests of its block (R312). A write-back and an
access of no request, numbered 0, take none: they ask again. -/
def State.queueCore (s : State) (d pa id : Nat) : State :=
  if id = 0 || s.isBack id || (s.dom d).reqs.any (fun r => r.isCore id) then s
  else s.modDom d fun v => { v with reqs := v.reqs ++ [ExtReq.ofCore id pa] }

/-- Requests of the block that came before a core access. -/
def Dom.ahead (v : Dom) (pa id : Nat) : Bool :=
  (v.reqs.takeWhile fun r => id == 0 || !r.isCore id).any fun r => blockOf (lineOf r.pa) == blockOf (lineOf pa)

/-- Outside agents that must act before a core access to a line (R302, R304, R310): every one named for a write, an owner for
a read, and the host for a read of a HOST page of which it is named, until it has answered. -/
def Dom.inTheWay (v : Dom) (line : Nat) (host write : Bool) : List Nat :=
  match v.entryOf line with
  | none => []
  | some e =>
    let outside := (e.agents v.agentSet).filter fun a => a != 0
    if write || e.owned then outside
    else if host && outside.contains 1 && !v.asked.contains line then [1]
    else []

/-- A core access passes: it leaves the queue of its block, and on a HOST page its region has been requested now. -/
def State.pass (s : State) (d line id : Nat) (host : Bool) : State :=
  let v := s.dom d
  if host || v.reqs.any (fun r => r.isCore id) || v.asked.contains line then
    let v := if host then v.modEntry line fun e => { e with last := s.cycle } else v
    s.setDom d { v with reqs := v.reqs.filter fun r => !r.isCore id, asked := v.asked.filter fun l => l != line }
  else s

/-- Whether a request may be performed at its home now. It waits while its page is FLIPPING (R310), but for a write-back,
for which the flip itself may wait (R311); while invalidations of its line are outstanding (R303) or its region is being
rebuilt (R308); and, when it concerns the directory or has waited there, behind earlier requests of its block (R311, R312).
Agents in its way are sent invalidations first. Agent 0 is the L2 itself. -/
def State.gate (s : State) (d pa id : Nat) (write : Bool) : Gate :=
  let v := s.dom d
  let line := lineOf pa
  let bias := s.biasAt d pa
  let host := bias == 1#2
  let back := s.isBack id
  let inWay := v.inTheWay line host write
  if bias = 2#2 && !back then .blocked (s.queueCore d pa id)
  else if v.pend.any (fun p => p.line == line || match p.why with
      | .rebuild b n => b ≤ line && line < b + 2 ^ n
      | _ => false) then .blocked (s.queueCore d pa id)
  else if (host || !inWay.isEmpty || v.reqs.any fun r => r.isCore id) && !back && v.ahead pa id then .blocked (s.queueCore d pa id)
  else if inWay.isEmpty then .ready (s.pass d line id host)
  else
    .blocked ((s.setDom d (match v.splitFor line with
      | .error v' => v'
      | .ok v' => v'.sendInvals line inWay (.core id write))).queueCore d pa id)

/-- Nothing has been done, but the homes have been asked: of a later state only what waits at the directories stays. -/
def State.asked (s s' : State) : State :=
  s'.doms.foldl (fun s e => s.modDom e.1 fun v => { v with dir := e.2.dir, pend := e.2.pend, reqs := e.2.reqs }) s

end Sys2Proof.Machine
end

