-- ==== Sys2Proof/Machine/Xlate.lean ====
section
/-! DEFINITION. Translation: the page walk, its faults, the TLBs and the walker caches (R234 to R239). -/
namespace Sys2Proof.Machine

/-- What an access needs of a leaf (R237); `any` checks no permission (R278). -/
inductive Need where
  | read | write | both | exec | any
  deriving DecidableEq, Repr

/-- The outcome of a translation: a physical address with the entry used, the fault and its information byte, or a wait for
an outside agent that holds a table entry. -/
inductive XRes where
  | ok (pa : Nat) (e : TlbEnt)
  | fail (c : Cause) (info : Nat)
  | wait
  deriving DecidableEq, Repr

/-- Index bits of a level (R235): low bit and count. -/
def levelIndex (va level : Nat) (tg : Bool) : Nat :=
  match level with
  | 0 => va / 2 ^ 48 % 256
  | 1 => va / 2 ^ 39 % 512
  | 2 => va / 2 ^ 30 % 512
  | 3 => va / 2 ^ 21 % 512
  | _ => if tg then va / 2 ^ 16 % 32 else va / 2 ^ 12 % 512

/-- log2 of the bytes an entry of a level maps (R235). -/
def levelShift (level : Nat) (tg : Bool) : Nat :=
  match level with
  | 0 => 48
  | 1 => 39
  | 2 => 30
  | 3 => 21
  | _ => if tg then 16 else 12

/-- ADDR of an entry (R236). -/
def pteAddr (e : Word) : Nat := (e.extractLsb' 12 40).toNat * 4096

/-- A page-table entry with V = 1 is malformed at a level (R236, R237). -/
def pteBad (e : Word) (level : Nat) (tg : Bool) : Bool :=
  e.extractLsb' 56 8 != 0 || e.extractLsb' 10 2 != 0 ||
    if e.getLsbD 1 then
      level == 4 || (e.extractLsb' 2 8 &&& 0xBF#8) != 0 || e.extractLsb' 52 4 != 0 || (e.getLsbD 8 && level != 3)
    else
      level ≤ 1 || e.getLsbD 8 || (!e.getLsbD 9 && e.extractLsb' 52 4 != 0) ||
        pteAddr e % 2 ^ levelShift level tg != 0 || (e.getLsbD 6 && e.getLsbD 3) || (e.getLsbD 9 && e.getLsbD 4)

/-- What the walker's read of an entry finds: the entry, poison or no memory, or an outside agent to wait for (R302). -/
inductive WRead where
  | word (w : Word)
  | bad
  | wait
  deriving DecidableEq, Repr

/-- How a walk ends. -/
inductive WalkRes where
  | leaf (pte : Word) (shift level : Nat) (path : List (Nat × Word))
  | fail (c : Cause) (info : Nat)
  | wait
  deriving DecidableEq, Repr

/-- A walk from a level down (R235, R237). `rd` reads the entry of a level at an address; `path` collects the table entries
used. -/
def walkFrom (rd : State → Nat → Nat → State × WRead) (va : Nat) :
    State → Nat → Nat → Nat → Bool → List (Nat × Word) → State × WalkRes
  | s, 0, level, _, _, _ => (s, .fail .translation (level + 16))
  | s, fuel + 1, level, table, tg, path =>
    match rd s level (table + 8 * levelIndex va level tg) with
    | (s, .wait) => (s, .wait)
    | (s, .bad) => (s, .fail .poison 0)
    | (s, .word e) =>
      if !e.getLsbD 0 then (s, .fail .translation level)
      else if pteBad e level tg then (s, .fail .translation (level + 16))
      else if e.getLsbD 1 then walkFrom rd va s fuel (level + 1) (pteAddr e) (e.getLsbD 8) ((level, e) :: path)
      else (s, .leaf e (levelShift level tg) level path)

/-- The reason an access is denied by a leaf, if it is (R237): flags are bits 9:0 of the leaf. -/
def denied (fl : BitVec 10) (need : Need) (core : Bool) : Option Nat :=
  let r := fl.getLsbD 2
  let w := fl.getLsbD 3
  let x := fl.getLsbD 4
  let perm : Option Nat := match need with
    | .read => if r then none else some 3
    | .write => if w then none else some 4
    | .both => if !r then some 3 else if !w then some 4 else none
    | .exec => if x then none else some 5
    | .any => none
  match perm with
  | some p => some p
  | none => if core && need != .any && fl.getLsbD 9 then some 6 else none

/-- The number of the 4 KiB page of an address in the page an entry maps. -/
def TlbEnt.pageOf (e : TlbEnt) (va : Nat) : Nat := va / 4096 - e.va / 4096
/-- A TLB entry maps an address of an address space. -/
def TlbEnt.covers (e : TlbEnt) (d asn va : Nat) : Bool :=
  e.dom == d && e.asn == asn && e.va ≤ va && va < e.va + 2 ^ e.size
/-- The bias an entry records of the 4 KiB page of an address (R310). -/
def TlbEnt.biasOf (e : TlbEnt) (va : Nat) : Option (BitVec 2) := lookup e.bias (e.pageOf va)
/-- The entry as it serves one address. -/
def TlbEnt.serving (e : TlbEnt) (va : Nat) : Option TlbEnt :=
  (e.biasOf va).map fun b => { e with bias := [(e.pageOf va, b)] }
/-- Two entries are of one leaf. -/
def TlbEnt.sameLeaf (e x : TlbEnt) : Bool := { e with bias := [] } == { x with bias := [] }
/-- Add the pairs of a map whose keys another lacks. -/
def addMissing {α : Type} (m : List (Nat × α)) : List (Nat × α) → List (Nat × α)
  | [] => m
  | b :: rest => addMissing (if (lookup m b.1).isSome then m else insertKey m b.1 b.2) rest
/-- An entry put before others of its leaf takes over the biases they record. -/
def TlbEnt.join (e : TlbEnt) (l : List TlbEnt) : TlbEnt :=
  { e with bias := addMissing e.bias ((l.filter e.sameLeaf).flatMap fun x => x.bias) }
/-- Put an entry in front, in place of any other of its page. -/
def putTlb (l : List TlbEnt) (e : TlbEnt) : List TlbEnt :=
  e.join l :: l.filter fun x => !(x.dom == e.dom && x.asn == e.asn && x.va == e.va && x.size == e.size)

/-- The set of an entry in a cluster TLB: 128 sets of 8 ways. Which bits index a set is the model's choice (log 10). -/
def TlbEnt.set (e : TlbEnt) : Nat := e.va / 2 ^ e.size % 128
/-- A cluster TLB keeps the 8 newest entries of each set (R239). -/
def trimTlb (e : TlbEnt) : Nat → List TlbEnt → List TlbEnt
  | _, [] => []
  | n, x :: rest => if x.set == e.set then (match n with
      | 0 => trimTlb e 0 rest
      | n + 1 => x :: trimTlb e n rest) else x :: trimTlb e n rest

/-- The walker's read of an entry at its home, where an outside agent may have to act first: from the walker cache, else
from memory (R238, R239, R302). -/
def State.walkRead (d asn va : Nat) (s : State) (level addr : Nat) : State × WRead :=
  let v := s.dom d
  match v.walk.find? fun w => w.asn == asn && w.level == level && w.tag == va / 2 ^ levelShift level false with
  | some w => (s, .word w.pte)
  | none =>
    if v.bytes < addr + 8 then (s, .bad)
    else
      match s.gate d addr 0 false with
      | .blocked s => (s, .wait)
      | .ready s =>
        let s := s.modDom d fun v => v.touchL2 (lineOf addr) s.cycle
        let v := s.dom d
        (s, if v.poison.contains (addr / 8) then .bad else .word (BitVec.ofNat 64 (Memory.read v.mem addr 8)))

/-- Walk without any TLB (R235). -/
def State.walk (s : State) (d asn root va : Nat) : State × WalkRes :=
  walkFrom (State.walkRead d asn va) va s 5 0 root false []

/-- The TLB entry of a leaf, with the bias of the 4 KiB page walked for (R239, R310). -/
def State.leafEnt (s : State) (d asn va : Nat) (pte : Word) (shift level : Nat) : TlbEnt :=
  { dom := d, asn := asn, va := va / 2 ^ shift * 2 ^ shift, size := shift, pa := pteAddr pte,
    flags := pte.setWidth 10, key := pte.extractLsb' 52 4,
    bias := [(va % 2 ^ shift / 4096, s.biasAt d (pteAddr pte + va % 2 ^ shift))], level := level }

/-- Install an entry in the core's and its cluster's TLB, and the path in the walker cache (R239). -/
def State.installTlb (s : State) (c : Nat) (e : TlbEnt) (va : Nat) (path : List (Nat × Word)) : State :=
  let s := s.modCore c fun k => { k with tlb := (putTlb k.tlb e).take 64 }
  let cl := clusterOf c
  let s := { s with ctlbs := insertKey s.ctlbs cl (trimTlb e 8 (putTlb ((lookup s.ctlbs cl).getD []) e)) }
  s.modDom e.dom fun v =>
    { v with walk := (path.map fun p =>
        { asn := e.asn, level := p.1, tag := va / 2 ^ levelShift p.1 false, pte := p.2 : WalkEnt }) ++ v.walk }

/-- The TLB entry a core holds for an address, in its own TLB or its cluster's (R239). -/
def State.tlbFind (s : State) (c d asn va : Nat) : Option TlbEnt :=
  let of (l : List TlbEnt) : Option TlbEnt := (l.find? fun e => e.covers d asn va).bind fun e => e.serving va
  (of (s.core c).tlb).or (of ((lookup s.ctlbs (clusterOf c)).getD []))

/-- Check the permission of a leaf and give the physical address (R237). A denial has the leaf's level, whether a TLB held
the leaf or the walk reached it: TLB replacement changes no outcome (R239, log 16). -/
def useLeaf (e : TlbEnt) (va : Nat) (need : Need) : XRes :=
  match denied e.flags need true with
  | some r => .fail .protection (e.level + 16 * r)
  | none => .ok (e.pa + (va - e.va)) e

/-- What asks for the translation of an address in the local window, which is never translated (R161, R234), has no such
page: a Protection fault of level 7 whose reason bits are a free value (log 16). -/
def State.noPage (s : State) : State × XRes := (s.useFree, .fail .protection (7 + 16 * (s.freeWord.toNat % 16)))

/-- Translate an address for a core (R234, R237): canonical check, TLBs, walk. -/
def State.translate (s : State) (c d asn root : Nat) (a : Word) (need : Need) : State × XRes :=
  if !canonical a then (s, .fail .translation 0x27)
  else if inWindow a then s.noPage
  else
    let va := va56 a
    match s.tlbFind c d asn va with
    | some e => (s, useLeaf e va need)
    | none =>
      match s.walk d asn root va with
      | (s, .wait) => (s, .wait)
      | (s, .fail cause info) => (s, .fail cause info)
      | (s, .leaf pte shift level path) =>
        let e := s.leafEnt d asn va pte shift level
        (s.installTlb c e va path, useLeaf e va need)

/-- Translate for a unit that keeps no TLB: the copy engine and the launch unit (R293, R317). -/
def State.translateUnit (s : State) (d asn root : Nat) (a : Word) (need : Need) : State × XRes :=
  if !canonical a then (s, .fail .translation 0x27)
  else if inWindow a then s.noPage
  else
    match s.walk d asn root (va56 a) with
    | (s, .wait) => (s, .wait)
    | (s, .fail cause info) => (s, .fail cause info)
    | (s, .leaf pte shift level _) =>
      let e := s.leafEnt d asn (va56 a) pte shift level
      (s, match denied e.flags need false with
        | some r => .fail .protection (level + 16 * r)
        | none => .ok (e.pa + (va56 a - e.va)) e)

/-- Translate for the issuing thread. -/
def State.translateCur (s : State) (a : Word) (need : Need) : State × XRes :=
  s.translate s.iss.core s.cur.dom s.cur.asn s.cur.root a need

/-- The trap a failed translation raises: fault address and extra word (R237, R334). -/
def State.xlateTrap (s : State) (cause : Cause) (a : Word) (info : Nat) : State :=
  s.takeTrap cause a (if cause = .poison then 0 else BitVec.ofNat 64 info)

/-- Every page of `n` bytes from an address translates (R229, R287): the first failure else, or a state in which an outside
agent must act first. -/
def State.translateAll (s : State) (a : Word) (need : Need) : Nat → Except State (State × Option (Cause × Word × Nat))
  | 0 => .ok (s, none)
  | pages + 1 =>
    match s.translateCur a need with
    | (s', .wait) => .error s'
    | (s', .fail c info) => .ok (s', some (c, a, info))
    | (s', .ok _ _) => s'.translateAll ((a &&& ~~~0xFFF#64) + 0x1000#64) need pages

/-- Run `k` on the physical address and entry that the issuing thread's access translates to; a failed translation traps,
and the turn is lost while an outside agent must act first. -/
def State.withPa (s : State) (a : Word) (need : Need) (k : State → Nat → TlbEnt → State) : State :=
  match s.translateCur a need with
  | (s, .wait) => s.loseTurn
  | (s, .fail c info) => s.xlateTrap c a info
  | (s, .ok pa e) => k s pa e

/-- Pages of 4 KiB that `n` bytes from an address touch. -/
def pagesOf (a : Word) (n : Nat) : Nat := if n = 0 then 0 else (a.toNat % 4096 + n - 1) / 4096 + 1

end Sys2Proof.Machine
end

