-- ==== Sys2Proof/Machine/Home.lean ====
section
/-! DEFINITION. The home of a line: reads and writes of memory, poison, replicas, the undo log, the wake lists and release
records (R246, R249, R260, R263, R352). -/
namespace Sys2Proof.Machine

/-- A replica of a line stands at a cluster's slice (R246). -/
def Dom.hasReplica (v : Dom) (line cl : Nat) : Bool := v.replicas.contains (line, cl)
/-- Every replica of a line is invalidated (R246). -/
def Dom.dropReplicas (v : Dom) (line : Nat) : Dom := { v with replicas := v.replicas.filter fun r => r.1 != line }

/-- Whether any of `n` bytes from an address lies in a poisoned word (R249). -/
def Dom.poisoned (v : Dom) (pa n : Nat) : Bool := v.poison.any fun w => decide (pa / 8 ≤ w ∧ w < (pa + n + 7) / 8)

/-- The poisoned words of a line, as a mask (R349). -/
def Dom.linePoison (v : Dom) (line : Nat) : BitVec 16 :=
  (List.range 16).foldl (fun m i => if v.poison.contains (line * 16 + i) then m ||| (1#16 <<< i) else m) 0#16

/-! ### Reads and writes of memory at the home -/

/-- `n` bytes at the home, as a number. -/
def State.homeRead (s : State) (d pa n : Nat) : Nat := Memory.read (s.dom d).mem pa n

/-- A request on a wait list looks at a word that overlaps the bytes written (R110). -/
def Msg.watches (m : Msg) (d pa n : Nat) : Bool :=
  m.st == .waiting && m.dom == d && decide (m.pa < pa + n ∧ pa < m.pa + m.n)

/-- Bytes from `pa` on that a mask selects. -/
def maskedBytes (pa n mask : Nat) : List Nat := (List.range n).filterMap fun i => if mask.testBit i then some (pa + i) else none

/-- The memory controller logs what bytes of a launch with checkpoints held, and whether their words were poisoned (R349,
R352). -/
def State.logUndo (s : State) (d launch : Nat) (old : Dom) (bytes : List Nat) : State :=
  s.modLaunch d launch fun l =>
    if l.hdr.ckpt ≠ 0 then
      { l with undo := (bytes.map fun a => (a, Memory.get old.mem a)).reverse ++ l.undo,
               undoPoison := ((bytes.map (· / 8)).eraseDups.map fun w => (w, old.poison.contains w)) ++ l.undoPoison }
    else l

/-- A write as the home performs it: the bytes from `pa` on that `mask` selects, of the launches `owners` names with their
bytes; words that lose their poison and words that gain it; whether the L2 fetches the line. -/
structure HWrite where
  d : Nat
  pa : Nat
  n : Nat
  mask : Nat
  v : Nat
  owners : List (Nat × Nat)
  clear : Nat → Bool
  taint : List Nat
  fetch : Bool

/-- Perform a write at the home: replicas go first (R246), the old bytes of a .ckpt launch's write are logged (R352), poison
goes and comes (R249, R349), waiters are poked (R110). -/
def State.performWrite (s : State) (w : HWrite) : State :=
  let dm := s.dom w.d
  let line := lineOf w.pa
  let s := s.setDom w.d
    { (if w.fetch then dm.touchL2 line s.cycle else dm) with
      mem := Memory.writeMask dm.mem w.pa w.n w.mask w.v
      replicas := dm.replicas.filter fun r => r.1 != line
      poison := (dm.poison.filter fun x => !w.clear x) ++ w.taint.filter fun x => !dm.poison.contains x || w.clear x }
  let s := w.owners.foldl (fun s o => s.logUndo w.d o.1 dm (maskedBytes w.pa w.n (w.mask &&& o.2))) s
  { s with net := s.net.map fun m => if m.watches w.d w.pa w.n then { m with st := .poked } else m }

/-- A word all of whose bytes a write of masked bytes writes. -/
def wholeIn (pa n mask w : Nat) : Bool :=
  (List.range 8).all fun i => decide (pa ≤ 8 * w + i ∧ 8 * w + i < pa + n) && mask.testBit (8 * w + i - pa)

/-- Write the masked bytes of `v` at the home as one write of a launch. -/
def State.homeWrite (s : State) (d launch pa n mask v : Nat) : State :=
  s.performWrite ⟨d, pa, n, mask, v, [(launch, 2 ^ n - 1)], wholeIn pa n mask, [], true⟩

/-- Write `n` whole bytes at the home. -/
def State.homeStore (s : State) (d launch pa n v : Nat) : State := s.homeWrite d launch pa n (2 ^ n - 1) v

/-- Masked bytes of a line that come from outside the partition's cores: the L2 fetches nothing for them. -/
def State.outsideWrite (s : State) (d line : Nat) (mask : BitVec 128) (data : BitVec 1024) : State :=
  s.performWrite ⟨d, line * 128, 128, mask.toNat, data.toNat, [], wholeIn (line * 128) 128 mask.toNat, [], false⟩

/-- The dirty bytes of a write-back (R242): words that one store wrote whole lose their poison, and words whose dirty bytes
are poisoned gain it (R249, R349). -/
def State.homeBack (s : State) (m : Msg) : State :=
  let w0 := m.pa / 8
  s.performWrite ⟨m.dom, m.pa, 128, m.mask.toNat, m.data.toNat, m.owners.map fun o => (o.1, o.2.toNat),
    fun w => decide (w0 ≤ w ∧ w < w0 + 16) && m.whole.getLsbD (w - w0),
    (List.range 16).filterMap fun i => if m.pmask.getLsbD i then some (w0 + i) else none, true⟩

/-! ### Accesses of units, line by line -/

/-- Pieces of `n` bytes from a physical address, one a line. -/
def linePieces : Nat → Nat → Nat → List (Nat × Nat)
  | 0, _, _ => []
  | fuel + 1, pa, n =>
    if n = 0 then []
    else
      let k := min n (128 - pa % 128)
      (pa, k) :: linePieces fuel (pa + k) (n - k)

/-- The gate lets every line of an access through; else a state in which one has been asked for. -/
def State.gateAll (s : State) (d : Nat) (write : Bool) : List (Nat × Nat) → Except State State
  | [] => .ok s
  | p :: rest =>
    match s.gate d p.1 0 write with
    | .blocked s' => .error s'
    | .ready s => s.gateAll d write rest

/-- Run `k` once the gate lets every line of an access through. -/
def State.gateLines (s : State) (d : Nat) (write : Bool) (l : List (Nat × Nat)) (k : State → State) : State :=
  match s.gateAll d write l with
  | .error s' => s.asked s'
  | .ok s => k s

/-- Lines that the engine reads at their homes (R289). -/
def State.touchLines (s : State) (d : Nat) (l : List (Nat × Nat)) : State :=
  s.modDom d fun v => l.foldl (fun v p => v.touchL2 (lineOf p.1) s.cycle) v

/-! ### Release records (R263) -/

def Dom.recAt (v : Dom) (pa : Nat) : Option RelRec := lookup v.recs (lineOf pa)
def State.setRec (s : State) (d pa : Nat) (r : RelRec) : State :=
  s.modDom d fun v => { v with recs := insertKey v.recs (lineOf pa) r,
                               replicas := v.replicas.filter fun x => x.1 != lineOf pa }

/-- A read by agent `a` of scope `sc` must wait for the releaser a record names to be drained (R265). -/
def RelRec.mustDrain (r : RelRec) (a sc : Nat) : Bool :=
  (r.st == 1 || r.st == 2) && r.agent != a && scopeCovers r.scope r.agent a && scopeCovers sc a r.agent
/-- A release by agent `a` over a record must wait for the old releaser to be drained (R267). -/
def RelRec.mustOverwrite (r : RelRec) (a : Nat) : Bool :=
  (r.st == 1 || r.st == 2) && r.agent != a && scopeCovers r.scope r.agent a

end Sys2Proof.Machine
end

