-- ==== Sys2Proof/Machine/Serve.lean ====
section
/-! DEFINITION. How a directory slice serves the requests of its blocks in arrival order: shared and owned copies, write-backs
and notices of outside agents, and uncached accesses of the host (R303 to R305, R307, R310, R312).

Kinds of an answer to an outside agent: 0 data, 1 refused with an access error or Unsupported Request, 2 data with a
shared copy, 3 data with ownership, 4 poisoned data, 5 a write performed. -/
namespace Sys2Proof.Machine

/-- Answer an outside agent with the line, or the bytes, at an address (R304, R349). -/
def State.answerData (s : State) (d pa n kind : Nat) : State :=
  let v := s.dom d
  s.answer { kind := if v.poisoned pa n then 4 else kind, addr := pa, size := n,
             data := BitVec.ofNat 1024 (Memory.read v.mem pa n) }

/-- Refuse an outside agent (R299, R372). -/
def State.answerRefused (s : State) (pa n : Nat) : State := s.answer { kind := 1, addr := pa, size := n, data := 0 }

/-- What the home does with a request: it waits, or it is done with. -/
inductive Served where
  | wait (s : State)
  | done (s : State)

/-- An entry of a region's first request: SIZE 9, one pointer, and agent 0 when the L2 holds a line of it (R302, R304). -/
def Dom.newEntry (v : Dom) (line agent : Nat) (owned : Bool) (now : Nat) : Dom :=
  let e : DirEnt := { line := blockOf line * 512, size := 9, owned := owned, coarse := false, nptr := 1,
                      holders := BitVec.ofNat 64 agent, last := now }
  { v with dir := (if v.l2.any fun l => blockOf l == blockOf line then e.addAgent 0 else e) :: v.dir }

/-- RdS and RdO on a line (R303, R304). -/
def State.serveShare (s : State) (d agent line : Nat) (own : Bool) : Served :=
  let v := { s.dom d with asked := (s.dom d).asked.filter fun l => l != line }
  let kind := if own then 3 else 2
  match v.entryOf line with
  | none =>
    match v.roomFor line (blockOf line * 512) with
    | some v' => .wait (s.setDom d v')
    | none => .done ((s.setDom d (v.newEntry line agent own s.cycle)).answerData d (line * 128) 128 kind)
  | some e =>
    let names := e.agents v.agentSet
    let others := names.filter fun a => a != agent
    if if own then !others.isEmpty else e.owned && !names.contains agent then
      match v.splitFor line with
      | .error v' => .wait (s.setDom d v')
      | .ok v' => .done (s.setDom d (v'.sendInvals line others (if own then .rdo agent else .rds agent)))
    else
      let v' := v.modEntry line fun e =>
        { (if own then e.single true agent else if names.contains agent then e else e.addAgent agent) with last := s.cycle }
      .done ((s.setDom d v').answerData d (line * 128) 128 kind)

/-- An uncached access of the host to a DEVICE page, performed at its home once no peer holds the line against it; the host
is granted no copy (R310). -/
def State.serveUncached (s : State) (d : Nat) (r : ExtReq) : Served :=
  let v := s.dom d
  let line := lineOf r.pa
  let inWay := v.inTheWay line false (r.kind == 1)
  if inWay.isEmpty then
    .done (match r.kind with
      | 0 => s.answerData d r.pa r.data.toNat 0
      | 1 => (s.outsideWrite d line r.mask r.data).answer ⟨5, r.pa, 0, 0⟩
      | _ => s.answerData d (line * 128) 128 0)
  else
    match v.splitFor line with
    | .error v' => .wait (s.setDom d v')
    | .ok v' => .wait (s.setDom d (v'.sendInvals line inWay (.core 0 (r.kind == 1))))

/-- An invalidation of a line to an agent is outstanding. -/
def Dom.invalOut (v : Dom) (line agent : Nat) : Bool := v.pend.any fun p => p.line == line && p.agents.contains agent

/-- The sender gives up a line: an entry of SIZE 0 whose one pointer it is becomes INVALID (R304, R305). -/
def Dom.giveUp (v : Dom) (line agent now : Nat) : Dom :=
  match v.entryOf line with
  | some e =>
    if e.size = 0 ∧ !e.coarse ∧ e.agents [] = [agent] ∧ !v.invalOut line agent then v.setEntry line none
    else v.modEntry line fun e => { e with last := now }
  | none => v

/-- WrB (R305): only the owner's bytes are performed; any other is refused and counted. -/
def State.writeBackExt (s : State) (d : Nat) (r : ExtReq) : State :=
  let v := s.dom d
  let line := lineOf r.pa
  let owner := (v.entryOf line).any fun e => e.owned && (e.agents v.agentSet).contains r.agent
  let s := s.setDom d (v.giveUp line r.agent s.cycle)
  if owner then s.outsideWrite d line r.mask r.data else s.count 8 1 (v.dirSlice line)

/-- EvN (R305): one of an agent that the entry does not name is ignored. -/
def State.noticeExt (s : State) (d : Nat) (r : ExtReq) : State :=
  s.modDom d fun v =>
    if (v.entryOf (lineOf r.pa)).any fun e => (e.agents v.agentSet).contains r.agent then v.giveUp (lineOf r.pa) r.agent s.cycle
    else v

/-- Serve the first request of a block. A page that is FLIPPING holds it (R310). The host's accesses go by the bias of
their page: in DEVICE bias they are uncached, in HOST bias a read is an RdS and a write an RdO. -/
def State.serveExt (s : State) (d : Nat) (r : ExtReq) : Served :=
  let bias := s.biasAt d r.pa
  if bias = 2#2 then .wait s
  else if r.kind = 4 then .done (s.writeBackExt d r)
  else if r.kind = 5 then .done (s.noticeExt d r)
  else if r.agent = 1 ∧ bias ≠ 1#2 then s.serveUncached d r
  else s.serveShare d r.agent (lineOf r.pa) (r.kind == 1 || r.kind == 3)

/-- The core access of a queued request is still on its way to be performed. -/
def State.stillAsks (s : State) (r : ExtReq) : Bool :=
  s.net.any fun m => m.id == r.id && (m.st == .sent || m.st == .combined || m.st == .poked)

/-- Serve the requests of a block in arrival order, one at a time; a core access at the head is performed by its own step
(R303, R312). -/
def State.pump (d blk : Nat) : Nat → State → State
  | 0, s => s
  | n + 1, s =>
    let v := s.dom d
    match v.reqs.find? fun r => blockOf (lineOf r.pa) == blk with
    | none => s
    | some r =>
      let gone (s : State) : State := State.pump d blk n (s.modDom d fun v => { v with reqs := v.reqs.erase r })
      if r.kind = 6 then (if s.stillAsks r then s else gone s)
      else if v.pend.any fun p => blockOf p.line == blk then s
      else
        match s.serveExt d r with
        | .wait s => s
        | .done s => gone s

/-- Serve what waits at a block. -/
def State.pumpBlock (s : State) (d line : Nat) : State := State.pump d (blockOf line) ((s.dom d).reqs.length) s

/-- Serve what waits at any block of a domain. -/
def State.pumpAll (s : State) (d : Nat) : State :=
  ((s.dom d).reqs.map fun r => lineOf r.pa).foldl (fun s l => s.pumpBlock d l) s

/-- A request of an outside agent reaches its directory slice (R299, R303). A write-back, or a notice, that crosses an
invalidation of its line to its sender comes before the acknowledgement: the write-back is performed and the notice is
ignored (R305). -/
def State.extRequest (s : State) (d : Nat) (r : ExtReq) : State :=
  let v := s.dom d
  if v.bytes < r.pa + 1 ∨ !v.agentSet.contains r.agent then s.answerRefused r.pa 128
  else if v.invalOut (lineOf r.pa) r.agent && r.kind == 4 then s.writeBackExt d r
  else if v.invalOut (lineOf r.pa) r.agent && r.kind == 5 then s
  else (s.setDom d { v with reqs := v.reqs ++ [r] }).pumpBlock d (lineOf r.pa)

end Sys2Proof.Machine
end

