-- ==== Sys2Proof/Machine/Perform.lean ====
section
/-! DEFINITION. Requests at their homes: what must precede one, the order of those that arrive in one cycle, combined
requests, and the drains a request is held for (R248, R252, R253, R265, R267). -/
namespace Sys2Proof.Machine

/-- The bytes of its line that a request touches: a load brings the whole line. -/
def Msg.bytesOf (m : Msg) : BitVec 128 :=
  match m.kind with
  | .load _ _ _ => BitVec.allOnes 128
  | .writeBack => m.mask
  | _ => lineMask (m.pa % 128) m.n

/-- A request of an agent, numbered below `before`, that may change bytes of a line at the home has not been performed there. -/
def State.onWay (s : State) (agent d line : Nat) (mask : BitVec 128) (before : Nat) : Bool :=
  s.net.any fun e => e.agent == agent && e.dom == d && e.id < before && lineOf e.pa == line &&
    (e.st == .sent || e.st == .held || e.st == .combined) && (e.bytesOf &&& mask) != 0 && match e.kind with
      | .drain _ _ _ | .steal _ _ _ | .load _ _ _ => false
      | _ => true

/-- Earlier requests of the same core that touch a byte of this one are performed first (R117, R248). A load changes
nothing at the home, so nothing waits for one. -/
def State.earlierSameByte (s : State) (m : Msg) : Bool := s.onWay m.agent m.dom (lineOf m.pa) m.bytesOf m.id

/-- The physical address lies in the domain's memory; any other is a peer's (R374, log 9). -/
def State.present (s : State) (m : Msg) : Bool := decide (m.pa + m.n ≤ (s.dom m.dom).bytes)

/-- The requests of a combined one, in their order (R159, R252). -/
def State.members (s : State) (m : Msg) : List Msg := m :: m.group.filterMap s.findMsg

/-- A request travels on its own, or at the head of a combined one: it is no member of another still under way. -/
def State.leads (s : State) (m : Msg) : Bool :=
  m.st == .sent || (m.st == .combined && !(s.net.any fun x => x.group.contains m.id && (x.st == .sent || x.st == .held)))

/-- Nothing that must precede a request at its home is outstanding. -/
def State.unobstructed (s : State) (m : Msg) : Bool := m.after.all s.acked && !s.earlierSameByte m && s.present m

/-- The home slice of a request's line, and the cycle and identifier of the last one it performed (R253). -/
def State.slicePast (s : State) (m : Msg) : Option (Nat × Nat) :=
  let v := s.dom m.dom
  lookup v.served (homeSlice v (lineOf m.pa))

/-- The identifier of the issuing thread; a combined request has that of its lowest member (R253). -/
def State.reqTid (s : State) (m : Msg) : Nat :=
  ((s.members m).map fun x => (tidOf x.core x.slot).toNat).foldl min (tidOf m.core m.slot).toNat

/-- The requests that reach a slice in one cycle are performed in ascending order of the issuing thread: one that comes
after a higher one is performed in a later cycle (R253). What an engine or a cache sends has no thread. -/
def State.inTurn (s : State) (m : Msg) : Bool :=
  decide (16 ≤ m.slot) || (s.slicePast m).all fun p => p.1 != s.cycle || decide (p.2 ≤ s.reqTid m)

/-- The slice has performed a request now (R253). -/
def State.markServed (s : State) (m : Msg) : State :=
  if 16 ≤ m.slot then s
  else s.modDom m.dom fun v => { v with served := insertKey v.served (homeSlice v (lineOf m.pa)) (s.cycle, s.reqTid m) }

/-- A request, with every member combined behind it, is at its home, and nothing that must precede it is outstanding. -/
def State.atHome (s : State) (m : Msg) : Bool := s.leads m && (s.members m).all s.unobstructed && s.inTurn m

/-- Run `k` on request `id` when it is at its home, of the right kind, and the gate lets it through; then the requests of
its block that waited behind it at the directory are served (R312). -/
def State.perform (s : State) (id : Nat) (kind : MKind → Bool) (write : Bool) (k : State → Msg → State) : State :=
  match s.findMsg id with
  | none => s
  | some m =>
    if kind m.kind && s.atHome m then
      match s.gate m.dom m.pa id write with
      | .ready s' => (k (s'.markServed m) m).pumpBlock m.dom (lineOf m.pa)
      | .blocked s' => s'
    else s

/-- The home slice uses the line of a request (R244, R302). -/
def State.useLine (s : State) (m : Msg) : State := s.modDom m.dom fun v => v.touchL2 (lineOf m.pa) s.cycle

/-- Request `m` is answered. -/
def State.reply (s : State) (m : Msg) : State := s.setMsg { m with st := .replied }

/-- A DRAIN to a releaser up to an epoch, for held request `m` (R265). -/
def State.sendDrain (s : State) (m : Msg) (agent : Nat) (epoch : BitVec 24) : State :=
  s.post { m with kind := .drain agent epoch m.id, after := [], st := .sent, wait := false, dst := .none, slot := 16,
                  group := [] }

/-- Hold request `m` at the home until the releaser that the line's record names is drained: send DRAIN when the
record is undrained, else join the drain under way (R265, R267). -/
def State.holdForDrain (s : State) (m : Msg) (r : RelRec) : State :=
  if r.st = 1 then ((s.setRec m.dom m.pa { r with st := 2 }).sendDrain m r.agent r.epoch).setMsg { m with st := .held }
  else s.setMsg { m with st := .held }

end Sys2Proof.Machine
end

