-- ==== Sys2Proof/Machine/L1.lean ====
section
/-! DEFINITION. The L1 data caches: lookup, fills, stores, eviction, write-backs, drains, self-invalidation and the
fold (R242, R243, R262, R265, R266, R268, R269). -/
namespace Sys2Proof.Machine

/-- Bits of the bytes of a byte mask. -/
def spreadMask (m : BitVec 128) : BitVec 1024 :=
  BitVec.ofNat 1024 ((List.range 128).foldl (fun r i => if m.getLsbD i then r + 255 * 2 ^ (8 * i) else r) 0)

/-- The bytes of `a` where the mask is set, of `b` elsewhere. -/
def mergeBytes (m : BitVec 128) (a b : BitVec 1024) : BitVec 1024 :=
  let s := spreadMask m
  (a &&& s) ||| (b &&& ~~~s)

/-- The words all of whose bytes a mask holds. -/
def fullWords (m : BitVec 128) : BitVec 16 :=
  (List.range 16).foldl (fun r i => if m.extractLsb' (8 * i) 8 == 0xFF#8 then r ||| (1#16 <<< i) else r) 0#16

/-- The words that `n` bytes at offset `o` touch. -/
def touchedWords (o n : Nat) : BitVec 16 :=
  (List.range 16).foldl (fun r i => if decide (8 * i < o + n ∧ o < 8 * i + 8) then r ||| (1#16 <<< i) else r) 0#16

/-- The set of a line in an agent's cache; of a fused cluster each core's L1 holds the lines of its residue mod 6
(R243). Which bits index a set is the model's choice (log 10). -/
def setOf (agent line : Nat) : Nat :=
  if agent < 4096 then line % Config.l1Sets else line % 6 * Config.l1Sets + line % Config.l1Sets

def Cache.find (k : Cache) (d line : Nat) : Option L1Line := k.lines.find? fun l => l.dom == d && l.line == line
/-- Put a line in front, in place of an older copy. -/
def Cache.put (k : Cache) (l : L1Line) : Cache :=
  { k with lines := l :: k.lines.filter fun x => !(x.dom == l.dom && x.line == l.line) }
def Cache.drop (k : Cache) (d line : Nat) : Cache :=
  { k with lines := k.lines.filter fun x => !(x.dom == d && x.line == line) }
/-- A line is clean and keeps its bytes after a write-back (R262): what was poisoned in it is now poisoned at the home. -/
def L1Line.clean (l : L1Line) : L1Line :=
  { l with dirty := 0, poison := l.poison ||| l.dpoison, dpoison := 0, whole := 0, owners := [] }
/-- The words that hold a dirty byte. -/
def someWords (m : BitVec 128) : BitVec 16 :=
  (List.range 16).foldl (fun r i => if m.extractLsb' (8 * i) 8 != 0#8 then r ||| (1#16 <<< i) else r) 0#16
/-- Bytes are no launch's any more (R352). -/
def disown (m : BitVec 128) (os : List (Nat × BitVec 128)) : List (Nat × BitVec 128) :=
  (os.map fun o => (o.1, o.2 &&& ~~~m)).filter fun o => o.2 != 0
/-- Bytes are the last that a launch wrote (R351, R352). -/
def own (launch : Nat) (m : BitVec 128) (os : List (Nat × BitVec 128)) : List (Nat × BitVec 128) :=
  insertKey (disown m os) launch ((lookup (disown m os) launch).getD 0 ||| m)
/-- A line that holds no byte. -/
def L1Line.blank (d line : Nat) (keep : Bool) : L1Line :=
  { dom := d, line := line, data := 0, valid := 0, dirty := 0, epoch := 0, keep := keep, poison := 0, dpoison := 0,
    whole := 0, owners := [] }
/-- Words a load may not read (R249, R349). -/
def L1Line.bad (l : L1Line) : BitVec 16 := l.poison ||| l.dpoison

/-- The core that speaks for an agent on the network. -/
def agentCore (a : Nat) : Nat := if a < 4096 then a else if a < 8192 then (a - 4096) * 6 else a - 8192

/-- Loads of an agent that are under way when `p` holds of their line no longer allocate in L1: what they bring may be
older than a write of the core that has left for the home, or than an acquire (R248, R265). -/
def State.spoilFills (s : State) (agent : Nat) (p : Nat → Nat → Bool) : State :=
  { s with net := s.net.map fun m =>
      match m.kind with
      | .load _ keep repl => if m.agent == agent && p m.dom (lineOf m.pa) then { m with kind := .load false keep repl } else m
      | _ => m }
def State.spoilLine (s : State) (agent d line : Nat) : State := s.spoilFills agent fun d' l => d' == d && l == line

/-- Send the dirty bytes of a line to its home (R242). The write-back is no request of a thread. -/
def State.sendWriteBack (s : State) (agent : Nat) (l : L1Line) : State :=
  let s := s.spoilLine agent l.dom l.line
  let m := s.newMsg (agentCore agent) 16 .writeBack (l.line * 128) 128 0
  s.post { m with agent := agent, dom := l.dom, data := l.data, mask := l.dirty, pmask := l.dpoison, whole := l.whole,
                  owners := l.owners, launch := 0 }

/-- Write-backs of an agent that their homes have not performed yet. -/
def State.writeBacks (s : State) (agent : Nat) : List Nat :=
  (s.net.filter fun m => m.agent == agent && m.kind == .writeBack).map (·.id)
/-- Those of one line. -/
def State.lineBacks (s : State) (agent d line : Nat) : List Nat :=
  (s.net.filter fun m => m.agent == agent && m.kind == .writeBack && m.dom == d && lineOf m.pa == line).map (·.id)

/-- Lines past the ways of their set leave: the least recently used, a dirty one written back first (R242, R244). -/
def State.evictL1 (s : State) (agent line : Nat) : State :=
  let k := s.cache agent
  let same := k.lines.filter fun l => setOf agent l.line == setOf agent line
  if same.length ≤ Config.l1Ways then s
  else
    match same.getLast? with
    | none => s
    | some l =>
      let s := s.setCache agent (k.drop l.dom l.line)
      if l.dirty = 0 then s else s.sendWriteBack agent l

/-- Install or update a line, evicting where its set is full. -/
def State.putL1 (s : State) (agent : Nat) (l : L1Line) : State :=
  (s.modCache agent fun k => k.put l).evictL1 agent l.line

/-- A store's bytes enter the L1 (R242): an absent line is allocated with only those bytes valid, and a clean line
takes the epoch of the moment (R262). -/
def State.storeL1 (s : State) (agent d pa n v : Nat) (keep : Bool) (launch : Nat) : State :=
  let k := s.cache agent
  let o := pa % 128
  let m := lineMask o n
  let data := BitVec.ofNat 1024 (v % 2 ^ (8 * n) * 2 ^ (8 * o))
  let old := (k.find d (lineOf pa)).getD (L1Line.blank d (lineOf pa) keep)
  s.putL1 agent { old with
    data := mergeBytes m data old.data
    valid := old.valid ||| m
    dirty := old.dirty ||| m
    epoch := if old.dirty = 0 then k.relcnt.setWidth 24 else old.epoch
    poison := old.poison &&& ~~~fullWords m
    dpoison := old.dpoison &&& ~~~fullWords m
    whole := old.whole ||| fullWords m
    owners := own launch m old.owners }

/-- Bytes that the home now holds are written into an L1 copy without making them dirty (R248, .STRM). -/
def State.updateL1 (s : State) (agent d pa n v : Nat) : State :=
  let s := s.spoilLine agent d (lineOf pa)
  match (s.cache agent).find d (lineOf pa) with
  | none => s
  | some old =>
    let m := lineMask (pa % 128) n
    let data := BitVec.ofNat 1024 (v % 2 ^ (8 * n) * 2 ^ (8 * (pa % 128)))
    s.putL1 agent { old with
      data := mergeBytes m data old.data
      valid := old.valid ||| m
      dirty := old.dirty &&& ~~~m
      poison := old.poison &&& ~~~fullWords m
      dpoison := old.dpoison &&& ~~~fullWords m
      whole := old.whole &&& someWords (old.dirty &&& ~~~m)
      owners := disown m old.owners }

/-- The bytes an L1 holds of an access: the value, and whether it touches poison; none on a miss (R242, R249). -/
def State.loadL1 (s : State) (agent d pa n : Nat) : Option (Nat × Bool) :=
  match (s.cache agent).find d (lineOf pa) with
  | none => none
  | some l =>
    let m := lineMask (pa % 128) n
    if l.valid &&& m = m then
      some ((l.data >>> (8 * (pa % 128))).toNat % 2 ^ (8 * n), (l.bad &&& touchedWords (pa % 128) n) != 0)
    else none

/-- Make a line the most recently used (R244). -/
def State.touchL1 (s : State) (agent d pa : Nat) : State :=
  match (s.cache agent).find d (lineOf pa) with
  | none => s
  | some l => s.modCache agent fun k => k.put l

/-- A line arrives from its home and merges with the dirty bytes, which keep their values (R242). Its words are poisoned as
the home has them, but for those that a store has since written whole (R249). -/
def State.fillL1 (s : State) (agent d line : Nat) (data : BitVec 1024) (pm : BitVec 16) (keep : Bool) : State :=
  let l := ((s.cache agent).find d line).getD (L1Line.blank d line keep)
  s.putL1 agent { l with data := mergeBytes l.dirty l.data data, valid := BitVec.allOnes 128, poison := pm &&& ~~~l.whole }

/-- Write back the line of an address when it is dirty, and drop the copy (R251, R256). -/
def State.flushLine (s : State) (agent d pa : Nat) : State :=
  let s := s.spoilLine agent d (lineOf pa)
  match (s.cache agent).find d (lineOf pa) with
  | none => s
  | some l =>
    let s := s.modCache agent fun k => k.drop d (lineOf pa)
    if l.dirty = 0 then s else s.sendWriteBack agent l

/-- Write back every dirty line that `p` picks; they become clean and keep their bytes (R262). Gives the number of lines. -/
def State.writeBackAll (s : State) (agent : Nat) (p : L1Line → Bool) : State × Nat :=
  let k := s.cache agent
  let ls := k.lines.filter fun l => l.dirty != 0 && p l
  let s := s.setCache agent { k with lines := k.lines.map fun l => if l.dirty != 0 && p l then l.clean else l }
  (ls.foldl (fun s l => s.sendWriteBack agent l) s, ls.length)

/-- Count a drain of an agent and the lines it wrote back (R272). -/
def State.countDrain (s : State) (agent lines : Nat) : State :=
  let s := s.modCache agent fun k => { k with drains := k.drains + 1, dlines := k.dlines + BitVec.ofNat 32 lines }
  if agent < 4096 then s.count 5 0 agent else s

/-- Write back the dirty lines that `p` picks as one drain (R266, R269, R272, R277, R278). Gives what is then on its way to
the homes: a drain is done once every write-back of the agent has been performed, those of lines that left before it too. -/
def State.drainLines (s : State) (agent : Nat) (p : L1Line → Bool) : State × List Nat :=
  let r := s.writeBackAll agent p
  let s := r.1.countDrain agent r.2
  (s, s.writeBacks agent)

/-- A full drain (R269, R277, R278). -/
def State.drainAll (s : State) (agent : Nat) : State × List Nat := s.drainLines agent fun _ => true

/-- SelfInvalidate (R265): clean lines go, but for those of IMM and PRIVC pages; a dirty line keeps its dirty bytes. -/
def State.selfInvalidate (s : State) (agent : Nat) : State :=
  (s.spoilFills agent fun _ _ => true).modCache agent fun k =>
    { k with lines := (k.lines.filter fun l => l.keep || l.dirty != 0).map fun l =>
        if l.keep then l else { l with valid := l.dirty, poison := 0 } }

/-- Epoch e lies at or before epoch r (R262). -/
def epochBefore (e r : BitVec 24) : Bool := decide ((r - e).toNat < 2 ^ 23)

/-- A release is counted (R261); a count whose low 23 bits become zero makes a fold due (R268). -/
def State.countRelease (s : State) (agent : Nat) : State :=
  s.modCache agent fun k =>
    let r := k.relcnt + 1
    { k with relcnt := r, fold := if r.setWidth 23 = 0 then some (false, []) else k.fold }

/-- The next release would make a fold due while one is still running: the release loses its turn (R268). -/
def State.foldBlocks (s : State) (agent : Nat) : Bool :=
  let k := s.cache agent
  k.fold.isSome && (k.relcnt + 1).setWidth 23 == 0#23

/-- RELCNT[23:0] of an agent. -/
def State.epochOf (s : State) (agent : Nat) : BitVec 24 := (s.cache agent).relcnt.setWidth 24

/-- A release event of a thread on `agent` of scope 1 or wider: counted, with the record it leaves (R264, R273). -/
def State.releaseEvent (s : State) (agent scope : Nat) : State × RelRec :=
  let s := s.countRelease agent
  (s, { agent := agent, epoch := s.epochOf agent, scope := scope, st := 1 })

/-! ### Local memory (R161, R163) -/

/-- The number under which the banks of a core stand for a domain in a waiting request: waiters of local words stand
on wait lists there (R110). -/
def bankDom (c : Nat) : Nat := 32 + c

/-- Read and write local memory of a core at a physical byte address. -/
def State.localRead (s : State) (c a n : Nat) : Nat := Memory.read (s.core c).lmem a n
def State.localWrite (s : State) (c a n v : Nat) : State :=
  let s := s.modCore c fun k =>
    { k with
      lmem := Memory.write k.lmem a n v
      lpoison := k.lpoison.filter fun w => !decide (a ≤ 8 * w ∧ 8 * w + 8 ≤ a + n) }
  { s with net := s.net.map fun m => if m.watches (bankDom c) a n then { m with st := .poked } else m }
/-- Local bytes touch a poisoned word (R349). -/
def State.localPoison (s : State) (c a n : Nat) : Bool :=
  (s.core c).lpoison.any fun w => decide (a / 8 ≤ w ∧ w < (a + n + 7) / 8)

/-- A window access of the issuing thread: its local byte address, or the Protection trap (R161). -/
def State.window (s : State) (a : Word) (n : Nat) (k : State → Nat → State) : State :=
  let l := s.curLaunch
  if inRegion l.hdr.lmem (winOff a) n then k s (l.lbase + winOff a) else s.protTrap a

end Sys2Proof.Machine
end

