-- ==== Sys2Proof/Machine/Fetch.lean ====
section
/-! DEFINITION. Turns and instruction fetch: the rotation, the line a thread runs in, the checks at a line's entry,
misses and the refetch, and the events of turns (R24 to R29, R99, R104, R106, R109, R113, R119, R120, R337, R378). -/
namespace Sys2Proof.Machine

/-! ### The line a thread runs in -/

/-- 64 bytes of a domain's memory. -/
def lineBits (v : Dom) (pa : Nat) : BitVec 512 := BitVec.ofNat 512 (Memory.read v.mem pa 64)

/-- What an access to an instruction line at its home finds. -/
inductive HomeLine where
  /-- An outside agent must answer first. -/
  | wait (s : State)
  | absent
  | poisoned
  | bits (s : State) (b : BitVec 512)

/-- Read an instruction line at its home (R99, R303, R310). -/
def State.homeLine (s : State) (d pa : Nat) : HomeLine :=
  let v := s.dom d
  if v.bytes < pa + 64 then .absent
  else
    match s.gate d pa 0 false with
    | .blocked s' => .wait s'
    | .ready s =>
      if (s.dom d).poisoned pa 64 then .poisoned
      else .bits (s.modDom d fun v => v.touchL2 (lineOf pa) s.cycle) (lineBits (s.dom d) pa)

/-- Install a line in a core's L1 instruction cache. -/
def State.putICache (s : State) (c d pa : Nat) (b : BitVec 512) : State :=
  s.modCore c fun k =>
    { k with icache := { dom := d, pa := pa, bits := b } :: k.icache.filter fun l => !(l.dom == d && l.pa == pa) }

/-- A fault of an instruction fetch (R29): the PC about to issue, its line address, and the PC of the last bundle, which a
Poison record does not hold (R334). -/
def State.fetchTrap (s : State) (c sl : Nat) (cause : Cause) : State :=
  let t := s.thread c sl
  s.raiseAt c sl cause (pcLine t.pc) (if cause = .poison then 0 else t.lastPc) t.pc t.pc false

/-- The instruction-parity machine check (R24, R334): kind 1 (log 13). -/
def State.parityTrap (s : State) (c sl : Nat) : State :=
  let t := s.thread c sl
  s.raiseAt c sl .machineCheck 0 1 t.pc t.pc false

/-- The transfer's target is a slot that may be entered (R26): its TGT bit, or, for a TRESUME, the PC of the most recent
record of a pair. -/
def targetOk (t : Thread) (bits : BitVec 512) : Bool :=
  match pcSlot t.pc with
  | none => false
  | some i => lineTgt bits i || (t.resumed && t.lastTrap == some (t.pc, true))

/-- Enter a line whose bits have arrived: the checks of R24 to R26 in the order of R41. None: the turn is lost, or the
thread has trapped. A line of the local window, which has no copy in an L2, traps at its first parity failure: DESIGN
CHOICE (log 14). -/
def State.enterLine (s : State) (c sl : Nat) (pa : Option Nat) (bits : BitVec 512) : State × Option (BitVec 512) :=
  let t := s.thread c sl
  if !lineParityOk bits then
    match pa with
    | some pa => (s.modThread c sl fun t => { t with fetching := some (pa, true) }, none)
    | none => (s.parityTrap c sl, none)
  else
    match lineCheck bits with
    | .illegalLine => (s.fetchTrap c sl .illegalLine, none)
    | .illegalPair => (s.fetchTrap c sl .illegalPair, none)
    | .ok =>
      if t.xfer && !targetOk t bits then (s.fetchTrap c sl .illegalTarget, none)
      else
        (s.modThread c sl fun t => { t with held := some { va := pcLine t.pc, bits := bits }, xfer := false, resumed := false },
          some bits)

/-- Fetch the line of a PC that the thread does not hold (R99, R161). -/
def State.fetchNew (s : State) (c sl : Nat) (t : Thread) (va : Word) : State × Option (BitVec 512) :=
  if inWindow va then
    let l := s.launch t.dom t.launch
    if !inRegion l.hdr.lmem (winOff va) 64 then (s.fetchTrap c sl .protection, none)
    else if s.localPoison c (l.lbase + winOff va) 64 then (s.fetchTrap c sl .poison, none)
    else s.enterLine c sl none (BitVec.ofNat 512 (s.localRead c (l.lbase + winOff va) 64))
  else
    match s.translate c t.dom t.asn t.root va .exec with
    | (s, .wait) => (s, none)
    | (s, .fail cause _) => (s.fetchTrap c sl cause, none)
    | (s, .ok pa _) =>
      match (s.core c).icache.find? fun l => l.dom == t.dom && l.pa == pa with
      | some l => s.enterLine c sl (some pa) l.bits
      | none => (s.modThread c sl fun t => { t with fetching := some (pa, false) }, none)

/-- The line at a thread's PC: the copy it holds while it runs on in one line, else the L1 instruction cache by its
physical address, else a miss, which loses turns (R99, R104). A line in the local window comes from local memory
(log 14). -/
def State.fetchLine (s : State) (c sl : Nat) : State × Option (BitVec 512) :=
  let t := s.thread c sl
  let va := pcLine t.pc
  match t.held with
  | some h =>
    if !t.xfer && h.va == va then (s, some h.bits)
    else s.fetchNew c sl t va
  | none => s.fetchNew c sl t va

/-! ### Turns -/

/-- A parked thread returns to rotation: its first turn falls after the cycle of the observation (R109). -/
def State.wakeThread (s : State) (c sl : Nat) : State :=
  let now := (s.core c).cyc
  s.modThread c sl fun t => { t with st := .ready, startAt := max t.startAt (now + 1) }

/-! ### Full/empty words and held releases of core scope (R167, R168, R273) -/

/-- Set or clear the full bit of the word at a local byte address (R167). -/
def Core.setFull (k : Core) (a : Nat) (v : Bool) : Core :=
  { k with full := if v then addNew k.full (a / 8) else k.full.filter fun w => w != a / 8 }

/-- Waiters of a word in ascending slot order, up to the first that takes it: their slots, and whether one took it
(R168). -/
def waitersOf (a : Nat) : List (Nat × Thread) → List (Nat × BitVec 6) × Bool
  | [] => ([], false)
  | (sl, t) :: rest =>
    match t.st with
    | .parked (.word a' take d) =>
      if a' = a then
        if take then ([(sl, d)], true)
        else
          let r := waitersOf a rest
          ((sl, d) :: r.1, r.2)
      else waitersOf a rest
    | _ => waitersOf a rest

/-- FILL at its bank (R168): the word is written and full, and its waiters receive it. -/
def State.fillWord (s : State) (c a : Nat) (v : Word) : State :=
  let s := (s.localWrite c a 8 v.toNat).modCore c fun k => k.setFull a true
  let w := waitersOf a (s.core c).slots
  let s := w.1.foldl (fun s e => (s.wakeThread c e.1).modThread c e.1 fun t => t.setX e.2 v) s
  if w.2 then s.modCore c fun k => k.setFull a false else s

/-- The held FILL of a core is performed once the stores it releases are acknowledged, and so is a held CREL (R230, R273). -/
def State.performHeld (s : State) (c : Nat) : State :=
  let s := match (s.core c).fill with
    | some f => if f.after.all s.acked then (s.fillWord c f.a f.v).modCore c fun k => { k with fill := none } else s
    | none => s
  let q := (s.core c).cube
  if q.leaving && !q.after.isEmpty && q.after.all s.acked then
    s.modCore c fun k => { k with cube :=
      { k.cube with after := [], owner := if q.exec.isNone && q.queue.isEmpty then none else q.owner,
                    leaving := !(q.exec.isNone && q.queue.isEmpty) } }
  else s

/-! ### A turn -/

/-- Deliver a late fault at the thread's turn (R337 step 3). -/
def State.deliverLate (s : State) (c sl : Nat) : State :=
  s.modThread c sl fun t =>
    { t with st := .trapped, npc := t.pc, late := false, prog := none, fetching := none }

/-- The bundle at a thread's PC in its line: the halves and the address after them (R27). -/
def State.bundleAt (c sl : Nat) (t : Thread) (bits : BitVec 512) : Option Latch :=
  match pcSlot t.pc with
  | none => none
  | some i =>
    let pair := (tplPairs (lineTpl bits)).contains i
    some { core := c, slot := sl, pc := t.pc, npc := slotAfter t.pc (if pair then i + 1 else i), pair := pair,
           halves := if pair then [lineSlot bits i, lineSlot bits (i + 1)] else [lineSlot bits i], shadow := none }

/-- The thread takes a quantum expiry at this turn (R323, R324, R351). -/
def State.expiryDue (s : State) (c sl : Nat) (t : Thread) : Bool :=
  let due (t0 : Nat) : Bool := decide (t0 + (s.dom t.dom).quantum ≤ (s.core c).cyc + 16)
  sl < 14 && match (s.launch t.dom t.launch).phase with
    | .preempting t0 => due t0
    | .checkpointing t0 => due t0
    | _ => false

/-- A READY thread's turn: a late fault is delivered, a quantum expiry parks it, a handler that waits loses the turn, a deferred V half or the
bundle at the PC is fetched and latched (R24 to R28, R99, R126, R337). -/
def State.readyTurn (s : State) (c sl : Nat) (t : Thread) : State :=
  if (s.core c).cyc < t.startAt then s
  else if sl = 15 && (s.core c).supFault.isSome then s
  else if t.late then s.deliverLate c sl
  else if s.expiryDue c sl t then s.modThread c sl fun t => { t with st := .parked .scheduler }
  else if t.awaits.isSome || t.fetching.isSome || !t.hold.all s.acked then s
  else
    match t.pendV with
    | some p =>
      { s with latch := some { core := c, slot := sl, pc := p.pc, npc := p.npc, pair := true, halves := [p.raw],
                               shadow := some p.f } }
    | none =>
      match s.fetchLine c sl with
      | (s, none) => s
      | (s, some bits) => { s with latch := State.bundleAt c sl (s.thread c sl) bits }

/-- The turn of a slot (R106): a YIELD counts it (R119), a deadline that has passed has been observed (R120). -/
def State.slotTurn (s : State) (c sl : Nat) : State :=
  match s.thread? c sl with
  | none => s
  | some t =>
    match t.st with
    | .ready => s.readyTurn c sl t
    | .parked (.turns (k + 1)) => s.modThread c sl fun t => { t with st := .parked (.turns k) }
    | .parked (.turns 0) => (s.modThread c sl fun t => { t with st := .ready }).readyTurn c sl t
    | .parked (.deadline x) =>
      if x < (s.core c).cyc then (s.modThread c sl fun t => { t with st := .ready }).readyTurn c sl t else s
    | _ => s

/-- The cycle is enabled for a core (R106, R378): at throttle stage 4 one cycle in two, the even ones (log 15). -/
def State.enabled (s : State) (k : Core) : Bool :=
  match k.part with
  | some d => (s.dom d).acct.stage < 4 || k.cyc % 2 == 0
  | none => true

/-- A core may take its next cycle: no core stands four cycles behind it (R86). -/
def State.mayTurn (s : State) (c : Nat) : Bool :=
  decide (c < Config.cores) && s.cores.all fun e => decide ((s.core c).cyc < e.2.cyc + 4)

/-- A core's cycle ends: CYCLE rises, and TC when the cycle was enabled (R86, R106). -/
def State.endCycle (s : State) (c : Nat) (enabled : Bool) : State :=
  let s := s.modCore c fun k => { k with cyc := k.cyc + 1, tc := if enabled then k.tc + 1 else k.tc }
  { s with cycle := max s.cycle (s.core c).cyc }

/-! ### Events of turns and fetches -/

/-- SLOT_TURN (R106): slot TC mod 16 has the turn; a bundle it latches issues in the same step. What a release of core scope
held back is performed first (R273). -/
def execSlotTurn (c : Nat) (s : State) : Out :=
  .next (if !s.mayTurn c then s
    else if !s.enabled (s.core c) then (s.performHeld c).endCycle c false
    else
      let s := (s.performHeld c).slotTurn c ((s.core c).tc % 16)
      if s.latch.isSome then s else s.endCycle c true)

/-- THREAD_FIRST_FETCH (R113): the first fetch of a started thread, its target checked. -/
def execThreadFirstFetch (c sl : Nat) (s : State) : Out :=
  .next (match s.thread? c sl with
    | some t =>
      if t.st = .ready ∧ t.held = none ∧ t.xfer ∧ t.fetching = none then (s.fetchLine c sl).1 else s
    | none => s)

/-- FETCH_LINE_ARRIVAL (R99): the line a thread missed arrives in the L1 instruction cache. A physical address at no
memory of the partition is a peer's that no route reaches (R374, log 9). -/
def execFetchLineArrival (c sl : Nat) (s : State) : Out :=
  .next (match s.thread? c sl with
    | some t =>
      match t.fetching with
      | some (pa, false) =>
        match s.homeLine t.dom pa with
        | .wait s => s
        | .absent => s.countPeer.fetchTrap c sl .poison
        | .poisoned => s.fetchTrap c sl .poison
        | .bits s b => (s.putICache c t.dom pa b).modThread c sl fun t => { t with fetching := none }
      | _ => s
    | none => s)

/-- LINE_REFETCH (R24): a line whose parity failed is fetched once more from L2; a second failure is the machine
check. -/
def execLineRefetch (c sl : Nat) (s : State) : Out :=
  .next (match s.thread? c sl with
    | some t =>
      match t.fetching with
      | some (pa, true) =>
        match s.homeLine t.dom pa with
        | .wait s => s
        | .absent => s.countPeer.fetchTrap c sl .poison
        | .poisoned => s.fetchTrap c sl .poison
        | .bits s b =>
          if lineParityOk b then (s.putICache c t.dom pa b).modThread c sl fun t => { t with fetching := none }
          else s.parityTrap c sl
      | _ => s
    | none => s)

/-- PARK_DEADLINE (R120): CYCLE has reached the deadline. -/
def execParkDeadline (c sl : Nat) (s : State) : Out :=
  .next (match s.thread? c sl with
    | some t =>
      match t.st with
      | .parked (.deadline x) => if x ≤ (s.core c).cyc then s.wakeThread c sl else s
      | _ => s
    | none => s)

/-- YIELD_EXPIRY (R119): the turns of the YIELD have passed. -/
def execYieldExpiry (c sl : Nat) (s : State) : Out :=
  .next (match s.thread? c sl with
    | some t => if t.st = .parked (.turns 0) then s.modThread c sl fun t => { t with st := .ready } else s
    | none => s)

/-- LATE_FAULT_DELIVERY (R337): at the thread's next turn it enters TRAPPED in place of issuing. -/
def execLateFaultDelivery (c sl : Nat) (s : State) : Out :=
  .next (match s.thread? c sl with
    | some t => if t.late ∧ t.st = .ready then s.deliverLate c sl else s
    | none => s)

end Sys2Proof.Machine
end

