-- ==== Sys2Proof/Machine/FRegs.lean ====
section
/-! DEFINITION. f registers as streams: the generator bound to an f register, pops and pushes of instructions outside
the vector engine, and the faults of engines (R171, R175, R176, R337). -/
namespace Sys2Proof.Machine

/-! ### Faults of engines (R337) -/

/-- Causes that cancel the thread's later coprocessor commands (R337 step 2). -/
def cancels : Cause → Bool
  | .cubeData | .vectorStream | .translation | .protection | .poison => true
  | _ => false

/-- A command number comes at or after `next` in a core's numbering, of which at most three are pending (R219, R220). -/
def notBefore (next seq : BitVec 16) : Bool := decide ((seq - next).toNat < 2 ^ 15)

/-- A cube command is a later one of a thread: it bears `next` or a number after it (R337). -/
def CubeCmd.later (c : CubeCmd) (gen : Nat) (next : BitVec 16) : Bool := c.gen == gen && notBefore next c.seq

/-- Later cube commands of a thread that have not begun are cancelled (R337 step 2, R338). -/
def Core.cancelQueued (k : Core) (gen : Nat) (next : BitVec 16) : Core :=
  let out := (k.cube.queue.filter fun c => c.later gen next).map (·.seq)
  { k with
    cube := { k.cube with queue := k.cube.queue.filter fun c => !c.later gen next }
    ring := k.ring.map fun e => if out.contains e.seq && e.st == 0 && (e.opc == 0xD3#8 || e.opc == 0xD4#8) then { e with st := 3 } else e }

/-- No command waits or executes. -/
def Cube.idle (k : Cube) : Bool := k.exec.isNone && k.queue.isEmpty
/-- A command of a number waits or executes (R220). -/
def Cube.pending (k : Cube) (seq : BitVec 16) : Bool :=
  k.exec.any (fun c => c.seq == seq) || k.queue.any fun c => c.seq == seq

def State.modCube (s : State) (c : Nat) (g : Cube → Cube) : State := s.modCore c fun k => { k with cube := g k.cube }

/-- A thread that ended leaves the cube when its commands have completed (R118). -/
def State.settleCube (s : State) (c : Nat) : State :=
  s.modCube c fun k => if k.leaving && k.after.isEmpty && k.idle then { k with owner := none, leaving := false } else k

/-- Threads that wait for a command return to rotation once it no longer waits or executes (R220). -/
def State.wakeCube (s : State) (c : Nat) : State :=
  let k := s.core c
  (k.slots.filter fun e => match e.2.st with
    | .parked (.cube q) => !k.cube.pending q
    | _ => false).foldl (fun s e => s.wakeThread c e.1) s

/-- A fault that an engine detects for the thread it serves (R337): the thread may have ended meanwhile. Its later commands
bear numbers from `next` on; CANCEL tells that one was cancelled (R333), and what waits for such a one goes on (R220). -/
def State.engineFault (s : State) (c sl gen : Nat) (cause : Cause) (seq next : BitVec 16) (pc addr extra : Word) : State :=
  let hit := cancels cause && (s.core c).cube.queue.any fun m => m.later gen next
  let s := if hit then s.modCore c fun k => k.cancelQueued gen next else s
  let s := if (s.thread? c sl).any fun t => t.gen == gen then s.raiseLate c sl cause hit seq pc addr extra
    else s.pushRec c (mkRec cause (recFlags true hit false false false) (tidOf c sl) seq pc addr extra)
  if hit then (s.wakeCube c).settleCube c else s

/-! ### Bound registers (R171, R175) -/

/-- The generator bound to an f register of a thread. -/
def Core.bound (k : Core) (sl gen : Nat) (r : BitVec 5) : Option (Nat × Gen) :=
  k.gens.find? fun e =>
    e.2.slot == sl && e.2.gen == gen && e.2.freg.toNat == r.toNat && !e.2.closing

/-- The enabled stream of an f register: a disabled one is an ordinary register (R175). -/
def Core.stream (k : Core) (sl gen : Nat) (r : BitVec 5) : Option (Nat × Gen) :=
  (k.bound sl gen r).bind fun e => if e.2.enabled then some e else none

def Core.setGen (k : Core) (i : Nat) (g : Gen) : Core := { k with gens := insertKey k.gens i g }
/-- Elements not yet popped or pushed. -/
def Gen.left (g : Gen) : Nat := g.total - g.pos
/-- The stream's next element has been popped (R179). -/
def Gen.popped (g : Gen) : Gen := { g with pos := g.pos + 1, ahead := g.ahead.drop 1 }
/-- The container of an element: bits 31:26 of an FP26 one are ignored and written as zero (R59). -/
def elemImage (fmt : BitVec 4) (v : BitVec 32) : BitVec 32 := if fmt = 11#4 then v &&& 0x03FFFFFF#32 else v
/-- A value is pushed by the instruction at a PC: it is written later (R176). -/
def Gen.push (g : Gen) (v : BitVec 32) (pc : Word) (seq next : BitVec 16) : Gen :=
  { g with pos := g.pos + 1, pushes := g.pushes ++ [⟨g.pos, elemImage g.fmt v, pc, seq, next⟩] }
/-- The extra word of an element's fault (R334). -/
def elemInfo (info : Word) (idx : Nat) : Word := (info &&& 255#64) ||| (BitVec.ofNat 64 idx <<< 32)

/-! ### Reads and writes outside the vector engine (R176) -/

/-- What an I-class read of an f register gives: a value, or a turn lost or a trap. -/
inductive FRead where
  | val (s : State) (v : Word)
  | stop (s : State)

/-- The issuing thread reads an f register (R176): an enabled read stream is popped, and loses the turn while its
element has not arrived; an exhausted one supplies zero. A pop of a write stream raises a late Vector-Stream fault, and
supplies a free value (log 5). -/
def State.popF (s : State) (r : BitVec 5) : FRead :=
  let c := s.iss.core
  match s.curCore.stream s.iss.slot s.cur.gen r with
  | none => .val s (s.cur.getF r)
  | some (i, g) =>
    if g.wr then .val (s.useFree.engineFault c s.iss.slot s.cur.gen .vectorStream 0 s.curCore.seq s.iss.pc 0 0) s.freeWord
    else if g.left = 0 then .val s 0
    else
      match g.ahead.head? with
      | none => .stop s.loseTurn
      | some (.ok v) => .val (s.modCurCore fun k => k.setGen i g.popped) (v.setWidth 64)
      | some (.bad cause addr info) =>
        .stop ((s.modCurCore fun k => k.setGen i { g with ahead := [] }).takeTrap cause addr (elemInfo info g.pos))

/-- A thread's f register is written outside the vector engine (R176): an enabled write stream is pushed, an exhausted
one discards the value, and a push to a read stream raises a late Vector-Stream fault. -/
def State.pushF (s : State) (c sl : Nat) (r : BitVec 5) (v pc : Word) : State :=
  let t := s.thread c sl
  match (s.core c).stream sl t.gen r with
  | none => s.modThread c sl fun t => t.setF r v
  | some (i, g) =>
    if !g.wr then s.engineFault c sl t.gen .vectorStream 0 (s.core c).seq pc 0 0
    else if g.left = 0 then s
    else s.modCore c fun k => k.setGen i (g.push (v.setWidth 32) pc 0 (s.core c).seq)

/-- Run `k` on the value of an f register; an instruction that then loses its turn or traps pops nothing (R176). -/
def State.withF (s : State) (r : BitVec 5) (k : State → Word → State) : State :=
  match s.popF r with
  | .stop s => s
  | .val s' v =>
    let s2 := k s' v
    if s2.iss.st = .issued then s2 else k s v

end Sys2Proof.Machine
end

