-- ==== Sys2Proof/Machine/Num.lean ====
section
/-! DEFINITION. Number formats, exact values and rounding (R55 to R60, R65 to R69, R72, R74, R186). A finite value is
an exact dyadic number, or, for quotients and roots, the leading bits of one with a mark that more follow. -/
namespace Sys2Proof.Machine

/-- A finite value: sign, `m` × 2^`e`, and whether the exact magnitude lies strictly between `m` and `m` + 1 units. -/
structure Dy where
  neg : Bool
  m : Nat
  e : Int
  more : Bool
  deriving DecidableEq, Repr

/-- A real value of a format (R56). -/
inductive FVal where
  | nan
  | inf (neg : Bool)
  | fin (v : Dy)
  deriving DecidableEq, Repr

/-- Flags raised and the random sequence as rounding goes on (R69, R70). -/
structure RC where
  flags : BitVec 5
  rseq : Word
  deriving DecidableEq, Repr

def RC.or (c : RC) (f : BitVec 5) : RC := { c with flags := c.flags ||| f }

/-- An integer as a value. -/
def FVal.ofInt (i : Int) : FVal := .fin ⟨decide (i < 0), i.natAbs, 0, false⟩
def FVal.zero (neg : Bool) : FVal := .fin ⟨neg, 0, 0, false⟩

/-! ### Formats (R55 to R60) -/

/-- Exponent bits, fraction bits and bias of a floating format by its FMT code (R34, R55). -/
def fltParams (f : Nat) : Option (Nat × Nat × Nat) :=
  match f with
  | 0 => some (8, 23, 127)
  | 1 => some (5, 10, 15)
  | 2 => some (8, 7, 127)
  | 3 => some (4, 3, 7)
  | 4 => some (5, 2, 15)
  | 5 => some (2, 1, 1)
  | 11 => some (8, 17, 127)
  | _ => none

/-- Bits of an element (R55, R59, R60). -/
def fmtBits (f : Nat) : Nat :=
  match f with
  | 0 => 32
  | 1 => 16
  | 2 => 16
  | 3 => 8
  | 4 => 8
  | 5 => 4
  | 6 => 8
  | 7 => 4
  | 8 => 4
  | 9 => 32
  | 10 => 8
  | _ => 26

/-- Bytes of an element in memory (R172). -/
def elemBytes (f : Nat) : Nat :=
  match f with
  | 0 => 4
  | 1 => 2
  | 2 => 2
  | 9 => 4
  | 11 => 4
  | _ => 1

def isIntFmt (f : Nat) : Bool := f == 6 || f == 7 || f == 9
/-- The format has infinities (R55). -/
def hasInf (f : Nat) : Bool := f == 0 || f == 1 || f == 2 || f == 4 || f == 11

/-- The canonical NaN (R57); E2M1 has none and gives +0 (R72). -/
def canonNaN (f : Nat) : Nat :=
  match f with
  | 0 => 0x7FC00000
  | 1 => 0x7E00
  | 2 => 0x7FC0
  | 3 => 0x7F
  | 4 => 0x7E
  | 10 => 0xFF
  | 11 => 0x01FF0000
  | _ => 0

/-- The largest finite code (R55). -/
def maxCode (f : Nat) : Nat :=
  match f with
  | 0 => 0x7F7FFFFF
  | 1 => 0x7BFF
  | 2 => 0x7F7F
  | 3 => 0x7E
  | 4 => 0x7B
  | 5 => 0x7
  | _ => 0x01FDFFFF

/-- The infinity code without its sign (R55). -/
def infCode (f : Nat) : Nat :=
  match f with
  | 0 => 0x7F800000
  | 1 => 0x7C00
  | 2 => 0x7F80
  | 4 => 0x7C
  | _ => 0x01FE0000

/-- The sign bit of a floating format's code. -/
def signCode (f : Nat) (neg : Bool) : Nat := if neg then 2 ^ (fmtBits f - 1) else 0

/-- The value of a code (R56, R58, R60); bits above the format are ignored (R59, R61). -/
def valueOf (f code : Nat) : FVal :=
  let c := code % 2 ^ fmtBits f
  match fltParams f with
  | some (eb, fb, bias) =>
    let neg := 2 ^ (eb + fb) ≤ c
    let ex := c / 2 ^ fb % 2 ^ eb
    let fr := c % 2 ^ fb
    if f = 3 ∧ c % 128 = 127 then .nan
    else if hasInf f ∧ ex = 2 ^ eb - 1 then (if fr = 0 then .inf neg else .nan)
    else if ex = 0 then .fin ⟨neg, fr, 1 - (bias : Int) - (fb : Int), false⟩
    else .fin ⟨neg, 2 ^ fb + fr, (ex : Int) - (bias : Int) - (fb : Int), false⟩
  | none =>
    if f = 10 then (if c = 255 then .nan else .fin ⟨false, 1, (c : Int) - 127, false⟩)
    else .ofInt (if 2 ^ (fmtBits f - 1) ≤ c then (c : Int) - (2 ^ fmtBits f : Int) else (c : Int))

/-! ### Rounding (R67, R68, R72, R74) -/

/-- Round the magnitude of a finite value at spacing 2^`u`: the quotient, whether it is inexact, and the drawn
sequence (R67). Modes: 0 RNE, 1 RTZ, 2 RDN, 3 RUP, 4 RNA, 5 SR. -/
def roundAt (mode : Nat) (u : Int) (v : Dy) (c : RC) : Nat × Bool × RC :=
  let d := u - v.e
  if d ≤ 0 then (v.m * 2 ^ (-d).toNat, v.more, c)
  else
    let k := d.toNat
    let q := v.m / 2 ^ k
    let r := v.m % 2 ^ k
    if r = 0 && !v.more then (q, false, c)
    else
      let gt := 2 ^ k < 2 * r || (2 * r == 2 ^ k && v.more)
      let eq := 2 * r == 2 ^ k && !v.more
      match mode with
      | 0 => (if gt || (eq && q % 2 == 1) then q + 1 else q, true, c)
      | 1 => (q, true, c)
      | 2 => (if v.neg then q + 1 else q, true, c)
      | 3 => (if v.neg then q else q + 1, true, c)
      | 4 => (if gt || eq then q + 1 else q, true, c)
      | _ =>
        let d := nextRand16 c.rseq
        (if 65536 ≤ r * 65536 / 2 ^ k + d.1 then q + 1 else q, true, { c with rseq := d.2 })

/-- Floor(Log2) of a non-zero finite magnitude. -/
def Dy.log2 (v : Dy) : Int := (Nat.log2 v.m : Int) + v.e

/-- An overflow (R68). -/
def overflowCode (f : Nat) (neg : Bool) (mode : Nat) (sat : Bool) : Nat :=
  let big := sat || f == 5 || (match mode with
    | 1 => true
    | 2 => !neg
    | 3 => neg
    | _ => false)
  if big then signCode f neg + maxCode f
  else if hasInf f then signCode f neg + infCode f
  else canonNaN f

/-- RoundTo for a floating format (R67, R68, R72). -/
def roundFlt (f : Nat) (mode : Nat) (sat : Bool) (x : FVal) (c : RC) : Nat × RC :=
  match fltParams f with
  | none => (0, c)
  | some (eb, fb, bias) =>
    match x with
    | .nan => (canonNaN f, if f = 5 then c.or fIV else c)
    | .inf neg =>
      if hasInf f then (signCode f neg + infCode f, c)
      else if f = 3 && !sat then (canonNaN f, c.or fIV)
      else (signCode f neg + maxCode f, c.or (fOF ||| fIX))
    | .fin v =>
      if v.m = 0 then (signCode f v.neg, c)
      else
        let emin : Int := 1 - bias
        let e := max v.log2 emin
        let (q, inexact, c) := roundAt mode (e - fb) v c
        let c := if inexact then c.or fIX else c
        -- a carry out of the fraction moves to the next binade
        let (q, e) := if 2 ^ (fb + 1) ≤ q then (q / 2, e + 1) else (q, e)
        let code := if q < 2 ^ fb then q else (e + bias).toNat * 2 ^ fb + (q - 2 ^ fb)
        if maxCode f < code ∨ 2 ^ eb ≤ (e + bias).toNat then (overflowCode f v.neg mode sat, c.or (fOF ||| fIX))
        else (signCode f v.neg + code, if inexact && q < 2 ^ fb then c.or fUF else c)

/-- RoundTo for E8M0 (R74). -/
def roundE8M0 (mode : Nat) (sat : Bool) (x : FVal) (c : RC) : Nat × RC :=
  match x with
  | .fin v =>
    if v.m = 0 ∨ v.neg then (0xFF, c.or fIV)
    else
      let e := max v.log2 (-127)
      let (q, inexact, c) := roundAt mode e v c
      let c := if inexact then c.or fIX else c
      if q = 0 then (0, c.or (fUF ||| fIX))
      else
        let e := if q = 1 then e else e + 1
        if 127 < e then (if sat then 0xFE else 0xFF, c.or (fOF ||| fIX))
        else ((e + 127).toNat, c)
  | _ => (0xFF, c.or fIV)

/-- The trial rounding to an unbounded integer (R67, R75). -/
def roundInt (mode : Nat) (v : Dy) (c : RC) : Int × RC :=
  let (q, inexact, c) := roundAt mode 0 v c
  ((if v.neg then -(q : Int) else q), if inexact then c.or fIX else c)

/-- RoundTo for an integer format (R67, R74). -/
def roundIntFmt (f : Nat) (mode : Nat) (sat : Bool) (x : FVal) (c : RC) : Nat × RC :=
  let w := fmtBits f
  let lo : Int := -(2 ^ (w - 1))
  let hi : Int := 2 ^ (w - 1) - 1
  let code (i : Int) : Nat := (i % (2 ^ w : Int)).toNat
  match x with
  | .nan => (if sat then 0 else code lo, c.or fIV)
  | .inf neg => (if sat && !neg then code hi else code lo, c.or fIV)
  | .fin v =>
    let (i, c) := roundInt mode v c
    if i < lo then (code lo, c.or fIV)
    else if hi < i then (if sat then code hi else code lo, c.or fIV)
    else (code i, c)

/-- RoundTo (R67). -/
def roundTo (f : Nat) (mode : Nat) (sat : Bool) (x : FVal) (c : RC) : Nat × RC :=
  if f = 10 then roundE8M0 mode sat x c
  else if isIntFmt f then roundIntFmt f mode sat x c
  else roundFlt f mode sat x c

/-! ### Exact arithmetic (R185, R186) -/

def FVal.isNaN : FVal → Bool
  | .nan => true
  | _ => false
def FVal.isNeg : FVal → Bool
  | .nan => false
  | .inf n => n
  | .fin v => v.neg
def FVal.isZero : FVal → Bool
  | .fin v => v.m == 0
  | _ => false
def FVal.negate : FVal → FVal
  | .nan => .nan
  | .inf n => .inf !n
  | .fin v => .fin { v with neg := !v.neg }

/-- The value of a dyadic number in units of 2^`u`. -/
def Dy.units (v : Dy) (u : Int) : Int :=
  let m : Int := (v.m * 2 ^ (v.e - u).toNat : Nat)
  if v.neg then -m else m

/-- a + b, with the sign of an exact zero sum by the mode (R186). -/
def fAdd (mode : Nat) (a b : FVal) (c : RC) : FVal × RC :=
  match a, b with
  | .nan, _ => (.nan, c)
  | _, .nan => (.nan, c)
  | .inf s, .inf t => if s = t then (.inf s, c) else (.nan, c.or fIV)
  | .inf s, _ => (.inf s, c)
  | _, .inf t => (.inf t, c)
  | .fin x, .fin y =>
    let u := min x.e y.e
    let r := x.units u + y.units u
    if r = 0 then
      (.zero (if x.m = 0 ∧ y.m = 0 ∧ x.neg = y.neg then x.neg else decide (mode = 2)), c)
    else (.fin ⟨decide (r < 0), r.natAbs, u, false⟩, c)

/-- a × b (R186). -/
def fMul (a b : FVal) (c : RC) : FVal × RC :=
  match a, b with
  | .nan, _ => (.nan, c)
  | _, .nan => (.nan, c)
  | .inf s, y => if y.isZero then (.nan, c.or fIV) else (.inf (s != y.isNeg), c)
  | x, .inf t => if x.isZero then (.nan, c.or fIV) else (.inf (t != x.isNeg), c)
  | .fin x, .fin y => (.fin ⟨x.neg != y.neg, x.m * y.m, x.e + y.e, false⟩, c)

/-- a × b + d in one exact value (R185, R186): ∞ × 0 is invalid whatever d is. -/
def fFma (mode : Nat) (a b d : FVal) (c : RC) : FVal × RC :=
  match a, b with
  | .nan, _ => (.nan, c)
  | _, .nan => (.nan, c)
  | _, _ =>
    let p := fMul a b c
    if p.1.isNaN then p else fAdd mode p.1 d p.2

/-- a / b, 80 bits or more of the quotient (R185, R186). -/
def fDiv (a b : FVal) (c : RC) : FVal × RC :=
  match a, b with
  | .nan, _ => (.nan, c)
  | _, .nan => (.nan, c)
  | .inf _, .inf _ => (.nan, c.or fIV)
  | .inf s, y => (.inf (s != y.isNeg), c)
  | x, .inf t => (.zero (x.isNeg != t), c)
  | .fin x, .fin y =>
    if y.m = 0 then (if x.m = 0 then (.nan, c.or fIV) else (.inf (x.neg != y.neg), c.or fDZ))
    else
      let k := 80 + Nat.log2 y.m
      (.fin ⟨x.neg != y.neg, x.m * 2 ^ k / y.m, x.e - y.e - k, x.m * 2 ^ k % y.m != 0⟩, c)

/-- The integer square root, one bit a step from bit `k` - 1 down. -/
def isqrtFrom (n : Nat) : Nat → Nat → Nat
  | 0, r => r
  | k + 1, r =>
    let r' := r + 2 ^ k
    isqrtFrom n k (if r' * r' ≤ n then r' else r)

/-- Floor of the square root. -/
def isqrt (n : Nat) : Nat := isqrtFrom n (Nat.log2 n / 2 + 1) 0

/-- √a (R185, R186). -/
def fSqrt (a : FVal) (c : RC) : FVal × RC :=
  match a with
  | .nan => (.nan, c)
  | .inf s => if s then (.nan, c.or fIV) else (.inf false, c)
  | .fin x =>
    if x.m = 0 then (.fin x, c)
    else if x.neg then (.nan, c.or fIV)
    else
      let k : Nat := 160 + (if x.e % 2 = 0 then 0 else 1)
      let n := x.m * 2 ^ k
      let r := isqrt n
      (.fin ⟨false, r, (x.e - (k : Int)) / 2, r * r != n⟩, c)

/-- a × 2^k (R185). -/
def fScale (a : FVal) (k : Int) : FVal :=
  match a with
  | .fin x => .fin { x with e := x.e + k }
  | y => y

/-- a < b on values that are no NaN, with -0 < +0 (R185). -/
def fLess (a b : FVal) : Bool :=
  match a, b with
  | .nan, _ => false
  | _, .nan => false
  | .inf s, .inf t => s && !t
  | .inf s, _ => s
  | _, .inf t => !t
  | .fin x, .fin y =>
    let u := min x.e y.e
    let i := x.units u
    let j := y.units u
    if i = 0 ∧ j = 0 then x.neg && !y.neg else decide (i < j)

/-- VMIN and VMAX (R185). -/
def fMinMax (max : Bool) (a b : FVal) : FVal :=
  match a, b with
  | .nan, y => y
  | x, .nan => x
  | x, y => if fLess x y != max then x else y

/-- Numerical equality, with -0 = +0 (R187). -/
def fEq (a b : FVal) : Bool :=
  match a, b with
  | .nan, _ => false
  | _, .nan => false
  | x, y => (x.isZero && y.isZero) || (!fLess x y && !fLess y x)

end Sys2Proof.Machine
end

