-- ==== Sys2Proof/Machine/Scalar.lean ====
section
/-! DEFINITION. Scalar instructions: arithmetic, logic, shifts, bit fields, compares, predicates, special registers
and the trap instructions (R87 to R96, R100 to R105, R345). -/
namespace Sys2Proof.Machine

/-! ### Shared operations -/

/-- The low `n` bits of a value, extended (R88, R91). -/
def extBits (v : Word) (n : Nat) (signed : Bool) : Word :=
  if signed then (v.setWidth n).signExtend 64 else (v.setWidth n).setWidth 64

/-- An arithmetic instruction over two operands: the exact result, saturated and extended under W, to X[D] (R88). -/
def arith (d : BitVec 6) (w : BitVec 4) (x y : Word) (r : Int → Int → Int) (s : State) : Out :=
  .next (s.wx d (aluResult w (r (aluOperand w x) (aluOperand w y))))

/-- A bitwise instruction (R89). -/
def bitwise (d : BitVec 6) (w : BitVec 4) (v : Word) (s : State) : Out :=
  .next (s.wx d (extBits v (widthOf w) (wSigned w)))

/-- The shifts by `n` of a value under W (R91): 0 left, 1 right, 2 arithmetic right, 3 rotate right. -/
def shiftResult (k : Nat) (w : BitVec 4) (x : Word) (n : Nat) : Word :=
  let a := x.setWidth (widthOf w)
  let v := match k with
    | 0 => a <<< n
    | 1 => a >>> n
    | 2 => a.sshiftRight n
    | _ => a.rotateRight n
  extBits (v.setWidth 64) (widthOf w) (wSigned w)

/-- Whether an operation of the thread is in flight in the vector engine (R71). -/
def vectorInFlight (s : State) : Bool :=
  s.curCore.vec.ops.any fun o => o.slot == s.iss.slot && o.gen == s.cur.gen

/-- Number of leading zeros of a within `n` bits (R91). -/
def clzBits (n v : Nat) : Nat := if v = 0 then n else n - 1 - Nat.log2 v
/-- Number of trailing zeros of a within `n` bits (R91). -/
def ctzBits (n v : Nat) : Nat := ((List.range n).find? fun i => v.testBit i).getD n
/-- Number of ones within `n` bits (R91). -/
def popBits (n v : Nat) : Nat := (List.range n).foldl (fun c i => if v.testBit i then c + 1 else c) 0
/-- The `n` bits in reverse order (R91). -/
def revBits (n v : Nat) : Nat := (List.range n).foldl (fun r i => 2 * r + (if v.testBit i then 1 else 0)) 0

/-- The extract of BFX (R92). -/
def bfxResult (signed : Bool) (x : Word) (pos len : Nat) : Word :=
  if len = 0 ∨ 64 < len then 0 else extBits (x >>> pos) len signed

/-- The insert of BFI (R92): bits that would stand above bit 63 are dropped. -/
def bfiResult (old x : Word) (pos len : Nat) : Word :=
  if 1 ≤ len ∧ len ≤ 64 then
    let m := (BitVec.allOnes len).setWidth 64 <<< pos
    (old &&& ~~~m) ||| ((x <<< pos) &&& m)
  else old

/-- The hash of XFOLD (R93). -/
def xfoldResult (k : Nat) (x : Word) (m : Nat) : Word :=
  let h := foldK k x.toNat
  BitVec.ofNat 64 (if m = 0 then h else h % m)

/-! ### No effect, traps -/

/-- NOP (R102). -/
def execNop (s : State) : Out := .next s
/-- BRK (R345). -/
def execBrk (imm : BitVec 32) (s : State) : Out := .next (s.takeTrap .breakpoint 0 (imm.setWidth 64))
/-- SVC (R345). -/
def execSvc (imm : BitVec 32) (s : State) : Out := .next (s.takeTrap .svc 0 (imm.setWidth 64))
/-- TRAP (R345): the trap when the condition holds over 64 bits, else no effect. -/
def execTrap (sub : BitVec 4) (a b : BitVec 6) (imm : BitVec 32) (s : State) : Out :=
  .next (if condHolds sub 64 (s.rx a) (s.rx b) then s.takeTrap .trap 0 (imm.setWidth 64) else s)
/-- ILL (R30, R39, R40): Illegal-Instruction, whatever the guard. -/
def execIll (s : State) : Out := .next (s.takeTrap .illegalInstruction 0 0)

/-! ### Special registers (R83, R103) -/

/-- LAUNCH (R83). -/
def launchWord (t : Thread) : Word := BitVec.ofNat 64 (t.asn % 65536 + 65536 * (t.launch % 2 ^ 32))

/-- CUBEST (R217). The owner of a thread that has been evicted is still its owner (R323). -/
def cubestWord (c : Nat) (k : Core) : Word :=
  let owner : BitVec 17 := match k.cube.owner with
    | some sl => tidOf c (sl % 16)
    | none => 0
  0#8 ++ k.cube.sticky ++ owner ++ BitVec.ofBool k.cube.owner.isSome ++ BitVec.ofNat 2 k.cube.queue.length ++ k.seq ++
    k.cube.done

/-- DQSPILL (R131): bits 31:18 are zero, also for a launch whose local memory ends where the core's does. -/
def dqspillWord (l : Launch) : Word := BitVec.ofNat 64 (l.hdr.deque * 2 ^ 32 + (l.lbase + l.hdr.lmem) % 2 ^ 18)

/-- ENACC (R379): the account as it stood at the last interval end. -/
def enaccWord (a : Account) : Word := BitVec.ofNat 64 (a.snapStage * 2 ^ 56) ||| (BitVec.ofInt 56 (a.snapB / 1000)).setWidth 64

/-- The value of a special register that MFS reads (R83). PART of a thread of device firmware, which belongs to no partition,
reads 0: DESIGN CHOICE (log 7). -/
def sregValue (s : State) (i : BitVec 12) : Word :=
  let t := s.cur
  match i.toNat with
  | 0x000 => (tidOf s.iss.core s.iss.slot).setWidth 64
  | 0x001 => BitVec.ofNat 64 (coreNum s.iss.core)
  | 0x002 => BitVec.ofNat 64 (t.dom % 16)
  | 0x003 => launchWord t
  | 0x004 => BitVec.ofNat 64 s.curCore.cyc
  | 0x005 => t.lvl.setWidth 64
  | 0x006 => t.rseq
  | 0x010 => t.fpcr.setWidth 64
  | 0x011 => t.fpsr.setWidth 64
  | 0x020 => t.qsb
  | 0x021 => t.qss
  | 0x022 => t.qwin
  | 0x023 => t.trav
  | 0x024 => BitVec.ofNat 64 (256 * s.curLaunch.hdr.qregs + t.allot)
  | 0x030 => cubestWord s.iss.core s.curCore
  | 0x031 => s.curCore.cube.cfg.setWidth 64
  | 0x040 => dqspillWord s.curLaunch
  | 0x050 => (s.cache (s.agentOf s.iss.core)).relcnt
  | 0x051 => (s.cache (s.agentOf s.iss.core)).dlines ++ (s.cache (s.agentOf s.iss.core)).drains
  | 0x052 => BitVec.ofNat 64 ((s.cache (s.agentOf s.iss.core)).lines.countP fun l => l.dirty != 0)
  | 0x060 => enaccWord s.curDom.acct
  | _ => BitVec.ofNat 64 s.curCore.trapqCount

/-- A thread after a write of one of its special registers: reserved bits are ignored (R6), RSEQ is never zero
(R100). -/
def Thread.setSreg (t : Thread) (i : Nat) (v : Word) : Thread :=
  match i with
  | 0x005 => { t with lvl := v.setWidth 2 }
  | 0x006 => { t with rseq := rseqStored v }
  | 0x010 => { t with fpcr := v.setWidth 3 }
  | 0x011 => { t with fpsr := v.setWidth 5 }
  | 0x020 => { t with qsb := v }
  | 0x021 => { t with qss := v &&& 0xFFFFFFFF#64 }
  | 0x022 => { t with qwin := v &&& 0xFFFFFFFFFFFF#64 }
  | 0x023 => { t with trav := v }
  | _ => t

/-- The effect of an MTS: at once, or in a pair after the V half (R103). -/
def State.mts (s : State) (i : Nat) (v : Word) : State :=
  if s.iss.pair then { s with iss := { s.iss with mts := some (i, v) } } else s.modCur fun t => t.setSreg i v

/-- MFS (R103); TRAPQ needs the Supervisor level (R83); FPCR waits for the thread's V-operations (R108). -/
def execMfs (d : BitVec 6) (sreg : BitVec 12) (s : State) : Out :=
  .next (if sreg = 0x070#12 ∧ s.cur.lvl = 0#2 then s.takeTrap .privilege 0 0
    else if sreg = 0x010#12 ∧ vectorInFlight s then s.loseTurn
    else s.wx d (sregValue s sreg))
/-- MFS FPSR (R71, R103): after every V-operation the thread issued earlier. -/
def execMfsFpsr (d : BitVec 6) (s : State) : Out :=
  .next (if vectorInFlight s then s.loseTurn else s.wx d (s.cur.fpsr.setWidth 64))
/-- MTS to QSB, QSS, QWIN or TRAV (R103, R141). -/
def execMts (a : BitVec 6) (sreg : BitVec 12) (s : State) : Out := .next (s.mts sreg.toNat (s.rx a))
/-- MTS FPCR (R65, R71): RM 6 and 7 are illegal. -/
def execMtsFpcr (a : BitVec 6) (s : State) : Out :=
  .next (if 6 ≤ ((s.rx a).setWidth 3).toNat then s.takeTrap .illegalInstruction 0 0
    else if vectorInFlight s then s.loseTurn
    else s.mts 0x010 (s.rx a))
/-- MTS FPSR (R71). -/
def execMtsFpsr (a : BitVec 6) (s : State) : Out :=
  .next (if vectorInFlight s then s.loseTurn else s.mts 0x011 (s.rx a))
/-- MTS PRIV (R85): only downwards, and in slot 15 not below 1. -/
def execMtsPriv (a : BitVec 6) (s : State) : Out :=
  let v := (s.rx a).setWidth 2
  .next (if s.cur.lvl.toNat < v.toNat ∨ (s.iss.slot = 15 ∧ v = 0#2) then s.takeTrap .privilege 0 0
    else s.mts 0x005 (s.rx a))
/-- MTS RSEQ (R100). -/
def execMtsRseq (a : BitVec 6) (s : State) : Out := .next (s.mts 0x006 (s.rx a))

/-- RAND (R101): 64 steps of the sequence. -/
def execRand (d : BitVec 6) (s : State) : Out :=
  let r := drawBits 64 s.cur.rseq
  .next ((s.modCur fun t => { t with rseq := r.2 }).wx d (BitVec.ofNat 64 r.1))
/-- RAND.R16 (R101). -/
def execRandR16 (d : BitVec 6) (s : State) : Out :=
  let r := nextRand16 s.cur.rseq
  .next ((s.modCur fun t => { t with rseq := r.2 }).wx d (BitVec.ofNat 64 r.1))

/-! ### Arithmetic and logic (R88, R89) -/

/-- ADD (R89): a + b. -/
def execAdd (d a b : BitVec 6) (w : BitVec 4) (s : State) : Out :=
  arith d w (s.rx a) (s.rx b) (fun a b => a + b) s
/-- SUB (R89): a - b. -/
def execSub (d a b : BitVec 6) (w : BitVec 4) (s : State) : Out :=
  arith d w (s.rx a) (s.rx b) (fun a b => a - b) s
/-- MUL (R89): a * b. -/
def execMul (d a b : BitVec 6) (w : BitVec 4) (s : State) : Out :=
  arith d w (s.rx a) (s.rx b) (fun a b => a * b) s
/-- MULH (R89): the high half, (a * b) div 2^w. -/
def execMulh (d a b : BitVec 6) (w : BitVec 4) (s : State) : Out :=
  arith d w (s.rx a) (s.rx b) (fun a b => a * b / 2 ^ widthOf w) s
/-- REM (R89): a - b * Trunc(a / b); a when b = 0. -/
def execRem (d a b : BitVec 6) (w : BitVec 4) (s : State) : Out :=
  arith d w (s.rx a) (s.rx b) (fun a b => if b = 0 then a else a.tmod b) s
/-- MIN (R89). -/
def execMin (d a b : BitVec 6) (w : BitVec 4) (s : State) : Out :=
  arith d w (s.rx a) (s.rx b) (fun a b => min a b) s
/-- MAX (R89). -/
def execMax (d a b : BitVec 6) (w : BitVec 4) (s : State) : Out :=
  arith d w (s.rx a) (s.rx b) (fun a b => max a b) s
/-- DIV (R89): Trunc(a / b); with b = 0 all ones of the width, never clamped. -/
def execDiv (d a b : BitVec 6) (w : BitVec 4) (s : State) : Out :=
  let y := aluOperand w (s.rx b)
  .next (s.wx d (if y = 0 then extBack (2 ^ widthOf w - 1) (widthOf w) (wSigned w)
    else aluResult w ((aluOperand w (s.rx a)).tdiv y)))
/-- AND (R89). -/
def execAnd (d a b : BitVec 6) (w : BitVec 4) (s : State) : Out := bitwise d w (s.rx a &&& s.rx b) s
/-- OR (R89). -/
def execOr (d a b : BitVec 6) (w : BitVec 4) (s : State) : Out := bitwise d w (s.rx a ||| s.rx b) s
/-- XOR (R89). -/
def execXor (d a b : BitVec 6) (w : BitVec 4) (s : State) : Out := bitwise d w (s.rx a ^^^ s.rx b) s
/-- ANDN (R89). -/
def execAndn (d a b : BitVec 6) (w : BitVec 4) (s : State) : Out := bitwise d w (s.rx a &&& ~~~s.rx b) s
/-- SEL (R89): X[A] when P[C] is true, else X[B]. -/
def execSel (d a b c : BitVec 6) (_w : BitVec 4) (s : State) : Out :=
  .next (s.wx d (if s.rp (c.setWidth 3) then s.rx a else s.rx b))
/-- MADD (R89): a * b + c. -/
def execMadd (d a b c : BitVec 6) (w : BitVec 4) (s : State) : Out :=
  let z := aluOperand w (s.rx c)
  arith d w (s.rx a) (s.rx b) (fun a b => a * b + z) s
/-- ADDS (R89): a + b * 2^SUBF. -/
def execAdds (sub : BitVec 4) (d a b : BitVec 6) (w : BitVec 4) (s : State) : Out :=
  arith d w (s.rx a) (s.rx b) (fun a b => a + b * 2 ^ sub.toNat) s
/-- ABSD (R89): the distance, zero-extended whatever W[2]. -/
def execAbsd (d a b : BitVec 6) (w : BitVec 4) (s : State) : Out :=
  let r := aluOperand w (s.rx a) - aluOperand w (s.rx b)
  .next (s.wx d (extBack (if r < 0 then -r else r) (widthOf w) false))
/-- ADDI (R89). -/
def execAddi (d a : BitVec 6) (w : BitVec 4) (imm : BitVec 64) (s : State) : Out :=
  arith d w (s.rx a) imm (fun a b => a + b) s
/-- MULI (R89). -/
def execMuli (d a : BitVec 6) (w : BitVec 4) (imm : BitVec 64) (s : State) : Out :=
  arith d w (s.rx a) imm (fun a b => a * b) s
/-- ANDI (R89). -/
def execAndi (d a : BitVec 6) (w : BitVec 4) (imm : BitVec 64) (s : State) : Out := bitwise d w (s.rx a &&& imm) s
/-- ORI (R89). -/
def execOri (d a : BitVec 6) (w : BitVec 4) (imm : BitVec 64) (s : State) : Out := bitwise d w (s.rx a ||| imm) s
/-- XORI (R89). -/
def execXori (d a : BitVec 6) (w : BitVec 4) (imm : BitVec 64) (s : State) : Out := bitwise d w (s.rx a ^^^ imm) s
/-- LDI (R90). -/
def execLdi (d : BitVec 6) (_w : BitVec 4) (imm : BitVec 64) (s : State) : Out := .next (s.wx d imm)
/-- LEA (R90): the PC of the LEA plus IMM. -/
def execLea (d : BitVec 6) (_w : BitVec 4) (imm : BitVec 64) (s : State) : Out := .next (s.wx d (s.iss.pc + imm))

/-! ### Shifts, counts and bit fields (R91, R92, R93) -/

/-- SLL (R91). -/
def execSll (d a b : BitVec 6) (w : BitVec 4) (s : State) : Out :=
  .next (s.wx d (shiftResult 0 w (s.rx a) ((s.rx b).toNat % widthOf w)))
/-- SRL (R91). -/
def execSrl (d a b : BitVec 6) (w : BitVec 4) (s : State) : Out :=
  .next (s.wx d (shiftResult 1 w (s.rx a) ((s.rx b).toNat % widthOf w)))
/-- SRA (R91). -/
def execSra (d a b : BitVec 6) (w : BitVec 4) (s : State) : Out :=
  .next (s.wx d (shiftResult 2 w (s.rx a) ((s.rx b).toNat % widthOf w)))
/-- SLLI (R91): an IMM of the width or more is Illegal-Instruction. -/
def execSlli (d a : BitVec 6) (w : BitVec 4) (imm : BitVec 64) (s : State) : Out :=
  .next (if widthOf w ≤ imm.toNat then s.takeTrap .illegalInstruction 0 0
    else s.wx d (shiftResult 0 w (s.rx a) imm.toNat))
/-- SRLI (R91): an IMM of the width or more is Illegal-Instruction. -/
def execSrli (d a : BitVec 6) (w : BitVec 4) (imm : BitVec 64) (s : State) : Out :=
  .next (if widthOf w ≤ imm.toNat then s.takeTrap .illegalInstruction 0 0
    else s.wx d (shiftResult 1 w (s.rx a) imm.toNat))
/-- SRAI (R91): an IMM of the width or more is Illegal-Instruction. -/
def execSrai (d a : BitVec 6) (w : BitVec 4) (imm : BitVec 64) (s : State) : Out :=
  .next (if widthOf w ≤ imm.toNat then s.takeTrap .illegalInstruction 0 0
    else s.wx d (shiftResult 2 w (s.rx a) imm.toNat))
/-- ROT (R91): rotate right. -/
def execRot (d a b : BitVec 6) (w : BitVec 4) (s : State) : Out :=
  .next (s.wx d (shiftResult 3 w (s.rx a) ((s.rx b).toNat % widthOf w)))
/-- CLZ (R91), zero-extended. -/
def execClz (d a : BitVec 6) (w : BitVec 4) (s : State) : Out :=
  .next (s.wx d (BitVec.ofNat 64 (clzBits (widthOf w) ((s.rx a).toNat % 2 ^ widthOf w))))
/-- CTZ (R91), zero-extended. -/
def execCtz (d a : BitVec 6) (w : BitVec 4) (s : State) : Out :=
  .next (s.wx d (BitVec.ofNat 64 (ctzBits (widthOf w) ((s.rx a).toNat % 2 ^ widthOf w))))
/-- POPC (R91), zero-extended. -/
def execPopc (d a : BitVec 6) (w : BitVec 4) (s : State) : Out :=
  .next (s.wx d (BitVec.ofNat 64 (popBits (widthOf w) ((s.rx a).toNat % 2 ^ widthOf w))))
/-- BREV (R91), zero-extended. -/
def execBrev (d a : BitVec 6) (w : BitVec 4) (s : State) : Out :=
  .next (s.wx d (BitVec.ofNat 64 (revBits (widthOf w) ((s.rx a).toNat % 2 ^ widthOf w))))
/-- BFX (R92). -/
def execBfx (d a b c : BitVec 6) (w : BitVec 4) (s : State) : Out :=
  .next (s.wx d (bfxResult (wSigned w) (s.rx a) ((s.rx b).toNat % 64) ((s.rx c).toNat % 128)))
/-- BFI (R92). -/
def execBfi (d a b c : BitVec 6) (_w : BitVec 4) (s : State) : Out :=
  .next (s.wx d (bfiResult (s.rx d) (s.rx a) ((s.rx b).toNat % 64) ((s.rx c).toNat % 128)))
/-- XFOLD (R93): chunk width SUBF + 1, modulus X[B] when B names a register that is not zero. -/
def execXfold (sub : BitVec 4) (d a b : BitVec 6) (s : State) : Out :=
  .next (s.wx d (xfoldResult (sub.toNat + 1) (s.rx a) (s.rx b).toNat))

/-! ### Compares and predicates (R94 to R96) -/

/-- CMP (R95). -/
def execCmp (sub : BitVec 4) (d a b : BitVec 6) (w : BitVec 4) (s : State) : Out :=
  .next (s.wp (d.setWidth 3) (condHolds sub (widthOf w) (s.rx a) (s.rx b)))
/-- CMPI (R95). -/
def execCmpi (sub : BitVec 4) (d a : BitVec 6) (w : BitVec 4) (imm : BitVec 64) (s : State) : Out :=
  .next (s.wp (d.setWidth 3) (condHolds sub (widthOf w) (s.rx a) imm))

/-- The eight operations of PLOG (R96). -/
def plogOp (k : Nat) (a b : Bool) : Bool :=
  match k with
  | 0 => a && b
  | 1 => a || b
  | 2 => a != b
  | 3 => a && !b
  | 4 => a || !b
  | 5 => !(a && b)
  | 6 => !(a || b)
  | _ => a == b

/-- PLOG (R96). -/
def execPlog (sub : BitVec 4) (d a b : BitVec 6) (s : State) : Out :=
  .next (s.wp (d.setWidth 3) (plogOp sub.toNat (s.rp (a.setWidth 3)) (s.rp (b.setWidth 3))))
/-- PMOV.TOX (R96). -/
def execPmovTox (d : BitVec 6) (s : State) : Out := .next (s.wx d s.cur.predWord)
/-- PMOV.FROMX (R96). -/
def execPmovFromx (a : BitVec 6) (s : State) : Out :=
  let v := (s.rx a).setWidth 8
  .next (s.modCur fun t => { t with p := (v &&& 0xFE#8) ||| (t.p &&& 1#8) })
/-- PMOV.NZ (R96). -/
def execPmovNz (d a : BitVec 6) (s : State) : Out := .next (s.wp (d.setWidth 3) (s.rx a != 0#64))

/-! ### Control flow (R97, R98) -/

/-- Go to a target: a transfer, checked at the fetch (R26, R98). -/
def State.jump (s : State) (target : Word) : State := s.modCur fun t => { t with pc := target, xfer := true }

/-- BR (R97). -/
def execBr (disp : BitVec 37) (slot : BitVec 3) (s : State) : Out := .next (s.jump (branchTarget s.iss.pc disp slot))
/-- CALL (R97): X[63] := ret. -/
def execCall (disp : BitVec 37) (slot : BitVec 3) (s : State) : Out :=
  .next ((s.wx 63#6 s.iss.npc).jump (branchTarget s.iss.pc disp slot))
/-- CALL.R (R97): the target is read before X[63] is written. -/
def execCallR (a : BitVec 6) (s : State) : Out := .next ((s.wx 63#6 s.iss.npc).jump (s.rx a))
/-- RET (R97). -/
def execRet (a : BitVec 6) (s : State) : Out := .next (s.jump (s.rx a))
/-- JMP (R97). -/
def execJmp (a : BitVec 6) (s : State) : Out := .next (s.jump (s.rx a))
/-- LOOP (R97). -/
def execLoop (a : BitVec 6) (disp : BitVec 37) (slot : BitVec 3) (s : State) : Out :=
  let v := s.rx a - 1#64
  let s' := s.wx a v
  .next (if v ≠ 0#64 then s'.jump (branchTarget s.iss.pc disp slot) else s')
/-- BRZ (R97). -/
def execBrz (a : BitVec 6) (cond : BitVec 4) (disp : BitVec 37) (slot : BitVec 3) (s : State) : Out :=
  .next (if condHolds cond 64 (s.rx a) 0#64 then s.jump (branchTarget s.iss.pc disp slot) else s)
/-- BRCMP (R97). -/
def execBrcmp (a b : BitVec 6) (cond : BitVec 4) (disp : BitVec 37) (slot : BitVec 3) (s : State) : Out :=
  .next (if condHolds cond 64 (s.rx a) (s.rx b) then s.jump (branchTarget s.iss.pc disp slot) else s)

end Sys2Proof.Machine
end

