-- ==== Sys2Proof/Machine/Memory.lean ====
section
/-! DEFINITION. Loads, stores, bit accesses, prefetches and atomics, what the home does with them, and the
acknowledgements of stores and atomics (R165, R166, R247 to R253, R256, R261 to R267, R349). -/
namespace Sys2Proof.Machine

/-! ### Where an access goes (R248) -/

/-- Where an access of the issuing thread is performed, or the state in which it has trapped or lost its turn. -/
inductive Place where
  | trap (s : State)
  | window (a : Nat)
  | global (s : State) (pa : Nat) (e : TlbEnt)

/-- A held FILL stands before a window access of the issuing core's threads, which the bank performs in issue order (R163,
R273). -/
def State.bankHeld (s : State) : Bool := s.curCore.fill.isSome

/-- Alignment, then the window, then translation (R248, R161, R237). -/
def State.place (s : State) (ea : Word) (n : Nat) (need : Need) : Place :=
  if !alignedTo ea n then .trap (s.takeTrap .alignment ea 0)
  else if inWindow ea then
    let l := s.curLaunch
    if !inRegion l.hdr.lmem (winOff ea) n then .trap (s.protTrap ea)
    else if s.bankHeld then .trap s.loseTurn
    else .window (l.lbase + winOff ea)
  else
    match s.translateCur ea need with
    | (s', .wait) => .trap s'.loseTurn
    | (s', .fail c info) => .trap (s'.xlateTrap c ea info)
    | (s', .ok pa e) => .global s' pa e

/-- The L1 holds lines of the page: C set and no host bias (R244, R310). -/
def TlbEnt.cached (e : TlbEnt) : Bool := e.flags.getLsbD 5 && !e.bias.any fun b => b.2 == 1#2 || b.2 == 2#2
/-- IMM or PRIVC: exempt from self-invalidation (R236, R265). -/
def TlbEnt.keeps (e : TlbEnt) : Bool := e.flags.getLsbD 6 || e.flags.getLsbD 7

/-- The issuing agent. -/
def State.curAgent (s : State) : Nat := s.agentOf s.iss.core
/-- Requests of the issuing thread that a release waits for, and those a later ordered access waits for (R264). -/
def State.curOutstanding (s : State) : List Nat := s.outstanding s.iss.core s.iss.slot
def State.curReleases (s : State) : List Nat := s.releases s.iss.core s.iss.slot

/-- The requests sent between two states. -/
def sentSince (s s' : State) : List Nat := (List.range (s'.nextId - s.nextId)).map fun i => s.nextId + i

/-- The turn is lost until requests are acknowledged; then `k` runs (R108, R278). -/
def State.afterAcks (s : State) (stage : Nat) (ids : List Nat) (k : State → State) : State :=
  if ids.all s.acked then k s else s.loseWith ⟨stage, ids, 0⟩

/-- The drain of an eager release: the write-backs that must be performed before its write (R269). -/
def State.eagerDrain (s : State) (eager : Bool) : State × List Nat := if eager then s.drainAll s.curAgent else (s, [])

/-- An eager release of core scope is performed by the core itself once its drain is done (R269). -/
def State.afterEager (s : State) (eager : Bool) (k : State → State) : State :=
  match s.cur.prog with
  | some p => s.afterAcks 1 p.ids k
  | none => let r := s.eagerDrain eager; r.1.afterAcks 1 r.2 k

/-- A request of the issuing thread. -/
def State.curMsg (s : State) (kind : MKind) (pa n : Nat) (va : Word) : Msg := s.newMsg s.iss.core s.iss.slot kind pa n va

/-! ### Loads -/

/-- Write the `n` bytes a load brings to its destination (R248). -/
def Thread.deliver (t : Thread) (dst : Dst) (n v : Nat) : Thread :=
  match dst with
  | .x d sx => t.setX d (extBits (BitVec.ofNat 64 v) (8 * n) sx)
  | .xpair d => (t.setX d (BitVec.ofNat 64 v)).setX (d + 1#6) (BitVec.ofNat 64 (v / 2 ^ 64))
  | .q d => t.setQ d (BitVec.ofNat 256 v)
  | _ => t

/-- Deliver what a load of the thread in a slot brings; an f register may be a stream (R176). -/
def State.deliver (s : State) (c sl : Nat) (dst : Dst) (n v : Nat) (pc : Word) : State :=
  match dst with
  | .f d => s.pushF c sl d (BitVec.ofNat 64 v) pc
  | _ => s.modThread c sl fun t => t.deliver dst n v
/-- Deliver to the issuing thread. -/
def State.deliverCur (s : State) (dst : Dst) (n v : Nat) : State := s.deliver s.iss.core s.iss.slot dst n v s.iss.pc

/-- A load at an address in the window (R163, R349). -/
def State.loadWindow (s : State) (ea : Word) (a n : Nat) (dst : Dst) : State :=
  if s.localPoison s.iss.core a n then s.takeTrap .poison ea 0
  else s.deliverCur dst n (s.localRead s.iss.core a n)

/-- A load performed in the core's L1, or at the home where the page is not cached (R242, R244, R248, R256). Only a load of
ORD 0 or 1 asks for a replica (R246). -/
def State.loadPlain (s : State) (ea : Word) (pa n : Nat) (e : TlbEnt) (ord hint : BitVec 3) (dst : Dst) : State :=
  let agent := s.curAgent
  let ask (alloc repl : Bool) : State :=
    s.postWait { s.curMsg (.load alloc e.keeps repl) pa n ea with dst := dst, ord := ord.toNat }
  if e.cached then
    match s.loadL1 agent s.cur.dom pa n with
    | some (v, bad) =>
      if bad then s.takeTrap .poison ea 0
      else (s.touchL1 agent s.cur.dom pa).deliverCur dst n v
    | none => ask (hint != 2#3) (hint == 1#3 && decide (ord.toNat ≤ 1))
  else ask false false

/-- An ordered load of scope 1 or wider: performed at its home, after the thread's releases (R256, R264, R265). -/
def State.loadOrdered (s : State) (ea : Word) (pa n : Nat) (ord scope : BitVec 3) (dst : Dst) : State :=
  let s' := s.flushLine s.curAgent s.cur.dom pa
  s'.postWait { s'.curMsg .read pa n ea with
    dst := dst, ord := ord.toNat, scope := scope.toNat, after := s.curReleases ++ sentSince s s' }

/-- An ordered load that the core performs itself waits for the thread's releases, one of ORD 6 for every store under way at
a home (R264, R274). -/
def State.loadMustWait (s : State) (ord : BitVec 3) : Bool :=
  (ord != 0#3 && !s.curReleases.isEmpty) || (ord == 6#3 && !s.curOutstanding.isEmpty)

/-- A load (R248, R256). -/
def State.load (s : State) (ea : Word) (n : Nat) (ord scope hint : BitVec 3) (dst : Dst) : State :=
  match s.place ea n .read with
  | .trap s => s
  | .window a => if s.loadMustWait ord then s.loseTurn else s.loadWindow ea a n dst
  | .global s pa e =>
    if ord ≠ 0#3 ∧ scope ≠ 0#3 then s.loadOrdered ea pa n ord scope dst
    else if s.loadMustWait ord then s.loseTurn
    else s.loadPlain ea pa n e ord hint dst

/-! ### Stores -/

/-- A store performed at the home that does not wait: C = 0 pages, host bias, .STRM (R244, R248). -/
def State.storeHome (s : State) (ea : Word) (pa n v : Nat) : State :=
  s.post { s.curMsg .store pa n ea with data := BitVec.ofNat 1024 (v % 2 ^ (8 * n)) }

/-- A store performed where a plain access is (R242, R248, R256). -/
def State.storePlain (s : State) (ea : Word) (pa n : Nat) (e : TlbEnt) (hint : BitVec 3) (v : Nat) : State :=
  if e.cached && hint != 2#3 then s.storeL1 s.curAgent s.cur.dom pa n v e.keeps s.cur.launch
  else (s.updateL1 s.curAgent s.cur.dom pa n v).storeHome ea pa n v

/-- A release is eager: ORD 5, or scope 6 (R269). -/
def eagerRel (ord scope : BitVec 3) : Bool := ord == 5#3 || scope == 6#3
/-- The access has a release part (R256). -/
def relPart (ord : Nat) : Bool := 3 ≤ ord
/-- The access acquires when it reads (R256, R265). -/
def acqPart (ord : Nat) : Bool := ord == 2 || ord == 4 || ord == 6

/-- A release of scope 1 or wider is counted at issue; an eager one first writes back the dirty set (R261, R269). Gives what
its write waits for. -/
def State.beginRelease (s : State) (eager : Bool) : State × List Nat :=
  let r := s.eagerDrain eager
  (r.1.countRelease r.1.curAgent, r.2)

/-- An ordered store of scope 1 or wider (R256, R264). -/
def State.storeOrdered (s : State) (ea : Word) (pa n : Nat) (ord scope : BitVec 3) (v : Nat) : State :=
  let data := BitVec.ofNat 1024 (v % 2 ^ (8 * n))
  let s1 := s.flushLine s.curAgent s.cur.dom pa
  if ord = 1#3 then
    s1.postWait { s1.curMsg .store pa n ea with
      ord := 1, scope := scope.toNat, data := data, after := s.curReleases ++ sentSince s s1 }
  else
    let (s2, ids) := s1.beginRelease (eagerRel ord scope)
    s2.postWait { s2.curMsg .release pa n ea with
      ord := ord.toNat, scope := scope.toNat, epoch := s2.epochOf s2.curAgent, data := data,
      after := s.curOutstanding ++ sentSince s s2 ++ ids }

/-- An ordered store that the core performs itself waits for the thread's releases, one with a release part for every store
under way at a home (R264, R274 note 1). -/
def State.storeMustWait (s : State) (ord : BitVec 3) : Bool :=
  (ord != 0#3 && !s.curReleases.isEmpty) || (relPart ord.toNat && !s.curOutstanding.isEmpty)

/-- A store (R248, R256). An ORD 5 store that the core performs itself is eager too (R269). -/
def State.store (s : State) (ea : Word) (n : Nat) (ord scope hint : BitVec 3) (v : Nat) : State :=
  match s.place ea n .write with
  | .trap s => s
  | .window a =>
    if s.storeMustWait ord then s.loseTurn
    else s.afterEager (ord == 5#3) fun s => s.localWrite s.iss.core a n v
  | .global s pa e =>
    if ord ≠ 0#3 ∧ scope ≠ 0#3 then
      if relPart ord.toNat ∧ s.foldBlocks s.curAgent then s.loseTurn else s.storeOrdered ea pa n ord scope v
    else if s.storeMustWait ord then s.loseTurn
    else s.afterEager (ord == 5#3) fun s => s.storePlain ea pa n e hint v

/-! ### Atomics (R251) -/

/-- The new value of an atomic, none when it writes nothing (R251): operation, bytes, old word, operand, comparand. -/
def amoNew (op n old v cmp : Nat) : Option Nat :=
  let w := 8 * n
  let a := BitVec.ofNat w old
  let b := BitVec.ofNat w v
  let flt (x : FVal × RC) : Nat := (roundTo 0 0 false x.1 x.2).1
  let c0 : RC := ⟨0, 1#64⟩
  match op with
  | 0 => some (a + b).toNat
  | 1 => some (a &&& b).toNat
  | 2 => some (a ||| b).toNat
  | 3 => some (a ^^^ b).toNat
  | 4 => some (if a.slt b then a else b).toNat
  | 5 => some (if a.slt b then b else a).toNat
  | 6 => some (if a.ult b then a else b).toNat
  | 7 => some (if a.ult b then b else a).toNat
  | 8 => some b.toNat
  | 9 => if a = BitVec.ofNat w cmp then some b.toNat else none
  | 10 => some (flt (fAdd 0 (valueOf 0 old) (valueOf 0 v) c0))
  | 11 => some (flt (fMinMax false (valueOf 0 old) (valueOf 0 v), c0))
  | _ => some (flt (fMinMax true (valueOf 0 old) (valueOf 0 v), c0))

/-- An atomic at a bank (R163, R251). -/
def State.atomicWindow (s : State) (ea : Word) (a n op : Nat) (v cmp : Word) (dst : Dst) : State :=
  if s.localPoison s.iss.core a n then s.takeTrap .poison ea 0
  else
    let old := s.localRead s.iss.core a n
    let s := match amoNew op n old v.toNat cmp.toNat with
      | some w => s.localWrite s.iss.core a n w
      | none => s
    s.deliverCur dst n old

/-- An atomic at its home (R251, R256, R261, R264, R269): a dirty copy is written back first, a release part of scope 1 or
wider is counted; `quiet` does not wait for its reply. -/
def State.atomicGlobal (s : State) (ea : Word) (pa n op : Nat) (ord scope : BitVec 3) (v cmp : Word) (dst : Dst)
    (quiet : Bool) : State :=
  let s1 := s.flushLine s.curAgent s.cur.dom pa
  let rel := relPart ord.toNat
  let eager := rel && eagerRel ord scope
  let (s2, ids) := if rel && scope != 0#3 then s1.beginRelease eager else s1.eagerDrain eager
  let m := { s2.curMsg (.atomic op cmp) pa n ea with
    ord := ord.toNat, scope := scope.toNat, epoch := s2.epochOf s2.curAgent, data := v.setWidth 1024, dst := dst,
    after := (if rel then s.curOutstanding else s.curReleases) ++ sentSince s s2 ++ ids }
  if quiet then s2.post m else s2.postWait m

/-- An atomic (R248, R251). -/
def State.atomic (s : State) (ea : Word) (size : BitVec 3) (op : Nat) (ord scope : BitVec 3) (v cmp : Word) (dst : Dst)
    (quiet : Bool) : State :=
  let n := sizeBytes size
  match s.place ea n .both with
  | .trap s => s
  | .window a =>
    if s.storeMustWait ord then s.loseTurn
    else s.afterEager (ord == 5#3) fun s => s.atomicWindow ea a n op v cmp dst
  | .global s pa _ =>
    if relPart ord.toNat ∧ scope ≠ 0#3 ∧ s.foldBlocks s.curAgent then s.loseTurn
    else s.atomicGlobal ea pa n op ord scope v cmp dst quiet

/-- An AMO: D = 0 with ORD 1, 3 or 5 does not wait (R251). -/
def State.amo (s : State) (op : Nat) (d base idx : BitVec 6) (size ord scope : BitVec 3) (off : BitVec 48) : State :=
  s.atomic (eaAtomic s.cur base off) size op ord scope (s.rx idx) 0#64 (.x d false) (d == 0#6 && ord.getLsbD 0)

/-- An AMOF: the operand and the result are f registers (R251). -/
def State.amof (s : State) (op : Nat) (d base idx : BitVec 6) (size ord scope : BitVec 3) (off : BitVec 48) : State :=
  s.withF (idx.setWidth 5) fun s v =>
    s.atomic (eaAtomic s.cur base off) size op ord scope v 0#64 (.f (d.setWidth 5)) false

/-! ### Meanings of the memory instructions -/

/-- LD (R248). -/
def execLd (sub : BitVec 4) (d base idx : BitVec 6) (scl : BitVec 2) (size ord scope hint : BitVec 3) (off : BitVec 48)
    (s : State) : Out :=
  .next (s.load (eaOf s.cur base idx scl off) (sizeBytes size) ord scope hint (.x d (sub == 1#4)))
/-- ST (R248). -/
def execSt (d base idx : BitVec 6) (scl : BitVec 2) (size ord scope hint : BitVec 3) (off : BitVec 48)
    (s : State) : Out :=
  .next (s.store (eaOf s.cur base idx scl off) (sizeBytes size) ord scope hint (s.rx d).toNat)
/-- LDF (R248). -/
def execLdf (d base idx : BitVec 6) (scl : BitVec 2) (size ord scope hint : BitVec 3) (off : BitVec 48)
    (s : State) : Out :=
  .next (s.load (eaOf s.cur base idx scl off) (sizeBytes size) ord scope hint (.f (d.setWidth 5)))
/-- STF (R248). -/
def execStf (d base idx : BitVec 6) (scl : BitVec 2) (size ord scope hint : BitVec 3) (off : BitVec 48)
    (s : State) : Out :=
  .next (s.withF (d.setWidth 5) fun s v =>
    s.store (eaOf s.cur base idx scl off) (sizeBytes size) ord scope hint v.toNat)
/-- LDP (R248). -/
def execLdp (d base idx : BitVec 6) (scl : BitVec 2) (_size ord scope hint : BitVec 3) (off : BitVec 48)
    (s : State) : Out :=
  .next (s.load (eaOf s.cur base idx scl off) 16 ord scope hint (.xpair d))
/-- STP (R248). -/
def execStp (d base idx : BitVec 6) (scl : BitVec 2) (_size ord scope hint : BitVec 3) (off : BitVec 48)
    (s : State) : Out :=
  .next (s.store (eaOf s.cur base idx scl off) 16 ord scope hint
    ((s.rx d).toNat + 2 ^ 64 * (s.rx (d + 1#6)).toNat))

/-- The bit address of LDB and STB, exact and unbounded (R165, R166). -/
def bitAddr (t : Thread) (base idx : BitVec 6) (scl : BitVec 2) (off : BitVec 48) : Int :=
  ((t.getX base).toNat : Int) + ((t.getX idx).toNat * 2 ^ scl.toNat : Nat) + off.toInt
/-- The width of LDB and STB (R165). -/
def bitWidth (size hint : BitVec 3) : Nat := size.toNat * 8 + hint.toNat + 1
/-- The window address of a bit, for the record of its trap (log 17). -/
def bitVa (b : Int) : Word := BitVec.ofInt 64 ((Config.windowBase : Int) + b / 8)

/-- LDB (R166). -/
def execLdb (sub : BitVec 4) (d base idx : BitVec 6) (scl : BitVec 2) (size hint : BitVec 3) (off : BitVec 48)
    (s : State) : Out :=
  let b := bitAddr s.cur base idx scl off
  let w := bitWidth size hint
  let l := s.curLaunch
  .next (if b < 0 ∨ (l.hdr.lmem * 8 : Nat) < b + w then s.protTrap (bitVa b)
    else if s.bankHeld then s.loseTurn
    else
      let a := l.lbase * 8 + b.toNat
      if s.localPoison s.iss.core (a / 8) ((a % 8 + w + 7) / 8) then s.takeTrap .poison (bitVa b) 0
      else
        let v := s.localRead s.iss.core (a / 8) 9 / 2 ^ (a % 8) % 2 ^ w
        s.wx d (extBits (BitVec.ofNat 64 v) w (sub == 1#4)))

/-- STB (R166): a word not written whole keeps its poison (R249). -/
def execStb (d base idx : BitVec 6) (scl : BitVec 2) (size hint : BitVec 3) (off : BitVec 48) (s : State) : Out :=
  let b := bitAddr s.cur base idx scl off
  let w := bitWidth size hint
  let l := s.curLaunch
  .next (if b < 0 ∨ (l.hdr.lmem * 8 : Nat) < b + w then s.protTrap (bitVa b)
    else if s.bankHeld then s.loseTurn
    else
      let a := l.lbase * 8 + b.toNat
      let n := (a % 8 + w + 7) / 8
      let old := s.localRead s.iss.core (a / 8) n
      let lo := old % 2 ^ (a % 8)
      let hi := old / 2 ^ (a % 8 + w)
      let s' := s.localWrite s.iss.core (a / 8) n
        (lo + 2 ^ (a % 8) * ((s.rx d).toNat % 2 ^ w) + 2 ^ (a % 8 + w) * hi)
      if a % 8 = 0 ∧ w % 8 = 0 then s' else s'.modCurCore fun k => { k with lpoison := s.curCore.lpoison })

/-- PREF (R250): asks for a line, and does nothing where translation or permission fails, or where an outside agent holds a
table entry. A page that the L1 does not cache has no replicas (R246). -/
def State.prefetch (s : State) (ea : Word) (l1 repl : Bool) : State :=
  if inWindow ea then s
  else
    match s.translateCur ea .read with
    | (s, .ok pa e) =>
      if l1 && (!e.cached || (s.loadL1 s.curAgent s.cur.dom (lineOf pa * 128) 128).isSome) then s
      else s.post (s.curMsg (.load l1 e.keeps (e.cached && repl)) (lineOf pa * 128) 128 ea)
    | (s, _) => s

/-- PREF.L1 (R250). -/
def execPrefL1 (base idx : BitVec 6) (scl : BitVec 2) (hint : BitVec 3) (off : BitVec 48) (s : State) : Out :=
  .next (s.prefetch (eaOf s.cur base idx scl off) true (hint == 1#3))
/-- PREF.L2 (R250). -/
def execPrefL2 (base idx : BitVec 6) (scl : BitVec 2) (hint : BitVec 3) (off : BitVec 48) (s : State) : Out :=
  .next (s.prefetch (eaOf s.cur base idx scl off) false (hint == 1#3))

/-- AMO.ADD (R251). -/
def execAmoAdd (d base idx : BitVec 6) (size ord scope : BitVec 3) (off : BitVec 48) (s : State) : Out :=
  .next (s.amo 0 d base idx size ord scope off)
/-- AMO.AND (R251). -/
def execAmoAnd (d base idx : BitVec 6) (size ord scope : BitVec 3) (off : BitVec 48) (s : State) : Out :=
  .next (s.amo 1 d base idx size ord scope off)
/-- AMO.OR (R251). -/
def execAmoOr (d base idx : BitVec 6) (size ord scope : BitVec 3) (off : BitVec 48) (s : State) : Out :=
  .next (s.amo 2 d base idx size ord scope off)
/-- AMO.XOR (R251). -/
def execAmoXor (d base idx : BitVec 6) (size ord scope : BitVec 3) (off : BitVec 48) (s : State) : Out :=
  .next (s.amo 3 d base idx size ord scope off)
/-- AMO.SMIN (R251). -/
def execAmoSmin (d base idx : BitVec 6) (size ord scope : BitVec 3) (off : BitVec 48) (s : State) : Out :=
  .next (s.amo 4 d base idx size ord scope off)
/-- AMO.SMAX (R251). -/
def execAmoSmax (d base idx : BitVec 6) (size ord scope : BitVec 3) (off : BitVec 48) (s : State) : Out :=
  .next (s.amo 5 d base idx size ord scope off)
/-- AMO.UMIN (R251). -/
def execAmoUmin (d base idx : BitVec 6) (size ord scope : BitVec 3) (off : BitVec 48) (s : State) : Out :=
  .next (s.amo 6 d base idx size ord scope off)
/-- AMO.UMAX (R251). -/
def execAmoUmax (d base idx : BitVec 6) (size ord scope : BitVec 3) (off : BitVec 48) (s : State) : Out :=
  .next (s.amo 7 d base idx size ord scope off)
/-- AMO.SWAP (R251). -/
def execAmoSwap (d base idx : BitVec 6) (size ord scope : BitVec 3) (off : BitVec 48) (s : State) : Out :=
  .next (s.amo 8 d base idx size ord scope off)
/-- CAS (R251). -/
def execCas (d base idx : BitVec 6) (size ord scope : BitVec 3) (off : BitVec 48) (s : State) : Out :=
  .next (s.atomic (eaAtomic s.cur base off) size 9 ord scope (s.rx idx) (s.rx d) (.x d false) false)
/-- AMOF.ADD (R251). -/
def execAmofAdd (d base idx : BitVec 6) (size ord scope : BitVec 3) (off : BitVec 48) (s : State) : Out :=
  .next (s.amof 10 d base idx size ord scope off)
/-- AMOF.MIN (R251). -/
def execAmofMin (d base idx : BitVec 6) (size ord scope : BitVec 3) (off : BitVec 48) (s : State) : Out :=
  .next (s.amof 11 d base idx size ord scope off)
/-- AMOF.MAX (R251). -/
def execAmofMax (d base idx : BitVec 6) (size ord scope : BitVec 3) (off : BitVec 48) (s : State) : Out :=
  .next (s.amof 12 d base idx size ord scope off)

/-! ### At the home -/

/-- The line of a request, with its poison, as the reply carries it. -/
def State.takeLine (s : State) (m : Msg) : State :=
  let v := s.dom m.dom
  let line := lineOf m.pa
  (s.useLine m).reply { m with
    data := BitVec.ofNat 1024 (Memory.read v.mem (line * 128) 128), pmask := v.linePoison line }

/-- A load that missed L1 is served at its home, or from a replica, which the home first makes where none stands (R246). -/
def State.serveLoad (s : State) (m : Msg) : State :=
  let s := match m.kind with
    | .load _ _ true => s.modDom m.dom fun v =>
        if v.hasReplica (lineOf m.pa) (clusterOf m.core) then v
        else { v with replicas := (lineOf m.pa, clusterOf m.core) :: v.replicas }
    | _ => s
  s.takeLine m

/-- PLAIN_LOAD_AT_HOME (R248, R252): a load, with those combined behind it. -/
def execPlainLoadAtHome (id : Nat) (s : State) : Out :=
  .next (s.perform id (fun k => match k with | .load _ _ _ => true | _ => false) false fun s m =>
    (s.members m).foldl State.serveLoad s)

/-- WRITE_BACK_AT_HOME (R242): the dirty bytes of a write-back, or the bytes of a store performed at the home, are
performed there; a store that waits is acknowledged (R256). -/
def execWriteBackAtHome (id : Nat) (s : State) : Out :=
  .next (s.perform id (fun k => match k with | .writeBack => true | .store => true | _ => false) true fun s m =>
    match m.kind with
    | .writeBack => (s.homeBack m).dropMsg id
    | _ =>
      let s := s.homeStore m.dom m.launch m.pa m.n m.data.toNat
      if m.wait then s.reply m else s.dropMsg id)

/-- The record that the line of a request carries names a releaser other than the requester (R265, R267). -/
def State.recOther (s : State) (m : Msg) : Bool :=
  match (s.dom m.dom).recAt m.pa with
  | some r => r.agent != m.agent
  | none => false

/-- An acquire invalidates the requester's L1 unless it acquires its own release (R265). -/
def State.acqInval (s : State) (m : Msg) : Bool :=
  acqPart m.ord && m.scope != 0 && (s.recOther m || ((s.dom m.dom).recAt m.pa).isNone)

/-- A read of scope 1 or wider must first have a releaser drained (R265). -/
def State.readMustWait (s : State) (m : Msg) : Option RelRec :=
  match (s.dom m.dom).recAt m.pa with
  | some r => if m.ord ≠ 0 ∧ m.scope ≠ 0 ∧ r.mustDrain m.agent m.scope then some r else none
  | none => none

/-- A release write must first have the old releaser drained (R267). -/
def State.writeMustWait (s : State) (m : Msg) : Option RelRec :=
  match (s.dom m.dom).recAt m.pa with
  | some r => if r.mustOverwrite m.agent then some r else none
  | none => none

/-- Leave the record of a release (R264, R269). -/
def State.leaveRecord (s : State) (m : Msg) : State :=
  s.setRec m.dom m.pa { agent := m.agent, epoch := m.epoch, scope := m.scope,
                        st := if m.ord = 5 ∨ m.scope = 6 then 3 else 1 }

/-- RELEASE_AT_HOME (R264, R267): a release write is performed at V's home and leaves a record. -/
def execReleaseAtHome (id : Nat) (s : State) : Out :=
  .next (s.perform id (fun k => match k with | .release => true | _ => false) true fun s m =>
    match s.writeMustWait m with
    | some r => s.holdForDrain m r
    | none =>
      let inv := s.recOther m
      ((s.homeStore m.dom m.launch m.pa m.n m.data.toNat).leaveRecord m).reply { m with inval := inv })

/-- The atomic step at the home (R251): poison changes nothing (R249). Replicas go before any atomic (R246). -/
def State.atomicStep (s : State) (m : Msg) (op : Nat) (cmp : Word) : State :=
  let s := s.useLine m
  if (s.dom m.dom).poisoned m.pa m.n then s.reply { m with poisoned := true }
  else
    let old := s.homeRead m.dom m.pa m.n
    let inv := s.acqInval m
    match amoNew op m.n old m.data.toNat cmp.toNat with
    | none =>
      (s.modDom m.dom fun v => v.dropReplicas (lineOf m.pa)).reply { m with
        data := BitVec.ofNat 1024 old, inval := inv }
    | some v =>
      let rel := relPart m.ord && m.scope != 0
      let inv := inv || (rel && s.recOther m)
      let s := s.homeStore m.dom m.launch m.pa m.n v
      let s := if rel then s.leaveRecord m else s
      s.reply { m with data := BitVec.ofNat 1024 old, inval := inv }

/-- The claim of a packet slot at the queue's header (R286, R330): the reply holds 0 claimed, 1 unbound, 2 full or 3
level, then the index, CAP and PRIO. -/
def State.claimStep (s : State) (m : Msg) (launch : Bool) (lvl : BitVec 2) : State :=
  let s := s.useLine m
  if (s.dom m.dom).poisoned m.pa 32 then s.reply { m with poisoned := true }
  else
    let rd (o n : Nat) : Nat := s.homeRead m.dom (m.pa + o) n
    let wi := rd 0 8
    let cap := rd 16 4
    let bind := BitVec.ofNat 64 (rd 24 8)
    let ans (s : State) (c : Nat) : State :=
      s.reply { m with data := BitVec.ofNat 1024 (c + 2 ^ 64 * (wi + 2 ^ 64 * (cap + 2 ^ 64 * (bind.extractLsb' 16 3).toNat))) }
    if !bind.getLsbD 31 || (launch && bind.extractLsb' 0 13 != 0x1FFF#13) then ans s 1
    else if launch && decide (lvl.toNat < (bind.extractLsb' 20 2).toNat) then ans s 3
    else if cap ≤ (BitVec.ofNat 64 wi - BitVec.ofNat 64 (rd 8 8)).toNat then ans s 2
    else ans (s.homeStore m.dom m.launch m.pa 8 (wi + 1)) 0

/-- A releaser must be drained before an atomic, or a packet claim, is performed: for its read, or for its release part when
it writes (R264, R265, R267). -/
def State.atomicMustWait (s : State) (m : Msg) : Option RelRec :=
  (s.readMustWait m).or (match m.kind with
    | .atomic op cmp =>
      if relPart m.ord && m.scope != 0 &&
          (amoNew op m.n (s.homeRead m.dom m.pa m.n) m.data.toNat cmp.toNat).isSome then s.writeMustWait m else none
    | _ => none)

/-- One indivisible step on the word (R251, R286). -/
def State.serveAtomic (s : State) (m : Msg) : State :=
  match m.kind with
  | .claim launch _ _ lvl => s.claimStep m launch lvl
  | .atomic op cmp => s.atomicStep m op cmp
  | _ => s

/-- ATOMIC_AT_HOME (R251, R252, R286): an atomic, with those combined behind it, in one step; its read and its release part
wait for drains as R265 and R267 state. -/
def execAtomicAtHome (id : Nat) (s : State) : Out :=
  .next (s.perform id (fun k => match k with | .atomic _ _ => true | .claim _ _ _ _ => true | _ => false) true fun s m =>
    match (s.members m).findSome? s.atomicMustWait with
    | some r => s.holdForDrain m r
    | none => (s.members m).foldl State.serveAtomic s)

/-! ### Replies -/

/-- The thread that waits for a request, if it still does. -/
def State.waiter (s : State) (m : Msg) : Option Thread :=
  match s.thread? m.core m.slot with
  | some t =>
    if t.gen = m.gen ∧ m.wait ∧ (t.st = .parked (.home m.id) ∨ t.awaits = some m.id) then some t else none
  | none => none

/-- The waiting thread goes on: it returns to rotation, or its handler stops losing turns (R109, R126). -/
def State.goOn (s : State) (m : Msg) : State :=
  if (s.thread m.core m.slot).awaits = some m.id then s.modThread m.core m.slot fun t => { t with awaits := none }
  else s.wakeThread m.core m.slot

/-- A reply that carries poison raises a precise Poison fault of its instruction (R249). -/
def State.replyTrap (s : State) (m : Msg) (cause : Cause) (addr extra : Word) : State :=
  s.raiseAt m.core m.slot cause addr extra m.pc m.npc m.pair

/-- The bytes a load brings: those that the L1 holds dirty, which are newer, and else those of the reply (R242, R248). -/
def loadBytes (k : Cache) (m : Msg) : Nat × Bool :=
  let o := m.pa % 128
  let l := (k.find m.dom (lineOf m.pa)).getD (L1Line.blank m.dom (lineOf m.pa) false)
  let data := mergeBytes l.dirty l.data m.data
  ((data >>> (8 * o)).toNat % 2 ^ (8 * m.n), ((m.pmask &&& ~~~l.whole) ||| l.dpoison) &&& touchedWords o m.n != 0)

/-- The reply of a load (R248): an allocating one fills the L1. -/
def State.loadArrives (s : State) (m : Msg) (alloc keep : Bool) : State :=
  let s := s.dropMsg m.id
  let s := if alloc then s.fillL1 m.agent m.dom (lineOf m.pa) m.data m.pmask keep else s
  match s.waiter m with
  | none => s
  | some _ =>
    let (v, bad) := loadBytes (s.cache m.agent) m
    if bad then s.replyTrap m .poison m.va 0
    else (s.goOn m).deliver m.core m.slot m.dst m.n v m.pc

/-- The reply of an ordered read, an ordered store or an atomic (R251, R265, R267): the requester's self-invalidation
comes first. -/
def State.orderedArrives (s : State) (m : Msg) : State :=
  let s := s.dropMsg m.id
  let s := if m.inval then s.selfInvalidate m.agent else s
  match s.waiter m with
  | none => s
  | some _ =>
    if m.poisoned then s.replyTrap m .poison m.va 0
    else (s.goOn m).deliver m.core m.slot m.dst m.n (m.data.toNat % 2 ^ (8 * m.n)) m.pc

/-- AMO_ACK_ARRIVAL (R251): the acknowledgement of an AMO that does not wait; poison is a late fault. -/
def execAmoAckArrival (id : Nat) (s : State) : Out :=
  .next (match s.findMsg id with
    | some m =>
      match m.kind with
      | .atomic _ _ =>
        if m.st = .replied ∧ !m.wait then
          let s := s.dropMsg id
          let s := if m.inval then s.selfInvalidate m.agent else s
          match s.thread? m.core m.slot with
          | some t =>
            if m.poisoned ∧ t.gen = m.gen then s.raiseLate m.core m.slot .poison false 0 m.pc m.va 0 else s
          | none => s
        else s
      | _ => s
    | none => s)

/-- RELEASE_ACK_ARRIVAL (R264, R267): the acknowledgement of a release, or of a RETIRE.J's decrement, reaches its
core. -/
def execReleaseAckArrival (id : Nat) (s : State) : Out :=
  .next (match s.findMsg id with
    | some m => if (m.kind = .release ∨ m.kind = .counter true) ∧ m.st = .replied then s.orderedArrives { m with dst := .none } else s
    | none => s)

end Sys2Proof.Machine
end

