-- ==== Sys2Proof/Machine/Order.lean ====
section
/-! DEFINITION. Ordering: IFENCE, FENCE, DRAIN, BARW and WAITV, ordered reads at the home, drains and folds, and the
wait lists (R104, R110, R118, R264 to R280, R331). -/
namespace Sys2Proof.Machine

/-! ### Instructions that lose turns until their work is done -/

/-- IFENCE (R104): one drain, and once every write-back of the core is home its L1 instruction cache is invalidated. -/
def execIfence (s : State) : Out :=
  let fin (s : State) : State := s.modCurCore fun k => { k with icache := [] }
  .next (match s.cur.prog with
    | none => let r := s.drainAll s.curAgent; r.1.afterAcks 1 r.2 fin
    | some p => s.afterAcks 1 p.ids fin)

/-- DRAIN (R278). -/
def execDrain (s : State) : Out :=
  .next (match s.cur.prog with
    | none => let r := s.drainAll s.curAgent; r.1.afterAcks 1 r.2 id
    | some p => s.afterAcks 1 p.ids id)

/-- Lines that DRAIN.L writes back count in DRAINCNT.LINES (R272). -/
def State.countLine (s : State) (agent : Nat) : State := s.modCache agent fun k => { k with dlines := k.dlines + 1 }

/-- DRAIN.L (R278): the dirty bytes of one line; no permission is checked. -/
def execDrainL (base idx : BitVec 6) (scl : BitVec 2) (off : BitVec 48) (s : State) : Out :=
  let ea := eaOf s.cur base idx scl off
  .next (match s.cur.prog with
    | some p => s.afterAcks 1 p.ids id
    | none =>
      if inWindow ea then s
      else
        s.withPa ea .any fun s pa _ =>
          let r := s.writeBackAll s.curAgent fun l => l.dom == s.cur.dom && l.line == lineOf pa
          let s := if r.2 = 0 then r.1 else r.1.countLine r.1.curAgent
          s.afterAcks 1 (s.lineBacks s.curAgent s.cur.dom (lineOf pa)) id)

/-- Atomics of the issuing thread without a reply yet (R277). -/
def State.curAtomics (s : State) : List Nat :=
  (s.net.filter fun m => m.core == s.iss.core && m.slot == s.iss.slot && m.gen == s.cur.gen && match m.kind with
    | .atomic _ _ => true
    | _ => false).map (·.id)

/-- The acquire part of FENCE (R277). -/
def State.fenceAcquire (ord scope : BitVec 3) (s : State) : State :=
  if acqPart ord.toNat then
    if s.curAtomics ≠ [] then s.loseTurn
    else if scope ≠ 0#3 then s.selfInvalidate s.curAgent else s
  else s

/-- FENCE (R277): the release part waits for the thread's releases, atomics and home-performed stores and writes back
the dirty set, one drain in DRAINCNT at any scope (R272); the acquire part waits for its reads and self-invalidates. -/
def execFence (ord scope : BitVec 3) (s : State) : Out :=
  .next (match s.cur.prog with
    | some p => s.afterAcks 1 p.ids (State.fenceAcquire ord scope)
    | none =>
      if relPart ord.toNat then
        if s.curOutstanding ≠ [] then s.loseTurn
        else if scope ≠ 0#3 then
          let r := s.drainAll s.curAgent
          r.1.afterAcks 1 r.2 (State.fenceAcquire ord scope)
        else (s.countDrain s.curAgent 0).fenceAcquire ord scope
      else s.fenceAcquire ord scope)

/-! ### Barriers and condition waits -/

/-- Fields of a barrier word (R279). -/
def barCount (w : Word) : Nat := (w.extractLsb' 0 24).toNat
def barTarget (w : Word) : Nat := (w.extractLsb' 24 24).toNat
def barGen (w : Word) : BitVec 16 := w.extractLsb' 48 16

/-- The arrival performs no write (R279). -/
def barDone (w : Word) : Bool := barTarget w == 0 || barTarget w ≤ barCount w
/-- The arrival is the last (R279). -/
def barLast (w : Word) : Bool := barCount w + 1 == barTarget w
/-- The word after an arrival that writes (R279). -/
def barNext (w : Word) : Word :=
  if barLast w then (barGen w + 1) ++ (w.extractLsb' 24 24) ++ 0#24
  else barGen w ++ (w.extractLsb' 24 24) ++ (w.extractLsb' 0 24 + 1#24)

/-- A waiter of a local word: it stands on the bank's wait list (R110). -/
def State.waitAtBank (s : State) (m : Msg) (a : Nat) : State :=
  s.postWait { m with dom := bankDom s.iss.core, pa := a, st := .waiting }

/-- BARW (R279); in a handler it raises Handler-Block at issue (R126). -/
def execBarw (d base idx : BitVec 6) (scl : BitVec 2) (_size ord scope : BitVec 3) (off : BitVec 48)
    (s : State) : Out :=
  let ea := eaOf s.cur base idx scl off
  .next (if s.iss.slot = 14 then s.takeTrap .handlerBlock 0 0
    else
      match s.place ea 8 .both with
      | .trap s => s
      | .window a =>
        if s.curOutstanding ≠ [] then s.loseTurn
        else if s.localPoison s.iss.core a 8 then s.takeTrap .poison ea 0
        else
          let old := BitVec.ofNat 64 (s.localRead s.iss.core a 8)
          if barDone old then s.wx d old
          else
            let s := s.localWrite s.iss.core a 8 (barNext old).toNat
            if barLast old then s.wx d old
            else s.waitAtBank { s.curMsg .barw a 8 ea with data := old.setWidth 1024, mask := 1, dst := .x d false } a
      | .global s pa _ =>
        if scope ≠ 0#3 ∧ s.foldBlocks s.curAgent then s.loseTurn
        else
          let s1 := s.flushLine s.curAgent s.cur.dom pa
          let (s2, ids) := if scope ≠ 0#3 then s1.beginRelease (scope == 6#3) else (s1, [])
          s2.postWait { s2.curMsg .barw pa 8 ea with
            ord := ord.toNat, scope := scope.toNat, epoch := s2.epochOf s2.curAgent, dst := .x d false,
            after := s.curOutstanding ++ sentSince s s2 ++ ids })

/-- WAITV (R280). -/
def execWaitv (sub : BitVec 4) (d base idx : BitVec 6) (size ord scope : BitVec 3) (off : BitVec 48)
    (s : State) : Out :=
  let ea := eaAtomic s.cur base off
  let n := sizeBytes size
  let v := s.rx idx
  .next (match s.place ea n .read with
    | .trap s => s
    | .window a =>
      if s.curReleases ≠ [] then s.loseTurn
      else if s.localPoison s.iss.core a n then s.takeTrap .poison ea 0
      else
        let w := BitVec.ofNat 64 (s.localRead s.iss.core a n)
        if condHolds sub (8 * n) w v then s.wx d w
        else if s.iss.slot = 14 then s.takeTrap .handlerBlock 0 0
        else s.waitAtBank { s.curMsg (.waitv sub v) a n ea with dst := .x d false } a
    | .global s pa _ =>
      let s1 := s.flushLine s.curAgent s.cur.dom pa
      s1.postWait { s1.curMsg (.waitv sub v) pa n ea with
        ord := ord.toNat, scope := scope.toNat, dst := .x d false, after := s.curReleases ++ sentSince s s1 })

/-! ### Reads and arrivals at the home -/

/-- The reply of a handler's read whose condition failed: the requester raises Handler-Block (R126). -/
def Msg.blocked (m : Msg) : Bool := m.mask.getLsbD 1

/-- The thread of a request parks on the word's wait list (R110); one that a late fault has taken meanwhile has lost its wake
condition and goes on without it (R337). -/
def State.standOnList (s : State) (m : Msg) : State :=
  let t := s.thread m.core m.slot
  if t.gen = m.gen ∧ t.st = .parked (.home m.id) then s.setMsg { m with st := .waiting }
  else if t.gen = m.gen ∧ t.awaits = some m.id then
    (s.dropMsg m.id).modThread m.core m.slot fun t => { t with awaits := none }
  else s.dropMsg m.id

/-- A read that waits found its condition false: a handler is told so, any other thread stands on the wait list
(R110, R126). -/
def State.failRead (s : State) (m : Msg) : State :=
  if m.slot = 14 then s.reply { m with mask := m.mask ||| 2, inval := s.acqInval m } else s.standOnList m

/-- The word a read found, and what it means for the request (R118, R265, R280, R331). -/
def State.readStep (s : State) (m : Msg) : State :=
  let s := s.useLine m
  if (s.dom m.dom).poisoned m.pa m.n then s.reply { m with poisoned := true }
  else
    let w := s.homeRead m.dom m.pa m.n
    let done := s.reply { m with data := BitVec.ofNat 1024 w, inval := s.acqInval m }
    match m.kind with
    | .join => if w = 0 then done else s.failRead m
    | .lwait => if w % 256 ≠ 0 then done else s.failRead m
    | .waitv cc v => if condHolds cc (8 * m.n) (BitVec.ofNat 64 w) v then done else s.failRead m
    | _ => done

/-- The request is an ordered read. -/
def MKind.isRead : MKind → Bool
  | .read | .join | .lwait | .waitv _ _ => true
  | _ => false

/-- An ordered read performed at its home: its releaser is drained first (R265). -/
def State.orderedRead (s : State) (id : Nat) : State :=
  s.perform id MKind.isRead false fun s m =>
    match s.readMustWait m with
    | some r => s.holdForDrain m r
    | none => s.readStep m

/-- ORDERED_READ_AT_HOME (R265). -/
def execOrderedReadAtHome (id : Nat) (s : State) : Out := .next (s.orderedRead id)

/-- An arrival at a barrier word (R279); mask bit 0 marks a request that has arrived. -/
def State.barArrive (s : State) (m : Msg) : State :=
  let s := s.useLine m
  if (s.dom m.dom).poisoned m.pa 8 then s.reply { m with poisoned := true }
  else
    let old := BitVec.ofNat 64 (s.homeRead m.dom m.pa 8)
    let m := { m with data := old.setWidth 1024, inval := s.acqInval m }
    if barDone old then s.reply m
    else
      let s := s.homeStore m.dom m.launch m.pa 8 (barNext old).toNat
      let s := if m.scope ≠ 0 then s.leaveRecord m else s
      if barLast old then s.reply m else s.standOnList { m with mask := 1 }

/-- BARW_ARRIVAL_AT_HOME (R279). -/
def execBarwArrivalAtHome (id : Nat) (s : State) : Out :=
  .next (s.perform id (fun k => match k with | .barw => true | _ => false) true fun s m =>
    if m.mask ≠ 0 then s
    else
      match s.readMustWait m with
      | some r => s.holdForDrain m r
      | none =>
        let writes := !barDone (BitVec.ofNat 64 (s.homeRead m.dom m.pa 8))
        match (if m.scope != 0 && writes then s.writeMustWait m else none) with
        | some r => s.holdForDrain m r
        | none => s.barArrive m)

/-- A waiter of a barrier looks again: once GEN has moved its acquire part is performed (R279, R265). -/
def State.barAgain (s : State) (id : Nat) : State :=
  s.perform id (fun k => match k with | .barw => true | _ => false) false fun s m =>
    let s := s.useLine m
    if (s.dom m.dom).poisoned m.pa 8 then s.reply { m with poisoned := true }
    else if barGen (BitVec.ofNat 64 (s.homeRead m.dom m.pa 8)) = barGen (m.data.setWidth 64) then
      s.setMsg { m with st := .waiting }
    else
      match s.readMustWait m with
      | some r => s.holdForDrain m r
      | none => s.reply { m with inval := m.inval || s.acqInval m }

/-- A waiter of a local word looks again at its bank (R110, R249, R279, R280). -/
def State.bankAgain (s : State) (m : Msg) : State :=
  let w := s.localRead m.core m.pa m.n
  if s.localPoison m.core m.pa m.n then s.reply { m with poisoned := true }
  else
    match m.kind with
    | .barw =>
      if barGen (BitVec.ofNat 64 w) = barGen (m.data.setWidth 64) then s.setMsg { m with st := .waiting } else s.reply m
    | .waitv cc v =>
      if condHolds cc (8 * m.n) (BitVec.ofNat 64 w) v then s.reply { m with data := BitVec.ofNat 1024 w }
      else s.setMsg { m with st := .waiting }
    | _ => s

/-- WAITV_REREAD (R280): a write to the word has been performed, and a waiter's condition is looked at again, with the
order and scope of its instruction. -/
def execWaitvReread (id : Nat) (s : State) : Out :=
  .next (match s.findMsg id with
    | some m =>
      let again := m.st = .poked ∨ (m.st = .sent ∧ m.kind = .barw ∧ m.mask = 1)
      match m.kind with
      | .waitv _ _ =>
        if !again then s
        else if bankDom 0 ≤ m.dom then s.bankAgain m
        else (s.setMsg { m with st := .sent }).orderedRead id
      | .barw =>
        if !again then s
        else if bankDom 0 ≤ m.dom then s.bankAgain m
        else (s.setMsg { m with st := .sent }).barAgain id
      | _ => s
    | none => s)

/-! ### Drains and folds (R266, R268, R270) -/

/-- DRAIN_REQUEST (R266): a core begins to serve a drain: every dirty line whose epoch lies at or before the one named
is written back, and the acknowledgement waits until every write-back of the core, one that left before among them, is home. -/
def execDrainRequest (id : Nat) (s : State) : Out :=
  .next (match s.findMsg id with
    | some m =>
      match m.kind with
      | .drain target epoch _ =>
        if m.st = .sent then
          let r := s.writeBackAll target fun l => epochBefore l.epoch epoch
          let s := r.1.countDrain target r.2
          s.setMsg { m with st := .replied, after := s.writeBacks target }
        else s
      | _ => s
    | none => s)

/-- A record is drained when it is still the one that the drain was for; the requests held at its line look again (R265,
R267). -/
def State.drained (s : State) (d pa target : Nat) (epoch : BitVec 24) : State :=
  let s := s.modDom d fun v =>
    match v.recAt pa with
    | some r =>
      if r.agent = target ∧ r.epoch = epoch ∧ r.st = 2 then { v with recs := insertKey v.recs (lineOf pa) { r with st := 3 } }
      else v
    | none => v
  { s with net := s.net.map fun m =>
      if m.st == .held && m.dom == d && lineOf m.pa == lineOf pa then { m with st := .sent } else m }

/-- DRAIN_ACK_AT_HOME (R266): the acknowledgement of a drain reaches the home. -/
def execDrainAckAtHome (id : Nat) (s : State) : Out :=
  .next (match s.findMsg id with
    | some m =>
      match m.kind with
      | .drain target epoch _ =>
        if m.st = .replied ∧ m.after.all s.acked then (s.dropMsg id).drained m.dom m.pa target epoch else s
      | _ => s
    | none => s)

/-- RELCNT with its low 23 bits cleared, where the fold that is due began (R268). -/
def foldBase (k : Cache) : BitVec 24 := (k.relcnt &&& ~~~0x7FFFFF#64).setWidth 24

/-- FOLD (R268): every line that was dirty before the increment is written back, counted as one drain. The core number
names a core, or 4096 plus a fused cluster. -/
def execFold (agent : Nat) (s : State) : Out :=
  .next (match (s.cache agent).fold with
    | some (false, _) =>
      let base := foldBase (s.cache agent)
      let r := s.writeBackAll agent fun l => epochBefore l.epoch (base - 1#24)
      let s := r.1.countDrain agent r.2
      s.modCache agent fun k => { k with fold := some (true, s.writeBacks agent) }
    | _ => s)

/-- FOLD_END (R268). -/
def execFoldEnd (agent : Nat) (s : State) : Out :=
  .next (match (s.cache agent).fold with
    | some (true, ids) => if ids.all s.acked then s.modCache agent fun k => { k with fold := none } else s
    | _ => s)

/-- A line leaves the L2, its replicas and the LLC for memory (R244, R270). -/
def Dom.evictLine (v : Dom) (line : Nat) : Dom :=
  { v with l2 := v.l2.erase line, llc := v.llc.erase line, recs := eraseKey v.recs line,
           replicas := v.replicas.filter fun r => r.1 != line }

/-- LLC_EVICTION_DRAIN (R244, R270): a line leaves the L2 and the LLC for memory. An undrained or draining record is
drained first; a drained one is dropped with the line. -/
def execLlcEvictionDrain (d line : Nat) (s : State) : Out :=
  .next (match (s.dom d).recAt (line * 128) with
    | some r =>
      if r.st = 1 then
        let s := s.setRec d (line * 128) { r with st := 2 }
        let m := s.newMsg 0 16 (.drain r.agent r.epoch 0) (line * 128) 128 0
        s.post { m with dom := d, agent := unitAgent d }
      else if r.st = 2 then s
      else s.modDom d fun v => v.evictLine line
    | none => s.modDom d fun v => v.evictLine line)

end Sys2Proof.Machine
end

