-- ==== Sys2Proof/Machine/Threads.lean ====
section
/-! DEFINITION. Threads and messages: starting and ending a thread, work items and their pushes, FORK, JOIN, RETIRE,
YIELD, PARK, SEND, handlers, and the events of join counters, messages and wake notices (R111 to R126, R129 to R132,
R140, R273). -/
namespace Sys2Proof.Machine

/-! ### Starting a thread (R80, R85, R100, R113) -/

/-- The level a thread of this context starts at: its launch's (R85). A thread that a thread of no launch starts takes
the level of its parent (log 18). -/
def State.startLevel (s : State) (p : Thread) : BitVec 2 := if p.launch = 0 then p.lvl else (s.launch p.dom p.launch).lvl

/-- Start a thread in a slot, in the context of `p`: every register zero but those `setup` names (R80, R113). -/
def State.startThread (s : State) (c sl : Nat) (p : Thread) (pc : Word) (setup : Thread → Thread) : State :=
  let t : Thread := { Thread.blank with
    gen := s.nextId, pc := pc, npc := pc, startAt := (s.core c).cyc + 16, lvl := s.startLevel p, rseq := rseqStart (tidOf c sl),
    dom := p.dom, asn := p.asn, root := p.root, launch := p.launch }
  { s with nextId := s.nextId + 1 }.setThread c sl (setup t)

/-- A bare context: what a start takes from its launch. -/
def State.launchCtx (s : State) (d n : Nat) : Thread :=
  let l := s.launch d n
  { Thread.blank with dom := d, asn := l.asn, root := l.root, launch := n, lvl := l.lvl }

/-- User slots a launch may hold on a core (R81). -/
def slotCap (qregs : Nat) : Nat := if qregs = 0 then 14 else min 14 (32 / qregs)

/-- User slots of a core withheld for entry threads that are still to start (R318, R319, R327). -/
def State.withheld (s : State) (d c : Nat) : Nat :=
  ((s.dom d).launches.filter fun e => e.2.left.contains c && match e.2.phase with
    | .out => false
    | _ => true).length

/-- Slots that hold no thread and wait for no steal (R112, R140). -/
def Core.free (k : Core) : List Nat := (List.range 14).filter fun i => (lookup k.slots i).isNone && !k.ghosts.contains i

/-- Threads of a launch in user slots. -/
def Core.held (k : Core) (launch : Nat) : Nat := (k.slots.filter fun e => e.1 < 14 && e.2.launch == launch).length

/-- Slots of the launch's threads that stand in its save area: each is restored into its own slot, so the launch starts
no other thread there (R111, R325). -/
def Launch.keptSlots (l : Launch) (c : Nat) : List Nat :=
  ((l.saved.find? fun k => k.core == c).map fun k => k.threads.map (·.slot)).getD []

/-- The core has allotted a slot in the cycle whose turn it has last taken: no event allots another (R114). An event between
two turns comes in that cycle, after what issued in it. -/
def Core.allottedNow (k : Core) : Bool := k.allotted == some (k.cyc - 1)
/-- An event allots a slot (R114). -/
def Core.allot (k : Core) : Core := { k with allotted := some (k.cyc - 1) }

/-- The lowest free user slot of a core within a launch's cap (R81, R112). -/
def State.freeSlot (s : State) (c : Nat) (p : Thread) : Option Nat :=
  let k := s.core c
  let l := s.launch p.dom p.launch
  let kept := l.keptSlots c
  if k.held p.launch + kept.length < slotCap l.hdr.qregs && s.withheld p.dom c < (k.free.filter fun i => !kept.contains i).length
  then k.free.find? fun i => !kept.contains i else none

/-! ### Ending a thread (R118) -/

/-- Effect 1 of RETIRE: read streams free their generators, write streams once their pushes are written (R118,
R175). -/
def Core.dropStreams (k : Core) (sl gen : Nat) (p : Gen → Bool) : Core :=
  { k with gens := (k.gens.filter fun e =>
      !(e.2.slot == sl && e.2.gen == gen && p e.2 && (!e.2.wr || e.2.pushes == []))).map fun e =>
        if e.2.slot == sl && e.2.gen == gen && p e.2 then (e.1, { e.2 with closing := true }) else e }

/-- Effect 2: the cube is released after the commands the owner queued (R118). -/
def Core.leaveCube (k : Core) (sl : Nat) : Core :=
  if k.cube.owner = some sl ∧ !k.cube.leaving then
    if k.cube.exec.isNone && k.cube.queue.isEmpty then { k with cube := { k.cube with owner := none } }
    else { k with cube := { k.cube with leaving := true } }
  else k

/-- Entries the thread leads close, and their unions are discarded; a pin goes with them (R144, R147). -/
def Dom.closeLed (v : Dom) (gen : Nat) : Dom :=
  { v with conf := v.conf.map fun e => if e.lgen == gen && e.st != .closed then { e with st := .closed, pin := false } else e }

/-- Effects 1 to 3 of RETIRE, with the closing of led entries (R118, R144): the q registers go with the thread. -/
def State.endEffects (s : State) (c sl : Nat) : State :=
  let t := s.thread c sl
  ((s.modCore c fun k => (k.dropStreams sl t.gen fun _ => true).leaveCube sl).modDom t.dom fun v =>
    v.closeLed t.gen).modLaunch t.dom t.launch fun l => { l with spilled := l.spilled.filter fun e => e.lgen != t.gen }

/-- Effect 4: the slot is free (R118). -/
def State.freeSlotAt (s : State) (c sl : Nat) : State := s.modCore c fun k => { k with slots := eraseKey k.slots sl }

/-- End a thread with effects 1 to 5, the last when `counted` and no DQRUN has counted it (R115, R118, R140). -/
def State.endThread (s : State) (c sl : Nat) (counted : Bool) : State :=
  let t := s.thread c sl
  let s := (s.endEffects c sl).freeSlotAt c sl
  if counted && !t.ended then s.subWork t.dom t.launch else s

/-! ### Work items and their pushes (R129 to R132, R140) -/

/-- The kind of an item (R129). -/
def itemKind (w : Word) : Nat := (w &&& 3#64).toNat

/-- The registers an item's start sets (R129). -/
def itemRegs (w : List Word) (t : Thread) : Thread :=
  let g (i : Nat) : Word := w.getD i 0
  match itemKind (g 0) with
  | 0 => t.setXs 1#6 [g 1, g 2, g 3, g 4]
  | 1 => { (t.setXs 1#6 [g 1]).setQ 0#3 (g 7 ++ g 6 ++ g 5 ++ g 4) with
           qwin := g 2 &&& 0xFFFFFFFFFFFF#64, trav := g 3, allot := 1 }
  | 2 => t.setXs 1#6 [g 1, g 2, g 3, g 4, g 5, g 6]
  | _ => t

/-- Start an item in a slot: x7 receives the core whose deque held it (R129). -/
def State.startItem (s : State) (c sl : Nat) (p : Thread) (w : List Word) (owner : Nat) (hold : List Nat) : State :=
  s.startThread c sl p (w.getD 0 0 &&& ~~~3#64) fun t =>
    { (itemRegs w t).setX 7#6 (BitVec.ofNat 64 (coreNum owner)) with hold := hold }

/-- The deque of a launch on a core, bottom first (R130). -/
def Core.deque (k : Core) (launch : Nat) : List Item := (lookup k.deques launch).getD []
def Core.setDeque (k : Core) (launch : Nat) (q : List Item) : Core := { k with deques := insertKey k.deques launch q }

/-- Where the spill area of a launch begins on its cores (R131). -/
def Launch.spillAt (l : Launch) : Nat := l.lbase + l.hdr.lmem

/-- The entry as an operation finds it: a spilled one is read back from its spill area (R131). -/
def Core.readBack (k : Core) (l : Launch) (it : Item) : Item :=
  match it.spill with
  | none => it
  | some i => { it with
      w := (List.range 8).map fun j => BitVec.ofNat 64 (Memory.read k.lmem (l.spillAt + 64 * i + 8 * j) 8)
      spill := none }

/-- Entries of the core's hardware store with their launches (R131). -/
def Core.stored (k : Core) : List (Nat × Item) :=
  (k.deques.map fun e => (e.2.filter fun it => it.spill.isNone).map fun it => (e.1, it)).flatten

/-- The entry pushed first. -/
def firstBorn : List (Nat × Item) → Option (Nat × Item)
  | [] => none
  | e :: rest =>
    match firstBorn rest with
    | none => some e
    | some x => if x.2.born < e.2.born then some x else some e

/-- The store of 64 entries that a core's deques share is over-full: its oldest entry moves to its launch's spill area, to the
lowest place that no entry holds there (R131, log 31). -/
def State.spillOldest (s : State) (c d : Nat) : State :=
  let k := s.core c
  if k.stored.length ≤ 64 then s
  else
    match firstBorn k.stored with
    | none => s
    | some (n, it) =>
      let l := s.launch d n
      let q := k.deque n
      match (List.range l.hdr.deque).find? fun i => !q.any fun x => x.spill == some i with
      | none => s
      | some i =>
        (s.localWrite c (l.spillAt + 64 * i) 64 (it.w.foldr (fun v r => v.toNat + 2 ^ 64 * r) 0)).modCore c fun k =>
          k.setDeque n (q.map fun x => if x == it then { x with w := [], spill := some i } else x)

/-- The deque of a launch on a core of a domain becomes `q`. -/
def State.putDeque (s : State) (c d launch : Nat) (q : List Item) : State :=
  (s.modCore c fun k => k.setDeque launch q).spillOldest c d

/-- A slot has a steal in flight (R140). -/
def State.stealing (s : State) (c sl : Nat) : Bool :=
  s.net.any fun m => m.core == c && m.slot == sl && match m.kind with
    | .steal _ _ _ => true
    | _ => false

/-- The lowest slot parked in DQRUN that receives a push of its launch (R140). -/
def State.dqrunSlot (s : State) (c launch : Nat) : Option Nat :=
  ((s.core c).slots.find? fun e => e.2.launch == launch && !s.stealing c e.1 && match e.2.st with
    | .parked (.deque _) => true
    | _ => false).map (·.1)

/-- The scope of a push (R117): cluster for a steal domain CLUSTER, else partition. -/
def Launch.pushScope (l : Launch) : Nat := if l.hdr.steal = 2 then 1 else 2

/-- A push would be accepted: a parked DQRUN receives it, or the deque has room (R117, R136). -/
def State.canPush (s : State) (c : Nat) (p : Thread) : Bool :=
  (s.dqrunSlot c p.launch).isSome || decide (((s.core c).deque p.launch).length < (s.launch p.dom p.launch).hdr.deque)

/-- Push an item of the issuing thread (R117, R132, R140): a release, handed to a parked DQRUN or put at the bottom. It can be
taken only once the release has taken effect (R273), and a handed-off one issues only then. -/
def State.pushItem (s : State) (w : List Word) (more : List Nat) : State :=
  let c := s.iss.core
  let p := s.cur
  let l := s.curLaunch
  let after := s.curOutstanding ++ more
  let r := s.releaseEvent s.curAgent l.pushScope
  match r.1.dqrunSlot c p.launch with
  | some sl => (r.1.endEffects c sl).startItem c sl p w c after
  | none =>
    { r.1 with nextId := r.1.nextId + 1 }.putDeque c p.dom p.launch
      (⟨w, none, some r.2, after, r.1.nextId⟩ :: (r.1.core c).deque p.launch)

/-! ### Carried records (R273) -/

/-- An acquire of a record that an event carries: a drain of its releaser comes first, then the self-invalidation. -/
inductive Acq where
  /-- Done; the state after it. -/
  | done (s : State)
  /-- Wait for request `id`; the record as it then stands. -/
  | wait (s : State) (r : RelRec) (id : Nat)

/-- Agent `a` of domain `d`, through core `c`, acquires a carried record at scope `sc` (R265, R273). -/
def State.acquire (s : State) (d c a sc : Nat) (r : RelRec) : Acq :=
  if r.agent = a then .done s
  else if r.st = 1 && r.mustDrain a sc then
    let m := s.newMsg c 16 (.drain r.agent r.epoch 0) (2 ^ 60) 8 0
    .wait (s.post { m with dom := d, agent := a }) { r with st := 2 } s.nextId
  else .done (s.selfInvalidate a)

/-! ### FORK (R117) -/

/-- The increment of a FORK.J's counter, sent to its home or performed at its bank; the requests sent. -/
def State.bumpCounter (s : State) : Place → State × List Nat
  | .window a =>
    (s.localWrite s.iss.core a 8 (s.localRead s.iss.core a 8 + 1), [])
  | .global _ pa _ =>
    let s1 := s.flushLine s.curAgent s.cur.dom pa
    let m := s1.curMsg (.counter false) pa 8 0
    (s1.post { m with ord := 1, scope := 2, after := s.curReleases ++ sentSince s s1 }, [s1.nextId])
  | .trap s => (s, [])

/-- FORK and QFORK after their checks: a thread in a free slot, else a push, else refused (R117, R157). `regs` sets the
registers of a started thread, `w` is the item. -/
def State.forkWith (s : State) (d : BitVec 6) (pd : BitVec 3) (w : List Word) (ctr : Option Place) (own : Bool) : State :=
  let c := s.iss.core
  let p := s.cur
  let bump (s : State) : State × List Nat := match ctr with
    | some pl => s.bumpCounter pl
    | none => (s, [])
  match s.freeSlot c p with
  | some sl =>
    let s1 := s.startThread c sl p (w.getD 0 0 &&& ~~~3#64) fun t =>
      let t := itemRegs w t
      if own then t.setX 7#6 (BitVec.ofNat 64 (coreNum c)) else t
    let s1 := s1.modCore c fun k => { k with allotted := some k.cyc }
    (((bump s1).1.addWork p.dom p.launch 1).wx d ((tidOf c sl).setWidth 64)).wp pd true
  | none =>
    if s.canPush c p then
      if s.foldBlocks s.curAgent then s.loseTurn
      else
        let b := bump s
        (((b.1.pushItem w b.2).addWork p.dom p.launch 1).wx d (BitVec.allOnes 64)).wp pd true
    else (s.wx d 0xFFFFFFFFFFFFFFFE#64).wp pd false

/-- The closure item of a FORK (R117, R129). -/
def closureItem (target : Word) (args : List Word) (ctr : Word) : List Word :=
  ((target &&& ~~~3#64) ||| 2#64) :: args ++ [ctr, 0#64]

/-- The five argument words (R117). -/
def State.forkArgs (s : State) (b : BitVec 6) : List Word :=
  if b = 0#6 then [0, 0, 0, 0, 0] else s.cur.getXs b 5

/-- FORK (R117). -/
def execFork (d b : BitVec 6) (pd : BitVec 3) (disp : BitVec 37) (slot : BitVec 3) (s : State) : Out :=
  .next (s.forkWith d pd (closureItem (branchTarget s.iss.pc disp slot) (s.forkArgs b) 0) none false)

/-- FORK.J (R117): the counter is checked for alignment, translation and write permission. -/
def execForkJ (d a b : BitVec 6) (pd : BitVec 3) (disp : BitVec 37) (slot : BitVec 3) (s : State) : Out :=
  let w := closureItem (branchTarget s.iss.pc disp slot) (s.forkArgs b) (s.rx a)
  .next (match s.place (s.rx a) 8 .write with
    | .trap s => s
    | .window o => s.forkWith d pd w (some (.window o)) false
    | .global s pa e => s.forkWith d pd w (some (.global s pa e)) false)

/-! ### JOIN, RETIRE (R118) -/

/-- JOIN (R118): x0 names no counter and completes at once. -/
def execJoin (a : BitVec 6) (s : State) : Out :=
  let ea := s.rx a
  .next (if a = 0#6 then s
    else
      match s.place ea 8 .read with
      | .trap s => s
      | .window o =>
        if s.curReleases ≠ [] then s.loseTurn
        else if s.localPoison s.iss.core o 8 then s.takeTrap .poison ea 0
        else if s.localRead s.iss.core o 8 = 0 then s
        else if s.iss.slot = 14 then s.takeTrap .handlerBlock 0 0
        else s.waitAtBank (s.curMsg .join o 8 ea) o
      | .global s pa _ =>
        let s1 := s.flushLine s.curAgent s.cur.dom pa
        s1.postWait { s1.curMsg .join pa 8 ea with ord := 2, scope := 2, after := s.curReleases ++ sentSince s s1 })

/-- RETIRE (R118): in slot 15 a reserved use; it waits for the thread's AMOs (R251). -/
def execRetire (s : State) : Out :=
  .next (if s.iss.slot = 15 then s.takeTrap .illegalInstruction 0 0
    else if s.curAtomics ≠ [] then s.loseTurn
    else s.endThread s.iss.core s.iss.slot true)

/-- RETIRE.J (R118): the decrement is a release at partition scope; the outstanding-work count falls once it has been
performed at the home (R115). -/
def execRetireJ (a : BitVec 6) (s : State) : Out :=
  .next (if s.iss.slot = 15 then s.takeTrap .illegalInstruction 0 0
    else if s.curAtomics ≠ [] then s.loseTurn
    else
      match s.place (s.rx a) 8 .both with
      | .trap s => s
      | .window o =>
        if s.curOutstanding ≠ [] then s.loseTurn
        else
          (s.localWrite s.iss.core o 8 (s.localRead s.iss.core o 8 + (2 ^ 64 - 1))).endThread s.iss.core s.iss.slot true
      | .global s pa _ =>
        if s.foldBlocks s.curAgent then s.loseTurn
        else
          let s1 := (s.flushLine s.curAgent s.cur.dom pa).countRelease s.curAgent
          let m := { s1.curMsg (.counter true) pa 8 (s.rx a) with
            ord := 3, scope := 2, epoch := s1.epochOf s1.curAgent, after := s.curOutstanding ++ sentSince s s1 }
          (s1.post m).endThread s.iss.core s.iss.slot false)

/-- JOIN_COUNTER_UPDATE (R117, R118): an increment or decrement performed at the home of the counter, as the atomic of
R251 it is. Poison changes nothing; the thread of a FORK.J then has a late fault (R249). -/
def execJoinCounterUpdate (id : Nat) (s : State) : Out :=
  .next (s.perform id (fun k => match k with | .counter _ => true | _ => false) true fun s m =>
    match m.kind with
    | .counter down =>
      match s.readMustWait m with
      | some r => s.holdForDrain m r
      | none =>
        match (if down then s.writeMustWait m else none) with
        | some r => s.holdForDrain m r
        | none =>
          let bad := (s.dom m.dom).poisoned m.pa 8
          let old := s.homeRead m.dom m.pa 8
          let inv := down && s.recOther m
          let s := if bad then s else s.homeStore m.dom m.launch m.pa 8 (old + if down then 2 ^ 64 - 1 else 1)
          if down then
            ((if bad then s else s.leaveRecord m).subWork m.dom m.launch).reply { m with inval := inv && !bad }
          else
            let s := s.dropMsg id
            if bad && (s.thread? m.core m.slot).any fun t => t.gen == m.gen
            then s.raiseLate m.core m.slot .poison false 0 m.pc m.va 0 else s
    | _ => s)

/-! ### YIELD, PARK (R119, R120) -/

/-- YIELD (R119); in a handler it raises Handler-Block at issue (R126). -/
def execYield (a : BitVec 6) (s : State) : Out :=
  .next (if s.iss.slot = 14 then s.takeTrap .handlerBlock 0 0
    else s.park (.turns (1 + min (s.rx a).toNat 4095)))

/-- Park until a deadline, unless it has been reached (R120). -/
def State.parkUntil (s : State) (x : Nat) : State :=
  if s.iss.slot = 14 then s.takeTrap .handlerBlock 0 0
  else if x ≤ s.curCore.cyc then s else s.park (.deadline x)

/-- PARK (R120). -/
def execPark (a : BitVec 6) (s : State) : Out := .next (s.parkUntil (s.rx a).toNat)
/-- PARK.REL (R120). -/
def execParkRel (a : BitVec 6) (s : State) : Out :=
  .next (s.parkUntil (min (s.curCore.cyc + (s.rx a).toNat) (2 ^ 64 - 1)))

/-! ### Messages (R121 to R126) -/

/-- The core a register names in the layout of CORE (R11, R123). -/
def coreOfWord (v : Word) : Option Nat := if v.toNat < 8192 then coreOfNum v.toNat else none

/-- SEND (R123): a release at partition scope. -/
def execSend (a b : BitVec 6) (s : State) : Out :=
  let l := s.curLaunch
  .next (match coreOfWord (s.rx a) with
    | none => s.protTrap 0
    | some tgt =>
      if !l.cores.contains tgt || l.hdr.inbox == 0 then s.protTrap 0
      else if 16 ≤ s.curCore.outq.length then
        if s.iss.slot = 14 then s.takeTrap .handlerBlock 0 0 else s.loseTurn
      else if s.foldBlocks s.curAgent then s.loseTurn
      else
        let r := s.releaseEvent s.curAgent 2
        let m : Message :=
          { target := tgt, sender := (tidOf s.iss.core s.iss.slot).toNat, w := s.cur.getXs b 8, dom := s.cur.dom,
            launch := s.cur.launch, rel := some r.2, after := s.curOutstanding, retryAt := 0 }
        (r.1.modCurCore fun k => { k with outq := k.outq ++ [m] }).addWork s.cur.dom s.cur.launch 1)

/-- Inbox entries a launch holds on a core: messages that wait, and the one whose handler runs (R122). -/
def Core.inboxHeld (k : Core) (launch : Nat) : Nat :=
  (k.inbox.filter fun m => m.launch == launch).length +
    match lookup k.slots 14 with
    | some t => if t.launch = launch then 1 else 0
    | none => 0

/-- The launch's context is evicted (R124). -/
def Launch.evicted (l : Launch) : Bool := match l.phase with
  | .out => true
  | _ => false
/-- It is evicted, or core `c` has been saved. -/
def Launch.evictedAt (l : Launch) (c : Nat) : Bool := l.evicted || l.saved.any fun k => k.core == c && k.ended

/-- The oldest message from a core to a target reaches the target's inbox, which accepts or refuses it (R124). One that comes
after a message of a higher core in a cycle is taken in a later cycle. -/
def State.offer (s : State) (c tgt : Nat) (retry : Bool) : State :=
  match (s.core c).outq.find? fun m => m.target == tgt with
  | none => s
  | some m =>
    if !m.after.all s.acked then s
    else if retry != (m.retryAt != 0) then s
    else if retry && (s.core c).cyc < m.retryAt then s
    else
      let l := s.launch m.dom m.launch
      if l.hdr.inbox ≤ (s.core tgt).inboxHeld m.launch || l.evictedAt tgt then
        s.modCore c fun k => { k with outq := k.outq.map fun x =>
          if x == m then { x with retryAt := k.cyc + 64 } else x }
      else if (s.core tgt).accepted.any fun a => a.1 == (s.core tgt).cyc && decide (c < a.2) then s
      else
        (s.modCore c fun k => { k with outq := k.outq.erase m }).modCore tgt fun k =>
          { k with inbox := k.inbox ++ [m], accepted := some (k.cyc, c) }

/-- MESSAGE_DELIVERY (R124). -/
def execMessageDelivery (c tgt : Nat) (s : State) : Out := .next (s.offer c tgt false)
/-- MESSAGE_RETRY (R124): 64 cycles after a refusal. -/
def execMessageRetry (c tgt : Nat) (s : State) : Out := .next (s.offer c tgt true)

/-- HANDLER_START (R125): slot 14 takes the oldest message of the inbox; the start is the acquire of its SEND
(R123, R273). A slot that waits for a steal is not free (R140). -/
def execHandlerStart (c : Nat) (s : State) : Out :=
  let k := s.core c
  .next (if (lookup k.slots 14).isSome || k.ghosts.contains 14 || k.allottedNow then s
    else
      match k.inbox with
      | [] => s
      | m :: rest =>
        if !m.after.all s.acked then s
        else
          let go (s : State) : State :=
            (s.modCore c fun k => { k.allot with inbox := rest }).startThread c 14 (s.launchCtx m.dom m.launch) (m.w.getD 0 0)
              fun t => (t.setXs 1#6 (m.w.drop 1)).setX 8#6 (BitVec.ofNat 64 m.sender)
          match m.rel with
          | none => go s
          | some r =>
            match s.acquire m.dom c (s.agentOf c) 2 r with
            | .done s => go s
            | .wait s r id => s.modCore c fun k => { k with inbox := { m with rel := some r, after := [id] } :: rest })

/-! ### Wake notices (R110) -/

/-- The word of a JOIN or LWAIT on a wait list meets its condition. -/
def State.waitHolds (s : State) (m : Msg) : Bool :=
  let w := if bankDom 0 ≤ m.dom then s.localRead m.core m.pa m.n else s.homeRead m.dom m.pa m.n
  match m.kind with
  | .join => w == 0
  | .lwait => w % 256 != 0
  | _ => false

/-- A wait-list notice of a JOIN or LWAIT: the thread returns to rotation and performs its instruction again, with its
read and acquire (R118, R331). A word that no longer meets the condition leaves it parked. -/
def State.wakeAgain (s : State) (m : Msg) : State :=
  if m.st ≠ .poked then s
  else if !s.waitHolds m then s.setMsg { m with st := .waiting }
  else
    match s.waiter m with
    | none => s.dropMsg m.id
    | some _ => ((s.dropMsg m.id).wakeThread m.core m.slot).modThread m.core m.slot fun t =>
        { t with pc := m.pc, pendV := none }

/-- WAKE_NOTICE (R110): a notice from a wait list reaches the waiter's core. BARW and WAITV deliver the word they read
when their condition held. -/
def execWakeNotice (id : Nat) (s : State) : Out :=
  .next (match s.findMsg id with
    | some m =>
      match m.kind with
      | .join => s.wakeAgain m
      | .lwait => s.wakeAgain m
      | .barw => if m.st = .replied then s.orderedArrives m else s
      | .waitv _ _ => if m.st = .replied ∧ !m.blocked then s.orderedArrives m else s
      | _ => s
    | none => s)

end Sys2Proof.Machine
end

