-- ==== Sys2Proof/Machine/Query.lean ====
section
/-! DEFINITION. Query sets and the Confluence tables: allotment, set operations, moves, ARRIVE, DEPART, QFORK, and the
events at the home of a node (R141 to R160). QMASK stands with the streams. -/
namespace Sys2Proof.Machine

/-! ### Allotment (R149) -/

/-- QALLOC (R149, R82): a newly allotted register is empty. -/
def execQalloc (pd : BitVec 3) (imm : BitVec 32) (s : State) : Out :=
  let n := imm.toNat
  .next (if s.curLaunch.hdr.qregs < n then s.wp pd false
    else
      (s.modCur fun t =>
        let t := (List.range n).foldl (fun t i => if t.allot ≤ i then t.setQ (BitVec.ofNat 3 i) 0 else t) t
        { t with allot := max t.allot n }).wp pd true)

/-- QFREE (R149). -/
def execQfree (imm : BitVec 32) (s : State) : Out := .next (s.modCur fun t => { t with allot := min t.allot imm.toNat })

/-! ### Set operations (R150, R151) -/

/-- Write a set and whether it is non-empty (R150). -/
def State.setAndTest (s : State) (qd pd : BitVec 3) (v : QSet) : State := (s.wq qd v).wp pd (v != 0)

/-- A set operation of two registers. -/
def State.qlog2 (s : State) (qd qa qb pd : BitVec 3) (op : QSet → QSet → QSet) : State :=
  s.needQ [qd, qa, qb] fun s => s.setAndTest qd pd (op (s.rq qa) (s.rq qb))

/-- QLOG.AND (R150). -/
def execQlogAnd (qd qa qb pd : BitVec 3) (s : State) : Out := .next (s.qlog2 qd qa qb pd fun a b => a &&& b)
/-- QLOG.OR (R150). -/
def execQlogOr (qd qa qb pd : BitVec 3) (s : State) : Out := .next (s.qlog2 qd qa qb pd fun a b => a ||| b)
/-- QLOG.XOR (R150). -/
def execQlogXor (qd qa qb pd : BitVec 3) (s : State) : Out := .next (s.qlog2 qd qa qb pd fun a b => a ^^^ b)
/-- QLOG.ANDN (R150). -/
def execQlogAndn (qd qa qb pd : BitVec 3) (s : State) : Out := .next (s.qlog2 qd qa qb pd fun a b => a &&& ~~~b)
/-- QLOG.COPY (R150). -/
def execQlogCopy (qd qa pd : BitVec 3) (s : State) : Out :=
  .next (s.needQ [qd, qa] fun s => s.setAndTest qd pd (s.rq qa))
/-- QLOG.CLEAR (R150). -/
def execQlogClear (qd pd : BitVec 3) (s : State) : Out := .next (s.needQ [qd] fun s => s.setAndTest qd pd 0)
/-- QLOG.FULL (R150). -/
def execQlogFull (qd pd : BitVec 3) (s : State) : Out :=
  .next (s.needQ [qd] fun s => s.setAndTest qd pd (BitVec.allOnes 256))
/-- QLOG.NOT (R150). -/
def execQlogNot (qd qa pd : BitVec 3) (s : State) : Out :=
  .next (s.needQ [qd, qa] fun s => s.setAndTest qd pd (~~~(s.rq qa)))

/-- QBIT (R150): the old bit to the predicate, the new bit to the set; an index of 256 or more changes nothing. -/
def State.qbit (s : State) (qd : BitVec 3) (xa : BitVec 6) (pd : BitVec 3) (v : Bool) : State :=
  s.needQ [qd] fun s =>
    let i := (s.rx xa).toNat
    if 256 ≤ i then s.wp pd false
    else
      let q := s.rq qd
      let m := 1#256 <<< i
      (s.wq qd (if v then q ||| m else q &&& ~~~m)).wp pd (q.getLsbD i)

/-- QBIT.SET (R150). -/
def execQbitSet (qd : BitVec 3) (xa : BitVec 6) (pd : BitVec 3) (s : State) : Out := .next (s.qbit qd xa pd true)
/-- QBIT.CLR (R150). -/
def execQbitClr (qd : BitVec 3) (xa : BitVec 6) (pd : BitVec 3) (s : State) : Out := .next (s.qbit qd xa pd false)

/-- QPOP (R150): the lowest member leaves the set. -/
def execQpop (qa : BitVec 3) (xa : BitVec 6) (pd : BitVec 3) (s : State) : Out :=
  .next (s.needQ [qa] fun s =>
    let q := s.rq qa
    match (onesAt q).head? with
    | none => (s.wx xa (BitVec.allOnes 64)).wp pd false
    | some i => ((s.wx xa (BitVec.ofNat 64 i)).wq qa (q &&& ~~~(1#256 <<< i))).wp pd true)

/-- QCNT (R150). -/
def execQcnt (qa : BitVec 3) (xa : BitVec 6) (pd : BitVec 3) (s : State) : Out :=
  .next (s.needQ [qa] fun s => (s.wx xa (BitVec.ofNat 64 (ones (s.rq qa)))).wp pd (s.rq qa != 0))

/-- QTEST (R150). -/
def execQtest (qa : BitVec 3) (xb : BitVec 6) (pd : BitVec 3) (s : State) : Out :=
  .next (s.needQ [qa] fun s =>
    s.wp pd (decide ((s.rx xb).toNat < 256) && (s.rq qa).getLsbD (s.rx xb).toNat))

/-- QEQ.EMPTY (R150). -/
def execQeqEmpty (qa pd : BitVec 3) (s : State) : Out := .next (s.needQ [qa] fun s => s.wp pd (s.rq qa == 0))
/-- QEQ.EQ (R150). -/
def execQeqEq (qa qb pd : BitVec 3) (s : State) : Out :=
  .next (s.needQ [qa, qb] fun s => s.wp pd (s.rq qa == s.rq qb))
/-- QEQ.SUB (R150). -/
def execQeqSub (qa qb pd : BitVec 3) (s : State) : Out :=
  .next (s.needQ [qa, qb] fun s => s.wp pd (s.rq qa &&& ~~~(s.rq qb) == 0))
/-- QEQ.DISJ (R150). -/
def execQeqDisj (qa qb pd : BitVec 3) (s : State) : Out :=
  .next (s.needQ [qa, qb] fun s => s.wp pd (s.rq qa &&& s.rq qb == 0))

/-- QADDR (R150, R141). -/
def execQaddr (xa xb : BitVec 6) (s : State) : Out :=
  .next (s.wx xa (s.cur.qsb + (s.rx xb &&& 255#64) * s.cur.qss))
/-- QADDR.QN (R150). -/
def execQaddrQn (xa xb : BitVec 6) (s : State) : Out := .next (s.wx xa (s.cur.qwin + (s.rx xb &&& 255#64)))
/-- QWIN (R150): both registers are read before either is written. -/
def execQwin (xa xb : BitVec 6) (s : State) : Out :=
  .next (s.modCur fun t => { t with qwin := t.getX xa &&& 0xFFFFFFFFFFFF#64, trav := t.getX xb })

/-- QSPLIT (R151). -/
def execQsplit (qd qa qb pd : BitVec 3) (xa : BitVec 6) (s : State) : Out :=
  .next (s.needQ [qd, qa, qb] fun s =>
    let d := s.rq qa &&& s.rq qb
    let a := s.rq qa &&& ~~~(s.rq qb)
    (((s.wq qd d).wq qa a).wp pd (d != 0 && a != 0)).wx xa (BitVec.ofNat 64 (2 * (a != 0).toNat + (d != 0).toNat)))

/-! ### Moves (R153) -/

/-- QMOV.TOX (R153). -/
def execQmovTox (qa : BitVec 3) (xa : BitVec 6) (s : State) : Out :=
  .next (s.needQ [qa] fun s => s.modCur fun t =>
    t.setXs xa ((List.range 4).map fun j => (t.getQ qa).extractLsb' (64 * j) 64))
/-- QMOV.FROMX (R153). -/
def execQmovFromx (qd : BitVec 3) (xa : BitVec 6) (s : State) : Out :=
  .next (s.needQ [qd] fun s => s.modCur fun t =>
    t.setQ qd (t.getX (regAt xa 3) ++ t.getX (regAt xa 2) ++ t.getX (regAt xa 1) ++ t.getX xa))
/-- QMOV.LD (R153): a plain load of 32 bytes. -/
def execQmovLd (qd : BitVec 3) (xa : BitVec 6) (imm : BitVec 32) (s : State) : Out :=
  .next (s.needQ [qd] fun s => s.load (s.rx xa + imm.signExtend 64) 32 0 0 0 (.q qd))
/-- QMOV.ST (R153): a plain store of 32 bytes. -/
def execQmovSt (qa : BitVec 3) (xa : BitVec 6) (imm : BitVec 32) (s : State) : Out :=
  .next (s.needQ [qa] fun s => s.store (s.rx xa + imm.signExtend 64) 32 0 0 0 (s.rq qa).toNat)

/-! ### Meeting at a node (R154, R155) -/

/-- The key of a node (R142): padding, partition, address space, traversal, window, node line address. -/
def nodeKey (dom asn : Nat) (trav win : Word) (pa : Nat) : BitVec 185 :=
  0#4 ++ BitVec.ofNat 4 dom ++ BitVec.ofNat 16 asn ++ trav ++ win.setWidth 48 ++ BitVec.ofNat 49 (pa / 8)

/-- The set of a key (R143). -/
def keySet (trav win : Word) (pa : Nat) : Nat :=
  foldK 5 (pa / 8) ^^^ foldK 5 trav.toNat ^^^ foldK 5 (win.setWidth 48).toNat

/-- Where the entries of a request's key stand: slice and set. -/
def Msg.confHome (m : Msg) (v : Dom) : Nat × Nat × BitVec 185 :=
  match m.kind with
  | .arrive _ trav win => (homeSlice v (lineOf m.pa), keySet trav win m.pa, nodeKey m.dom m.asn trav win m.pa)
  | .depart _ trav win => (homeSlice v (lineOf m.pa), keySet trav win m.pa, nodeKey m.dom m.asn trav win m.pa)
  | _ => (0, 0, 0)

/-- The node of ARRIVE and DEPART: alignment, then translation for reading (R154). -/
def State.atNode (s : State) (va : Word) (k : State → Nat → State) : State :=
  if !alignedTo va 8 then s.takeTrap .alignment va 0
  else
    s.withPa va .read fun s pa _ => k s pa

/-- ARRIVE (R154, R158): a release at partition scope on the node's line; the thread waits for the reply. -/
def execArrive (qa : BitVec 3) (xa xb : BitVec 6) (pd : BitVec 3) (s : State) : Out :=
  .next (s.needQ [qa] fun s => s.atNode (s.rx xa) fun s pa =>
    if s.foldBlocks s.curAgent then s.loseTurn
    else
      let t := s.cur
      let s1 := s.countRelease s.curAgent
      s1.postWait { s1.curMsg (.arrive (t.getQ qa) t.trav t.qwin) pa 8 (s.rx xa) with
        ord := 3, scope := 2, epoch := s1.epochOf s1.curAgent, dst := .arrive qa xb pd, after := s.curOutstanding })

/-- DEPART (R155). -/
def State.depart (s : State) (wait : Bool) (qa : BitVec 3) (xa xb : BitVec 6) (pd : BitVec 3) : State :=
  s.atNode (s.rx xa) fun s pa =>
    let t := s.cur
    s.postWait { s.curMsg (.depart wait t.trav t.qwin) pa 8 (s.rx xa) with
      ord := 2, scope := 2, dst := .depart qa xb pd, after := s.curReleases }

/-- DEPART (R155). -/
def execDepart (qa : BitVec 3) (xa xb : BitVec 6) (pd : BitVec 3) (s : State) : Out :=
  .next (s.needQ [qa] fun s => s.depart false qa xa xb pd)
/-- DEPART.W (R155); in a handler it raises Handler-Block at issue (R126). -/
def execDepartW (qa : BitVec 3) (xa xb : BitVec 6) (pd : BitVec 3) (s : State) : Out :=
  .next (s.needQ [qa] fun s =>
    if s.iss.slot = 14 then s.takeTrap .handlerBlock 0 0 else s.depart true qa xa xb pd)

/-- The way an arrival allocates in a set (R143): the lowest INVALID one, else the lowest CLOSED one that is not
pinned (R160). -/
def Dom.confWay (v : Dom) (slice set : Nat) : Option Nat :=
  let here := v.conf.filter fun e => e.slice == slice && e.way / 16 == set
  match (List.range 16).find? fun w => here.all fun e => e.way % 16 != w with
  | some w => some (set * 16 + w)
  | none =>
    ((List.range 16).find? fun w => here.any fun e => e.way % 16 == w && e.st == .closed && !e.pin).map (set * 16 + ·)

/-- An arrival performed at the home (R144, R154): LEAD in bit 0 and NOENT in bit 1 of the answer. -/
def Dom.arrive (v : Dom) (m : Msg) (set : QSet) (id openMax born : Nat) : Dom × Nat :=
  let (slice, st, key) := m.confHome v
  if v.conf.any fun e => e.slice == slice && e.key == key && e.st == .opened then
    ({ v with conf := v.conf.map fun e =>
        if e.slice == slice && e.key == key && e.st == .opened
        then { e with union := e.union ||| set, count := min (e.count + 1) 65535 } else e }, 0)
  else
    match v.confWay slice st with
    | none => (v, 3)
    | some w =>
      let e : ConfEnt :=
        { id := id, slice := slice, way := w, key := key, st := .opened, leader := tidOf m.core m.slot, lgen := m.gen,
          launch := m.launch, union := 0, count := 1, born := born, openMax := openMax, pin := false }
      ({ v with conf := e :: v.conf.filter fun e => !(e.slice == slice && e.way == w) }, 1)

/-- The cycles an entry stays open (R145). -/
def Launch.openCycles (l : Launch) : Nat := if l.hdr.openMax = 0 then 4096 else l.hdr.openMax

/-- A sealed entry accepts no more, and its DEPART.W goes on (R144, R155). -/
def State.wakeDeparts (s : State) (d : Nat) (e : ConfEnt) : State :=
  { s with net := s.net.map fun m =>
      match m.kind with
      | .depart _ _ _ =>
        if m.st == .waiting && m.dom == d && m.gen == e.lgen && (m.confHome (s.dom d)).2.2 == e.key then { m with st := .sent } else m
      | _ => m }

/-- Seal an entry. -/
def State.sealEntry (s : State) (d : Nat) (e : ConfEnt) : State :=
  (s.modDom d fun v => { v with conf := v.conf.map fun x => if x.id == e.id then { x with st := .sealed } else x }).wakeDeparts d e

/-- No request of a slice finds an entry open more than 16 cycles after its age has reached its OPENMAX (R145). -/
def State.sealOverdue (s : State) (m : Msg) : State :=
  let v := s.dom m.dom
  let slice := (m.confHome v).1
  (v.conf.filter fun e => e.slice == slice && e.st == .opened && decide (e.born + e.openMax + 16 ≤ s.cycle)).foldl
    (fun s e => s.sealEntry m.dom e) s

/-- One arrival is performed (R144, R154, R158). -/
def State.serveArrive (s : State) (m : Msg) : State :=
  match m.kind with
  | .arrive set _ _ =>
    let r := (s.dom m.dom).arrive m set s.nextId (s.launch m.dom m.launch).openCycles s.cycle
    let inv := s.recOther m
    let slice := (m.confHome (s.dom m.dom)).1
    let s := s.count 6 0 slice
    let s := if r.2 = 0 then s.count 6 1 slice else s
    (({ s with nextId := s.nextId + 1 }.setDom m.dom r.1).leaveRecord m).reply
      { m with data := BitVec.ofNat 1024 r.2, inval := inv }
  | _ => s

/-- Arrivals of a combined request after each of which another core's follows: that releaser must be drained before the
request can be performed in one step (R159, R267). -/
def releasedOver : List Msg → List Msg
  | a :: b :: rest =>
    if a.agent != b.agent && scopeCovers a.scope a.agent b.agent then a :: releasedOver (b :: rest) else releasedOver (b :: rest)
  | _ => []

/-- The drains of those releasers: mask bit 0 of the request tells that they have been asked for. None once they are done. -/
def State.drainMembers (s : State) (m : Msg) : Option State :=
  let owed := releasedOver (s.members m)
  if owed.isEmpty then none
  else if !m.mask.getLsbD 0 then
    some ((owed.foldl (fun s a => s.sendDrain m a.agent a.epoch) s).setMsg { m with mask := 1, st := .held })
  else if s.net.any fun x => match x.kind with
      | .drain _ _ held => held == m.id
      | _ => false then some (s.setMsg { m with st := .held })
  else none

/-- ARRIVE_AT_HOME (R144, R154, R158, R159): the old releaser of the line is drained first; combined arrivals are performed in
one step. -/
def execArriveAtHome (id : Nat) (s : State) : Out :=
  .next (s.perform id (fun k => match k with | .arrive _ _ _ => true | _ => false) false fun s m =>
    match s.writeMustWait m with
    | some r => s.holdForDrain m r
    | none => (s.drainMembers m).getD ((s.members m).foldl State.serveArrive (s.sealOverdue m)))

/-- The leader's entries of a key that a DEPART collects (R155). -/
def ConfEnt.collects (e : ConfEnt) (key : BitVec 185) (gen : Nat) : Bool :=
  e.key == key && e.lgen == gen && e.st != .closed

/-- The answer of a DEPART: the union in bits 255:0, the count in bits 271:256, success in bit 272. -/
def collected (es : List ConfEnt) : BitVec 1024 :=
  let u := es.foldl (fun u e => u ||| e.union) (0 : QSet)
  let c := min (es.foldl (fun c e => c + e.count) 0) 65535
  (1#1 ++ BitVec.ofNat 16 c ++ u).setWidth 1024

/-- The entries a DEPART collects close (R155). -/
def Dom.closeKey (v : Dom) (key : BitVec 185) (gen : Nat) : Dom :=
  { v with conf := v.conf.map fun e => if (e.collects key gen) then { e with st := .closed, pin := false } else e }

/-- DEPART_AT_HOME (R155, R158, R160): the entries of the table and those spilled to the save area. -/
def execDepartAtHome (id : Nat) (s : State) : Out :=
  .next (s.perform id (fun k => match k with | .depart _ _ _ => true | _ => false) false fun s m =>
    match m.kind with
    | .depart wait _ _ =>
      let s := s.sealOverdue m
      let v := s.dom m.dom
      let key := (m.confHome v).2.2
      let es := v.conf.filter fun e => e.collects key m.gen
      let sp := (s.launch m.dom m.launch).spilled.filter fun e => e.collects key m.gen
      if (es ++ sp).isEmpty then s.reply m
      else if wait && es.any (fun e => e.st == .opened) then s.standOnList m
      else
        match s.readMustWait m with
        | some r => s.holdForDrain m r
        | none =>
          let inv := s.acqInval m
          let s := s.setDom m.dom (v.closeKey key m.gen)
          let s := s.modLaunch m.dom m.launch fun l =>
            { l with spilled := l.spilled.filter fun e => !e.collects key m.gen }
          s.reply { m with data := collected (es ++ sp), inval := inv }
    | _ => s)

/-- AGE_SEAL (R145): an OPEN entry whose age has reached its OPENMAX is sealed, before the requests that its slice performs in
the cycle (R144). -/
def execAgeSeal (d ent : Nat) (s : State) : Out :=
  .next (match (s.dom d).conf.find? fun e => e.id == ent with
    | some e =>
      if e.st = .opened ∧ e.born + e.openMax ≤ s.cycle ∧ (lookup (s.dom d).served e.slice).all (fun p => p.1 != s.cycle)
      then s.sealEntry d e else s
    | none => s)

/-- CLOSED_ENTRY_INVALIDATE (R143): the home may turn a CLOSED entry INVALID at any cycle. -/
def execClosedEntryInvalidate (d ent : Nat) (s : State) : Out :=
  .next (s.modDom d fun v => { v with conf := v.conf.filter fun e => !(e.id == ent && e.st == .closed) })

/-- The reply of an ARRIVE or DEPART at its thread (R154, R155). -/
def State.nodeArrives (s : State) (m : Msg) : State :=
  let s := s.dropMsg m.id
  let s := if m.inval then s.selfInvalidate m.agent else s
  match s.waiter m with
  | none => s
  | some _ =>
    if m.poisoned then s.replyTrap m .poison m.va 0
    else (s.goOn m).modThread m.core m.slot fun t =>
      match m.dst with
      | .arrive qa xs pd =>
        let t := if m.data.getLsbD 0 then t else t.setQ qa 0
        (t.setP pd (m.data.getLsbD 0)).setX xs (m.data.setWidth 64)
      | .depart qa xc pd =>
        if m.data.getLsbD 272 then
          ((t.setQ qa (t.getQ qa ||| m.data.setWidth 256)).setX xc ((m.data.extractLsb' 256 16).setWidth 64)).setP pd true
        else t.setP pd false
      | _ => t

/-! ### QFORK (R157) -/

/-- QFORK (R157): the set moves into a new thread or an item. A push clears the predicate and empties the register. -/
def execQfork (qa : BitVec 3) (xa xb : BitVec 6) (pd : BitVec 3) (imm : BitVec 32) (s : State) : Out :=
  .next (s.needQ [qa] fun s =>
    let q := s.rq qa
    let w := [(qforkTarget s.iss.pc imm &&& ~~~3#64) ||| 1#64, s.rx xa, s.cur.qwin, s.cur.trav] ++
      (List.range 4).map fun j => q.extractLsb' (64 * j) 64
    match s.freeSlot s.iss.core s.cur with
    | some _ => (s.forkWith xb pd w none true).wq qa 0
    | none =>
      if s.canPush s.iss.core s.cur then
        if s.foldBlocks s.curAgent then s.loseTurn else ((s.forkWith xb pd w none true).wp pd false).wq qa 0
      else s.forkWith xb pd w none true)

/-! ### Combining in the switches (R159, R252) -/

/-- Two requests may be combined: plain loads of one word, AMOs of one operation, or arrivals of one key. -/
def combines (v : Dom) (a b : Msg) : Bool :=
  a.dom == b.dom && a.st == .sent && b.st == .sent && a.id != b.id &&
  match a.kind, b.kind with
  | .load _ _ _, .load _ _ _ => a.ord == 0 && b.ord == 0 && a.n ≤ 8 && a.n == b.n && a.pa / 8 == b.pa / 8
  | .atomic p _, .atomic q _ => p == q && p < 8 && a.ord == 1 && b.ord == 1 && a.scope == b.scope && a.n == b.n && a.pa / 8 == b.pa / 8
  | .arrive _ _ _, .arrive _ _ _ => a.mask == 0 && b.mask == 0 && a.confHome v == b.confHome v
  | _, _ => false

/-- Put an element behind those of its key or a lower one. -/
def putByKey {α : Type} (key : α → Nat) (x : α) : List α → List α
  | [] => [x]
  | y :: rest => if key x < key y then x :: y :: rest else y :: putByKey key x rest
/-- Sort by a key, elements of one key in their order. -/
def sortByKey {α : Type} (key : α → Nat) (l : List α) : List α := l.foldl (fun r x => putByKey key x r) []

/-- The members of a combined request in their order (R159, R252): of loads and AMOs the requests in input-port order, each
with the members it has; of arrivals all of them in ascending thread identifier. -/
def State.memberOrder (s : State) (heads : List Msg) : List Msg :=
  let ms := (heads.map s.members).flatten
  if heads.any fun m => match m.kind with
    | .arrive _ _ _ => true
    | _ => false then sortByKey (fun m => (tidOf m.core m.slot).toNat) ms else ms

/-- SWITCH_COMBINE (R159, R252): a switch combines requests that meet it, given with the port each comes in by (0 the cluster
port, then north, east, south and west) in the order of their arrival; those that may not join the first go on alone. -/
def execSwitchCombine (reqs : List (Nat × Nat)) (s : State) : Out :=
  .next (match (sortByKey (·.1) reqs).filterMap fun r => s.findMsg r.2 with
    | [] => s
    | h :: rest =>
      let join := (rest.filter fun m => combines (s.dom h.dom) h m).eraseDups
      match s.memberOrder (h :: join) with
      | m :: more =>
        if join.isEmpty then s
        else (more.foldl (fun s x => s.setMsg { x with st := .combined, group := [] }) s).setMsg
          { m with st := .sent, group := more.map (·.id) }
      | [] => s)

end Sys2Proof.Machine
end

