-- ==== Sys2Proof/Machine/Stream.lean ====
section
/-! DEFINITION. Stream generators: SCFG, SCFGM, SEN, SDIS, SWAIT, the elements they read and write, QMASK, and the events
STREAM_ELEMENT_FETCH and STREAM_PUSH_WRITE (R152, R171 to R177). -/
namespace Sys2Proof.Machine

/-! ### Element addresses (R173, R174) -/

/-- The offset of element `i`, innermost loop fastest. -/
def loopOff : List (Nat × Int) → Nat → Int
  | [], _ => 0
  | (b, st) :: rest, i => ((i % b : Nat) : Int) * st + loopOff rest (i / b)

/-- The address of element `i` (R173, R174). -/
def Gen.addr (g : Gen) (i : Nat) : Word :=
  match g.members with
  | some (q, qsb, qss) => qsb + BitVec.ofNat 64 ((onesAt q).getD i 0) * qss
  | none => g.base + BitVec.ofInt 64 (loopOff g.loops i)

/-! ### Reading an element -/

/-- What reading a stream element finds. -/
inductive Got where
  /-- An outside agent must answer first, or an access of the core be performed. -/
  | blocked (s : State)
  | got (s : State) (e : Elem)

/-- What a plain read at a physical address finds: something must be performed first, or the value and whether it touches
poison. -/
inductive Peek where
  | blocked (s : State)
  | got (s : State) (v : Nat) (bad : Bool)

/-- A plain read at a physical address: what the L1 holds, else the home's bytes under those that the L1 holds dirty, once
nothing of the core's own is on its way to them (R242, R248). A read of a peer that no route reaches brings poison and is
counted (R374). -/
def State.peek (s : State) (agent d pa n : Nat) : Peek :=
  match s.loadL1 agent d pa n with
  | some (v, bad) => .got s v bad
  | none =>
    let v := s.dom d
    let line := lineOf pa
    if v.bytes < pa + n then .got s.countPeer 0 true
    else if s.onWay agent d line (lineMask (pa % 128) n) s.nextId then .blocked s
    else
      match s.gate d pa 0 false with
      | .blocked s' => .blocked s'
      | .ready s =>
        let l := ((s.cache agent).find d line).getD (L1Line.blank d line false)
        let data := mergeBytes l.dirty l.data (BitVec.ofNat 1024 (Memory.read v.mem (line * 128) 128))
        let bad := ((v.linePoison line &&& ~~~l.whole) ||| l.dpoison) &&& touchedWords (pa % 128) n
        .got (s.modDom d fun v => v.touchL2 line s.cycle) ((data >>> (8 * (pa % 128))).toNat % 2 ^ (8 * n)) (bad != 0)

/-- Where an element lies. -/
inductive Spot where
  | blocked (s : State)
  | bad (s : State) (c : Cause) (info : Word)
  | bank (s : State) (a : Nat)
  | home (s : State) (pa : Nat) (e : TlbEnt)

/-- An element at its bank, once no FILL is held there (R163). -/
def State.spotBank (s : State) (c a : Nat) : Spot := if (s.core c).fill.isSome then .blocked s else .bank s a

/-- Element `i` of a stream: an address in the local window is at the bank, within the region, and never translated (R161,
R173); the reason bits of its Protection fault are a free value (log 16). -/
def State.spot (s : State) (c : Nat) (g : Gen) (i : Nat) (need : Need) : Spot :=
  let va := g.addr i
  if !g.glob then s.spotBank c (g.lbase + winOff va)
  else if inWindow va then
    if inRegion (s.launch g.dom g.launch).hdr.lmem (winOff va) (elemBytes g.fmt.toNat) then s.spotBank c (g.lbase + winOff va)
    else .bad s.useFree .protection (7 + ((s.freeWord &&& 15#64) <<< 4))
  else
    match s.translate c g.dom g.asn g.root va need with
    | (s, .wait) => .blocked s
    | (s, .fail cause info) => .bad s cause (BitVec.ofNat 64 info)
    | (s, .ok pa e) => .home s pa e

/-- Read element `i` of a read stream (R173, R176): translation, protection and poison make it a failing element. -/
def State.readElem (s : State) (c : Nat) (g : Gen) (i : Nat) : Got :=
  let n := elemBytes g.fmt.toNat
  let va := g.addr i
  match s.spot c g i .read with
  | .blocked s => .blocked s
  | .bad s cause info => .got s (.bad cause va info)
  | .bank s a =>
    .got s (if s.localPoison c a n then .bad .poison va 0 else .ok (elemImage g.fmt (BitVec.ofNat 32 (s.localRead c a n))))
  | .home s pa _ =>
    match s.peek (s.agentOf c) g.dom pa n with
    | .blocked s => .blocked s
    | .got s v bad => .got s (if bad then .bad .poison va 0 else .ok (elemImage g.fmt (BitVec.ofNat 32 v)))

/-- The next element of a stream: fetched ahead, or read now. -/
def State.nextElem (s : State) (c : Nat) (g : Gen) : Got :=
  match g.ahead with
  | e :: _ => .got s e
  | [] => s.readElem c g g.pos

/-! ### Popping rows of elements (R178, R179) -/

/-- A source operand: a value every iteration uses, a stream popped every iteration, or one popped once. -/
inductive Opd where
  | reg (v : BitVec 32)
  | stream (i : Nat)
  | once (i : Nat)
  deriving DecidableEq, Repr

/-- What popping gave: something to wait for; or the rows of values, the operands after them, and the fault
that ended them. -/
inductive Pulled (α : Type) where
  | blocked (s : State)
  | bad (s : State) (fault : Cause × Word × Word)
  | ok (s : State) (a : α)

/-- Pop one element of generator `i`: zero from an exhausted stream (R176). -/
def State.pullOne (s : State) (c i : Nat) : Pulled (BitVec 32) :=
  match lookup (s.core c).gens i with
  | none => .ok s 0
  | some g =>
    if g.left = 0 then .ok s 0
    else
      match s.nextElem c g with
      | .blocked s => .blocked s
      | .got s (.ok v) => .ok (s.modCore c fun k => k.setGen i g.popped) v
      | .got s (.bad cause addr info) =>
        .bad (s.modCore c fun k => k.setGen i { g with ahead := [] }) (cause, addr, elemInfo info g.pos)

/-- Pop the operands of one iteration in order; one that is popped once becomes a value. -/
def State.pullRow (s : State) (c : Nat) : List Opd → Pulled (List (BitVec 32) × List Opd)
  | [] => .ok s ([], [])
  | o :: rest =>
    let one : Pulled (BitVec 32 × Opd) := match o with
      | .reg v => .ok s (v, o)
      | .stream i => match s.pullOne c i with
        | .blocked s => .blocked s
        | .bad s f => .bad s f
        | .ok s v => .ok s (v, o)
      | .once i => match s.pullOne c i with
        | .blocked s => .blocked s
        | .bad s f => .bad s f
        | .ok s v => .ok s (v, .reg v)
    match one with
    | .blocked s => .blocked s
    | .bad s f => .bad s f
    | .ok s (v, o) =>
      match s.pullRow c rest with
      | .blocked s => .blocked s
      | .bad s f => .bad s f
      | .ok s (vs, os) => .ok s (v :: vs, o :: os)

/-- The rows of `n` iterations, as far as no element fails. -/
inductive Rows where
  | blocked (s : State)
  | rows (s : State) (vs : List (List (BitVec 32))) (fault : Option (Cause × Word × Word))

/-- Pop `n` rows (R179, R180). -/
def State.pullRows (s : State) (c : Nat) : Nat → List Opd → Rows
  | 0, _ => .rows s [] none
  | n + 1, os =>
    match s.pullRow c os with
    | .blocked s => .blocked s
    | .bad s f => .rows s [] (some f)
    | .ok s (v, os) =>
      match s.pullRows c n os with
      | .blocked s => .blocked s
      | .rows s vs f => .rows s (v :: vs) f

/-! ### Binding (R171 to R175) -/

/-- The lowest free generator (R171). -/
def Core.freeGen (k : Core) : Option Nat := (List.range 16).find? fun i => (lookup k.gens i).isNone

/-- Unbind f registers of the issuing thread (R175). -/
def State.unbind (s : State) (p : BitVec 3 → Bool) : State :=
  s.modCurCore fun k => k.dropStreams s.iss.slot s.cur.gen fun g => p g.freg && !g.closing

/-- Bind a generator after the checks (R173, R174). -/
def State.bindGen (s : State) (fs : BitVec 5) (pd : BitVec 3) (g : Gen) : State :=
  let s := s.unbind fun r => r == fs.setWidth 3
  match s.curCore.freeGen with
  | none => s.wp pd false
  | some i => (s.modCurCore fun k => k.setGen i g).wp pd true

/-- A generator of the issuing thread, disabled, at element 0. -/
def State.newGen (s : State) (fs : BitVec 5) (dir space : BitVec 1) (fmt : BitVec 4) : Gen :=
  { slot := s.iss.slot, gen := s.cur.gen, freg := fs.setWidth 3, wr := dir == 1#1, glob := space == 1#1, fmt := fmt,
    base := 0, loops := [], members := none, total := 0, enabled := false, pos := 0, ahead := [], pushes := [],
    closing := false, dom := s.cur.dom, asn := s.cur.asn, root := s.cur.root, launch := s.cur.launch,
    lbase := s.curLaunch.lbase, lines := [], sent := [] }

/-- The lowest and highest element offsets of the loops (R173). -/
def loopSpan : List (Nat × Int) → Int × Int
  | [] => (0, 0)
  | (b, st) :: rest =>
    let r := loopSpan rest
    let e := ((b : Int) - 1) * st
    (r.1 + min 0 e, r.2 + max 0 e)

/-- The elements from `lo` to `hi` lie in the region: none, or the address of one that does not (log 17). -/
def State.outside (s : State) (lo hi : Int) (n : Nat) : Option Word :=
  let w : Int := Config.windowBase
  if lo < w ∨ w + s.curLaunch.hdr.lmem < lo + n then some (BitVec.ofInt 64 lo)
  else if w + s.curLaunch.hdr.lmem < hi + n then some (BitVec.ofInt 64 hi)
  else none

/-- SCFG (R173). -/
def execScfg (fs : BitVec 5) (xa xb : BitVec 6) (loops : BitVec 2) (dir space : BitVec 1) (fmt : BitVec 4) (pd : BitVec 3)
    (s : State) : Out :=
  let n := loops.toNat + 1
  let n' := elemBytes fmt.toNat
  let ls : List (Nat × Int) := (List.range n).map fun j =>
    ((s.rx (regAt xb (2 * j))).toNat, (s.rx (regAt xb (2 * j + 1))).toInt)
  let total := ls.foldl (fun t l => t * l.1) 1
  let span := loopSpan ls
  let base := s.rx xa
  .next (if ls.any fun l => decide (2 ^ 32 < l.1) then s.takeTrap .illegalInstruction 0 0
    else if base.toNat % n' ≠ 0 || ls.any fun l => l.2 % n' != 0 then s.takeTrap .alignment base 0
    else
      match (if space = 0#1 ∧ total ≠ 0 then s.outside (base.toNat + span.1) (base.toNat + span.2) n' else none) with
      | some a => s.protTrap a
      | none =>
        s.bindGen fs pd { s.newGen fs dir space fmt with base := base, loops := ls, total := total })

/-- SCFGM (R174). -/
def execScfgm (fs : BitVec 5) (dir space : BitVec 1) (fmt : BitVec 4) (qs pd : BitVec 3) (s : State) : Out :=
  .next (s.needQ [qs] fun s =>
    let n := elemBytes fmt.toNat
    let t := s.cur
    let g := { s.newGen fs dir space fmt with members := some (t.getQ qs, t.qsb, t.qss), total := ones (t.getQ qs) }
    if t.qsb.toNat % n ≠ 0 ∨ t.qss.toNat % n ≠ 0 then s.takeTrap .alignment t.qsb 0
    else
      match (if g.glob then none else (List.range g.total).findSome? fun i =>
          s.outside (g.addr i).toNat (g.addr i).toNat n) with
      | some a => s.protTrap a
      | none => s.bindGen fs pd g)

/-- SEN (R175). -/
def execSen (mask : BitVec 8) (s : State) : Out :=
  let named (g : Gen) : Bool := g.slot == s.iss.slot && g.gen == s.cur.gen && !g.closing && mask.getLsbD g.freg.toNat
  let bound := s.curCore.gens.filter fun e => named e.2
  .next (if bound.length ≠ ones mask then s.takeTrap .vectorStream 0 0
    else s.modCurCore fun k => { k with gens := k.gens.map fun e => if named e.2 then (e.1, { e.2 with enabled := true }) else e })

/-- SDIS (R175). -/
def execSdis (mask : BitVec 8) (s : State) : Out := .next (s.unbind fun r => mask.getLsbD r.toNat)

/-- SWAIT (R175): pushed elements are written, then their lines leave the L1 for their homes, and every write-back of them is
performed. -/
def execSwait (mask : BitVec 8) (s : State) : Out :=
  let named (g : Gen) : Bool :=
    g.slot == s.iss.slot && g.gen == s.cur.gen && !g.closing && g.wr && mask.getLsbD g.freg.toNat
  let gs := (s.curCore.gens.filter fun e => named e.2).map (·.2)
  let fin (s : State) : State := s.modCurCore fun k =>
    { k with gens := k.gens.map fun e => if named e.2 then (e.1, { e.2 with lines := [], sent := [] }) else e }
  .next (match s.cur.prog with
    | some p => s.afterAcks 1 p.ids fin
    | none =>
      if gs.any fun g => !g.pushes.isEmpty then s.loseTurn
      else
        let lines := (gs.map (·.lines)).flatten
        let r := s.writeBackAll s.curAgent fun l => l.dom == s.cur.dom && lines.contains l.line
        r.1.afterAcks 1 ((lines.map (r.1.lineBacks r.1.curAgent s.cur.dom)).flatten ++ (gs.map (·.sent)).flatten) fin)

/-! ### Events of streams (R176) -/

/-- STREAM_ELEMENT_FETCH (R176): an enabled read stream fetches its next element, at most 64 ahead of the pop. -/
def execStreamElementFetch (c i : Nat) (s : State) : Out :=
  .next (match lookup (s.core c).gens i with
    | some g =>
      if g.enabled && !g.wr && !g.closing && decide (g.ahead.length < 64 ∧ g.ahead.length < g.left) then
        match s.readElem c g (g.pos + g.ahead.length) with
        | .blocked s => s
        | .got s e => s.modCore c fun k => k.setGen i { g with ahead := g.ahead ++ [e] }
      else s
    | none => s)

/-- A pushed element is written as a plain store of its thread (R176); one that may not be written is a late fault of the
instruction that pushed it (R173, R333). -/
def State.writeElem (s : State) (c i : Nat) (g : Gen) (p : Push) : State :=
  let n := elemBytes g.fmt.toNat
  let va := g.addr p.idx
  let put (s : State) (g : Gen) : State := s.modCore c fun k => k.setGen i { g with pushes := g.pushes.drop 1 }
  match s.spot c g p.idx .write with
  | .blocked s => s
  | .bad s cause info => (put s g).engineFault c g.slot g.gen cause p.seq p.next p.pc va (elemInfo info p.idx)
  | .bank s a => put (s.localWrite c a n p.v.toNat) g
  | .home s pa e =>
    if e.cached then
      put (s.storeL1 (s.agentOf c) g.dom pa n p.v.toNat e.keeps g.launch) { g with lines := addNew g.lines (lineOf pa) }
    else
      let m := { s.newMsg c g.slot .store pa n va with
        gen := g.gen, dom := g.dom, launch := g.launch, data := BitVec.ofNat 1024 (p.v.toNat % 2 ^ (8 * n)) }
      let s := s.updateL1 (s.agentOf c) g.dom pa n p.v.toNat
      put (s.post m) { g with sent := addNew g.sent s.nextId }

/-- STREAM_PUSH_WRITE (R176): the oldest pushed element is written; a generator that SDIS or RETIRE named frees after
its last (R118, R175). -/
def execStreamPushWrite (c i : Nat) (s : State) : Out :=
  .next (match lookup (s.core c).gens i with
    | some g =>
      let s := match g.pushes with
        | p :: _ => s.writeElem c i g p
        | [] => s
      match lookup (s.core c).gens i with
      | some g => if g.closing && g.pushes.isEmpty then s.modCore c fun k => { k with gens := eraseKey k.gens i } else s
      | none => s
    | none => s)

/-! ### QMASK (R152) -/

/-- The subset whose mask elements have bit 0 set: members in ascending order. -/
def maskSet : List Nat → List (List (BitVec 32)) → QSet
  | i :: is, r :: rs => (if (r.headD 0).getLsbD 0 then 1#256 <<< i else 0) ||| maskSet is rs
  | _, _ => 0

/-- QMASK (R152): one element per member until the stream ends; it pops nothing when an element fails (R176). -/
def execQmask (qd qa pd : BitVec 3) (imm : BitVec 32) (s : State) : Out :=
  .next (s.needQ [qd, qa] fun s =>
    let c := s.iss.core
    match s.curCore.bound s.iss.slot s.cur.gen (imm.setWidth 5) with
    | none => s.takeTrap .vectorStream 0 0
    | some (i, g) =>
      let is := onesAt (s.rq qa)
      if g.wr then s.takeTrap .vectorStream 0 0
      else if !g.enabled && decide (0 < min is.length g.left) then s.loseTurn
      else
        match s.pullRows c (min is.length g.left) [.stream i] with
        | .blocked s' => (s.asked s').loseTurn
        | .rows _ _ (some (cause, addr, info)) =>
          (s.modCurCore fun k => k.setGen i { g with ahead := [] }).takeTrap cause addr info
        | .rows s' vs none => (s'.wq qd (maskSet is vs)).wp pd (decide (is.length ≤ g.left)))

end Sys2Proof.Machine
end

