-- ==== Sys2Proof/Machine/Vector.lean ====
section
/-! DEFINITION. The vector engine: how a V-operation takes its operands and leaves its results, and the element
operations, compares, reductions and integer operations (R178 to R190), with the events of the engine. -/
namespace Sys2Proof.Machine

/-! ### The command ring (R338) -/

/-- A cube command whose entry stays until CRETRY, TRESUME or TKILL names it. -/
def RingEnt.kept (e : RingEnt) : Bool := (e.opc == 0xD3#8 || e.opc == 0xD4#8) && (e.st == 2 || e.st == 3)

/-- Drop the oldest entry that may be overwritten. -/
def dropOldest (l : List RingEnt) : List RingEnt :=
  match l.reverse.find? fun e => !e.kept with
  | some e => (l.reverse.erase e).reverse
  | none => l

/-- Put a command into the ring, newest first: it keeps 64 entries. -/
def Core.addRing (k : Core) (e : RingEnt) : Core :=
  { k with ring := let l := e :: k.ring; if 64 < l.length then dropOldest l else l }

/-- Set the state of the newest entry of a sequence number and kind. -/
def Core.setRing (k : Core) (p : RingEnt → Bool) (g : RingEnt → RingEnt) : Core :=
  match k.ring.find? p with
  | some e => { k with ring := k.ring.map fun x => if x == e then g x else x }
  | none => k

/-! ### Operands (R178, R180) -/

/-- A source of a V-operation: its register, the formats a stream may have, and its BC bit. -/
structure Src where
  r : BitVec 5
  fmts : List Nat
  bc : Bool
  deriving DecidableEq, Repr

/-- The stream an f register of the issuing thread names. -/
def State.streamOf (s : State) (r : BitVec 5) : Option (Nat × Gen) := s.curCore.stream s.iss.slot s.cur.gen r

/-- The f registers a V half reads (R28). -/
def State.vf (s : State) (r : BitVec 5) : Word := (s.iss.shadow.getD s.cur.f)[r.toNat]'(r.isLt)

/-- The source breaks the rule of R180. -/
def State.srcBad (s : State) (x : Src) : Bool :=
  match s.streamOf x.r with
  | some (_, g) => g.wr || !x.fmts.contains g.fmt.toNat
  | none => false

/-- The destination breaks the rule of R180. -/
def State.dstBad (s : State) (fd : BitVec 5) (fmts : List Nat) : Bool :=
  match s.streamOf fd with
  | some (_, g) => !g.wr || !fmts.contains g.fmt.toNat
  | none => false

/-- How a source is taken (R178, R61). -/
def State.opdOf (s : State) (x : Src) : Opd :=
  match s.streamOf x.r with
  | some (i, _) => if x.bc then .once i else .stream i
  | none => .reg (BitVec.ofNat 32 ((s.vf x.r).toNat % 2 ^ fmtBits (x.fmts.headD 0)))

/-- Remaining elements of the streams that count (R178). -/
def State.counts (s : State) (srcs : List Src) : List Nat :=
  srcs.filterMap fun x =>
    match s.streamOf x.r with
    | some (_, g) => if x.bc then none else some g.left
    | none => none

/-- The iteration count (R178). -/
def leastOr1 : List Nat → Nat
  | [] => 1
  | n :: ns => ns.foldl min n

/-- What pushing results gives: something to wait for; or how many were pushed, and the fault that ended them. -/
inductive Pushed where
  | blocked (s : State)
  | done (s : State) (n : Nat) (fault : Option (Cause × Word × Word))

/-- Push results to generator `i` in element order: an exhausted stream discards them, an element that may not be
written ends them (R176, R180). `pc` and `seq` are those of the operation. -/
def State.pushAll (s : State) (c i : Nat) (pc : Word) (seq : BitVec 16) : Nat → List (BitVec 32) → Pushed
  | n, [] => .done s n none
  | n, v :: vs =>
    match lookup (s.core c).gens i with
    | none => .done s n none
    | some g =>
      if g.left = 0 then .done s (n + 1 + vs.length) none
      else
        match s.spot c g g.pos .write with
        | .blocked s => .blocked s
        | .bad s cause info => .done s n (some (cause, g.addr g.pos, elemInfo info g.pos))
        | .bank s _ | .home s _ _ => (s.modCore c fun k => k.setGen i (g.push v pc seq (seq + 1))).pushAll c i pc seq (n + 1) vs

/-! ### Issue of an operation (R179 to R181) -/

/-- What an operation computes of its rows: results in element order, the flags and the drawn sequence, and the
predicate it writes. -/
structure VRes where
  out : List (BitVec 32)
  c : RC
  p : Option Bool
  deriving DecidableEq, Repr

/-- An operation: what it names, how long it holds the stage, and what it computes. `dst` gives the formats of FD as a
stream, none where FD is no stream operand; `wr` tells whether a register FD is written. -/
structure VDesc where
  fd : BitVec 5
  pd : BitVec 3
  srcs : List Src
  dst : Option (List Nat)
  wr : Bool
  /-- FD's remaining elements count towards n (R178). -/
  count : Bool
  /-- A rule of R180 or of the operation's own entry is broken. -/
  bad : Bool
  /-- Base occupancy, and cycles beside it, of n iterations (R181). -/
  base : Nat → Nat
  extra : Nat
  /-- The predicate tells whether a result pushed is not zero (R208). -/
  tells : Bool := false

/-- The PC of the slot that holds the operation. -/
def State.vpc (s : State) : Word := if s.iss.pair then s.iss.pc + 12#64 else s.iss.pc

/-- Cycles the input stage is held (R181, R378). -/
def State.occupancy (s : State) (d : VDesc) (n : Nat) : Nat :=
  let b := max 1 (d.base n)
  (if 3 ≤ s.curDom.acct.stage then 2 * b else b) + d.extra

/-- Enter an operation in the engine and the ring (R181, R338). -/
def State.enterVec (s : State) (d : VDesc) (n done : Nat) (r : VRes) (wf : Option (BitVec 5 × Word))
    (fault : Option (Cause × Word × Word)) : State :=
  let occ := s.occupancy d n
  let named := (if d.wr || d.dst.isSome then [d.fd] else []) ++ d.srcs.map (·.r)
  let strm := named.foldl (fun m x => if (s.streamOf x).isSome then m ||| (1#8 <<< x.toNat) else m) 0#8
  let writes := d.wr && (s.streamOf d.fd).isNone
  s.modCurCore fun k =>
    let op : VecOp :=
      { seq := k.seq, slot := s.iss.slot, gen := s.cur.gen, pc := s.vpc, doneAt := k.cyc + occ + 12, wf := wf,
        wp := r.p.map fun v => (d.pd, v), flags := r.c.flags, fault := fault,
        readsF := d.srcs.foldl (fun m x => m ||| (1#32 <<< x.r.toNat)) 0#32,
        writesF := if writes then 1#32 <<< d.fd.toNat else 0#32,
        writesP := if r.p.isSome ∧ d.pd ≠ 0#3 then 1#8 <<< d.pd.toNat else 0#8, streams := strm }
    let e : RingEnt :=
      { seq := k.seq, tid := tidOf s.iss.core s.iss.slot, st := 0, opc := slotOpc s.iss.raw, passes := 0, pc := s.vpc,
        snap0 := s.iss.raw.extractLsb' 16 64, snap1 := BitVec.ofNat 32 done ++ BitVec.ofNat 32 n, flags := 0 }
    { k.addRing e with seq := k.seq + 1, vec := ⟨some (k.cyc + occ), k.vec.ops ++ [op]⟩ }

/-- The streams of an operation break a rule of R180 or of its own entry. -/
def State.vecBad (s : State) (d : VDesc) : Bool :=
  d.bad || d.srcs.any s.srcBad || d.dst.any (s.dstBad d.fd)

/-- A late Vector-Stream fault of an operation that writes no element (R180). -/
def State.vecRefuse (s : State) (d : VDesc) : State :=
  s.enterVec d 0 0 ⟨[], ⟨0, s.cur.rseq⟩, none⟩ none (some (.vectorStream, 0, 0))

/-- What looking ahead on a write stream gives: something to wait for; or the number of elements that may be written before
one that may not, with its fault. -/
inductive Ahead where
  | blocked (s : State)
  | done (s : State) (cut : Option (Nat × (Cause × Word × Word)))

/-- Which of the next `n` elements of a write stream is the first that may not be written (R176, R180). -/
def State.writable (s : State) (c : Nat) (g : Gen) : Nat → Nat → Ahead
  | 0, _ => .done s none
  | n + 1, i =>
    match s.spot c g (g.pos + i) .write with
    | .blocked s => .blocked s
    | .bad s cause info => .done s (some (i, cause, g.addr (g.pos + i), elemInfo info (g.pos + i)))
    | .bank s _ | .home s _ _ => s.writable c g n (i + 1)

/-- The iterations performed before the failing one: an iteration that cannot write its element pops its operands and
performs nothing (R179, R180). -/
def cutRows (cut : Option (Nat × (Cause × Word × Word))) (rows : List (List (BitVec 32)))
    (fault : Option (Cause × Word × Word)) : List (List (BitVec 32)) × Option (Cause × Word × Word) :=
  match cut with
  | some (k, x) => if k < rows.length then (rows.take k, some x) else (rows, fault)
  | none => (rows, fault)

/-- The operation must wait for an access that some other agent holds up: it has done nothing yet, and is tried again at the
thread's next turn, or, as the V half of a pair, by itself (R181, log 66). -/
def State.vecWait (s s' : State) : State := (s.asked s').loseTurn

/-- Pop `n` rows, compute, and leave results and faults to the completion (R178 to R181). `f` gets the rows and whether
an element failed after them; `cut` names the first element that may not be written. -/
def State.vecRun (s : State) (d : VDesc) (n : Nat) (cut : Option (Nat × (Cause × Word × Word)))
    (f : List (List (BitVec 32)) → Bool → RC → VRes) : State :=
  match s.pullRows s.iss.core (match cut with | some x => min n (x.1 + 1) | none => n) (d.srcs.map s.opdOf) with
  | .blocked s' => s.vecWait s'
  | .rows s1 rows fault =>
    let x := cutRows cut rows fault
    let rows := x.1
    let fault := x.2
    let r := f rows fault.isSome ⟨0, s1.cur.rseq⟩
    let s1 := s1.modCur fun t => { t with rseq := r.c.rseq }
    match (if d.dst.isSome then s1.streamOf d.fd else none) with
    | some (i, _) =>
      match s1.pushAll s1.iss.core i s1.vpc s1.curCore.seq 0 r.out with
      | .blocked s' => s.vecWait s'
      | .done s1 k late =>
        let r := if d.tells then { r with p := some ((r.out.take k).any fun b => b != 0) } else r
        s1.enterVec d n rows.length r none (if late.isSome then late else fault)
    | none =>
      let wf := if d.wr then r.out.getLast?.map fun v => (d.fd, v.setWidth 64) else none
      s1.enterVec d n rows.length r wf fault

/-- Issue a V-operation: check its streams and fix n (R178, R180). -/
def State.vecIssue (s : State) (d : VDesc) (f : List (List (BitVec 32)) → Bool → RC → VRes) : State :=
  if s.vecBad d then s.vecRefuse d
  else
    let dst := if d.dst.isSome ∧ d.count then s.streamOf d.fd else none
    let n := leastOr1 (s.counts d.srcs ++ dst.toList.map (·.2.left))
    match dst with
    | some (_, g) =>
      if g.glob then
        match s.writable s.iss.core g n 0 with
        | .blocked s' => s.vecWait s'
        | .done s cut => s.vecRun d n cut f
      else s.vecRun d n none f
    | none => s.vecRun d n none f

/-- An operation with an exhausted stream performs no iteration and writes nothing (R176, R178). -/
def State.vecNothing (s : State) (d : VDesc) : State := s.enterVec d 0 0 ⟨[], ⟨0, s.cur.rseq⟩, none⟩ none none

/-- Issue a V-operation that reads one stream in units of `u` elements and writes another in units of `w`, until either
ends (R75, R76, R191): `f` gets the elements popped, how many FD takes, and whether one failed after them. A stream
that is missing or wrong is a late Vector-Stream fault (R77, R180). So is one that is bound rightly but not enabled, which
R77 does not list: DESIGN CHOICE (log 35). -/
def State.vecUnits (s : State) (d : VDesc) (u w : Nat) (most : Option Nat)
    (f : List Nat → Nat → Bool → RC → List (BitVec 32) × RC) : State :=
  match d.srcs with
  | x :: _ =>
    match s.streamOf x.r, s.streamOf d.fd with
    | some (_, a), some (_, b) =>
      if s.vecBad d then s.vecRefuse d
      else if a.left = 0 ∨ b.left = 0 then s.vecNothing d
      else
        let n := match most with
          | some k => min a.left k
          | none => min a.left (u * ((b.left + w - 1) / w))
        s.vecRun d n none fun rows bad c =>
          let r := f (rows.map fun r => (r.headD 0).toNat) b.left bad c
          ⟨r.1, r.2, none⟩
    | _, _ => s.vecRefuse d
  | [] => s.vecRefuse d

/-! ### Operations element by element (R179) -/

/-- The rounding mode of an operation (R66). -/
def State.rmode (s : State) (rnd : BitVec 3) : Nat := if rnd = 0#3 then s.cur.fpcr.toNat else rnd.toNat - 1

/-- Compute an element of every row, in order. -/
def mapRows (f : List Nat → RC → Nat × RC) : List (List (BitVec 32)) → RC → List (BitVec 32) × RC
  | [], c => ([], c)
  | r :: rs, c =>
    let v := f (r.map (·.toNat)) c
    let rest := mapRows f rs v.2
    (BitVec.ofNat 32 v.1 :: rest.1, rest.2)

/-- Elements a cycle (R181): 16 where an operand or result has 32 bits, else 32. -/
def rateOf (fmts : List Nat) : Nat := if fmts.any fun f => decide (16 < fmtBits f) then 16 else 32
/-- Ceil(n / r). -/
def ceilDiv (n r : Nat) : Nat := (n + r - 1) / r

/-- An operation of one result per element over the sources in format `fmt`. -/
def VDesc.plain (fd : BitVec 5) (fmt : Nat) (srcs : List Src) (slow : Bool) : VDesc :=
  { fd := fd, pd := 0, srcs := srcs, dst := some [fmt], wr := true, count := true, bad := false,
    base := fun n => ceilDiv (if slow then 4 * n else n) (rateOf [fmt]), extra := 0 }

/-- Sources FA, FB and FC in one format, with BC. -/
def src1 (fa : BitVec 5) (fmt : Nat) : List Src := [⟨fa, [fmt], false⟩]
def src2 (fa fb : BitVec 5) (fmt : Nat) (bc : BitVec 2) : List Src := [⟨fa, [fmt], false⟩, ⟨fb, [fmt], bc.getLsbD 0⟩]
def src3 (fa fb fc : BitVec 5) (fmt : Nat) (bc : BitVec 2) : List Src :=
  [⟨fa, [fmt], false⟩, ⟨fb, [fmt], bc.getLsbD 0⟩, ⟨fc, [fmt], bc.getLsbD 1⟩]

/-- Issue an operation of one result per element. -/
def State.vecMap (s : State) (d : VDesc) (f : List Nat → RC → Nat × RC) : State :=
  s.vecIssue d fun rows _ c => let r := mapRows f rows c; ⟨r.1, r.2, none⟩

/-- A floating operation of exact values, rounded once (R185). -/
def State.vecFlt (s : State) (fd : BitVec 5) (fmt : BitVec 4) (rnd : BitVec 3) (srcs : List Src) (slow : Bool)
    (f : Nat → List FVal → RC → FVal × RC) : State :=
  let m := s.rmode rnd
  let fm := fmt.toNat
  s.vecMap (VDesc.plain fd fm srcs slow) fun r c =>
    let x := f m (r.map (valueOf fm)) c
    roundTo fm m false x.1 x.2

/-- The operand `i` of a row of values. -/
def at' (l : List FVal) (i : Nat) : FVal := l.getD i .nan

/-- VADD (R185). -/
def execVadd (fd fa fb : BitVec 5) (fmt : BitVec 4) (rnd : BitVec 3) (bc : BitVec 2) (s : State) : Out :=
  .next (s.vecFlt fd fmt rnd (src2 fa fb fmt.toNat bc) false fun m l c => fAdd m (at' l 0) (at' l 1) c)
/-- VSUB (R185). -/
def execVsub (fd fa fb : BitVec 5) (fmt : BitVec 4) (rnd : BitVec 3) (bc : BitVec 2) (s : State) : Out :=
  .next (s.vecFlt fd fmt rnd (src2 fa fb fmt.toNat bc) false fun m l c => fAdd m (at' l 0) (at' l 1).negate c)
/-- VMUL (R185). -/
def execVmul (fd fa fb : BitVec 5) (fmt : BitVec 4) (rnd : BitVec 3) (bc : BitVec 2) (s : State) : Out :=
  .next (s.vecFlt fd fmt rnd (src2 fa fb fmt.toNat bc) false fun _ l c => fMul (at' l 0) (at' l 1) c)

/-- VFMA: the product negated when `np`, the addend when `nc`, one rounding (R185). -/
def State.vfma (s : State) (fd fa fb fc : BitVec 5) (fmt : BitVec 4) (rnd : BitVec 3) (bc : BitVec 2) (np nc : Bool) :
    State :=
  s.vecFlt fd fmt rnd (src3 fa fb fc fmt.toNat bc) false fun m l c =>
    fFma m (if np then (at' l 0).negate else at' l 0) (at' l 1) (if nc then (at' l 2).negate else at' l 2) c

/-- VFMA (R185). -/
def execVfma (fd fa fb fc : BitVec 5) (fmt : BitVec 4) (rnd : BitVec 3) (bc : BitVec 2) (s : State) : Out :=
  .next (s.vfma fd fa fb fc fmt rnd bc false false)
/-- VFMA.MS (R185). -/
def execVfmaMs (fd fa fb fc : BitVec 5) (fmt : BitVec 4) (rnd : BitVec 3) (bc : BitVec 2) (s : State) : Out :=
  .next (s.vfma fd fa fb fc fmt rnd bc false true)
/-- VFMA.NMA (R185). -/
def execVfmaNma (fd fa fb fc : BitVec 5) (fmt : BitVec 4) (rnd : BitVec 3) (bc : BitVec 2) (s : State) : Out :=
  .next (s.vfma fd fa fb fc fmt rnd bc true false)
/-- VFMA.NMS (R185). -/
def execVfmaNms (fd fa fb fc : BitVec 5) (fmt : BitVec 4) (rnd : BitVec 3) (bc : BitVec 2) (s : State) : Out :=
  .next (s.vfma fd fa fb fc fmt rnd bc true true)

/-- VDIV (R185, R186). -/
def execVdiv (fd fa fb : BitVec 5) (fmt : BitVec 4) (rnd : BitVec 3) (bc : BitVec 2) (s : State) : Out :=
  .next (s.vecFlt fd fmt rnd (src2 fa fb fmt.toNat bc) true fun _ l c => fDiv (at' l 0) (at' l 1) c)
/-- VSQRT (R185, R186). -/
def execVsqrt (fd fa : BitVec 5) (fmt : BitVec 4) (rnd : BitVec 3) (s : State) : Out :=
  .next (s.vecFlt fd fmt rnd (src1 fa fmt.toNat) true fun _ l c => fSqrt (at' l 0) c)

/-- VSCL.I (R185, R186). -/
def execVsclI (fd fa : BitVec 5) (fmt : BitVec 4) (rnd : BitVec 3) (imm : BitVec 32) (s : State) : Out :=
  .next (s.vecFlt fd fmt rnd (src1 fa fmt.toNat) false fun _ l c => (fScale (at' l 0) imm.toInt, c))
/-- VSCL.E (R185, R186): FB is a stream of E8M0. -/
def execVsclE (fd fa fb : BitVec 5) (fmt : BitVec 4) (rnd : BitVec 3) (bc : BitVec 2) (s : State) : Out :=
  let m := s.rmode rnd
  let fm := fmt.toNat
  .next (s.vecMap (VDesc.plain fd fm [⟨fa, [fm], false⟩, ⟨fb, [10], bc.getLsbD 0⟩] false) fun r c =>
    let e := r.getD 1 0 % 256
    if e = 255 then (canonNaN fm, c.or fIV) else roundTo fm m false (fScale (valueOf fm (r.getD 0 0)) ((e : Int) - 127)) c)

/-- A NaN becomes canonical; any other code stays (R185). -/
def canonCode (fmt code : Nat) : Nat :=
  if (fltParams fmt).isSome && (valueOf fmt code).isNaN then canonNaN fmt else code % 2 ^ fmtBits fmt

/-- The code of an exact value of the format (R185). -/
def exactCode (fmt : Nat) (x : FVal) : Nat := (roundTo fmt 0 false x ⟨0, 1⟩).1

/-- VMIN (R185). -/
def execVmin (fd fa fb : BitVec 5) (fmt : BitVec 4) (bc : BitVec 2) (s : State) : Out :=
  let fm := fmt.toNat
  .next (s.vecMap (VDesc.plain fd fm (src2 fa fb fm bc) false) fun r c =>
    (exactCode fm (fMinMax false (valueOf fm (r.getD 0 0)) (valueOf fm (r.getD 1 0))), c))
/-- VMAX (R185). -/
def execVmax (fd fa fb : BitVec 5) (fmt : BitVec 4) (bc : BitVec 2) (s : State) : Out :=
  let fm := fmt.toNat
  .next (s.vecMap (VDesc.plain fd fm (src2 fa fb fm bc) false) fun r c =>
    (exactCode fm (fMinMax true (valueOf fm (r.getD 0 0)) (valueOf fm (r.getD 1 0))), c))

/-- VSGN: a with the sign `f` of both signs; a NaN a gives the canonical NaN (R185). -/
def State.vsgn (s : State) (fd fa fb : BitVec 5) (fmt : BitVec 4) (bc : BitVec 2) (f : Bool → Bool → Bool) : State :=
  let fm := fmt.toNat
  let w := fmtBits fm
  s.vecMap (VDesc.plain fd fm (src2 fa fb fm bc) false) fun r c =>
    let a := r.getD 0 0
    let b := r.getD 1 0
    (if (valueOf fm a).isNaN then canonNaN fm
      else a % 2 ^ (w - 1) + signCode fm (f (a.testBit (w - 1)) (b.testBit (w - 1))), c)

/-- VSGN.CPY (R185). -/
def execVsgnCpy (fd fa fb : BitVec 5) (fmt : BitVec 4) (bc : BitVec 2) (s : State) : Out :=
  .next (s.vsgn fd fa fb fmt bc fun _ b => b)
/-- VSGN.NEG (R185). -/
def execVsgnNeg (fd fa fb : BitVec 5) (fmt : BitVec 4) (bc : BitVec 2) (s : State) : Out :=
  .next (s.vsgn fd fa fb fmt bc fun _ b => !b)
/-- VSGN.XOR (R185). -/
def execVsgnXor (fd fa fb : BitVec 5) (fmt : BitVec 4) (bc : BitVec 2) (s : State) : Out :=
  .next (s.vsgn fd fa fb fmt bc fun a b => a != b)

/-- VMOV (R185). -/
def execVmov (fd fa : BitVec 5) (fmt : BitVec 4) (s : State) : Out :=
  let fm := fmt.toNat
  .next (s.vecMap (VDesc.plain fd fm (src1 fa fm) false) fun r c => (canonCode fm (r.getD 0 0), c))
/-- VSEL (R185): the mask is a stream of INT8 or INT32. -/
def execVsel (fd fa fb fc : BitVec 5) (fmt : BitVec 4) (bc : BitVec 2) (s : State) : Out :=
  let fm := fmt.toNat
  .next (s.vecMap (VDesc.plain fd fm (src2 fa fb fm bc ++ [⟨fc, [6, 9], bc.getLsbD 1⟩]) false) fun r c =>
    (canonCode fm (if (r.getD 2 0).testBit 0 then r.getD 0 0 else r.getD 1 0), c))

/-! ### Compare and classify (R187) -/

/-- The predicate of VCMP. -/
def vcmpHolds (cc : Nat) (a b : FVal) : Bool :=
  if a.isNaN || b.isNaN then cc == 1 || cc == 6
  else
    let eq := fEq a b
    let lt := !eq && fLess a b
    match cc with
    | 0 => eq
    | 1 => !eq
    | 2 => lt
    | 3 => lt || eq
    | 4 => !(lt || eq)
    | 5 => !lt
    | 6 => false
    | _ => true

/-- VCMP (R187): with MSK it pushes 1 or 0 to FD, which must be an enabled write stream of INT8 or INT32. -/
def execVcmp (sub : BitVec 4) (fd fa fb : BitVec 5) (fmt : BitVec 4) (pd : BitVec 3) (bc : BitVec 2) (imm : BitVec 32)
    (s : State) : Out :=
  let fm := fmt.toNat
  let msk := imm.getLsbD 0
  let d : VDesc :=
    { VDesc.plain fd fm (src2 fa fb fm bc) false with
      pd := pd, dst := if msk then some [6, 9] else none, wr := false, bad := msk && (s.streamOf fd).isNone }
  .next (s.vecIssue d fun rows _ c =>
    let r := mapRows (fun r c => ((vcmpHolds sub.toNat (valueOf fm (r.getD 0 0)) (valueOf fm (r.getD 1 0))).toNat, c)) rows c
    ⟨r.1, r.2, some (r.1.any fun v => v != 0)⟩)

/-- The class of a value, as a bit number (R187). -/
def classBit (fmt code : Nat) : Nat :=
  match valueOf fmt code with
  | .nan => 8
  | .inf neg => if neg then 0 else 7
  | .fin v =>
    if v.m = 0 then (if v.neg then 3 else 4)
    else
      match fltParams fmt with
      | some (_, fb, _) => if v.m < 2 ^ fb then (if v.neg then 2 else 5) else (if v.neg then 1 else 6)
      | none => 6

/-- VCLS (R187). -/
def execVcls (fd fa : BitVec 5) (fmt : BitVec 4) (pd : BitVec 3) (imm : BitVec 32) (s : State) : Out :=
  let fm := fmt.toNat
  let d : VDesc := { VDesc.plain fd fm (src1 fa fm) false with pd := pd, dst := some [9] }
  .next (s.vecIssue d fun rows _ c =>
    let r := mapRows (fun r c => (2 ^ classBit fm (r.getD 0 0), c)) rows c
    ⟨r.1, r.2, if rows.isEmpty then none else some (r.1.any fun v => v &&& imm &&& 511#32 != 0)⟩)

/-! ### Reductions (R189) -/

/-- Combine two FP32 lanes, or a lane and an exact value: 0 sum, 1 minimum, 2 maximum (R189). -/
def redStep (op m : Nat) (lane : Nat) (x : FVal) (c : RC) : Nat × RC :=
  match op with
  | 0 => let r := fAdd m (valueOf 0 lane) x c; roundTo 0 m false r.1 r.2
  | 1 => (exactCode 0 (fMinMax false (valueOf 0 lane) x), c)
  | _ => (exactCode 0 (fMinMax true (valueOf 0 lane) x), c)

/-- Element `i` of each row goes to lane i mod 16. -/
def redRows (step : Nat → List Nat → RC → Nat × RC) : Nat → List (List (BitVec 32)) → List Nat → RC → List Nat × RC
  | _, [], lanes, c => (lanes, c)
  | i, r :: rs, lanes, c =>
    let v := step (lanes.getD (i % 16) 0) (r.map (·.toNat)) c
    redRows step (i + 1) rs (lanes.set (i % 16) v.1) v.2

/-- One level of the tree: neighbours combine in order. -/
def redLevel (op m : Nat) : List Nat → RC → List Nat × RC
  | a :: b :: rest, c =>
    let v := redStep op m a (valueOf 0 b) c
    let r := redLevel op m rest v.2
    (v.1 :: r.1, r.2)
  | l, c => (l, c)

/-- The tree 16, 8, 4, 2, 1. -/
def redTree (op m : Nat) : Nat → List Nat × RC → List Nat × RC
  | 0, l => l
  | n + 1, l => redTree op m n (redLevel op m l.1 l.2)

/-- The initial lane (R189). -/
def redInit (op : Nat) : Nat :=
  match op with
  | 0 => 0
  | 1 => 0x7F800000
  | _ => 0xFF800000

/-- Issue a reduction. -/
def State.reduce (s : State) (op : Nat) (fd : BitVec 5) (fmt : BitVec 4) (rnd : BitVec 3) (srcs : List Src) : State :=
  let m := s.rmode rnd
  let fm := fmt.toNat
  let d : VDesc := { VDesc.plain fd fm srcs false with dst := some [0], count := false, extra := 4 }
  s.vecIssue d fun rows _ c =>
    let step (lane : Nat) (r : List Nat) (c : RC) : Nat × RC :=
      match r with
      | [a, b] =>
        let l := fFma m (valueOf fm a) (valueOf fm b) (valueOf 0 lane) c
        roundTo 0 m false l.1 l.2
      | _ => redStep op m lane (valueOf fm (r.getD 0 0)) c
    let l := redTree op m 4 (redRows step 0 rows (List.replicate 16 (redInit op)) c)
    ⟨[BitVec.ofNat 32 (l.1.headD 0)], l.2, none⟩

/-- VRED.SUM (R189). -/
def execVredSum (fd fa : BitVec 5) (fmt : BitVec 4) (rnd : BitVec 3) (s : State) : Out :=
  .next (s.reduce 0 fd fmt rnd (src1 fa fmt.toNat))
/-- VRED.MIN (R189). -/
def execVredMin (fd fa : BitVec 5) (fmt : BitVec 4) (rnd : BitVec 3) (s : State) : Out :=
  .next (s.reduce 1 fd fmt rnd (src1 fa fmt.toNat))
/-- VRED.MAX (R189). -/
def execVredMax (fd fa : BitVec 5) (fmt : BitVec 4) (rnd : BitVec 3) (s : State) : Out :=
  .next (s.reduce 2 fd fmt rnd (src1 fa fmt.toNat))
/-- VDOT (R189). -/
def execVdot (fd fa fb : BitVec 5) (fmt : BitVec 4) (rnd : BitVec 3) (bc : BitVec 2) (s : State) : Out :=
  .next (s.reduce 0 fd fmt rnd (src2 fa fb fmt.toNat bc))

/-! ### Integer operations (R190) -/

/-- An integer operation of two elements of width w: `f` gets their signed values, `g` the codes. -/
def State.vint (s : State) (fd : BitVec 5) (fmt : BitVec 4) (srcs : List Src) (f : Nat → Nat → Nat → Int) : State :=
  let fm := fmt.toNat
  let w := fmtBits fm
  s.vecMap (VDesc.plain fd fm srcs false) fun r c =>
    ((f w (r.getD 0 0 % 2 ^ w) (r.getD 1 0 % 2 ^ w) % (2 ^ w : Int)).toNat, c)

/-- The signed value of a code of width w. -/
def sgn (w v : Nat) : Int := if v < 2 ^ (w - 1) then v else (v : Int) - 2 ^ w
/-- The signed range. -/
def satS (w : Nat) (v : Int) : Int := clampInt v (-(2 ^ (w - 1) : Int)) (2 ^ (w - 1) - 1)

/-- VIADD.ADD (R190). -/
def execViaddAdd (fd fa fb : BitVec 5) (fmt : BitVec 4) (bc : BitVec 2) (s : State) : Out :=
  .next (s.vint fd fmt (src2 fa fb fmt.toNat bc) fun w a b => sgn w a + sgn w b)
/-- VIADD.SUB (R190). -/
def execViaddSub (fd fa fb : BitVec 5) (fmt : BitVec 4) (bc : BitVec 2) (s : State) : Out :=
  .next (s.vint fd fmt (src2 fa fb fmt.toNat bc) fun w a b => sgn w a - sgn w b)
/-- VIADD.ADDS (R190). -/
def execViaddAdds (fd fa fb : BitVec 5) (fmt : BitVec 4) (bc : BitVec 2) (s : State) : Out :=
  .next (s.vint fd fmt (src2 fa fb fmt.toNat bc) fun w a b => satS w (sgn w a + sgn w b))
/-- VIADD.SUBS (R190). -/
def execViaddSubs (fd fa fb : BitVec 5) (fmt : BitVec 4) (bc : BitVec 2) (s : State) : Out :=
  .next (s.vint fd fmt (src2 fa fb fmt.toNat bc) fun w a b => satS w (sgn w a - sgn w b))
/-- VIADD.MIN (R190). -/
def execViaddMin (fd fa fb : BitVec 5) (fmt : BitVec 4) (bc : BitVec 2) (s : State) : Out :=
  .next (s.vint fd fmt (src2 fa fb fmt.toNat bc) fun w a b => min (sgn w a) (sgn w b))
/-- VIADD.MAX (R190). -/
def execViaddMax (fd fa fb : BitVec 5) (fmt : BitVec 4) (bc : BitVec 2) (s : State) : Out :=
  .next (s.vint fd fmt (src2 fa fb fmt.toNat bc) fun w a b => max (sgn w a) (sgn w b))
/-- VIADD.ABSD (R190). -/
def execViaddAbsd (fd fa fb : BitVec 5) (fmt : BitVec 4) (bc : BitVec 2) (s : State) : Out :=
  .next (s.vint fd fmt (src2 fa fb fmt.toNat bc) fun w a b => ((sgn w a - sgn w b).natAbs : Int))
/-- VIMUL.LO (R190). -/
def execVimulLo (fd fa fb : BitVec 5) (fmt : BitVec 4) (bc : BitVec 2) (s : State) : Out :=
  .next (s.vint fd fmt (src2 fa fb fmt.toNat bc) fun w a b => sgn w a * sgn w b)
/-- VIMUL.HI (R190). -/
def execVimulHi (fd fa fb : BitVec 5) (fmt : BitVec 4) (bc : BitVec 2) (s : State) : Out :=
  .next (s.vint fd fmt (src2 fa fb fmt.toNat bc) fun w a b => sgn w a * sgn w b / (2 ^ w : Int))
/-- VIMUL.HIU (R190). -/
def execVimulHiu (fd fa fb : BitVec 5) (fmt : BitVec 4) (bc : BitVec 2) (s : State) : Out :=
  .next (s.vint fd fmt (src2 fa fb fmt.toNat bc) fun w a b => ((a * b / 2 ^ w : Nat) : Int))
/-- VLOGIC.AND (R190). -/
def execVlogicAnd (fd fa fb : BitVec 5) (fmt : BitVec 4) (bc : BitVec 2) (s : State) : Out :=
  .next (s.vint fd fmt (src2 fa fb fmt.toNat bc) fun _ a b => ((a &&& b : Nat) : Int))
/-- VLOGIC.OR (R190). -/
def execVlogicOr (fd fa fb : BitVec 5) (fmt : BitVec 4) (bc : BitVec 2) (s : State) : Out :=
  .next (s.vint fd fmt (src2 fa fb fmt.toNat bc) fun _ a b => ((a ||| b : Nat) : Int))
/-- VLOGIC.XOR (R190). -/
def execVlogicXor (fd fa fb : BitVec 5) (fmt : BitVec 4) (bc : BitVec 2) (s : State) : Out :=
  .next (s.vint fd fmt (src2 fa fb fmt.toNat bc) fun _ a b => ((a ^^^ b : Nat) : Int))
/-- VLOGIC.ANDN (R190). -/
def execVlogicAndn (fd fa fb : BitVec 5) (fmt : BitVec 4) (bc : BitVec 2) (s : State) : Out :=
  .next (s.vint fd fmt (src2 fa fb fmt.toNat bc) fun w a b => ((a &&& (2 ^ w - 1 - b) : Nat) : Int))
/-- VLOGIC.NOT (R190). -/
def execVlogicNot (fd fa : BitVec 5) (fmt : BitVec 4) (s : State) : Out :=
  .next (s.vint fd fmt (src1 fa fmt.toNat) fun w a _ => ((2 ^ w - 1 - a : Nat) : Int))
/-- VSHF.SLL (R190). -/
def execVshfSll (fd fa fb : BitVec 5) (fmt : BitVec 4) (bc : BitVec 2) (s : State) : Out :=
  .next (s.vint fd fmt (src2 fa fb fmt.toNat bc) fun w a b => ((a * 2 ^ (b % w) : Nat) : Int))
/-- VSHF.SRL (R190). -/
def execVshfSrl (fd fa fb : BitVec 5) (fmt : BitVec 4) (bc : BitVec 2) (s : State) : Out :=
  .next (s.vint fd fmt (src2 fa fb fmt.toNat bc) fun w a b => ((a / 2 ^ (b % w) : Nat) : Int))
/-- VSHF.SRA (R190). -/
def execVshfSra (fd fa fb : BitVec 5) (fmt : BitVec 4) (bc : BitVec 2) (s : State) : Out :=
  .next (s.vint fd fmt (src2 fa fb fmt.toNat bc) fun w a b => sgn w a / (2 ^ (b % w) : Int))
/-- VSHF.ROT (R190): right. -/
def execVshfRot (fd fa fb : BitVec 5) (fmt : BitVec 4) (bc : BitVec 2) (s : State) : Out :=
  .next (s.vint fd fmt (src2 fa fb fmt.toNat bc) fun w a b =>
    ((a / 2 ^ (b % w) + a * 2 ^ (w - b % w) : Nat) : Int))

/-! ### Events of the engine (R181) -/

/-- The results of an operation reach its thread (R179, R61, R70). -/
def VecOp.land (o : VecOp) (t : Thread) : Thread :=
  let t := match o.wf with
    | some (r, v) => t.setF r v
    | none => t
  let t := match o.wp with
    | some (p, v) => t.setP p v
    | none => t
  t.orFlags o.flags

/-- VECTOR_OP_COMPLETE (R181): results, flags and faults of an operation. -/
def execVectorOpComplete (c : Nat) (seq : BitVec 16) (s : State) : Out :=
  .next (match (s.core c).vec.ops.find? fun o => o.seq == seq with
    | none => s
    | some o =>
      if (s.core c).cyc < o.doneAt then s
      else
        let s := s.modCore c fun k =>
          { k with vec := { k.vec with ops := k.vec.ops.filter fun x => x.seq != seq } }.setRing
            (fun e => e.seq == seq && e.opc != 0xD3#8 && e.opc != 0xD4#8)
            fun e => { e with st := if o.fault.isSome then 2 else 1 }
        let s := if (s.thread? c o.slot).any fun t => t.gen == o.gen then s.modThread c o.slot o.land else s
        match o.fault with
        | some (cause, addr, extra) => s.engineFault c o.slot o.gen cause seq (seq + 1) o.pc addr extra
        | none => s)

/-- VECTOR_STAGE_FREE (R181): the input stage frees. -/
def execVectorStageFree (c : Nat) (s : State) : Out :=
  .next (match (s.core c).vec.stage with
    | some u => if u ≤ (s.core c).cyc then s.modCore c fun k => { k with vec := { k.vec with stage := none } } else s
    | none => s)

end Sys2Proof.Machine
end

