-- ==== Sys2Proof/Machine/Convert.lean ====
section
/-! DEFINITION. Conversions, packing and plane transposes (R62, R63, R73 to R77, R191, R192). -/
namespace Sys2Proof.Machine

/-! ### One element -/

/-- CVT and CVTI of one element (R74): between identical formats the operand stays, a NaN made canonical; one that gives
E8M0 sets IV (R57, R72). -/
def convertElem (src dst mode : Nat) (sat : Bool) (code : Nat) (c : RC) : Nat × RC :=
  if src = dst ∧ (fltParams src).isSome then (canonCode src code, c)
  else if src = dst ∧ src = 10 then (code % 256, if code % 256 = 255 then c.or fIV else c)
  else roundTo dst mode sat (valueOf src code) c

/-- An operation of one source in format `a` and results in format `b`. -/
def cvtDesc (fd fa : BitVec 5) (a b : Nat) : VDesc :=
  { VDesc.plain fd b [⟨fa, [a], false⟩] false with base := fun n => ceilDiv n (rateOf [a, b]) }

/-- CVT and CVTI (R74). -/
def State.vecCvt (s : State) (sub : BitVec 4) (fd fa : BitVec 5) (fmt : BitVec 4) (rnd : BitVec 3) (imm : BitVec 32) : State :=
  let m := s.rmode rnd
  s.vecMap (cvtDesc fd fa sub.toNat fmt.toNat) fun r c => convertElem sub.toNat fmt.toNat m (imm.getLsbD 0) (r.getD 0 0) c

/-- CVT (R74). -/
def execCvt (sub : BitVec 4) (fd fa : BitVec 5) (fmt : BitVec 4) (rnd : BitVec 3) (imm : BitVec 32) (s : State) : Out :=
  .next (s.vecCvt sub fd fa fmt rnd imm)
/-- CVTI (R74). -/
def execCvti (sub : BitVec 4) (fd fa : BitVec 5) (fmt : BitVec 4) (rnd : BitVec 3) (imm : BitVec 32) (s : State) : Out :=
  .next (s.vecCvt sub fd fa fmt rnd imm)

/-! ### PACK (R75) -/

/-- A byte of two converted elements; the first converts first, and E2M1 always saturates. -/
def packByte (src dst mode : Nat) (sat : Bool) (a b : Nat) (c : RC) : Nat × RC :=
  let x := convertElem src dst mode (sat || dst == 5) a c
  let y := convertElem src dst mode (sat || dst == 5) b x.2
  (y.1 * 16 + x.1, y.2)

/-- PACK, register form (R75). -/
def execPack (sub : BitVec 4) (fd fa fb : BitVec 5) (fmt : BitVec 4) (rnd : BitVec 3) (imm : BitVec 32) (s : State) : Out :=
  let m := s.rmode rnd
  let a := sub.toNat
  let d : VDesc :=
    { VDesc.plain fd 6 [⟨fa, [a], false⟩, ⟨fb, [a], false⟩] false with
      base := fun n => ceilDiv n (rateOf [a, fmt.toNat]) }
  .next (s.vecMap d fun r c => packByte a fmt.toNat m (imm.getLsbD 0) (r.getD 0 0) (r.getD 1 0) c)

/-- The trial rounding of a small element of an OLI4 pair (R75). -/
def oliTrial (mode : Nat) (a : FVal) (c : RC) : Option Int × RC :=
  match a with
  | .fin v =>
    let r := roundInt mode v c
    (if -7 ≤ r.1 ∧ r.1 ≤ 7 then some r.1 else none, r.2)
  | _ => (none, c)

/-- Slot 1 of a pair whose slot 0 is small (R75). -/
def oliSlot1 (mode : Nat) (b : FVal) (c : RC) : Int × RC :=
  match b with
  | .nan => (0, c.or fIV)
  | .inf neg => (if neg then -7 else 7, c.or (fOF ||| fIX))
  | .fin v =>
    let r := roundInt mode v c
    let i := clampInt r.1 (-7) 7
    (i, if i = r.1 then r.2 else r.2.or (fOF ||| fIX))

/-- A pair of OLI4: its value byte and its companion nibble (R75). -/
def oliPair (mode : Nat) (a b : FVal) (c : RC) : Nat × Nat × RC :=
  let t := oliTrial mode a c
  let nib (i : Int) : Nat := (i % 16).toNat
  match t.1 with
  | some i =>
    let r := oliSlot1 mode b t.2
    (nib r.1 * 16 + nib i, 0, r.2)
  | none =>
    let o := roundTo 3 mode true a t.2
    (o.1 / 16 * 16 + 8, o.1 % 16, if b.isZero then o.2 else o.2.or fIX)

/-- The pairs of a group: value bytes and companion nibbles. -/
def oliPairs (src mode : Nat) : Nat → List Nat → RC → List Nat × List Nat × RC
  | 0, _, c => ([], [], c)
  | n + 1, l, c =>
    let p := oliPair mode (valueOf src (l.getD 0 0)) (valueOf src (l.getD 1 0)) c
    let r := oliPairs src mode n (l.drop 2) p.2.2
    (p.1 :: r.1, p.2.1 :: r.2.1, r.2.2)

/-- Two elements of a list become a byte, the first in the low nibble. -/
def nibbleBytes : List Nat → List Nat
  | a :: b :: rest => (b * 16 + a) :: nibbleBytes rest
  | [a] => [a]
  | [] => []

/-- A group of 24 bytes (R62). -/
def oliGroup (src mode : Nat) (l : List Nat) (c : RC) : List Nat × RC :=
  let r := oliPairs src mode 16 l c
  (r.1 ++ nibbleBytes r.2.1, r.2.2)

/-- Apply `f` to every unit of `u` elements; the last is short when the stream ended in it, and is dropped when an
element of it failed. -/
def overUnits (u : Nat) (f : List Nat → RC → List Nat × RC) (bad : Bool) : Nat → List Nat → RC → List Nat × RC
  | 0, _, c => ([], c)
  | n + 1, l, c =>
    if l.isEmpty || (bad && decide (l.length < u)) then ([], c)
    else
      let x := f (l.take u) c
      let r := overUnits u f bad n (l.drop u) x.2
      (x.1 ++ r.1, r.2)

/-- Elements as pushed. -/
def asElems (r : List Nat × RC) : List (BitVec 32) × RC := (r.1.map (BitVec.ofNat 32), r.2)

/-- The description of a stream form: FA and FD in the given formats. -/
def strmDesc (fd fa : BitVec 5) (a b : Nat) (fmts : List Nat) : VDesc :=
  { VDesc.plain fd b [⟨fa, [a], false⟩] false with wr := false, base := fun n => ceilDiv n (rateOf fmts) }

/-- PACK, stream form (R75, R77). Where a short destination cuts the last group of OLI4, all elements of the group are popped
still, and its flags are raised and its draws made: DESIGN CHOICE (log 67). -/
def execPackStrm (sub : BitVec 4) (fd fa : BitVec 5) (fmt : BitVec 4) (rnd : BitVec 3) (imm : BitVec 32) (s : State) : Out :=
  let m := s.rmode rnd
  let a := sub.toNat
  let d := strmDesc fd fa a 6 [a, fmt.toNat]
  .next (if fmt = 8#4 then
      s.vecUnits d 32 24 none fun l _ bad c => asElems (overUnits 32 (oliGroup a m) bad l.length l c)
    else
      s.vecUnits d 2 1 none fun l _ bad c =>
        asElems (overUnits 2 (fun l c =>
          let r := packByte a fmt.toNat m (imm.getLsbD 0) (l.getD 0 0) (l.getD 1 0) c
          ([r.1], r.2)) bad l.length l c))

/-! ### UNPK (R76) -/

/-- One element of a pair. -/
def unpkNibble (src dst mode : Nat) (sat hi : Bool) (b : Nat) (c : RC) : Nat × RC :=
  roundTo dst mode sat (valueOf src (if hi then b / 16 else b % 16)) c

/-- UNPK, register form. -/
def State.vecUnpk (s : State) (sub : BitVec 4) (fd fa : BitVec 5) (fmt : BitVec 4) (rnd : BitVec 3) (imm : BitVec 32)
    (hi : Bool) : State :=
  let m := s.rmode rnd
  s.vecMap (cvtDesc fd fa 6 fmt.toNat) fun r c =>
    unpkNibble sub.toNat fmt.toNat m (imm.getLsbD 0) hi (r.getD 0 0 % 256) c

/-- UNPK (R76). -/
def execUnpk (sub : BitVec 4) (fd fa : BitVec 5) (fmt : BitVec 4) (rnd : BitVec 3) (imm : BitVec 32) (s : State) : Out :=
  .next (s.vecUnpk sub fd fa fmt rnd imm false)
/-- UNPK.HI (R76). -/
def execUnpkHi (sub : BitVec 4) (fd fa : BitVec 5) (fmt : BitVec 4) (rnd : BitVec 3) (imm : BitVec 32) (s : State) : Out :=
  .next (s.vecUnpk sub fd fa fmt rnd imm true)

/-- The two values of pair `j` of an OLI4 group, and the invalid flag of an orphan marker (R63). -/
def oliValues (g : List Nat) (j : Nat) : FVal × FVal × BitVec 5 :=
  let b := g.getD j 0 % 256
  let lo := b % 16
  let hi := b / 16
  let comp := g.getD (16 + j / 2) 0 / 16 ^ (j % 2) % 16
  if lo = 8 then (valueOf 3 (hi * 16 + comp), .zero false, 0)
  else if hi = 8 then (valueOf 7 lo, .zero false, fIV)
  else (valueOf 7 lo, valueOf 7 hi, 0)

/-- The values of a group of 24 bytes, in element order. -/
def oliDecode (g : List Nat) (c : RC) : List FVal × RC :=
  let ps := (List.range 16).map (oliValues g)
  ((ps.map fun p => [p.1, p.2.1]).flatten, c.or (ps.foldl (fun f p => f ||| p.2.2) 0))

/-- Values of every unit of `u` bytes. -/
def unitValues (u : Nat) (f : List Nat → RC → List FVal × RC) (bad : Bool) : Nat → List Nat → RC → List FVal × RC
  | 0, _, c => ([], c)
  | n + 1, l, c =>
    if l.isEmpty || (bad && decide (l.length < u)) then ([], c)
    else
      let x := f (l.take u) c
      let r := unitValues u f bad n (l.drop u) x.2
      (x.1 ++ r.1, r.2)

/-- Round values in order. -/
def roundAll (dst mode : Nat) (sat : Bool) : List FVal → RC → List Nat × RC
  | [], c => ([], c)
  | v :: vs, c =>
    let x := roundTo dst mode sat v c
    let r := roundAll dst mode sat vs x.2
    (x.1 :: r.1, r.2)

/-- UNPK, stream form (R76, R77). -/
def execUnpkStrm (sub : BitVec 4) (fd fa : BitVec 5) (fmt : BitVec 4) (rnd : BitVec 3) (imm : BitVec 32) (s : State) : Out :=
  let m := s.rmode rnd
  let a := sub.toNat
  let u := if sub = 8#4 then 24 else 1
  let per := if sub = 8#4 then 32 else 2
  let vals : List Nat → RC → List FVal × RC := fun l c =>
    if sub = 8#4 then oliDecode l c
    else (([l.headD 0 % 16, l.headD 0 / 16 % 16]).map (valueOf a), c)
  let d := { strmDesc fd fa 6 fmt.toNat [a, fmt.toNat] with base := fun n => ceilDiv ((n + u - 1) / u * per) (rateOf [a, fmt.toNat]) }
  .next (s.vecUnits d u per none fun l room bad c =>
    let v := unitValues u vals bad l.length l c
    asElems (roundAll fmt.toNat m (imm.getLsbD 0) (v.1.take room) v.2))

/-! ### Plane transposes (R191, R192) -/

/-- The element width of a plane format. -/
def planeWidth (fmt : Nat) : Nat :=
  match fmt with
  | 1 => 16
  | 2 => 16
  | 5 => 4
  | 7 => 4
  | _ => 8

/-- A number from bits, bit 0 first. -/
def ofBits : List Bool → Nat
  | [] => 0
  | b :: bs => b.toNat + 2 * ofBits bs

/-- The planes of 1,024 codes of width `w`: byte 8m + k div 8 of plane j holds bit j of elements k to k + 7 of row m. -/
def planeBytes (w : Nat) (codes : List Nat) : List Nat :=
  (List.range w).flatMap fun j => (List.range 128).map fun b =>
    ofBits (((codes.drop (8 * b)).take 8).map fun c => c.testBit j)

/-- The 1,024 codes of `w` planes. -/
def planeCodes (w : Nat) (bytes : List Nat) : List Nat :=
  (List.range 1024).map fun e =>
    ofBits ((List.range w).map fun j => (bytes.getD (128 * j + e / 8) 0).testBit (e % 8))

/-- The nibbles of bytes, the low one first (R60). -/
def nibbles (l : List Nat) : List Nat := l.flatMap fun b => [b % 16, b / 16 % 16]

/-- The stream format and length that carry a tile of `fmt`. -/
def tileFmt (fmt : Nat) : Nat := if planeWidth fmt = 4 then 6 else fmt
def tileLen (fmt : Nat) : Nat := if planeWidth fmt = 4 then 512 else 1024

/-- Zero codes after the end of a short stream. -/
def padTo (n : Nat) (l : List Nat) : List Nat := l ++ List.replicate (n - l.length) 0

/-- Issue a transpose: it pushes nothing when an element it pops fails (R180). -/
def State.vecTile (s : State) (fd fa : BitVec 5) (a b n : Nat) (f : List Nat → List Nat) : State :=
  s.vecUnits { strmDesc fd fa a b [a] with base := fun _ => 64 } 1 1 (some n) fun l _ bad c =>
    asElems (if bad then [] else f (padTo n l), c)

/-- PLANE (R191). -/
def execPlane (fd fa : BitVec 5) (fmt : BitVec 4) (s : State) : Out :=
  let fm := fmt.toNat
  let w := planeWidth fm
  .next (s.vecTile fd fa (tileFmt fm) 6 (tileLen fm) fun l => planeBytes w (if w = 4 then nibbles l else l))
/-- UNPLANE (R192). -/
def execUnplane (fd fa : BitVec 5) (fmt : BitVec 4) (s : State) : Out :=
  let fm := fmt.toNat
  let w := planeWidth fm
  .next (s.vecTile fd fa 6 (tileFmt fm) (w * 128) fun l =>
    let codes := planeCodes w l
    if w = 4 then nibbleBytes codes else codes)

end Sys2Proof.Machine
end

