-- ==== Sys2Proof/Machine/Local.lean ====
section
/-! DEFINITION. Full/empty words of local memory: WAITF, FILL and EMPTY (R167 to R170). -/
namespace Sys2Proof.Machine

/-- The bank word of a full/empty access: alignment, then the window (R167). An address outside the window lies outside
the region (R161). -/
def State.bankWord (s : State) (ea : Word) (k : State → Nat → State) : State :=
  if !alignedTo ea 8 then s.takeTrap .alignment ea 0
  else if inWindow ea then s.window ea 8 fun s a => if s.bankHeld then s.loseTurn else k s a
  else s.protTrap ea

/-- WAITF and WAITF.E (R168): a full word is delivered, and taken when `take`; on an empty one the thread stands on the
word's wait list, and a handler traps (R126). -/
def State.waitFull (s : State) (ea : Word) (d : BitVec 6) (take : Bool) : State :=
  s.bankWord ea fun s a =>
    if s.curCore.full.contains (a / 8) then
      if s.localPoison s.iss.core a 8 then s.takeTrap .poison ea 0
      else
        let v := BitVec.ofNat 64 (s.localRead s.iss.core a 8)
        (s.modCurCore fun k => if take then k.setFull a false else k).wx d v
    else if s.iss.slot = 14 then s.takeTrap .handlerBlock 0 0
    else s.park (.word a take d)

/-- WAITF (R168). -/
def execWaitf (d base idx : BitVec 6) (scl : BitVec 2) (_size : BitVec 3) (off : BitVec 48) (s : State) : Out :=
  .next (s.waitFull (eaOf s.cur base idx scl off) d false)
/-- WAITF.E (R168). -/
def execWaitfE (d base idx : BitVec 6) (scl : BitVec 2) (_size : BitVec 3) (off : BitVec 48) (s : State) : Out :=
  .next (s.waitFull (eaOf s.cur base idx scl off) d true)
/-- FILL (R168, R170): a release at core scope. While requests of the thread that it must follow are under way it is held at
its bank, and the thread goes on (R273). -/
def execFill (d base idx : BitVec 6) (scl : BitVec 2) (_size : BitVec 3) (off : BitVec 48) (s : State) : Out :=
  .next (s.bankWord (eaOf s.cur base idx scl off) fun s a =>
    if s.curOutstanding = [] then s.fillWord s.iss.core a (s.rx d)
    else s.modCurCore fun k => { k with fill := some ⟨s.cur.launch, a, s.rx d, s.curOutstanding⟩ })
/-- EMPTY (R168). -/
def execEmpty (base idx : BitVec 6) (scl : BitVec 2) (_size : BitVec 3) (off : BitVec 48) (s : State) : Out :=
  .next (s.bankWord (eaOf s.cur base idx scl off) fun s a => s.modCurCore fun k => k.setFull a false)

end Sys2Proof.Machine
end

