-- ==== Sys2Proof/Machine/CubeMath.lean ====
section
/-! DEFINITION. What the cube computes: operand tiles in local memory, the face stage, slab sums, lane additions,
promotion, and accumulator columns (R193 to R204, R215, R221 to R228). -/
namespace Sys2Proof.Machine

/-! ### Formats and extents (R194, R196, R211) -/

/-- A field of CUBECFG (R216). -/
def cfgField (cfg : BitVec 43) (lo n : Nat) : Nat := (cfg.extractLsb' lo n).toNat
def cfgA (cfg : BitVec 43) : Nat := cfgField cfg 0 4
def cfgB (cfg : BitVec 43) : Nat := cfgField cfg 4 4
def cfgG (cfg : BitVec 43) : Nat := cfgField cfg 8 4
def cfgGmode (cfg : BitVec 43) : Nat := cfgField cfg 12 3
def cfgK1 (cfg : BitVec 43) : Nat := cfgField cfg 16 6
def cfgBlk (cfg : BitVec 43) : Bool := cfg.getLsbD 24
def cfgPint (cfg : BitVec 43) : Nat := cfgField cfg 32 7
def cfgIsat (cfg : BitVec 43) : Bool := cfg.getLsbD 40
def cfgSmdTrap (cfg : BitVec 43) : Bool := cfg.getLsbD 41
def cfgScmTrap (cfg : BitVec 43) : Bool := cfg.getLsbD 42
/-- AFMT names an integer mode (R225). -/
def cfgInt (cfg : BitVec 43) : Bool := cfgA cfg == 6 || cfgA cfg == 7

/-- Plane steps of a pass by AFMT (R194). -/
def planeSteps (a : Nat) : Nat :=
  match a with
  | 1 => 11
  | 2 => 8
  | 3 => 4
  | 4 => 3
  | 5 => 2
  | 6 => 8
  | _ => 4

/-- Planes of an A tile (R196). -/
def aPlanes (a : Nat) : Nat := if a = 8 then 9 else planeWidth a

/-- Twice the bytes of an element. -/
def halfBytes (f : Nat) : Nat := planeWidth f / 4

/-- Rows of B, and rows of G in Khatri-Rao mode (R198, R200). -/
def rowsB (cfg : BitVec 43) : Nat := if cfgGmode cfg = 4 then cfgK1 cfg else 64
def rowsG (cfg : BitVec 43) : Nat := if cfgGmode cfg = 4 then 64 / cfgK1 cfg else 64
/-- Bytes of a B panel and of a G panel (R198, R199). -/
def panelB (cfg : BitVec 43) : Nat := 8 * rowsB cfg * halfBytes (cfgB cfg)
def panelG (cfg : BitVec 43) : Nat := 8 * rowsG cfg * halfBytes (cfgG cfg)
/-- The extent of the A tile (R211). -/
def extentA (cfg : BitVec 43) (spa : Bool) : Nat := if spa then 64 * aPlanes (cfgA cfg) + 128 else 128 * aPlanes (cfgA cfg)
/-- The extent of the G tile of P panels (R211). -/
def extentG (cfg : BitVec 43) (p : Nat) : Nat :=
  match cfgGmode cfg with
  | 0 => 0
  | 1 => 512 * halfBytes (cfgG cfg)
  | 3 => 32 * halfBytes (cfgG cfg)
  | _ => p * panelG cfg
/-- The extent of the B tile of P panels (R211). -/
def extentB (cfg : BitVec 43) (spa : Bool) (p : Nat) : Nat := p * panelB cfg + if spa then 128 else 0

/-! ### Operands (R196 to R204) -/

/-- The codes of `n` elements of a format in memory order (R198, R60). -/
def codesOf (fmt : Nat) (bytes : List Byte) : List Nat :=
  match planeWidth fmt with
  | 16 => (List.range (bytes.length / 2)).map fun i => (bytes.getD (2 * i) 0).toNat + 256 * (bytes.getD (2 * i + 1) 0).toNat
  | 4 => nibbles (bytes.map (·.toNat))
  | _ => bytes.map (·.toNat)

/-- The value of an element of an A tile: OLI4 elements are decoded as R197 states. -/
def aValue (fmt code : Nat) : FVal :=
  if fmt = 8 then
    let x := code / 32 % 16
    if x = 0 then .nan else .fin ⟨code.testBit 4, code % 16, (x : Int) - 10, false⟩
  else valueOf fmt code

/-- A dense A tile, row by row (R196). -/
def denseA (fmt : Nat) (bytes : List Byte) : List (List (Option FVal)) :=
  let codes := planeCodes (aPlanes fmt) (bytes.map (·.toNat))
  (List.range 16).map fun m => ((codes.drop (64 * m)).take 64).map fun c => some (aValue fmt c)

/-- The 512 kept codes of a sparse tile (R201). -/
def keptCodes (w : Nat) (bytes : List Nat) : List Nat :=
  (List.range 512).map fun t => ofBits ((List.range w).map fun j => (bytes.getD (64 * j + t / 8) 0).testBit (t % 8))

/-- The four positions of a group: kept values at idx0 and idx1, the second ignored where they are one (R202). -/
def groupSlots (i0 i1 : Nat) (a b : FVal) : List (Option FVal) :=
  (List.range 4).map fun i => if i = i0 then some a else if i = i1 then some b else none

/-- A sparse A tile, row by row, and whether a group is illegal (R201, R202). -/
def sparseA (fmt : Nat) (bytes : List Byte) : List (List (Option FVal)) × Bool :=
  let w := aPlanes fmt
  let bs := bytes.map (·.toNat)
  let kept := keptCodes w bs
  let idx := nibbles (bs.drop (64 * w))
  let row (m : Nat) : List (Option FVal) := (List.range 16).flatMap fun h =>
    let g := 16 * m + h
    let n := idx.getD g 0
    groupSlots (n % 4) (n / 4) (aValue fmt (kept.getD (2 * g) 0)) (aValue fmt (kept.getD (2 * g + 1) 0))
  ((List.range 16).map row, (idx.take 256).any fun n => n % 4 == n / 4)

/-- FaceRound (R221): a NaN pre-product stays NaN in every format. -/
def faceRound (fmt : Nat) (x y : FVal) : FVal :=
  let p := (fMul x y ⟨0, 1⟩).1
  if p.isNaN then .nan else valueOf fmt (roundTo fmt 0 false p ⟨0, 1⟩).1

/-- The A face (R199, R221): G[m,k] in mode 1, G[k] in mode 3. -/
def faceA (cfg : BitVec 43) (a : List (List (Option FVal))) (g : List Byte) : List (List (Option FVal)) :=
  let gv := (codesOf (cfgG cfg) g).map (valueOf (cfgG cfg))
  let f := faceRound (cfgA cfg)
  match cfgGmode cfg with
  | 1 => (List.range 16).map fun m => ((a.getD m []).zip ((gv.drop (64 * m)).take 64)).map fun x => x.1.map fun v => f v x.2
  | 3 => a.map fun r => (r.zip gv).map fun x => x.1.map fun v => f v x.2
  | _ => a

/-- The B face of a panel, one list of 64 values per column (R198 to R200, R221). -/
def faceB (cfg : BitVec 43) (b g : List Byte) : List (List FVal) :=
  let bv := (codesOf (cfgB cfg) b).map (valueOf (cfgB cfg))
  let gv := (codesOf (cfgG cfg) g).map (valueOf (cfgG cfg))
  let f := faceRound (cfgB cfg)
  let k2 := rowsG cfg
  (List.range 16).map fun c => (List.range 64).map fun k =>
    match cfgGmode cfg with
    | 2 => f (bv.getD (16 * k + c) .nan) (gv.getD (16 * k + c) .nan)
    | 4 => f (bv.getD (16 * (k / k2) + c) .nan) (gv.getD (16 * (k % k2) + c) .nan)
    | _ => bv.getD (16 * k + c) .nan

/-! ### The cell stage (R222, R223, R225) -/

/-- The products of a lane: where A holds no value, a flagged block supplies +0 (R202, R204). -/
def laneProducts : List (Option FVal) → List FVal → List Bool → List FVal
  | a :: as, b :: bs, fl :: fs =>
    match a with
    | some v => (fMul v b ⟨0, 1⟩).1 :: laneProducts as bs fs
    | none => if fl then (fMul (.zero false) b ⟨0, 1⟩).1 :: laneProducts as bs fs else laneProducts as bs fs
  | _, _, _ => []

/-- SlabSum (R222): the FP26 code, and whether a finite sum overflowed. -/
def slabSum (ps : List FVal) : Nat × Bool :=
  if ps.any FVal.isNaN then (canonNaN 11, false)
  else
    let pinf := ps.any fun p => p == .inf false
    let ninf := ps.any fun p => p == .inf true
    if pinf && ninf then (canonNaN 11, false)
    else if pinf || ninf then (signCode 11 ninf + infCode 11, false)
    else
      let vs := ps.filterMap fun p => match p with
        | .fin v => if v.m = 0 then none else some v
        | _ => none
      match vs with
      | [] => (signCode 11 (ps.all FVal.isNeg), false)
      | v :: rest =>
        let e := rest.foldl (fun e p => max e p.log2) v.log2
        let u := e - 47
        let term (p : Dy) : Int :=
          let q : Nat := if u ≤ p.e then p.m * 2 ^ (p.e - u).toNat else p.m / 2 ^ (u - p.e).toNat
          if p.neg then -(q : Int) else q
        let t := vs.foldl (fun t p => t + term p) 0
        if t = 0 then (0, false)
        else
          let r := roundFlt 11 0 false (.fin ⟨decide (t < 0), t.natAbs, u, false⟩) ⟨0, 1⟩
          (r.1, r.2.flags.getLsbD 2)

/-- A sum of two values rounded to a format with RNE, and whether a finite one overflowed. -/
def cubeAdd (fmt : Nat) (x y : FVal) : Nat × Bool :=
  let s := fAdd 0 x y ⟨0, 1⟩
  let r := roundFlt fmt 0 false s.1 ⟨0, 1⟩
  (r.1, r.2.flags.getLsbD 2)

/-- The exact integer slab sum (R225). -/
def intSum (ps : List FVal) : Int :=
  ps.foldl (fun t p => match p with
    | .fin v => t + v.units 0
    | _ => t) 0

/-! ### Accumulator columns (R215) -/

/-- A word of a lane at row m and column c; an unlisted word is zero. -/
def laneGet (l : List (Nat × BitVec 32)) (m c : Nat) : Nat := ((lookup l (512 * m + c)).getD 0).toNat
/-- Write a word of a lane. -/
def lanePut (l : List (Nat × BitVec 32)) (m c v : Nat) : List (Nat × BitVec 32) :=
  let w := BitVec.ofNat 32 v
  if w = 0#32 then eraseKey l (512 * m + c) else insertKey l (512 * m + c) w
def cntGet (l : List (Nat × BitVec 7)) (c : Nat) : Nat := ((lookup l c).getD 0).toNat
def cntPut (l : List (Nat × BitVec 7)) (c v : Nat) : List (Nat × BitVec 7) :=
  let w := BitVec.ofNat 7 v
  if w = 0#7 then eraseKey l c else insertKey l c w

/-- Write lane 0, lane 1 and ACC of one element. -/
def Cube.put (k : Cube) (m c l0 l1 acc : Nat) : Cube :=
  { k with l0 := lanePut k.l0 m c l0, l1 := lanePut k.l1 m c l1, acc := lanePut k.acc m c acc }

/-- Clear columns c to c + n - 1: L0, L1, ACC and CNT (R228). -/
def Cube.clear (k : Cube) (c n : Nat) : Cube :=
  let out (i : Nat) : Bool := decide (c ≤ i ∧ i < c + n)
  { k with
    l0 := k.l0.filter fun e => !out (e.1 % 512)
    l1 := k.l1.filter fun e => !out (e.1 % 512)
    acc := k.acc.filter fun e => !out (e.1 % 512)
    cnt := k.cnt.filter fun e => !out e.1 }

/-! ### The end of a pass (R223 to R225) -/

/-- One element of a column: A's row m against a column of B, the lanes as R222 divides them. `fl` tells whether each
of the two blocks is flagged. -/
def cellStep (cfg : BitVec 43) (row : List (Option FVal)) (col : List FVal) (fl : Bool × Bool) (x : Cube × BitVec 4)
    (m c : Nat) : Cube × BitVec 4 :=
  let fs := List.replicate 32 fl.1 ++ List.replicate 32 fl.2
  let k := x.1
  let l0 := laneGet k.l0 m c
  let l1 := laneGet k.l1 m c
  let acc := laneGet k.acc m c
  if cfgInt cfg then
    let v := (BitVec.ofNat 32 l0).toInt + intSum (laneProducts row col fs)
    let w := clampInt v (-(2 ^ 31)) (2 ^ 31 - 1)
    if cfgIsat cfg then (k.put m c (BitVec.ofInt 32 w).toNat l1 acc, if v = w then x.2 else x.2 ||| 2#4)
    else (k.put m c (BitVec.ofInt 32 v).toNat l1 acc, x.2)
  else
    let lane (old : Nat) (n o : Nat) : Nat × Bool :=
      let s := slabSum (laneProducts ((row.drop o).take n) ((col.drop o).take n) ((fs.drop o).take n))
      let r := cubeAdd 11 (valueOf 11 old) (valueOf 11 s.1)
      (r.1, s.2 || r.2)
    if cfgBlk cfg then
      let a := lane l0 32 0
      let b := lane l1 32 32
      (k.put m c a.1 b.1 acc, if a.2 || b.2 then x.2 ||| 1#4 else x.2)
    else
      let a := lane l0 64 0
      (k.put m c a.1 l1 acc, if a.2 then x.2 ||| 1#4 else x.2)

/-- Automatic promotion of a column (R224). -/
def promote (cfg : BitVec 43) (c : Nat) (x : Cube × BitVec 4) : Cube × BitVec 4 :=
  if cfgInt cfg || cfgBlk cfg then x
  else
    let n := min 127 (cntGet x.1.cnt c + 1)
    if n < cfgPint cfg then ({ x.1 with cnt := cntPut x.1.cnt c n }, x.2)
    else
      let one (x : Cube × BitVec 4) (m : Nat) : Cube × BitVec 4 :=
        let r := cubeAdd 0 (valueOf 0 (laneGet x.1.acc m c)) (valueOf 11 (laneGet x.1.l0 m c))
        ({ x.1 with l0 := lanePut x.1.l0 m c 0, acc := lanePut x.1.acc m c r.1 }, if r.2 then x.2 ||| 1#4 else x.2)
      let y := (List.range 16).foldl one x
      ({ y.1 with cnt := cntPut y.1.cnt c 0 }, y.2)

/-- The 16 columns of a pass from column `c0` on (R223). -/
def passStep (cfg : BitVec 43) (a : List (List (Option FVal))) (b : List (List FVal)) (flags : Nat) (c0 : Nat)
    (x : Cube × BitVec 4) : Cube × BitVec 4 :=
  (List.range 16).foldl (fun x c =>
    let fl := (flags.testBit (2 * c), flags.testBit (2 * c + 1))
    let y := (List.range 16).foldl (fun x m => cellStep cfg (a.getD m []) (b.getD c []) fl x m (c0 + c)) x
    promote cfg (c0 + c) y) x

/-! ### CPROM (R226, R227) -/

/-- The scales of row m and column j: lane 0 and lane 1, from sA and sB (R227). -/
def promScales (nsc : Nat) (sa sb : List Byte) (m j : Nat) : (Nat × Nat) × (Nat × Nat) :=
  let g (l : List Byte) (i : Nat) : Nat := (l.getD i 0).toNat
  match nsc with
  | 0 => ((127, 127), (127, 127))
  | 1 => ((g sa m, g sb j), (127, 127))
  | _ => ((g sa (2 * m), g sb (2 * j)), (g sa (2 * m + 1), g sb (2 * j + 1)))

/-- ACC plus a scaled lane, one rounding (R226). -/
def promTerm (acc lane : Nat) (sc : Nat × Nat) : Nat × Bool :=
  let x := if sc.1 = 255 ∨ sc.2 = 255 then FVal.nan
    else fScale (valueOf 11 lane) ((sc.1 : Int) + sc.2 - 254)
  cubeAdd 0 (valueOf 0 acc) x

/-- CPROM of columns `acb` to `acb` + n - 1 (R226): the columns and OVF. -/
def promColumns (blk : Bool) (nsc : Nat) (sa sb : List Byte) (acb n : Nat) (x : Cube × BitVec 4) : Cube × BitVec 4 :=
  let one (x : Cube × BitVec 4) (m j : Nat) : Cube × BitVec 4 :=
    let c := acb + j
    let sc := promScales nsc sa sb m j
    let r := promTerm (laneGet x.1.acc m c) (laneGet x.1.l0 m c) sc.1
    let r2 := if blk then promTerm r.1 (laneGet x.1.l1 m c) sc.2 else (r.1, false)
    (x.1.put m c 0 0 r2.1, if r.2 || r2.2 then x.2 ||| 1#4 else x.2)
  let y := (List.range 16).foldl (fun x m => (List.range n).foldl (fun x j => one x m j) x) x
  ((List.range n).foldl (fun k j => { k with cnt := cntPut k.cnt (acb + j) 0 }) y.1, y.2)

/-- NSC and BLK do not match (R227). -/
def scaleMismatch (blk : Bool) (nsc : Nat) : Bool := if blk then nsc == 1 else nsc == 2

end Sys2Proof.Machine
end

