-- ==== Sys2Proof/Machine/Cube.lean ====
section
/-! DEFINITION. The cube array: claiming, configuration, the queue, accumulator images, the ring and retries, and the
events of the array (R195, R210 to R220, R226 to R233, R338, R346, R347). -/
namespace Sys2Proof.Machine

/-! ### Ownership and pending commands (R213, R214, R219, R220) -/

/-- The issuing thread owns the cube. -/
def State.ownsCube (s : State) : Bool := s.curCore.cube.owner == some s.iss.slot && !s.curCore.cube.leaving
/-- Run `k` when the issuing thread owns the cube, or stands in slot 15 where `sup` allows it (R214). -/
def State.needCube (s : State) (sup : Bool) (k : State → State) : State :=
  if s.ownsCube || (sup && s.iss.slot == 15) then k s else s.takeTrap .cubeOwner 0 0

/-- The Cube-Shape trap of a row (R210, R334). -/
def State.shapeTrap (s : State) (row : Nat) : State := s.takeTrap .cubeShape 0 (BitVec.ofNat 64 row)

/-- Rows 1 and 2 of R210. -/
def rows12 (n acb : Nat) : Option Nat :=
  if n % 16 ≠ 0 ∨ n < 16 ∨ 512 < n then some 1 else if 512 < acb + n then some 2 else none

/-- Run `k` when rows 1 and 2 hold. -/
def State.needRows (s : State) (n acb : Nat) (k : State → State) : State :=
  match rows12 n acb with
  | some r => s.shapeTrap r
  | none => k s

/-- Run `k` once every queued command has completed; the turn is lost until then (R216, R228 to R230, R233). -/
def State.whenIdle (s : State) (k : State → State) : State := if s.curCore.cube.idle then k s else s.loseTurn

/-! ### Claiming, configuration and status (R216, R230, R231) -/

/-- CCLAIM (R214, R230). -/
def execCclaim (xd : BitVec 6) (s : State) : Out :=
  let pd := xd.setWidth 3
  .next (if s.iss.slot == 14 || !s.curLaunch.hdr.cube then s.takeTrap .cubeOwner 0 0
    else if s.curCore.cube.owner.isSome && !s.ownsCube then s.wp pd false
    else (s.modCube s.iss.core fun k => { k with owner := some s.iss.slot }).wp pd true)

/-- CREL (R230): a release at core scope, once every command has completed. While requests of the thread that it must follow
are under way the cube is not yet freed, and the thread goes on (R273). -/
def execCrel (s : State) : Out :=
  .next (s.needCube false fun s => s.whenIdle fun s => s.modCube s.iss.core fun k =>
    if s.curOutstanding = [] then { k with owner := none }
    else { k with leaving := true, after := s.curOutstanding })

/-- Bits of CUBECFG that are reserved (R216). -/
def cfgReserved : Word := 0xFFFFF880FEC08000#64

/-- CCFG (R216). -/
def execCcfg (xd : BitVec 6) (s : State) : Out :=
  let v := s.rx xd
  .next (s.needCube false fun s =>
    if v &&& cfgReserved ≠ 0 ∨ cfgPint (v.setWidth 43) = 0 ∨ 64 < cfgPint (v.setWidth 43) then s.shapeTrap 0
    else s.whenIdle fun s => s.modCube s.iss.core fun k => { k with cfg := v.setWidth 43 })

/-- CSTAT (R231). -/
def execCstat (xd : BitVec 6) (s : State) : Out := .next (s.wx xd (cubestWord s.iss.core s.curCore))
/-- CSTAT.CLR (R231): only the owner or slot 15 clears. -/
def execCstatClr (xd : BitVec 6) (s : State) : Out :=
  let s1 := s.wx xd (cubestWord s.iss.core s.curCore)
  .next (if s.ownsCube || s.iss.slot == 15 then s1.modCube s.iss.core fun k => { k with sticky := 0 } else s1)

/-- CWAIT (R220). -/
def execCwait (xa : BitVec 6) (s : State) : Out :=
  let q := (s.rx xa).setWidth 16
  .next (if s.iss.slot = 14 then s.takeTrap .handlerBlock 0 0
    else if s.curCore.cube.pending q then s.park (.cube q) else s)

/-! ### Queued commands (R210, R219, R226, R338) -/

/-- SNAP0 and SNAP1 of a command (R338). -/
def CubeCmd.snap0 (c : CubeCmd) : Word :=
  0#1 ++ BitVec.ofNat 2 c.nsc ++ BitVec.ofBool c.za ++ BitVec.ofBool c.spa ++ BitVec.ofNat 5 (c.n16 - 1) ++
    BitVec.ofNat 18 c.offG ++ BitVec.ofNat 18 c.offB ++ BitVec.ofNat 18 c.offA
def CubeCmd.snap1 (c : CubeCmd) : Word := 0#5 ++ c.cfg ++ 0#7 ++ BitVec.ofNat 9 c.acb

/-- Put a command at the end of the queue; the array may take it from the next cycle on (R219). -/
def Core.enqueue (k : Core) (c : CubeCmd) : Core :=
  { k with cube := { k.cube with queue := k.cube.queue ++ [{ c with readyAt := k.cyc + 1 }] } }

/-- A command of the issuing thread before its fields are set. -/
def State.newCmd (s : State) (prom : Bool) : CubeCmd where
  seq := s.curCore.seq
  slot := s.iss.slot
  gen := s.cur.gen
  tid := tidOf s.iss.core s.iss.slot
  pc := s.iss.pc
  prom := prom
  cfg := s.curCore.cube.cfg
  offA := 0
  offB := 0
  offG := 0
  n16 := 0
  acb := 0
  spa := false
  za := false
  nsc := 0
  pass := 0
  tileA := []
  tileG := []
  bad := none
  flags := 0
  readyAt := 0
  lbase := s.curLaunch.lbase

/-- A command enters the queue and the ring under the next number of the core's counter (R219, R338); with two waiting
the turn is lost. -/
def State.queueCmd (s : State) (xd : BitVec 6) (c : CubeCmd) : State :=
  if 2 ≤ s.curCore.cube.queue.length then s.loseTurn
  else
    let e : RingEnt :=
      { seq := c.seq, tid := c.tid, st := 0, opc := if c.prom then 0xD4 else 0xD3, passes := 0, pc := c.pc,
        snap0 := c.snap0, snap1 := c.snap1, flags := 0 }
    (s.modCurCore fun k => { (k.addRing e).enqueue c with seq := k.seq + 1 }).wx xd (c.seq.setWidth 64)

/-- A tile address is a window address and a multiple of 128 (row 9 of R210). -/
def tileBase (a : Word) : Bool := inWindow a && a.toNat % 128 == 0

/-- BFMT is legal for AFMT (row 4 of R210). -/
def fmtPair (a b : Nat) : Bool :=
  if a ≤ 5 then decide (1 ≤ b ∧ b ≤ 5) else if a ≤ 7 then b == 6 || b == 7 else b == 3 || b == 4 || b == 6

/-- The lowest failing row of R210 for a CMUL. -/
def cmulRow (cfg : BitVec 43) (lmem : Nat) (n acb : Nat) (spa : Bool) (xa xb xg : Word) : Option Nat :=
  let a := cfgA cfg
  let b := cfgB cfg
  let g := cfgGmode cfg
  let p := n / 16
  let small (f : Nat) : Bool := f == 3 || f == 4 || f == 5
  match rows12 n acb with
  | some r => some r
  | none =>
    if a < 1 ∨ 8 < a then some 3
    else if !fmtPair a b then some 4
    else if 4 < g ∨ (g ≠ 0 ∧ (5 < a ∨ b < 1 ∨ 5 < b ∨ cfgG cfg < 1 ∨ 4 < cfgG cfg)) then some 5
    else if g = 4 ∧ ([2, 4, 8, 16, 32].contains (cfgK1 cfg)) = false then some 6
    else if cfgBlk cfg && !(small a && small b) then some 7
    else if spa && (g != 0 || a == 8) then some 8
    else if !tileBase xa || !tileBase xb || (g != 0 && !tileBase xg) then some 9
    else if !inRegion lmem (winOff xa) (extentA cfg spa) || !inRegion lmem (winOff xb) (extentB cfg spa p) ||
        (g != 0 && !inRegion lmem (winOff xg) (extentG cfg p)) then some 10
    else none

/-- CMUL (R193, R210, R219). -/
def execCmul (xa xb xg xd xn : BitVec 6) (acb : BitVec 9) (spa za : BitVec 1) (s : State) : Out :=
  let n := (s.rx xn).toNat
  .next (s.needCube false fun s =>
    let cfg := s.curCore.cube.cfg
    match cmulRow cfg s.curLaunch.hdr.lmem n acb.toNat (spa == 1#1) (s.rx xa) (s.rx xb) (s.rx xg) with
    | some r => s.shapeTrap r
    | none =>
      s.queueCmd xd { s.newCmd false with
        offA := winOff (s.rx xa), offB := winOff (s.rx xb), offG := if cfgGmode cfg = 0 then 0 else winOff (s.rx xg),
        n16 := n / 16, acb := acb.toNat, spa := spa == 1#1, za := za == 1#1 })

/-- The failing check of a CPROM (R226): rows 1 and 2, AFMT, then the scale tiles. -/
def cpromRow (cfg : BitVec 43) (lmem : Nat) (n acb nsc : Nat) (xa xb : Word) : Option Nat :=
  match rows12 n acb with
  | some r => some r
  | none =>
    if cfgInt cfg then some 11
    else if cfgA cfg < 1 ∨ 8 < cfgA cfg then some 3
    else if nsc = 0 then none
    else if !tileBase xa || !tileBase xb then some 9
    else if !inRegion lmem (winOff xa) (16 * nsc) || !inRegion lmem (winOff xb) (n * nsc) then some 10
    else none

/-- CPROM (R226). -/
def execCprom (xa xb xd xn : BitVec 6) (acb : BitVec 9) (nsc : BitVec 2) (s : State) : Out :=
  let n := (s.rx xn).toNat
  .next (s.needCube false fun s =>
    match cpromRow s.curCore.cube.cfg s.curLaunch.hdr.lmem n acb.toNat nsc.toNat (s.rx xa) (s.rx xb) with
    | some r => s.shapeTrap r
    | none =>
      s.queueCmd xd { s.newCmd true with
        offA := (s.rx xa).toNat % 2 ^ 18, offB := (s.rx xb).toNat % 2 ^ 18, n16 := n / 16, acb := acb.toNat,
        nsc := nsc.toNat })

/-! ### Clearing, storing and loading (R228, R229) -/

/-- CZERO (R228). -/
def execCzero (xn : BitVec 6) (acb : BitVec 9) (s : State) : Out :=
  let n := (s.rx xn).toNat
  .next (s.needCube true fun s => s.needRows n acb.toNat fun s => s.whenIdle fun s =>
    s.modCube s.iss.core fun k => k.clear acb.toNat n)

/-- Plain stores of the issuing thread, eight bytes each, from an address whose pages have been checked. -/
def State.putWords (s : State) (va : Word) : List Nat → State
  | [] => s
  | v :: vs =>
    let s := if inWindow va then s.localWrite s.iss.core (s.curLaunch.lbase + winOff va) 8 v
      else
        match s.translateCur va .write with
        | (s, .ok pa e) => s.storePlain va pa 8 e 0 v
        | (s, _) => s
    s.putWords (va + 8#64) vs

/-- Plain loads of the issuing thread, eight bytes each: an outside agent to wait for, poison at an address, or the
values. -/
def State.getWords (s : State) (va : Word) : Nat → Pulled (List Nat)
  | 0 => .ok s []
  | n + 1 =>
    let go (s : State) (v : Nat) : Pulled (List Nat) :=
      match s.getWords (va + 8#64) n with
      | .blocked s => .blocked s
      | .bad s f => .bad s f
      | .ok s vs => .ok s (v :: vs)
    if inWindow va then
      let a := s.curLaunch.lbase + winOff va
      if s.localPoison s.iss.core a 8 then .bad s (.poison, va, 0) else go s (s.localRead s.iss.core a 8)
    else
      match s.translateCur va .read with
      | (s, .wait) => .blocked s
      | (s, .fail cause info) => .bad s (cause, va, BitVec.ofNat 64 info)
      | (s, .ok pa _) =>
        match s.peek s.curAgent s.cur.dom pa 8 with
        | .blocked s => .blocked s
        | .got s v bad => if bad then .bad s (.poison, va, 0) else go s v

/-- Check an image of `n` bytes at a multiple of `al`: Alignment, then the region, or every page (R229, R346). -/
def State.needImage (s : State) (va : Word) (al n : Nat) (need : Need) (k : State → State) : State :=
  if va.toNat % al ≠ 0 then s.takeTrap .alignment va 0
  else if n = 0 then k s
  else if inWindow va then
    if !inRegion s.curLaunch.hdr.lmem (winOff va) n then s.protTrap va else if s.bankHeld then s.loseTurn else k s
  else
    match s.translateAll va need (pagesOf va n) with
    | .error s' => (s.asked s').loseTurn
    | .ok (s, some (cause, a, info)) => s.xlateTrap cause a info
    | .ok (s, none) => k s

/-- Store an image and wait until every byte has been performed. -/
def State.storeImage (s : State) (va : Word) (ws : List Nat) : State :=
  let s1 := s.putWords va ws
  s1.afterAcks 1 (sentSince s s1) id

/-- Pairs of 32-bit words become 64-bit words. -/
def pairWords : List Nat → List Nat
  | a :: b :: rest => (a + 2 ^ 32 * b) :: pairWords rest
  | _ => []

/-- CSTOR: `img` gives the image as 64-bit words of columns `acb` on (R229). -/
def State.cstor (s : State) (xa xn : BitVec 6) (acb : BitVec 9) (size : Nat → Nat) (img : Cube → Nat → Nat → List Nat) :
    State :=
  let n := (s.rx xn).toNat
  match s.cur.prog with
  | some p => s.afterAcks 1 p.ids id
  | none =>
    s.needCube true fun s => s.needRows n acb.toNat fun s => s.needImage (s.rx xa) 128 (size n) .write fun s =>
      s.whenIdle fun s => s.storeImage (s.rx xa) (img s.curCore.cube acb.toNat n)

/-- A lane's image: element (m, j) at word N × m + j. -/
def laneImage (l : List (Nat × BitVec 32)) (fp26 : Bool) (acb n : Nat) : List Nat :=
  pairWords ((List.range 16).flatMap fun m => (List.range n).map fun j =>
    let v := laneGet l m (acb + j)
    if fp26 then v % 2 ^ 26 else v)

/-- CSTOR.ACC (R229). -/
def execCstorAcc (xa xn : BitVec 6) (acb : BitVec 9) (s : State) : Out :=
  .next (s.cstor xa xn acb (64 * ·) fun k c n => laneImage k.acc false c n)
/-- CSTOR.L0 (R229): FP26 words but in integer modes. -/
def execCstorL0 (xa xn : BitVec 6) (acb : BitVec 9) (s : State) : Out :=
  .next (s.cstor xa xn acb (64 * ·) fun k c n => laneImage k.l0 (!cfgInt k.cfg) c n)
/-- CSTOR.L1 (R229). -/
def execCstorL1 (xa xn : BitVec 6) (acb : BitVec 9) (s : State) : Out :=
  .next (s.cstor xa xn acb (64 * ·) fun k c n => laneImage k.l1 true c n)

/-- Eight bytes of a list become a word. -/
def wordsOfBytes : Nat → List Nat → List Nat
  | 0, _ => []
  | n + 1, l => bytesToNat ((l.take 8).map (BitVec.ofNat 8)) :: wordsOfBytes n (l.drop 8)

/-- CSTOR.CNT (R229). -/
def execCstorCnt (xa xn : BitVec 6) (acb : BitVec 9) (s : State) : Out :=
  .next (s.cstor xa xn acb (·) fun k c n => wordsOfBytes (n / 8) ((List.range n).map fun j => cntGet k.cnt (c + j)))

/-- CLOAD: `f` writes the image's words into the cube (R229). -/
def State.cload (s : State) (xa xn : BitVec 6) (acb : BitVec 9) (size : Nat → Nat) (f : List Nat → Nat → Nat → Cube → Cube) :
    State :=
  let n := (s.rx xn).toNat
  s.needCube true fun s => s.needRows n acb.toNat fun s => s.needImage (s.rx xa) 128 (size n) .read fun s =>
    s.whenIdle fun s =>
      match s.getWords (s.rx xa) (size n / 8) with
      | .blocked s' => (s.asked s').loseTurn
      | .bad s (cause, a, x) => s.takeTrap cause a x
      | .ok s ws => s.modCube s.iss.core (f ws acb.toNat n)

/-- Write a lane's image raw. -/
def laneFrom (l : List (Nat × BitVec 32)) (ws : List Nat) (acb n : Nat) : List (Nat × BitVec 32) :=
  (List.range (16 * n)).foldl (fun l i =>
    lanePut l (i / n) (acb + i % n) (ws.getD (i / 2) 0 / 2 ^ (32 * (i % 2)) % 2 ^ 32)) l

/-- CLOAD.ACC (R229). -/
def execCloadAcc (xa xn : BitVec 6) (acb : BitVec 9) (s : State) : Out :=
  .next (s.cload xa xn acb (64 * ·) fun ws c n k => { k with acc := laneFrom k.acc ws c n })
/-- CLOAD.L0 (R229). -/
def execCloadL0 (xa xn : BitVec 6) (acb : BitVec 9) (s : State) : Out :=
  .next (s.cload xa xn acb (64 * ·) fun ws c n k => { k with l0 := laneFrom k.l0 ws c n })
/-- CLOAD.L1 (R229). -/
def execCloadL1 (xa xn : BitVec 6) (acb : BitVec 9) (s : State) : Out :=
  .next (s.cload xa xn acb (64 * ·) fun ws c n k => { k with l1 := laneFrom k.l1 ws c n })
/-- CLOAD.CNT (R229): bytes mod 128. -/
def execCloadCnt (xa xn : BitVec 6) (acb : BitVec 9) (s : State) : Out :=
  .next (s.cload xa xn acb (·) fun ws c n k =>
    { k with cnt := (List.range n).foldl (fun l j => cntPut l (c + j) (ws.getD (j / 8) 0 / 2 ^ (8 * (j % 8)) % 128)) k.cnt })

/-! ### The ring and retries (R338, R346, R347) -/

/-- The four words of a ring entry (R338). -/
def RingEnt.words (e : RingEnt) : List Nat :=
  let w0 : Word := 0#10 ++ e.passes ++ e.opc ++ 0#4 ++ e.st ++ e.tid ++ e.seq
  [w0.toNat, e.pc.toNat, e.snap0.toNat, e.snap1.toNat]

/-- CRING (R42, R346). -/
def execCring (xa xn : BitVec 6) (s : State) : Out :=
  let k := min (s.rx xn).toNat 64
  .next (s.needLevel 1 fun s =>
    match s.cur.prog with
    | some p => s.afterAcks 1 p.ids id
    | none =>
      s.needImage (s.rx xa) 32 (32 * k) .write fun s =>
        s.storeImage (s.rx xa) ((s.curCore.ring.take k).flatMap RingEnt.words))

/-- A cube command's entry. -/
def RingEnt.isCube (e : RingEnt) : Bool := e.opc == 0xD3#8 || e.opc == 0xD4#8

/-- The entries after the first that meets `p`: those dispatched before it. -/
def olderThan (p : RingEnt → Bool) : List RingEnt → List RingEnt
  | [] => []
  | e :: rest => if p e then rest else olderThan p rest

/-- The command an entry rebuilds, from pass `p` on (R338, R347). -/
def RingEnt.rebuild (e : RingEnt) (slot gen lbase p : Nat) : CubeCmd where
  seq := e.seq
  slot := slot
  gen := gen
  tid := e.tid
  pc := e.pc
  prom := e.opc == 0xD4#8
  cfg := e.snap1.extractLsb' 16 43
  offA := (e.snap0.extractLsb' 0 18).toNat
  offB := (e.snap0.extractLsb' 18 18).toNat
  offG := (e.snap0.extractLsb' 36 18).toNat
  n16 := (e.snap0.extractLsb' 54 5).toNat + 1
  acb := (e.snap1.extractLsb' 0 9).toNat
  spa := e.snap0.getLsbD 59
  za := e.snap0.getLsbD 60
  nsc := (e.snap0.extractLsb' 61 2).toNat
  pass := p
  tileA := []
  tileG := []
  bad := none
  flags := e.flags
  readyAt := 0
  lbase := lbase

/-- CRETRY (R347). -/
def execCretry (xa xb : BitVec 6) (s : State) : Out :=
  let q := (s.rx xa).setWidth 16
  let p := (s.rx xb).toNat
  let k := s.curCore
  let named (e : RingEnt) : Bool := e.seq == q && e.isCube
  .next (s.needLevel 1 fun s => match k.ring.find? named with
    | none => s.shapeTrap 12
    | some e =>
      if !e.kept || (olderThan named k.ring).any RingEnt.kept then s.shapeTrap 12
      else if (e.st == 3#3 && p != 0) || (e.st == 2#3 && decide (e.passes.toNat < p)) then s.shapeTrap 13
      else if 2 ≤ k.cube.queue.length then s.loseTurn
      else
        let sl := e.tid.toNat % 16
        let t := s.thread s.iss.core sl
        s.modCurCore fun k =>
          (k.setRing named fun e => { e with st := 0, passes := BitVec.ofNat 6 p, flags := 0 }).enqueue
            (e.rebuild sl t.gen (s.launch t.dom t.launch).lbase p))

/-! ### Events of the array (R195, R219, R223, R232) -/

/-- The least time a pass takes for each plane step by throttle stage (R378). -/
def stepCost (stage : Nat) : Nat := if stage = 0 then 1 else if stage = 1 then 2 else 4

/-- The flag byte quad of pass p: zero where the cube reads no flag plane (R203). -/
def State.passFlags (s : State) (c : Nat) (m : CubeCmd) : Nat :=
  if m.spa ∧ 1 ≤ cfgB m.cfg ∧ cfgB m.cfg ≤ 4 then
    s.localRead c (m.lbase + m.offB + m.n16 * panelB m.cfg + 4 * m.pass) 4
  else 0

/-- Bytes of a pass's B panel, and of its G panel in modes 2 and 4 (R195). -/
def CubeCmd.passBytes (m : CubeCmd) : Nat :=
  panelB m.cfg + if cfgGmode m.cfg = 2 ∨ cfgGmode m.cfg = 4 then panelG m.cfg else 0

/-- Cycles of a pass (R195, R378). -/
def State.passTime (s : State) (c : Nat) (m : CubeCmd) : Nat :=
  let st := planeSteps (cfgA m.cfg)
  let st := if m.spa ∧ s.passFlags c m = 0 then ceilDiv st 2 else st
  let stage := match (s.core c).part with
    | some d => (s.dom d).acct.stage
    | none => 0
  max (st * stepCost stage) (ceilDiv m.passBytes 512)

/-- Bytes of the lead-in's G tile (R195). -/
def CubeCmd.leadG (m : CubeCmd) : Nat :=
  if cfgGmode m.cfg = 1 ∨ cfgGmode m.cfg = 3 then extentG m.cfg m.n16 else 0

/-- The first poisoned word among `n` local bytes: its address. -/
def State.struckWord (s : State) (c a n : Nat) : Option Nat :=
  if n = 0 ∨ !s.localPoison c a n then none
  else ((List.range ((a + n + 7) / 8 - a / 8)).find? fun i => (s.core c).lpoison.contains (a / 8 + i)).map fun i => 8 * (a / 8 + i)

/-- CUBE_DISPATCH (R219): the idle array takes the oldest waiting command and reads the tiles of its lead-in. -/
def execCubeDispatch (c : Nat) (s : State) : Out :=
  let k := s.core c
  .next (match k.cube.exec, k.cube.queue with
    | none, m :: rest =>
      if k.cyc < m.readyAt then s
      else if m.prom then
        s.modCube c fun q => { q with queue := rest, exec := some { m with readyAt := k.cyc + 2 + m.n16 } }
      else
        let na := extentA m.cfg m.spa
        let ng := m.leadG
        let a := m.lbase + m.offA
        let g := m.lbase + m.offG
        let tile := Memory.bytes k.lmem a na
        let smd := m.spa && (sparseA (cfgA m.cfg) tile).2
        let m1 := { m with
          tileA := tile, tileG := Memory.bytes k.lmem g ng, flags := if smd then m.flags ||| 4#4 else m.flags,
          bad := match s.struckWord c a na with
            | some w => some (0, w)
            | none => (s.struckWord c g ng).map fun w => (2, w),
          readyAt := k.cyc + ceilDiv (na + ng) 512 + s.passTime c m }
        s.modCube c fun q => { q with queue := rest, exec := some m1 }
    | _, _ => s)

/-- A cube command is struck: its pass is abandoned, its columns stay as the pass's start left them, and the late
Cube-Data fault is raised, with the window address of the struck word (R232, R334, R337). -/
def State.cubeFault (s : State) (c : Nat) (m : CubeCmd) (stream : BitVec 2) (w : Nat) : State :=
  let s := s.modCore c fun k =>
    { k with cube := { k.cube with exec := none } }.setRing (fun e => e.seq == m.seq && e.isCube)
      fun e => { e with st := 2, passes := BitVec.ofNat 6 m.pass, flags := m.flags }
  let s := s.engineFault c m.slot m.gen .cubeData m.seq (m.seq + 1) m.pc (BitVec.ofNat 64 (Config.windowBase + (w - m.lbase))) (BitVec.ofNat 64 (m.pass + 256 * stream.toNat))
  (s.wakeCube c).settleCube c

/-- A command completes: its flags land, DONE takes its number, and its waiters wake (R217, R219, R220). -/
def State.cubeDone (s : State) (c : Nat) (m : CubeCmd) : State :=
  let s := s.modCore c fun k =>
    { k with cube := { k.cube with exec := none, done := m.seq, sticky := k.cube.sticky ||| m.flags } }.setRing
      (fun e => e.seq == m.seq && e.isCube) fun e => { e with st := 1, passes := BitVec.ofNat 6 m.pass }
  let s := (s.wakeCube c).settleCube c
  if m.flags.getLsbD 2 && cfgSmdTrap m.cfg then s.engineFault c m.slot m.gen .sparseMetadata m.seq (m.seq + 1) m.pc 0 0
  else if m.flags.getLsbD 3 && cfgScmTrap m.cfg then s.engineFault c m.slot m.gen .scaleCount m.seq (m.seq + 1) m.pc 0 0
  else s

/-- CUBE_PASS_END (R223): a pass reads its panels and adds its slab, all at once; poison abandons it (R232, R349). -/
def execCubePassEnd (c : Nat) (s : State) : Out :=
  let k := s.core c
  .next (match k.cube.exec with
    | some m =>
      if m.prom || decide (m.n16 ≤ m.pass) || decide (k.cyc < m.readyAt) then s
      else
        let cfg := m.cfg
        let b := m.lbase + m.offB + m.pass * panelB cfg
        let ng := if cfgGmode cfg = 2 ∨ cfgGmode cfg = 4 then panelG cfg else 0
        let g := m.lbase + m.offG + m.pass * panelG cfg
        let reads := m.spa && decide (1 ≤ cfgB cfg ∧ cfgB cfg ≤ 4)
        match m.bad with
        | some x => s.cubeFault c m x.1 x.2
        | none =>
          let p := m.lbase + m.offB + m.n16 * panelB cfg + 4 * m.pass
          match s.struckWord c b (panelB cfg), s.struckWord c g ng, s.struckWord c p (if reads then 4 else 0) with
          | some w, _, _ => s.cubeFault c m 1 w
          | none, some w, _ => s.cubeFault c m 2 w
          | none, none, some w => s.cubeFault c m 3 w
          | none, none, none =>
            let a := if m.spa then (sparseA (cfgA cfg) m.tileA).1 else faceA cfg (denseA (cfgA cfg) m.tileA) m.tileG
            let cols := faceB cfg (Memory.bytes k.lmem b (panelB cfg)) (Memory.bytes k.lmem g ng)
            let c0 := m.acb + 16 * m.pass
            let q := if m.za then k.cube.clear c0 16 else k.cube
            let r := passStep cfg a cols (s.passFlags c m) c0 (q, m.flags)
            let m1 := { m with pass := m.pass + 1, flags := r.2 }
            let m1 := { m1 with readyAt := k.cyc + if m1.pass < m1.n16 then s.passTime c m1 else 0 }
            s.modCore c fun k =>
              { k with cube := { r.1 with exec := some m1 } }.setRing (fun e => e.seq == m.seq && e.isCube)
                fun e => { e with passes := BitVec.ofNat 6 m1.pass }
    | none => s)

/-- CUBE_COMMAND_COMPLETE (R219): a CMUL whose passes have ended; a CPROM promotes its columns (R226, R227). -/
def execCubeCommandComplete (c : Nat) (s : State) : Out :=
  let k := s.core c
  .next (match k.cube.exec with
    | some m =>
      if k.cyc < m.readyAt then s
      else if m.prom then
        let a := m.lbase + m.offA
        let b := m.lbase + m.offB
        let na := 16 * m.nsc
        let nb := 16 * m.n16 * m.nsc
        match s.struckWord c a na, s.struckWord c b nb with
        | some w, _ => s.cubeFault c m 0 w
        | none, some w => s.cubeFault c m 1 w
        | none, none =>
          let blk := cfgBlk m.cfg
          let x := (k.cube, if scaleMismatch blk m.nsc then m.flags ||| 8#4 else m.flags)
          let r := promColumns blk m.nsc (Memory.bytes k.lmem a na) (Memory.bytes k.lmem b nb) m.acb (16 * m.n16) x
          (s.modCube c fun _ => r.1).cubeDone c { m with flags := r.2 }
      else if m.n16 ≤ m.pass then s.cubeDone c m
      else s
    | none => s)

/-- The local bytes of a stream that the command reads now, as a start and a length: 0 A, 1 B, 2 G, 3 the flag plane; 0 sA
and 1 sB of a CPROM (R334). -/
def CubeCmd.streamSpan (m : CubeCmd) (stream : BitVec 2) : Nat × Nat :=
  let b := m.lbase + m.offB
  let g := m.lbase + m.offG
  if m.prom then
    if stream = 0#2 then (m.lbase + m.offA, 16 * m.nsc) else if stream = 1#2 then (b, 16 * m.n16 * m.nsc) else (0, 0)
  else if m.n16 ≤ m.pass then (0, 0)
  else if stream = 0#2 then (m.lbase + m.offA, extentA m.cfg m.spa)
  else if stream = 1#2 then (b + m.pass * panelB m.cfg, panelB m.cfg)
  else if stream = 2#2 then
    if m.leadG ≠ 0 then (g, m.leadG) else (g + m.pass * panelG m.cfg, if cfgGmode m.cfg = 0 then 0 else panelG m.cfg)
  else (b + m.n16 * panelB m.cfg + 4 * m.pass, if m.spa ∧ 1 ≤ cfgB m.cfg ∧ cfgB m.cfg ≤ 4 then 4 else 0)

/-- CUBE_DATA_ERROR (R232): an uncorrectable error strikes an operand stream of the executing command. Which word of the
stream it strikes is a free value (log 5). -/
def execCubeDataError (c : Nat) (stream : BitVec 2) (s : State) : Out :=
  .next (match (s.core c).cube.exec with
    | some m =>
      let p := m.streamSpan stream
      if p.2 = 0 then s else s.useFree.cubeFault c m stream (p.1 + s.freeWord.toNat % p.2 / 8 * 8)
    | none => s)

end Sys2Proof.Machine
end

