-- ==== Sys2Proof/Machine/Handles.lean ====
section
/-! DEFINITION. Buffer handles (R285, R294 to R297). -/
namespace Sys2Proof.Machine

/-- The key of a launch's handle (R297). -/
def handleKey (launch hn : Nat) : Nat := 64 * launch + hn
def Core.handle (k : Core) (launch hn : Nat) : Option Handle := lookup k.handles (handleKey launch hn)

/-- The status word of a handle; zero for one that is not allotted (R296). -/
def handleWord (h : Option Handle) : Word :=
  match h with
  | some h => 0#13 ++ BitVec.ofNat 19 h.len ++ 0#6 ++ BitVec.ofNat 18 h.base ++ h.reason ++ 1#1 ++ BitVec.ofBool h.err ++ h.st
  | none => 0

/-- HWAIT's condition (R296). -/
def handleMeets (h : Option Handle) (smask : BitVec 4) : Bool := h.all fun h => smask.getLsbD h.st.toNat

/-- A thread observes a handle: full is the acquire of the engine's release, whose writes are at their homes (R273,
R296). -/
def State.seeHandle (s : State) (c : Nat) (h : Option Handle) : State :=
  if h.any (fun h => h.st == 2#2) then s.selfInvalidate (s.agentOf c) else s

/-- The HWAITs that a handle of a core satisfies complete (R296). -/
def State.wakeHandle (s : State) (c launch hn : Nat) : State :=
  let h := (s.core c).handle launch hn
  let ready := (s.core c).slots.filter fun e => e.2.launch == launch && match e.2.st with
    | .parked (.handle n sm _) => n == hn && handleMeets h sm
    | _ => false
  ready.foldl (fun s e => match e.2.st with
    | .parked (.handle _ _ d) =>
      ((s.seeHandle c h).wakeThread c e.1).modThread c e.1 fun t => t.setX d (handleWord h)
    | _ => s) s

/-- Set a handle of a core, or take it away, and let the HWAITs it satisfies complete (R294, R296). -/
def State.setHandle (s : State) (c launch hn : Nat) (h : Option Handle) : State :=
  let key := handleKey launch hn
  (s.modCore c fun k =>
    { k with handles := match h with
        | some h => insertKey k.handles key h
        | none => eraseKey k.handles key }).wakeHandle c launch hn

/-- Run `k` on the handle an instruction names, below the launch's .handles, or take the Protection trap (R285). -/
def State.withHandle (s : State) (hn : BitVec 6) (k : State → Option Handle → State) : State :=
  if hn.toNat < s.curLaunch.hdr.handles then k s (s.curCore.handle s.cur.launch hn.toNat) else s.protTrap 0

/-- HSTAT (R296). -/
def execHstat (d hn : BitVec 6) (s : State) : Out := .next (s.withHandle hn fun s h => s.wx d (handleWord h))

/-- HWAIT (R296). -/
def execHwait (d hn : BitVec 6) (smask : BitVec 4) (s : State) : Out :=
  .next (s.withHandle hn fun s h =>
    if handleMeets h smask then (s.seeHandle s.iss.core h).wx d (handleWord h)
    else if s.iss.slot = 14 then s.takeTrap .handlerBlock 0 0
    else s.park (.handle hn.toNat smask d))

/-- HSET: from one state to another (R294). -/
def State.hset (s : State) (hn : BitVec 6) (pd : BitVec 3) (frm : BitVec 2) (g : Handle → Handle) : State :=
  s.withHandle hn fun s h =>
    match h with
    | some h =>
      if h.st = frm then (s.setHandle s.iss.core s.cur.launch hn.toNat (some (g h))).wp pd true else s.wp pd false
    | none => s.wp pd false

/-- HSET.DRN (R294). -/
def execHsetDrn (hn : BitVec 6) (pd : BitVec 3) (s : State) : Out :=
  .next (s.hset hn pd 2 fun h => { h with st := 3 })
/-- HSET.FREE (R294): a release at core scope, held for the thread's stores under way (log 19). -/
def execHsetFree (hn : BitVec 6) (pd : BitVec 3) (s : State) : Out :=
  .next (if s.curOutstanding ≠ [] then s.loseTurn else s.hset hn pd 3 fun h => { h with st := 0, err := false, reason := 0 })

/-- HALLOC (R295). -/
def execHalloc (a b hn : BitVec 6) (pd : BitVec 3) (s : State) : Out :=
  let base := s.rx a
  let n := (s.rx b).toNat
  .next (s.withHandle hn fun s h =>
    if base.toNat % 64 ≠ 0 ∨ n % 64 ≠ 0 ∨ n < 64 ∨ 262144 < n then s.takeTrap .alignment base 0
    else if !inWindow base || !inRegion s.curLaunch.hdr.lmem (winOff base) n then s.protTrap base
    else if h.isSome then s.wp pd false
    else (s.setHandle s.iss.core s.cur.launch hn.toNat (some ⟨winOff base, n, 0, false, 0⟩)).wp pd true)

/-- HFREE (R295). -/
def execHfree (hn : BitVec 6) (pd : BitVec 3) (s : State) : Out :=
  .next (s.withHandle hn fun s h =>
    match h with
    | some h =>
      if h.st = 1#2 then s.wp pd false else (s.setHandle s.iss.core s.cur.launch hn.toNat none).wp pd true
    | none => s.wp pd false)

end Sys2Proof.Machine
end

