-- ==== Sys2Proof/Machine/Publish.lean ====
section
/-! DEFINITION. Publishing packets and waiting for launches: CQPUT, LAUNCH, CQINIT and LWAIT (R281, R282, R286, R287,
R329 to R331). -/
namespace Sys2Proof.Machine

/-- The phase of index i (R282). -/
def phaseOf (i cap : Nat) : Nat := (i / cap + 1) % 2

/-- Word 7 of a packet (R286). -/
def word7 (i cap : Nat) (w : Word) : Word :=
  BitVec.ofNat 32 i ++ w.extractLsb' 8 24 ++ 0#7 ++ BitVec.ofNat 1 (phaseOf i cap)

/-- A claim is sent to the header's home; a queue stands in device memory, not in the window (R281, R286). -/
def State.sendClaim (s : State) (launch : Bool) (d a b : BitVec 6) (pd : BitVec 3) : State :=
  let h := s.rx a
  if h.toNat % 64 ≠ 0 then s.takeTrap .alignment h 0
  else if inWindow h then s.protTrap h
  else
    s.withPa h .both fun s pa _ =>
      let s1 := s.flushLine s.curAgent s.cur.dom pa
      s1.postWait { s1.curMsg (.claim launch h (s.cur.getXs b 8) s.cur.lvl) pa 32 h with
        ord := 1, scope := 2, dst := .claim d pd, after := s.curReleases ++ sentSince s s1 }

/-- CQPUT (R286). -/
def execCqput (d a b : BitVec 6) (pd : BitVec 3) (s : State) : Out := .next (s.sendClaim false d a b pd)
/-- LAUNCH (R330). -/
def execLaunch (d a b : BitVec 6) (pd : BitVec 3) (s : State) : Out := .next (s.sendClaim true d a b pd)

/-- The state seen from the thread whose request a reply answers. -/
def State.asIssuer (s : State) (m : Msg) : State :=
  { s with iss := { s.iss with core := m.core, slot := m.slot, pc := m.pc, npc := m.npc, pair := m.pair, st := .issued } }

/-- X[D] and P[PD] of a claim. -/
def State.claimAnswer (s : State) (m : Msg) (v : Word) (ok : Bool) : State :=
  match m.dst with
  | .claim d pd => s.modThread m.core m.slot fun t => (t.setX d v).setP pd ok
  | _ => s

/-- Words 0 to 6 of a slot as plain stores, and word 7 as a release that is not waited for (R286). -/
def State.writeSlot (s : State) (va : Word) (pa : Nat) (e : TlbEnt) (w : List Word) (w7 : Word) (scope : Nat) : State :=
  let put (s : State) (j : Nat) (v : Word) : State :=
    s.storePlain (va + BitVec.ofNat 64 (8 * j)) (pa + 8 * j) 8 e 0 v.toNat
  let s := (List.range 7).foldl (fun s j => put s j (w.getD j 0)) s
  if scope = 0 then put s 7 w7
  else
    let (s1, ids) := (s.flushLine s.curAgent s.cur.dom pa).beginRelease (scope == 6)
    s1.post { s1.curMsg .release (pa + 56) 8 (va + 56#64) with
      ord := 3, scope := scope, epoch := s1.epochOf s1.curAgent, data := w7.setWidth 1024,
      after := s.curOutstanding ++ sentSince s s1 ++ ids }

/-- A slot that denies the write becomes a NOP packet at its physical address (R286). -/
def State.nopSlot (s : State) (va : Word) (w7 : Word) : State :=
  match s.translateCur va .any with
  | (s, .ok pa _) => s.post { s.curMsg .store pa 64 va with data := BitVec.ofNat 1024 (w7.toNat * 2 ^ 448) }
  | (s, _) => s

/-- The reply of a claim reaches its core: the slot is written, or the outcome reported (R286, R330). While a fold
holds back the release, or a release at core scope waits for stores under way, the reply waits. -/
def State.claimArrives (s : State) (m : Msg) : State :=
  match m.kind with
  | .claim launch h w _ =>
    let g (j : Nat) : Nat := m.data.toNat / 2 ^ (64 * j) % 2 ^ 64
    let i := g 1
    let cap := max (g 2) 1
    let w0 := w.getD 0 0
    let scope := if launch then 2 else min 6 (w0.extractLsb' 28 3).toNat
    match s.waiter m with
    | none => s.dropMsg m.id
    | some _ =>
      let s' := s.dropMsg m.id
      if m.poisoned then s'.replyTrap m .poison h 0
      else if g 0 = 1 then (s'.goOn m).claimAnswer m 0xFFFFFFFFFFFFFFFE#64 false
      else if g 0 = 2 then (s'.goOn m).claimAnswer m 0xFFFFFFFFFFFFFFFF#64 false
      else if g 0 = 3 then (s'.asIssuer m).protTrap h
      else if 1 ≤ scope ∧ s.foldBlocks m.agent then s
      else if scope = 0 ∧ s.outstanding m.core m.slot ≠ [] then s
      else
        let va := h + 64#64 + BitVec.ofNat 64 (64 * (i % cap))
        let w7 := word7 i cap (w.getD 7 0)
        let w0 := if launch then w0 else (w0 &&& ~~~0x7000000#64) ||| BitVec.ofNat 64 (g 3 * 2 ^ 24)
        match (s'.asIssuer m).translateCur va .write with
        | (s1, .wait) => s.asked s1
        | (s, .fail cause info) =>
          let s := if cause = .protection then s.nopSlot va w7 else s
          s.replyTrap m cause va (if cause = .poison then 0 else BitVec.ofNat 32 i ++ BitVec.ofNat 32 info)
        | (s, .ok pa e) => ((s.writeSlot va pa e (w.set 0 w0) w7 scope).goOn m).claimAnswer m (BitVec.ofNat 64 i) true
  | _ => s

/-! ### Binding queues (R287, R288) -/

/-- Capacity a launch has bound, over every engine. -/
def State.boundCap (s : State) (launch dom : Nat) : Nat :=
  (s.cores.flatMap fun e => e.2.eng.queues).foldl
    (fun n q => if q.launch = launch ∧ q.dom = dom then n + q.cap else n) 0

/-- A power of two from 2 to 2^20. -/
def capOk (cap : Nat) : Bool := decide (2 ≤ cap ∧ cap ≤ 2 ^ 20) && 2 ^ Nat.log2 cap == cap

/-- Act on the header at `h` at its home once the core's own copy of its line has been written back and nothing of the core
is on its way to it (R248). A poisoned BIND word, the one word that is read, takes Poison with the header's address
(R249). -/
def State.atHeader (s : State) (h : Word) (pa : Nat) (k : State → State) : State :=
  let go (s : State) : State :=
    if s.onWay s.curAgent s.cur.dom (lineOf pa) (lineMask (pa % 128) 32) s.nextId then s.loseTurn
    else
      match s.gate s.cur.dom pa 0 true with
      | .blocked s => s.loseTurn
      | .ready s =>
        let s := s.modDom s.cur.dom fun v => v.touchL2 (lineOf pa) s.cycle
        if s.curDom.poisoned (pa + 24) 8 then s.takeTrap .poison h 0 else k s
  match s.cur.prog with
  | some p => s.afterAcks 1 p.ids go
  | none =>
    let s1 := s.flushLine s.curAgent s.cur.dom pa
    s1.afterAcks 1 (sentSince s s1) go

/-- CQINIT.BIND (R287). -/
def execCqinitBind (a b : BitVec 6) (pd : BitVec 3) (s : State) : Out :=
  let h := s.rx a
  let x := s.rx b
  let cap := x.toNat % 2 ^ 32
  let prio := (x.extractLsb' 32 3).toNat
  let c := s.iss.core
  .next (if x.toNat / 2 ^ 35 ≠ 0 ∨ capOk cap = false then s.takeTrap .illegalInstruction 0 0
    else if h.toNat % 64 ≠ 0 then s.takeTrap .alignment h 0
    else if inWindow h then s.protTrap h
    else
      match s.translateAll h .both (pagesOf h (64 + 64 * cap)) with
      | .error s' => (s.asked s').loseTurn
      | .ok (s, some (cause, f, info)) => s.xlateTrap cause f info
      | .ok (s, none) =>
        s.withPa h .both fun s pa _ =>
          s.atHeader h pa fun s =>
            let t := s.cur
            let bind := BitVec.ofNat 64 (s.homeRead t.dom (pa + 24) 8)
            if 8 ≤ s.curCore.eng.queues.length || decide (s.curLaunch.hdr.sluice < s.boundCap t.launch t.dom + cap) ||
                bind.getLsbD 31 then s.wp pd false
            else
              let q : EngQueue := ⟨h, t.launch, t.dom, t.asn, t.root, prio, cap, 0⟩
              let w := (coreNum c + 2 ^ 16 * prio + 2 ^ 31) * 2 ^ 192 + cap * 2 ^ 128
              ((s.homeStore t.dom t.launch pa 32 w).modCurCore fun k =>
                { k with eng := { k.eng with queues := k.eng.queues ++ [q] } }).wp pd true)

/-- The queue is the issuing launch's and bound to this engine. -/
def State.isBound (s : State) (h : Word) (q : EngQueue) : Bool :=
  q.va == h && q.launch == s.cur.launch && q.dom == s.cur.dom

/-- CQINIT.UNB (R287): the queue is unbound, then the turn is lost until the engine has completed what it took. -/
def execCqinitUnb (a : BitVec 6) (pd : BitVec 3) (s : State) : Out :=
  let h := s.rx a
  let finish (s : State) : State :=
    if s.curCore.eng.cur.any (fun x => x.qva == h && x.launch == s.cur.launch) then s.loseWith ⟨2, [], 0⟩ else s.wp pd true
  .next (if s.cur.prog.any (fun p => p.stage == 2) then finish s
    else if !s.curCore.eng.queues.any (s.isBound h) then s.wp pd false
    else
      s.withPa h .both fun s pa _ =>
        s.atHeader h pa fun s =>
          let bind := BitVec.ofNat 64 (s.homeRead s.cur.dom (pa + 24) 8)
          finish ((s.homeStore s.cur.dom s.cur.launch (pa + 24) 8 (bind &&& ~~~0x80000000#64).toNat).modCurCore fun k =>
            { k with eng := { k.eng with queues := k.eng.queues.filter fun q => !s.isBound h q } }))

/-! ### LWAIT (R331) -/

/-- LWAIT (R331). -/
def execLwait (d a : BitVec 6) (s : State) : Out :=
  let r := s.rx a
  .next (if r.toNat % 32 ≠ 0 then s.takeTrap .alignment r 0
    else
      match s.place r 8 .read with
      | .trap s => s
      | .window o =>
        if s.curReleases ≠ [] then s.loseTurn
        else if s.localPoison s.iss.core o 8 then s.takeTrap .poison r 0
        else
          let w := s.localRead s.iss.core o 8
          if w % 256 ≠ 0 then s.wx d (BitVec.ofNat 64 w)
          else if s.iss.slot = 14 then s.takeTrap .handlerBlock 0 0
          else s.waitAtBank { s.curMsg .lwait o 8 r with dst := .x d false } o
      | .global s pa _ =>
        let s1 := s.flushLine s.curAgent s.cur.dom pa
        s1.postWait { s1.curMsg .lwait pa 8 r with
          ord := 2, scope := 2, dst := .x d false, after := s.curReleases ++ sentSince s s1 })

end Sys2Proof.Machine
end

