-- ==== Sys2Proof/Machine/Sparse.lean ====
section
/-! DEFINITION. SPACK, SPACK.CHK and NFSCAN: packed sparse tiles and their non-finite flags (R201, R203, R205 to
R209). -/
namespace Sys2Proof.Machine

/-! ### SPACK (R206) -/

/-- The magnitude of a code as SPACK compares it: a NaN is the largest, -0 is 0. -/
def spackMag (fmt code : Nat) : Nat :=
  let w := fmtBits fmt
  if isIntFmt fmt then (sgn w (code % 2 ^ w)).natAbs
  else if (valueOf fmt code).isNaN then 2 ^ w
  else code % 2 ^ (w - 1)

/-- The position of the largest magnitude, the lowest of equals, other than `skip`. -/
def largest (mags : List Nat) (skip : Option Nat) : Nat :=
  ((List.range 4).filter fun i => skip != some i).foldl
    (fun b i => if skip == some b || decide (mags.getD b 0 < mags.getD i 0) then i else b) 0

/-- A group of four codes: the two positions kept, ascending, and whether more than two are non-zero. -/
def spackGroup (fmt : Nat) (g : List Nat) : Nat × Nat × Bool :=
  let mags := g.map (spackMag fmt)
  let a := largest mags none
  let b := largest mags (some a)
  (min a b, max a b, decide (2 < (mags.filter fun m => m != 0).length))

/-- The groups of four of 1,024 codes. -/
def fours : Nat → List Nat → List (List Nat)
  | 0, _ => []
  | n + 1, l => l.take 4 :: fours n (l.drop 4)

/-- Bytes from bits, eight at a time. -/
def bytesOf : Nat → List Bool → List Nat
  | 0, _ => []
  | n + 1, l => ofBits (l.take 8) :: bytesOf n (l.drop 8)

/-- The packed tile of 1,024 codes: the value planes, then the metadata plane, and the first bad group (R201, R206). -/
def spackTile (fmt : Nat) (codes : List Nat) : List Nat × Option Nat :=
  let gs := fours 256 codes
  let ps := gs.map (spackGroup fmt)
  let kept := (gs.zip ps).flatMap fun x => [x.1.getD x.2.1 0, x.1.getD x.2.2.1 0]
  let planes := (List.range (planeWidth fmt)).flatMap fun j => bytesOf 64 (kept.map fun c => c.testBit j)
  (planes ++ nibbleBytes (ps.map fun p => p.1 + 4 * p.2.1), ps.findIdx? fun p => p.2.2)

/-- The INT32 word that names a group, all ones for none. -/
def groupWord (g : Option Nat) : Word :=
  match g with
  | some i => BitVec.ofNat 64 i
  | none => 0xFFFFFFFF#64

/-- The description of an operation of this chapter: `fd` the register or stream FD, `dst` its formats as a stream. -/
def sparseDesc (fd : BitVec 5) (pd : BitVec 3) (srcs : List Src) (dst : Option (List Nat)) (occ : Nat → Nat) : VDesc :=
  { fd := fd, pd := pd, srcs := srcs, dst := dst, wr := dst.isNone, count := false, bad := false, base := occ, extra := 0 }

/-- SPACK (R206, R209): FA a dense tile, FB the packed tile; it writes nothing when an element it pops fails (R180), nor when
a stream is exhausted as it issues (R176, R178). -/
def execSpack (fd fa fb : BitVec 5) (fmt : BitVec 4) (pd : BitVec 3) (s : State) : Out :=
  let fm := fmt.toNat
  let d := sparseDesc fd pd [⟨fa, [tileFmt fm], false⟩, ⟨fb, [6], false⟩] none fun _ => 64
  .next (match s.streamOf fa, s.streamOf fb, s.streamOf fd with
    | some (i, g), some (o, b), none =>
      if g.wr || g.fmt.toNat != tileFmt fm || !b.wr || b.fmt != 6#4 then s.vecRefuse d
      else if g.left = 0 ∨ b.left = 0 then s.vecNothing d
      else
        let n := min g.left (tileLen fm)
        match s.pullRows s.iss.core n [.stream i] with
        | .blocked s' => s.vecWait s'
        | .rows s1 rows fault =>
          let c0 : RC := ⟨0, s1.cur.rseq⟩
          match fault with
          | some _ => s1.enterVec d n rows.length ⟨[], c0, none⟩ none fault
          | none =>
            let l := padTo (tileLen fm) (rows.map fun r => (r.headD 0).toNat)
            let t := spackTile fm (if planeWidth fm = 4 then nibbles l else l)
            match s1.pushAll s1.iss.core o s1.vpc s1.curCore.seq 0 (t.1.map (BitVec.ofNat 32)) with
            | .blocked s' => s.vecWait s'
            | .done s1 _ late =>
              s1.enterVec d n rows.length ⟨[], c0, some t.2.isNone⟩ (some (fd, groupWord t.2)) late
    | _, _, _ => s.vecRefuse d)

/-! ### SPACK.CHK (R207) -/

/-- The first group of metadata bytes whose two positions are one. -/
def badNibble (bytes : List Nat) : Option Nat := (nibbles bytes).findIdx? fun n => n % 4 == n / 4

/-- SPACK.CHK (R207). -/
def execSpackChk (fd fa : BitVec 5) (_fmt : BitVec 4) (pd : BitVec 3) (s : State) : Out :=
  let d := { sparseDesc fd pd [⟨fa, [6], false⟩] none fun _ => 8 with bad := (s.streamOf fd).isSome }
  .next (match s.streamOf fa with
    | none => s.vecRefuse d
    | some (_, g) =>
      if s.vecBad d then s.vecRefuse d
      else
        s.vecRun d (min g.left 128) none fun rows _ c =>
          let b := badNibble (rows.map fun r => (r.headD 0).toNat)
          ⟨[(groupWord b).setWidth 32], c, some b.isNone⟩)

/-! ### NFSCAN (R203, R208) -/

/-- An Inf or NaN code. -/
def nonFinite (fmt code : Nat) : Bool :=
  match valueOf fmt code with
  | .fin _ => false
  | _ => true

/-- The four flag bytes of a panel, block h of column c at bit 2c + h. -/
def panelFlags (fmt : Nat) (l : List Nat) : List Nat :=
  let nf := l.map (nonFinite fmt)
  let v := ofBits ((List.range 32).map fun b =>
    (List.range 32).any fun k => nf.getD (16 * (32 * (b % 2) + k) + b / 2) false)
  [v % 256, v / 2 ^ 8 % 256, v / 2 ^ 16 % 256, v / 2 ^ 24]

/-- NFSCAN (R208, R209): every panel it begins gives flags; a panel cut by a failing element gives none (R180). An empty source
clears P[PD]; an exhausted destination leaves everything as it is (R178, log 65). -/
def execNfscan (fd fa : BitVec 5) (fmt : BitVec 4) (pd : BitVec 3) (s : State) : Out :=
  let fm := fmt.toNat
  let d := { sparseDesc fd pd [⟨fa, [fm], false⟩] (some [6]) fun n => ceilDiv n 32 with tells := true }
  .next (match s.streamOf fa, s.streamOf fd with
    | some (_, g), some (_, b) =>
      if s.vecBad d then s.vecRefuse d
      else if g.left ≠ 0 ∧ b.left = 0 then s.vecNothing d
      else
        s.vecRun d g.left none fun rows bad c =>
          let l := rows.map fun r => (r.headD 0).toNat
          ⟨((overUnits 1024 (fun l c => (panelFlags fm l, c)) bad l.length l c).1).map (BitVec.ofNat 32), c, none⟩
    | _, _ => s.vecRefuse d)

end Sys2Proof.Machine
end

