-- ==== Sys2Proof/Machine/CopyEngine.lean ====
section
/-! DEFINITION. The copy engine: taking and checking a packet, moving its bytes with their transforms, completing it and
failing it (R284, R289 to R293, R298, R349, R364, R365, R374, R389). -/
namespace Sys2Proof.Machine

/-! ### The fields of a packet (R283) -/

def pktWord (w : List Word) (j : Nat) : Word := w.getD j 0
def pktOpc (w : List Word) : Nat := ((pktWord w 0).extractLsb' 0 8).toNat
def pktHv (w : List Word) : Bool := (pktWord w 0).getLsbD 8
def pktCv (w : List Word) : Bool := (pktWord w 0).getLsbD 9
def pktFe (w : List Word) : Bool := (pktWord w 0).getLsbD 10
def pktHandle (w : List Word) : Nat := ((pktWord w 0).extractLsb' 16 6).toNat
def pktScope (w : List Word) : Nat := ((pktWord w 0).extractLsb' 28 3).toNat
def pktRows (w : List Word) : Nat := (pktWord w 3).toNat / 2 ^ 32
def pktRowBytes (w : List Word) : Nat := (pktWord w 3).toNat % 2 ^ 32
def pktSStride (w : List Word) : Int := ((pktWord w 4).extractLsb' 32 32).toInt
def pktDStride (w : List Word) : Int := ((pktWord w 4).extractLsb' 0 32).toInt
def pktPlane (w : List Word) : Bool := (pktWord w 5).getLsbD 0
def pktNfs (w : List Word) : Bool := (pktWord w 5).getLsbD 1
def pktDec (w : List Word) : Bool := (pktWord w 5).getLsbD 2
def pktEfmt (w : List Word) : Nat := ((pktWord w 5).extractLsb' 4 4).toNat
def pktKslot (w : List Word) : Nat := ((pktWord w 5).extractLsb' 8 4).toNat
def pktCaddr (w : List Word) : Word := ((pktWord w 6).extractLsb' 3 53 ++ 0#3).signExtend 64
def pktSeq (w : List Word) : Nat := (pktWord w 7).toNat / 2 ^ 32
/-- Bytes the packet reads (R284). -/
def pktBytes (w : List Word) : Nat := pktRows w * pktRowBytes w
/-- Bytes of a 64-row panel of the non-finite scan (R292). -/
def pktPanel (w : List Word) : Nat := 1024 * elemBytes (pktEfmt w)
/-- The source is contiguous. -/
def pktSContig (w : List Word) : Bool := pktRows w == 1 || pktSStride w == (pktRowBytes w : Int)

/-- Where the packet's bytes go: spans of addresses, or of offsets with HV (R284, R292). -/
def pktSpans (w : List Word) : List (Int × Nat) :=
  let dst : Int := ((pktWord w 2).toNat : Int)
  if pktBytes w = 0 then []
  else if pktPlane w then [(dst, pktRows w / 16 * (aPlanes (pktEfmt w) * 128))]
  else if pktNfs w then [(dst, pktBytes w + pktBytes w / pktPanel w * 4)]
  else (List.range (pktRows w)).map fun (r : Nat) => (dst + (r : Int) * pktDStride w, pktRowBytes w)
/-- Where they come from. -/
def pktSource (w : List Word) : List (Int × Nat) :=
  if pktBytes w = 0 then []
  else (List.range (pktRows w)).map fun (r : Nat) => (((pktWord w 1).toNat : Int) + (r : Int) * pktSStride w, pktRowBytes w)

/-! ### Checks (R290, R292) -/

/-- A reserved bit is set, or a field holds a value it may not (R283). -/
def pktReserved (w : List Word) : Bool :=
  pktWord w 0 &&& 0xFFFFFFFF88C0F800#64 != 0 || pktOpc w != 1 || pktScope w == 7 ||
  decide (2 ^ 24 < pktRowBytes w) || pktWord w 5 &&& 0xFFFFFFFFFFFFF008#64 != 0 ||
  (if pktCv w then pktWord w 6 &&& 7#64 != 0 else pktWord w 6 != 0) || pktWord w 7 &&& 0xFE#64 != 0

/-- Bytes of a row of the plane transform (R292). -/
def planeRow (ef : Nat) : Nat := if ef = 8 then 48 else if ef = 5 ∨ ef = 7 then 32 else 64 * elemBytes ef

/-- The transforms obey R292; the base of the buffer is known once the handle is allotted. -/
def pktTransformsOk (w : List Word) (h : Option Handle) : Bool :=
  let dst := pktWord w 2
  !(pktPlane w && pktNfs w) &&
  (pktEfmt w == 0 || pktPlane w || pktNfs w) && (pktKslot w == 0 || pktDec w) &&
  (!pktPlane w ||
    (decide (1 ≤ pktEfmt w ∧ pktEfmt w ≤ 8) && pktRows w % 16 == 0 && pktRowBytes w == planeRow (pktEfmt w) &&
      pktDStride w == 0 &&
      (if pktHv w then h.all fun h => (h.base + dst.toNat) % 128 == 0 else inWindow dst && winOff dst % 128 == 0))) &&
  (!pktNfs w ||
    (decide (1 ≤ pktEfmt w ∧ pktEfmt w ≤ 4) && (pktRows w == 1 || pktDStride w == (pktRowBytes w : Int)) &&
      pktBytes w % pktPanel w == 0)) &&
  (!pktDec w ||
    ((pktWord w 1).toNat % 4096 == 0 && pktSContig w && pktBytes w % 4096 == 0 &&
      (pktHv w || (inWindow dst && (pktSpans w).all fun e => inWindow (BitVec.ofInt 64 e.1)))))

/-- The first byte of a span that lies in the window outside the region of `lmem` bytes (R290). -/
def bandFail (lmem : Nat) (e : Int × Nat) : Option Word :=
  let a := BitVec.ofInt 64 e.1
  let wb := BitVec.ofNat 64 Config.windowBase
  let x := (a - wb).toNat
  let hit := wb + BitVec.ofNat 64 lmem
  if e.2 = 0 then none
  else if x < lmem then (if x + e.2 ≤ lmem then none else some hit)
  else if x < Config.windowBytes then some a
  else if x + e.2 ≤ 2 ^ 64 + lmem then none else some hit

/-- The first offset of a span outside a buffer of `len` bytes (R290). -/
def bufferFail (len : Nat) (e : Int × Nat) : Option Word :=
  if 0 ≤ e.1 ∧ e.1 + (e.2 : Int) ≤ (len : Int) then none
  else if e.1 < 0 ∨ (len : Int) ≤ e.1 then some (BitVec.ofInt 64 e.1) else some (BitVec.ofNat 64 len)

/-- The reason of a failed translation: `x` for one that does not translate, 5 for protection, 6 for poison (R290). -/
def xlateReason (x : Nat) (c : Cause) : Nat :=
  match c with
  | .translation => x
  | .poison => 6
  | _ => 5

/-- What the checks find: a table entry to wait for; a reason with its address; or the physical completion address. -/
inductive PktCheck where
  | wait
  | bad (reason : Nat) (addr : Word)
  | good (caddr : Option Nat)
  deriving DecidableEq, Repr

/-- A unit translates for a launch; a page of model ciphertext denies it. -/
def State.unitXlate (s : State) (d asn root : Nat) (a : Word) (need : Need) : State × XRes :=
  match s.translateUnit d asn root a need with
  | (s, .ok pa e) => (s, if e.flags.getLsbD 9 then .fail .protection 0 else .ok pa e)
  | r => r

/-- The engine translates for a packet, which reads no page of model ciphertext but through DEC (R292, R293). -/
def State.copyXlate (s : State) (q : EngQueue) (a : Word) (need : Need) : State × XRes :=
  s.unitXlate q.dom q.asn q.root a need

/-- CV's check of CADDR (R290). -/
def State.checkCaddr (s : State) (q : EngQueue) (w : List Word) : State × PktCheck :=
  let a := pktCaddr w
  if !pktCv w then (s, .good none)
  else if inWindow a then
    (s, if inRegion (s.launch q.dom q.launch).hdr.lmem (winOff a) 8 then .good none else .bad 9 a)
  else
    match s.copyXlate q a .write with
    | (s, .wait) => (s, .wait)
    | (s, .ok pa _) => (s, .good (some pa))
    | (s, .fail c _) => (s, .bad (xlateReason 4 c) a)

/-- A page of the source of a DEC packet is one of model ciphertext under its key slot (R292). -/
def decPage (w : List Word) (e : TlbEnt) : Bool := e.flags.getLsbD 9 && e.key.toNat == pktKslot w

/-- DEC's requirement of every source page that translates (R292); one that does not is found in the transfer. None: a table
entry to wait for. -/
def State.checkSource (s : State) (q : EngQueue) (w : List Word) (a : Word) : Nat → State × Option Bool
  | 0 => (s, some true)
  | n + 1 =>
    match s.translateUnit q.dom q.asn q.root a .read with
    | (s, .wait) => (s, none)
    | (s, .ok _ e) => if decPage w e then s.checkSource q w (a + 4096#64) n else (s, some false)
    | (s, .fail _ _) => s.checkSource q w (a + 4096#64) n

/-- The checks of a packet in the order of R290; `slot` is the slot's address. -/
def State.checkPacket (s : State) (c : Nat) (q : EngQueue) (slot : Word) (w : List Word) : State × PktCheck :=
  let h := (s.core c).handle q.launch (pktHandle w)
  let lmem := (s.launch q.dom q.launch).hdr.lmem
  let dest := if pktHv w then (pktSpans w).findSome? (bufferFail ((h.map (·.len)).getD 0)) else (pktSpans w).findSome? (bandFail lmem)
  if pktSeq w ≠ q.next % 2 ^ 32 then (s, .bad 8 slot)
  else if pktOpc w = 0 then (s, .good none)
  else if pktReserved w || !pktTransformsOk w h then (s, .bad 1 slot)
  else
    match s.checkSource q w (pktWord w 1) (if pktDec w then pktBytes w / 4096 else 0) with
    | (s, none) => (s, .wait)
    | (s, some false) => (s, .bad 1 slot)
    | (s, some true) =>
      if pktHv w && h.isNone then (s, .bad 2 slot)
      else
        match dest.or ((pktSource w).findSome? (bandFail lmem)) with
        | some a => (s, .bad 9 a)
        | none => s.checkCaddr q w

/-! ### Taking a packet (R289) -/

/-- Address of the slot the engine expects the next packet of a queue in. -/
def EngQueue.slotVa (q : EngQueue) : Word := q.va + 64#64 + BitVec.ofNat 64 (64 * (q.next % max q.cap 1))

/-- Physical addresses of the head slot and of the header, while the ring is mapped as R286 asks and the slot can be read at
its home. -/
def State.headPa (s : State) (q : EngQueue) : State × Option (Nat × Nat) :=
  match s.copyXlate q q.slotVa .read with
  | (s, .ok pa _) =>
    match s.copyXlate q q.va .write with
    | (s, .ok hp _) =>
      let n := (s.dom q.dom).bytes
      if pa + 64 ≤ n ∧ hp + 64 ≤ n then
        match s.gateAll q.dom false [(pa, 64)] with
        | .error s => (s, none)
        | .ok s => (s, some (pa, hp))
      else (s, none)
    | (s, _) => (s, none)
  | (s, _) => (s, none)

/-- The eight words at a physical address. -/
def State.slotWords (s : State) (d pa : Nat) : List Word :=
  (List.range 8).map fun j => BitVec.ofNat 64 (s.homeRead d (pa + 8 * j) 8)

/-- A record at the slot's line whose releaser the engine's acquire of scope 6 must drain first. -/
def State.slotDrain (s : State) (c : Nat) (q : EngQueue) (pa : Nat) : Option RelRec :=
  match (s.dom q.dom).recAt pa with
  | some r => if r.mustDrain (engineAgent c) 6 then some r else none
  | none => none

/-- The launch's context stands on its core, and no drain at its completion has begun (R298, R328). -/
def Launch.onCores (l : Launch) : Bool := match l.phase with
  | .draining _ => false
  | .out => false
  | .failed _ => false
  | .preempting _ => false
  | .checkpointing _ => false
  | _ => true

/-- A queue's head at a physical address is ready: it holds the expected phase, and the handle it names is free or not
allotted. The words other than word 7 are read after the acquire. -/
def State.headReady (s : State) (c : Nat) (q : EngQueue) (pa : Nat) : Bool :=
  let w := s.slotWords q.dom pa
  (s.launch q.dom q.launch).onCores && (pktWord w 7).toNat % 2 == phaseOf q.next (max q.cap 1) &&
    ((s.slotDrain c q pa).isSome ||
      !(pktOpc w == 1 && pktHv w && ((s.core c).handle q.launch (pktHandle w)).any (fun h => h.st != 0)))

/-- Queues in the order of service: the one after the last served first, in binding order. -/
def Engine.order (e : Engine) : List EngQueue :=
  match e.last with
  | none => e.queues
  | some (n, va) =>
    match e.queues.findIdx? fun q => q.launch == n && q.va == va with
    | none => e.queues
    | some i => e.queues.drop (i + 1) ++ e.queues.take (i + 1)

/-- The queues of a list whose heads are ready, with the addresses of each head. -/
def State.readyHeads (s : State) (c : Nat) : List EngQueue → State × List (EngQueue × Nat × Nat)
  | [] => (s, [])
  | q :: rest =>
    match s.headPa q with
    | (s1, none) => (s.asked s1).readyHeads c rest
    | (s1, some p) =>
      let r := s1.readyHeads c rest
      (r.1, if s1.headReady c q p.1 then (q, p) :: r.2 else r.2)

/-- The queue the engine serves: the highest PRIO, then the order of service (R289). -/
def State.chooseQueue (s : State) (c : Nat) : State × Option (EngQueue × Nat × Nat) :=
  let r := s.readyHeads c (s.core c).eng.order
  let top := r.2.foldl (fun m q => max m q.1.prio) 0
  (r.1, r.2.find? fun q => q.1.prio == top)

/-- An engine record that waits in its holding place keeps the engine from a new packet (R335). -/
def Core.engineHeld (k : Core) : Bool := (k.trapq.drop 16).any fun r => r.tid?.isNone

/-- The engine of a core has these contents. -/
def State.modEng (s : State) (c : Nat) (g : Engine → Engine) : State := s.modCore c fun k => { k with eng := g k.eng }
def State.setXfer (s : State) (c : Nat) (x : Option Xfer) : State := s.modEng c fun e => { e with cur := x }

/-- A drain of the releaser a record at `pa` names, for the engine of core `c` (R265, R267). -/
def State.engineDrain (s : State) (c d pa : Nat) (r : RelRec) : State :=
  if r.st = 1 then
    let m := s.newMsg c 16 (.drain r.agent r.epoch 0) pa 8 0
    ((s.setRec d pa { r with st := 2 }).post { m with dom := d, agent := engineAgent c })
  else s

/-- The packet fails. -/
def Xfer.failed (x : Xfer) (r : Nat) (a : Word) : Xfer := { x with fail := some (r, a) }

/-- A packet taken from a queue, before anything has moved. -/
def EngQueue.taken (q : EngQueue) (w : List Word) : Xfer :=
  { qva := q.va, launch := q.launch, dom := q.dom, asn := q.asn, root := q.root, idx := q.next, w := w, caddr := none,
    rpos := 0, wpos := 0, buf := [], out := [], scan := [], scanned := false, closed := false, spage := none, dpage := none,
    fail := none }

/-- The packet counts as taken: RI moves, and the queue is the one served last (R289). -/
def State.countTaken (s : State) (c : Nat) (q : EngQueue) (hp : Nat) : State :=
  (s.homeStore q.dom q.launch (hp + 8) 8 (q.next + 1)).modEng c fun e =>
    { e with last := some (q.launch, q.va), queues := e.queues.map fun p =>
        if p == q then { p with next := q.next + 1 } else p }

/-- Take the packet of a queue and check it (R289, R290). -/
def State.takePacket (s : State) (c : Nat) (q : EngQueue) (pa hp : Nat) : State :=
  let w := s.slotWords q.dom pa
  let x := q.taken w
  if (s.dom q.dom).poisoned pa 64 then (s.countTaken c q hp).setXfer c (some (x.failed 6 q.slotVa))
  else
    match s.checkPacket c q q.slotVa w with
    | (s1, .wait) => s.asked s1
    | (s1, .bad r a) => (s1.countTaken c q hp).setXfer c (some (x.failed r a))
    | (s1, .good ca) =>
      let s1 := s1.countTaken c q hp
      if pktOpc w = 0 then s1
      else
        let s2 := s1.setXfer c (some { x with caddr := ca })
        match (s.core c).handle q.launch (pktHandle w) with
        | some h => if pktHv w then s2.setHandle c q.launch (pktHandle w) (some { h with st := 1 }) else s2
        | none => s2

/-- COPY_PACKET_ACCEPT (R289, R290): the idle engine of a core reads word 7 of the head it serves as an acquire of scope
6, then the other words, and counts the packet as taken. -/
def execCopyPacketAccept (c : Nat) (s : State) : Out :=
  let k := s.core c
  .next (if k.eng.cur.isSome || k.engineHeld then s
    else
      match s.chooseQueue c with
      | (s1, none) => s.asked s1
      | (s1, some (q, pa, hp)) =>
        match s1.gateAll q.dom true [(hp, 8)] with
        | .error s' => s.asked s'
        | .ok s1 =>
          let s1 := s1.touchLines q.dom [(pa, 64)]
          match s1.slotDrain c q pa with
          | some r => s1.engineDrain c q.dom pa r
          | none => s1.takePacket c q pa hp)

/-! ### Moving bytes (R284, R292, R293) -/

/-- The queue whose context a packet moves in. -/
def Xfer.ctx (x : Xfer) : EngQueue := ⟨x.qva, x.launch, x.dom, x.asn, x.root, 0, 1, x.idx⟩

/-- Source address of byte `r`, in packet order. -/
def Xfer.srcAt (x : Xfer) (r : Nat) : Word :=
  let rb := max (pktRowBytes x.w) 1
  if pktDec x.w then pktWord x.w 1 + BitVec.ofNat 64 r
  else BitVec.ofInt 64 (((pktWord x.w 1).toNat : Int) + ((r / rb : Nat) : Int) * pktSStride x.w + ((r % rb : Nat) : Int))
/-- Destination address, or offset with HV, of byte `i` of what is written. -/
def Xfer.dstAt (x : Xfer) (i : Nat) : Int :=
  let rb := max (pktRowBytes x.w) 1
  let dst : Int := ((pktWord x.w 2).toNat : Int)
  if pktPlane x.w || pktNfs x.w then dst + (i : Int)
  else dst + ((i / rb : Nat) : Int) * pktDStride x.w + ((i % rb : Nat) : Int)

/-- The code of R197 of a value of an INT4 element. -/
def oliInt (v : Nat) : Nat := if 8 ≤ v then (16 - v) + 16 + 32 * 10 else v + 32 * 10
/-- The code of R197 of an E4M3 outlier. -/
def oliOutlier (b : Nat) : Nat :=
  let e := b / 8 % 16
  let f := b % 8
  let sg := 16 * (b / 128 % 2)
  if e = 15 ∧ f = 7 then 0 else if e = 0 then f + sg + 32 else 8 + f + sg + 32 * e
/-- The codes of the 32 elements of an OLI4 group (R63, R197). -/
def oliCodes (g : List Nat) : List Nat :=
  (List.range 16).flatMap fun j =>
    let b := g.getD j 0
    let comp := g.getD (16 + j / 2) 0 / 16 ^ (j % 2) % 16
    if b % 16 = 8 then [oliOutlier (b / 16 * 16 + comp), 320]
    else if b / 16 = 8 then [oliInt (b % 16), 320]
    else [oliInt (b % 16), oliInt (b / 16)]

/-- A tile as the plane transform writes it (R191, R196, R197, R292). -/
def planeTile (ef : Nat) (bytes : List Byte) : List Byte :=
  let codes := if ef = 8 then (List.range 32).flatMap fun g => oliCodes (((bytes.drop (24 * g)).take 24).map (·.toNat))
    else codesOf ef bytes
  (planeBytes (aPlanes ef) codes).map (BitVec.ofNat 8)

/-- The flag bytes of every panel of a copy (R208, R292). -/
def scanFlags (ef : Nat) (bytes : List Byte) : List Byte :=
  let n := 1024 * elemBytes ef
  (List.range (bytes.length / n)).flatMap fun p =>
    (panelFlags ef (codesOf ef ((bytes.drop (n * p)).take n))).map (BitVec.ofNat 8)

/-- Turn read bytes into bytes to write: a tile at a time, a decrypted chunk as it comes, else a row at a time. -/
def Xfer.refill (x : Xfer) : Xfer :=
  let rb := pktRowBytes x.w
  if x.out ≠ [] then x
  else if pktPlane x.w then
    if x.buf ≠ [] ∧ 16 * rb ≤ x.buf.length then
      { x with out := planeTile (pktEfmt x.w) (x.buf.take (16 * rb)), buf := x.buf.drop (16 * rb) }
    else x
  else if pktDec x.w && !x.buf.isEmpty then { x with out := x.buf, buf := [] }
  else if x.buf ≠ [] ∧ rb ≤ x.buf.length then { x with out := x.buf.take rb, buf := x.buf.drop rb }
  else if pktNfs x.w && !x.scanned && x.rpos == pktBytes x.w then
    { x with out := scanFlags (pktEfmt x.w) x.scan, scanned := true }
  else x

/-- Every byte has been written. -/
def Xfer.moved (x : Xfer) : Bool :=
  x.rpos == pktBytes x.w && x.buf.isEmpty && x.out.isEmpty && (x.scanned || !pktNfs x.w)

/-- Bytes read. -/
def Xfer.got (x : Xfer) (b : List Byte) (n : Nat) : Xfer :=
  { x with rpos := x.rpos + n, buf := x.buf ++ b, scan := if pktNfs x.w then x.scan ++ b else x.scan }.refill
/-- Bytes written. -/
def Xfer.wrote (x : Xfer) (n : Nat) : Xfer := { x with wpos := x.wpos + n, out := x.out.drop n }.refill
/-- The first poisoned byte of `n` bytes at a physical address, as an offset. -/
def firstPoison (ws : List Nat) (pa n : Nat) : Nat :=
  ((List.range n).find? fun i => ws.contains ((pa + i) / 8)).getD 0

/-- The key slot of a chunk as it stands, and where the chunk's tag lies; or the reason it may not be used (R364, R365). -/
def State.chunkKey (s : State) (x : Xfer) (pa : Nat) : Except Nat (KeySlot × Nat) :=
  match lookup (s.dom x.dom).keys (pktKslot x.w) with
  | none => .error 5
  | some k =>
    let i := (pa - k.pbase) / 4096
    if (s.launch x.dom x.launch).digest ≠ k.meas ∨ pa < k.pbase ∨ k.nchunk ≤ i then .error 5
    else .ok (k, k.tagbase + 16 * i)

/-- Decrypt a chunk under a key slot, with the tag at an address (R365); the reason of its failure else. -/
def decryptChunk (v : Dom) (k : KeySlot) (pa ta : Nat) (ct : List Byte) : Except Nat (List Byte) :=
  if v.poisoned ta 16 then .error 6
  else
    match Config.gcmDecrypt k.key (BitVec.ofNat 96 ((pa - k.pbase) / 4096)) (natToBytes 8 k.kid.toNat) ct
        (BitVec.ofNat 128 (Memory.read v.mem ta 16)) with
    | none => .error 7
    | some p => .ok p

/-- The page that holds an address, where the engine's translation of it stands: the one obtained at the page's boundary
(R293). -/
def heldPage (h : Option (Nat × Nat)) (a : Word) : Option Nat :=
  h.bind fun p => if p.1 = a.toNat / 4096 then some (p.2 + a.toNat % 4096) else none

/-- A page the engine now moves bytes of, from the translation of an address. -/
def pageFrom (a : Word) (pa : Nat) : Option (Nat × Nat) := some (a.toNat / 4096, pa - a.toNat % 4096)

/-- Read `n` bytes of the source at a physical address, through DEC or as they are (R292, R365). -/
def State.copyBytes (s : State) (c : Nat) (x : Xfer) (a : Word) (pa n : Nat) : State :=
  let done (s : State) (x : Xfer) : State := s.setXfer c (some x)
  let ps := linePieces 33 pa n
  let struck (s : State) (k : State → State) : State :=
    let v := s.dom x.dom
    if v.poisoned pa n then done s (x.failed 6 (a + BitVec.ofNat 64 (firstPoison v.poison pa n))) else k s
  if pktDec x.w then
    match s.chunkKey x pa with
    | .error r => done s (x.failed r a)
    | .ok (k, ta) =>
      s.gateLines x.dom false ((ta, 16) :: ps) fun s => struck (s.touchLines x.dom ((ta, 16) :: ps)) fun s =>
        match decryptChunk (s.dom x.dom) k pa ta (Memory.bytes (s.dom x.dom).mem pa n) with
        | .error r => done s (x.failed r a)
        | .ok p => done s (x.got p n)
  else
    s.gateLines x.dom false ps fun s => struck (s.touchLines x.dom ps) fun s =>
      done s (x.got (Memory.bytes (s.dom x.dom).mem pa n) n)

/-- Read the next piece of the source: to the end of its row and its page (R293). -/
def State.copyRead (s : State) (c : Nat) (x : Xfer) : State :=
  let a := x.srcAt x.rpos
  let rb := max (pktRowBytes x.w) 1
  let left := if pktDec x.w then pktBytes x.w - x.rpos else rb - x.rpos % rb
  let n := min left (4096 - a.toNat % 4096)
  let done (s : State) (x : Xfer) : State := s.setXfer c (some x)
  let go (s : State) (x : Xfer) (pa : Nat) : State :=
    if (s.dom x.dom).bytes < pa + n then done s.countPeer (x.failed 6 a) else s.copyBytes c x a pa n
  if inWindow a then
    let o := (s.launch x.dom x.launch).lbase + winOff a
    let x := { x with spage := none }
    if pktDec x.w then done s (x.failed 5 a)
    else if s.localPoison c o n then
      done s (x.failed 6 (a + BitVec.ofNat 64 (firstPoison (s.core c).lpoison o n)))
    else done s (x.got (Memory.bytes (s.core c).lmem o n) n)
  else
    match heldPage x.spage a with
    | some pa => go s x pa
    | none =>
      match s.translateUnit x.dom x.asn x.root a .read with
      | (s1, .wait) => s.asked s1
      | (s, .fail cause _) => done s (x.failed (xlateReason 3 cause) a)
      | (s, .ok pa e) =>
        if pktDec x.w && !decPage x.w e then done s (x.failed 1 x.ctx.slotVa)
        else if !pktDec x.w && e.flags.getLsbD 9 then done s (x.failed 5 a)
        else go s { x with spage := pageFrom a pa } pa

/-- Write the next piece: to the end of its row and its page (R293, R389). -/
def State.copyWrite (s : State) (c : Nat) (x : Xfer) : State :=
  let l := s.launch x.dom x.launch
  let d := x.dstAt x.wpos
  let rb := max (pktRowBytes x.w) 1
  let left := if pktPlane x.w || pktNfs x.w then x.out.length else min x.out.length (rb - x.wpos % rb)
  let a := BitVec.ofInt 64 d
  let done (s : State) (x : Xfer) : State := s.setXfer c (some x)
  let here (s : State) (o n : Nat) : State :=
    done (s.localWrite c o n (bytesToNat (x.out.take n))) (x.wrote n)
  if pktHv x.w then
    match (s.core c).handle x.launch (pktHandle x.w) with
    | some h => here s (l.lbase + h.base + d.toNat) left
    | none => done s (x.failed 2 a)
  else
    let n := min left (4096 - a.toNat % 4096)
    let go (s : State) (x : Xfer) (pa : Nat) : State :=
      if (s.dom x.dom).bytes < pa + n then done s.countPeer (x.wrote n)
      else
        let ps := linePieces 33 pa n
        s.gateLines x.dom true ps fun s =>
          done (ps.foldl (fun s p => s.homeStore x.dom x.launch p.1 p.2
            (bytesToNat ((x.out.drop (p.1 - pa)).take p.2))) s) (x.wrote n)
    if inWindow a then here s (l.lbase + winOff a) n
    else
      match heldPage x.dpage a with
      | some pa => go s x pa
      | none =>
        match s.copyXlate x.ctx a .write with
        | (s1, .wait) => s.asked s1
        | (s, .fail cause _) => done s (x.failed (xlateReason 4 cause) a)
        | (s, .ok pa _) => go s { x with dpage := pageFrom a pa } pa

/-- An invalidation may concern an address space. -/
def InvKind.hitsSpace : InvKind → Nat → Bool
  | .va n _, x => n == x
  | .space n, x => n == x
  | .all, _ => true
  | .page _, _ => false

/-- A packet moves bytes of a page: of the source page there is something to read, or something read to write; where no
source page is held, something to write to the destination page. A completion store that is being performed counts as
such (R293, log 69). -/
def Xfer.inPage (x : Xfer) : Bool :=
  let more := decide (x.rpos < pktBytes x.w)
  let at_ (h : Option (Nat × Nat)) (a : Word) : Bool := h.any fun p => p.1 == a.toNat / 4096
  x.fail.isNone &&
    if x.closed then x.caddr.isSome
    else if x.spage.isSome then (more && at_ x.spage (x.srcAt x.rpos)) || !x.out.isEmpty
    else !x.moved && at_ x.dpage (BitVec.ofInt 64 (x.dstAt x.wpos))

/-- The engine has still to receive an invalidation that concerns a packet's address space (R293). -/
def State.shootdown (s : State) (c : Nat) (x : Xfer) : Bool :=
  s.invals.any fun i => i.dom == x.dom && i.kind.hitsSpace x.asn && i.todo.contains (8192 + c)

/-- COPY_PAGE_BOUNDARY (R293): the engine goes on with its packet, to the next boundary of a page, row or tile. At the
boundary of a page it pauses while an invalidation is pending; the bytes of a page move under the translation obtained at its
boundary. -/
def execCopyPageBoundary (c : Nat) (s : State) : Out :=
  .next (match (s.core c).eng.cur with
    | none => s
    | some x =>
      if x.fail.isSome || x.closed then s
      else
        let x := x.refill
        if !x.inPage && s.shootdown c x then s
        else if x.out ≠ [] then s.copyWrite c x
        else if x.rpos < pktBytes x.w then s.copyRead c x
        else s.setXfer c (some x))

/-! ### Completion and failure (R291) -/

/-- The local byte address is one the packet writes. -/
def Xfer.writesLocal (x : Xfer) (base : Nat) (h : Option Handle) (o : Nat) : Bool :=
  (pktSpans x.w).any fun e =>
    let lo : Int := match h with
      | some h => (base : Int) + (h.base : Int) + e.1
      | none => if inWindow (BitVec.ofInt 64 e.1) then (base : Int) + (winOff (BitVec.ofInt 64 e.1) : Int) else -(2 ^ 65 : Int)
    decide (lo ≤ (o : Int) ∧ (o : Int) < lo + (e.2 : Int))

/-- Step 2: the window words the packet has written whole, rising. -/
def State.wholeWords (s : State) (c : Nat) (x : Xfer) : List Nat :=
  let l := s.launch x.dom x.launch
  let h := if pktHv x.w then (s.core c).handle x.launch (pktHandle x.w) else none
  (List.range (l.hdr.lmem / 8)).filterMap fun j =>
    let o := l.lbase + 8 * j
    if (List.range 8).all fun i => x.writesLocal l.lbase h (o + i) then some o else none

/-- Steps 2 and 3 (R291). -/
def State.closeXfer (s : State) (c : Nat) (x : Xfer) : State :=
  let s := if pktFe x.w then (s.wholeWords c x).foldl (fun s o => s.fillWord c o (BitVec.ofNat 64 (s.localRead c o 8))) s else s
  let s := if pktHv x.w then
      match (s.core c).handle x.launch (pktHandle x.w) with
      | some h => s.setHandle c x.launch (pktHandle x.w) (some { h with st := 2, err := false, reason := 0 })
      | none => s
    else s
  s.setXfer c (some { x with closed := true })

/-- Step 4 performed: the engine's release write and the record it leaves (R264). -/
def State.storeDone (s : State) (c : Nat) (x : Xfer) (pa : Nat) : State :=
  let sc := pktScope x.w
  let s := (s.homeStore x.dom x.launch pa 8 ((pktWord x.w 6).toNat / 2 ^ 56)).setXfer c none
  if sc = 0 then s
  else
    let r := s.releaseEvent (engineAgent c) sc
    r.1.setRec x.dom pa { r.2 with st := if sc = 6 then 3 else 1 }

/-- Step 4 at a physical address: after the drain its line's record asks for (R264, R267). -/
def State.completeAt (s : State) (c : Nat) (x : Xfer) (pa : Nat) : State :=
  if (s.dom x.dom).bytes < pa + 8 then (s.countPeer).setXfer c none
  else
    (s.setXfer c (some x)).gateLines x.dom true [(pa, 8)] fun s =>
      match (s.dom x.dom).recAt pa with
      | some r => if r.mustOverwrite (engineAgent c) then s.engineDrain c x.dom pa r else s.storeDone c x pa
      | none => s.storeDone c x pa

/-- Step 4 (R291): the completion store. -/
def State.completeStore (s : State) (c : Nat) (x : Xfer) : State :=
  let a := pktCaddr x.w
  if !pktCv x.w then s.setXfer c none
  else if inWindow a then
    (s.localWrite c ((s.launch x.dom x.launch).lbase + winOff a) 8 ((pktWord x.w 6).toNat / 2 ^ 56)).setXfer c none
  else
    match x.caddr with
    | some pa => s.completeAt c x pa
    | none =>
      match s.copyXlate x.ctx a .write with
      | (s1, .wait) => (s.asked s1).setXfer c (some x)
      | (s, .fail cause _) => s.setXfer c (some (x.failed (xlateReason 4 cause) a))
      | (s, .ok pa _) => s.completeAt c { x with caddr := some pa } pa

/-- COPY_COMPLETE (R291): once every byte has been written, the full bits, the handle and the completion store follow in
order. An invalidation that is pending is applied first, as at the boundary of a page (R293). -/
def execCopyComplete (c : Nat) (s : State) : Out :=
  .next (match (s.core c).eng.cur with
    | none => s
    | some x =>
      if x.fail.isSome then s
      else if x.closed then s.completeStore c x
      else if s.shootdown c x then s
      else if x.refill.moved then (s.closeXfer c x).completeStore c { x with closed := true }
      else s)

/-- COPY_ERROR (R291): a failing packet sets its handle full with ERR and its reason, and its record enters the core's
trap queue; the engine goes on. A NOP packet touches no handle (R290). -/
def execCopyError (c : Nat) (s : State) : Out :=
  .next (match (s.core c).eng.cur with
    | none => s
    | some x =>
      match x.fail with
      | none => s
      | some (r, a) =>
        let hn := pktHandle x.w
        let s := if pktHv x.w && pktOpc x.w != 0 then
            match (s.core c).handle x.launch hn with
            | some h =>
              if x.closed && h.st != 2 then s
              else s.setHandle c x.launch hn (some { h with st := 2, err := true, reason := BitVec.ofNat 4 r })
            | none => s
          else s
        let extra := r + hn * 2 ^ 4 + (pktHv x.w).toNat * 2 ^ 10 + ((pktWord x.w 7).toNat / 2 ^ 8 % 2 ^ 24) * 2 ^ 40
        (s.setXfer c none).pushRec c
          (mkRec .copyError (recFlags false false true false false) (tidOf c 0) (BitVec.ofNat 16 (pktSeq x.w)) 0 a
            (BitVec.ofNat 64 extra)))

end Sys2Proof.Machine
end

