-- ==== Sys2Proof/Machine/Deque.lean ====
section
/-! DEFINITION. Work deques and stealing: DQPUSH, DQPOP, DQSPLIT, DQSTEAL, DQRUN, and the events of steals (R129 to
R140). -/
namespace Sys2Proof.Machine

/-! ### Owner operations -/

/-- Push as DQPUSH and DQSPLIT do (R136): `ok` is what success also does. -/
def State.pushCounted (s : State) (pd : BitVec 3) (w : List Word) (ok : State → State) : State :=
  if s.canPush s.iss.core s.cur then
    if s.foldBlocks s.curAgent then s.loseTurn
    else (ok ((s.pushItem w []).addWork s.cur.dom s.cur.launch 1)).wp pd true
  else s.wp pd false

/-- DQPUSH (R136): kind 3, or kind 1 without .qregs, is illegal. -/
def execDqpush (b : BitVec 6) (pd : BitVec 3) (s : State) : Out :=
  let w := s.cur.getXs b 8
  let kind := itemKind (w.getD 0 0)
  .next (if kind = 3 ∨ (kind = 1 ∧ s.curLaunch.hdr.qregs = 0) then s.takeTrap .illegalInstruction 0 0
    else s.pushCounted pd w id)

/-- The number of elements a thief or a split takes of `n` (R133, R137). -/
def halfUp (n : Word) : Word := (n >>> 1) + (n &&& 1#64)

/-- DQSPLIT (R137). -/
def execDqsplit (a : BitVec 6) (pd : BitVec 3) (disp : BitVec 37) (slot : BitVec 3) (s : State) : Out :=
  let lo := s.rx a
  let hi := s.rx (regAt a 1)
  let mid := hi - halfUp (hi - lo)
  let w := [branchTarget s.iss.pc disp slot &&& ~~~3#64, mid, hi, s.rx (regAt a 2), s.rx (regAt a 3), 0, 0, 0]
  .next (if (hi - lo).toNat < 2 then s.wp pd false else s.pushCounted pd w fun s => s.wx (regAt a 1) mid)

/-- Take the bottom item of the issuing thread's deque (R132): none of an empty one. The turn is lost until the item can be
taken (R273). -/
def State.takeBottom (s : State) (empty : State) (k : State → Item → State) : State :=
  match s.curCore.deque s.cur.launch with
  | [] => empty
  | it :: rest =>
    if !it.after.all s.acked then s.loseTurn
    else k (s.modCurCore fun k => k.setDeque s.cur.launch rest) (s.curCore.readBack s.curLaunch it)

/-- DQPOP (R138). -/
def execDqpop (d : BitVec 6) (pd : BitVec 3) (s : State) : Out :=
  .next (s.takeBottom (s.wp pd false) fun s it => (s.modCur fun t => t.setXs d it.w).wp pd true)

/-! ### Victims (R134) -/

/-- The placed cores of the levels a launch's STEAL names: cluster 2, die 1, partition 0. -/
def inDomain (steal c v : Nat) : Bool :=
  match steal with
  | 0 => true
  | 1 => v / 960 == c / 960
  | _ => v / 6 == c / 6

/-- The cores of a level of a round, `cores` ascending (R134). The spec states the order only within the cluster: the same at
the die and the partition is a DESIGN CHOICE (log 20). -/
def levelCores (cores : List Nat) (c level : Nat) : List Nat :=
  cores.filter fun x => x != c && inDomain (3 - level) c x

/-- A round before its first visit. -/
def Round.start : Round := ⟨1, none, 8⟩

/-- The next visit of a steal round, and the victim sequence after the draw it makes (R134): one draw for the whole of level
1, one for each visit of levels 2 and 3. A level without cores is passed over and nothing is drawn for it: DESIGN CHOICE
(log 20). -/
def nextVisit (cores : List Nat) (steal c : Nat) : Nat → Round → BitVec 32 → Option (Nat × Round) × BitVec 32
  | 0, _, v => (none, v)
  | n + 1, r, v =>
    let l := levelCores cores c r.level
    let on : Round := ⟨r.level + 1, some [], 8⟩
    if 3 < r.level + steal then (none, v)
    else if l = [] then nextVisit cores steal c n on v
    else if r.level = 1 then
      match r.near with
      | some [] => nextVisit cores steal c n on v
      | some (x :: rest) => (some (x, { r with near := some rest }), v)
      | none =>
        let d := drawVictim v
        nextVisit cores steal c n { r with near := some (l.drop (d.1 % l.length) ++ l.take (d.1 % l.length)) } d.2
    else if r.left = 0 then nextVisit cores steal c n on v
    else
      let d := drawVictim v
      (some (l.getD (d.1 % l.length) 0, { r with left := r.left - 1 }), d.2)

/-- The placed cores of a launch, ascending. -/
def Launch.ascending (l : Launch) : List Nat := (List.range Config.cores).filter fun c => l.cores.contains c

/-- The next victim of the round of the thread in a slot; none, and no round, when the round is over (R134). -/
def State.nextVictim (s : State) (c sl : Nat) (r : Round) : State × Option Nat :=
  let t := s.thread c sl
  let l := s.launch t.dom t.launch
  let x := nextVisit l.ascending l.hdr.steal c 5 r (s.core c).vseq
  ((s.modCore c fun k => { k with vseq := x.2 }).modThread c sl fun t => { t with round := x.1.map (·.2) }, x.1.map (·.1))

/-- Send a steal request of the thread in a slot to a victim (R140). -/
def State.sendSteal (s : State) (c sl v : Nat) (dst : Dst) : State :=
  s.post { s.newMsg c sl (.steal v [] none) (2 ^ 60) 8 0 with dst := dst }

/-! ### DQSTEAL (R139) -/

/-- The answer of the thread's steal attempt has come: the item's words, or the cleared predicate (R139). A round ends at the
first item it takes; DQSTEAL.AT is no visit of one (R134). -/
def State.stealDone (s : State) (m : Msg) (d : BitVec 6) (pd : BitVec 3) (visit : Bool) : State :=
  let s := s.dropMsg m.id
  match m.kind with
  | .steal _ _ (some it) =>
    (s.modCur fun t => { t.setXs d it.w with round := if visit then none else t.round }).wp pd true
  | _ => s.wp pd false

/-- Wait for the answer of the attempt noted in the thread's progress, losing turns (R139). -/
def State.stealWait (s : State) (d : BitVec 6) (pd : BitVec 3) (visit : Bool) (p : Prog) : State :=
  match p.ids.head?.bind s.findMsg with
  | some m => if m.st = .poked then s.stealDone m d pd visit else s.loseTurn
  | none => s.wp pd false

/-- Send an attempt and lose turns until it answers. -/
def State.stealFrom (s : State) (v : Nat) (d : BitVec 6) (pd : BitVec 3) : State :=
  (s.sendSteal s.iss.core s.iss.slot v (.steal d pd)).loseWith ⟨1, [s.nextId], 0⟩

/-- DQSTEAL (R139): one attempt at the next victim of the round; when that is over, at the first of a new one. A launch with
no other core to steal from fails at once. That the current round is the thread's is a DESIGN CHOICE (log 20). -/
def execDqsteal (d : BitVec 6) (pd : BitVec 3) (s : State) : Out :=
  let c := s.iss.core
  let sl := s.iss.slot
  .next (match s.cur.prog with
    | some p => s.stealWait d pd true p
    | none =>
      match s.nextVictim c sl (s.cur.round.getD Round.start) with
      | (s, some v) => s.stealFrom v d pd
      | (s, none) =>
        match s.nextVictim c sl Round.start with
        | (s, some v) => s.stealFrom v d pd
        | (s, none) => s.wp pd false)

/-- DQSTEAL.AT (R139). -/
def execDqstealAt (d a : BitVec 6) (pd : BitVec 3) (s : State) : Out :=
  let l := s.curLaunch
  .next (match s.cur.prog with
    | some p => s.stealWait d pd false p
    | none =>
      match coreOfWord (s.rx a) with
      | none => s.protTrap 0
      | some v =>
        if l.cores.contains v && inDomain l.hdr.steal s.iss.core v then s.stealFrom v d pd else s.protTrap 0)

/-! ### DQRUN (R140) -/

/-- A parked DQRUN makes the next visit of a round, or the round is over (R134, R140). -/
def State.visit (s : State) (c sl : Nat) (r : Round) : State :=
  match s.nextVictim c sl r with
  | (s, some v) => s.sendSteal c sl v .none
  | (s, none) => s

/-- DQRUN (R140): the bottom item of the own deque starts in the slot, else the thread parks and steals. -/
def execDqrun (s : State) : Out :=
  let c := s.iss.core
  let sl := s.iss.slot
  let t := s.cur
  let count (s : State) : State := if t.ended then s else s.subWork t.dom t.launch
  .next (if sl = 14 then s.takeTrap .handlerBlock 0 0
    else if s.curAtomics ≠ [] then s.loseTurn
    else s.takeBottom
      (((count s).modCur fun t => { t with ended := true }).visit c sl Round.start |>.park (.deque (s.curCore.cyc + 256)))
      fun s it => ((count s).endEffects c sl).startItem c sl t it.w c [])

/-- STEAL_ROUND (R140): a parked DQRUN visits the next victim of its round; a new round begins every 256 cycles. -/
def execStealRound (c sl : Nat) (s : State) : Out :=
  .next (match s.thread? c sl with
    | none => s
    | some t =>
      match t.st with
      | .parked (.deque next) =>
        if s.stealing c sl then s
        else
          match t.round with
          | some r => s.visit c sl r
          | none =>
            if (s.core c).cyc < next then s
            else (s.modThread c sl fun t => { t with st := .parked (.deque (next + 256)) }).visit c sl Round.start
      | _ => s)

/-! ### Steals at the victim and their answers (R132, R133, R140) -/

/-- What a thief takes of a deque: the item, the deque after it, and whether a split left both parts (R133). -/
def stealTop (acked : Nat → Bool) (q : List Item) : Option (Item × List Item × Bool) :=
  match q.getLast? with
  | none => none
  | some it =>
    if !it.after.all acked then none
    else
      let g (i : Nat) : Word := it.w.getD i 0
      if itemKind (g 0) = 0 then
        let mid := g 2 - halfUp (g 2 - g 1)
        let got : Item := { it with w := it.w.set 1 mid }
        if (g 1).toNat < mid.toNat then some (got, q.dropLast ++ [{ it with w := it.w.set 2 mid }], true)
        else some (got, q.dropLast, false)
      else some (it, q.dropLast, false)

/-- STEAL_REQUEST (R133): a steal is performed at its victim. -/
def execStealRequest (id : Nat) (s : State) : Out :=
  .next (match s.findMsg id with
    | some m =>
      match m.kind with
      | .steal v _ _ =>
        if m.st ≠ .sent then s
        else
          let k := s.core v
          let q := k.deque m.launch
          let top := q.getLast?.toList.map (k.readBack (s.launch m.dom m.launch))
          match stealTop s.acked (q.dropLast ++ top) with
          | none => s.reply { m with kind := .steal v [] none }
          | some (it, q, split) =>
            let s := (s.putDeque v m.dom m.launch q).reply { m with kind := .steal v [] (some it) }
            if split then s.addWork m.dom m.launch 1 else s
      | _ => s
    | none => s)

/-- The context in which a stolen item starts. -/
def State.msgCtx (s : State) (m : Msg) : Thread :=
  { s.launchCtx m.dom m.launch with asn := m.asn, root := m.root }

/-- An answer has come to its slot, its item acquired (R139, R140): a DQSTEAL reads it at its next turn; for a parked
DQRUN, or a slot whose thread has ended, the item starts there. -/
def State.answerTo (s : State) (m : Msg) (it : Option Item) (v : Nat) : State :=
  let ghost := (s.core m.core).ghosts.contains m.slot
  let s' := s.dropMsg m.id
  let unghost (s : State) : State := s.modCore m.core fun k => { k with ghosts := k.ghosts.filter fun x => x != m.slot }
  if ghost then
    match it with
    | none => unghost s'
    | some it => (unghost s').startItem m.core m.slot (s.msgCtx m) it.w v []
  else
    match m.dst with
    | .steal _ _ => s.setMsg { m with st := .poked }
    | _ =>
      match it with
      | none => s'
      | some it => (s'.endEffects m.core m.slot).startItem m.core m.slot (s.msgCtx m) it.w v []

/-- STEAL_ANSWER (R140): the answer of a steal; taking the item acquires its push (R132). -/
def execStealAnswer (id : Nat) (s : State) : Out :=
  .next (match s.findMsg id with
    | some m =>
      match m.kind with
      | .steal v _ it =>
        if m.st ≠ .replied || !m.after.all s.acked then s
        else
          match it.bind (·.rel) with
          | none => s.answerTo m it v
          | some r =>
            match s.acquire m.dom m.core m.agent r.scope r with
            | .done s => s.answerTo m it v
            | .wait s r id =>
              s.setMsg { m with kind := .steal v [] (it.map fun i => { i with rel := some r }), after := [id] }
      | _ => s
    | none => s)

end Sys2Proof.Machine
end

