-- ==== Sys2Proof/Machine/Shake.lean ====
section
/-! DEFINITION. SHAKE256 with an output of 64 bytes, which R53, R364 and R367 name: an outside standard (FIPS 202), PRESUMED
(log 6). -/
namespace Sys2Proof.Machine

/-- Lane (x, y) of a state of 25 lanes of 64 bits stands at x + 5y. -/
abbrev Lanes := List Word

def Lanes.at (a : Lanes) (x y : Nat) : Word := a.getD (x % 5 + 5 * (y % 5)) 0
/-- The lanes that a function of x and y gives. -/
def Lanes.of (f : Nat → Nat → Word) : Lanes := (List.range 25).map fun i => f (i % 5) (i / 5)

/-- The rotations of the lanes, at x + 5y. -/
def laneTurns : List Nat :=
  [0, 1, 62, 28, 27, 36, 44, 6, 55, 20, 3, 10, 43, 25, 39, 41, 45, 15, 21, 8, 18, 2, 61, 56, 14]

/-- The constants of the 24 rounds. -/
def roundConsts : List Word :=
  [0x0000000000000001#64, 0x0000000000008082#64, 0x800000000000808A#64, 0x8000000080008000#64, 0x000000000000808B#64,
    0x0000000080000001#64, 0x8000000080008081#64, 0x8000000000008009#64, 0x000000000000008A#64, 0x0000000000000088#64,
    0x0000000080008009#64, 0x000000008000000A#64] ++
  [0x000000008000808B#64, 0x800000000000008B#64, 0x8000000000008089#64, 0x8000000000008003#64, 0x8000000000008002#64,
    0x8000000000000080#64, 0x000000000000800A#64, 0x800000008000000A#64, 0x8000000080008081#64, 0x8000000000008080#64,
    0x0000000080000001#64, 0x8000000080008008#64]

/-- Each lane takes in the parities of two columns. -/
def mixColumns (a : Lanes) : Lanes :=
  let c := (List.range 5).map fun x => (List.range 5).foldl (fun w y => w ^^^ a.at x y) 0#64
  Lanes.of fun x y => a.at x y ^^^ c.getD ((x + 4) % 5) 0 ^^^ (c.getD ((x + 1) % 5) 0).rotateLeft 1

/-- The lanes are rotated, and change places: what lands at (x, y) stood at (x + 3y, x). -/
def moveLanes (a : Lanes) : Lanes :=
  Lanes.of fun x y => (a.at (x + 3 * y) x).rotateLeft (laneTurns.getD ((x + 3 * y) % 5 + 5 * x) 0)

/-- Each lane takes in its two right neighbours. -/
def mixRows (a : Lanes) : Lanes := Lanes.of fun x y => a.at x y ^^^ (~~~a.at (x + 1) y &&& a.at (x + 2) y)

/-- A round. -/
def shakeRound (a : Lanes) (rc : Word) : Lanes :=
  match mixRows (moveLanes (mixColumns a)) with
  | l :: rest => (l ^^^ rc) :: rest
  | [] => []

/-- The permutation of 24 rounds. -/
def permute (a : Lanes) : Lanes := roundConsts.foldl shakeRound a

/-- Eight bytes of a list as a lane, the first lowest. -/
def laneOf (b : List Byte) : Word := BitVec.ofNat 64 (bytesToNat (b.take 8))

/-- A block of 136 bytes is absorbed. -/
def absorbBlock (a : Lanes) (b : List Byte) : Lanes :=
  permute ((List.range 25).map fun i => a.getD i 0 ^^^ if i < 17 then laneOf (b.drop (8 * i)) else 0)

/-- The blocks of a padded message. -/
def absorbAll : Nat → Lanes → List Byte → Lanes
  | 0, a, _ => a
  | n + 1, a, b => absorbAll n (absorbBlock a (b.take 136)) (b.drop 136)

/-- The padding of SHAKE256: 0x1F, zeros, and the top bit of the block's last byte. -/
def padBlock (b : List Byte) : List Byte :=
  let k := 136 - b.length % 136
  b ++ if k = 1 then [0x9F#8] else 0x1F#8 :: List.replicate (k - 2) 0#8 ++ [0x80#8]

/-- SHAKE256 of a string of bytes, 64 bytes long; byte 0 is in bits 7:0. -/
def shake256 (b : List Byte) : BitVec 512 :=
  let p := padBlock b
  let a := absorbAll (p.length / 136) (List.replicate 25 0#64) p
  BitVec.ofNat 512 ((a.take 8).foldr (fun w r => w.toNat + 2 ^ 64 * r) 0)

end Sys2Proof.Machine
end

