-- ==== Sys2Proof/Machine/Mbaed.lean ====
section
/-! DEFINITION. Kernel headers and Mbaed images as the launch unit checks them (R47, R49 to R54, R364, R399). -/
namespace Sys2Proof.Machine

/-- `n` bytes at an offset, as a number. -/
def bytesAt (b : List Byte) (o n : Nat) : Nat := bytesToNat ((b.drop o).take n)

/-- A section-table entry (R49). -/
structure Section where
  typ : Nat
  idx : Nat
  off : Nat
  len : Nat
  rsv : Nat
  deriving DecidableEq, Repr

/-- The section table (R49). -/
def sectionsOf (b : List Byte) : List Section :=
  (List.range (bytesAt b 12 4)).map fun j =>
    let o := 32 + 32 * j
    ⟨bytesAt b o 4, bytesAt b (o + 4) 4, bytesAt b (o + 8) 8, bytesAt b (o + 16) 8, bytesAt b (o + 24) 8⟩

/-- The magic bytes, as a number (R49). -/
def mbaedMagic : Nat := 0x0034584445 * 2 ^ 24 + 0x41424D
/-- The image header is well formed over an image of `n` bytes (R49). -/
def headerOk (b : List Byte) : Bool :=
  32 ≤ b.length && bytesAt b 0 8 == mbaedMagic && bytesAt b 8 4 == 0x10000 && bytesAt b 24 8 < 2 &&
    bytesAt b 16 8 == b.length && 32 + 32 * bytesAt b 12 4 ≤ b.length

/-- A section has the shape of its type (R50 to R53, R399). A code section of no length is not one, though zero is a whole
number of fetch lines: DESIGN CHOICE (log 70). -/
def Section.shapeOk (s : Section) : Bool :=
  match s.typ with
  | 1 => 0 < s.len && s.len % 64 == 0 && s.idx < 16
  | 2 => s.len % 16 == 0
  | 3 => s.len % 16 == 0
  | 4 => s.len == 192
  | 7 => s.len == 64
  | 8 => s.len == 114
  | _ => true
/-- A section entry is well formed in an image of `n` bytes with `k` sections (R49, R50). Every section starts after the
section table; sections other than the digest and the signature may overlap one another: DESIGN CHOICE (log 70). -/
def Section.entryOk (n k : Nat) (s : Section) : Bool :=
  s.rsv == 0 && 1 ≤ s.typ && s.typ ≤ 8 && s.off % 64 == 0 && 32 + 32 * k ≤ s.off && s.off + s.len ≤ n &&
    (s.typ == 1 || s.typ == 4 || s.idx == 0)

/-- No two sections have one type and index (log 22). -/
def sectionsDistinct : List Section → Bool
  | [] => true
  | s :: t => (t.all fun x => !(x.typ == s.typ && x.idx == s.idx)) && sectionsDistinct t

/-- The digest section is last, or last but the signature that the flag announces (R49, R53). -/
def digestPlaced (b : List Byte) (ss : List Section) : Bool :=
  let sig := (ss.getLast?).any fun s => s.typ == 8
  let body := if sig then ss.dropLast else ss
  (ss.countP fun s => s.typ == 8) == sig.toNat && bytesAt b 24 8 == sig.toNat &&
  (ss.countP fun s => s.typ == 7) == 1 &&
  match body.getLast? with
  | none => false
  | some d => d.typ == 7 && ss.all fun s => s.typ == 7 || (if s.typ == 8 then d.off + 64 ≤ s.off else s.off + s.len ≤ d.off)

/-- The digest of an image, when it is that of the bytes before it (R53, R364). -/
def imageDigest (b : List Byte) (ss : List Section) : Option (BitVec 512) :=
  match ss.find? fun s => s.typ == 7 with
  | none => none
  | some d =>
    let v := BitVec.ofNat 512 (bytesAt b d.off 64)
    if shake256 (b.take d.off) = v then some v else none

/-- The fields of a kernel header (R47). -/
def hdrOf (h : List Byte) : Hdr :=
  { clusters := bytesAt h 2 2, cols := bytesAt h 4 1, rows := bytesAt h 5 1, prio := bytesAt h 6 1, steal := bytesAt h 7 1,
    deque := bytesAt h 8 4, inbox := bytesAt h 12 2, handles := bytesAt h 14 2, sluice := bytesAt h 16 4,
    conf := bytesAt h 20 2, openMax := bytesAt h 24 4, qregs := bytesAt h 22 2, lmem := bytesAt h 28 4,
    cube := (bytesAt h 32 8).testBit 0, fuse := (bytesAt h 32 8).testBit 1, energy := bytesAt h 40 8, ckpt := bytesAt h 48 8 }

/-- Reserved bytes are zero and every field is in its range (R47). -/
def hdrOk (h : List Byte) : Bool :=
  let k := hdrOf h
  bytesAt h 0 2 == 0 && bytesAt h 56 8 == 0 && bytesAt h 32 8 < 4 && 1 ≤ k.clusters && k.clusters ≤ 640 && 1 ≤ k.cols &&
  k.cols ≤ 16 && 1 ≤ k.rows && k.rows ≤ 40 && k.clusters == k.cols * k.rows && k.prio ≤ 7 && k.steal ≤ 2 &&
  k.deque ≤ 4096 && k.inbox ≤ 64 && k.handles ≤ 64 && k.sluice ≤ 2 ^ 20 && k.conf ≤ 512 && k.openMax ≤ 8191 &&
  k.qregs ≤ 8 && k.lmem ≤ 262144 && k.lmem % 128 == 0

/-- The code image of a role. -/
def codeOf (ss : List Section) (r : Nat) : Option Section := ss.find? fun s => s.typ == 1 && s.idx == r

/-- The entry words agree with the code images (R399). -/
def entriesOk (h : List Byte) (ss : List Section) : Bool :=
  (List.range 16).all fun r =>
    let e := bytesAt h (64 + 8 * r) 8
    match codeOf ss r with
    | some s => e < s.len && [0, 12, 24, 36, 48].contains (e % 64)
    | none => e == 2 ^ 64 - 1

/-- The placement table: first position, count and role, with the reserved bytes (R51). -/
def placementOf (b : List Byte) (ss : List Section) : List (Nat × Nat × Nat × Nat) :=
  (ss.filter fun s => s.typ == 2).flatMap fun s =>
    (List.range (s.len / 16)).map fun j =>
      let o := s.off + 16 * j
      (bytesAt b o 4, bytesAt b (o + 4) 4, bytesAt b (o + 8) 4, bytesAt b (o + 12) 4)

/-- Entries do not overlap (R51); one that counts no core covers none. -/
def placementDisjoint : List (Nat × Nat × Nat × Nat) → Bool
  | [] => true
  | e :: t =>
    (t.all fun x => x.2.1 == 0 || e.2.1 == 0 || x.1 + x.2.1 ≤ e.1 || e.1 + e.2.1 ≤ x.1) && placementDisjoint t

/-- The placement table is well formed (R51, R399); `full` adds what depends on the launch's cores. An entry that reaches past
the cores of the placement is malformed: DESIGN CHOICE (log 70). -/
def placementOk (ss : List Section) (ps : List (Nat × Nat × Nat × Nat)) (cores : Nat) (full : Bool) : Bool :=
  placementDisjoint ps &&
  (ps.all fun e => e.2.2.2 == 0 && (codeOf ss e.2.2.1).isSome && (!full || e.1 + e.2.1 ≤ cores)) &&
  ((codeOf ss 0).isSome || (full && cores ≤ ps.foldl (fun n e => n + e.2.1) 0))

/-- A boot-tree entry: a cluster position and the positions of its children (R52). -/
def bootEntry (b : List Byte) (o : Nat) : Nat × List Nat :=
  (bytesAt b o 2, (List.range (bytesAt b (o + 2) 1)).map fun i => bytesAt b (o + 4 + 2 * i) 2)

/-- The clusters reached from some within `n` hops of forwarding. -/
def bootReach (es : List (Nat × List Nat)) : Nat → List Nat → List Nat
  | 0, from_ => from_
  | n + 1, from_ => from_ ++ bootReach es n ((es.filter fun e => from_.contains e.1).flatMap (·.2))

/-- The entries form a tree of the clusters with its root at position 0 (R52): one entry each, every other cluster one's child,
and all within reach of the root. -/
def bootTree (es : List (Nat × List Nat)) (clusters : Nat) : Bool :=
  let kids := es.flatMap (·.2)
  es.length == clusters && (List.range clusters).all fun c =>
    (es.countP fun e => e.1 == c) == 1 && kids.count c == (if c = 0 then 0 else 1) && (bootReach es clusters [0]).contains c

/-- The boot tree is well formed (R50, R52): 16 bytes per cluster. The forwarding along it has no effect of its own. -/
def bootOk (b : List Byte) (ss : List Section) (clusters : Nat) (full : Bool) : Bool :=
  (ss.filter fun s => s.typ == 3).all fun s =>
    let os := (List.range (s.len / 16)).map fun j => s.off + 16 * j
    (os.all fun o => bytesAt b (o + 2) 1 ≤ 4 && bytesAt b (o + 3) 1 == 0 && bytesAt b (o + 12) 4 == 0) &&
      (!full || (s.len == 16 * clusters && bootTree (os.map (bootEntry b)) clusters))

/-- What an image gives a launch. -/
structure Mbaed where
  hdr : Hdr
  /-- Offset of each role's entry in the image; none for a role without code. -/
  entries : List (Option Nat)
  placement : List (Nat × Nat × Nat)
  preload : List Byte
  digest : BitVec 512
  deriving DecidableEq, Repr

/-- Check an image and take what kernel `kidx` of it needs; a reason of R54 else. `full` also checks R47's ranges and what
depends on the launch's cores (R358 checks a supervisor's image against R49 to R53 only). Of several kernel headers the one
that KIDX names is held to R47 and R399; the others need only their 192 bytes: DESIGN CHOICE (log 70). -/
def parseMbaed (b : List Byte) (kidx : Nat) (full : Bool) : Except Nat Mbaed :=
  let ss := sectionsOf b
  if !headerOk b then .error 1
  else if !(ss.all fun s => s.entryOk b.length ss.length && (s.typ == 4 || s.shapeOk)) || !sectionsDistinct ss ||
      !digestPlaced b ss then .error 1
  else
    match imageDigest b ss with
    | none => .error 1
    | some dg =>
      match ss.find? fun s => s.typ == 4 && s.idx == kidx with
      | none => .error 2
      | some k =>
        let h := (b.drop k.off).take k.len
        let hd := hdrOf h
        let ps := placementOf b ss
        let pre := match ss.find? fun s => s.typ == 6 with
          | some s => (b.drop s.off).take s.len
          | none => []
        if !(ss.all fun s => s.typ != 4 || s.shapeOk) || (full && !hdrOk h) || !entriesOk h ss then .error 2
        else if !placementOk ss ps (6 * hd.clusters) full || !bootOk b ss hd.clusters full || (full && decide (hd.lmem < pre.length))
        then .error 1
        else
          .ok { hdr := hd
                entries := (List.range 16).map fun r => (codeOf ss r).map fun s => s.off + bytesAt h (64 + 8 * r) 8
                placement := ps.map fun e => (e.1, e.2.1, e.2.2.1)
                preload := pre, digest := dg }

/-! ### Reading through a translation (R317) -/

/-- What reading an image finds: a line or table entry to wait for, a page that cannot be read, or the bytes. -/
inductive VaRead where
  | wait (s : State)
  | bad (s : State)
  | bytes (s : State) (b : List Byte)

/-- `n` bytes from a virtual address, page by page, as a unit without a TLB reads them at their homes; bad where a page is not
mapped for reading, holds model ciphertext, is absent or poisoned. -/
def State.readVa (s : State) (d asn root : Nat) : Nat → Word → Nat → VaRead
  | 0, _, _ => .bytes s []
  | fuel + 1, a, n =>
    if n = 0 then .bytes s []
    else
      let k := min n (4096 - a.toNat % 4096)
      match s.translateUnit d asn root a .read with
      | (s, .wait) => .wait s
      | (s, .fail _ _) => .bad s
      | (s, .ok pa e) =>
        if e.flags.getLsbD 9 || decide ((s.dom d).bytes < pa + k) then .bad s
        else
          match s.gateAll d false (linePieces 33 pa k) with
          | .error s => .wait s
          | .ok s =>
            let s := s.touchLines d (linePieces 33 pa k)
            if (s.dom d).poisoned pa k then .bad s
            else
              match s.readVa d asn root fuel (a + BitVec.ofNat 64 k) (n - k) with
              | .bytes s r => .bytes s (Memory.bytes (s.dom d).mem pa k ++ r)
              | r => r

/-- The image at a virtual address, of the length its header gives. -/
def State.readImage (s : State) (d asn root : Nat) (a : Word) : VaRead :=
  match s.readVa d asn root 2 a 32 with
  | .bytes s h =>
    let n := bytesAt h 16 8
    if 2 ^ 56 ≤ n then .bad s else s.readVa d asn root (n / 4096 + 2) a (max n 32)
  | r => r

end Sys2Proof.Machine
end

