-- ==== Sys2Proof/Machine/LaunchUnit.lean ====
section
/-! DEFINITION. The launch unit: queues and packets, the Weir, the choice of the next launch, admission, entry threads
and completion (R115, R213, R215, R298, R313 to R322, R325, R327, R328, R377, R392). -/
namespace Sys2Proof.Machine

/-! ### Queues (R313) -/

/-- A launch queue as its header stands in memory. -/
structure LQueue where
  h : Nat
  ri : Nat
  cap : Nat
  bind : Word
  deriving DecidableEq, Repr

/-- The header address a table entry names; zero for none. The one queue of device firmware is that which the security
processor has bound (R361). -/
def State.lqtEntry (s : State) (d q : Nat) : Nat :=
  if d = Config.firmwareDomain then (if q = 0 then (s.fwQueue.getD 0).toNat else 0)
  else s.homeRead d ((s.dom d).lqt + 8 * q) 8

/-- A bound launch queue (R313): its CORE is 0x1FFF, and its LVL is 3 where the security processor has bound it, and only
there (R361). A header outside the domain's memory is none: what software entered in the table is confined to its own
launches (R5, log 9). -/
def State.launchQueue (s : State) (d q : Nat) : Option LQueue :=
  let v := s.dom d
  let h := s.lqtEntry d q
  let rd (o n : Nat) : Nat := Memory.read v.mem (h + o) n
  let bind := BitVec.ofNat 64 (rd 24 8)
  let cap := rd 16 4
  if h = 0 ∨ 64 ≤ q ∨ v.bytes < h + 64 ∨ !bind.getLsbD 31 ∨ bind.extractLsb' 0 13 ≠ 0x1FFF#13 ∨ !capOk cap ∨ v.poisoned h 64 ∨
      (bind.extractLsb' 20 2 == 3#2) != (d == Config.firmwareDomain) then none
  else some ⟨h, rd 8 8, cap, bind⟩

/-- Physical address of the slot of the next packet. -/
def LQueue.slot (q : LQueue) : Nat := q.h + 64 + 64 * (q.ri % max q.cap 1)

/-- RI moves past the head (R317). -/
def State.advanceQueue (s : State) (d : Nat) (q : LQueue) : State := s.homeStore d 0 (q.h + 8) 8 (q.ri + 1)

/-! ### Records (R315) -/

/-- The launch unit drains a releaser that a record at `pa` names (R265, R267). -/
def State.unitDrain (s : State) (d pa : Nat) (r : RelRec) : State :=
  if r.st = 1 then
    let m := s.newMsg 0 16 (.drain r.agent r.epoch 0) pa 8 0
    ((s.setRec d pa { r with st := 2 }).post { m with dom := d, agent := unitAgent d })
  else s

/-- Run `k` once a record can be written at a physical address (R267, R303, R310). -/
def State.whenWritable (s : State) (d pa : Nat) (k : State → State) : State :=
  if (s.dom d).bytes < pa + 32 then k s
  else
    s.gateLines d true [(pa, 32)] fun s =>
      match (s.dom d).recAt pa with
      | some r => if r.mustOverwrite (unitAgent d) then s.unitDrain d pa r else k s
      | none => k s

/-- Run `k` once the acquire of scope 6 of the unit at `pa` has had the releaser drained (R265). -/
def State.whenReadable (s : State) (d pa : Nat) (k : State → State) : State :=
  if (s.dom d).bytes < pa + 32 then k s
  else
    s.gateLines d false [(pa, 32)] fun s =>
      match (s.dom d).recAt pa with
      | some r => if r.mustDrain (unitAgent d) 6 then s.unitDrain d pa r else k s
      | none => k s

/-- Write a completion record as one eager release at system scope (R269, R273, R315). -/
def State.writeRecord (s : State) (d pa status reason serial start stop energy : Nat) : State :=
  if (s.dom d).bytes < pa + 32 then s
  else
    let w0 := status + 2 ^ 8 * reason + 2 ^ 16 * (serial % 2 ^ 32)
    let s := s.homeStore d 0 pa 32 (w0 + 2 ^ 64 * (start + 2 ^ 64 * (stop + 2 ^ 64 * energy)))
    let r := s.releaseEvent (unitAgent d) 6
    r.1.setRec d pa { r.2 with st := 3 }

/-- The record of a launch that no core has run (R315). -/
def State.refuse (s : State) (d pa status reason : Nat) : State := s.writeRecord d pa status reason 0 s.cycle s.cycle 0

/-! ### Taking a packet (R314, R316, R317) -/

/-- A context-table entry: its four words (R316). -/
def Dom.context (v : Dom) (asn : Nat) : List Word :=
  (List.range 4).map fun j => BitVec.ofNat 64 (Memory.read v.mem (v.ctxt + 32 * asn + 8 * j) 8)
def ctxRoot (w : List Word) : Nat := ((pktWord w 0).extractLsb' 11 41).toNat * 2048
def ctxSave (w : List Word) : Nat := ((pktWord w 1).extractLsb' 12 40).toNat * 4096
def ctxSaveKb (w : List Word) : Nat := (pktWord w 2).toNat % 2 ^ 32
def ctxValid (w : List Word) : Bool := (pktWord w 0).getLsbD 0
/-- A reserved bit of the entry is set. -/
def ctxReserved (w : List Word) : Bool :=
  pktWord w 0 &&& 0xFFF00000000007FE#64 != 0 || pktWord w 1 &&& 0xFFF0000000000FFF#64 != 0 ||
    pktWord w 2 &&& 0xFFFFFFFF00000000#64 != 0 || pktWord w 3 != 0

/-- The fields of a launch packet (R314). -/
def lpNdep (w : List Word) : Nat := ((pktWord w 0).extractLsb' 8 3).toNat
def lpDfail (w : List Word) : Bool := (pktWord w 0).getLsbD 11
def lpKidx (w : List Word) : Nat := ((pktWord w 0).extractLsb' 12 4).toNat
def lpOrigin (w : List Word) : Nat := ((pktWord w 0).extractLsb' 16 16).toNat
def lpAsn (w : List Word) : Nat := ((pktWord w 0).extractLsb' 32 16).toNat
/-- Offset of dependence k, in records. -/
def lpDoff (w : List Word) (k : Nat) : BitVec 32 := (pktWord w (5 + k / 2)).extractLsb' (32 * (k % 2)) 32
/-- Address of dependence k (R314). -/
def lpDep (w : List Word) (k : Nat) : Word := pktWord w 2 + ((lpDoff w k).signExtend 64 <<< 5)
/-- SEQ, OPC, NDEP and the reserved bits are as R314 and R317 ask. -/
def lpFieldsOk (w : List Word) (i : Nat) : Bool :=
  pktSeq w == i % 2 ^ 32 && pktOpc w == 1 && lpNdep w ≤ 4 && (pktWord w 0).extractLsb' 48 16 == 0 &&
    pktWord w 7 &&& 0xFE#64 == 0 && (List.range 4).all fun k => k < lpNdep w || lpDoff w k == 0

/-- What becomes of the dependence records of a packet: a table entry to wait for, one that cannot be read, or where they
stand. -/
inductive DepRes where
  | wait
  | bad
  | found (pas : List Nat)
  deriving DecidableEq, Repr

/-- The unit translates the dependence records of a packet (R317). -/
def State.depAddrs (s : State) (d asn root : Nat) : List Word → State × DepRes
  | [] => (s, .found [])
  | a :: rest =>
    if a.toNat % 32 ≠ 0 then (s, .bad)
    else
      match s.unitXlate d asn root a .read with
      | (s, .wait) => (s, .wait)
      | (s, .fail _ _) => (s, .bad)
      | (s, .ok pa _) =>
        match s.depAddrs d asn root rest with
        | (s, .found l) => (s, .found (pa :: l))
        | r => r

/-- What taking a packet ends in. -/
inductive Taken where
  /-- An outside agent must act first. -/
  | wait
  /-- Discarded, and counted unless it is a NOP (R314, R317). -/
  | discard (counted : Bool)
  | refuse (crecPa reason : Nat)
  | head (h : QHead)
  deriving DecidableEq, Repr

/-- The head that a packet with a sound image becomes (R314, R317). -/
def lpHead (w : List Word) (i prio lvl : Nat) (cw : List Word) (crecPa : Nat) (deps : List Nat) (m : Mbaed) : QHead :=
  { idx := i, h := 0, asn := lpAsn w, root := ctxRoot cw, save := ctxSave cw, saveKb := ctxSaveKb cw, hdr := m.hdr,
    lvl := BitVec.ofNat 2 lvl, prio := min m.hdr.prio prio, crec := pktWord w 2, crecPa := crecPa, deps := deps,
    dfail := lpDfail w, depsOk := lpNdep w == 0, arg0 := pktWord w 3, arg1 := pktWord w 4, origin := lpOrigin w,
    roleMap := m.placement, entries := m.entries.map fun e => pktWord w 1 + BitVec.ofNat 64 (e.getD 0),
    preload := m.preload, digest := m.digest }

/-- Check a packet with its context entry, in the order of R317. -/
def State.checkLaunch (s : State) (d i prio lvl : Nat) (w : List Word) : State × Taken :=
  let v := s.dom d
  let asn := lpAsn w
  let cw := v.context asn
  let root := ctxRoot cw
  let crec := pktWord w 2
  let image := pktWord w 1
  if pktOpc w = 0 then (s, .discard false)
  else if v.nctx ≤ asn ∨ !ctxValid cw ∨ crec.toNat % 32 ≠ 0 then (s, .discard true)
  else
    match s.unitXlate d asn root crec .both with
    | (s, .wait) => (s, .wait)
    | (s, .fail _ _) => (s, .discard true)
    | (s, .ok cpa _) =>
      if !lpFieldsOk w i then (s, .refuse cpa 3)
      else if ctxReserved cw then (s, .refuse cpa 4)
      else if image.toNat % 64 ≠ 0 then (s, .refuse cpa 1)
      else
        match s.unitXlate d asn root image .read with
        | (s, .wait) => (s, .wait)
        | (s, .fail _ _) => (s, .refuse cpa 1)
        | (s, .ok _ _) =>
          match s.depAddrs d asn root ((List.range (lpNdep w)).map (lpDep w)) with
          | (s, .wait) => (s, .wait)
          | (s, .bad) => (s, .refuse cpa 3)
          | (s, .found deps) =>
            match s.readImage d asn root image with
            | .wait s => (s, .wait)
            | .bad s => (s, .refuse cpa 1)
            | .bytes s b => (s, match parseMbaed b (lpKidx w) true with
              | .error r => .refuse cpa r
              | .ok m => .head (lpHead w i prio lvl cw cpa deps m))

/-- What the unit reads at physical addresses before it takes a packet: the table entry, the queue's header and the context
entry the packet names (R313, R316). -/
def State.takeReads (s : State) (d q : Nat) (lq : LQueue) (w : List Word) : List (Nat × Nat) :=
  let v := s.dom d
  (if d = Config.firmwareDomain then [] else [(v.lqt + 8 * q, 8)]) ++ [(lq.h, 32)] ++
    if lpAsn w < v.nctx then [(v.ctxt + 32 * lpAsn w, 32)] else []

/-- The packet at a queue's head is discarded, refused, or becomes the head that waits (R317). -/
def State.takeLaunch (s : State) (d q : Nat) (lq : LQueue) (w : List Word) : State :=
  match s.checkLaunch d lq.ri (lq.bind.extractLsb' 16 3).toNat (lq.bind.extractLsb' 20 2).toNat w with
  | (s', .wait) => s.asked s'
  | (s, .discard counted) => (if counted then s.count 8 2 d else s).advanceQueue d lq
  | (s, .refuse cpa r) => s.whenWritable d cpa fun s => (s.advanceQueue d lq).refuse d cpa 3 r
  | (s, .head x) => s.modDom d fun v => { v with heads := insertKey v.heads q { x with h := lq.h } }

/-- LAUNCH_PACKET_TAKE (R317): the unit reads word 7 of a queue's head slot as an acquire of scope 6, then the packet, and
checks it. -/
def execLaunchPacketTake (d q : Nat) (s : State) : Out :=
  let v := s.dom d
  .next (if v.st ≠ .running ∨ (lookup v.heads q).isSome then s
    else
      match s.launchQueue d q with
      | none => s
      | some lq =>
        let pa := lq.slot
        if v.bytes < pa + 64 ∨ v.poisoned pa 64 ∨ Memory.read v.mem (pa + 56) 8 % 2 ≠ phaseOf lq.ri lq.cap then s
        else
          s.whenReadable d pa fun s => s.gateLines d false ((pa + 32, 32) :: s.takeReads d q lq (s.slotWords d pa)) fun s =>
            s.gateLines d true [(lq.h, 16)] fun s =>
              (s.touchLines d ((pa, 64) :: s.takeReads d q lq (s.slotWords d pa))).takeLaunch d q lq (s.slotWords d pa))

/-- STATUS of a dependence record; a poisoned or absent one reads as pending. -/
def Dom.status (v : Dom) (pa : Nat) : Nat :=
  if v.bytes < pa + 32 ∨ v.poisoned pa 8 then 0 else Memory.read v.mem pa 1

/-- Run `k` once every record of a list may be read (R321). -/
def State.whenAllReadable (s : State) (d : Nat) : List Nat → (State → State) → State
  | [], k => k s
  | pa :: rest, k => s.whenReadable d pa fun s => s.whenAllReadable d rest k

/-- DEPENDENCE_REREAD (R321): the head's records are read with acquire at system scope. -/
def execDependenceReread (d q : Nat) (s : State) : Out :=
  .next (match lookup (s.dom d).heads q with
    | none => s
    | some h =>
      s.whenAllReadable d h.deps fun s =>
        if h.deps.all fun pa => (s.dom d).status pa != 0 then
          (s.touchLines d (h.deps.map fun pa => (pa, 32))).modDom d fun v => { v with heads := insertKey v.heads q { h with depsOk := true } }
        else s)

/-! ### Priorities and the choice (R320, R322) -/

/-- A live launch: whether it has a context, its serial or queue, its priority, dependences and record. -/
structure Live where
  ctx : Bool
  key : Nat
  eff : Nat
  deps : List Nat
  crec : Nat
  deriving DecidableEq, Repr

def Dom.live (v : Dom) : List Live :=
  (v.launches.map fun e => ⟨true, e.1, e.2.prio, e.2.deps, e.2.crecPa⟩) ++
    v.heads.map fun e => ⟨false, e.1, e.2.prio, e.2.deps, e.2.crecPa⟩

/-- Priorities pass to the launches whose records a live launch waits for (R320). -/
def passPrio : Nat → List Live → List Live
  | 0, l => l
  | n + 1, l => passPrio n (l.map fun x =>
      { x with eff := l.foldl (fun m y => if y.deps.contains x.crec then max m y.eff else m) x.eff })

/-- Effective priorities of the live launches. -/
def Dom.effective (v : Dom) : List Live := passPrio v.live.length v.live

/-- The launch stands evicted and holds no core: one that completes so keeps its save area until its end. -/
def Launch.isOut (l : Launch) : Bool := match l.phase with
  | .out => true
  | .failed out => out
  | .draining _ => l.saved != []
  | _ => false
def Launch.isRunning (l : Launch) : Bool := match l.phase with
  | .running => true
  | _ => false

/-- Insert a launch by the order in which it was first admitted. -/
def insertByOrder (x : Nat × Launch) : List (Nat × Launch) → List (Nat × Launch)
  | [] => [x]
  | y :: t => if x.2.order ≤ y.2.order then x :: y :: t else y :: insertByOrder x t

/-- The eligible: pre-empted contexts as first admitted, then eligible heads from the queue after the last one served. -/
def Dom.eligible (v : Dom) : List Live :=
  let es := v.effective
  let outs := (v.launches.filter fun e => e.2.evicted).foldr insertByOrder []
  let order := (List.range 64).map fun i => (v.lastQ + 1 + i) % 64
  (outs.filterMap fun e => es.find? fun x => x.ctx && x.key == e.1) ++
    (order.filter fun q => (lookup v.heads q).any fun h => h.depsOk).filterMap fun q => es.find? fun x => !x.ctx && x.key == q

/-- The chosen one: it stays chosen until one of higher effective priority takes its place (R322). -/
def Dom.choose (v : Dom) : Option Live :=
  let es := v.eligible
  let top := es.foldl (fun m x => max m x.eff) 0
  let old := v.chosen.bind fun p => es.find? fun x => x.ctx == p.1 && x.key == p.2
  match old with
  | some x => if x.eff = top then some x else es.find? fun y => y.eff == top
  | none => es.find? fun y => y.eff == top

/-! ### The Weir (R318, R319) -/

/-- The cores of the rectangle at a grid position (R318). -/
def Dom.placement (v : Dom) (origin cols rows : Nat) : Option (List Nat) :=
  let gs := onesAt v.groups
  let r := origin / 16
  let c := origin % 16
  if 16 < c + cols ∨ gs.length < r + rows then none
  else some ((List.range rows).flatMap fun i => (List.range cols).flatMap fun j =>
    let g := gs.getD (r + i) 0
    (List.range 6).map fun k => (g / 10 * 160 + g % 10 * 16 + c + j) * 6 + k)

/-- Launches that hold reservations on cores, but for those taken as gone. -/
def Dom.holders (v : Dom) (gone : List Nat) : List Launch :=
  (v.launches.filter fun e => !e.2.isOut && !gone.contains e.1).map (·.2)

/-- Bytes of local memory of a launch on a core: region and deque spill. -/
def Hdr.coreBytes (h : Hdr) : Nat := h.lmem + 64 * h.deque

/-- Free user slots of a core, with some launches gone, beyond those withheld for entry threads. -/
def State.roomFor (s : State) (d c : Nat) (gone : List Nat) : Nat :=
  let k := s.core c
  let free := (List.range 14).countP fun i => !k.ghosts.contains i && (lookup k.slots i).all fun t => gone.contains t.launch
  let held := ((s.dom d).launches.filter fun e => e.2.left.contains c && !e.2.isOut && !gone.contains e.1).length
  free - held

/-- The rows of the card that are kept per core fit on core `c` (R319). -/
def coreFits (h : Hdr) (c : Nat) (others : List Launch) : Bool :=
  let here := others.filter fun l => l.cores.contains c
  let sum (f : Hdr → Nat) : Nat := here.foldl (fun n l => n + f l.hdr) (f h)
  sum (·.inbox) ≤ 64 && sum (·.handles) ≤ 64 && sum (fun h => h.qregs * slotCap h.qregs) ≤ 32 &&
    !(h.cube && here.any fun l => l.hdr.cube)

/-- No fused launch meets another on a cluster (R243, R319). -/
def fuseFits (h : Hdr) (cores : List Nat) (others : List Launch) : Bool :=
  others.all fun l => !(h.fuse || l.hdr.fuse) || l.cores.all fun c => cores.all fun x => clusterOf x != clusterOf c

/-- The rows kept per partition fit (R319, R377); a restored context keeps its pins. -/
def Dom.unitFits (v : Dom) (h : Hdr) (pins : Bool) (others : List Launch) : Bool :=
  others.foldl (fun n l => n + l.hdr.sluice) h.sluice ≤ 2 ^ 24 &&
    (!pins || v.launches.foldl (fun n e => n + e.2.hdr.conf) h.conf ≤ 512)

/-- A region at `b` of a launch's bytes meets no other region on the cores. -/
def regionFits (h : Hdr) (cores : List Nat) (others : List Launch) (b : Nat) : Bool :=
  let n := h.coreBytes
  b + n ≤ Config.lmemBytes && (n == 0 || (others.all fun l =>
    let m := l.hdr.coreBytes
    m == 0 || l.lbase + m ≤ b || b + n ≤ l.lbase || !(l.cores.any fun c => cores.contains c)))

/-- The lowest LBASE, a multiple of 128, at which the region fits on every core (R161; log 23). -/
def chooseBase (h : Hdr) (cores : List Nat) (others : List Launch) : Option Nat :=
  let ends := others.map fun l => (l.lbase + l.hdr.coreBytes + 127) / 128 * 128
  ((0 :: ends).filter fun b => regionFits h cores others b).foldl
    (fun m b => some (match m with
      | some x => min x b
      | none => b)) none

/-- The account's balance with the energy that pre-empted launches would give back (R323, R377). -/
def Dom.energyWith (v : Dom) (gone : List Nat) : Int :=
  min (v.launches.foldl (fun b e => if gone.contains e.1 && !e.2.isOut then b + max e.2.energyRes 0 else b) v.acct.b)
    (v.acct.cap * 1000 : Nat)

/-- The placement and LBASE at which a head could be reserved with some launches gone (R318, R319). -/
def State.findPlace (s : State) (d : Nat) (x : QHead) (gone : List Nat) : Option (List Nat × Nat) :=
  let v := s.dom d
  let others := v.holders gone
  let origins := if x.origin = 0xFFFF then List.range (16 * ones v.groups) else [x.origin]
  if !v.unitFits x.hdr true others || v.energyWith gone < (x.hdr.energy * 1000 : Nat) || v.launches.any (fun e => e.2.save == x.save)
  then none
  else
    origins.findSome? fun o =>
      match v.placement o x.hdr.cols x.hdr.rows with
      | none => none
      | some cores =>
        if (cores.all fun c => 0 < s.roomFor d c gone && coreFits x.hdr c others) && fuseFits x.hdr cores others then
          (chooseBase x.hdr cores others).map fun b => (cores, b)
        else none

/-- A pre-empted context can be reserved again on its own placement at its own LBASE (R177, R213, R325), with the energy that
it gave back unspent: that this, and no more, is reserved again is a DESIGN CHOICE (log 72). -/
def State.contextFits (s : State) (d : Nat) (l : Launch) (gone : List Nat) : Bool :=
  let v := s.dom d
  let others := v.holders gone
  v.unitFits l.hdr false others && decide (max l.energyRes 0 ≤ v.energyWith gone) && fuseFits l.hdr l.cores others &&
  regionFits l.hdr l.cores others l.lbase &&
  l.cores.all fun c =>
    let ts := ((l.saved.find? fun k => k.core == c).map (·.threads)).getD []
    let k := s.core c
    coreFits l.hdr c others && decide (ts.length + (l.left.contains c).toNat ≤ s.roomFor d c gone) &&
    (ts.all fun t => !k.ghosts.contains t.slot && (lookup k.slots t.slot).all fun o => gone.contains o.launch) &&
    decide ((ts.map fun t => t.gens.length).foldl (· + ·) 0 + k.gens.length ≤ 16)

/-- The partition could never supply the launch: the reason of the first failing row (R319, R352, R377). -/
def Dom.never (v : Dom) (x : QHead) : Option Nat :=
  let n := 6 * x.hdr.clusters
  let need := if x.hdr.ckpt = 0 then 448 * n else 896 * n + 1024
  let origins := if x.origin = 0xFFFF then List.range (16 * ones v.groups) else [x.origin]
  if origins.all fun o => (v.placement o x.hdr.cols x.hdr.rows).isNone then some 1
  else if Config.lmemBytes < x.hdr.coreBytes then some 2
  else if v.acct.cap < x.hdr.energy then some 10
  else if x.saveKb < need then some 11
  else none

/-! ### Admission (R162, R215, R243, R327) -/

/-- A core's region for a launch begins as zero bytes, the preload and empty words (R162). -/
def Core.clearRegion (k : Core) (lb n : Nat) (pre : List Byte) : Core :=
  { k with
    lmem := Memory.put (k.lmem.filter fun e => !decide (lb ≤ e.1 ∧ e.1 < lb + n)) lb pre
    full := k.full.filter fun w => !decide (lb ≤ 8 * w ∧ 8 * w < lb + n)
    lpoison := k.lpoison.filter fun w => !decide (lb ≤ 8 * w ∧ 8 * w < lb + n) }

/-- Run `k` once some agents' caches hold nothing dirty and nothing of theirs is on its way to a home; what is dirty is
written back first, and the caches are then empty (R243). -/
def State.whenClean (s : State) (agents : List Nat) (k : State → State) : State :=
  let busy := agents.filter fun a => (s.cache a).lines.any fun l => l.dirty != 0
  if !busy.isEmpty then busy.foldl (fun s a => (s.writeBackAll a fun _ => true).1) s
  else if s.net.any fun m => agents.contains m.agent && (m.st == .sent || m.st == .held || m.st == .combined) then s
  else k (agents.foldl (fun s a => (s.spoilFills a fun _ _ => true).modCache a fun k => { k with lines := [] }) s)

/-- The caches of a fused launch's clusters (R243). -/
def Launch.fusedAgents (l : Launch) : List Nat :=
  if l.hdr.fuse then (l.cores.map fun c => 4096 + clusterOf c).eraseDups else []

/-- The launch that a head becomes (R327). -/
def QHead.launch (x : QHead) (serial start : Nat) (cores : List Nat) (lb : Nat) : Launch :=
  { serial := serial, queue := 0, asn := x.asn, root := x.root, save := x.save, saveKb := x.saveKb, hdr := x.hdr, lvl := x.lvl,
    prio := x.prio, crec := x.crec, crecPa := x.crecPa, deps := x.deps, arg0 := x.arg0, arg1 := x.arg1, cores := cores,
    roles := (List.range cores.length).map fun p =>
      ((x.roleMap.find? fun e => decide (e.1 ≤ p ∧ p < e.1 + e.2.1)).map (·.2.2)).getD 0
    entries := x.entries, preload := x.preload, digest := x.digest, work := cores.length, startAt := start, order := serial,
    lbase := lb, phase := .running, left := cores, energyRes := (x.hdr.energy * 1000 : Nat), energyTot := 0, saved := [],
    spilled := [], ckpt := none, undo := [], undoPoison := [], ckptDue := start + x.hdr.ckpt, taken := 0, rolled := 0 }

/-- Nobody owns the cube and no command is left; what it holds stands (R213, R215 to R217). -/
def Cube.vacated (k : Cube) : Cube := { k with owner := none, leaving := false, after := [], queue := [], exec := none }
/-- The lanes and counts of a cube that is granted to a launch are zero (R215). -/
def Cube.cleared (k : Cube) : Cube := { k.vacated with l0 := [], l1 := [], acc := [], cnt := [] }

/-- Every core of a placement takes in a launch (R162, R215). -/
def State.takeIn (s : State) (l : Launch) : State :=
  l.cores.foldl (fun s c => s.modCore c fun k =>
    let k := k.clearRegion l.lbase l.hdr.coreBytes (l.preload.take l.hdr.lmem)
    { k with fused := l.hdr.fuse, cube := if l.hdr.cube then k.cube.cleared else k.cube }) s

/-- What a core's part of a fresh launch's first checkpoint holds, once the core has taken the launch in (R351). -/
def State.freshCore (s : State) (l : Launch) (c : Nat) : SavedCore :=
  { core := c, ended := true, threads := [], lmem := Memory.put [] l.lbase (l.preload.take l.hdr.lmem), full := [], lpoison := [],
    items := [], handles := [], cube := if l.hdr.cube then some (s.core c).cube else none, queues := [], inbox := [], outq := [] }

/-- Admit a head (R319, R322, R327, R351, R377). -/
def State.admitHead (s : State) (d q : Nat) (x : QHead) (cores : List Nat) (lb : Nat) : State :=
  let v := s.dom d
  let l := x.launch v.nextSerial s.cycle cores lb
  let s := s.takeIn l
  let l := if x.hdr.ckpt = 0 then l
    else { l with ckpt := some ⟨cores.map (s.freshCore l), [], cores.length, cores⟩, taken := 1 }
  let s := match s.launchQueue d q with
    | some lq => s.advanceQueue d { lq with h := x.h, ri := x.idx }
    | none => s
  s.modDom d fun v =>
    { v with
      heads := eraseKey v.heads q
      lastQ := q
      chosen := none
      launches := insertKey v.launches l.serial { l with queue := q }
      nextSerial := if v.nextSerial + 1 < 2 ^ 32 then v.nextSerial + 1 else 1
      acct := { v.acct with b := v.acct.b - (x.hdr.energy * 1000 : Nat) } }

/-- A head leaves its queue with a refusal (R317, R319, R321). -/
def State.refuseHead (s : State) (d q : Nat) (x : QHead) (status reason : Nat) : State :=
  s.whenWritable d x.crecPa fun s => s.gateLines d true [(x.h, 16)] fun s =>
    let s := match s.launchQueue d q with
      | some lq => s.advanceQueue d { lq with h := x.h, ri := x.idx }
      | none => s
    (s.modDom d fun v => { v with heads := eraseKey v.heads q, lastQ := q, chosen := none }).refuse d x.crecPa status reason

/-- The eligible head that DFAIL refuses (R321). -/
def Dom.failedDep (v : Dom) : Option (Nat × QHead) :=
  v.heads.find? fun e => e.2.depsOk && e.2.dfail && e.2.deps.any fun pa => v.status pa != 1

/-- WEIR_ADMIT (R319 to R322): a head whose dependence failed or that can never be supplied is refused; the chosen head is
admitted when every reservation can be made, and otherwise holds back every other. -/
def execWeirAdmit (d : Nat) (s : State) : Out :=
  let v := s.dom d
  .next (if v.st ≠ .running then s
    else
      match v.failedDep with
      | some (q, x) => s.refuseHead d q x 5 0
      | none =>
        match v.choose with
        | none => s
        | some c =>
          let wait := s.modDom d fun v => { v with chosen := some (c.ctx, c.key) }
          if c.ctx then wait
          else
            match lookup v.heads c.key with
            | none => s
            | some x =>
              match v.never x with
              | some r => s.refuseHead d c.key x 2 r
              | none =>
                match s.findPlace d x [] with
                | some (cores, b) => s.whenClean (if x.hdr.fuse then cores else []) fun s =>
                  s.gateLines d true [(x.h, 16)] fun s => s.admitHead d c.key x cores b
                | none => wait)

/-- ENTRY_START (R327): the entry thread of the next placed core starts in its lowest free slot, in a cycle in which the core
allots no other (R114). -/
def execEntryStart (d n : Nat) (s : State) : Out :=
  .next (match lookup (s.dom d).launches n with
    | none => s
    | some l =>
      match l.left with
      | [] => s
      | c :: rest =>
        match (s.core c).free.head?, l.isRunning && !(s.core c).allottedNow with
        | some sl, true =>
          let p := (l.cores.findIdx? fun x => x == c).getD 0
          let role := l.roles.getD p 0
          let s := (s.modLaunch d n fun l => { l with left := rest }).modCore c fun k =>
            { k.allot with vseq := BitVec.ofNat 32 (c + 1) }
          s.startThread c sl (s.launchCtx d n) (l.entries.getD role 0) fun t =>
            (t.setXs 1#6 [l.arg0, l.arg1, BitVec.ofNat 64 p, BitVec.ofNat 64 l.cores.length, BitVec.ofNat 64 role]).setX 7#6
              (BitVec.ofNat 64 (coreNum c))
        | _, _ => s)

/-! ### Completion (R115, R298, R328) -/

/-- The queues a launch has bound, at engines and in its save area (R288). -/
def State.boundQueues (s : State) (d n : Nat) : List EngQueue :=
  (s.cores.flatMap fun e => e.2.eng.queues.filter fun q => q.dom == d && q.launch == n) ++
    (s.launch d n).saved.flatMap (·.queues)

/-- Each of some queues is empty, RI = WI at its header's home; none: an outside agent must act first. -/
def State.queuesEmpty (s : State) : List EngQueue → State × Option Bool
  | [] => (s, some true)
  | q :: rest =>
    match s.copyXlate q q.va .any with
    | (s, .wait) => (s, none)
    | (s, .fail _ _) => s.queuesEmpty rest
    | (s, .ok pa _) =>
      match s.gateAll q.dom false [(pa, 16)] with
      | .error s => (s, none)
      | .ok s =>
        if s.homeRead q.dom pa 8 = s.homeRead q.dom (pa + 8) 8 then (s.touchLines q.dom [(pa, 16)]).queuesEmpty rest
        else (s, some false)

/-- Every queue a launch has bound is empty, and no engine holds a packet of it (R298). -/
def State.engineQuiet (s : State) (d n : Nat) : State × Option Bool :=
  if s.cores.any fun e => e.2.eng.cur.any fun x => x.dom == d && x.launch == n then (s, some false)
  else s.queuesEmpty (s.boundQueues d n)

/-- Clear BOUND in the headers of some queues; none is left half done while an outside agent holds a line (R288, R328). -/
def State.unbindEach (s : State) : List EngQueue → Except State State
  | [] => .ok s
  | q :: rest =>
    match s.copyXlate q q.va .any with
    | (s, .wait) => .error s
    | (s, .fail _ _) => s.unbindEach rest
    | (s, .ok pa _) =>
      match s.gateAll q.dom true [(pa + 24, 8)] with
      | .error s => .error s
      | .ok s =>
        (s.homeStore q.dom 0 (pa + 24) 8 (s.homeRead q.dom (pa + 24) 8 &&& 0xFFFFFFFF7FFFFFFF)).unbindEach rest

/-- Run `k` once every queue of a launch has been unbound (R288, R328). -/
def State.unbindAll (s : State) (d n : Nat) (k : State → State) : State :=
  match s.unbindEach (s.boundQueues d n) with
  | .error s' => s.asked s'
  | .ok s => k { s with cores := s.cores.map fun e => (e.1, { e.2 with eng := { e.2.eng with
      queues := e.2.eng.queues.filter fun q => !(q.dom == d && q.launch == n) } }) }

/-- What a launch holds on a core goes: deque, handles, region, a held release, the cube with its ownership (R162, R213, R288,
R297, R319). -/
def Core.release (k : Core) (l : Launch) : Core :=
  let k := k.clearRegion l.lbase l.hdr.coreBytes []
  { k with
    fused := if l.hdr.fuse then false else k.fused
    fill := k.fill.filter fun f => f.launch != l.serial
    deques := eraseKey k.deques l.serial
    handles := k.handles.filter fun e => e.1 / 64 != l.serial
    inbox := k.inbox.filter fun m => m.launch != l.serial
    outq := k.outq.filter fun m => m.launch != l.serial
    cube := if l.hdr.cube then k.cube.vacated else k.cube }

/-- What a launch still holds at its end: nothing of a core, and no energy, when it stands evicted (R323). -/
def Launch.ending (l : Launch) : Launch := if l.isOut then { l with cores := [], energyRes := 0 } else l

/-- Unspent energy returns to an account, up to its capacity (R377). -/
def Account.giveBack (e : Account) (x : Int) : Account := { e with b := min (e.b + max x 0) (e.cap * 1000 : Nat) }

/-- The reservations of a launch end, and its unspent energy returns (R328, R377). -/
def State.releaseLaunch (s : State) (d : Nat) (l : Launch) : State :=
  (l.ending.cores.foldl (fun s c => s.modCore c fun k => k.release l) s).modDom d fun v =>
    { v with
      launches := eraseKey v.launches l.serial
      replicas := []
      conf := v.conf.map fun e => if e.launch == l.serial then { e with pin := false } else e
      acct := v.acct.giveBack l.ending.energyRes }

/-- A launch ends with a status: its queues are unbound, its fused caches written back and emptied, its reservations released,
and its record written (R243, R328, R350). -/
def State.finish (s : State) (d : Nat) (l : Launch) (status : Nat) : State :=
  s.whenClean l.ending.fusedAgents fun s => s.whenWritable d l.crecPa fun s => s.unbindAll d l.serial fun s =>
    (s.releaseLaunch d l).writeRecord d l.crecPa status 0 l.serial l.startAt s.cycle (l.energyTot / 1000)

/-- The agents of a launch's placed cores. -/
def State.agentsOf (s : State) (cores : List Nat) : List Nat := (cores.map s.agentOf).eraseDups

/-- Drain every placed core (R269, R328, R351); what is then on its way for them or for the launch. -/
def State.drainCores (s : State) (d : Nat) (l : Launch) : State × List Nat :=
  let mine := (s.net.filter fun m => m.dom == d && m.launch == l.serial && m.st != .waiting).map (·.id)
  (s.agentsOf l.cores).foldl (fun (p : State × List Nat) a =>
    let x := p.1.drainAll a
    (x.1, p.2 ++ x.2)) (s, mine)

/-- The slot holds a thread parked in DQRUN for which no steal is in flight: it holds nothing of value (R140). -/
def State.idleDqrun (s : State) (c sl : Nat) (t : Thread) : Bool :=
  !s.stealing c sl && match t.st with
    | .parked (.deque _) => true
    | _ => false

/-- The slots of a launch that are parked in DQRUN are freed, with effects 1 to 3 of RETIRE (R118, R140, R328). -/
def State.freeDqruns (s : State) (d : Nat) (l : Launch) : State :=
  l.cores.foldl (fun s c =>
    ((s.core c).slots.filter fun e => e.2.dom == d && e.2.launch == l.serial && s.idleDqrun c e.1 e.2).foldl
      (fun s e => s.endThread c e.1 true) s) s

/-- Something that a launch began on a core goes on there: a thread, a steal, a generator, or only one with pushes to write
where `gens` is false, a held release, a command of its cube, a copy packet. -/
def State.activeOn (s : State) (d : Nat) (l : Launch) (gens : Bool) (c : Nat) : Bool :=
  let k := s.core c
  (k.slots.any fun e => e.2.dom == d && e.2.launch == l.serial) ||
  (s.net.any fun m => m.core == c && m.dom == d && m.launch == l.serial && match m.kind with
    | .steal _ _ _ => true
    | _ => false) ||
  (k.gens.any fun g => g.2.dom == d && g.2.launch == l.serial && (gens || g.2.pushes != [])) ||
  k.fill.any (fun f => f.launch == l.serial) ||
  (l.hdr.cube && (!k.cube.idle || k.cube.leaving)) ||
  k.eng.cur.any fun x => x.dom == d && x.launch == l.serial

/-- The drains of a launch's end have been acknowledged: it ends, unless a packet has been published to one of its queues
meanwhile, which is done first (R298, R328). -/
def State.afterDrains (s : State) (d n : Nat) (l : Launch) : State :=
  match s.engineQuiet d n with
  | (s', none) => s.asked s'
  | (_, some false) => s.modLaunch d n fun l => { l with phase := if l.isOut then .out else .running }
  | (s, some true) => s.finish d l 1

/-- The count of a launch is zero: once every packet is done its parked slots are freed, what they began ends, and its placed
cores are drained (R115, R298, R328). -/
def State.beginEnd (s : State) (d n : Nat) (l : Launch) : State :=
  match s.engineQuiet d n with
  | (s', none) => s.asked s'
  | (_, some false) => s
  | (s1, some true) =>
    let s2 := if l.isOut then s1 else s1.freeDqruns d l
    if !l.isOut && l.cores.any (s2.activeOn d l true) then (if s2 = s1 then s else s2)
    else
      let r := s2.drainCores d l
      r.1.modLaunch d n fun l => { l with phase := .draining r.2 }

/-- LAUNCH_COMPLETE (R328, R392): once the count is zero and every packet is done, every placed core is drained and the slots
parked in DQRUN are freed; then the reservations end, and the record is written. -/
def execLaunchComplete (d n : Nat) (s : State) : Out :=
  .next (match lookup (s.dom d).launches n with
    | none => s
    | some l =>
      match l.phase with
      | .draining ids => if ids.all s.acked then s.afterDrains d n l else s
      | .running => if l.work = 0 then s.beginEnd d n l else s
      | .out => if l.work = 0 then s.beginEnd d n l else s
      | _ => s)

end Sys2Proof.Machine
end

