-- ==== Sys2Proof/Machine/Traps.lean ====
section
/-! DEFINITION. The supervisor's instructions over trapped threads: TRECV, TREAD, TWRITE, TRESUME and TKILL (R335, R340
to R344). -/
namespace Sys2Proof.Machine

/-! ### Taking records (R341) -/

/-- The oldest record leaves the queue; the first held one enters it (R335). -/
def State.takeRec (s : State) (d : BitVec 6) (r : TrapRec) : State :=
  (s.modCurCore fun k => { k with trapq := k.trapq.drop 1 }).modCur fun t => t.setXs d [r.w0, r.w1, r.w2, r.w3]

/-- TRECV (R341): an empty queue parks the thread at the instruction, which runs again once a record has come; in a handler it
traps, whether or not a record waits (R126). -/
def execTrecv (d : BitVec 6) (s : State) : Out :=
  .next (s.needLevel 1 fun s =>
    if s.iss.slot = 14 then s.takeTrap .handlerBlock 0 0
    else
      match s.curCore.trapq with
      | r :: _ => s.takeRec d r
      | [] => s.parkHere (.record d))

/-- TRECV.TRY (R341). -/
def execTrecvTry (d : BitVec 6) (pd : BitVec 3) (s : State) : Out :=
  .next (s.needLevel 1 fun s =>
    match s.curCore.trapq with
    | r :: _ => (s.takeRec d r).wp pd true
    | [] => s.wp pd false)

/-! ### Contexts of trapped threads (R342) -/

/-- The thread in the target slot, which is at most 14 (R340). -/
def State.target (s : State) (a : BitVec 6) : Option (Nat × Thread) :=
  let sl := (s.rx a).toNat
  if sl ≤ 14 then (s.thread? s.iss.core sl).map fun t => (sl, t) else none

/-- Run `k` on the target when it is TRAPPED, else clear the predicate. -/
def State.onTrapped (s : State) (a : BitVec 6) (pd : BitVec 3) (k : State → Nat → Thread → State) : State :=
  s.needLevel 1 fun s =>
    match s.target a with
    | some (sl, t) => if t.st = .trapped then k s sl t else s.wp pd false
    | none => s.wp pd false

/-- A PC value that names a slot (R342). -/
def pcOk (v : Word) : Bool := [0, 12, 24, 36, 48].contains (v.toNat % 64)

/-- The word of a q register. -/
def qWord (q : QSet) (w : Nat) : Word := q.extractLsb' (64 * w) 64
/-- A q register with one word replaced. -/
def qSetWord (q : QSet) (w : Nat) (v : Word) : QSet :=
  let m := (BitVec.allOnes 64).setWidth 256 <<< (64 * w)
  (q &&& ~~~m) ||| (v.setWidth 256 <<< (64 * w))

/-- The register that IMM32 and SREG select in a thread of slot `sl`; none where it is not available (R342). -/
def State.readCtx (s : State) (sl : Nat) (t : Thread) (sreg : BitVec 12) (imm : BitVec 32) : Option Word :=
  let n := imm.toNat % 256
  match imm.toNat / 256 % 16 with
  | 0 => some (t.getX (BitVec.ofNat 6 n))
  | 1 => some (t.getF (BitVec.ofNat 5 n))
  | 2 => some t.predWord
  | 3 => if n % 8 < t.allot then some (qWord (t.getQ (BitVec.ofNat 3 n)) (n / 8 % 4)) else none
  | 4 => some t.pc
  | 5 => some t.npc
  | _ => some (sregValue { s with iss := { s.iss with slot := sl } } sreg)

/-- A thread with the selected register written; none where it is not available (R342, R6, R100). -/
def Thread.writeCtx (t : Thread) (sreg : BitVec 12) (imm : BitVec 32) (v : Word) : Option Thread :=
  let n := imm.toNat % 256
  match imm.toNat / 256 % 16 with
  | 0 => some (t.setX (BitVec.ofNat 6 n) v)
  | 1 => some (t.setF (BitVec.ofNat 5 n) v)
  | 2 => some { t with p := v.setWidth 8 }
  | 3 =>
    let q := BitVec.ofNat 3 n
    if n % 8 < t.allot then some (t.setQ q (qSetWord (t.getQ q) (n / 8 % 4) v)) else none
  | 4 => if pcOk v then some { t with pc := v } else none
  | 5 => if pcOk v then some { t with npc := v } else none
  | _ => some (t.setSreg sreg.toNat v)

/-- TREAD (R342). -/
def execTread (d a : BitVec 6) (sreg : BitVec 12) (pd : BitVec 3) (imm : BitVec 32) (s : State) : Out :=
  .next (s.onTrapped a pd fun s sl t =>
    match s.readCtx sl t sreg imm with
    | some v => (s.wx d v).wp pd true
    | none => s.wp pd false)

/-- TWRITE (R342): a rounding mode of 6 or 7 is illegal (R65), and PRIV may not exceed the supervisor's own level. -/
def execTwrite (a b : BitVec 6) (sreg : BitVec 12) (pd : BitVec 3) (imm : BitVec 32) (s : State) : Out :=
  let v := s.rx b
  let special := imm.toNat / 256 == 6
  .next (s.onTrapped a pd fun s sl t =>
    if special && sreg == 0x010#12 && decide (6 ≤ v.toNat % 8) then s.takeTrap .illegalInstruction 0 0
    else if special && sreg == 0x005#12 && decide (s.cur.lvl.toNat < v.toNat % 4) then s.takeTrap .privilege 0 0
    else
      match t.writeCtx sreg imm v with
      | some t' => (s.setThread s.iss.core sl t').wp pd true
      | none => s.wp pd false)

/-! ### Resuming (R343) -/

/-- A record of the thread with an identifier. -/
def TrapRec.ofTid (r : TrapRec) (tid : BitVec 17) : Bool := r.tid? == some tid

/-- The faulted and cancelled cube commands of the thread in a slot are dropped, and a CWAIT on one completes (R343,
R344, R220). -/
def State.dropCube (s : State) (c sl : Nat) : State :=
  let s := s.modCore c fun k =>
    { k with ring := k.ring.map fun e =>
        if e.isCube && e.tid == tidOf c sl && (e.st == 2#3 || e.st == 3#3) then { e with st := 4 } else e }
  s.wakeCube c

/-- TRESUME: every record the thread raised has been taken (R343). -/
def State.tresume (s : State) (a : BitVec 6) (pd : BitVec 3) (next : Bool) : State :=
  s.onTrapped a pd fun s sl t =>
    let c := s.iss.core
    if s.curCore.trapq.any fun r => r.ofTid (tidOf c sl) then s.wp pd false
    else
      let s := if s.curCore.cube.owner = some sl then s.dropCube c sl else s
      (s.setThread c sl (t.resumeAt next s.curCore.cyc)).wp pd true

/-- TRESUME (R343). -/
def execTresume (a : BitVec 6) (pd : BitVec 3) (s : State) : Out := .next (s.tresume a pd false)
/-- TRESUME.NEXT (R343). -/
def execTresumeNext (a : BitVec 6) (pd : BitVec 3) (s : State) : Out := .next (s.tresume a pd true)

/-! ### Killing (R344) -/

/-- Requests of a thread that wait at a home or bank leave their wait lists; the answer of its steal is as if it had not
yet come (R344, R140). -/
def State.unlist (s : State) (c sl gen : Nat) : State :=
  { s with net := (s.net.filter fun m =>
      !(m.core == c && m.slot == sl && m.gen == gen && (m.st == .waiting || m.st == .poked) && match m.kind with
        | .steal _ _ _ => false
        | _ => true)).map fun m =>
      match m.kind with
      | .steal _ _ _ => if m.core == c && m.slot == sl && m.gen == gen && m.st == .poked then { m with st := .replied } else m
      | _ => m }

/-- End the thread in a slot in any state (R344): effects 1 to 5 of RETIRE, its records when TRAPPED, its faulted cube
commands; a steal in flight keeps the slot until it answers. -/
def State.killThread (s : State) (c sl : Nat) : State :=
  let t := s.thread c sl
  let s := s.unlist c sl t.gen
  let ghost := s.stealing c sl
  let s := s.dropCube c sl
  let s := s.endThread c sl true
  s.modCore c fun k =>
    { k with
      ghosts := if ghost then addNew k.ghosts sl else k.ghosts
      trapq := if t.st = .trapped then k.trapq.filter fun r => !r.ofTid (tidOf c sl) else k.trapq }

/-- TKILL (R344): P[PD] is set, unless the thread that issues it is the one killed. -/
def execTkill (a : BitVec 6) (pd : BitVec 3) (s : State) : Out :=
  .next (s.needLevel 1 fun s =>
    match s.target a with
    | none => s.wp pd false
    | some (sl, _) =>
      let s' := s.killThread s.iss.core sl
      if sl = s.iss.slot then s' else s'.wp pd true)

end Sys2Proof.Machine
end

