-- ==== Sys2Proof/Machine/Schedule.lean ====
section
/-! DEFINITION. Pre-emption, eviction and restoration, checkpoints, unrecoverable faults, rollback and the supervisor's
restart (R111, R160, R177, R213, R273, R322 to R325, R339, R348, R350 to R354). -/
namespace Sys2Proof.Machine

/-! ### Pre-emption (R322, R323) -/

/-- A launch that may be pre-empted: effective priority, admission order, serial. -/
structure Victim where
  eff : Nat
  order : Nat
  serial : Nat
  deriving DecidableEq, Repr

/-- Lowest effective priority first, the latest admitted first within a level. -/
def Victim.before (a b : Victim) : Bool := a.eff < b.eff || (a.eff == b.eff && b.order < a.order)

def insertVictim (x : Victim) : List Victim → List Victim
  | [] => [x]
  | y :: t => if x.before y then x :: y :: t else y :: insertVictim x t

/-- A launch that holds its cores and may be pre-empted; one that is being checkpointed once its checkpoint has been taken. -/
def Launch.preemptable (l : Launch) : Bool := match l.phase with
  | .running => true
  | .checkpointing _ => true
  | .ckptDrain _ => true
  | _ => false

/-- The launches of an effective priority below `top` that may be pre-empted, in the order in which they are taken. -/
def Dom.victims (v : Dom) (top : Nat) : List Victim :=
  let es := v.effective
  ((v.launches.filter fun e => e.2.preemptable).map fun e =>
    { eff := ((es.find? fun x => x.ctx && x.key == e.1).map (·.eff)).getD e.2.prio, order := e.2.order, serial := e.1 : Victim }).foldr
      (fun x l => if x.eff < top then insertVictim x l else l) []

/-- The shortest prefix of the victims with which the reservation would succeed. -/
def takeUntil (fits : List Nat → Bool) : List Nat → List Victim → Option (List Nat)
  | gone, [] => if fits gone then some gone else none
  | gone, v :: rest => if fits gone then some gone else takeUntil fits (gone ++ [v.serial]) rest

/-- The reservation of the chosen one would succeed with some launches gone. -/
def State.wouldFit (s : State) (d : Nat) (c : Live) (gone : List Nat) : Bool :=
  if c.ctx then (lookup (s.dom d).launches c.key).any fun l => s.contextFits d l gone
  else (lookup (s.dom d).heads c.key).any fun h => (s.findPlace d h gone).isSome

def Launch.preempted (l : Launch) : Bool := match l.phase with
  | .preempting _ => true
  | _ => false

/-- The chosen one is a head that is to be refused (R319, R321, R352, R377). -/
def Dom.mustRefuse (v : Dom) (c : Live) : Bool :=
  v.failedDep.isSome || (!c.ctx && (lookup v.heads c.key).any fun x => (v.never x).isSome)

/-- PREEMPT (R322, R323): the launches below the chosen one that keep it from its reservation begin to be pre-empted. -/
def execPreempt (d : Nat) (s : State) : Out :=
  let v := s.dom d
  .next (match v.choose with
    | none => s
    | some c =>
      let going := (v.launches.filter fun e => e.2.preempted).map (·.1)
      if v.st ≠ .running ∨ v.mustRefuse c ∨ s.wouldFit d c [] ∨ s.wouldFit d c going then s
      else
        match takeUntil (s.wouldFit d c) going (v.victims c.eff) with
        | none => s
        | some gone => gone.foldl (fun s n => s.modLaunch d n fun l =>
            if l.isRunning then { l with phase := .preempting s.cycle } else l) s)

/-- QUANTUM_EXPIRY (R323): at its turn a READY thread of a context that must leave parks in place of issuing. -/
def execQuantumExpiry (c : Nat) (s : State) : Out :=
  let k := s.core c
  let sl := k.tc % 16
  .next (if !s.mayTurn c || !s.enabled k then s
    else
      match s.thread? c sl with
      | some t =>
        if t.st = .ready ∧ t.startAt ≤ k.cyc ∧ !t.late ∧ s.expiryDue c sl t then
          (s.modThread c sl fun t => { t with st := .parked .scheduler }).endCycle c true
        else s
      | none => s)

/-! ### Eviction (R111, R140, R177, R213, R323) -/

/-- The context must leave its cores: it is pre-empted or being checkpointed. -/
def Launch.leaving (l : Launch) : Bool := match l.phase with
  | .preempting _ => true
  | .checkpointing _ => true
  | _ => false

/-- Nothing of the thread is in flight that eviction waits for: a home's reply, a late fault, a V-operation, an AMO, a
steal, stream pushes, a cube command it owns. -/
def State.evictable (s : State) (c sl : Nat) (t : Thread) : Bool :=
  let k := s.core c
  sl < 14 && !t.late && (match t.st with
    | .parked (.home id) => (s.findMsg id).any fun m => m.st == .waiting
    | .parked _ => true
    | _ => false) &&
  !(k.vec.ops.any fun o => o.slot == sl && o.gen == t.gen) &&
  !(s.net.any fun m => m.core == c && m.slot == sl && m.gen == t.gen && match m.kind with
      | .atomic _ _ => true
      | .steal _ _ _ => m.st != .poked
      | _ => false) &&
  (k.gens.all fun g => !(g.2.slot == sl && g.2.gen == t.gen && g.2.wr) || g.2.pushes == []) &&
  (k.cube.owner != some sl || (k.cube.exec.isNone && k.cube.queue.isEmpty))

/-- A thread that performs its instruction afresh when it is restored. -/
def Thread.afresh (t : Thread) (pc : Word) : Thread := { t with st := .ready, pc := pc, pendV := none }

/-- How a thread stands in the save area (R111): parked with the wake condition it was evicted with, or READY after a quantum
expiry. One that stood in WAITF, or in DEPART.W (`departs`), performs its instruction afresh (R160, R169). -/
def Thread.saved (t : Thread) (departs : Bool) : Thread :=
  let t := { t with held := none, fetching := none }
  match t.st with
  | .parked .scheduler => { t with st := .ready }
  | .parked (.word _ _ _) => t.afresh t.lastPc
  | .parked (.home _) => if departs then t.afresh t.lastPc else t
  | _ => t

/-- A core's part of a save area before anything is saved. -/
def SavedCore.empty (c : Nat) : SavedCore := ⟨c, false, [], [], [], [], [], [], none, [], [], []⟩
def Launch.savedAt (l : Launch) (c : Nat) : SavedCore := (l.saved.find? fun k => k.core == c).getD (SavedCore.empty c)
def Launch.putSaved (l : Launch) (k : SavedCore) : Launch :=
  { l with saved := l.saved.filter (fun x => x.core != k.core) ++ [k] }

/-- It is the request of a DEPART.W. -/
def MKind.isDepart : MKind → Bool
  | .depart _ _ _ => true
  | _ => false

/-- The request with which a thread stands on a wait list, or the answer of its DQSTEAL. -/
def State.keptMsg (s : State) (c sl : Nat) (t : Thread) : Option Msg :=
  s.net.find? fun m => m.core == c && m.slot == sl && m.gen == t.gen && match m.kind with
    | .steal _ _ _ => m.st == .poked
    | _ => m.st == .waiting

/-- A thread goes to the save area (R111, R177), off the wait list it stands on. During a checkpoint its slot and its
generators stay taken, since the context resumes in place (R351). The cube of an evicted owner stays owned until its core has
been saved: owner `sl + 16` is the evicted thread of slot `sl`. -/
def State.evict (s : State) (c sl : Nat) (t : Thread) (inPlace : Bool) : State :=
  let kept := s.keptMsg c sl t
  let departs := kept.any fun m => m.kind.isDepart
  let gens := (s.core c).gens.filter fun g => g.2.slot == sl && g.2.gen == t.gen
  let sv : SavedThread := { slot := sl, thread := t.saved departs, msg := if departs then none else kept, gens := gens }
  let s := { s with net := s.net.filter fun m => kept != some m }
  let s := s.modCore c fun k =>
    { k with
      slots := eraseKey k.slots sl
      ghosts := if inPlace then addNew k.ghosts sl else k.ghosts
      gens := if inPlace then k.gens else k.gens.filter fun g => !(g.2.slot == sl && g.2.gen == t.gen)
      cube := if k.cube.owner = some sl then { k.cube with owner := some (sl + 16) } else k.cube }
  s.modLaunch t.dom t.launch fun l =>
    let k := l.savedAt c
    l.putSaved { k with threads := k.threads ++ [sv] }

/-- THREAD_EVICT (R323): a parked thread of a context that must leave goes to the save area; an idle one in DQRUN only
frees its slot (R140). -/
def execThreadEvict (c sl : Nat) (s : State) : Out :=
  .next (match s.thread? c sl with
    | none => s
    | some t =>
      let l := s.launch t.dom t.launch
      if !l.leaving || !s.evictable c sl t then s
      else if s.idleDqrun c sl t then s.endThread c sl true
      else s.evict c sl t (!l.preempted))

/-! ### Saving a core (R160, R273, R323, R351) -/

/-- What the save area receives of a core. -/
def Core.save (k : Core) (l : Launch) (sv : SavedCore) : SavedCore :=
  let inside (a : Nat) : Bool := decide (l.lbase ≤ a ∧ a < l.lbase + l.hdr.coreBytes)
  { sv with
    ended := true
    lmem := k.lmem.filter fun e => inside e.1
    full := k.full.filter fun w => inside (8 * w)
    lpoison := k.lpoison.filter fun w => inside (8 * w)
    items := k.deque l.serial
    handles := k.handles.filter fun e => e.1 / 64 == l.serial
    cube := if l.hdr.cube then some { k.cube with owner := k.cube.owner.map fun o => o % 16 } else none
    queues := k.eng.queues.filter fun q => q.launch == l.serial
    inbox := k.inbox.filter fun m => m.launch == l.serial
    outq := if l.preempted then [] else k.outq.filter fun m => m.launch == l.serial }

/-- What was saved leaves the core; messages of a pre-empted context stay in the outbound queue (R124). -/
def Core.vacate (k : Core) (l : Launch) : Core :=
  let r := k.release l
  { r with
    fused := k.fused
    outq := if l.preempted then k.outq else r.outq
    eng := { k.eng with queues := k.eng.queues.filter fun q => q.launch != l.serial } }

/-- The home seals the context's OPEN entries, pins up to `.confluence n` of a slice and spills the others (R160). -/
def pinEntries (n cap : Nat) : List ConfEnt → List ConfEnt → List ConfEnt × List ConfEnt
  | kept, [] => (kept, [])
  | kept, e :: rest =>
    if e.launch != n || e.st == .closed || e.pin then pinEntries n cap (kept ++ [e]) rest
    else
      let e := { e with st := .sealed }
      if (kept.countP fun x => x.launch == n && x.slice == e.slice && x.pin) +
          (rest.countP fun x => x.launch == n && x.slice == e.slice && x.pin) < cap then
        pinEntries n cap (kept ++ [{ e with pin := true }]) rest
      else
        let r := pinEntries n cap kept rest
        (r.1, e :: r.2)

/-- Every core is saved: an evicted context gives up its reservations, its unspent energy among them (R323, R377). -/
def State.evicted (s : State) (d : Nat) (l : Launch) : State :=
  let r := pinEntries l.serial l.hdr.conf [] (s.dom d).conf
  let s := s.modDom d fun v => { v with conf := r.1, acct := v.acct.giveBack l.energyRes }
  let s := if l.hdr.fuse then l.cores.foldl (fun s c => s.modCore c fun k => { k with fused := false }) s else s
  s.modLaunch d l.serial fun l => { l with phase := .out, spilled := l.spilled ++ r.2 }

/-- Every core is saved for a checkpoint: the unit drains every placed core (R351). -/
def State.drainFor (s : State) (d : Nat) (l : Launch) : State :=
  let r := s.drainCores d l
  r.1.modLaunch d l.serial fun l => { l with phase := .ckptDrain r.2 }

/-- CORE_SAVE_END (R323): a core has been saved, which is a release by it (R273); the last one ends the eviction, or begins
the drains of a checkpoint. -/
def execCoreSaveEnd (c n : Nat) (s : State) : Out :=
  let d := (s.core c).part.getD Config.firmwareDomain
  .next (match lookup (s.dom d).launches n with
    | none => s
    | some l =>
      if !l.leaving || !l.cores.contains c || (l.savedAt c).ended || s.activeOn d l l.preempted c ||
          s.foldBlocks (s.agentOf c) then s
      else
        s.whenClean (if l.preempted then l.fusedAgents else []) fun s =>
          let sv := (s.core c).save l (l.savedAt c)
          let s := ((s.countRelease (s.agentOf c)).modCore c fun k => k.vacate l).modLaunch d n fun l => l.putSaved sv
          let l := s.launch d n
          if !(l.cores.all fun x => (l.savedAt x).ended) then s
          else if l.preempted then s.evicted d l
          else s.drainFor d l)

/-! ### Restoring (R325) -/

/-- Put saved generators into the lowest free ones. -/
def Core.putGens (k : Core) : List (Nat × Gen) → Core
  | [] => k
  | g :: rest =>
    match k.freeGen with
    | some i => ({ k with gens := insertKey k.gens i g.2 }).putGens rest
    | none => k

/-- A saved thread enters its slot. -/
def Core.putThread (k : Core) (gens : Bool) (t : SavedThread) : Core :=
  let k := { k with
    slots := insertKey k.slots t.slot { t.thread with startAt := max t.thread.startAt (k.cyc + 1) }
    ghosts := k.ghosts.filter fun x => x != t.slot }
  if gens then k.putGens t.gens else k

/-- A core takes back its part of a save area or image. -/
def Core.restore (k : Core) (l : Launch) (gens : Bool) (sv : SavedCore) : Core :=
  let k := k.clearRegion l.lbase l.hdr.coreBytes []
  sv.threads.foldl (fun k t => k.putThread gens t)
    { k with
      fused := l.hdr.fuse
      lmem := sv.lmem.foldl (fun m e => Memory.set m e.1 e.2) k.lmem
      full := k.full ++ sv.full
      lpoison := k.lpoison ++ sv.lpoison
      deques := if sv.items = [] then k.deques else insertKey k.deques l.serial sv.items
      handles := sv.handles.foldl (fun m e => insertKey m e.1 e.2) k.handles
      cube := sv.cube.getD k.cube
      eng := { k.eng with queues := k.eng.queues ++ sv.queues }
      inbox := k.inbox ++ sv.inbox
      outq := k.outq ++ sv.outq }

/-- The requests that saved threads stand with: the home or bank looks at each word again. -/
def savedMsgs (svs : List SavedCore) : List Msg :=
  svs.flatMap fun k => k.threads.filterMap fun t => t.msg.map fun m => { m with st := .poked }

/-- The wake conditions of a core's threads are looked at when a context has come back to it: one that holds returns its thread
to rotation (R111, R220, R296, R341). -/
def State.lookAgain (s : State) (c : Nat) : State :=
  let s := s.wakeCube c
  (s.core c).slots.foldl (fun s e => match e.2.st with
    | .parked (.handle hn _ _) => s.wakeHandle c e.2.launch hn
    | .parked (.record _) => if (s.core c).trapq = [] then s else s.wakeThread c e.1
    | _ => s) s

/-- A core takes its part back; what no longer fits the store of its deques is spilled (R131, R325). -/
def State.restoreCore (s : State) (d : Nat) (l : Launch) (gens : Bool) (sv : SavedCore) : State :=
  (sv.items.foldl (fun s _ => s.spillOldest sv.core d) (s.modCore sv.core fun k => k.restore l gens sv)).lookAgain sv.core

/-- Every core takes its part back, and the context runs (R325). -/
def State.restoreAll (s : State) (d n : Nat) (l : Launch) (gens : Bool) (svs : List SavedCore) : State :=
  let s := svs.foldl (fun s sv => s.restoreCore d l gens sv) s
  { s with net := s.net ++ savedMsgs svs }.modLaunch d n fun l => { l with phase := .running, saved := [] }

/-- CONTEXT_RESTORE (R325): the chosen context is restored onto its own placement at its own LBASE. -/
def execContextRestore (d : Nat) (s : State) : Out :=
  let v := s.dom d
  .next (match v.choose with
    | none => s
    | some c =>
      match lookup v.launches c.key with
      | none => s
      | some l =>
        if v.st = .running ∧ c.ctx ∧ l.evicted ∧ s.contextFits d l [] then
          s.whenClean (if l.hdr.fuse then l.cores else []) fun s =>
            (s.restoreAll d c.key l true l.saved).modDom d fun v =>
              { v with chosen := none, acct := { v.acct with b := v.acct.b - max l.energyRes 0 } }
        else s)

/-! ### Checkpoints (R351, R352) -/

/-- A checkpoint is due: by its interval, or because the undo log is full (R351). -/
def Launch.due (l : Launch) (now : Nat) : Bool := l.hdr.ckpt != 0 && (l.ckptDue ≤ now || 2 ^ 20 ≤ l.undo.length)

/-- The image is complete: the undo log is discarded and the threads resume in place (R351). -/
def State.checkpointed (s : State) (d n : Nat) (l : Launch) : State :=
  let img : Image := ⟨l.saved, ((s.dom d).conf.filter fun e => e.launch == n && e.st != .closed) ++ l.spilled, l.work, l.left⟩
  (s.restoreAll d n l false l.saved).modLaunch d n fun l =>
    { l with ckpt := some img, undo := [], undoPoison := [], taken := l.taken + 1, ckptDue := s.cycle + l.hdr.ckpt }

/-- CHECKPOINT (R351): a due checkpoint begins; once every core has been saved and drained it is taken. -/
def execCheckpoint (d n : Nat) (s : State) : Out :=
  .next (match lookup (s.dom d).launches n with
    | none => s
    | some l =>
      match l.phase with
      | .running => if l.due s.cycle then s.modLaunch d n fun l => { l with phase := .checkpointing s.cycle } else s
      | .ckptDrain ids => if ids.all s.acked then s.checkpointed d n l else s
      | _ => s)

/-! ### Unrecoverable faults (R348, R350, R353) -/

/-- A core abandons everything of a context (R350); the records of its TRAPPED threads go with them (R344). -/
def Core.stop (k : Core) (c d : Nat) (l : Launch) (ghosts : List Nat) : Core :=
  let n := l.serial
  let mine := k.slots.filter fun e => e.2.dom == d && e.2.launch == n
  let r := k.vacate l
  { r with
    slots := k.slots.filter fun e => !(e.2.dom == d && e.2.launch == n)
    ghosts := k.ghosts.filter fun x => !ghosts.contains x
    gens := k.gens.filter fun g => !(g.2.dom == d && g.2.launch == n)
    vec := { k.vec with ops := k.vec.ops.filter fun o => !(mine.any fun e => e.1 == o.slot && e.2.gen == o.gen) }
    outq := r.outq.filter fun m => m.launch != n
    ring := if l.hdr.cube then k.ring.map fun e => if e.isCube && e.st != 1 then { e with st := 4 } else e else k.ring
    trapq := k.trapq.filter fun x => !(mine.any fun e => e.2.st == .trapped && x.ofTid (tidOf c e.1))
    eng := { r.eng with cur := match k.eng.cur with
      | some x => if x.dom == d && x.launch == n then none else some x
      | none => none } }

/-- A request that goes with its context: write-backs and drains belong to the caches. -/
def Msg.ofContext (m : Msg) (d n : Nat) : Bool :=
  m.dom == d && m.launch == n && match m.kind with
    | .writeBack => false
    | .drain _ _ _ => false
    | _ => true

/-- Every thread of a context stops at once, and its engine commands are abandoned (R350); of one that stands evicted only
messages are left on its cores (R124). What waited behind its requests at a home is served. -/
def State.stopContext (s : State) (d : Nat) (l : Launch) : State :=
  let stolen (c : Nat) : List Nat := (s.net.filter fun m => m.core == c && m.ofContext d l.serial && match m.kind with
    | .steal _ _ _ => true
    | _ => false).map (·.slot)
  let held (c : Nat) : List Nat := if l.isOut then [] else (l.savedAt c).threads.map (·.slot)
  let s' := if l.isOut then
      l.cores.foldl (fun s c => s.modCore c fun k => { k with outq := k.outq.filter fun m => m.launch != l.serial }) s
    else l.cores.foldl (fun s c => (s.modCore c fun k => k.stop c d l (stolen c ++ held c)).wakeCube c) s
  { s' with net := s'.net.filter fun m => !(m.ofContext d l.serial) }.pumpAll d

/-- An unrecoverable fault of a context (R350), found at core `c`: its record carries CONTAINED, names the context's lowest
slot there, and goes to the supervisor (R333, R334). -/
def State.unrecoverable (s : State) (d n c : Nat) : State :=
  match lookup (s.dom d).launches n with
  | none => s
  | some l =>
    match l.phase with
    | .failed _ => s
    | _ =>
      let e := (s.core c).slots.find? fun e => e.2.dom == d && e.2.launch == n
      let sl := (e.map (·.1)).getD 0
      let pc := (e.map fun e => e.2.pc).getD 0
      let s := (s.stopContext d l).modLaunch d n fun l => { l with phase := .failed l.isOut }
      s.pushRec c (mkRec .machineCheck (recFlags false false false true false) (tidOf c sl) 0 pc 0 2)

/-- UE_STATE_MACHINE_CHECK (R348): an uncorrectable error in thread or engine state, counted at its core (R381). -/
def execUeStateMachineCheck (d n c : Nat) (s : State) : Out := .next ((s.count 4 0 c).unrecoverable d n c)

/-- The slots and generators of saved threads are free on their cores. -/
def State.slotsFit (s : State) (svs : List SavedCore) : Bool :=
  svs.all fun sv =>
    let k := s.core sv.core
    (sv.threads.all fun t => (lookup k.slots t.slot).isNone && !k.ghosts.contains t.slot) &&
      decide ((sv.threads.map fun t => t.gens.length).foldl (· + ·) 0 + k.gens.length ≤ 16)

/-- The bytes of a domain's line that a launch wrote last. -/
def ownedBy (n : Nat) (here : Bool) (os : List (Nat × BitVec 128)) : BitVec 128 := if here then (lookup os n).getD 0 else 0

/-- A line without its clean bytes and without those of a mask. -/
def L1Line.without (x : L1Line) (gone : BitVec 128) : L1Line :=
  let left := x.dirty &&& ~~~gone
  { x with valid := left, dirty := left, poison := 0, dpoison := x.dpoison &&& someWords left, whole := x.whole &&& fullWords left,
           owners := disown gone x.owners }

/-- A write-back without the bytes of a mask. -/
def Msg.without (m : Msg) (gone : BitVec 128) : Msg :=
  let left := m.mask &&& ~~~gone
  { m with mask := left, pmask := m.pmask &&& someWords left, whole := m.whole &&& fullWords left, owners := disown gone m.owners }

/-- Step 1 of a rollback: the placed cores' L1s lose their clean bytes and those that the context wrote last, and its bytes on
their way home are discarded (R353). Dirty bytes of other contexts stay (R352). -/
def State.dropLines (s : State) (d : Nat) (l : Launch) : State :=
  let rest (ls : List L1Line) : List L1Line :=
    (ls.map fun x => x.without (ownedBy l.serial (x.dom == d) x.owners)).filter fun x => x.dirty != 0
  let s := (s.agentsOf l.cores).foldl (fun s a => (s.spoilFills a fun _ _ => true).modCache a fun k =>
    { k with lines := rest k.lines }) s
  let cut (m : Msg) : Msg := if m.kind == .writeBack then m.without (ownedBy l.serial (m.dom == d) m.owners) else m
  { s with net := (s.net.map cut).filter fun m => !(m.kind == .writeBack && m.mask == 0) }

/-- Step 2: the undo log is applied in reverse, bytes and poison; it is kept newest first (R349, R352, R353). -/
def State.applyUndo (s : State) (d : Nat) (l : Launch) : State :=
  let s := s.modDom d fun v =>
    { v with
      mem := l.undo.foldl (fun m e => Memory.set m e.1 e.2) v.mem
      poison := l.undoPoison.foldl (fun p e => if e.2 then addNew p e.1 else p.filter fun w => w != e.1) v.poison
      replicas := v.replicas.filter fun r => !(l.undo.any fun e => lineOf e.1 == r.1) }
  { s with net := s.net.map fun m => if l.undo.any fun e => m.watches d e.1 1 then { m with st := .poked } else m }

/-- ROLLBACK (R353): a context with a checkpoint runs again from it. -/
def execRollback (d n : Nat) (s : State) : Out :=
  .next (match lookup (s.dom d).launches n with
    | none => s
    | some l =>
      match l.phase, l.ckpt with
      | .failed out, some img =>
        if !out && !s.slotsFit img.cores then s
        else
          let s := ((s.dropLines d l).applyUndo d l).modDom d fun v =>
            { v with conf := v.conf.filter fun e => e.launch != n }
          let s := if out then s.modLaunch d n fun l => { l with phase := .out, saved := img.cores }
            else s.restoreAll d n l true img.cores
          (s.modLaunch d n fun l =>
            { l with spilled := img.conf, work := img.work, left := img.left, undo := [], undoPoison := [], rolled := l.rolled + 1,
                     ckptDue := s.cycle + l.hdr.ckpt }).count 7 0 d
      | _, _ => s)

/-- CONTEXT_TERMINATE (R350): a context without a checkpoint ends with STATUS 4, its items, messages and packets
discarded; the dirty bytes of its fused caches reach their homes first (R243). -/
def execContextTerminate (d n : Nat) (s : State) : Out :=
  .next (match lookup (s.dom d).launches n with
    | none => s
    | some l =>
      match l.phase, l.ckpt with
      | .failed _, none =>
        (s.modDom d fun v => { v with conf := v.conf.map fun e =>
          if e.launch == n then { e with st := .closed, pin := false } else e }).finish d l 4
      | _, _ => s)

/-! ### CKPT (R354) -/

/-- The live launch that X[A] names, when it takes checkpoints (R354). -/
def State.ckptLaunch (s : State) (a : BitVec 6) : Option (Nat × Launch) :=
  let n := (s.rx a).toNat % 2 ^ 32
  match lookup s.curDom.launches n with
  | some l => if l.hdr.ckpt = 0 then none else some (n, l)
  | none => none

/-- CKPT.TAKE (R354): a checkpoint begins now; one that cannot begin yet is due. -/
def execCkptTake (a : BitVec 6) (pd : BitVec 3) (s : State) : Out :=
  .next (s.needLevel 2 fun s =>
    match s.ckptLaunch a with
    | none => s.wp pd false
    | some (n, _) =>
      (s.modLaunch s.cur.dom n fun l =>
        match l.phase with
        | .running => { l with phase := .checkpointing s.curCore.cyc }
        | .checkpointing _ => l
        | .ckptDrain _ => l
        | _ => { l with ckptDue := 0 }).wp pd true)

/-- CKPT.ROLL (R354): an unrecoverable fault of the context. -/
def execCkptRoll (a : BitVec 6) (pd : BitVec 3) (s : State) : Out :=
  .next (s.needLevel 2 fun s =>
    match s.ckptLaunch a with
    | none => s.wp pd false
    | some (n, _) => (s.wp pd true).unrecoverable s.cur.dom n s.iss.core)

/-- CKPT.STAT (R354). -/
def execCkptStat (d a : BitVec 6) (pd : BitVec 3) (s : State) : Out :=
  .next (s.needLevel 2 fun s =>
    match s.ckptLaunch a with
    | none => s.wp pd false
    | some (_, l) => (s.wx d (BitVec.ofNat 64 (l.taken % 2 ^ 32 + 2 ^ 32 * l.rolled))).wp pd true)

/-! ### The supervisor's restart (R339) -/

/-- Start the supervisor of a core (R339). -/
def State.startSupervisor (s : State) (c d : Nat) (x : List Word) : State :=
  let v := s.dom d
  s.startThread c 15 { Thread.blank with dom := d, asn := v.supAsn, root := v.supRoot, lvl := 1 } v.supPc fun t => t.setXs 1#6 x

/-- SUPERVISOR_RESTART (R339): a fault of slot 15 restarts it with its record in x1 to x4; a second one within 2^20 cycles
of a restart is an unrecoverable fault of every context with a TRAPPED thread on the core. -/
def execSupervisorRestart (c : Nat) (s : State) : Out :=
  let k := s.core c
  .next (match k.supFault, k.part with
    | some r, some d =>
      let again := k.supAt.any fun t => k.cyc ≤ t + 2 ^ 20
      let hurt := ((k.slots.filter fun e => e.2.st == .trapped && e.2.launch != 0).map fun e => e.2.launch).eraseDups
      let s := if again then hurt.foldl (fun s n => s.unrecoverable d n c) s else s
      let s := (s.unlist c 15 (s.thread c 15).gen).endEffects c 15
      ((s.modCore c fun k => { k with supFault := none, supAt := some k.cyc }).startSupervisor c d [r.w0, r.w1, r.w2, r.w3]).count 8 0 c
    | _, _ => s)

end Sys2Proof.Machine
end

