-- ==== Sys2Proof/Machine/Directory.lean ====
section
/-! DEFINITION. The directory and the external agents: requests, invalidations and acknowledgements, merging, an
uncorrectable entry, requests of the host by the bias of their page, and window 2 (R299 to R312, R372). -/
namespace Sys2Proof.Machine

/-! ### Requests of outside agents (R303 to R305) -/

/-- A request of an outside agent for a line. -/
def ExtReq.of (agent pa kind : Nat) (mask : BitVec 128) (data : BitVec 1024) : ExtReq :=
  { agent := agent, pa := pa, kind := kind, id := 0, mask := mask, data := data }

/-- RDS (R304). -/
def execRds (d agent pa : Nat) (s : State) : Out := .next (s.extRequest d (ExtReq.of agent pa 2 0 0))
/-- RDO (R304). -/
def execRdo (d agent pa : Nat) (s : State) : Out := .next (s.extRequest d (ExtReq.of agent pa 3 0 0))
/-- WRB (R305). -/
def execWrb (d agent pa : Nat) (mask : BitVec 128) (data : BitVec 1024) (s : State) : Out :=
  .next (s.extRequest d (ExtReq.of agent pa 4 mask data))
/-- EVN (R305): one that comes late, or from an agent that is not named, is ignored. -/
def execEvn (d agent pa : Nat) (s : State) : Out := .next (s.extRequest d (ExtReq.of agent pa 5 0 0))

/-! ### Acknowledgements (R302, R304, R307, R308, R310, R311) -/

/-- The entry of a line once the agents in the way of a core access have acknowledged (R304, R310): after a write agent 0 is
all it may name; after a read the host keeps a shared copy, and any other owner is gone. -/
def Dom.afterCore (v : Dom) (line now : Nat) (write : Bool) : Option DirEnt :=
  let here := v.l2.contains line
  let alone : DirEnt := { line := line, size := 0, owned := false, coarse := false, nptr := 1, holders := 0, last := now }
  let l2 (e : DirEnt) : DirEnt := if here then e.addAgent 0 else e
  if write then (if here then some alone else none)
  else
    match v.entryOf line with
    | some e => some (if (e.agents v.agentSet).contains 1 then l2 { e with owned := false, last := now } else alone)
    | none => some alone

/-- Every invalidation of a line has been acknowledged: the home goes on with what waited. -/
def State.allAcked (s : State) (d : Nat) (p : DirPend) : State :=
  let v := s.dom d
  let line := p.line
  let put (e : Option DirEnt) : State := s.setDom d (v.setEntry line e)
  let base : DirEnt := { line := line, size := 0, owned := false, coarse := false, nptr := 0, holders := 0, last := s.cycle }
  match p.why with
  | .rds a => (put (some (base.single false a))).answerData d (line * 128) 128 2
  | .rdo a => (put (some (base.single true a))).answerData d (line * 128) 128 3
  | .core _ write =>
    let e := v.afterCore line s.cycle write
    (put e).modDom d fun v =>
      if !write && e.any fun e => (e.agents v.agentSet).contains 1 then { v with asked := addNew v.asked line } else v
  | .flip => put none
  | .rebuild b n =>
    if v.pend.any fun q => q.why == p.why then s
    else (s.setDom d { v with dir := v.dir.filter fun x => !(b ≤ x.line && x.line < b + 2 ^ n && x.size ≤ n) }).count 8 3
      (v.dirSlice b)
  | .recall => if v.pend.any fun q => q.why == p.why && blockOf q.line == blockOf line then s else put none

/-- Write-backs of an agent for a line that wait at the directory have come before its acknowledgement: they are performed
first (R305). -/
def State.earlierBacks (s : State) (d agent line : Nat) : State :=
  let mine := (s.dom d).reqs.filter fun r => r.kind == 4 && r.agent == agent && lineOf r.pa == line
  mine.foldl (fun s r => (s.modDom d fun v => { v with reqs := v.reqs.erase r }).writeBackExt d r) s

/-- An acknowledgement of an agent for a line, with the bytes it returns (R304). Agent 0 drops the line from the L2. A recall
frees a way for what waits at any block (R307); what a flip collects is written at the line's LLC slice (R396). -/
def State.ackInval (s : State) (d agent line : Nat) (mask : BitVec 128) (data : BitVec 1024) : State :=
  match (s.dom d).pend.find? fun p => p.line == line && p.agents.contains agent with
  | none => s
  | some p =>
    let s := s.earlierBacks d agent line
    let s := if agent = 0 then s.modDom d fun v => v.dropL2 line
      else if mask = 0 then s
      else (s.outsideWrite d line mask data).modDom d fun v => if p.why = .flip then v.putLlc line else v
    let p' := { p with agents := p.agents.erase agent }
    if p'.agents.isEmpty then
      let s := (s.modDom d fun v => { v with pend := v.pend.erase p }).allAcked d p'
      if p.why = .recall then s.pumpAll d else s.pumpBlock d line
    else s.modDom d fun v => { v with pend := v.pend.map fun q => if q == p then p' else q }

/-- INVALIDATION_ACK (R304). -/
def execInvalidationAck (d agent pa : Nat) (mask : BitVec 128) (data : BitVec 1024) (s : State) : Out :=
  .next (s.ackInval d agent (lineOf pa) mask data)

/-- BACK_INVALIDATE_RESPONSE (R310): the host, agent 1, answers a back-invalidate. -/
def execBackInvalidateResponse (d pa : Nat) (mask : BitVec 128) (data : BitVec 1024) (s : State) : Out :=
  .next (s.ackInval d 1 (lineOf pa) mask data)

/-! ### Merging, and an uncorrectable entry (R306, R308) -/

/-- No request to the region for 2^20 − 1 cycles. -/
def DirEnt.quiet (e : DirEnt) (now : Nat) : Bool := decide (e.last + (2 ^ 20 - 1) ≤ now)

/-- The sibling half of an entry. -/
def Dom.sibling (v : Dom) (e : DirEnt) : Option DirEnt :=
  let other := if e.line / 2 ^ e.size % 2 = 0 then e.line + 2 ^ e.size else e.line - 2 ^ e.size
  v.dir.find? fun x => x.line == other && x.size == e.size

/-- ENTRY_MERGE (R306). -/
def execEntryMerge (d pa : Nat) (s : State) : Out :=
  let v := s.dom d
  .next (match v.entryOf (lineOf pa) with
    | none => s
    | some e =>
      match v.sibling e with
      | none => s
      | some x =>
        let busy := v.pend.any fun p => e.covers p.line || x.covers p.line
        if e.size < 9 ∧ e.owned = x.owned ∧ e.coarse = x.coarse ∧ e.nptr = x.nptr ∧ e.holders = x.holders ∧
            e.quiet s.cycle ∧ x.quiet s.cycle ∧ !busy then
          let parent := { e with line := min e.line x.line, size := e.size + 1, last := max e.last x.last }
          s.setDom d { v with dir := parent :: (v.dir.filter fun y => y != e && y != x) }
        else s)

/-- DIRECTORY_UE (R308): every line of the region is invalidated at every agent of the set, and the region is rebuilt as
INVALID, and counted, once all have answered. -/
def execDirectoryUe (d pa : Nat) (s : State) : Out :=
  let v := s.dom d
  .next (match v.entryOf (lineOf pa) with
    | none => s
    | some e =>
      if v.pend.any fun p => p.why == .rebuild e.line e.size then s
      else s.setDom d ((List.range (2 ^ e.size)).foldl
        (fun v i => v.sendInvals (e.line + i) v.agentSet (.rebuild e.line e.size)) v))

/-! ### The host (R309, R310, R372) -/

/-- A host request that the host had sent before the back-invalidate of a core access reached it is served first; the
back-invalidate then goes out again (R312). -/
def State.crossedRequest (s : State) (d : Nat) (r : ExtReq) : State :=
  match (s.dom d).pend.find? fun p => p.line == lineOf r.pa && p.agents.contains 1 && match p.why with
    | .core _ _ => true
    | _ => false with
  | none => s.extRequest d r
  | some p =>
    match (s.modDom d fun v => { v with pend := v.pend.erase p }).serveExt d r with
    | .wait _ => s.extRequest d r
    | .done s => s.modDom d fun v => { v with pend := v.pend ++ [p] }

/-- HOST_REQUEST (R310): a request of the host: 0 a read, 1 a write of the masked bytes, 2 RdS, 3 RdO, 4 WrB, 5 EvN. A
read of kind 0 takes the number of bytes from `data`. The flag beside the kind marks one of the first four that crosses a
back-invalidate (R312). -/
def execHostRequest (d pa : Nat) (kind : Nat × Bool) (mask : BitVec 128) (data : BitVec 1024) (s : State) : Out :=
  let r := ExtReq.of 1 pa kind.1 mask data
  .next (if 5 < kind.1 then s else if kind.2 && decide (kind.1 < 4) then s.crossedRequest d r else s.extRequest d r)

/-- Bytes of window 2 (R372): the smallest power of two that holds the partition's memory. That it is the smallest is a DESIGN
CHOICE (log 73). -/
def Dom.window2Bytes (v : Dom) : Nat := 2 ^ Nat.log2 (2 * v.bytes - 1)

/-- WINDOW2_ACCESS (R370, R372): byte `off` of window 2 of function n is byte `off` of partition n − 1's memory, reached line by
line as host requests; the window is there while the partition is RUNNING. What lies outside the window is no access to it. -/
def execWindow2Access (fn off : Nat) (write : Bool) (size : Nat) (data : BitVec 1024) (s : State) : Out :=
  let d := fn - 1
  let v := s.dom d
  .next (if 128 < size then s
    else if fn = 0 ∨ 16 < fn ∨ v.st ≠ .running then s.answerRefused off size
    else if v.window2Bytes ≤ off then s
    else if v.bytes < off + size then s.answerRefused off size
    else (linePieces 2 off size).foldl (fun s p => s.extRequest d
      (if write then ExtReq.of 1 p.1 1 (lineMask (p.1 % 128) p.2) ((data >>> (8 * (p.1 - off))) <<< (8 * (p.1 % 128)))
      else ExtReq.of 1 p.1 0 0 (BitVec.ofNat 1024 p.2))) s)

/-- HOST_SNOOP (R309): a snoop for host memory is answered from the L2, which caches it: 2 with the line's bytes on a hit, 5 on
a miss; an invalidating one drops the line. The device fetches host memory at times the spec leaves open: what stands beside
the flag tells that the L2 had taken in the line before the snoop, and with which bytes (log 51). -/
def execHostSnoop (addr : Nat) (inval : Bool × Option (BitVec 1024)) (s : State) : Out :=
  let line := lineOf addr
  let held := (lookup s.hostLines line).or inval.2
  .next (match held with
    | none => s.answer ⟨5, addr, 128, 0⟩
    | some b => { s with hostLines := if inval.1 then eraseKey s.hostLines line else insertKey s.hostLines line b }.answer
        ⟨2, addr, 128, b⟩)

/-- REPLICA_DROP (R246): a slice drops a clean replica at any cycle. -/
def execReplicaDrop (d line cluster : Nat) (s : State) : Out :=
  .next (s.modDom d fun v => { v with replicas := v.replicas.filter fun r => r != (line, cluster) })

end Sys2Proof.Machine
end

