-- ==== Sys2Proof/Machine/Invalidate.lean ====
section
/-! DEFINITION. Invalidation of translations and bias flips: XLINV, XLSYNC, BFLIP, and the events of their
acknowledgements (R239, R240, R293, R310, R311, R396). -/
namespace Sys2Proof.Machine

/-! ### Recipients -/

/-- The cores of a partition, ascending (R9, R355). -/
def Dom.coreList (v : Dom) : List Nat :=
  (onesAt v.groups).flatMap fun g => (List.range 96).map fun i => (g / 10 * 160 + g % 10 * 16) * 6 + i

/-- The cores that an invalidation of a domain reaches; the firmware domain has the issuing core (log 7). -/
def State.invalCores (s : State) (d c : Nat) : List Nat := if d < 16 then (s.dom d).coreList else [c]

/-- Units that hold translations: cores, cluster TLBs 4096 + cluster, copy engines 8192 + core, the walker caches 16384. -/
def invalUnits (cores : List Nat) (tlbOnly : Bool) : List Nat :=
  let tlbs := cores ++ (cores.map fun c => 4096 + clusterOf c).eraseDups
  if tlbOnly then tlbs else tlbs ++ cores.map (fun c => 8192 + c) ++ [16384]

/-- A TLB entry that an invalidation removes (R240, R311). -/
def InvKind.hits (k : InvKind) (d : Nat) (e : TlbEnt) : Bool :=
  e.dom == d && match k with
    | .va n a => e.covers d n a
    | .space asn => e.asn == asn
    | .all => true
    | .page pa => decide (e.pa ≤ pa ∧ pa < e.pa + 2 ^ e.size)

/-- A walker-cache entry that an invalidation removes. -/
def InvKind.hitsWalk (k : InvKind) (w : WalkEnt) : Bool :=
  match k with
  | .va n a => w.asn == n && w.tag == a / 2 ^ levelShift w.level false
  | .space asn => w.asn == asn
  | .all => true
  | .page _ => false

def InvKind.isPage : InvKind → Bool
  | .page _ => true
  | _ => false

/-- Send an invalidation of the issuing core to its recipients. -/
def State.sendInval (s : State) (k : InvKind) : State :=
  let d := s.cur.dom
  let i : Inval := { id := s.nextId, dom := d, core := s.iss.core, kind := k,
                     todo := invalUnits (s.invalCores d s.iss.core) k.isPage, acks := [] }
  { s with invals := s.invals ++ [i], nextId := s.nextId + 1 }

/-- XLINVs of the issuing core that are not acknowledged by every recipient. -/
def State.openXlinvs (s : State) : List Nat :=
  (s.invals.filter fun i => i.core == s.iss.core && i.dom == s.cur.dom && !i.kind.isPage).map (·.id)

/-! ### XLINV and XLSYNC (R240) -/

/-- XLINV: the dirty set is written back, as one drain, then the invalidation is sent; a ninth one waits. -/
def State.xlinv (s : State) (k : InvKind) : State :=
  s.needLevel 2 fun s =>
    let send (s : State) : State := if 8 ≤ s.openXlinvs.length then s.loseTurn else s.sendInval k
    match s.cur.prog with
    | some p => s.afterAcks 1 p.ids send
    | none =>
      if 8 ≤ s.openXlinvs.length then s.loseTurn
      else
        let r := s.drainAll s.curAgent
        r.1.afterAcks 1 r.2 send

/-- X[A][15:0] as an address-space number. -/
def State.rasn (s : State) (a : BitVec 6) : Nat := (s.rx a).toNat % 2 ^ 16

/-- XLINV.VA (R240). -/
def execXlinvVa (a b : BitVec 6) (s : State) : Out := .next (s.xlinv (.va (s.rasn a) (va56 (s.rx b))))
/-- XLINV.AS (R240). -/
def execXlinvAs (a : BitVec 6) (s : State) : Out := .next (s.xlinv (.space (s.rasn a)))
/-- XLINV.ALL (R240). -/
def execXlinvAll (s : State) : Out := .next (s.xlinv .all)

/-- XLSYNC (R240): it loses turns until the XLINVs issued earlier by any slot of its core are acknowledged. -/
def execXlsync (s : State) : Out :=
  .next (s.needLevel 2 fun s =>
    let ids := match s.cur.prog with
      | some p => p.ids
      | none => s.openXlinvs
    if s.invals.any fun i => ids.contains i.id then s.loseWith ⟨1, ids, 0⟩ else s)

/-! ### Receipt (R240, R293) -/

/-- Requests of cores of a domain that have not been performed, for which `p` holds. -/
def State.underWay (s : State) (d : Nat) (p : Msg → Bool) : List Nat :=
  (s.net.filter fun m => m.dom == d && (m.st == .sent || m.st == .held || m.st == .combined) && p m).map (·.id)

/-- Accesses of some cores that used TLB entries which an invalidation removes. Those to a page that is being flipped wait for
the end of the flip at their homes (R310), and are not awaited (log 57). -/
def State.usersOf (s : State) (i : Inval) (mine : Nat → Bool) (es : List TlbEnt) : List Nat :=
  s.underWay i.dom fun m => mine m.core && (es.any fun e => i.kind.hits i.dom e && e.covers i.dom m.asn (va56 m.va)) &&
    match i.kind with
    | .page pa => m.pa / 4096 != pa / 4096
    | _ => true

/-- A core loses its matching TLB entries; for an XLINV it also writes back every dirty L1 line, as one drain, and drops
its whole L1. Gives the requests its acknowledgement waits for. -/
def State.invalAtCore (s : State) (i : Inval) (c : Nat) : State × List Nat :=
  let users := s.usersOf i (fun x => x == c) (s.core c).tlb
  let s := s.modCore c fun k => { k with tlb := k.tlb.filter fun e => !i.kind.hits i.dom e }
  if i.kind.isPage then (s, users)
  else
    let a := s.agentOf c
    let under := s.underWay i.dom fun m => m.core == c
    let s := s.modCore c fun k =>
      { k with slots := k.slots.map fun e => if e.2.dom == i.dom then (e.1, { e.2 with fetching := none }) else e }
    let r := s.drainAll a
    let s := r.1.spoilFills a fun _ _ => true
    (s.modCache a fun k => { k with lines := [] }, r.2 ++ under)

/-- A copy engine takes in an invalidation: what it has translated for its packet is translated again (R293). -/
def Xfer.forget (x : Xfer) : Xfer := { x with caddr := none, spage := none, dpage := none }

/-- A packet in progress moves bytes under a mapping that an invalidation may concern (R293). -/
def State.engineBusy (s : State) (i : Inval) (c : Nat) : Bool :=
  (s.core c).eng.cur.any fun x => x.dom == i.dom && i.kind.hitsSpace x.asn && x.inPage

/-- What a recipient does, and the requests its acknowledgement waits for. -/
def State.invalAt (s : State) (i : Inval) (u : Nat) : State × List Nat :=
  if u < 4096 then s.invalAtCore i u
  else if u < 8192 then
    let cl := u - 4096
    let es := (lookup s.ctlbs cl).getD []
    ({ s with ctlbs := insertKey s.ctlbs cl (es.filter fun e => !i.kind.hits i.dom e) },
      s.usersOf i (fun c => clusterOf c == cl) es)
  else if u < 16384 then
    let mine (x : Xfer) : Bool := x.dom == i.dom && i.kind.hitsSpace x.asn
    (s.modCore (u - 8192) fun k => { k with eng := { k.eng with cur := k.eng.cur.map fun x => if mine x then x.forget else x } }, [])
  else (s.modDom i.dom fun v => { v with walk := v.walk.filter fun w => !i.kind.hitsWalk w }, [])

/-- XLINV_RECEIPT (R240): a recipient receives an invalidation; a copy engine once it has finished its page in progress
(R293). -/
def execXlinvReceipt (inv u : Nat) (s : State) : Out :=
  .next (match s.invals.find? fun i => i.id == inv && i.todo.contains u with
    | none => s
    | some i =>
      if 8192 ≤ u ∧ u < 16384 ∧ s.engineBusy i (u - 8192) then s
      else
      let r := s.invalAt i u
      { r.1 with invals := r.1.invals.map fun x =>
          if x.id == inv then { x with todo := x.todo.erase u, acks := x.acks ++ [(u, r.2)] } else x })

/-- XLINV_ACK_ARRIVAL (R240): a recipient's acknowledgement reaches the issuing core. -/
def execXlinvAckArrival (inv u : Nat) (s : State) : Out :=
  .next (match s.invals.find? fun i => i.id == inv with
    | none => s
    | some i =>
      match i.acks.find? fun a => a.1 == u with
      | none => s
      | some a =>
        if !a.2.all s.acked then s
        else
          let i' := { i with acks := i.acks.erase a }
          if i'.todo.isEmpty && i'.acks.isEmpty then { s with invals := s.invals.filter fun x => x.id != inv }
          else { s with invals := s.invals.map fun x => if x.id == inv then i' else x })

/-- TLB_ENTRY_DROP (R239): kind 0 a core's TLB, 1 a cluster's, 2 the walker caches of a domain drop entry `idx`. -/
def execTlbEntryDrop (kind u idx : Nat) (s : State) : Out :=
  .next (match kind with
    | 0 => if u < Config.cores then s.modCore u fun k => { k with tlb := k.tlb.eraseIdx idx } else s
    | 1 => if 640 ≤ u then s else { s with ctlbs := insertKey s.ctlbs u (((lookup s.ctlbs u).getD []).eraseIdx idx) }
    | _ => if u ≤ Config.firmwareDomain then s.modDom u fun v => { v with walk := v.walk.eraseIdx idx } else s)

/-! ### Bias flips (R310, R311, R396) -/

/-- Set the bias code of a page. -/
def State.setBias (s : State) (d pa : Nat) (code : BitVec 2) : State :=
  s.modDom d fun v =>
    let a := v.bias + pa / 4096 / 4
    let sh := 2 * (pa / 4096 % 4)
    { v with mem := Memory.set v.mem a ((Memory.get v.mem a &&& ~~~(3#8 <<< sh)) ||| (code.setWidth 8 <<< sh)) }

/-- The lines of a page. -/
def pageLines (pa : Nat) : List Nat := (List.range 32).map fun i => pa / 4096 * 32 + i
/-- A line lies in a page. -/
def inPage (pa line : Nat) : Bool := line / 32 == pa / 4096

/-- Run `k` on the page of X[A], which must be a page of the partition's memory (R311). -/
def State.flipPage (s : State) (a : BitVec 6) (k : State → Nat → State) : State :=
  s.needLevel 2 fun s =>
    let w := s.rx a
    if w.toNat % 4096 ≠ 0 then s.takeTrap .alignment w 0
    else if 16 ≤ s.cur.dom ∨ s.curDom.bytes < w.toNat + 4096 then s.protTrap w
    else k s w.toNat

/-- The flip begins: the page is FLIPPING, and its TLB entries are invalidated. -/
def State.beginFlip (s : State) (pa : Nat) : State :=
  let s1 := (s.setBias s.cur.dom pa 2).sendInval (.page pa)
  s1.loseWith ⟨1, [s.nextId], 0⟩

/-- Every core writes back the page's dirty lines, a drain where there are any, and drops its lines of the page, and no load of
the page under way allocates (R396). Gives the page's write-backs that are then on their way. -/
def State.flushPage (s : State) (d pa : Nat) : State × List Nat :=
  let s := (s.net.map (·.agent)).eraseDups.foldl (fun s a => s.spoilFills a fun d' l => d' == d && inPage pa l) s
  let s := s.caches.foldl (fun (s : State) e =>
    let mine (l : L1Line) : Bool := l.dom == d && inPage pa l.line
    if e.2.lines.any mine then
      let r := s.writeBackAll e.1 mine
      let s := if r.2 = 0 then r.1 else r.1.countDrain e.1 r.2
      s.modCache e.1 fun k => { k with lines := k.lines.filter fun l => !mine l }
    else s) s
  (s, (s.net.filter fun m => m.kind == .writeBack && m.dom == d && inPage pa (lineOf m.pa)).map (·.id))

/-- The releasers of the undrained records on a page are drained; none when every record is drained (R266, R311). -/
def State.drainPage (s : State) (d pa : Nat) : Option State :=
  let open_ := (pageLines pa).filterMap fun l => ((s.dom d).recAt (l * 128)).bind fun r =>
    if r.st = 1 ∨ r.st = 2 then some (l, r) else none
  if open_.isEmpty then none else some (open_.foldl (fun s e => s.unitDrain d (e.1 * 128) e.2) s)

/-- The page's records and replicas go, and its L2 lines to their LLC slices (R311, R396). -/
def Dom.dropPage (v : Dom) (pa : Nat) : Dom :=
  (v.l2.filter (inPage pa)).foldl Dom.dropL2
    { v with
      recs := v.recs.filter fun e => !inPage pa e.1
      replicas := v.replicas.filter fun r => !inPage pa r.1 }

/-- The flip ends: the bias is set, P[PD] := 1, and the held requests are served in arrival order, each core access by its own
step (R311). -/
def State.endFlip (s : State) (pa : Nat) (code : BitVec 2) (pd : BitVec 3) : State :=
  ((s.setBias s.cur.dom pa code).wp pd true).pumpBlock s.cur.dom (lineOf pa)

/-- BFLIP.HOST once the TLBs have acknowledged: the flush, then the drains, then the end. -/
def State.flipToHost (s : State) (pa : Nat) (pd : BitVec 3) (p : Prog) : State :=
  let d := s.cur.dom
  if p.stage = 1 then
    let r := s.flushPage d pa
    r.1.loseWith ⟨2, r.2, 0⟩
  else if !p.ids.all s.acked then s.loseTurn
  else
    match s.drainPage d pa with
    | some s => s.loseTurn
    | none => (s.modDom d fun v => v.dropPage pa).endFlip pa 1 pd

/-- Invalidations go out for every line of a list for which an entry names an outside agent, split from larger entries first;
or a recall is under way to make room for a split (R304, R307, R396). -/
def Dom.flipInvals (v : Dom) : List Nat → Except Dom Dom
  | [] => .ok v
  | l :: rest =>
    let out := ((v.entryOf l).map fun e => (e.agents v.agentSet).filter fun a => a != 0).getD []
    if out = [] then v.flipInvals rest
    else
      match v.splitFor l with
      | .error v' => .error v'
      | .ok v' => (v'.sendInvals l out .flip).flipInvals rest

/-- BFLIP.DEV once the TLBs have acknowledged: every line of the page that an entry names an external agent for is
invalidated there and its bytes collected; then no entry names one (R311, R396), and the page's replicas go (R246). -/
def State.flipToDev (s : State) (pa : Nat) (pd : BitVec 3) (_ : Prog) : State :=
  let d := s.cur.dom
  let v := s.dom d
  let waits (v : Dom) : Bool := v.pend.any fun q => inPage pa q.line
  if waits v then s.loseTurn
  else
    match v.flipInvals (pageLines pa) with
    | .error v' => (s.setDom d v').loseTurn
    | .ok v' =>
      if waits v' then (s.setDom d v').loseTurn
      else (s.setDom d { v with replicas := v.replicas.filter fun r => !inPage pa r.1 }).endFlip pa 0 pd

/-- A flip of a page to a bias (R311): one at a time per page; it is a release at system scope, held until the thread's
earlier ones have been acknowledged. -/
def State.bflip (s : State) (a : BitVec 6) (pd : BitVec 3) (code : BitVec 2)
    (go : State → Nat → BitVec 3 → Prog → State) : State :=
  s.flipPage a fun s pa =>
    match s.cur.prog with
    | some p =>
      if p.stage = 1 ∧ s.invals.any (fun i => p.ids.contains i.id) then s.loseTurn else go s pa pd p
    | none =>
      let b := s.biasAt s.cur.dom pa
      if b = 2#2 then s.loseTurn
      else if b = code then s.wp pd false
      else if s.curOutstanding ≠ [] then s.loseTurn
      else s.beginFlip pa

/-- BFLIP.HOST (R311). -/
def execBflipHost (a : BitVec 6) (pd : BitVec 3) (s : State) : Out := .next (s.bflip a pd 1 State.flipToHost)
/-- BFLIP.DEV (R311). -/
def execBflipDev (a : BitVec 6) (pd : BitVec 3) (s : State) : Out := .next (s.bflip a pd 0 State.flipToDev)
/-- BFLIP.RD (R311). -/
def execBflipRd (d a : BitVec 6) (s : State) : Out :=
  .next (s.flipPage a fun s pa => s.wx d ((s.biasAt s.cur.dom pa).setWidth 64))

end Sys2Proof.Machine
end

