-- ==== Sys2Proof/Machine/Firmware.lean ====
section
/-! DEFINITION. Instructions of partition and device firmware: model keys, the energy account, Gauge counters, the scope
table and partitions, with the event of an interval's end (R355 to R366, R376 to R382). -/
namespace Sys2Proof.Machine

/-! ### Model keys (R366) -/

/-- Slot and staging numbers of KEYLD. -/
def keySlotOf (w : Word) : Nat := w.toNat % 16
def stagingOf (w : Word) : Nat := w.toNat / 256 % 16

/-- KEYLD.INST (R366): TAGBASE comes from X[D]. -/
def execKeyldInst (d a b : BitVec 6) (pd : BitVec 3) (s : State) : Out :=
  .next (s.needLevel 2 fun s =>
    let v := s.curDom
    let k := keySlotOf (s.rx a)
    let j := stagingOf (s.rx a)
    let pbase := (s.rx b).toNat
    let tag := (s.rx d).toNat
    match lookup v.keys k, lookup v.staging j with
    | none, some e =>
      if pbase % 4096 ≠ 0 ∨ tag % 4096 ≠ 0 ∨ v.bytes < pbase + 4096 * e.nchunk ∨ v.bytes < tag + 16 * e.nchunk then s.wp pd false
      else
        (s.modDom s.cur.dom fun v =>
          { v with keys := insertKey v.keys k ⟨e.key, e.kid, e.meas, pbase, e.nchunk, tag⟩,
                   staging := eraseKey v.staging j }).wp pd true
    | _, _ => s.wp pd false)

/-- KEYLD.CLR (R366). -/
def execKeyldClr (a : BitVec 6) (pd : BitVec 3) (s : State) : Out :=
  .next (s.needLevel 2 fun s =>
    (s.modDom s.cur.dom fun v => { v with keys := eraseKey v.keys (keySlotOf (s.rx a)) }).wp pd true)

/-- KEYLD.STAT (R366). -/
def execKeyldStat (d a : BitVec 6) (pd : BitVec 3) (s : State) : Out :=
  .next (s.needLevel 2 fun s =>
    match lookup s.curDom.keys (keySlotOf (s.rx a)) with
    | some e => (s.wx d (BitVec.ofNat 64 (2 * (e.nchunk % 2 ^ 32) + 1))).wp pd true
    | none => (s.wx d 0).wp pd false)

/-! ### Energy (R376, R378, R380) -/

/-- ENERGY.RD (R380): the account as it stood at the last interval end. -/
def execEnergyRd (d a : BitVec 6) (pd : BitVec 3) (s : State) : Out :=
  let e := s.curDom.acct
  let f := (s.rx a).toNat
  let v : Word := match f with
    | 0 => BitVec.ofInt 64 (e.snapB.fdiv 1000)
    | 1 => BitVec.ofNat 64 e.rate
    | 2 => BitVec.ofNat 64 e.cap
    | 3 => BitVec.ofNat 64 e.snapStage
    | 4 => BitVec.ofNat 64 (e.snapUsed / 1000)
    | _ => 0
  .next ((s.wx d v).wp pd (f ≤ 4))

/-- RATE summed over the other partitions. -/
def State.otherRates (s : State) (d : Nat) : Nat :=
  s.doms.foldl (fun n e => if e.1 < 16 ∧ e.1 ≠ d then n + e.2.acct.rate else n) 0

/-- ENERGY.SET (R380): the field is set at the next interval end. -/
def execEnergySet (a b : BitVec 6) (pd : BitVec 3) (s : State) : Out :=
  .next (s.needLevel 2 fun s =>
    let f := (s.rx a).toNat
    let x := (s.rx b).toNat
    if 2 < f ∨ (f = 1 ∧ 3000 < x + s.otherRates s.cur.dom) ∨ (f = 2 ∧ 2 ^ 40 < x) then s.wp pd false
    else (s.modDom s.cur.dom fun v => { v with acct := { v.acct with sets := v.acct.sets ++ [(f, x)] } }).wp pd true)

/-- Apply a requested change (R380). -/
def Account.set (e : Account) : Nat × Nat → Account
  | (0, x) => { e with b := (min x e.cap * 1000 : Nat) }
  | (1, x) => { e with rate := x }
  | (_, x) => { e with cap := x, b := min e.b (x * 1000 : Nat) }

/-- STAGE after an interval (R378). -/
def Account.restage (e : Account) : Account :=
  { e with stage := if e.b ≤ 0 then min (e.stage + 1) 4
      else if (e.cap * 1000 : Nat) ≤ 16 * e.b then e.stage - 1 else e.stage }

/-- Charge a launch: its reservation first, then the account (R376). -/
def State.charge (s : State) (d : Nat) (c : Nat × Nat) : State :=
  match lookup (s.dom d).launches c.1 with
  | none => s
  | some l =>
    let held := min (max l.energyRes 0) c.2
    let s := s.modLaunch d c.1 fun l => { l with energyRes := l.energyRes - held, energyTot := l.energyTot + c.2 }
    s.modDom d fun v => { v with acct := { v.acct with b := v.acct.b - (c.2 - held), used := v.acct.used + c.2 } }

/-- ENERGY_INTERVAL_END (R376): every 1,200 cycles the launches' measured energy and the partition's own are charged in
microjoules, B is refilled and the stage set; the changes that ENERGY.SET asked for follow (log 25). -/
def execEnergyIntervalEnd (d : Nat) (charges : List (Nat × Nat)) (own : Nat) (s : State) : Out :=
  let v := s.dom d
  .next (if v.st ≠ .running ∨ s.cycle < v.acct.next then s
    else
      let s := charges.foldl (fun s c => s.charge d c) s
      s.modDom d fun v =>
        let e := { v.acct with b := v.acct.b - own, used := v.acct.used + own }
        let e := { e with b := max (min (e.b + e.rate) (e.cap * 1000 : Nat)) (-(2 ^ 62)) }
        let e := e.sets.foldl Account.set { e.restage with sets := [] }
        { v with acct := { e with snapB := e.b, snapStage := e.stage, snapUsed := e.used, next := e.next + 1200 } })

/-! ### Gauge counters (R381, R382) -/

/-- The unit of a counter: what a partition must own to read it (R381, R382). -/
inductive GaugeUnit where
  | any | core (c : Nat) | slice (n : Nat) | llc (n : Nat) | stack (n : Nat) | part (n : Nat) | none
  deriving DecidableEq, Repr

/-- The unit that a counter index names (R381). -/
def gaugeUnit (cls kind inst : Nat) : GaugeUnit :=
  let unit (k : Nat) : GaugeUnit := match k with
    | 0 => if inst < 3840 then .core inst else .none
    | 1 => if inst < 640 then .slice inst else .none
    | 2 => if inst < 64 then .llc inst else .none
    | 3 => if inst < 16 then .stack inst else .none
    | _ => .none
  match cls with
  | 1 => if kind = 0 ∧ inst < 96 then .any else .none
  | 2 => if kind = 0 ∧ inst < 6 then .any else .none
  | 3 => unit kind
  | 4 => unit kind
  | 5 => if kind = 0 then unit 0 else .none
  | 6 => if kind ≤ 1 then unit 1 else .none
  | 7 => if kind = 0 ∧ inst < 16 then .part inst else .none
  | 8 => match kind with
    | 0 => unit 0
    | 1 => unit 2
    | 2 => if inst < 16 then .part inst else .none
    | 3 => unit 2
    | _ => .none
  | _ => .none

/-- A partition may see a counter (R382). -/
def State.maySee (s : State) (d : Nat) : GaugeUnit → Bool
  | .any => true
  | .core c => (s.core c).part == some d
  | .slice n => (s.dom d).groups.getLsbD (n / 160 * 10 + n % 160 / 16)
  | .llc n => (s.dom d).llcs.getLsbD n
  | .stack n => d < 16 && (s.dom d).stks.getLsbD n
  | .part n => n == d
  | .none => false

/-- A Gauge counter. -/
def State.gaugeAt (s : State) (i : Nat) : Word := (lookup s.gauge i).getD 0

/-- GAUGE (R382). -/
def execGauge (d a : BitVec 6) (pd : BitVec 3) (s : State) : Out :=
  .next (s.needLevel 2 fun s =>
    let i := (s.rx a).toNat
    if i < 2 ^ 24 ∧ s.maySee s.cur.dom (gaugeUnit (i / 65536) (i / 4096 % 16) (i % 4096)) then
      (s.wx d (s.gaugeAt i)).wp pd true
    else (s.wx d 0).wp pd false)

/-! ### The scope table (R360) -/

/-- SCOPT (R360). -/
def execScopt (d a b : BitVec 6) (pd : BitVec 3) (s : State) : Out :=
  .next (s.needLevel 2 fun s =>
    let n := (s.rx a).toNat
    if n = 0 ∨ 3 < n then (s.wx d 0).wp pd false
    else
      match (s.curDom.scopeEntry n)[(s.rx b).toNat]? with
      | some w => (s.wx d (BitVec.ofNat 64 w)).wp pd true
      | none => (s.wx d 0).wp pd false)

/-- SCOPT.CNT (R360). -/
def execScoptCnt (d a : BitVec 6) (s : State) : Out :=
  .next (s.needLevel 2 fun s =>
    let n := (s.rx a).toNat
    s.wx d (BitVec.ofNat 64 (if n = 0 ∨ 3 < n then 0 else (s.curDom.scopeEntry n).length)))

/-! ### Partitions (R355 to R359) -/

/-- The words of a partition descriptor (R356). -/
def descWord (b : List Byte) (i : Nat) : Nat := bytesToNat ((b.drop (8 * i)).take 8)

/-- A reserved bit of the descriptor is set (R356). -/
def descReserved (b : List Byte) : Bool :=
  let big (i n : Nat) : Bool := 2 ^ n ≤ descWord b i
  let addr (i low : Nat) : Bool := big i 52 || descWord b i % 2 ^ low != 0
  big 0 4 || big 1 40 || big 3 16 || big 6 25 || addr 7 12 || big 8 17 || addr 9 6 || addr 10 12 || addr 11 12 ||
    addr 12 6 || big 13 16 || descWord b 14 != 0 || descWord b 15 != 0

/-- The partition a descriptor describes, with what its stacks now hold (R356, R372; log 7). -/
def descDom (b : List Byte) (mem : List Host.Cell) : Dom :=
  let st := BitVec.ofNat 16 (descWord b 3)
  let owned := onesAt st
  let here (e : Host.Cell) : Option Host.Cell :=
    (owned.findIdx? fun k => k == e.1 / Config.stackBytes).map fun i => (i * Config.stackBytes + e.1 % Config.stackBytes, e.2)
  { Dom.blank (descWord b 0) with
    groups := BitVec.ofNat 40 (descWord b 1), llcs := BitVec.ofNat 64 (descWord b 2), stks := st,
    hostSlot := BitVec.ofNat 64 (descWord b 4), fabSlot := BitVec.ofNat 64 (descWord b 5), quantum := descWord b 6,
    ctxt := descWord b 7, nctx := descWord b 8, lqt := descWord b 9, bias := descWord b 10, scope := descWord b 11,
    supImg := descWord b 12, supAsn := descWord b 13, desc := b, mem := mem.filterMap here }

/-- Two partitions name a unit or a wheel slot in common. -/
def Dom.overlaps (v w : Dom) : Bool :=
  v.groups &&& w.groups != 0 || v.llcs &&& w.llcs != 0 || v.stks &&& w.stks != 0 || v.hostSlot &&& w.hostSlot != 0 ||
    v.fabSlot &&& w.fabSlot != 0

/-- The scope table as it stands in memory: three counts, then the words of the entries in turn (log 8). -/
def Dom.readScopes (v : Dom) : List (List Nat) :=
  let n (i : Nat) : Nat := min (Memory.read v.mem (v.scope + 8 * i) 8) 16384
  let entry (start k : Nat) : List Nat := (List.range k).map fun j => Memory.read v.mem (v.scope + 32 + 8 * (start + j)) 8
  [entry 0 (n 0), entry (n 0) (n 1), entry (n 0 + n 1) (n 2)]

/-- Every word has its reserved bits zero, and each entry includes the one before it (R255, R360). -/
def scopesFormed (t : List (List Nat)) : Bool :=
  let e (i : Nat) : List Nat := t.getD i []
  (t.all fun l => l.all fun w => w % 1024 + w / 65536 % 16 * 65536 == w) && ((e 0).all fun w => (e 1).contains w) &&
    (e 1).all fun w => (e 2).contains w

/-- The tables lie in the partition's stacks, and Q and NCTX are in range (R356, R358). -/
def Dom.tablesOk (v : Dom) : Bool :=
  let n := (v.readScopes.map fun l => l.length).foldl (· + ·) 0
  v.ctxt + 32 * v.nctx ≤ v.bytes && v.lqt + 512 ≤ v.bytes && v.bias + v.bytes / 4096 / 4 ≤ v.bytes &&
    v.scope + 32 + 8 * n ≤ v.bytes && decide (4096 ≤ v.quantum ∧ v.quantum ≤ 2 ^ 24 ∧ 1 ≤ v.nctx ∧ v.nctx ≤ 65536)

/-- The entries of a scope table that name a partition of this device must be announced back by it; what another device
announces no rule of this device gives: a free value (log 8). -/
def State.scopesSymmetric (s : State) (v : Dom) (p : Nat) : Bool :=
  (List.range 3).all fun i => (v.scopes.getD i []).all fun w =>
    if w % 1024 = s.fabric then
      ((s.dom (w / 65536)).scopes.getD i []).contains (s.fabric + 65536 * p)
    else s.freeWord.getLsbD 0

/-- The first failing check of a descriptor, or the partition it makes (R358). -/
def State.checkDesc (s : State) (b : List Byte) : Except Nat Dom :=
  let p := descWord b 0
  let v := descDom b (s.dom Config.firmwareDomain).mem
  let v := { v with scopes := v.readScopes }
  let cw := v.context v.supAsn
  if descReserved b ∨ (s.dom p).st ≠ .none then .error 1
  else if s.doms.any fun e => e.1 < 16 && e.2.st != .none && v.overlaps e.2 then .error 2
  else if v.groups = 0 ∨ v.llcs = 0 ∨ v.stks = 0 then .error 3
  else if !v.tablesOk || v.nctx ≤ v.supAsn || !ctxValid cw || ctxReserved cw then .error 4
  else
    match (s.setDom p v).readImage p v.supAsn (ctxRoot cw) (BitVec.ofNat 64 v.supImg) with
    | .wait _ => .error 5
    | .bad _ => .error 5
    | .bytes _ img =>
      match parseMbaed img 0 false with
      | .error _ => .error 5
      | .ok m =>
        match m.entries.getD 0 none with
        | none => .error 5
        | some e =>
          if !scopesFormed v.scopes || !s.scopesSymmetric v p then .error 6
          else
            .ok { v with supRoot := ctxRoot cw, supPc := BitVec.ofNat 64 (v.supImg + e), supDigest := m.digest }

/-- An L1 data cache with only its counters, which count since device reset (R261, R272), and lines of device firmware. -/
def Cache.wiped (k : Cache) : Cache :=
  { k with lines := k.lines.filter fun l => l.dom == Config.firmwareDomain, fold := none }

/-- Nothing of a domain is left in the units of the device. Threads of device firmware keep their slots (log 7). -/
def State.clearDom (s : State) (d : Nat) (v : Dom) (part : Option Nat) : State :=
  let cs := v.coreList
  let s := cs.foldl (fun s c => s.setCore c { Core.idle c (s.core c).cyc with
    part := part, slots := (s.core c).slots.filter fun e => e.2.dom == Config.firmwareDomain }) s
  { s with
    caches := s.caches.map fun e => (e.1, if cs.contains (agentCore e.1) then e.2.wiped else e.2)
    ctlbs := s.ctlbs.map fun e => (e.1, e.2.filter fun t => t.dom != d)
    net := s.net.filter fun m => m.dom != d
    invals := s.invals.filter fun i => i.dom != d }

/-- Device firmware sees zeros in the stacks of a partition: they have been overwritten (R358 step 4, log 7). -/
def Dom.zeroStacks (f : Dom) (stks : BitVec 16) : Dom :=
  let mine (pa : Nat) : Bool := stks.getLsbD (pa / Config.stackBytes)
  { f with mem := f.mem.filter fun e => !mine e.1, poison := f.poison.filter fun w => !mine (8 * w) }

/-- Eight free words: what the random-bit generator draws for a key (R358, log 5). -/
def State.freeKey (s : State) : BitVec 512 :=
  (List.range 8).foldl (fun k j => (k <<< 64) ||| (Config.freeWord (s.fresh + j)).setWidth 512) 0

/-- The security processor starts a partition (R358): a fresh key is drawn, its key slots are EMPTY, its units and its stacks
zero, every page is DEVICE, and the supervisors start on every core (R339). No state between is observed (log 26). -/
def State.startPartition (s : State) (p : Nat) (v : Dom) : State :=
  let s := s.clearDom p v (some p)
  let v := { v with st := .running, mem := [], acct := { Account.zero with next := s.cycle + 1200 }, xts := s.freeKey }
  let s := ({ s with fresh := s.fresh + 8 }.modDom Config.firmwareDomain fun f => f.zeroStacks v.stks).setDom p v
  v.coreList.foldl (fun s c => s.startSupervisor c p [0, 0, 0, 0]) s

/-- What a stack holds of a line: its 128 bytes under the partition's key, with PA[51:7] as the tweak (R362). The home reads and
writes the plaintext that the memory controller's decryption gives back (log 6). -/
noncomputable def Dom.stackLine (v : Dom) (line : Nat) : BitVec 1024 :=
  Config.xtsEncrypt v.xts (BitVec.ofNat 128 line) (BitVec.ofNat 1024 (Memory.read v.mem (128 * line) 128))

/-- PARTCTL.CREATE (R358): the descriptor is read at a physical address of the device. -/
def execPartctlCreate (d a : BitVec 6) (pd : BitVec 3) (s : State) : Out :=
  .next (s.needLevel 3 fun s =>
    let w := s.rx a
    let f := s.dom Config.firmwareDomain
    if w.toNat % 64 ≠ 0 then s.takeTrap .alignment w 0
    else if f.bytes < w.toNat + 128 ∨ f.poisoned w.toNat 128 then s.takeTrap .poison w 0
    else
      let b := Memory.bytes f.mem w.toNat 128
      let r := s.checkDesc b
      match r with
      | .error n => (s.useFree.wx d (BitVec.ofNat 64 n)).wp pd false
      | .ok v => ((s.useFree.startPartition (descWord b 0) v).wx d 0).wp pd true)

/-- A launch ends as R350 ends one without a checkpoint (R359). -/
def State.endLaunch (s : State) (d : Nat) (l : Launch) : State :=
  ((s.stopContext d l).releaseLaunch d l).writeRecord d l.crecPa 4 0 l.serial l.startAt s.cycle (l.energyTot / 1000)

/-- PARTCTL.DESTROY (R359): its launches end, its supervisors stop, its keys and its memory are gone, its units are zero
and free. No state between is observed (log 26). -/
def execPartctlDestroy (a : BitVec 6) (pd : BitVec 3) (s : State) : Out :=
  .next (s.needLevel 3 fun s =>
    let p := (s.rx a).toNat % 16
    let v := s.dom p
    if v.st ≠ .running then s.wp pd false
    else
      let s := v.launches.foldl (fun s e => s.endLaunch p e.2) s
      ((s.clearDom p v none).setDom p (Dom.blank p)).wp pd true)

/-- PARTCTL.STAT (R359). -/
def execPartctlStat (d a : BitVec 6) (s : State) : Out :=
  .next (s.needLevel 3 fun s =>
    s.wx d (match (s.dom ((s.rx a).toNat % 16)).st with
      | .none => 0
      | .creating => 1
      | .running => 2
      | .destroying => 3))

end Sys2Proof.Machine
end

