-- ==== Sys2Proof/Machine/Device.lean ====
section
/-! DEFINITION. The device around its partitions: window 0 and the management rings, link ports and unreachable peers,
reset and bring-up, Gauge events, soft errors, SPDM and key delivery (R348, R349, R367 to R374, R381 to R383).

Kinds of an answer here: 6 a read of window 0, 7 a Gauge counter over MCTP, 8 an SPDM answer, 9 a key delivery. -/
namespace Sys2Proof.Machine

/-! ### Window 0 (R370, R371) -/

def State.ring (s : State) (fn : Nat) : MRing := (lookup s.rings fn).getD ⟨[], 0, 0⟩

/-- STAT of a function (R371). -/
def State.statWord (s : State) (fn : Nat) : Word :=
  BitVec.ofNat 64 (s.bootStep + (if s.ready then 16 else 0) + s.bootErr.toNat * 256 + (if fn = 0 then 0 else (fn - 1) * 65536))

/-- The 8-byte word of window 0 at an aligned offset: STAT, the ring's slots, its indices, zero elsewhere (R371). -/
def State.windowWord (s : State) (fn o : Nat) : Word :=
  let r := s.ring fn
  if o = 0 then s.statWord fn
  else if 0x1000 ≤ o ∧ o < 0x1400 then (lookup r.slots ((o - 0x1000) / 8)).getD 0
  else if o = 0x1400 then r.wi
  else if o = 0x1408 then r.ri
  else 0

/-- `v` with bytes `k` to `k + n − 1` taken from `x`. -/
def spliceWord (v x : Word) (k n : Nat) : Word :=
  let m := BitVec.ofNat 64 ((2 ^ (8 * n) - 1) * 2 ^ (8 * k))
  (v &&& ~~~m) ||| ((x <<< (8 * k)) &&& m)

/-- Byte `o` of window 0. -/
def State.windowByte (s : State) (fn o : Nat) : Byte := (s.windowWord fn (o / 8 * 8) >>> (8 * (o % 8))).setWidth 8

/-- A write of one byte to window 0: the ring and its write index take it, every other offset discards it (R371; log 27). -/
def State.windowPut (s : State) (fn o : Nat) (x : Byte) : State :=
  let w := o / 8 * 8
  let v := spliceWord (s.windowWord fn w) (x.setWidth 64) (o % 8) 1
  let r := s.ring fn
  if 0x1000 ≤ w ∧ w < 0x1400 then
    { s with rings := insertKey s.rings fn { r with slots := insertKey r.slots ((w - 0x1000) / 8) v } }
  else if w = 0x1400 then { s with rings := insertKey s.rings fn { r with wi := v } }
  else s

/-- A write of `n` bytes to window 0 (R371). -/
def State.windowWrite (s : State) (fn o n : Nat) (x : BitVec 1024) : State :=
  (List.range n).foldl (fun s i => s.windowPut fn (o + i) ((x >>> (8 * i)).setWidth 8)) s

/-- WINDOW0_ACCESS (R370, R371): a host access of up to 128 bytes at any offset; a virtual function is there while its
partition is RUNNING. -/
def execWindow0Access (fn off : Nat) (write : Bool) (size : Nat) (data : BitVec 1024) (s : State) : Out :=
  .next (if 128 < size then s
    else if 16 < fn ∨ (fn ≠ 0 ∧ (s.dom (fn - 1)).st ≠ .running) ∨ 0x4000000 < off + size then s.answerRefused off size
    else if write then s.windowWrite fn off size data
    else s.answer ⟨6, off, size, BitVec.ofNat 1024 (bytesToNat ((List.range size).map fun i => s.windowByte fn (off + i)))⟩)

/-- MRING_REQUEST (R313, R371): the next request of a ring is served: it asks firmware to bind a launch queue, by entering
the header's physical address in the launch-queue table and writing BIND. Only the security processor binds at level 3
(R361). -/
def execMringRequest (fn queue header : Nat) (prio : BitVec 3) (lvl : BitVec 2) (s : State) : Out :=
  let r := s.ring fn
  let d := fn - 1
  let v := s.dom d
  .next (if r.ri = r.wi then s
    else
      let served (s : State) : State := { s with rings := insertKey s.rings fn { r with ri := r.ri + 1 } }
      if fn = 0 ∨ 16 < fn ∨ v.st ≠ .running ∨ 64 ≤ queue ∨ header % 64 ≠ 0 ∨ v.bytes < header + 64 ∨ v.bytes < v.lqt + 512 ∨
          lvl = 3#2 then served s
      else
        let bind := 0x1FFF + 2 ^ 16 * prio.toNat + 2 ^ 20 * lvl.toNat + 2 ^ 31
        s.gateLines d true [(header + 24, 8), (v.lqt + 8 * queue, 8)] fun s =>
          served ((s.homeStore d 0 (header + 24) 8 bind).homeStore d 0 (v.lqt + 8 * queue) 8 header))

/-! ### Links (R373, R374) -/

/-- FLIT_REPLAY (R373): a flit whose CRC failed is replayed; a port that fails 16 times in a row is taken down. -/
def execFlitReplay (port : Nat) (ok : Bool) (s : State) : Out :=
  let n := if ok then 0 else (lookup s.retries port).getD 0 + 1
  .next (if 32 ≤ port then s
    else { s with
      retries := insertKey s.retries port n
      portsDown := if 16 ≤ n then addNew s.portsDown port else s.portsDown })

/-- The completion of a request that no route carries to its peer: poison for a load or atomic, a store discarded
(R374). -/
def State.unreachable (s : State) (m : Msg) : State :=
  match m.kind with
  | .load _ keep _ => s.reply { m with kind := .load false keep false, data := 0, pmask := 0xFFFF#16 }
  | .store => if m.wait then s.reply m else s.dropMsg m.id
  | .writeBack => s.dropMsg m.id
  | .release => s.reply m
  | .counter true => (s.subWork m.dom m.launch).reply m
  | .counter false =>
    let s := s.dropMsg m.id
    if (s.thread? m.core m.slot).any fun t => t.gen == m.gen then s.raiseLate m.core m.slot .poison false 0 m.pc m.va 0 else s
  | .drain _ _ _ => s
  | .steal _ _ _ => s
  | _ => s.reply { m with poisoned := true }

/-- PEER_UNREACHABLE (R374): 2^20 cycles after it left. -/
def execPeerUnreachable (id : Nat) (s : State) : Out :=
  .next (match s.findMsg id with
    | none => s
    | some m =>
      let away : Bool := match m.kind with
        | .drain _ _ _ => false
        | .steal _ _ _ => false
        | _ => decide (m.dom < bankDom 0) && !s.present m
      if away ∧ (m.st = .sent ∨ m.st = .combined) ∧ m.sentAt + 2 ^ 20 ≤ s.cycle then s.countPeer.unreachable m else s)

/-! ### Reset, bring-up and power (R367, R381, R383) -/

/-- The machine at the start of bring-up, with what reset does not reach: the Gauge's saved copy, and what belongs to the
model alone. -/
def State.restart (s : State) : State :=
  { State.reset with fresh := s.fresh, nextId := s.nextId, gaugeNv := s.gaugeNv, answers := s.answers, agenda := s.agenda }

/-- Device firmware starts (R361, R383): the launch queue at LVL 3 is bound, and a thread of level 3 begins in a user slot. Where
the queue's header, the thread's core and slot, its entry and its address space are, the spec does not state: free values
(log 28). -/
def State.startFirmware (s : State) : State :=
  let w (j : Nat) : Word := Config.freeWord (s.fresh + j)
  let ctx : Thread := { Thread.blank with
    dom := Config.firmwareDomain, lvl := 3, asn := (w 3).toNat % 2 ^ 16, root := ((w 4).extractLsb' 11 41).toNat * 2048 }
  { s with fresh := s.fresh + 5, fwQueue := some (w 0) }.startThread ((w 1).toNat % Config.cores) ((w 1).toNat / Config.cores % 14)
    ctx (w 2) id

/-- A bring-up step succeeds (R383). Steps 1 and 2 measure the firmware of the security processor and of the device as
`measured` gives it (R367). -/
def State.bootStepDone (s : State) (measured : BitVec 512) : State :=
  match s.bootStep with
  | 1 => { s with spDigest := measured, bootStep := 2 }
  | 2 => { s with identity := Config.identityKey s.spDigest, fwDigest := measured, bootStep := 3 }
  | 5 => { s.useFree with fabric := s.freeWord.toNat % 1024, bootStep := 6 }
  | 6 => { s.startFirmware with bootStep := 7 }
  | 7 => { s with gauge := s.gaugeNv, ready := true }
  | n => { s with bootStep := n + 1 }

/-- DEVICE_RESET (R383): a reset, or the end of a bring-up step, whose result is an error code, zero for none, and what it
measured. A failed step stays reported. -/
def execDeviceReset (start : Bool) (result : BitVec 8 × BitVec 512) (s : State) : Out :=
  .next (if start then s.restart
    else if s.ready ∨ s.bootErr ≠ 0 then s
    else if result.1 ≠ 0 then { s with bootErr := result.1 }
    else s.bootStepDone result.2)

/-- GAUGE_SAVE (R381). -/
def execGaugeSave (s : State) : Out := .next { s with gaugeNv := s.gauge }
/-- LOSS_OF_POWER (R381): what was not saved is lost. -/
def execLossOfPower (s : State) : Out := .next s.restart
/-- SUPPLY_DROOP (R381). -/
def execSupplyDroop (die : Nat) (s : State) : Out := .next (if die < 6 then s.count 2 0 die else s)
/-- TEMPERATURE_SECOND (R381): the bin of each die in turn advances. -/
def execTemperatureSecond (bins : List Nat) (s : State) : Out :=
  .next ((List.range (min bins.length 6)).foldl (fun s i => s.count 1 0 (16 * i + bins.getD i 0 % 16)) s)
/-- GAUGE_MCTP_READ (R382). -/
def execGaugeMctpRead (idx : BitVec 24) (s : State) : Out :=
  .next (s.answer ⟨7, idx.toNat, 8, (s.gaugeAt idx.toNat).setWidth 1024⟩)

/-! ### Soft errors (R348, R349) -/

/-- CORRECTABLE_ERROR (R348): corrected in its access, and counted per structure. A unit that does not exist has none. -/
def execCorrectableError (kind inst : Nat) (s : State) : Out :=
  .next (if gaugeUnit 3 kind inst = .none then s else s.count 3 kind inst)

/-- The memory stack of a byte of a domain, device-wide (R245). -/
def Dom.stackOf (v : Dom) (pa : Nat) : Nat :=
  let ss := onesAt v.stks
  ss.getD (foldK 4 (lineOf pa / 4) % max ss.length 1) 0

/-- The number names a core, or a fused cluster's cache. -/
def agentExists (u : Nat) : Bool := u < Config.cores || (4096 ≤ u && u < 4096 + 640)

/-- UE_CLEAN_DATA (R348): the copy is dropped and will be fetched again. Kind 0 an L1 data line of agent `u`, 1 an L2 line
of domain `u`, 2 its replicas, 3 an LLC line, 4 an instruction line of core `u`; `addr` is the physical address. A unit that
does not exist has no copy. -/
def execUeCleanData (kind u addr : Nat) (s : State) : Out :=
  let line := lineOf addr
  .next (match kind with
    | 0 => if !agentExists u then s
      else (s.count 4 0 (agentCore u)).modCache u fun k => { k with lines := k.lines.filter fun l => l.line != line || l.dirty != 0 }
    | 4 => if Config.cores ≤ u then s
      else (s.count 4 0 u).modCore u fun k => { k with icache := k.icache.filter fun l => l.pa != addr / 64 * 64 }
    | _ =>
      if Config.firmwareDomain < u then s
      else
        match kind with
        | 1 => (s.count 4 1 (homeSlice (s.dom u) line)).modDom u fun v => { v with l2 := v.l2.erase line }
        | 2 => (s.count 4 1 (homeSlice (s.dom u) line)).modDom u fun v => v.dropReplicas line
        | 3 => (s.count 4 2 (llcSlice (s.dom u) line)).modDom u fun v => { v with llc := v.llc.erase line }
        | _ => s)

/-- UE_POISON (R348, R349): the word of which no other copy exists is poisoned. Kind 0 a dirty L1 word of agent `u`, 1 a
local word of core `u`, 2 a word of domain `u`'s memory. A unit that does not exist has no word. -/
def execUePoison (kind u addr : Nat) (s : State) : Out :=
  let line := lineOf addr
  let w := addr % 128 / 8
  .next (match kind with
    | 0 => if !agentExists u then s
      else (s.count 4 0 (agentCore u)).modCache u fun k => { k with lines := k.lines.map fun l =>
        if (l.line == line && l.dirty.extractLsb' (8 * w) 8 != 0#8) then { l with dpoison := l.dpoison ||| (1#16 <<< w) } else l }
    | 1 => if Config.cores ≤ u ∨ Config.lmemBytes ≤ addr then s
      else (s.count 4 0 u).modCore u fun k => { k with lpoison := addNew k.lpoison (addr / 8) }
    | 2 => if Config.firmwareDomain < u ∨ (s.dom u).bytes ≤ addr then s
      else (s.count 4 3 ((s.dom u).stackOf addr)).modDom u fun v => { v with poison := addNew v.poison (addr / 8) }
    | _ => s)

/-! ### SPDM and key delivery (R367 to R369) -/

/-- A responder of the security processor (R368). -/
inductive Responder where
  | device
  | part (d : Nat)
  deriving DecidableEq, Repr

/-- The responder at an endpoint: DOE instances 0 to 16 of PCIe function 0, MCTP endpoints 0x1F to 0x2F (R368). -/
def responderAt (e : Nat) : Option Responder :=
  if e = 0 ∨ e = 0x1F then some .device
  else if e ≤ 16 then some (.part (e - 1))
  else if 0x20 ≤ e ∧ e < 0x30 then some (.part (e - 0x20))
  else none

/-- The responder at an endpoint, while it is there: a partition's while the partition exists. -/
def State.responder (s : State) (e : Nat) : Option Responder :=
  match responderAt e with
  | some (.part d) => if (s.dom d).st = .running then some (.part d) else none
  | r => r

/-- The bytes of a measurement block of a responder; the device's own reports blocks 1 to 3 (R367, R368). -/
def State.block (s : State) (r : Responder) (i : Nat) : List Byte :=
  let dig (b : BitVec 512) : List Byte := natToBytes 64 b.toNat
  match i with
  | 1 => dig Config.romDigest
  | 2 => dig s.spDigest
  | 3 => dig s.fwDigest
  | _ =>
    match r with
    | .device => []
    | .part d =>
      let v := s.dom d
      if i = 4 then v.desc
      else if i = 5 then dig v.supDigest
      else if 16 ≤ i ∧ i < 32 then
        match lookup v.keys (i - 16) with
        | some k => natToBytes 8 k.kid.toNat ++ dig k.meas
        | none => List.replicate 72 0
      else []

/-- The partition measurement PM (R367). -/
def State.measurement (s : State) (d : Nat) : BitVec 512 :=
  shake256 ((List.range 5).flatMap fun i => s.block (.part d) (i + 1))

/-- The algorithms of R368 in the four selection words of an ALGORITHMS response, as SPDM 1.3 numbers their bits (log 6): Ed448
bit 11, SHA3-512 bit 5, secp384r1 bit 4, AES-256-GCM bit 1. -/
def offeredAlgorithms : BitVec 512 :=
  (2#32 ++ 0x10#32 ++ 0x20#32 ++ 0x800#32).setWidth 512

/-- What a responder answers to a request code: certificate slot 0 (R367), the algorithms it offers, its capabilities with that
of mutual authentication, bit 8 (R368); the rest the outside SPDM specification fixes (log 6). -/
def State.spdmAnswer (s : State) (e code arg : Nat) : BitVec 1024 :=
  if code = 0x82 ∧ arg = 0 then Config.certChain s.identity
  else if code = 0xE3 then offeredAlgorithms.setWidth 1024
  else if code = 0xE1 then (Config.spdmAnswer e code arg ||| 0x100#512).setWidth 1024
  else (Config.spdmAnswer e code arg).setWidth 1024

/-- The model's own number of an open session of an endpoint. -/
def State.sessionAt (s : State) (e n : Nat) : Option Nat :=
  (s.sessions.find? fun x => x.1 == e && x.2.1 == n).map (·.2.2)

/-- A session opens under a number that no open one of the endpoint bears (R369). -/
def State.openSession (s : State) (e n : Nat) : State :=
  if (s.sessionAt e n).isSome then s
  else { s with sessions := s.sessions ++ [(e, n, s.nextId)], nextId := s.nextId + 1 }

/-- SPDM_REQUEST (R368): request code 0xE0 asks for the measurement block `arg`, 0xE4 opens the session `arg`; what else
a responder answers the outside SPDM specification fixes (log 6). No responder, no answer. -/
def execSpdmRequest (e code arg : Nat) (s : State) : Out :=
  .next (match s.responder e with
    | none => s
    | some r =>
      if code = 0xE0 then
        let b := s.block r arg
        s.answer ⟨8, arg, b.length, BitVec.ofNat 1024 (bytesToNat b)⟩
      else (if code = 0xE4 then s.openSession e arg else s).answer ⟨8, arg, 64, s.spdmAnswer e code arg⟩)

/-- The first free staging entry of 16 (R369). -/
def Dom.freeStaging (v : Dom) : Option Nat := (List.range 16).find? fun i => (lookup v.staging i).isNone

/-- The answer of a key delivery: OP 0x81, STATUS, TICKET (R369). -/
def deliveryAnswer (status ticket : Nat) : Answer := ⟨9, 0, 3, BitVec.ofNat 1024 (0x81 + 256 * status + 65536 * ticket)⟩

/-- Open and stage a delivered key (R369): `sealed` is WRAPPED, then TAG. -/
def State.stageKey (s : State) (d session : Nat) (kid : BitVec 64) (meas : BitVec 512) (nchunk : BitVec 64) (sealed : BitVec 384) :
    State :=
  let v := s.dom d
  let aad := natToBytes 64 (s.measurement d).toNat ++ natToBytes 8 kid.toNat ++ natToBytes 64 meas.toNat
  match Config.gcmDecrypt (Config.sessionKey session) 0 aad (natToBytes 32 sealed.toNat) (sealed.extractLsb' 256 128) with
  | none => s.answer (deliveryAnswer 2 0)
  | some key =>
    match v.freeStaging with
    | none => s.answer (deliveryAnswer 1 0)
    | some i =>
      let e : Staging := ⟨BitVec.ofNat 256 (bytesToNat key), kid, meas, nchunk.toNat, session⟩
      (s.setDom d { v with staging := insertKey v.staging i e }).answer (deliveryAnswer 0 i)

/-- KEY_DELIVERY_REQUEST (R369): inside a session of the partition's responder the wrapped key is opened and staged. `head` is OP
with the seven reserved bytes, none for a payload that has not the 136 bytes of R369's layout; any but OP 1 with reserved zeros
is malformed. A request outside a session is not answered. -/
def execKeyDeliveryRequest (e session : Nat) (head : Option (BitVec 64)) (kid : BitVec 64) (meas : BitVec 512) (nchunk : BitVec 64)
    (sealed : BitVec 384) (s : State) : Out :=
  .next (match s.responder e, s.sessionAt e session with
    | some (.part d), some n =>
      if head = some 1 then s.stageKey d n kid meas nchunk sealed else s.answer (deliveryAnswer 3 0)
    | _, _ => s)

/-- SPDM_SESSION_END (R369): staging entries of the session that no KEYLD.INST took are discarded. -/
def execSpdmSessionEnd (e session : Nat) (s : State) : Out :=
  .next (match s.sessionAt e session with
    | none => s
    | some n =>
      let s : State := { s with sessions := s.sessions.filter fun x => x.2.2 != n }
      match responderAt e with
      | some (.part d) => s.modDom d fun v => { v with staging := v.staging.filter fun x => x.2.session != n }
      | _ => s)

end Sys2Proof.Machine
end

