-- ==== Sys2Proof/Machine/Replies.lean ====
section
/-! DEFINITION. LOAD_REPLY_ARRIVAL: the reply of a home reaches its core (R109, R126, R248, R265). -/
namespace Sys2Proof.Machine

/-- A handler is told that the condition of its read failed: its acquire part has been performed, and it raises
Handler-Block (R126). -/
def State.blockedArrives (s : State) (m : Msg) : State :=
  let s := s.dropMsg m.id
  let s := if m.inval then s.selfInvalidate m.agent else s
  match s.waiter m with
  | none => s
  | some _ => s.replyTrap m .handlerBlock 0 0

/-- What a reply does at its core. -/
def State.replyArrives (s : State) (m : Msg) : State :=
  match m.kind with
  | .load alloc keep _ => s.loadArrives m alloc keep
  | .arrive _ _ _ => s.nodeArrives m
  | .depart _ _ _ => s.nodeArrives m
  | .claim _ _ _ _ => s.claimArrives m
  | .writeBack => s
  | .counter _ => s
  | .drain _ _ _ => s
  | .steal _ _ _ => s
  | _ => if m.blocked && m.kind != .barw then s.blockedArrives m else s.orderedArrives m

/-- LOAD_REPLY_ARRIVAL (R109): the reply of a request whose thread waits for it, or of a load that fills the L1; the other
acknowledgements have events of their own. -/
def execLoadReplyArrival (id : Nat) (s : State) : Out :=
  .next (match s.findMsg id with
    | none => s
    | some m =>
      let fill : Bool := match m.kind with
        | .load _ _ _ => true
        | _ => false
      if m.st = .replied ∧ (m.wait ∨ fill) then s.replyArrives m else s)

end Sys2Proof.Machine
end

