-- ==== Sys2Proof/Machine/Special.lean ====
section
/-! DEFINITION. The special functions of the vector engine (R188): the exact value of each function, rounded once with
RNE. A value that is no dyadic number is computed to 640 bits below the point and floored; the operands have at most
24 bits, and no operand lies that near a rounding boundary (log 21). -/
namespace Sys2Proof.Machine

/-- Bits below the point. -/
def spBits : Nat := 640
/-- π in units of 2^-640, floored. -/
def spPi : Nat := 0x3243F6A8885A308D313198A2E03707344A4093822299F31D0082EFA98EC4E6C89452821E638D01377BE5466CF34E90C6CC0AC29B7C97C50DD3F84D5B5B54709179216D5D98979FB1BD1310BA698DFB5AC
/-- ln 2 in units of 2^-640, floored. -/
def spLn2 : Nat := 0xB17217F7D1CF79ABC9E3B39803F2F6AF40F343267298B62D8A0D175B8BAAFA2BE7B876206DEBAC98559552FB4AFA1B10ED2EAE35C138214427573B291169B8253E96CA16224AE8C51ACBDA11317C387E

/-- A fixed-point value that is not exact. -/
def spValue (neg : Bool) (v : Nat) (e : Int) : FVal := .fin ⟨neg, v, e - spBits, true⟩

/-- Σ y^j / j! from the term `t` = y^(k-1) / (k-1)! on, in fixed point. -/
def expSum (y : Nat) : Nat → Nat → Nat → Nat
  | 0, _, t => t
  | n + 1, k, t => t + expSum y n (k + 1) (t * y / 2 ^ spBits / k)

/-- e^y for a fixed-point y below 1. -/
def expFix (y : Nat) : Nat := expSum y 140 1 (2 ^ spBits)

/-- x - x³/3! + …: `t` is the term of x^(k-1). -/
def sinSum (xx : Nat) : Nat → Nat → Nat → Nat
  | 0, _, t => t
  | n + 1, k, t => t - sinSum xx n (k + 2) (t * xx / 2 ^ spBits / (k * (k + 1)))

/-- sin(πu) for a fixed-point u from 0 to 1/2. -/
def sinPiFix (u : Nat) : Nat :=
  let x := u * spPi / 2 ^ spBits
  sinSum (x * x / 2 ^ spBits) 70 2 x

/-- `n` bits of log2 of the fixed-point y from 1 to 2, one squaring a bit. -/
def log2Bits : Nat → Nat → Nat → Nat
  | 0, _, r => r
  | n + 1, y, r =>
    let y := y * y / 2 ^ spBits
    if 2 ^ (spBits + 1) ≤ y then log2Bits n (y / 2) (2 * r + 1) else log2Bits n y (2 * r)

/-- m × 2^e in units of 2^-640; e is at least -640. -/
def Dy.fix (v : Dy) : Nat := v.m * 2 ^ (v.e + spBits).toNat

/-- The magnitude is an integer. -/
def Dy.isInt (v : Dy) : Bool := v.fix % 2 ^ spBits == 0

/-- 2^a (R188). -/
def spExp (a : FVal) (c : RC) : FVal × RC :=
  match a with
  | .nan => (.nan, c)
  | .inf neg => (if neg then .zero false else .inf false, c)
  | .fin v =>
    let big := decide (1024 * 2 ^ spBits ≤ v.fix)
    let x : Int := if v.neg then -(v.fix : Int) else v.fix
    let i := x / (2 ^ spBits : Int)
    let y := (x % (2 ^ spBits : Int)).toNat
    (if big then (if v.neg then .fin ⟨false, 1, -1024, true⟩ else .fin ⟨false, 1, 1024, false⟩)
      else if y = 0 then .fin ⟨false, 1, i, false⟩
      else spValue false (expFix (y * spLn2 / 2 ^ spBits)) i, c)

/-- log2 a (R188). -/
def spLog (a : FVal) (c : RC) : FVal × RC :=
  match a with
  | .nan => (.nan, c)
  | .inf neg => if neg then (.nan, c.or fIV) else (.inf false, c)
  | .fin v =>
    if v.m = 0 then (.inf true, c.or fDZ)
    else if v.neg then (.nan, c.or fIV)
    else
      let k := Nat.log2 v.m
      let e : Int := v.e + k
      if v.m == 2 ^ k then (.ofInt e, c)
      else
        let t : Int := e * (2 ^ 200 : Int) + log2Bits 200 (v.m * 2 ^ (spBits - k)) 0
        (if 0 ≤ t then .fin ⟨false, t.toNat, -200, true⟩ else .fin ⟨true, (-t).toNat - 1, -200, true⟩, c)

/-- 1 / a (R188). -/
def spRcp (a : FVal) (c : RC) : FVal × RC := fDiv (.ofInt 1) a c

/-- 1 / √a (R188). -/
def spRsq (a : FVal) (c : RC) : FVal × RC :=
  match a with
  | .nan => (.nan, c)
  | .inf neg => if neg then (.nan, c.or fIV) else (.zero false, c)
  | .fin v =>
    if v.m = 0 then (.inf v.neg, c.or fDZ)
    else if v.neg then (.nan, c.or fIV)
    else
      let m : Nat := if v.e % 2 = 0 then v.m else 2 * v.m
      let e := v.e / 2
      let k : Nat := 128
      let r := isqrt (2 ^ (2 * k) / m)
      (.fin ⟨false, r, -e - (k : Int), r * r * m != 2 ^ (2 * k)⟩, c)

/-- sin(πx) of a non-negative fixed-point x that is no integer. -/
def sinPiOf (neg : Bool) (x : Nat) : FVal :=
  let one := 2 ^ spBits
  let neg := neg != decide (one ≤ x % (2 * one))
  let u := x % one
  let u := if one < 2 * u then one - u else u
  if 2 * u = one then .fin ⟨neg, 1, 0, false⟩ else spValue neg (sinPiFix u) 0

/-- sin(πa) (R188). -/
def spSinPi (a : FVal) (c : RC) : FVal × RC :=
  match a with
  | .nan => (.nan, c)
  | .inf _ => (.nan, c.or fIV)
  | .fin v => (if v.isInt then .zero v.neg else sinPiOf v.neg v.fix, c)

/-- cos(πa) = sin(π(|a| + 1/2)) (R188). -/
def spCosPi (a : FVal) (c : RC) : FVal × RC :=
  match a with
  | .nan => (.nan, c)
  | .inf _ => (.nan, c.or fIV)
  | .fin v =>
    let x := v.fix + 2 ^ (spBits - 1)
    (if x % 2 ^ spBits = 0 then .zero false else sinPiOf false x, c)

/-- n squarings of a fixed-point value. -/
def squares : Nat → Nat → Nat
  | 0, y => y
  | n + 1, y => squares n (y * y / 2 ^ spBits)

/-- tanh a = (e^2a - 1) / (e^2a + 1) (R188). -/
def spTanh (a : FVal) (c : RC) : FVal × RC :=
  match a with
  | .nan => (.nan, c)
  | .inf neg => (.fin ⟨neg, 1, 0, false⟩, c)
  | .fin v =>
    let one := 2 ^ spBits
    (if v.m = 0 then .zero v.neg
      else if 40 * one ≤ v.fix then spValue v.neg (one - 1) 0
      else
        let y := squares 7 (expFix (v.fix / 64))
        spValue v.neg ((y - one) * one / (y + one)) 0, c)

/-- Issue a special function: RNE whatever FPCR holds, a quarter of the rate (R181, R188). -/
def State.vecSpecial (s : State) (fd fa : BitVec 5) (fmt : BitVec 4) (f : FVal → RC → FVal × RC) : State :=
  let fm := fmt.toNat
  s.vecMap (VDesc.plain fd fm (src1 fa fm) true) fun r c =>
    let x := f (valueOf fm (r.getD 0 0)) c
    roundTo fm 0 false x.1 x.2

/-- VEXP (R188). -/
def execVexp (fd fa : BitVec 5) (fmt : BitVec 4) (s : State) : Out := .next (s.vecSpecial fd fa fmt spExp)
/-- VLOG (R188). -/
def execVlog (fd fa : BitVec 5) (fmt : BitVec 4) (s : State) : Out := .next (s.vecSpecial fd fa fmt spLog)
/-- VRCP (R188). -/
def execVrcp (fd fa : BitVec 5) (fmt : BitVec 4) (s : State) : Out := .next (s.vecSpecial fd fa fmt spRcp)
/-- VRSQ (R188). -/
def execVrsq (fd fa : BitVec 5) (fmt : BitVec 4) (s : State) : Out := .next (s.vecSpecial fd fa fmt spRsq)
/-- VSINPI (R188). -/
def execVsinpi (fd fa : BitVec 5) (fmt : BitVec 4) (s : State) : Out := .next (s.vecSpecial fd fa fmt spSinPi)
/-- VCOSPI (R188). -/
def execVcospi (fd fa : BitVec 5) (fmt : BitVec 4) (s : State) : Out := .next (s.vecSpecial fd fa fmt spCosPi)
/-- VTANH (R188). -/
def execVtanh (fd fa : BitVec 5) (fmt : BitVec 4) (s : State) : Out := .next (s.vecSpecial fd fa fmt spTanh)

end Sys2Proof.Machine
end

