-- ==== Sys2Proof/Machine/Dispatch.lean ====
section
/-! DEFINITION. One arm per constructor of Instr: the meaning of each instruction and event. -/
namespace Sys2Proof.Machine

def exec (i : Instr) (s : State) : Host.Outcome State Fault Refusal :=
  match i with
  | .nop => Sys2Proof.Machine.execNop s
  | .brk imm => Sys2Proof.Machine.execBrk imm s
  | .svc imm => Sys2Proof.Machine.execSvc imm s
  | .trap sub a b imm => Sys2Proof.Machine.execTrap sub a b imm s
  | .ill => Sys2Proof.Machine.execIll s
  | .mfs d sreg => Sys2Proof.Machine.execMfs d sreg s
  | .mfsFpsr d => Sys2Proof.Machine.execMfsFpsr d s
  | .mts a sreg => Sys2Proof.Machine.execMts a sreg s
  | .mtsFpcr a => Sys2Proof.Machine.execMtsFpcr a s
  | .mtsFpsr a => Sys2Proof.Machine.execMtsFpsr a s
  | .mtsPriv a => Sys2Proof.Machine.execMtsPriv a s
  | .mtsRseq a => Sys2Proof.Machine.execMtsRseq a s
  | .ifence => Sys2Proof.Machine.execIfence s
  | .rand d => Sys2Proof.Machine.execRand d s
  | .randR16 d => Sys2Proof.Machine.execRandR16 d s
  | .add d a b w => Sys2Proof.Machine.execAdd d a b w s
  | .sub d a b w => Sys2Proof.Machine.execSub d a b w s
  | .mul d a b w => Sys2Proof.Machine.execMul d a b w s
  | .mulh d a b w => Sys2Proof.Machine.execMulh d a b w s
  | .div d a b w => Sys2Proof.Machine.execDiv d a b w s
  | .rem d a b w => Sys2Proof.Machine.execRem d a b w s
  | .and d a b w => Sys2Proof.Machine.execAnd d a b w s
  | .or d a b w => Sys2Proof.Machine.execOr d a b w s
  | .xor d a b w => Sys2Proof.Machine.execXor d a b w s
  | .andn d a b w => Sys2Proof.Machine.execAndn d a b w s
  | .min d a b w => Sys2Proof.Machine.execMin d a b w s
  | .max d a b w => Sys2Proof.Machine.execMax d a b w s
  | .sel d a b c w => Sys2Proof.Machine.execSel d a b c w s
  | .madd d a b c w => Sys2Proof.Machine.execMadd d a b c w s
  | .adds sub d a b w => Sys2Proof.Machine.execAdds sub d a b w s
  | .absd d a b w => Sys2Proof.Machine.execAbsd d a b w s
  | .addi d a w imm => Sys2Proof.Machine.execAddi d a w imm s
  | .muli d a w imm => Sys2Proof.Machine.execMuli d a w imm s
  | .andi d a w imm => Sys2Proof.Machine.execAndi d a w imm s
  | .ori d a w imm => Sys2Proof.Machine.execOri d a w imm s
  | .xori d a w imm => Sys2Proof.Machine.execXori d a w imm s
  | .ldi d w imm => Sys2Proof.Machine.execLdi d w imm s
  | .lea d w imm => Sys2Proof.Machine.execLea d w imm s
  | .sll d a b w => Sys2Proof.Machine.execSll d a b w s
  | .srl d a b w => Sys2Proof.Machine.execSrl d a b w s
  | .sra d a b w => Sys2Proof.Machine.execSra d a b w s
  | .slli d a w imm => Sys2Proof.Machine.execSlli d a w imm s
  | .srli d a w imm => Sys2Proof.Machine.execSrli d a w imm s
  | .srai d a w imm => Sys2Proof.Machine.execSrai d a w imm s
  | .rot d a b w => Sys2Proof.Machine.execRot d a b w s
  | .clz d a w => Sys2Proof.Machine.execClz d a w s
  | .ctz d a w => Sys2Proof.Machine.execCtz d a w s
  | .popc d a w => Sys2Proof.Machine.execPopc d a w s
  | .brev d a w => Sys2Proof.Machine.execBrev d a w s
  | .bfx d a b c w => Sys2Proof.Machine.execBfx d a b c w s
  | .bfi d a b c w => Sys2Proof.Machine.execBfi d a b c w s
  | .xfold sub d a b => Sys2Proof.Machine.execXfold sub d a b s
  | .cmp sub d a b w => Sys2Proof.Machine.execCmp sub d a b w s
  | .cmpi sub d a w imm => Sys2Proof.Machine.execCmpi sub d a w imm s
  | .plog sub d a b => Sys2Proof.Machine.execPlog sub d a b s
  | .pmovTox d => Sys2Proof.Machine.execPmovTox d s
  | .pmovFromx a => Sys2Proof.Machine.execPmovFromx a s
  | .pmovNz d a => Sys2Proof.Machine.execPmovNz d a s
  | .br disp slot => Sys2Proof.Machine.execBr disp slot s
  | .call disp slot => Sys2Proof.Machine.execCall disp slot s
  | .callR a => Sys2Proof.Machine.execCallR a s
  | .ret a => Sys2Proof.Machine.execRet a s
  | .jmp a => Sys2Proof.Machine.execJmp a s
  | .loop a disp slot => Sys2Proof.Machine.execLoop a disp slot s
  | .brz a cond disp slot => Sys2Proof.Machine.execBrz a cond disp slot s
  | .brcmp a b cond disp slot => Sys2Proof.Machine.execBrcmp a b cond disp slot s
  | .ld sub d base idx scl size ord scope hint off => Sys2Proof.Machine.execLd sub d base idx scl size ord scope hint off s
  | .st d base idx scl size ord scope hint off => Sys2Proof.Machine.execSt d base idx scl size ord scope hint off s
  | .ldf d base idx scl size ord scope hint off => Sys2Proof.Machine.execLdf d base idx scl size ord scope hint off s
  | .stf d base idx scl size ord scope hint off => Sys2Proof.Machine.execStf d base idx scl size ord scope hint off s
  | .ldp d base idx scl size ord scope hint off => Sys2Proof.Machine.execLdp d base idx scl size ord scope hint off s
  | .stp d base idx scl size ord scope hint off => Sys2Proof.Machine.execStp d base idx scl size ord scope hint off s
  | .ldb sub d base idx scl size hint off => Sys2Proof.Machine.execLdb sub d base idx scl size hint off s
  | .stb d base idx scl size hint off => Sys2Proof.Machine.execStb d base idx scl size hint off s
  | .prefL1 base idx scl hint off => Sys2Proof.Machine.execPrefL1 base idx scl hint off s
  | .prefL2 base idx scl hint off => Sys2Proof.Machine.execPrefL2 base idx scl hint off s
  | .drain => Sys2Proof.Machine.execDrain s
  | .drainL base idx scl off => Sys2Proof.Machine.execDrainL base idx scl off s
  | .amoAdd d base idx size ord scope off => Sys2Proof.Machine.execAmoAdd d base idx size ord scope off s
  | .amoAnd d base idx size ord scope off => Sys2Proof.Machine.execAmoAnd d base idx size ord scope off s
  | .amoOr d base idx size ord scope off => Sys2Proof.Machine.execAmoOr d base idx size ord scope off s
  | .amoXor d base idx size ord scope off => Sys2Proof.Machine.execAmoXor d base idx size ord scope off s
  | .amoSmin d base idx size ord scope off => Sys2Proof.Machine.execAmoSmin d base idx size ord scope off s
  | .amoSmax d base idx size ord scope off => Sys2Proof.Machine.execAmoSmax d base idx size ord scope off s
  | .amoUmin d base idx size ord scope off => Sys2Proof.Machine.execAmoUmin d base idx size ord scope off s
  | .amoUmax d base idx size ord scope off => Sys2Proof.Machine.execAmoUmax d base idx size ord scope off s
  | .amoSwap d base idx size ord scope off => Sys2Proof.Machine.execAmoSwap d base idx size ord scope off s
  | .cas d base idx size ord scope off => Sys2Proof.Machine.execCas d base idx size ord scope off s
  | .amofAdd d base idx size ord scope off => Sys2Proof.Machine.execAmofAdd d base idx size ord scope off s
  | .amofMin d base idx size ord scope off => Sys2Proof.Machine.execAmofMin d base idx size ord scope off s
  | .amofMax d base idx size ord scope off => Sys2Proof.Machine.execAmofMax d base idx size ord scope off s
  | .fence ord scope => Sys2Proof.Machine.execFence ord scope s
  | .barw d base idx scl size ord scope off => Sys2Proof.Machine.execBarw d base idx scl size ord scope off s
  | .waitv sub d base idx size ord scope off => Sys2Proof.Machine.execWaitv sub d base idx size ord scope off s
  | .fork d b pd disp slot => Sys2Proof.Machine.execFork d b pd disp slot s
  | .forkJ d a b pd disp slot => Sys2Proof.Machine.execForkJ d a b pd disp slot s
  | .join a => Sys2Proof.Machine.execJoin a s
  | .retire => Sys2Proof.Machine.execRetire s
  | .retireJ a => Sys2Proof.Machine.execRetireJ a s
  | .yield a => Sys2Proof.Machine.execYield a s
  | .park a => Sys2Proof.Machine.execPark a s
  | .parkRel a => Sys2Proof.Machine.execParkRel a s
  | .send a b => Sys2Proof.Machine.execSend a b s
  | .waitf d base idx scl size off => Sys2Proof.Machine.execWaitf d base idx scl size off s
  | .waitfE d base idx scl size off => Sys2Proof.Machine.execWaitfE d base idx scl size off s
  | .fill d base idx scl size off => Sys2Proof.Machine.execFill d base idx scl size off s
  | .empty base idx scl size off => Sys2Proof.Machine.execEmpty base idx scl size off s
  | .dqpush b pd => Sys2Proof.Machine.execDqpush b pd s
  | .dqpop d pd => Sys2Proof.Machine.execDqpop d pd s
  | .dqsplit a pd disp slot => Sys2Proof.Machine.execDqsplit a pd disp slot s
  | .dqsteal d pd => Sys2Proof.Machine.execDqsteal d pd s
  | .dqstealAt d a pd => Sys2Proof.Machine.execDqstealAt d a pd s
  | .dqrun => Sys2Proof.Machine.execDqrun s
  | .launch d a b pd => Sys2Proof.Machine.execLaunch d a b pd s
  | .lwait d a => Sys2Proof.Machine.execLwait d a s
  | .qalloc pd imm => Sys2Proof.Machine.execQalloc pd imm s
  | .qfree imm => Sys2Proof.Machine.execQfree imm s
  | .qlogAnd qd qa qb pd => Sys2Proof.Machine.execQlogAnd qd qa qb pd s
  | .qlogOr qd qa qb pd => Sys2Proof.Machine.execQlogOr qd qa qb pd s
  | .qlogXor qd qa qb pd => Sys2Proof.Machine.execQlogXor qd qa qb pd s
  | .qlogAndn qd qa qb pd => Sys2Proof.Machine.execQlogAndn qd qa qb pd s
  | .qlogCopy qd qa pd => Sys2Proof.Machine.execQlogCopy qd qa pd s
  | .qlogClear qd pd => Sys2Proof.Machine.execQlogClear qd pd s
  | .qlogFull qd pd => Sys2Proof.Machine.execQlogFull qd pd s
  | .qlogNot qd qa pd => Sys2Proof.Machine.execQlogNot qd qa pd s
  | .qbitSet qd xa pd => Sys2Proof.Machine.execQbitSet qd xa pd s
  | .qbitClr qd xa pd => Sys2Proof.Machine.execQbitClr qd xa pd s
  | .qpop qa xa pd => Sys2Proof.Machine.execQpop qa xa pd s
  | .qcnt qa xa pd => Sys2Proof.Machine.execQcnt qa xa pd s
  | .qtest qa xb pd => Sys2Proof.Machine.execQtest qa xb pd s
  | .qeqEmpty qa pd => Sys2Proof.Machine.execQeqEmpty qa pd s
  | .qeqEq qa qb pd => Sys2Proof.Machine.execQeqEq qa qb pd s
  | .qeqSub qa qb pd => Sys2Proof.Machine.execQeqSub qa qb pd s
  | .qeqDisj qa qb pd => Sys2Proof.Machine.execQeqDisj qa qb pd s
  | .qaddr xa xb => Sys2Proof.Machine.execQaddr xa xb s
  | .qaddrQn xa xb => Sys2Proof.Machine.execQaddrQn xa xb s
  | .qwin xa xb => Sys2Proof.Machine.execQwin xa xb s
  | .qmask qd qa pd imm => Sys2Proof.Machine.execQmask qd qa pd imm s
  | .qsplit qd qa qb pd xa => Sys2Proof.Machine.execQsplit qd qa qb pd xa s
  | .qmovTox qa xa => Sys2Proof.Machine.execQmovTox qa xa s
  | .qmovFromx qd xa => Sys2Proof.Machine.execQmovFromx qd xa s
  | .qmovLd qd xa imm => Sys2Proof.Machine.execQmovLd qd xa imm s
  | .qmovSt qa xa imm => Sys2Proof.Machine.execQmovSt qa xa imm s
  | .arrive qa xa xb pd => Sys2Proof.Machine.execArrive qa xa xb pd s
  | .depart qa xa xb pd => Sys2Proof.Machine.execDepart qa xa xb pd s
  | .departW qa xa xb pd => Sys2Proof.Machine.execDepartW qa xa xb pd s
  | .qfork qa xa xb pd imm => Sys2Proof.Machine.execQfork qa xa xb pd imm s
  | .scfg fs xa xb loops dir space fmt pd => Sys2Proof.Machine.execScfg fs xa xb loops dir space fmt pd s
  | .scfgm fs dir space fmt qs pd => Sys2Proof.Machine.execScfgm fs dir space fmt qs pd s
  | .sen mask => Sys2Proof.Machine.execSen mask s
  | .sdis mask => Sys2Proof.Machine.execSdis mask s
  | .swait mask => Sys2Proof.Machine.execSwait mask s
  | .vadd fd fa fb fmt rnd bc => Sys2Proof.Machine.execVadd fd fa fb fmt rnd bc s
  | .vsub fd fa fb fmt rnd bc => Sys2Proof.Machine.execVsub fd fa fb fmt rnd bc s
  | .vmul fd fa fb fmt rnd bc => Sys2Proof.Machine.execVmul fd fa fb fmt rnd bc s
  | .vfma fd fa fb fc fmt rnd bc => Sys2Proof.Machine.execVfma fd fa fb fc fmt rnd bc s
  | .vfmaMs fd fa fb fc fmt rnd bc => Sys2Proof.Machine.execVfmaMs fd fa fb fc fmt rnd bc s
  | .vfmaNma fd fa fb fc fmt rnd bc => Sys2Proof.Machine.execVfmaNma fd fa fb fc fmt rnd bc s
  | .vfmaNms fd fa fb fc fmt rnd bc => Sys2Proof.Machine.execVfmaNms fd fa fb fc fmt rnd bc s
  | .vmin fd fa fb fmt bc => Sys2Proof.Machine.execVmin fd fa fb fmt bc s
  | .vmax fd fa fb fmt bc => Sys2Proof.Machine.execVmax fd fa fb fmt bc s
  | .vsgnCpy fd fa fb fmt bc => Sys2Proof.Machine.execVsgnCpy fd fa fb fmt bc s
  | .vsgnNeg fd fa fb fmt bc => Sys2Proof.Machine.execVsgnNeg fd fa fb fmt bc s
  | .vsgnXor fd fa fb fmt bc => Sys2Proof.Machine.execVsgnXor fd fa fb fmt bc s
  | .vcmp sub fd fa fb fmt pd bc imm => Sys2Proof.Machine.execVcmp sub fd fa fb fmt pd bc imm s
  | .vsel fd fa fb fc fmt bc => Sys2Proof.Machine.execVsel fd fa fb fc fmt bc s
  | .vdiv fd fa fb fmt rnd bc => Sys2Proof.Machine.execVdiv fd fa fb fmt rnd bc s
  | .vsqrt fd fa fmt rnd => Sys2Proof.Machine.execVsqrt fd fa fmt rnd s
  | .vredSum fd fa fmt rnd => Sys2Proof.Machine.execVredSum fd fa fmt rnd s
  | .vredMin fd fa fmt rnd => Sys2Proof.Machine.execVredMin fd fa fmt rnd s
  | .vredMax fd fa fmt rnd => Sys2Proof.Machine.execVredMax fd fa fmt rnd s
  | .vdot fd fa fb fmt rnd bc => Sys2Proof.Machine.execVdot fd fa fb fmt rnd bc s
  | .vmov fd fa fmt => Sys2Proof.Machine.execVmov fd fa fmt s
  | .vsclI fd fa fmt rnd imm => Sys2Proof.Machine.execVsclI fd fa fmt rnd imm s
  | .vsclE fd fa fb fmt rnd bc => Sys2Proof.Machine.execVsclE fd fa fb fmt rnd bc s
  | .vcls fd fa fmt pd imm => Sys2Proof.Machine.execVcls fd fa fmt pd imm s
  | .vexp fd fa fmt => Sys2Proof.Machine.execVexp fd fa fmt s
  | .vlog fd fa fmt => Sys2Proof.Machine.execVlog fd fa fmt s
  | .vrcp fd fa fmt => Sys2Proof.Machine.execVrcp fd fa fmt s
  | .vrsq fd fa fmt => Sys2Proof.Machine.execVrsq fd fa fmt s
  | .vsinpi fd fa fmt => Sys2Proof.Machine.execVsinpi fd fa fmt s
  | .vcospi fd fa fmt => Sys2Proof.Machine.execVcospi fd fa fmt s
  | .vtanh fd fa fmt => Sys2Proof.Machine.execVtanh fd fa fmt s
  | .viaddAdd fd fa fb fmt bc => Sys2Proof.Machine.execViaddAdd fd fa fb fmt bc s
  | .viaddSub fd fa fb fmt bc => Sys2Proof.Machine.execViaddSub fd fa fb fmt bc s
  | .viaddAdds fd fa fb fmt bc => Sys2Proof.Machine.execViaddAdds fd fa fb fmt bc s
  | .viaddSubs fd fa fb fmt bc => Sys2Proof.Machine.execViaddSubs fd fa fb fmt bc s
  | .viaddMin fd fa fb fmt bc => Sys2Proof.Machine.execViaddMin fd fa fb fmt bc s
  | .viaddMax fd fa fb fmt bc => Sys2Proof.Machine.execViaddMax fd fa fb fmt bc s
  | .viaddAbsd fd fa fb fmt bc => Sys2Proof.Machine.execViaddAbsd fd fa fb fmt bc s
  | .vimulLo fd fa fb fmt bc => Sys2Proof.Machine.execVimulLo fd fa fb fmt bc s
  | .vimulHi fd fa fb fmt bc => Sys2Proof.Machine.execVimulHi fd fa fb fmt bc s
  | .vimulHiu fd fa fb fmt bc => Sys2Proof.Machine.execVimulHiu fd fa fb fmt bc s
  | .vlogicAnd fd fa fb fmt bc => Sys2Proof.Machine.execVlogicAnd fd fa fb fmt bc s
  | .vlogicOr fd fa fb fmt bc => Sys2Proof.Machine.execVlogicOr fd fa fb fmt bc s
  | .vlogicXor fd fa fb fmt bc => Sys2Proof.Machine.execVlogicXor fd fa fb fmt bc s
  | .vlogicAndn fd fa fb fmt bc => Sys2Proof.Machine.execVlogicAndn fd fa fb fmt bc s
  | .vlogicNot fd fa fmt => Sys2Proof.Machine.execVlogicNot fd fa fmt s
  | .vshfSll fd fa fb fmt bc => Sys2Proof.Machine.execVshfSll fd fa fb fmt bc s
  | .vshfSrl fd fa fb fmt bc => Sys2Proof.Machine.execVshfSrl fd fa fb fmt bc s
  | .vshfSra fd fa fb fmt bc => Sys2Proof.Machine.execVshfSra fd fa fb fmt bc s
  | .vshfRot fd fa fb fmt bc => Sys2Proof.Machine.execVshfRot fd fa fb fmt bc s
  | .cvt sub fd fa fmt rnd imm => Sys2Proof.Machine.execCvt sub fd fa fmt rnd imm s
  | .cvti sub fd fa fmt rnd imm => Sys2Proof.Machine.execCvti sub fd fa fmt rnd imm s
  | .pack sub fd fa fb fmt rnd imm => Sys2Proof.Machine.execPack sub fd fa fb fmt rnd imm s
  | .packStrm sub fd fa fmt rnd imm => Sys2Proof.Machine.execPackStrm sub fd fa fmt rnd imm s
  | .unpk sub fd fa fmt rnd imm => Sys2Proof.Machine.execUnpk sub fd fa fmt rnd imm s
  | .unpkHi sub fd fa fmt rnd imm => Sys2Proof.Machine.execUnpkHi sub fd fa fmt rnd imm s
  | .unpkStrm sub fd fa fmt rnd imm => Sys2Proof.Machine.execUnpkStrm sub fd fa fmt rnd imm s
  | .plane fd fa fmt => Sys2Proof.Machine.execPlane fd fa fmt s
  | .unplane fd fa fmt => Sys2Proof.Machine.execUnplane fd fa fmt s
  | .spack fd fa fb fmt pd => Sys2Proof.Machine.execSpack fd fa fb fmt pd s
  | .spackChk fd fa fmt pd => Sys2Proof.Machine.execSpackChk fd fa fmt pd s
  | .nfscan fd fa fmt pd => Sys2Proof.Machine.execNfscan fd fa fmt pd s
  | .cclaim xd => Sys2Proof.Machine.execCclaim xd s
  | .crel => Sys2Proof.Machine.execCrel s
  | .ccfg xd => Sys2Proof.Machine.execCcfg xd s
  | .cmul xa xb xg xd xn acb spa za => Sys2Proof.Machine.execCmul xa xb xg xd xn acb spa za s
  | .cprom xa xb xd xn acb nsc => Sys2Proof.Machine.execCprom xa xb xd xn acb nsc s
  | .czero xn acb => Sys2Proof.Machine.execCzero xn acb s
  | .cstat xd => Sys2Proof.Machine.execCstat xd s
  | .cstatClr xd => Sys2Proof.Machine.execCstatClr xd s
  | .cwait xa => Sys2Proof.Machine.execCwait xa s
  | .cstorAcc xa xn acb => Sys2Proof.Machine.execCstorAcc xa xn acb s
  | .cstorL0 xa xn acb => Sys2Proof.Machine.execCstorL0 xa xn acb s
  | .cstorL1 xa xn acb => Sys2Proof.Machine.execCstorL1 xa xn acb s
  | .cstorCnt xa xn acb => Sys2Proof.Machine.execCstorCnt xa xn acb s
  | .cloadAcc xa xn acb => Sys2Proof.Machine.execCloadAcc xa xn acb s
  | .cloadL0 xa xn acb => Sys2Proof.Machine.execCloadL0 xa xn acb s
  | .cloadL1 xa xn acb => Sys2Proof.Machine.execCloadL1 xa xn acb s
  | .cloadCnt xa xn acb => Sys2Proof.Machine.execCloadCnt xa xn acb s
  | .cring xa xn => Sys2Proof.Machine.execCring xa xn s
  | .cretry xa xb => Sys2Proof.Machine.execCretry xa xb s
  | .cqput d a b pd => Sys2Proof.Machine.execCqput d a b pd s
  | .hstat d hn => Sys2Proof.Machine.execHstat d hn s
  | .hwait d hn smask => Sys2Proof.Machine.execHwait d hn smask s
  | .hsetDrn hn pd => Sys2Proof.Machine.execHsetDrn hn pd s
  | .hsetFree hn pd => Sys2Proof.Machine.execHsetFree hn pd s
  | .halloc a b hn pd => Sys2Proof.Machine.execHalloc a b hn pd s
  | .hfree hn pd => Sys2Proof.Machine.execHfree hn pd s
  | .cqinitBind a b pd => Sys2Proof.Machine.execCqinitBind a b pd s
  | .cqinitUnb a pd => Sys2Proof.Machine.execCqinitUnb a pd s
  | .trecv d => Sys2Proof.Machine.execTrecv d s
  | .trecvTry d pd => Sys2Proof.Machine.execTrecvTry d pd s
  | .tread d a sreg pd imm => Sys2Proof.Machine.execTread d a sreg pd imm s
  | .twrite a b sreg pd imm => Sys2Proof.Machine.execTwrite a b sreg pd imm s
  | .tresume a pd => Sys2Proof.Machine.execTresume a pd s
  | .tresumeNext a pd => Sys2Proof.Machine.execTresumeNext a pd s
  | .tkill a pd => Sys2Proof.Machine.execTkill a pd s
  | .xlinvVa a b => Sys2Proof.Machine.execXlinvVa a b s
  | .xlinvAs a => Sys2Proof.Machine.execXlinvAs a s
  | .xlinvAll => Sys2Proof.Machine.execXlinvAll s
  | .xlsync => Sys2Proof.Machine.execXlsync s
  | .ckptTake a pd => Sys2Proof.Machine.execCkptTake a pd s
  | .ckptRoll a pd => Sys2Proof.Machine.execCkptRoll a pd s
  | .ckptStat d a pd => Sys2Proof.Machine.execCkptStat d a pd s
  | .bflipHost a pd => Sys2Proof.Machine.execBflipHost a pd s
  | .bflipDev a pd => Sys2Proof.Machine.execBflipDev a pd s
  | .bflipRd d a => Sys2Proof.Machine.execBflipRd d a s
  | .keyldInst d a b pd => Sys2Proof.Machine.execKeyldInst d a b pd s
  | .keyldClr a pd => Sys2Proof.Machine.execKeyldClr a pd s
  | .keyldStat d a pd => Sys2Proof.Machine.execKeyldStat d a pd s
  | .energyRd d a pd => Sys2Proof.Machine.execEnergyRd d a pd s
  | .energySet a b pd => Sys2Proof.Machine.execEnergySet a b pd s
  | .gauge d a pd => Sys2Proof.Machine.execGauge d a pd s
  | .scopt d a b pd => Sys2Proof.Machine.execScopt d a b pd s
  | .scoptCnt d a => Sys2Proof.Machine.execScoptCnt d a s
  | .partctlCreate d a pd => Sys2Proof.Machine.execPartctlCreate d a pd s
  | .partctlDestroy a pd => Sys2Proof.Machine.execPartctlDestroy a pd s
  | .partctlStat d a => Sys2Proof.Machine.execPartctlStat d a s
  | .lineRefetch core slot => Sys2Proof.Machine.execLineRefetch core slot s
  | .fetchLineArrival core slot => Sys2Proof.Machine.execFetchLineArrival core slot s
  | .slotTurn core => Sys2Proof.Machine.execSlotTurn core s
  | .threadFirstFetch core slot => Sys2Proof.Machine.execThreadFirstFetch core slot s
  | .loadReplyArrival id => Sys2Proof.Machine.execLoadReplyArrival id s
  | .wakeNotice id => Sys2Proof.Machine.execWakeNotice id s
  | .parkDeadline core slot => Sys2Proof.Machine.execParkDeadline core slot s
  | .yieldExpiry core slot => Sys2Proof.Machine.execYieldExpiry core slot s
  | .plainLoadAtHome id => Sys2Proof.Machine.execPlainLoadAtHome id s
  | .writeBackAtHome id => Sys2Proof.Machine.execWriteBackAtHome id s
  | .atomicAtHome id => Sys2Proof.Machine.execAtomicAtHome id s
  | .amoAckArrival id => Sys2Proof.Machine.execAmoAckArrival id s
  | .releaseAtHome id => Sys2Proof.Machine.execReleaseAtHome id s
  | .releaseAckArrival id => Sys2Proof.Machine.execReleaseAckArrival id s
  | .orderedReadAtHome id => Sys2Proof.Machine.execOrderedReadAtHome id s
  | .drainRequest id => Sys2Proof.Machine.execDrainRequest id s
  | .drainAckAtHome id => Sys2Proof.Machine.execDrainAckAtHome id s
  | .fold core => Sys2Proof.Machine.execFold core s
  | .foldEnd core => Sys2Proof.Machine.execFoldEnd core s
  | .llcEvictionDrain dom line => Sys2Proof.Machine.execLlcEvictionDrain dom line s
  | .barwArrivalAtHome id => Sys2Proof.Machine.execBarwArrivalAtHome id s
  | .waitvReread id => Sys2Proof.Machine.execWaitvReread id s
  | .joinCounterUpdate id => Sys2Proof.Machine.execJoinCounterUpdate id s
  | .switchCombine reqs => Sys2Proof.Machine.execSwitchCombine reqs s
  | .arriveAtHome id => Sys2Proof.Machine.execArriveAtHome id s
  | .departAtHome id => Sys2Proof.Machine.execDepartAtHome id s
  | .ageSeal dom ent => Sys2Proof.Machine.execAgeSeal dom ent s
  | .closedEntryInvalidate dom ent => Sys2Proof.Machine.execClosedEntryInvalidate dom ent s
  | .stealRound core slot => Sys2Proof.Machine.execStealRound core slot s
  | .stealRequest id => Sys2Proof.Machine.execStealRequest id s
  | .stealAnswer id => Sys2Proof.Machine.execStealAnswer id s
  | .messageDelivery core target => Sys2Proof.Machine.execMessageDelivery core target s
  | .messageRetry core target => Sys2Proof.Machine.execMessageRetry core target s
  | .handlerStart core => Sys2Proof.Machine.execHandlerStart core s
  | .streamElementFetch core gen => Sys2Proof.Machine.execStreamElementFetch core gen s
  | .streamPushWrite core gen => Sys2Proof.Machine.execStreamPushWrite core gen s
  | .vectorOpComplete core seq => Sys2Proof.Machine.execVectorOpComplete core seq s
  | .vectorStageFree core => Sys2Proof.Machine.execVectorStageFree core s
  | .cubeDispatch core => Sys2Proof.Machine.execCubeDispatch core s
  | .cubePassEnd core => Sys2Proof.Machine.execCubePassEnd core s
  | .cubeCommandComplete core => Sys2Proof.Machine.execCubeCommandComplete core s
  | .cubeDataError core stream => Sys2Proof.Machine.execCubeDataError core stream s
  | .lateFaultDelivery core slot => Sys2Proof.Machine.execLateFaultDelivery core slot s
  | .supervisorRestart core => Sys2Proof.Machine.execSupervisorRestart core s
  | .copyPacketAccept core => Sys2Proof.Machine.execCopyPacketAccept core s
  | .copyPageBoundary core => Sys2Proof.Machine.execCopyPageBoundary core s
  | .copyComplete core => Sys2Proof.Machine.execCopyComplete core s
  | .copyError core => Sys2Proof.Machine.execCopyError core s
  | .xlinvReceipt inv unit => Sys2Proof.Machine.execXlinvReceipt inv unit s
  | .xlinvAckArrival inv unit => Sys2Proof.Machine.execXlinvAckArrival inv unit s
  | .launchPacketTake dom queue => Sys2Proof.Machine.execLaunchPacketTake dom queue s
  | .dependenceReread dom queue => Sys2Proof.Machine.execDependenceReread dom queue s
  | .weirAdmit dom => Sys2Proof.Machine.execWeirAdmit dom s
  | .entryStart dom serial => Sys2Proof.Machine.execEntryStart dom serial s
  | .preempt dom => Sys2Proof.Machine.execPreempt dom s
  | .quantumExpiry core => Sys2Proof.Machine.execQuantumExpiry core s
  | .threadEvict core slot => Sys2Proof.Machine.execThreadEvict core slot s
  | .coreSaveEnd core serial => Sys2Proof.Machine.execCoreSaveEnd core serial s
  | .contextRestore dom => Sys2Proof.Machine.execContextRestore dom s
  | .launchComplete dom serial => Sys2Proof.Machine.execLaunchComplete dom serial s
  | .checkpoint dom serial => Sys2Proof.Machine.execCheckpoint dom serial s
  | .rollback dom serial => Sys2Proof.Machine.execRollback dom serial s
  | .contextTerminate dom serial => Sys2Proof.Machine.execContextTerminate dom serial s
  | .energyIntervalEnd dom charges own => Sys2Proof.Machine.execEnergyIntervalEnd dom charges own s
  | .rds dom agent pa => Sys2Proof.Machine.execRds dom agent pa s
  | .rdo dom agent pa => Sys2Proof.Machine.execRdo dom agent pa s
  | .wrb dom agent pa mask data => Sys2Proof.Machine.execWrb dom agent pa mask data s
  | .evn dom agent pa => Sys2Proof.Machine.execEvn dom agent pa s
  | .invalidationAck dom agent pa mask data => Sys2Proof.Machine.execInvalidationAck dom agent pa mask data s
  | .entryMerge dom pa => Sys2Proof.Machine.execEntryMerge dom pa s
  | .directoryUe dom pa => Sys2Proof.Machine.execDirectoryUe dom pa s
  | .hostRequest dom pa kind mask data => Sys2Proof.Machine.execHostRequest dom pa kind mask data s
  | .backInvalidateResponse dom pa mask data => Sys2Proof.Machine.execBackInvalidateResponse dom pa mask data s
  | .window0Access fn off write size data => Sys2Proof.Machine.execWindow0Access fn off write size data s
  | .mringRequest fn queue header prio lvl => Sys2Proof.Machine.execMringRequest fn queue header prio lvl s
  | .window2Access fn off write size data => Sys2Proof.Machine.execWindow2Access fn off write size data s
  | .flitReplay port ok => Sys2Proof.Machine.execFlitReplay port ok s
  | .peerUnreachable id => Sys2Proof.Machine.execPeerUnreachable id s
  | .deviceReset start result => Sys2Proof.Machine.execDeviceReset start result s
  | .gaugeSave => Sys2Proof.Machine.execGaugeSave s
  | .correctableError kind inst => Sys2Proof.Machine.execCorrectableError kind inst s
  | .ueCleanData kind unit addr => Sys2Proof.Machine.execUeCleanData kind unit addr s
  | .uePoison kind unit addr => Sys2Proof.Machine.execUePoison kind unit addr s
  | .ueStateMachineCheck dom serial core => Sys2Proof.Machine.execUeStateMachineCheck dom serial core s
  | .keyDeliveryRequest endpoint session head kid meas nchunk sealed => Sys2Proof.Machine.execKeyDeliveryRequest endpoint session head kid meas nchunk sealed s
  | .spdmSessionEnd endpoint session => Sys2Proof.Machine.execSpdmSessionEnd endpoint session s
  | .hostSnoop addr inval => Sys2Proof.Machine.execHostSnoop addr inval s
  | .replicaDrop dom line cluster => Sys2Proof.Machine.execReplicaDrop dom line cluster s
  | .tlbEntryDrop kind unit idx => Sys2Proof.Machine.execTlbEntryDrop kind unit idx s
  | .spdmRequest endpoint code arg => Sys2Proof.Machine.execSpdmRequest endpoint code arg s
  | .gaugeMctpRead idx => Sys2Proof.Machine.execGaugeMctpRead idx s
  | .supplyDroop die => Sys2Proof.Machine.execSupplyDroop die s
  | .temperatureSecond bins => Sys2Proof.Machine.execTemperatureSecond bins s
  | .lossOfPower => Sys2Proof.Machine.execLossOfPower s

end Sys2Proof.Machine
end

