-- ==== Sys2Proof/Machine/Issue.lean ====
section
/-! DEFINITION. The issue of a bundle: guards, illegal slots, the vector engine's hazards, and pairs as a single
step (R27, R28, R30, R40, R41, R103, R106, R126, R181). -/
namespace Sys2Proof.Machine

/-! ### Registers an instruction names beside x and q registers (R181) -/

/-- f and p registers an instruction reads and writes, stream registers included; p0 is none. -/
structure Uses where
  rf : BitVec 32
  wf : BitVec 32
  rp : BitVec 8
  wp : BitVec 8
  deriving DecidableEq, Repr

/-- No f and no p register. -/
def Uses.none : Uses := ⟨0, 0, 0, 0⟩
def fBit (r : BitVec 5) : BitVec 32 := 1#32 <<< r.toNat
def pBit (r : BitVec 3) : BitVec 8 := if r = 0#3 then 0#8 else 1#8 <<< r.toNat

/-- The f and p registers of an instruction. -/
def usesOf : Instr → Uses
  | .nop | .brk _ | .svc _ | .trap _ _ _ _ | .ill | .mfs _ _ | .mfsFpsr _ | .mts _ _ | .mtsFpcr _ | .mtsFpsr _
  | .mtsPriv _ | .mtsRseq _ | .ifence | .rand _ | .randR16 _ | .add _ _ _ _ | .sub _ _ _ _ | .mul _ _ _ _
  | .mulh _ _ _ _ | .div _ _ _ _ | .rem _ _ _ _ | .and _ _ _ _ | .or _ _ _ _ | .xor _ _ _ _ | .andn _ _ _ _
  | .min _ _ _ _ | .max _ _ _ _ => Uses.none
  | .sel _ _ _ c _ => { Uses.none with rp := pBit (c.setWidth 3) }
  | .madd _ _ _ _ _ | .adds _ _ _ _ _ | .absd _ _ _ _ | .addi _ _ _ _ | .muli _ _ _ _ | .andi _ _ _ _
  | .ori _ _ _ _ | .xori _ _ _ _ | .ldi _ _ _ | .lea _ _ _ | .sll _ _ _ _ | .srl _ _ _ _ | .sra _ _ _ _
  | .slli _ _ _ _ | .srli _ _ _ _ | .srai _ _ _ _ | .rot _ _ _ _ | .clz _ _ _ | .ctz _ _ _ | .popc _ _ _
  | .brev _ _ _ | .bfx _ _ _ _ _ | .bfi _ _ _ _ _ | .xfold _ _ _ _ => Uses.none
  | .cmp _ d _ _ _ | .cmpi _ d _ _ _ => { Uses.none with wp := pBit (d.setWidth 3) }
  | .plog _ d a b => { Uses.none with rp := pBit (a.setWidth 3) ||| pBit (b.setWidth 3), wp := pBit (d.setWidth 3) }
  | .pmovTox _ => { Uses.none with rp := 0xFE#8 }
  | .pmovFromx _ => { Uses.none with wp := 0xFE#8 }
  | .pmovNz d _ => { Uses.none with wp := pBit (d.setWidth 3) }
  | .br _ _ | .call _ _ | .callR _ | .ret _ | .jmp _ | .loop _ _ _ | .brz _ _ _ _ | .brcmp _ _ _ _ _
  | .ld _ _ _ _ _ _ _ _ _ _ | .st _ _ _ _ _ _ _ _ _ => Uses.none
  | .ldf d _ _ _ _ _ _ _ _ => { Uses.none with wf := fBit (d.setWidth 5) }
  | .stf d _ _ _ _ _ _ _ _ => { Uses.none with rf := fBit (d.setWidth 5) }
  | .ldp _ _ _ _ _ _ _ _ _ | .stp _ _ _ _ _ _ _ _ _ | .ldb _ _ _ _ _ _ _ _ | .stb _ _ _ _ _ _ _ | .prefL1 _ _ _ _ _
  | .prefL2 _ _ _ _ _ | .drain | .drainL _ _ _ _ | .amoAdd _ _ _ _ _ _ _ | .amoAnd _ _ _ _ _ _ _
  | .amoOr _ _ _ _ _ _ _ | .amoXor _ _ _ _ _ _ _ | .amoSmin _ _ _ _ _ _ _ | .amoSmax _ _ _ _ _ _ _
  | .amoUmin _ _ _ _ _ _ _ | .amoUmax _ _ _ _ _ _ _ | .amoSwap _ _ _ _ _ _ _ | .cas _ _ _ _ _ _ _ => Uses.none
  | .amofAdd d _ idx _ _ _ _ | .amofMin d _ idx _ _ _ _ | .amofMax d _ idx _ _ _ _ =>
    { Uses.none with rf := fBit (idx.setWidth 5), wf := fBit (d.setWidth 5) }
  | .fence _ _ | .barw _ _ _ _ _ _ _ _ | .waitv _ _ _ _ _ _ _ _ => Uses.none
  | .fork _ _ pd _ _ | .forkJ _ _ _ pd _ _ => { Uses.none with wp := pBit pd }
  | .join _ | .retire | .retireJ _ | .yield _ | .park _ | .parkRel _ | .send _ _ | .waitf _ _ _ _ _ _
  | .waitfE _ _ _ _ _ _ | .fill _ _ _ _ _ _ | .empty _ _ _ _ _ => Uses.none
  | .dqpush _ pd | .dqpop _ pd | .dqsplit _ pd _ _ | .dqsteal _ pd | .dqstealAt _ _ pd =>
    { Uses.none with wp := pBit pd }
  | .dqrun => Uses.none
  | .launch _ _ _ pd => { Uses.none with wp := pBit pd }
  | .lwait _ _ => Uses.none
  | .qalloc pd _ => { Uses.none with wp := pBit pd }
  | .qfree _ => Uses.none
  | .qlogAnd _ _ _ pd | .qlogOr _ _ _ pd | .qlogXor _ _ _ pd | .qlogAndn _ _ _ pd | .qlogCopy _ _ pd
  | .qlogClear _ pd | .qlogFull _ pd | .qlogNot _ _ pd | .qbitSet _ _ pd | .qbitClr _ _ pd | .qpop _ _ pd
  | .qcnt _ _ pd | .qtest _ _ pd | .qeqEmpty _ pd | .qeqEq _ _ pd | .qeqSub _ _ pd | .qeqDisj _ _ pd =>
    { Uses.none with wp := pBit pd }
  | .qaddr _ _ | .qaddrQn _ _ | .qwin _ _ => Uses.none
  | .qmask _ _ pd imm => { Uses.none with rf := fBit (imm.setWidth 5), wp := pBit pd }
  | .qsplit _ _ _ pd _ => { Uses.none with wp := pBit pd }
  | .qmovTox _ _ | .qmovFromx _ _ | .qmovLd _ _ _ | .qmovSt _ _ _ => Uses.none
  | .arrive _ _ _ pd | .depart _ _ _ pd | .departW _ _ _ pd | .qfork _ _ _ pd _ => { Uses.none with wp := pBit pd }
  | .scfg fs _ _ _ _ _ _ pd | .scfgm fs _ _ _ _ pd => { Uses.none with wf := fBit fs, wp := pBit pd }
  | .sen mask | .sdis mask | .swait mask => { Uses.none with rf := mask.setWidth 32 }
  | .vadd fd fa fb _ _ _ | .vsub fd fa fb _ _ _ | .vmul fd fa fb _ _ _ =>
    { Uses.none with rf := fBit fa ||| fBit fb, wf := fBit fd }
  | .vfma fd fa fb fc _ _ _ | .vfmaMs fd fa fb fc _ _ _ | .vfmaNma fd fa fb fc _ _ _ | .vfmaNms fd fa fb fc _ _ _ =>
    { Uses.none with rf := fBit fa ||| fBit fb ||| fBit fc, wf := fBit fd }
  | .vmin fd fa fb _ _ | .vmax fd fa fb _ _ | .vsgnCpy fd fa fb _ _ | .vsgnNeg fd fa fb _ _ | .vsgnXor fd fa fb _ _ =>
    { Uses.none with rf := fBit fa ||| fBit fb, wf := fBit fd }
  | .vcmp _ fd fa fb _ pd _ imm =>
    { Uses.none with rf := fBit fa ||| fBit fb, wf := (if imm.getLsbD 0 then fBit fd else 0#32), wp := pBit pd }
  | .vsel fd fa fb fc _ _ => { Uses.none with rf := fBit fa ||| fBit fb ||| fBit fc, wf := fBit fd }
  | .vdiv fd fa fb _ _ _ => { Uses.none with rf := fBit fa ||| fBit fb, wf := fBit fd }
  | .vsqrt fd fa _ _ | .vredSum fd fa _ _ | .vredMin fd fa _ _ | .vredMax fd fa _ _ =>
    { Uses.none with rf := fBit fa, wf := fBit fd }
  | .vdot fd fa fb _ _ _ => { Uses.none with rf := fBit fa ||| fBit fb, wf := fBit fd }
  | .vmov fd fa _ | .vsclI fd fa _ _ _ => { Uses.none with rf := fBit fa, wf := fBit fd }
  | .vsclE fd fa fb _ _ _ => { Uses.none with rf := fBit fa ||| fBit fb, wf := fBit fd }
  | .vcls fd fa _ pd _ => { Uses.none with rf := fBit fa, wf := fBit fd, wp := pBit pd }
  | .vexp fd fa _ | .vlog fd fa _ | .vrcp fd fa _ | .vrsq fd fa _ | .vsinpi fd fa _ | .vcospi fd fa _
  | .vtanh fd fa _ => { Uses.none with rf := fBit fa, wf := fBit fd }
  | .viaddAdd fd fa fb _ _ | .viaddSub fd fa fb _ _ | .viaddAdds fd fa fb _ _ | .viaddSubs fd fa fb _ _
  | .viaddMin fd fa fb _ _ | .viaddMax fd fa fb _ _ | .viaddAbsd fd fa fb _ _ | .vimulLo fd fa fb _ _
  | .vimulHi fd fa fb _ _ | .vimulHiu fd fa fb _ _ | .vlogicAnd fd fa fb _ _ | .vlogicOr fd fa fb _ _
  | .vlogicXor fd fa fb _ _ | .vlogicAndn fd fa fb _ _ => { Uses.none with rf := fBit fa ||| fBit fb, wf := fBit fd }
  | .vlogicNot fd fa _ => { Uses.none with rf := fBit fa, wf := fBit fd }
  | .vshfSll fd fa fb _ _ | .vshfSrl fd fa fb _ _ | .vshfSra fd fa fb _ _ | .vshfRot fd fa fb _ _ =>
    { Uses.none with rf := fBit fa ||| fBit fb, wf := fBit fd }
  | .cvt _ fd fa _ _ _ | .cvti _ fd fa _ _ _ => { Uses.none with rf := fBit fa, wf := fBit fd }
  | .pack _ fd fa fb _ _ _ => { Uses.none with rf := fBit fa ||| fBit fb, wf := fBit fd }
  | .packStrm _ fd fa _ _ _ | .unpk _ fd fa _ _ _ | .unpkHi _ fd fa _ _ _ | .unpkStrm _ fd fa _ _ _
  | .plane fd fa _ | .unplane fd fa _ => { Uses.none with rf := fBit fa, wf := fBit fd }
  | .spack fd fa fb _ pd => { Uses.none with rf := fBit fa ||| fBit fb, wf := fBit fd, wp := pBit pd }
  | .spackChk fd fa _ pd | .nfscan fd fa _ pd => { Uses.none with rf := fBit fa, wf := fBit fd, wp := pBit pd }
  | .cclaim d => { Uses.none with wp := pBit (d.setWidth 3) }
  | .crel | .ccfg _ | .cmul _ _ _ _ _ _ _ _ | .cprom _ _ _ _ _ _ | .czero _ _ | .cstat _ | .cstatClr _
  | .cwait _ | .cstorAcc _ _ _ | .cstorL0 _ _ _ | .cstorL1 _ _ _ | .cstorCnt _ _ _ | .cloadAcc _ _ _
  | .cloadL0 _ _ _ | .cloadL1 _ _ _ | .cloadCnt _ _ _ | .cring _ _ | .cretry _ _ => Uses.none
  | .cqput _ _ _ pd => { Uses.none with wp := pBit pd }
  | .hstat _ _ | .hwait _ _ _ => Uses.none
  | .hsetDrn _ pd | .hsetFree _ pd | .halloc _ _ _ pd | .hfree _ pd | .cqinitBind _ _ pd | .cqinitUnb _ pd =>
    { Uses.none with wp := pBit pd }
  | .trecv _ => Uses.none
  | .trecvTry _ pd | .tread _ _ _ pd _ | .twrite _ _ _ pd _ | .tresume _ pd | .tresumeNext _ pd | .tkill _ pd =>
    { Uses.none with wp := pBit pd }
  | .xlinvVa _ _ | .xlinvAs _ | .xlinvAll | .xlsync => Uses.none
  | .ckptTake _ pd | .ckptRoll _ pd | .ckptStat _ _ pd | .bflipHost _ pd | .bflipDev _ pd =>
    { Uses.none with wp := pBit pd }
  | .bflipRd _ _ => Uses.none
  | .keyldInst _ _ _ pd | .keyldClr _ pd | .keyldStat _ _ pd | .energyRd _ _ pd | .energySet _ _ pd | .gauge _ _ pd
  | .scopt _ _ _ pd => { Uses.none with wp := pBit pd }
  | .scoptCnt _ _ => Uses.none
  | .partctlCreate _ _ pd | .partctlDestroy _ pd => { Uses.none with wp := pBit pd }
  | .partctlStat _ _ | .lineRefetch _ _ | .fetchLineArrival _ _ | .slotTurn _ | .threadFirstFetch _ _
  | .loadReplyArrival _ | .wakeNotice _ | .parkDeadline _ _ | .yieldExpiry _ _ | .plainLoadAtHome _
  | .writeBackAtHome _ | .atomicAtHome _ | .amoAckArrival _ | .releaseAtHome _ | .releaseAckArrival _
  | .orderedReadAtHome _ | .drainRequest _ | .drainAckAtHome _ | .fold _ | .foldEnd _ | .llcEvictionDrain _ _
  | .barwArrivalAtHome _ | .waitvReread _ | .joinCounterUpdate _ | .switchCombine _ | .arriveAtHome _
  | .departAtHome _ | .ageSeal _ _ | .closedEntryInvalidate _ _ | .stealRound _ _ | .stealRequest _
  | .stealAnswer _ | .messageDelivery _ _ | .messageRetry _ _ | .handlerStart _ | .streamElementFetch _ _
  | .streamPushWrite _ _ | .vectorOpComplete _ _ | .vectorStageFree _ | .cubeDispatch _ | .cubePassEnd _
  | .cubeCommandComplete _ | .cubeDataError _ _ | .lateFaultDelivery _ _ | .supervisorRestart _
  | .copyPacketAccept _ | .copyPageBoundary _ | .copyComplete _ | .copyError _ | .xlinvReceipt _ _
  | .xlinvAckArrival _ _ | .launchPacketTake _ _ | .dependenceReread _ _ | .weirAdmit _ | .entryStart _ _
  | .preempt _ | .quantumExpiry _ | .threadEvict _ _ | .coreSaveEnd _ _ | .contextRestore _ | .launchComplete _ _
  | .checkpoint _ _ | .rollback _ _ | .contextTerminate _ _ | .energyIntervalEnd _ _ _ | .rds _ _ _ | .rdo _ _ _
  | .wrb _ _ _ _ _ | .evn _ _ _ | .invalidationAck _ _ _ _ _ | .entryMerge _ _ | .directoryUe _ _
  | .hostRequest _ _ _ _ _ | .backInvalidateResponse _ _ _ _ | .window0Access _ _ _ _ _ | .mringRequest _ _ _ _ _
  | .window2Access _ _ _ _ _ | .flitReplay _ _ | .peerUnreachable _ | .deviceReset _ _ | .gaugeSave
  | .correctableError _ _ | .ueCleanData _ _ _ | .uePoison _ _ _ | .ueStateMachineCheck _ _ _
  | .keyDeliveryRequest _ _ _ _ _ _ _ | .spdmSessionEnd _ _ | .hostSnoop _ _ | .replicaDrop _ _ _
  | .tlbEntryDrop _ _ _ | .spdmRequest _ _ _ | .gaugeMctpRead _ | .supplyDroop _ | .temperatureSecond _
  | .lossOfPower => Uses.none

/-- An operation in flight keeps a bundle with these uses from issuing (R181). -/
def VecOp.blocks (o : VecOp) (u : Uses) : Bool :=
  ((u.rf ||| u.wf) &&& (o.writesF ||| o.streams.setWidth 32)) != 0 || (u.wf &&& o.readsF) != 0 ||
    ((u.rp ||| u.wp) &&& o.writesP) != 0

/-- Whether an operation of the issuing thread in flight keeps the bundle from issuing (R181). -/
def State.vecBlocks (s : State) (u : Uses) : Bool :=
  s.curCore.vec.ops.any fun o => o.slot == s.iss.slot && o.gen == s.cur.gen && o.blocks u

/-! ### Halves -/

/-- What a slot holds for a thread: guarded off, illegal, or an instruction to run (R30, R40). -/
inductive Half where
  | off
  | illegal
  | run (i : Instr)
  deriving DecidableEq, Repr

/-- The guard of a slot holds (R30). -/
def guardOn (t : Thread) (w : Slot) : Bool := t.getP (slotGuard w).pred != (slotGuard w).neg

/-- The instruction of a slot whose guard has held. -/
noncomputable def openHalf (w : Slot) : Half :=
  match decodeSlot w with
  | .ok i => .run i
  | .error _ => .illegal

/-- Read a slot (R30, R40): opcode 0xFF is illegal whatever its guard. -/
noncomputable def readHalf (t : Thread) (w : Slot) : Half :=
  if slotOpc w = 0xFF#8 then .illegal
  else if guardOn t w then openHalf w
  else .off

/-- The registers a half names, with the predicate of its guard. -/
def Half.uses (h : Half) : Uses :=
  match h with
  | .run i => usesOf i
  | _ => Uses.none

/-- Run a half; one that is off has no effect (R30). -/
def Half.exec (ex : Instr → State → Out) (h : Half) (s : State) : Out :=
  match h with
  | .run i => ex i s
  | _ => .next s

/-- The bundle may not issue this turn: the thread stays where it is. -/
def State.lostTurn (s : State) : Out := .next s

/-- The thread's PC moves past the bundle, and a handler counts it (R27, R29, R126). -/
def State.beginIssue (s : State) : State :=
  s.modCur fun t => { t with pc := s.iss.npc, lastPc := s.iss.pc, count := t.count + 1, xfer := false }

/-- The bundle did not issue: what counts issued bundles stands as before. -/
def State.unIssue (s : State) (t0 : Thread) : State :=
  s.modCur fun t => { t with lastPc := t0.lastPc, count := t0.count }

/-- The thread of the issue still stands in its slot. -/
def State.curAlive (s : State) (g : Nat) : Bool := (s.thread? s.iss.core s.iss.slot).any fun t => t.gen == g

/-- The MTS of an I half takes effect after the V half (R103). An MTS to FPSR of a pair does not undo the flags of the V half:
the engine ORs them in when the operation completes, which is after the MTS; R71 does not speak of the pair: DESIGN CHOICE
(log 68). -/
def State.applyMts (s : State) : State :=
  match s.iss.mts with
  | none => s
  | some (i, v) => s.modCur fun t => t.setSreg i v

/-- The bundle has issued: its progress notes are done, and the MTS of a pair takes effect. -/
def State.issuedEnd (s : State) (g : Nat) : State :=
  if s.curAlive g then s.applyMts.modCur fun t => { t with prog := none } else s

/-- What an issue leaves: a lost turn or a trap leaves the counts of issued bundles as they were. -/
def State.settle (s : State) (t0 : Thread) : State :=
  match s.iss.st with
  | .issued => s.issuedEnd t0.gen
  | _ => s.unIssue t0

/-- A V half that issues by itself: it waits for its parked I half, or for an access of its operands (R28, R181, logs 12,
66). -/
def State.deferV (s : State) (raw : Slot) (f : Vector Word 32) : State :=
  s.modCur fun t => { t with pendV := some ⟨raw, s.iss.pc, s.iss.npc, f⟩ }

/-- The I half waits for a reply with its PC already past the pair. -/
def State.waitsForReply (s : State) (g : Nat) : Bool :=
  s.curAlive g && (s.cur.awaits.isSome || match s.cur.st with
    | .parked _ => s.cur.pc != s.iss.pc
    | _ => false)

/-- The bundle is parked or waits where it stands and runs again. -/
def State.parkedHere (s : State) (g : Nat) : Bool :=
  s.curAlive g && match s.cur.st with
    | .parked _ => s.cur.pc == s.iss.pc
    | _ => false

/-- Run a single bundle. -/
noncomputable def runSingle (ex : Instr → State → Out) (h : Half) (s : State) : Out :=
  let t0 := s.cur
  match h.exec ex s.beginIssue with
  | .next s' => .next (s'.settle t0)
  | o => o

/-- The pair has done nothing, but for what the V half asks the homes for: it runs again. -/
def State.pairAgain (s s' : State) (t0 : Thread) : State := ((s.asked s').loseTurn).unIssue t0

/-- Run a pair as a single step (R28): both halves read before either writes, the I half pops first, the V half's
writes win, a transfer of the I half takes effect after the V half, and a half that does not issue leaves the pair
where it stands. A V half whose operands must wait has issued and waits in the engine (R181): it follows by itself, but for
an I half whose MTS comes after it. An I half that ends its thread ends it after the V half. -/
noncomputable def runPair (ex : Instr → State → Out) (hi hv : Half) (rawV : Slot) (s : State) : Out :=
  let t0 := s.cur
  match hi.exec ex s.beginIssue with
  | .next s1 =>
    if s1.iss.st ≠ .issued then .next (s1.unIssue t0)
    else if s1.parkedHere t0.gen then .next (s1.settle t0)
    else if s1.waitsForReply t0.gen then
      .next ((if hv = .off then s1 else s1.deferV rawV t0.f).settle t0)
    else if s1.curAlive t0.gen then
      match hv.exec ex { s1 with iss := { s1.iss with shadow := some t0.f, raw := rawV } } with
      | .next s2 =>
        .next (if s2.iss.st = .issued then s2.settle t0
          else if s1.iss.mts.isSome then s.pairAgain s2 t0
          else ((s1.asked s2).deferV rawV t0.f).settle t0)
      | o => o
    else
      match hv.exec ex { s.beginIssue with iss := { s.iss with raw := rawV } } with
      | .next s2 => if s2.iss.st = .issued then hi.exec ex s2 else .next (s.pairAgain s2 t0)
      | o => o
  | o => o

/-- A V half that issues by itself moves no PC; it stays while its operands wait. -/
noncomputable def runAlone (ex : Instr → State → Out) (h : Half) (w : Slot) (s : State) : Out :=
  let g := s.cur.gen
  match h.exec ex { s with iss := { s.iss with raw := w } } with
  | .next s' =>
    .next (if s'.iss.st ≠ .issued then s.asked s'
      else if s'.curAlive g then s'.modCur fun t => { t with pendV := none } else s')
  | o => o

/-- Issue a fetched bundle: the handler's count (R126), guards, illegal slots (R40), hazards and the busy input stage
(R108, R181), then the halves. A V half that issues by itself has had its guard read with its I half (R28). -/
noncomputable def issueBundle (ex : Instr → State → Out) (l : Latch) (s : State) : Out :=
  let s : State := { s with
    latch := none
    iss := { core := l.core, slot := l.slot, pc := l.pc, npc := l.npc, pair := l.pair, raw := l.halves.headD 0,
             shadow := l.shadow, st := .issued, mts := none } }
  let t := s.cur
  let alone := l.shadow.isSome
  let guards : Uses := { Uses.none with
    rp := if alone then 0#8 else l.halves.foldl (fun m w => m ||| pBit (slotGuard w).pred) 0#8 }
  let hs := l.halves.map fun w => if alone then openHalf w else readHalf t w
  let isV := (l.halves.zip hs).any fun p => classV (slotOpc p.1) && p.2 != .off
  if l.slot = 14 ∧ 256 ≤ t.count ∧ !alone then .next (s.takeTrap .handlerOverrun 0 256)
  else if s.vecBlocks guards then s.lostTurn
  else if hs.any fun h => h == .illegal then .next (s.takeTrap .illegalInstruction 0 0)
  else if hs.any fun h => s.vecBlocks h.uses then s.lostTurn
  else if isV && s.curCore.vec.stage.isSome then s.lostTurn
  else
    match l.halves, hs with
    | [w], [h] =>
      if alone then runAlone ex h w s else runSingle ex h s
    | [_, w], [hi, hv] => runPair ex hi hv w s
    | _, _ => .next s

/-- Issue a bundle, and end the core's cycle (R106). -/
noncomputable def runBundle (ex : Instr → State → Out) (l : Latch) (s : State) : Out :=
  match issueBundle ex l s with
  | .next s' => .next (s'.endCycle l.core true)
  | o => o

end Sys2Proof.Machine
end

