-- ==== Sys2Proof/Machine/Sched.lean ====
section
/-! DEFINITION. One step of the machine: the event that the agenda names, or the default one, and the bundle that a turn
latches (log 4). The instruction semantics are a parameter. -/
namespace Sys2Proof.Machine

/-- An instruction of the table that no slot holds is an event of the machine or of its surroundings. -/
def isEvent (i : Instr) : Bool := (encodeParts i).isNone

/-! ### The default event (log 4) -/

/-- What comes next for a request. -/
noncomputable def Msg.events (m : Msg) : List Instr :=
  let home : List Instr :=
    (match m.kind with
    | .load _ _ _ => [.plainLoadAtHome m.id]
    | .store => [.writeBackAtHome m.id]
    | .writeBack => [.writeBackAtHome m.id]
    | .atomic _ _ => [.atomicAtHome m.id]
    | .claim _ _ _ _ => [.atomicAtHome m.id]
    | .release => [.releaseAtHome m.id]
    | .read => [.orderedReadAtHome m.id]
    | .join => [.orderedReadAtHome m.id]
    | .lwait => [.orderedReadAtHome m.id]
    | .waitv _ _ => [.orderedReadAtHome m.id]
    | .barw => [.barwArrivalAtHome m.id, .waitvReread m.id]
    | .counter _ => [.joinCounterUpdate m.id]
    | .arrive _ _ _ => [.arriveAtHome m.id]
    | .depart _ _ _ => [.departAtHome m.id]
    | .drain _ _ _ => [.drainRequest m.id]
    | .steal _ _ _ => [.stealRequest m.id]) ++ [.peerUnreachable m.id]
  match m.st with
  | .sent => home
  | .combined => home
  | .poked => [.waitvReread m.id, .wakeNotice m.id]
  | .replied => [.loadReplyArrival m.id, .amoAckArrival m.id, .releaseAckArrival m.id, .drainAckAtHome m.id, .stealAnswer m.id]
  | _ => []

/-- What may happen at a core apart from its turns. -/
noncomputable def Core.events (k : Core) (c : Nat) : List Instr :=
  (k.vec.ops.map fun o => .vectorOpComplete c o.seq) ++
  [.vectorStageFree c, .cubePassEnd c, .cubeCommandComplete c, .cubeDispatch c, .supervisorRestart c, .handlerStart c,
    .copyError c, .copyComplete c, .copyPageBoundary c, .copyPacketAccept c] ++
  (k.gens.flatMap fun g => [.streamPushWrite c g.1, .streamElementFetch c g.1]) ++
  (k.slots.flatMap fun e => [.fetchLineArrival c e.1, .lineRefetch c e.1, .stealRound c e.1, .threadEvict c e.1]) ++
  k.outq.flatMap fun m => [.messageDelivery c m.target, .messageRetry c m.target]

/-- What may happen in a partition: its tables, launch unit and scheduler, and recalls from its own L2. -/
noncomputable def Dom.events (v : Dom) (d : Nat) : List Instr :=
  (v.conf.map fun e => .ageSeal d e.id) ++
  (v.pend.filterMap fun p => if p.agents.contains 0 then some (.invalidationAck d 0 (p.line * 128) 0 0) else none) ++
  [.energyIntervalEnd d [] 0] ++
  (v.launches.flatMap fun e => [.entryStart d e.1, .launchComplete d e.1, .checkpoint d e.1, .rollback d e.1,
    .contextTerminate d e.1] ++ e.2.cores.map fun c => .coreSaveEnd c e.1) ++
  (v.heads.map fun h => .dependenceReread d h.1) ++
  [.weirAdmit d, .preempt d, .contextRestore d] ++ (List.range 64).map fun q => .launchPacketTake d q

/-- Everything that may happen next without the outside world, in the order in which the default takes it. -/
noncomputable def State.events (s : State) : List Instr :=
  (if s.ready then [] else [.deviceReset false (0, 0)]) ++
  (s.net.flatMap Msg.events) ++
  (s.invals.flatMap fun i => (i.todo.map fun u => .xlinvReceipt i.id u) ++ i.acks.map fun a => .xlinvAckArrival i.id a.1) ++
  (s.caches.flatMap fun e => [.fold e.1, .foldEnd e.1]) ++
  (s.cores.flatMap fun e => e.2.events e.1) ++
  (s.doms.flatMap fun e => e.2.llcVictim.toList.map fun l => .llcEvictionDrain e.1 l) ++
  (s.doms.flatMap fun e => if e.1 < 16 then e.2.events e.1 else []) ++
  if s.fwQueue.isSome then [.launchPacketTake Config.firmwareDomain 0] else []

/-- An event changes the state. -/
def acts (ex : Instr → State → Out) (s : State) (i : Instr) : Bool :=
  match ex i s with
  | .next s' => s' != s
  | _ => true

/-- The core whose cycle is the least; core 0 where nothing has run. -/
def State.nextCore (s : State) : Nat :=
  (s.cores.foldl (fun (b : Option (Nat × Nat)) e =>
    match b with
    | none => some (e.1, e.2.cyc)
    | some x => if e.2.cyc < x.2 then some (e.1, e.2.cyc) else b) none).elim 0 (·.1)

/-- The default event: the first that changes the state, else the next turn (log 4). -/
noncomputable def autoEvent (ex : Instr → State → Out) (s : State) : Instr :=
  (s.events.find? (acts ex s)).getD (.slotTurn s.nextCore)

/-! ### The step -/

/-- Run what an event has latched. -/
noncomputable def runLatched (ex : Instr → State → Out) : Out → Out
  | .next s =>
    match s.latch with
    | some l => runBundle ex l s
    | none => .next s
  | o => o

/-- One event, and the bundle it latches in the same step. -/
noncomputable def runEvent (ex : Instr → State → Out) (i : Instr) (s : State) : Out := runLatched ex (ex i s)

/-- One step: the bundle that stands latched, else the first event of the agenda, else the default event. What is no event
has no place on the agenda and is passed over. -/
noncomputable def stepWith (ex : Instr → State → Out) (s : State) : Out :=
  match s.latch with
  | some l => runBundle ex l s
  | none =>
    match s.agenda with
    | i :: rest => if isEvent i then runEvent ex i { s with agenda := rest } else .next { s with agenda := rest }
    | [] => runEvent ex (autoEvent ex s) s

/-! ### Placing one instruction (log 4) -/

/-- A fetch line whose slot 0 holds `w` and may be entered, the other slots empty. -/
def lineOfSlot (w : BitVec 96) : BitVec 512 :=
  let slots : BitVec 480 := w.setWidth 480
  mkLineWord slots 1 0 ++ slots

/-- A thread of device firmware that stands at the line. -/
def firmwareThread (w : BitVec 96) : Thread :=
  { Thread.blank with lvl := 3, dom := Config.firmwareDomain, xfer := false, held := some { va := 0, bits := lineOfSlot w } }

/-- The thread in slot 0 of core 0 that holds the slot `w` next, with its turn first on the agenda. -/
noncomputable def State.placeSlot (s : State) (w : BitVec 96) : State :=
  { (s.setThread 0 0 (firmwareThread w)) with agenda := [.slotTurn 0], latch := none }

end Sys2Proof.Machine
end

