-- ==== Sys2Proof/Machine/Step.lean ====
section
/-! DEFINITION. The step of the machine, and the placing of one instruction for the host. -/
namespace Sys2Proof.Machine

/-- One step (log 4). -/
noncomputable def step (s : State) : Host.Outcome State Fault Refusal := stepWith exec s

/-- `s` with the slot whose bits are `w` where the next step fetches (log 4). -/
noncomputable def State.withFetchWord (s : State) (_nbits w : Nat) : State := s.placeSlot (BitVec.ofNat 96 w)

end Sys2Proof.Machine
end

