-- ==== Sys2Proof/Safety.lean ====
section
/-! DEFINITION. The terms of the statements: a sound state (every byte memory in its canonical form, bring-up as STAT
reports it), what an instruction leaves alone, and what it means that a value is the result of integer arithmetic under W
(R32, R88), written from the rules and not from the operations of the model. -/
namespace Sys2Proof.Machine

/-! ### Sound states -/

/-- Every byte memory of the machine is in its canonical form (log 1): the memory of each domain and the local memory of
each core. -/
def State.memWf (s : State) : Bool :=
  (s.doms.all fun e => Memory.wf e.2.mem) && s.cores.all fun e => Memory.wf e.2.lmem

/-- READY is set only after step 7 (R383). -/
def State.bootWf (s : State) : Bool :=
  decide (1 ≤ s.bootStep ∧ s.bootStep ≤ 7) && (!s.ready || s.bootStep == 7)

/-- A sound state. -/
def State.Sound (s : State) : Prop := s.memWf = true ∧ s.bootWf = true

/-! ### Frames -/

/-- Every byte of memory reads as before: the memory of every domain, the local memory of every core, every copy in an
L1 data cache. -/
def State.SameMemory (s t : State) : Prop :=
  (∀ d a, Memory.get (t.dom d).mem a = Memory.get (s.dom d).mem a) ∧
  (∀ c a, Memory.get (t.core c).lmem a = Memory.get (s.core c).lmem a) ∧ ∀ a, t.cache a = s.cache a

/-- Between `s` and `t` only registers of the issuing thread have changed: of the x, p, f and q registers only those
listed. Its special registers, its program counters and everything outside the thread are as before, every byte of memory
among it. -/
def State.Frame (s t : State) (xs : List (BitVec 6)) (ps : List (BitVec 3)) (fs : List (BitVec 5))
    (qs : List (BitVec 3)) : Prop :=
  (∀ r, r ∉ xs → t.rx r = s.rx r) ∧ (∀ r, r ∉ ps → t.rp r = s.rp r) ∧
  (∀ r, r ∉ fs → t.cur.getF r = s.cur.getF r) ∧ (∀ r, r ∉ qs → t.rq r = s.rq r) ∧
  t.cur = { s.cur with x := t.cur.x, p := t.cur.p, f := t.cur.f, q := t.cur.q } ∧
  t = s.setThread s.iss.core s.iss.slot t.cur ∧ s.SameMemory t

/-- `i` completes, writes to x register `d` a value of which `P` holds, and changes nothing else. x0 reads as zero and
discards the write (R79). -/
def WritesX (i : Instr) (s : State) (d : BitVec 6) (P : Word → Prop) : Prop :=
  ∃ t v, exec i s = .next t ∧ P v ∧ t.rx d = (if d = 0#6 then 0#64 else v) ∧ s.Frame t [d] [] [] []

/-- `i` completes, writes `b` to predicate `p`, and changes nothing else. p0 reads as true and discards the write
(R79). -/
def WritesP (i : Instr) (s : State) (p : BitVec 3) (b : Bool) : Prop :=
  ∃ t, exec i s = .next t ∧ t.rp p = (p == 0#3 || b) ∧ s.Frame t [] [p] [] []

/-- The thread goes on at `target`, which the next fetch checks as the target of a transfer (R26, R98). Beside that only
x registers of it have changed, those listed. -/
def State.Goes (s t : State) (target : Word) (xs : List (BitVec 6)) : Prop :=
  (∀ r, r ∉ xs → t.rx r = s.rx r) ∧ t.cur = { s.cur with x := t.cur.x, pc := target, xfer := true } ∧
  t = s.setThread s.iss.core s.iss.slot t.cur ∧ s.SameMemory t

/-- `i` completes and is a transfer to `target` that writes no register. -/
def GoesTo (i : Instr) (s : State) (target : Word) : Prop := ∃ t, exec i s = .next t ∧ s.Goes t target []

/-! ### Integer results (R32, R88, R91) -/

/-- The width in bits that W[1:0] names (R32). -/
def wBits (w : BitVec 4) : Nat := 8 * 2 ^ (w.toNat % 4)

/-- The value of an operand under W (R88). -/
def operandInt (w : BitVec 4) (v : Word) : Int :=
  if w.getLsbD 2 then Int.bmod v.toNat (2 ^ wBits w) else (v.toNat : Int) % 2 ^ wBits w

/-- `v` is the register image of the exact result `r` under W (R88): clamped when W[3] is set, reduced mod 2^w, and
sign-extended or zero-extended by W[2]. -/
def IsResult (w : BitVec 4) (r : Int) (v : Word) : Prop :=
  let n := wBits w
  let lo : Int := if w.getLsbD 2 then -(2 ^ (n - 1)) else 0
  let hi : Int := if w.getLsbD 2 then 2 ^ (n - 1) - 1 else 2 ^ n - 1
  let c : Int := if w.getLsbD 3 then max lo (min r hi) else r
  if w.getLsbD 2 then v.toInt = Int.bmod c (2 ^ n) else (v.toNat : Int) = c % 2 ^ n

/-- Bit `j` of `v` is `f j` below `n`; above, the top bit repeats when `signed`, else zeros follow (R88, R91). -/
def HasBits (n : Nat) (signed : Bool) (f : Nat → Bool) (v : Word) : Prop :=
  ∀ j < 64, v.getLsbD j = if j < n then f j else signed && f (n - 1)

/-! ### Precise traps (R333, R335, R336, R339) -/

/-- The record of a precise trap of the issuing bundle (R333): cause in bits 7:0, PAIR in bit 12, TID in bits 32:16. -/
def State.precise (s : State) (cause : Cause) (addr extra : Word) : TrapRec :=
  ⟨BitVec.ofNat 64 (cause.code.toNat + 4096 * s.iss.pair.toNat + 65536 * (tidOf s.iss.core s.iss.slot).toNat), s.iss.pc,
    addr, extra⟩

/-- Another thread of the core when a record enters the queue: a TRECV that waits returns to rotation (R341). -/
def Thread.recordCame (t : Thread) (cyc : Nat) : Thread :=
  match t.st with
  | .parked (.record _) => { t with st := .ready, startAt := max t.startAt (cyc + 1) }
  | _ => t

/-- A record `r` has entered the queue of core `k`, which is `q` then: last, but for records of the same cycle and a higher
slot, an engine's counting as the highest (R335). -/
def Core.Enters (k : Core) (q : List TrapRec) (r : TrapRec) : Prop :=
  ∃ old now later : List TrapRec, k.trapq = old ++ now ++ later ∧ q = old ++ now ++ r :: later ∧
    (now ++ later).length = k.raisedNow ∧ (∀ x ∈ now, x.rank ≤ r.rank) ∧ ∀ x, later.head? = some x → r.rank < x.rank

/-- Between `s` and `t` the issuing bundle has raised a precise trap and done nothing else. In slots 0 to 14 the thread
is TRAPPED at its bundle, with the address after it as NPC, its registers as before, and its record has entered the
queue; in slot 15 the record waits for the restart of the supervisor. -/
def State.Trapped (s t : State) (cause : Cause) (addr extra : Word) : Prop :=
  let c := s.iss.core
  let sl := s.iss.slot
  let sup := decide (sl = 15)
  let r := s.precise cause addr extra
  t.cur = { s.cur with
    st := if sup then s.cur.st else .trapped
    pc := s.iss.pc
    npc := s.iss.npc
    lastTrap := if sup then s.cur.lastTrap else some (s.iss.pc, s.iss.pair)
    prog := none
    awaits := none
    pendV := none
    fetching := none } ∧
  (if sup then (t.core c).trapq = (s.core c).trapq ∧ (t.core c).trapMark = (s.core c).trapMark
    else (s.core c).Enters (t.core c).trapq r ∧ (t.core c).trapMark = ((s.core c).cyc, (s.core c).raisedNow + 1)) ∧
  (t.core c).supFault = (if sup then some r else (s.core c).supFault) ∧
  (∀ i, i ≠ sl → t.thread? c i = if sup then s.thread? c i else (s.thread? c i).map fun x => x.recordCame (s.core c).cyc) ∧
  t.core c = { s.core c with
    slots := (t.core c).slots
    trapq := (t.core c).trapq
    trapMark := (t.core c).trapMark
    supFault := (t.core c).supFault } ∧
  (∀ i, i ≠ c → t.core i = s.core i) ∧
  t = { s with cores := t.cores, iss := { s.iss with st := .trapped } }

/-- `i` traps and does nothing else. -/
def TrapsWith (i : Instr) (s : State) (cause : Cause) (addr extra : Word) : Prop :=
  ∃ t, exec i s = .next t ∧ s.Trapped t cause addr extra

/-- `i` loses its turn (R108): the thread stays at the bundle and nothing has changed. -/
def LosesTurn (i : Instr) (s : State) : Prop :=
  ∃ t, exec i s = .next t ∧ t.iss.st = .lost ∧ t.cur = { s.cur with pc := s.iss.pc } ∧
    t = { s.setThread s.iss.core s.iss.slot t.cur with iss := { s.iss with st := .lost } }

/-! ### Local memory (R161, R163, R165) -/

/-- `n` bytes at virtual address `ea` lie aligned in the local window and in the region of the issuing thread's launch
(R161). -/
def State.InRegion (s : State) (ea : Word) (n : Nat) : Prop :=
  ea.toNat % n = 0 ∧ Config.windowBase ≤ ea.toNat ∧ ea.toNat < Config.windowBase + Config.windowBytes ∧
    ea.toNat - Config.windowBase + n ≤ s.curLaunch.hdr.lmem

/-- The local byte that an address of the window names (R161). -/
def State.localOf (s : State) (ea : Word) : Nat := s.curLaunch.lbase + (ea.toNat - Config.windowBase)

/-- A byte of the issuing core's local memory. -/
def State.lbyte (s : State) (a : Nat) : Byte := Memory.get s.curCore.lmem a

/-- Bit `j` of the bytes from local address `a` on, least significant byte first (R3, R165). -/
def State.lbit (s : State) (a j : Nat) : Bool := (s.lbyte (a + j / 8)).getLsbD (j % 8)

/-- No word that `n` bytes at local address `a` touch is poisoned (R349). -/
def State.Unpoisoned (s : State) (a n : Nat) : Prop := ∀ i < n, (a + i) / 8 ∉ s.curCore.lpoison

/-- No enabled stream of the issuing thread stands on f register `r` (R171, R175). -/
def State.Plain (s : State) (r : BitVec 5) : Prop :=
  ∀ e ∈ s.curCore.gens, e.2.slot = s.iss.slot → e.2.gen = s.cur.gen → e.2.freg.toNat = r.toNat →
    e.2.closing = true ∨ e.2.enabled = false

/-- Between `s` and `t` the `n` bytes at local address `a` of the issuing core have been written with the bits `f`, and
nothing else has changed, but that the words `whole` are no longer poisoned (R249, R349) and that waiters of the bytes
look at them again (R110). -/
def State.LocalWrite (s t : State) (a n : Nat) (f : Nat → Bool) (whole : Nat → Prop) : Prop :=
  let c := s.iss.core
  (∀ j < 8 * n, t.lbit a j = f j) ∧ (∀ b, b < a ∨ a + n ≤ b → t.lbyte b = s.lbyte b) ∧
  (∀ w, w ∈ t.curCore.lpoison ↔ w ∈ s.curCore.lpoison ∧ ¬whole w) ∧
  t.core c = { s.core c with lmem := (t.core c).lmem, lpoison := (t.core c).lpoison } ∧
  (∀ i, i ≠ c → t.core i = s.core i) ∧
  (∃ poked : Msg → Bool, t.net = s.net.map (fun m => if poked m then { m with st := .poked } else m) ∧
    ∀ m ∈ s.net, poked m = true ↔
      m.st = .waiting ∧ m.dom = bankDom c ∧ m.pa < a + n ∧ a < m.pa + m.n) ∧
  t = { s with cores := t.cores, net := t.net }

/-- An ordered load that the core performs itself need not wait: the thread's earlier releases are acknowledged, and for ORD 6
every store of it under way at a home (R264, R274). -/
def State.LoadMay (s : State) (ord : BitVec 3) : Prop :=
  (ord = 0#3 ∨ s.curReleases = []) ∧ (ord = 6#3 → s.curOutstanding = [])

/-- The same of a store or an atomic that the core performs itself, one with a release part waiting for every store under way
at a home (R264, R274). -/
def State.StoreMay (s : State) (ord : BitVec 3) : Prop :=
  (ord = 0#3 ∨ s.curReleases = []) ∧ (3 ≤ ord.toNat → s.curOutstanding = [])

/-- The issuing agent holds no dirty line and has no write-back on its way. -/
def State.NothingDirty (s : State) : Prop :=
  (∀ l ∈ (s.cache s.curAgent).lines, l.dirty = 0#128) ∧ s.writeBacks s.curAgent = []

/-- A store or an atomic that the core performs itself, issued in `s`, acts in `u`: in `s`, but that the drain of an ORD 5
access is counted first; the drain has nothing to write back, or has been acknowledged (R256, R269, R272). -/
def State.ActsIn (s u : State) (ord : BitVec 3) : Prop :=
  (∃ p, s.cur.prog = some p ∧ (∀ x ∈ p.ids, s.acked x = true) ∧ u = s) ∨
    s.cur.prog = none ∧ (ord ≠ 5#3 ∧ u = s ∨ ord = 5#3 ∧ s.NothingDirty ∧ u = s.countDrain s.curAgent 0)

/-- The drain of an ORD 5 access, issued in `s`, begins or goes on: the turn is lost as DRAIN loses it (R269, R278). -/
def State.DrainsFirst (s : State) (ord : BitVec 3) : Prop :=
  (∃ p, s.cur.prog = some p ∧ ∃ x ∈ p.ids, s.acked x = false) ∨ s.cur.prog = none ∧ ord = 5#3 ∧ ¬s.NothingDirty

/-- The words that `n` bytes at local address `a` hold whole. -/
def Whole (a n w : Nat) : Prop := a ≤ 8 * w ∧ 8 * w + 8 ≤ a + n

/-- `i` of ORD `ord` completes by writing `n` bytes of local memory at `a` with the bits `f`, and changes nothing else. -/
def StoresLocal (i : Instr) (s : State) (ord : BitVec 3) (a n : Nat) (f : Nat → Bool) : Prop :=
  ∀ u, s.ActsIn u ord → ∃ t, exec i s = .next t ∧ u.LocalWrite t a n f (Whole a n)

/-- `i` of ORD `ord` completes as one indivisible step on the `n` bytes at local address `a`: X[D] receives the old word, and the
word becomes `new` of it (R163, R251). Nothing else changes. -/
def BankAtomic (i : Instr) (s : State) (ord : BitVec 3) (a n : Nat) (d : BitVec 6) (new : Word → Word) : Prop :=
  ∀ s1, s.ActsIn s1 ord → ∃ t u old, exec i s = .next t ∧ HasBits (8 * n) false (s.lbit a) old ∧
    s1.LocalWrite u a n (fun j => (new old).getLsbD j) (Whole a n) ∧
    t.rx d = (if d = 0#6 then 0#64 else old) ∧ u.Frame t [d] [] [] []

/-- `i` completes, writes to f register `r` the value `v`, and changes nothing else. -/
def WritesF (i : Instr) (s : State) (r : BitVec 5) (P : Word → Prop) : Prop :=
  ∃ t, exec i s = .next t ∧ P (t.cur.getF r) ∧ s.Frame t [] [] [r] []

/-! ### The linear-feedback sequence (R100) -/

/-- The state after one step. -/
def lfsr (r : Word) : Word := (r >>> 1) ^^^ (if r.getLsbD 0 then 0xD800000000000000#64 else 0#64)

/-! ### Turns (R106, R108, R113) -/

/-- The thread `x` of a slot may fetch and issue at this turn of core `c`: it is READY, its first turn has come, no late
fault and no quantum expiry is due, and it loses no turn for a reply, a line or a hand-off. -/
def State.MayIssue (s : State) (c sl : Nat) (x : Thread) : Prop :=
  s.thread? c sl = some x ∧ x.st = .ready ∧ x.startAt ≤ (s.core c).cyc ∧ x.late = false ∧ s.expiryDue c sl x = false ∧
    x.awaits = none ∧ x.fetching = none ∧ x.hold.all s.acked = true ∧ x.pendV = none ∧ (sl = 15 → (s.core c).supFault = none)

/-- Core `c` takes its turn with slot `sl`: the state waits with nothing latched and the agenda names the turn. -/
def State.TurnOf (s : State) (c sl : Nat) (rest : List Instr) : Prop :=
  s.latch = none ∧ s.agenda = .slotTurn c :: rest ∧ { s with agenda := rest }.mayTurn c = true ∧
    { s with agenda := rest }.enabled (s.core c) = true ∧ (s.core c).tc % 16 = sl

/-- No V-operation of the issuing thread that is in flight names a register of these uses in its way (R181), a V slot
finds the input stage free, and a handler has issued fewer than 256 bundles (R126). -/
def State.NoHazard (s : State) (w : Slot) (u : Uses) : Prop :=
  (∀ o ∈ s.curCore.vec.ops, o.slot = s.iss.slot → o.gen = s.cur.gen →
    o.blocks { Uses.none with rp := pBit (slotGuard w).pred } = false ∧ o.blocks u = false) ∧
  (classV (slotOpc w) = true → s.curCore.vec.stage = none) ∧ (s.iss.slot = 14 → s.cur.count < 256)

/-! ### Requests and homes (R109, R126, R248, R256) -/

/-- `m` is a request of the issuing thread of `s` that leaves now. -/
def State.Mine (s : State) (m : Msg) : Prop :=
  m.id = s.nextId ∧ m.core = s.iss.core ∧ m.slot = s.iss.slot ∧ m.gen = s.cur.gen ∧ m.agent = s.agentOf s.iss.core ∧
    m.dom = s.cur.dom ∧ m.asn = s.cur.asn ∧ m.root = s.cur.root ∧ m.launch = s.cur.launch ∧ m.st = .sent ∧
    m.pc = s.iss.pc ∧ m.npc = s.iss.npc ∧ m.pair = s.iss.pair ∧ m.group = [] ∧ m.inval = false ∧ m.poisoned = false ∧
    m.sentAt = s.cycle

/-- Between `s` and `t` the issuing thread has sent `m` and goes on; nothing else has changed. -/
def State.Sends (s t : State) (m : Msg) : Prop :=
  s.Mine m ∧ m.wait = false ∧ t = { s with net := s.net ++ [m], nextId := s.nextId + 1 }

/-- Between `s` and `t` the issuing thread has sent `m` and waits for its reply: it is parked, or in slot 14 loses turns
(R109, R126). Nothing else has changed. -/
def State.SendsAndWaits (s t : State) (m : Msg) : Prop :=
  s.Mine m ∧ m.wait = true ∧
    t = { s.setThread s.iss.core s.iss.slot (if s.iss.slot = 14 then { s.cur with awaits := some m.id }
            else { s.cur with st := .parked (.home m.id) }) with net := s.net ++ [m], nextId := s.nextId + 1 }

/-- `ea` lies outside the local window and is aligned to `n`: the access is translated (R248). -/
def Global (ea : Word) (n : Nat) : Prop :=
  ea.toNat % n = 0 ∧ ¬(Config.windowBase ≤ ea.toNat ∧ ea.toNat < Config.windowBase + Config.windowBytes)

/-- Request `id` is `m`, one that no switch has combined with another; it stands at its home with nothing before it
outstanding, the directory and the bias of its page let it through, and no request waits at the directory. The home then
notes that it has performed it (R253, `State.markServed`). -/
def State.AtHome (s : State) (id : Nat) (write : Bool) (m : Msg) : Prop :=
  s.findMsg id = some m ∧ m.st = .sent ∧ m.group = [] ∧ s.atHome m = true ∧ s.gate m.dom m.pa id write = .ready s ∧
    (s.dom m.dom).reqs = []

/-- Only the request `id` has changed on the network, and is now `m`. -/
def State.NowIs (s t : State) (id : Nat) (m : Msg) : Prop :=
  t.findMsg id = some m ∧ t.net.length = s.net.length ∧ ∀ j, j ≠ id → t.findMsg j = s.findMsg j

/-- Only the request `id` has left the network. -/
def State.Left (s t : State) (id : Nat) : Prop := t.findMsg id = none ∧ ∀ j, j ≠ id → t.findMsg j = s.findMsg j

/-- The bytes of a domain's memory from `pa` on as bits. -/
def State.hbit (s : State) (d pa j : Nat) : Bool := (Memory.get (s.dom d).mem (pa + j / 8)).getLsbD (j % 8)

/-- Domain `v'` is `v` after the home of `line` has used the line at cycle `now` (R244, R301, R302): the L2 holds it, and a line
it held before that it holds no more has gone to the LLC from a full slice; where the L2 did not hold the line, an entry over
it names agent 0. -/
def Dom.Used (v v' : Dom) (line now : Nat) : Prop :=
  line ∈ v'.l2 ∧ (∀ l ∈ v'.l2, l ∈ v.l2 ∨ l = line) ∧
  (∀ l ∈ v.l2, l ∉ v'.l2 → l ∈ v'.llc ∧
    Config.l2Lines ≤ (v.l2.filter fun x => homeSlice v x == homeSlice v line).length ∧ homeSlice v l = homeSlice v line) ∧
  v'.dir = if line ∈ v.l2 then v.dir
    else v.dir.map fun e => if e.covers line then { e.addAgent 0 with last := now } else e

/-- Between `s` and `t` the home of a request's line has noted the request (R253) and used the line (R244, R302), and the homes
are else as before. -/
def State.UsesHome (s t : State) (m : Msg) : Prop :=
  let v := (s.markServed m).dom m.dom
  v.Used (t.dom m.dom) (m.pa / 128) s.cycle ∧
    t.dom m.dom = { v with l2 := (t.dom m.dom).l2, llc := (t.dom m.dom).llc, dir := (t.dom m.dom).dir } ∧
    ∀ d, d ≠ m.dom → t.dom d = s.dom d

/-- Between `s` and `t` the bytes of `v` that `mask` selects have been performed at the home of `pa`, and nothing else has
changed but what follows a write: replicas of the line go (R246); words that `clear` picks lose their poison and words
that `taint` picks are poisoned (R249, R349); the L2 fetches the line when `fetch` is set; the undo log of a .ckpt launch
takes the old bytes that `owner` says are its, and whether their words were poisoned (R352); waiters of the bytes are to look
again (R110). -/
def State.Performed (s t : State) (d pa n : Nat) (mask v : Nat → Bool) (owner : Nat → Nat → Prop) (clear taint : Nat → Prop)
    (fetch : Bool) : Prop :=
  let at' (a : Nat) : Prop := pa ≤ a ∧ a < pa + n ∧ mask (a - pa) = true
  (∀ a, at' a → ∀ j < 8, (Memory.get (t.dom d).mem a).getLsbD j = v (8 * (a - pa) + j)) ∧
  (∀ a, ¬at' a → Memory.get (t.dom d).mem a = Memory.get (s.dom d).mem a) ∧
  (∀ r, r ∈ (t.dom d).replicas ↔ r ∈ (s.dom d).replicas ∧ r.1 ≠ pa / 128) ∧
  (∀ w, w ∈ (t.dom d).poison ↔ w ∈ (s.dom d).poison ∧ ¬clear w ∨ taint w) ∧
  (if fetch then (s.dom d).Used (t.dom d) (pa / 128) s.cycle
    else (t.dom d).l2 = (s.dom d).l2 ∧ (t.dom d).llc = (s.dom d).llc ∧ (t.dom d).dir = (s.dom d).dir) ∧
  (∃ (bytes : Nat → List Host.Cell) (words : Nat → List (Nat × Bool)),
    (∀ k e, e ∈ bytes k ↔ at' e.1 ∧ owner k e.1 ∧ e.2 = Memory.get (s.dom d).mem e.1) ∧
    (∀ k e, e ∈ words k ↔ (∃ a, at' a ∧ owner k a ∧ e.1 = a / 8) ∧ (e.2 = true ↔ e.1 ∈ (s.dom d).poison)) ∧
    ∀ k, lookup (t.dom d).launches k = (lookup (s.dom d).launches k).map fun l =>
      if l.hdr.ckpt ≠ 0 then { l with undo := bytes k ++ l.undo, undoPoison := words k ++ l.undoPoison } else l) ∧
  t.dom d = { s.dom d with
    mem := (t.dom d).mem
    replicas := (t.dom d).replicas
    poison := (t.dom d).poison
    l2 := (t.dom d).l2
    llc := (t.dom d).llc
    dir := (t.dom d).dir
    launches := (t.dom d).launches } ∧
  (∀ i, i ≠ d → t.dom i = s.dom i) ∧
  t.net = s.net.map (fun m => if m.st = .waiting ∧ m.dom = d ∧ m.pa < pa + n ∧ pa < m.pa + m.n
    then { m with st := .poked } else m) ∧
  t = { s with doms := t.doms, net := t.net }

/-- A write of a launch has been performed at the home: words written whole lose their poison, and the L2 holds the
line. -/
def State.HomeWrite (s t : State) (d launch pa n : Nat) (mask v : Nat → Bool) : Prop :=
  s.Performed t d pa n mask v (fun k _ => k = launch)
    (fun w => ∀ i < 8, pa ≤ 8 * w + i ∧ 8 * w + i < pa + n ∧ mask (8 * w + i - pa) = true) (fun _ => False) true

/-- The bytes of a line that an outside agent brings have been performed: no launch's, and nothing is fetched for them. -/
def State.OutsideWrite (s t : State) (d line : Nat) (mask : BitVec 128) (data : BitVec 1024) : Prop :=
  s.Performed t d (128 * line) 128 mask.getLsbD data.getLsbD (fun _ _ => False)
    (fun w => ∀ i < 8, 128 * line ≤ 8 * w + i ∧ 8 * w + i < 128 * line + 128 ∧ mask.getLsbD (8 * w + i - 128 * line) = true)
    (fun _ => False) false

/-- The dirty bytes of a write-back have been performed: each is the launch's that wrote it last, words that one store wrote
whole lose their poison, and words whose dirty bytes were poisoned are poisoned (R249, R349, R352). -/
def State.BackWrite (s t : State) (m : Msg) : Prop :=
  s.Performed t m.dom m.pa 128 m.mask.getLsbD m.data.getLsbD (fun k a => ∃ o ∈ m.owners, o.1 = k ∧ o.2.getLsbD (a - m.pa) = true)
    (fun w => ∃ i < 16, w = m.pa / 8 + i ∧ m.whole.getLsbD i = true) (fun w => ∃ i < 16, w = m.pa / 8 + i ∧ m.pmask.getLsbD i = true)
    true

/-- Lines of an L1 data cache may have left it, written back where they were dirty; no other line has changed. -/
def State.OnlyEvicts (s t : State) (agent d line : Nat) : Prop :=
  (∀ a, a ≠ agent → t.cache a = s.cache a) ∧
  (∀ d' l, (d', l) ≠ (d, line) → (t.cache agent).find d' l = (s.cache agent).find d' l ∨ (t.cache agent).find d' l = none ∧
    ∃ x ∈ (s.cache agent).lines, x.dom = d' ∧ x.line = l ∧ (x.dirty ≠ 0#128 → ∃ m ∈ t.net, m.id = s.nextId ∧
      m.kind = .writeBack ∧ m.agent = agent ∧ m.dom = d' ∧ m.pa = 128 * l ∧ m.data = x.data ∧ m.mask = x.dirty ∧
      m.whole = x.whole ∧ m.pmask = x.dpoison ∧ m.owners = x.owners)) ∧
  t = { s with caches := t.caches, net := t.net, nextId := t.nextId }

end Sys2Proof.Machine
end

