-- ==== Sys2Proof/WellFormed.lean ====
section
/-! DEFINITION. Well-formed instructions: those that a slot can hold and the decoder admits (R40). -/
namespace Sys2Proof

/-- An instruction whose field values the spec admits; an event is never well-formed. -/
def Instr.WellFormed (i : Instr) : Prop := operandsOk i = true

end Sys2Proof
end

