-- ==== Sys2Proof/Certificates/Slice0/Obligations.lean ====
section
/-! DEFINITION. The statements about the machine, from the numbered rules of the spec. -/
open Sys2Proof Sys2Proof.Machine

/-! ### Scalar instructions -/

/-- R79: x0 reads as zero and p0 reads as true, and a write to either is discarded and raises no fault. -/
def Obligations.ConstantRegisters : Prop :=
  ∀ (s : State) (v : Word) (b : Bool),
    s.rx 0#6 = 0#64 ∧ s.rp 0#3 = true ∧ (s.wx 0#6 v).cur = s.cur ∧ (s.wp 0#3 b).cur = s.cur ∧
    ∀ imm, ∃ t, exec (.ldi 0#6 3#4 imm) s = .next t ∧ t.cur = s.cur ∧ s.Frame t [] [] [] []

/-- R88, R89: ADD, SUB, MUL, MULH, MIN, MAX, MADD, ADDS, ADDI, MULI, REM, DIV and ABSD write the result of exact integer
arithmetic on their operands under W, saturated when W[3] is set, and change nothing else.
Of each of these forms it concludes, under conditions on the state and the operands alone, that exec answers a next
state with the form's own effect: add, sub, mul, mulh, div, rem, min, max, madd, adds, absd, addi, muli. -/
def Obligations.IntegerArithmetic : Prop :=
  ∀ (s : State) (d a b c : BitVec 6) (w sub : BitVec 4) (imm : BitVec 64),
    let x := operandInt w (s.rx a)
    let y := operandInt w (s.rx b)
    let z := operandInt w (s.rx c)
    let k := operandInt w imm
    WritesX (.add d a b w) s d (IsResult w (x + y)) ∧
    WritesX (.sub d a b w) s d (IsResult w (x - y)) ∧
    WritesX (.mul d a b w) s d (IsResult w (x * y)) ∧
    WritesX (.mulh d a b w) s d (IsResult w ((x * y).fdiv (2 ^ wBits w))) ∧
    WritesX (.min d a b w) s d (IsResult w (min x y)) ∧
    WritesX (.max d a b w) s d (IsResult w (max x y)) ∧
    WritesX (.madd d a b c w) s d (IsResult w (x * y + z)) ∧
    WritesX (.adds sub d a b w) s d (IsResult w (x + y * 2 ^ sub.toNat)) ∧
    WritesX (.addi d a w imm) s d (IsResult w (x + k)) ∧
    WritesX (.muli d a w imm) s d (IsResult w (x * k)) ∧
    WritesX (.rem d a b w) s d (IsResult w (if y = 0 then x else x - y * x.tdiv y)) ∧
    (y ≠ 0 → WritesX (.div d a b w) s d (IsResult w (x.tdiv y))) ∧
    (y = 0 → WritesX (.div d a b w) s d fun v => HasBits (wBits w) (w.getLsbD 2) (fun _ => true) v) ∧
    WritesX (.absd d a b w) s d fun v => (v.toNat : Int) = (max (x - y) (y - x)) % 2 ^ wBits w

/-- R89, R90: AND, OR, XOR, ANDN and their immediate forms work bit by bit on the low w bits and extend by W[2]; SEL, LDI
and LEA write 64 bits. -/
def Says.BitwiseAndConstants : Prop :=
  ∀ (s : State) (d a b c : BitVec 6) (w : BitVec 4) (imm : BitVec 64),
    let n := wBits w
    let e := w.getLsbD 2
    let x (j : Nat) := (s.rx a).getLsbD j
    let y (j : Nat) := (s.rx b).getLsbD j
    let k (j : Nat) := imm.getLsbD j
    WritesX (.and d a b w) s d (HasBits n e fun j => x j && y j) ∧
    WritesX (.or d a b w) s d (HasBits n e fun j => x j || y j) ∧
    WritesX (.xor d a b w) s d (HasBits n e fun j => x j != y j) ∧
    WritesX (.andn d a b w) s d (HasBits n e fun j => x j && !y j) ∧
    WritesX (.andi d a w imm) s d (HasBits n e fun j => x j && k j) ∧
    WritesX (.ori d a w imm) s d (HasBits n e fun j => x j || k j) ∧
    WritesX (.xori d a w imm) s d (HasBits n e fun j => x j != k j) ∧
    (s.rp (c.setWidth 3) = true → WritesX (.sel d a b c w) s d (· = s.rx a)) ∧
    (s.rp (c.setWidth 3) = false → WritesX (.sel d a b c w) s d (· = s.rx b)) ∧
    WritesX (.ldi d w imm) s d (· = imm) ∧
    WritesX (.lea d w imm) s d (· = s.iss.pc + imm)

/-- R91: SLL, SRL, SRA, ROT and the immediate shifts move the low w bits of X[A] by n places and extend by W[2]; the
register forms take n mod w, and an immediate of w or more traps (Says.ShiftCountTraps). -/
def Says.Shifts : Prop :=
  ∀ (s : State) (d a b : BitVec 6) (w : BitVec 4) (imm : BitVec 64),
    let n := wBits w
    let e := w.getLsbD 2
    let x (j : Nat) := (s.rx a).getLsbD j
    let m := (s.rx b).toNat % n
    WritesX (.sll d a b w) s d (HasBits n e fun j => decide (m ≤ j) && x (j - m)) ∧
    WritesX (.srl d a b w) s d (HasBits n e fun j => decide (j + m < n) && x (j + m)) ∧
    WritesX (.sra d a b w) s d (HasBits n e fun j => x (min (j + m) (n - 1))) ∧
    WritesX (.rot d a b w) s d (HasBits n e fun j => x ((j + m) % n)) ∧
    (imm.toNat < n →
      WritesX (.slli d a w imm) s d (HasBits n e fun j => decide (imm.toNat ≤ j) && x (j - imm.toNat)) ∧
      WritesX (.srli d a w imm) s d (HasBits n e fun j => decide (j + imm.toNat < n) && x (j + imm.toNat)) ∧
      WritesX (.srai d a w imm) s d (HasBits n e fun j => x (min (j + imm.toNat) (n - 1))))

/-- R91, R92, R93: CLZ, CTZ, POPC and BREV count or reverse the low w bits, BFX extracts, BFI inserts, XFOLD folds. -/
def Says.CountsAndFields : Prop :=
  ∀ (s : State) (d a b c : BitVec 6) (w sub : BitVec 4),
    let n := wBits w
    let x (j : Nat) := (s.rx a).getLsbD j
    let pos := (s.rx b).toNat % 64
    let len := (s.rx c).toNat % 128
    let k := sub.toNat + 1
    let h := (List.range ((64 + k - 1) / k)).foldl (fun h j => h ^^^ ((s.rx a).toNat / 2 ^ (k * j) % 2 ^ k)) 0
    WritesX (.clz d a w) s d (fun v => v.toNat ≤ n ∧ (∀ j < n, n - v.toNat ≤ j → x j = false) ∧
      (v.toNat < n → x (n - 1 - v.toNat) = true)) ∧
    WritesX (.ctz d a w) s d (fun v => v.toNat ≤ n ∧ (∀ j < v.toNat, x j = false) ∧ (v.toNat < n → x v.toNat = true)) ∧
    WritesX (.popc d a w) s d (fun v => v.toNat = ((List.range n).filter x).length) ∧
    WritesX (.brev d a w) s d (HasBits n false fun j => x (n - 1 - j)) ∧
    (1 ≤ len ∧ len ≤ 64 → WritesX (.bfx d a b c w) s d
      (HasBits len (w.getLsbD 2) fun j => decide (pos + j < 64) && x (pos + j))) ∧
    (len = 0 ∨ 64 < len → WritesX (.bfx d a b c w) s d (· = 0#64)) ∧
    WritesX (.bfi d a b c w) s d (HasBits 64 false fun j =>
      if pos ≤ j ∧ j < pos + len ∧ len ≤ 64 then x (j - pos) else (s.rx d).getLsbD j) ∧
    WritesX (.xfold sub d a b) s d (fun v => v.toNat = if (s.rx b) = 0#64 then h else h % (s.rx b).toNat)

/-- R91: an immediate shift count of the width or more raises a precise Illegal-Instruction trap. -/
def Says.ShiftCountTraps : Prop :=
  ∀ (s : State) (d a : BitVec 6) (w : BitVec 4) (imm : BitVec 64), wBits w ≤ imm.toNat →
    ∀ i ∈ [Instr.slli d a w imm, .srli d a w imm, .srai d a w imm],
      exec i s = .next (s.takeTrap .illegalInstruction 0#64 0#64)

/-- The condition codes of R94. -/
def conditionOf (cc : Nat) (n : Nat) (a b : Word) : Prop :=
  let ai := Int.bmod a.toNat (2 ^ n)
  let bi := Int.bmod b.toNat (2 ^ n)
  let au := a.toNat % 2 ^ n
  let bu := b.toNat % 2 ^ n
  match cc with
  | 0 => au = bu
  | 1 => au ≠ bu
  | 2 => ai < bi
  | 3 => bi ≤ ai
  | 4 => au < bu
  | 5 => bu ≤ au
  | 6 => bi < ai
  | 7 => ai ≤ bi
  | 8 => bu < au
  | 9 => au ≤ bu
  | 10 => ∃ j < n, a.getLsbD j = true ∧ b.getLsbD j = true
  | _ => ¬∃ j < n, a.getLsbD j = true ∧ b.getLsbD j = true

/-- R95: CMP writes to P[D] the condition of X[A] against X[B], CMPI the same with IMM in place of X[B]; R96: PLOG and the
forms of PMOV.
Of each of these forms it concludes, under conditions on the state and the operands alone, that exec answers a next
state with the form's own effect: cmp, cmpi, plog, pmovTox, pmovFromx, pmovNz. -/
def Obligations.ComparesAndPredicates : Prop :=
  ∀ (s : State) (d a b : BitVec 6) (cc w : BitVec 4) (imm : BitVec 64), cc.toNat < 12 →
    (∃ v : Bool, WritesP (.cmp cc d a b w) s (d.setWidth 3) v ∧ (v = true ↔ conditionOf cc.toNat (wBits w) (s.rx a) (s.rx b))) ∧
    (∃ v : Bool, WritesP (.cmpi cc d a w imm) s (d.setWidth 3) v ∧ (v = true ↔ conditionOf cc.toNat (wBits w) (s.rx a) imm)) ∧
    (let p := s.rp (a.setWidth 3)
     let q := s.rp (b.setWidth 3)
     cc.toNat < 8 → WritesP (.plog cc d a b) s (d.setWidth 3)
      ([p && q, p || q, p ^^ q, p && !q, p || !q, !(p && q), !(p || q), !(p ^^ q)].getD cc.toNat false)) ∧
    WritesX (.pmovTox d) s d (HasBits 64 false fun j => decide (j < 8) && s.rp (BitVec.ofNat 3 j)) ∧
    (∃ t, exec (.pmovFromx a) s = .next t ∧
      (∀ r : BitVec 3, r ≠ 0#3 → t.rp r = (s.rx a).getLsbD r.toNat) ∧
      s.Frame t [] [1#3, 2#3, 3#3, 4#3, 5#3, 6#3, 7#3] [] []) ∧
    WritesP (.pmovNz d a) s (d.setWidth 3) (decide (s.rx a ≠ 0#64))

/-- R26, R97, R98: the branches go to the slot that DISP and SLOT name when their condition holds, and else fall through;
CALL and CALL.R leave the return address in x63 and read their target before they write it; LOOP counts down.
Of each of these forms it concludes, under conditions on the state and the operands alone, that exec answers a next
state with the form's own effect: br, call, callR, ret, jmp, loop, brz, brcmp. -/
def Obligations.Branches : Prop :=
  ∀ (s : State) (a b : BitVec 6) (cc : BitVec 4) (disp : BitVec 37) (slot : BitVec 3), cc.toNat < 12 →
    let target := (s.iss.pc / 64#64 + disp.signExtend 64) * 64#64 + 12#64 * slot.setWidth 64
    GoesTo (.br disp slot) s target ∧ GoesTo (.ret a) s (s.rx a) ∧ GoesTo (.jmp a) s (s.rx a) ∧
    (∃ t, exec (.call disp slot) s = .next t ∧ t.rx 63#6 = s.iss.npc ∧ s.Goes t target [63#6]) ∧
    (∃ t, exec (.callR a) s = .next t ∧ t.rx 63#6 = s.iss.npc ∧ s.Goes t (s.rx a) [63#6]) ∧
    (conditionOf cc.toNat 64 (s.rx a) 0#64 → GoesTo (.brz a cc disp slot) s target) ∧
    (¬conditionOf cc.toNat 64 (s.rx a) 0#64 → exec (.brz a cc disp slot) s = .next s) ∧
    (conditionOf cc.toNat 64 (s.rx a) (s.rx b) → GoesTo (.brcmp a b cc disp slot) s target) ∧
    (¬conditionOf cc.toNat 64 (s.rx a) (s.rx b) → exec (.brcmp a b cc disp slot) s = .next s) ∧
    (∃ t, exec (.loop a disp slot) s = .next t ∧ t.rx a = (if a = 0#6 then 0#64 else s.rx a - 1#64) ∧
      (s.rx a ≠ 1#64 → s.Goes t target [a]) ∧ (s.rx a = 1#64 → s.Frame t [a] [] [] []))

/-! ### Traps and special registers -/

/-- R333, R335, R336, R339: taking a precise trap writes the record, stops the thread at its bundle and changes nothing
else. -/
def Obligations.TakingATrap : Prop :=
  ∀ (s : State) (cause : Cause) (addr extra : Word), s.Trapped (s.takeTrap cause addr extra) cause addr extra

/-- R345, R40: BRK, SVC and ILL raise the trap of their cause, and TRAP does when its condition holds over 64 bits; else
it has no effect. -/
def Says.SoftwareTraps : Prop :=
  ∀ (s : State) (a b : BitVec 6) (cc : BitVec 4) (imm : BitVec 32),
    TrapsWith (.brk imm) s .breakpoint 0#64 (imm.setWidth 64) ∧
    TrapsWith (.svc imm) s .svc 0#64 (imm.setWidth 64) ∧
    TrapsWith .ill s .illegalInstruction 0#64 0#64 ∧
    (cc.toNat < 12 → conditionOf cc.toNat 64 (s.rx a) (s.rx b) →
      TrapsWith (.trap cc a b imm) s .trap 0#64 (imm.setWidth 64)) ∧
    (cc.toNat < 12 → ¬conditionOf cc.toNat 64 (s.rx a) (s.rx b) → exec (.trap cc a b imm) s = .next s)

/-- R102: NOP has no effect; a slot of opcode 0x00 is NOP when its SUBF and bits 79:0 are zero and else illegal; the
all-zero slot is NOP.
Of each of these forms it concludes, under conditions on the state and the operands alone, that exec answers a next
state with the form's own effect: nop. -/
def Obligations.NopDoesNothing : Prop :=
  (∀ s : State, exec .nop s = .next s) ∧ decodeSlot 0#96 = .ok .nop ∧
  ∀ w : Slot, w.extractLsb' 88 8 = 0#8 →
    (w.extractLsb' 84 4 = 0#4 ∧ w.extractLsb' 0 80 = 0#80 → decodeSlot w = .ok .nop) ∧
    (¬(w.extractLsb' 84 4 = 0#4 ∧ w.extractLsb' 0 80 = 0#80) → ∃ e, decodeSlot w = .error e)

/-- R42: below the level that the table requires, an instruction raises a Privilege trap and has no other effect. -/
def Says.PrivilegeLevels : Prop :=
  ∀ (s : State) (a b d : BitVec 6) (p : BitVec 3) (sr : BitVec 12) (imm : BitVec 32),
    (s.cur.lvl.toNat < 1 → ∀ i ∈ [Instr.trecv d, .trecvTry d p, .tread d a sr p imm, .tresume a p, .tresumeNext a p,
        .tkill a p, .cring a b, .cretry a b, .mfs d 0x070#12], TrapsWith i s .privilege 0#64 0#64) ∧
    (s.cur.lvl.toNat < 1 → TrapsWith (.twrite a b sr p imm) s .privilege 0#64 0#64) ∧
    (s.cur.lvl.toNat < 2 → ∀ i ∈ [Instr.xlinvVa a b, .xlinvAs a, .xlinvAll, .xlsync, .ckptTake a p, .ckptRoll a p,
        .ckptStat d a p, .bflipHost a p, .bflipDev a p, .bflipRd d a, .keyldInst d a b p, .keyldClr a p,
        .keyldStat d a p, .energySet a b p, .gauge d a p, .scopt d a b p, .scoptCnt d a],
      TrapsWith i s .privilege 0#64 0#64) ∧
    (s.cur.lvl.toNat < 3 → ∀ i ∈ [Instr.partctlCreate d a p, .partctlDestroy a p, .partctlStat d a],
      TrapsWith i s .privilege 0#64 0#64)

/-- R83, R103: what MFS reads of each special register, of a core and slot that exist; MFS FPCR and FPSR lose turns while
a V-operation of the thread is in flight (R71, R108). -/
def Says.MfsReads : Prop :=
  ∀ (s : State) (d : BitVec 6), s.iss.core < 3840 → s.iss.slot < 16 → s.cur.dom < 16 → s.cur.asn < 65536 →
      s.cur.launch < 2 ^ 32 → s.curCore.cyc < 2 ^ 64 →
    let c := s.iss.core
    let die := c / 960
    let clu := c / 6 % 160
    let num := c % 6
    let k := s.curCore
    let l := s.curLaunch
    let L1 := s.cache (if k.fused then 4096 + c / 6 else c)
    let is (i : BitVec 12) (n : Nat) : Prop := WritesX (.mfs d i) s d fun v => v.toNat = n
    let free : Prop := ∀ o ∈ k.vec.ops, ¬(o.slot = s.iss.slot ∧ o.gen = s.cur.gen)
    is 0x000#12 (32768 * die + 128 * clu + 16 * num + s.iss.slot) ∧
    is 0x001#12 (2048 * die + 8 * clu + num) ∧
    is 0x002#12 s.cur.dom ∧
    is 0x003#12 (s.cur.asn + 65536 * s.cur.launch) ∧
    is 0x004#12 k.cyc ∧
    is 0x005#12 s.cur.lvl.toNat ∧
    is 0x006#12 s.cur.rseq.toNat ∧
    is 0x020#12 s.cur.qsb.toNat ∧
    is 0x021#12 s.cur.qss.toNat ∧
    is 0x022#12 s.cur.qwin.toNat ∧
    is 0x023#12 s.cur.trav.toNat ∧
    (s.cur.allot ≤ 8 → l.hdr.qregs ≤ 8 → is 0x024#12 (256 * l.hdr.qregs + s.cur.allot)) ∧
    is 0x031#12 k.cube.cfg.toNat ∧
    (l.hdr.deque ≤ 4096 → is 0x040#12 (2 ^ 32 * l.hdr.deque + (l.lbase + l.hdr.lmem) % 2 ^ 18)) ∧
    is 0x050#12 L1.relcnt.toNat ∧
    is 0x051#12 (2 ^ 32 * L1.dlines.toNat + L1.drains.toNat) ∧
    (L1.lines.length < 4096 → is 0x052#12 (L1.lines.filter fun x => x.dirty ≠ 0).length) ∧
    (s.curDom.acct.snapStage ≤ 4 → WritesX (.mfs d 0x060#12) s d fun v =>
      v.toNat / 2 ^ 56 = s.curDom.acct.snapStage ∧
      Int.bmod (v.toNat % 2 ^ 56) (2 ^ 56) = Int.bmod (s.curDom.acct.snapB / 1000) (2 ^ 56)) ∧
    (1 ≤ s.cur.lvl.toNat → is 0x070#12 (min k.trapq.length 16)) ∧
    (free → is 0x010#12 s.cur.fpcr.toNat ∧ WritesX (.mfsFpsr d) s d fun v => v.toNat = s.cur.fpsr.toNat) ∧
    (¬free → LosesTurn (.mfs d 0x010#12) s ∧ LosesTurn (.mfsFpsr d) s ∧ LosesTurn (.mtsFpsr d) s)

/-- R217: the fields of CUBEST as MFS and CSTAT read them. The model writes the slot of an owner whose thread has been evicted
plus 16, and CUBEST goes on naming that thread. -/
def Says.CubestFields : Prop :=
  ∀ (s : State) (d : BitVec 6), s.curCore.cube.queue.length ≤ 2 → ∀ i ∈ [Instr.mfs d 0x030#12, .cstat d],
    let q := s.curCore.cube
    WritesX i s d fun v =>
      v.extractLsb' 0 16 = q.done ∧ v.extractLsb' 16 16 = s.curCore.seq ∧ (v.extractLsb' 32 2).toNat = q.queue.length ∧
      (v.getLsbD 34 = true ↔ q.owner ≠ none) ∧ (q.owner = none → v.extractLsb' 35 17 = 0#17) ∧
      (∀ sl, q.owner = some sl → v.extractLsb' 35 17 = tidOf s.iss.core (sl % 16)) ∧ v.extractLsb' 52 4 = q.sticky ∧
      v.extractLsb' 56 8 = 0#8

/-- R83, R85, R100, R103, R65, R6: MTS writes the register it names and nothing else, in a pair after the V half; reserved
bits are ignored, a zero RSEQ becomes 0x6A09E667, PRIV can only be lowered, and in slot 15 not to 0. -/
def Says.MtsWrites : Prop :=
  ∀ (s : State) (a : BitVec 6),
    let v := s.rx a
    let sets (i : Instr) (sr : Nat) (t : Thread) : Prop :=
      (s.iss.pair = true → exec i s = .next { s with iss := { s.iss with mts := some (sr, v) } }) ∧
      (s.iss.pair = false → exec i s = .next (s.setThread s.iss.core s.iss.slot t)) ∧
      ∀ u : State, u.iss.mts = some (sr, v) → u.cur = s.cur → u.applyMts = u.setThread u.iss.core u.iss.slot t
    let quiet : Prop := ∀ o ∈ s.curCore.vec.ops, ¬(o.slot = s.iss.slot ∧ o.gen = s.cur.gen)
    sets (.mts a 0x020#12) 0x020 { s.cur with qsb := v } ∧
    sets (.mts a 0x021#12) 0x021 { s.cur with qss := BitVec.ofNat 64 (v.toNat % 2 ^ 32) } ∧
    sets (.mts a 0x022#12) 0x022 { s.cur with qwin := BitVec.ofNat 64 (v.toNat % 2 ^ 48) } ∧
    sets (.mts a 0x023#12) 0x023 { s.cur with trav := v } ∧
    sets (.mtsRseq a) 0x006 { s.cur with rseq := if v = 0#64 then 0x6A09E667#64 else v } ∧
    (v.toNat % 4 ≤ s.cur.lvl.toNat → (s.iss.slot = 15 → v.toNat % 4 ≠ 0) →
      sets (.mtsPriv a) 0x005 { s.cur with lvl := BitVec.ofNat 2 v.toNat }) ∧
    (s.cur.lvl.toNat < v.toNat % 4 ∨ (s.iss.slot = 15 ∧ v.toNat % 4 = 0) →
      TrapsWith (.mtsPriv a) s .privilege 0#64 0#64) ∧
    (6 ≤ v.toNat % 8 → TrapsWith (.mtsFpcr a) s .illegalInstruction 0#64 0#64) ∧
    (v.toNat % 8 < 6 → quiet → sets (.mtsFpcr a) 0x010 { s.cur with fpcr := BitVec.ofNat 3 v.toNat }) ∧
    (v.toNat % 8 < 6 → ¬quiet → LosesTurn (.mtsFpcr a) s) ∧
    (quiet → sets (.mtsFpsr a) 0x011 { s.cur with fpsr := BitVec.ofNat 5 v.toNat })

/-- R100, R101: RAND writes the outputs of 64 steps of RSEQ, RAND.R16 of 16 steps, bit i the output of step i.
Of each of these forms it concludes, under conditions on the state and the operands alone, that exec answers a next
state with the form's own effect: rand, randR16. -/
def Obligations.RandDraws : Prop :=
  ∀ (s : State) (d : BitVec 6), ∀ e ∈ [(Instr.rand d, 64), (Instr.randR16 d, 16)],
    ∃ t v, exec e.1 s = .next t ∧ t.rx d = (if d = 0#6 then 0#64 else v) ∧
      HasBits e.2 false (fun i => (lfsr^[i] s.cur.rseq).getLsbD 0) v ∧
      t.cur = { s.cur with x := t.cur.x, rseq := lfsr^[e.2] s.cur.rseq } ∧ (∀ r, r ≠ d → t.rx r = s.rx r) ∧
      t = s.setThread s.iss.core s.iss.slot t.cur

/-! ### Local memory -/

/-- R33, R161, R163, R165, R166, R248: loads of local memory write the bytes or bits they name to their registers, and
change nothing else. SCOPE and HINT add nothing, and an ORD of 1 or more only waits for what R264 and R274 name; a FILL that its
bank holds back comes first (R273). -/
def Says.LocalLoads : Prop :=
  ∀ (s : State) (d base idx : BitVec 6) (scl : BitVec 2) (size ord scope hint : BitVec 3) (off : BitVec 48),
    let ea := s.rx base + s.rx idx * 2#64 ^ scl.toNat + off.signExtend 64
    let n := 2 ^ size.toNat
    let a := s.localOf ea
    let b : Int := (s.rx base).toNat + (s.rx idx).toNat * 2 ^ scl.toNat + off.toInt
    let w := 8 * size.toNat + hint.toNat + 1
    let lb := s.curLaunch.lbase
    s.curCore.fill = none →
    (size.toNat ≤ 3 → s.InRegion ea n → s.Unpoisoned a n → s.LoadMay ord →
      WritesX (.ld 0#4 d base idx scl size ord scope hint off) s d (HasBits (8 * n) false (s.lbit a)) ∧
      WritesX (.ld 1#4 d base idx scl size ord scope hint off) s d (HasBits (8 * n) true (s.lbit a)) ∧
      (s.Plain (d.setWidth 5) → WritesF (.ldf d base idx scl size ord scope hint off) s (d.setWidth 5)
        (HasBits (8 * n) false (s.lbit a)))) ∧
    (size.toNat ≤ 3 → s.InRegion ea n → ¬s.LoadMay ord → ∀ sub, LosesTurn (.ld sub d base idx scl size ord scope hint off) s ∧
      LosesTurn (.ldf d base idx scl size ord scope hint off) s) ∧
    (s.InRegion ea 16 → s.Unpoisoned a 16 → s.LoadMay ord → ∃ t lo hi,
      exec (.ldp d base idx scl size ord scope hint off) s = .next t ∧ HasBits 64 false (s.lbit a) lo ∧
      HasBits 64 false (fun j => s.lbit a (64 + j)) hi ∧ t.rx d = (if d = 0#6 then 0#64 else lo) ∧
      t.rx (d + 1#6) = (if d + 1#6 = 0#6 then 0#64 else hi) ∧ s.Frame t [d, d + 1#6] [] [] []) ∧
    (0 ≤ b → b + w ≤ 8 * s.curLaunch.hdr.lmem → s.Unpoisoned (lb + b.toNat / 8) ((b.toNat % 8 + w + 7) / 8) →
      WritesX (.ldb 0#4 d base idx scl size hint off) s d (HasBits w false fun j => s.lbit lb (b.toNat + j)) ∧
      WritesX (.ldb 1#4 d base idx scl size hint off) s d (HasBits w true fun j => s.lbit lb (b.toNat + j)))

/-- R33, R161, R163, R166, R248, R249: stores to local memory write the bytes or bits they name and change nothing else; one
with an ORD of 1 or more first waits for what R264 and R274 name, and one of ORD 5 first drains the core's L1 as DRAIN does
(R256, R269). -/
def Says.LocalStores : Prop :=
  ∀ (s : State) (d base idx : BitVec 6) (scl : BitVec 2) (size ord scope hint : BitVec 3) (off : BitVec 48),
    let ea := s.rx base + s.rx idx * 2#64 ^ scl.toNat + off.signExtend 64
    let n := 2 ^ size.toNat
    let a := s.localOf ea
    let b : Int := (s.rx base).toNat + (s.rx idx).toNat * 2 ^ scl.toNat + off.toInt
    let w := 8 * size.toNat + hint.toNat + 1
    let lb := s.curLaunch.lbase + b.toNat / 8
    let k := b.toNat % 8
    s.curCore.fill = none →
    (size.toNat ≤ 3 → s.InRegion ea n →
      (s.StoreMay ord →
        StoresLocal (.st d base idx scl size ord scope hint off) s ord a n (fun j => (s.rx d).getLsbD j) ∧
        (s.Plain (d.setWidth 5) → StoresLocal (.stf d base idx scl size ord scope hint off) s ord a n
          fun j => (s.cur.getF (d.setWidth 5)).getLsbD j) ∧
        (s.DrainsFirst ord → exec (.st d base idx scl size ord scope hint off) s = exec .drain s)) ∧
      (¬s.StoreMay ord → LosesTurn (.st d base idx scl size ord scope hint off) s)) ∧
    (s.InRegion ea 16 → s.StoreMay ord →
      StoresLocal (.stp d base idx scl size ord scope hint off) s ord a 16
        fun j => if j < 64 then (s.rx d).getLsbD j else (s.rx (d + 1#6)).getLsbD (j - 64)) ∧
    (0 ≤ b → b + w ≤ 8 * s.curLaunch.hdr.lmem →
      ∃ t, exec (.stb d base idx scl size hint off) s = .next t ∧ s.LocalWrite t lb ((k + w + 7) / 8)
        (fun j => if k ≤ j ∧ j < k + w then (s.rx d).getLsbD (j - k) else s.lbit lb j)
        (fun x => 8 * lb + k ≤ 64 * x ∧ 64 * x + 64 ≤ 8 * lb + k + w))

/-- R163, R251: an atomic on local memory is one indivisible step: X[D] receives the old word zero-extended and the word
becomes the result of the operation; a CAS that does not match writes nothing. One of ORD 5 first drains the core's L1 (R256,
R269). -/
def Says.LocalAtomics : Prop :=
  ∀ (s : State) (d base idx : BitVec 6) (size ord scope : BitVec 3) (off : BitVec 48),
    let ea := s.rx base + off.signExtend 64
    let n := 2 ^ size.toNat
    let a := s.localOf ea
    let v := s.rx idx
    let z (x : Word) : Int := Int.bmod x.toNat (2 ^ (8 * n))
    let u (x : Word) : Nat := x.toNat % 2 ^ (8 * n)
    let does (i : Instr) (new : Word → Word) : Prop := BankAtomic i s ord a n d new
    2 ≤ size.toNat → size.toNat ≤ 3 → s.InRegion ea n → s.Unpoisoned a n → s.curCore.fill = none → s.StoreMay ord →
    does (.amoAdd d base idx size ord scope off) (fun o => o + v) ∧
    does (.amoAnd d base idx size ord scope off) (fun o => o &&& v) ∧
    does (.amoOr d base idx size ord scope off) (fun o => o ||| v) ∧
    does (.amoXor d base idx size ord scope off) (fun o => o ^^^ v) ∧
    does (.amoSmin d base idx size ord scope off) (fun o => if z o ≤ z v then o else v) ∧
    does (.amoSmax d base idx size ord scope off) (fun o => if z v ≤ z o then o else v) ∧
    does (.amoUmin d base idx size ord scope off) (fun o => if u o ≤ u v then o else v) ∧
    does (.amoUmax d base idx size ord scope off) (fun o => if u v ≤ u o then o else v) ∧
    does (.amoSwap d base idx size ord scope off) (fun _ => v) ∧
    ((∀ j < 8 * n, s.lbit a j = (s.rx d).getLsbD j) → does (.cas d base idx size ord scope off) (fun _ => v)) ∧
    (¬(∀ j < 8 * n, s.lbit a j = (s.rx d).getLsbD j) → ∀ u, s.ActsIn u ord → ∃ t old,
      exec (.cas d base idx size ord scope off) s = .next t ∧ HasBits (8 * n) false (s.lbit a) old ∧
      t.rx d = (if d = 0#6 then 0#64 else old) ∧ u.Frame t [d] [] [] [])

/-- R163, R251, R185: AMOF on local memory; the sum is rounded to FP32 once with RNE, MIN and MAX are those of VMIN and
VMAX, F[D] receives the old word, and no flag is raised. -/
def Says.LocalFloatAtomics : Prop :=
  ∀ (s : State) (d base idx : BitVec 6) (ord scope : BitVec 3) (off : BitVec 48),
    let ea := s.rx base + off.signExtend 64
    let a := s.localOf ea
    let v := (s.cur.getF (idx.setWidth 5)).toNat
    let rounded (x : FVal) : Nat := (roundTo 0 0 false x ⟨0, 1#64⟩).1
    let does (i : Instr) (new : Nat → Nat) : Prop := ∀ s1, s.ActsIn s1 ord → ∃ t u old,
      exec i s = .next t ∧ HasBits 32 false (s.lbit a) old ∧
      s1.LocalWrite u a 4 (fun j => (new old.toNat).testBit j) (Whole a 4) ∧
      t.cur.getF (d.setWidth 5) = old ∧ u.Frame t [] [] [d.setWidth 5] []
    s.InRegion ea 4 → s.Unpoisoned a 4 → s.curCore.fill = none → s.StoreMay ord →
      s.Plain (idx.setWidth 5) → s.Plain (d.setWidth 5) →
    does (.amofAdd d base idx 2#3 ord scope off) (fun o => rounded (fAdd 0 (valueOf 0 o) (valueOf 0 v) ⟨0, 1#64⟩).1) ∧
    does (.amofMin d base idx 2#3 ord scope off) (fun o => rounded (fMinMax false (valueOf 0 o) (valueOf 0 v))) ∧
    does (.amofMax d base idx 2#3 ord scope off) (fun o => rounded (fMinMax true (valueOf 0 o) (valueOf 0 v)))

/-- R161, R248, R249: which trap an access raises first. A misaligned address raises Alignment; an address in the window
outside the region raises Protection; a load or atomic of poisoned local words raises Poison. Each with the address. While the
bank holds back a FILL, an access of the window loses its turn instead (R163, R273). -/
def Obligations.AccessTraps : Prop :=
  ∀ (s : State) (sub : BitVec 4) (d base idx : BitVec 6) (scl : BitVec 2) (size ord scope hint : BitVec 3)
      (off : BitVec 48), size.toNat ≤ 3 →
    let ea := s.rx base + s.rx idx * 2#64 ^ scl.toNat + off.signExtend 64
    let ea' := s.rx base + off.signExtend 64
    let n := 2 ^ size.toNat
    let win (x : Word) : Prop := Config.windowBase ≤ x.toNat ∧ x.toNat < Config.windowBase + Config.windowBytes
    let outside (x : Word) (n : Nat) : Prop := win x ∧ s.curLaunch.hdr.lmem < x.toNat - Config.windowBase + n
    let accesses : List (Instr × Word × Nat) := [
      (.ld sub d base idx scl size ord scope hint off, ea, n), (.st d base idx scl size ord scope hint off, ea, n),
      (.ldf d base idx scl size ord scope hint off, ea, n), (.ldp d base idx scl size ord scope hint off, ea, 16),
      (.stp d base idx scl size ord scope hint off, ea, 16), (.amoAdd d base idx size ord scope off, ea', n),
      (.amoAnd d base idx size ord scope off, ea', n), (.amoOr d base idx size ord scope off, ea', n),
      (.amoXor d base idx size ord scope off, ea', n), (.amoSmin d base idx size ord scope off, ea', n),
      (.amoSmax d base idx size ord scope off, ea', n), (.amoUmin d base idx size ord scope off, ea', n),
      (.amoUmax d base idx size ord scope off, ea', n), (.amoSwap d base idx size ord scope off, ea', n),
      (.cas d base idx size ord scope off, ea', n), (.waitf d base idx scl size off, ea, 8),
      (.waitfE d base idx scl size off, ea, 8), (.fill d base idx scl size off, ea, 8),
      (.empty base idx scl size off, ea, 8)]
    (∀ x ∈ accesses, x.2.1.toNat % x.2.2 ≠ 0 → TrapsWith x.1 s .alignment x.2.1 0#64) ∧
    (∀ x ∈ accesses, x.2.1.toNat % x.2.2 = 0 → outside x.2.1 x.2.2 → ∃ extra,
      exec x.1 s = .next (s.useFree.takeTrap .protection x.2.1 extra) ∧ extra.toNat % 16 = 7) ∧
    (∀ i ∈ [Instr.ld sub d base idx scl size ord scope hint off, .ldf d base idx scl size ord scope hint off],
      s.InRegion ea n → ¬s.Unpoisoned (s.localOf ea) n → s.curCore.fill = none → s.LoadMay ord → TrapsWith i s .poison ea 0#64) ∧
    (∀ i ∈ [Instr.amoAdd d base idx size ord scope off, .amoSwap d base idx size ord scope off,
        .cas d base idx size ord scope off], s.InRegion ea' n → ¬s.Unpoisoned (s.localOf ea') n →
      s.curCore.fill = none → s.StoreMay ord → ∀ u, s.ActsIn u ord → ∃ t, exec i s = .next t ∧ u.Trapped t .poison ea' 0#64) ∧
    (s.curCore.fill ≠ none → ∀ x ∈ accesses, x.2.1.toNat % x.2.2 = 0 → win x.2.1 → ¬outside x.2.1 x.2.2 → LosesTurn x.1 s)

/-! ### Full/empty words -/

/-- R167, R168, R170: WAITF reads a full word, and WAITF.E empties it; on an empty word the thread parks on its wait list,
and a handler raises Handler-Block. EMPTY empties the word. -/
def Says.FullEmptyWords : Prop :=
  ∀ (s : State) (d base idx : BitVec 6) (scl : BitVec 2) (size : BitVec 3) (off : BitVec 48),
    let ea := s.rx base + s.rx idx * 2#64 ^ scl.toNat + off.signExtend 64
    let a := s.localOf ea
    let c := s.iss.core
    let parks (i : Instr) (take : Bool) : Prop :=
      exec i s = .next (s.setThread c s.iss.slot { s.cur with st := .parked (.word a take d) })
    let emptied (u : State) : Prop := u.core c = { s.core c with full := (u.core c).full } ∧
      (∀ w, w ∈ (u.core c).full ↔ w ∈ (s.core c).full ∧ w ≠ a / 8) ∧
      (∀ i, i ≠ c → u.core i = s.core i) ∧ u = { s with cores := u.cores }
    s.InRegion ea 8 → (s.core c).fill = none →
    (a / 8 ∈ (s.core c).full → s.Unpoisoned a 8 →
      WritesX (.waitf d base idx scl size off) s d (HasBits 64 false (s.lbit a)) ∧
      ∃ u t v, exec (.waitfE d base idx scl size off) s = .next t ∧ emptied u ∧ HasBits 64 false (s.lbit a) v ∧
        t.rx d = (if d = 0#6 then 0#64 else v) ∧ u.Frame t [d] [] [] []) ∧
    (a / 8 ∉ (s.core c).full → s.iss.slot ≠ 14 →
      parks (.waitf d base idx scl size off) false ∧ parks (.waitfE d base idx scl size off) true) ∧
    (a / 8 ∉ (s.core c).full → s.iss.slot = 14 → TrapsWith (.waitf d base idx scl size off) s .handlerBlock 0#64 0#64 ∧
      TrapsWith (.waitfE d base idx scl size off) s .handlerBlock 0#64 0#64) ∧
    (∃ u, exec (.empty base idx scl size off) s = .next u ∧ emptied u)

/-- R168, R109: FILL writes its word, and serves its waiters in ascending slot order up to the first WAITF.E, which takes
the word. A waiter that is served has the word in its register and is ready; the others stay parked. While requests of the
thread that the FILL releases are under way, its bank holds it back and the thread goes on (R273). -/
def Says.FillServesWaiters : Prop :=
  ∀ (s : State) (d base idx : BitVec 6) (scl : BitVec 2) (size : BitVec 3) (off : BitVec 48),
    let ea := s.rx base + s.rx idx * 2#64 ^ scl.toNat + off.signExtend 64
    let a := s.localOf ea
    let c := s.iss.core
    let waits (i : Nat) (x : Thread) (take : Bool) (r : BitVec 6) : Prop :=
      s.thread? c i = some x ∧ x.st = .parked (.word a take r)
    let takes (i : Nat) : Prop := ∃ x r, waits i x true r
    s.InRegion ea 8 → (s.core c).fill = none →
    (s.curOutstanding ≠ [] → exec (.fill d base idx scl size off) s = .next (s.setCore c { s.core c with
      fill := some ⟨s.cur.launch, a, s.rx d, s.curOutstanding⟩ })) ∧
    (s.curOutstanding = [] → s.cur.st = .ready → keysRise s.curCore.slots = true →
    ∃ t, exec (.fill d base idx scl size off) s = .next t ∧ (∀ j < 64, t.lbit a j = (s.rx d).getLsbD j) ∧
      (∀ b, b < a ∨ a + 8 ≤ b → t.lbyte b = s.lbyte b) ∧ t.cur = s.cur ∧
      (a / 8 ∈ (t.core c).full ↔ ∀ i, ¬takes i) ∧ (∀ w, w ≠ a / 8 → (w ∈ (t.core c).full ↔ w ∈ (s.core c).full)) ∧
      (∀ i x take r, waits i x take r → (∀ j < i, ¬takes j) → t.thread? c i =
        some { x.setX r (s.rx d) with st := .ready, startAt := max x.startAt ((s.core c).cyc + 1) }) ∧
      (∀ i x take r, waits i x take r → (∃ j < i, takes j) → t.thread? c i = s.thread? c i) ∧
      (∀ i, (∀ x take r, ¬waits i x take r) → t.thread? c i = s.thread? c i) ∧
      t.core c = { s.core c with lmem := (t.core c).lmem, lpoison := (t.core c).lpoison, full := (t.core c).full,
                                 slots := (t.core c).slots } ∧
      (∀ i, i ≠ c → t.core i = s.core i) ∧ t = { s with cores := t.cores, net := t.net })

/-! ### Encodings -/

/-- R30 to R40: every well-formed instruction has a slot, and decoding the slot gives the instruction and the guard
back, with every operand at every value that the encoding admits. -/
def Obligations.DecodeOfEncode : Prop :=
  ∀ (g : Guard) (i : Instr), i.WellFormed → ∃ w, encode g i = some w ∧ decodeSlot w = .ok i ∧ slotGuard w = g

/-- R30, R40: a slot that decodes gives a well-formed instruction and is the one slot that stands for it under its guard:
no reserved field of it is set. Only the illegal opcode 0xFF ignores its other bits. -/
def Says.EncodeOfDecode : Prop :=
  ∀ (w : Slot) (i : Instr), decodeSlot w = .ok i →
    i.WellFormed ∧ (i = .ill ∧ slotOpc w = 0xFF#8 ∨ encode (slotGuard w) i = some w)

/-- R23, R25, R38: the opcodes of class I and of class V are disjoint, every slot that decodes is of one of them or has
opcode 0xFF, and no event of the machine is a slot. -/
def Says.OpcodeClasses : Prop :=
  (∀ o : BitVec 8, ¬(classI o = true ∧ classV o = true)) ∧
  (∀ (w : Slot) (i : Instr), decodeSlot w = .ok i →
    classI (slotOpc w) = true ∨ classV (slotOpc w) = true ∨ slotOpc w = 0xFF#8) ∧
  ∀ (g : Guard) (i : Instr), isEvent i = true → encode g i = none ∧ ¬i.WellFormed

/-- Sanity (R30 to R38): words written out from the encoding tables decode to the instructions they stand for. -/
def Obligations.DecodedWords : Prop :=
  decodeSlot 0x0100_0000_0000_0000_0000_0042#96 = .ok (.brk 0x42#32) ∧
  decodeSlot 0x1000_1872_00E0_0000_0000_0000#96 = .ok (.add 6#6 7#6 8#6 14#4) ∧
  decodeSlot 0x2500_0803_0000_0000_0000_1234#96 = .ok (.ldi 2#6 3#4 0x1234#64) ∧
  decodeSlot 0x0350_0031_0000_0000_0000_0099#96 = .ok (.trap 5#4 3#6 4#6 0x99#32) ∧
  decodeSlot 0x5610_1420_0203_0000_0000_0003#96 = .ok (.ldb 1#4 5#6 2#6 0#6 0#2 1#3 3#3 3#48) ∧
  decodeSlot 0xF310_0020_0000_8000_0000_0000#96 = .ok (.tresumeNext 2#6 1#3)

/-! ### The step -/

/-- R20 to R28, R30, R40, R106: at its turn a thread whose line is at hand issues the slot at its PC. A guarded-on slot
that decodes to `i` runs as `exec i` in the issue context of the slot, the PC already past it; what the issue leaves is
settled and the core's cycle ends. A guarded-off slot has no effect, and one that does not decode raises
Illegal-Instruction. -/
def Obligations.StepRunsTheSlot : Prop :=
  ∀ (s : State) (c sl k : Nat) (rest : List Instr) (x : Thread) (s1 : State) (bits : BitVec 512),
    let s0 := { s with agenda := rest }
    let y := s1.thread c sl
    let w := lineSlot bits k
    let s2 := { s1 with latch := none, iss := { core := c, slot := sl, pc := y.pc, npc := slotAfter y.pc k, pair := false,
                                                raw := w, shadow := none, st := .issued, mts := none } }
    let s3 := s2.setThread c sl { y with pc := slotAfter y.pc k, lastPc := y.pc, count := y.count + 1, xfer := false }
    s.TurnOf c sl rest → s0.MayIssue c sl x → s0.fetchLine c sl = (s1, some bits) → pcSlot y.pc = some k →
      k ∉ tplPairs (lineTpl bits) →
    (guardOn y w = true → ∀ i, decodeSlot w = .ok i → slotOpc w ≠ 0xFF#8 → s2.NoHazard w (usesOf i) → ∀ u,
      exec i s3 = .next u → step s = .next ((u.settle y).endCycle c true)) ∧
    (guardOn y w = true → (∃ e, decodeSlot w = .error e) → s2.NoHazard w Uses.none →
      step s = .next ((s2.takeTrap .illegalInstruction 0#64 0#64).endCycle c true)) ∧
    (guardOn y w = false → slotOpc w ≠ 0xFF#8 → s2.NoHazard w Uses.none →
      step s = .next ((s3.settle y).endCycle c true)) ∧
    (slotOpc w = 0xFF#8 → s2.NoHazard w Uses.none →
      step s = .next ((s2.takeTrap .illegalInstruction 0#64 0#64).endCycle c true))

/-- R24 to R27, R99, R104, R161: where the bits of a line come from. A thread that runs on in a line uses the copy it
holds; else a line in the local window comes from local memory and any other from the L1 instruction cache at the
translated address, or it is a miss. On entry a line of good parity is checked: line, pair, then target. -/
def Says.LineFetch : Prop :=
  ∀ (s : State) (c sl : Nat),
    let x := s.thread c sl
    let va := pcLine x.pc
    let l := s.launch x.dom x.launch
    let new : Prop := ∀ h, x.held = some h → x.xfer = true ∨ h.va ≠ va
    let enters (s1 : State) (bits : BitVec 512) : Prop := lineParityOk bits = true →
      (lineCheck bits = .ok → (x.xfer = true → targetOk x bits = true) → s.fetchLine c sl =
        (s1.setThread c sl { s1.thread c sl with held := some ⟨va, bits⟩, xfer := false }, some bits)) ∧
      (lineCheck bits = .ok → x.xfer = true → targetOk x bits = false →
        s.fetchLine c sl = (s1.fetchTrap c sl .illegalTarget, none)) ∧
      (lineCheck bits = .illegalLine → s.fetchLine c sl = (s1.fetchTrap c sl .illegalLine, none)) ∧
      (lineCheck bits = .illegalPair → s.fetchLine c sl = (s1.fetchTrap c sl .illegalPair, none))
    (∀ h, x.held = some h → x.xfer = false → h.va = va → s.fetchLine c sl = (s, some h.bits)) ∧
    (new → inWindow va = true → winOff va + 64 ≤ l.hdr.lmem → (∀ i < 64, (l.lbase + winOff va + i) / 8 ∉ (s.core c).lpoison) →
      ∃ bits : BitVec 512, enters s bits ∧ ∀ j < 512, bits.getLsbD j =
        (Memory.get (s.core c).lmem (l.lbase + winOff va + j / 8)).getLsbD (j % 8)) ∧
    (new → inWindow va = true → l.hdr.lmem < winOff va + 64 → s.fetchLine c sl = (s.fetchTrap c sl .protection, none)) ∧
    (∀ s1 pa e b, new → inWindow va = false → s.translate c x.dom x.asn x.root va .exec = (s1, .ok pa e) →
      (s1.core c).icache.find? (fun l => l.dom == x.dom && l.pa == pa) = some b → enters s1 b.bits) ∧
    (∀ s1 pa e, new → inWindow va = false → s.translate c x.dom x.asn x.root va .exec = (s1, .ok pa e) →
      (s1.core c).icache.find? (fun l => l.dom == x.dom && l.pa == pa) = none →
      s.fetchLine c sl = (s1.setThread c sl { s1.thread c sl with fetching := some (pa, false) }, none)) ∧
    (∀ s1 cause info, new → inWindow va = false → s.translate c x.dom x.asn x.root va .exec = (s1, .fail cause info) →
      s.fetchLine c sl = (s1.fetchTrap c sl cause, none))

/-! ### Reset and invariants -/

/-- R3, R83, R106, R242, R355, R383: what reset leaves by the spec: bring-up step 1 and READY clear, no partition, no
thread, every CYCLE and counter zero, no line in any cache. That memory reads as zero is the model's choice (log 1). -/
def Says.ResetState : Prop :=
  let s := State.reset
  s.bootStep = 1 ∧ s.ready = false ∧ s.bootErr = 0#8 ∧ s.net = [] ∧ s.cycle = 0 ∧
  (∀ d < 16, (s.dom d).st = .none ∧ (s.dom d).launches = [] ∧ (s.dom d).keys = [] ∧ (s.dom d).dir = []) ∧
  (∀ c, (s.core c).cyc = 0 ∧ (s.core c).tc = 0 ∧ (s.core c).slots = [] ∧ (s.core c).trapq = [] ∧ (s.core c).icache = [] ∧
    (s.core c).tlb = [] ∧ (s.core c).cube = Cube.empty ∧ (s.core c).seq = 0#16) ∧
  (∀ a, (s.cache a).lines = [] ∧ (s.cache a).relcnt = 0#64 ∧ (s.cache a).drains = 0#32) ∧
  ∀ d a, Memory.get (s.dom d).mem a = 0#8

/-- The reset state is sound. -/
def Says.ResetSound : Prop := State.reset.Sound

/-- R383 and the canonical form of memory (log 1): every step from a sound state leads to a sound state. -/
def Obligations.StepsKeepSound : Prop := ∀ s t : State, s.Sound → step s = .next t → t.Sound

/-- R5: every step answers a next state: no instruction and no event of the machine is refused, and none stops the machine.
A unit that reads an address at which its partition has no memory goes on with what log 9 says. -/
def Obligations.NoRefusal : Prop := ∀ s : State, ∃ t, step s = .next t

/-! ### Global memory: at issue -/

/-- R242, R244, R248, R256: a load at a translated address. A plain one that hits the core's L1 reads the copy, and poison
there traps; one that misses, or whose page is not cached, leaves for the home and the thread waits; an ordered one of
scope 1 or wider is performed at the home once the thread's releases are acknowledged, its L1 copy dropped first. While an
outside agent must first give up a table entry, the turn is lost (R302). -/
def Says.GlobalLoads : Prop :=
  ∀ (s : State) (d base idx : BitVec 6) (scl : BitVec 2) (size ord scope hint : BitVec 3) (off : BitVec 48)
      (s1 : State) (pa : Nat) (e : TlbEnt), size.toNat ≤ 3 →
    let ea := s.rx base + s.rx idx * 2#64 ^ scl.toNat + off.signExtend 64
    let n := 2 ^ size.toNat
    let ag := s.agentOf s.iss.core
    let dm := s.cur.dom
    let cached : Bool := e.flags.getLsbD 5 && e.bias.all fun b => b.2 != 1#2 && b.2 != 2#2
    let keep : Bool := e.flags.getLsbD 6 || e.flags.getLsbD 7
    let loads : List (Instr × Nat × Dst) := [
      (.ld 0#4 d base idx scl size ord scope hint off, n, .x d false),
      (.ld 1#4 d base idx scl size ord scope hint off, n, .x d true),
      (.ldf d base idx scl size ord scope hint off, n, .f (d.setWidth 5)),
      (.ldp d base idx scl size ord scope hint off, 16, .xpair d)]
    ∀ x ∈ loads, Global ea x.2.1 →
    (∀ s', s.translateCur ea .read = (s', .wait) → exec x.1 s = .next s'.loseTurn) ∧
    (s.translateCur ea .read = (s1, .ok pa e) →
    ((ord = 0#3 ∨ scope = 0#3) → s1.LoadMay ord →
      (cached = true → ∀ v, s1.loadL1 ag dm pa x.2.1 = some (v, false) → ∃ t : State,
        exec x.1 s = .next t ∧ (∀ a d' pa' n', t.loadL1 a d' pa' n' = s1.loadL1 a d' pa' n') ∧
        t = { s1.deliver s.iss.core s.iss.slot x.2.2 x.2.1 v s.iss.pc with caches := t.caches }) ∧
      (cached = true → ∀ v, s1.loadL1 ag dm pa x.2.1 = some (v, true) →
        exec x.1 s = .next (s1.takeTrap .poison ea 0#64)) ∧
      (cached = false ∨ s1.loadL1 ag dm pa x.2.1 = none → ∃ (t : State) (m : Msg), exec x.1 s = .next t ∧ s1.SendsAndWaits t m ∧
        m.kind = .load (cached && hint != 2#3) keep (cached && hint == 1#3 && decide (ord.toNat ≤ 1)) ∧ m.pa = pa ∧ m.n = x.2.1 ∧ m.va = ea ∧
        m.dst = x.2.2 ∧ m.after = [])) ∧
    (ord ≠ 0#3 → scope ≠ 0#3 → ∃ (s2 t : State) (m : Msg), exec x.1 s = .next t ∧ s2 = s1.flushLine ag dm pa ∧
      s2.loadL1 ag dm pa x.2.1 = none ∧ s2.SendsAndWaits t m ∧ m.kind = .read ∧ m.ord = ord.toNat ∧ m.scope = scope.toNat ∧
      m.pa = pa ∧ m.n = x.2.1 ∧ m.va = ea ∧ m.dst = x.2.2 ∧ ∀ id ∈ s1.curReleases, id ∈ m.after) ∧
    (scope = 0#3 → ¬s1.LoadMay ord → exec x.1 s = .next s1.loseTurn))

/-- R242, R244, R248, R256, R261, R262, R264: a store at a translated address. A plain one enters the L1 with its bytes
dirty and touches neither the home nor the thread; .STRM and pages that are not cached send it to the home and go on; an
ordered one of scope 1 or wider waits for its acknowledgement, and a release is counted in RELCNT and carries its
epoch. One of ORD 5 that the core itself performs first drains the L1 as DRAIN does (R269). -/
def Says.GlobalStores : Prop :=
  ∀ (s : State) (d base idx : BitVec 6) (scl : BitVec 2) (size ord scope hint : BitVec 3) (off : BitVec 48)
      (s1 : State) (pa : Nat) (e : TlbEnt), size.toNat ≤ 3 → pa % 2 ^ size.toNat = 0 →
    let ea := s.rx base + s.rx idx * 2#64 ^ scl.toNat + off.signExtend 64
    let n := 2 ^ size.toNat
    let ag := s.agentOf s.iss.core
    let dm := s.cur.dom
    let i : Instr := .st d base idx scl size ord scope hint off
    let cached : Bool := e.flags.getLsbD 5 && e.bias.all fun b => b.2 != 1#2 && b.2 != 2#2
    let data (m : Msg) : Prop := ∀ j < 8 * n, m.data.getLsbD j = (s.rx d).getLsbD j
    let clean (t : State) : Prop := ∀ l, (t.cache ag).find dm (pa / 128) = some l → ∀ j < n, l.dirty.getLsbD (pa % 128 + j) = false
    s.translateCur ea .write = (s1, .ok pa e) → Global ea n →
    ((ord = 0#3 ∨ scope = 0#3) → s1.StoreMay ord → s1.DrainsFirst ord → exec i s = exec .drain s1) ∧
    ((ord = 0#3 ∨ scope = 0#3) → s1.StoreMay ord → ∀ u, s1.ActsIn u ord →
      (cached = true → hint ≠ 2#3 → ∃ (t : State) (l : L1Line), exec i s = .next t ∧ u.OnlyEvicts t ag dm (pa / 128) ∧
        (t.cache ag).find dm (pa / 128) = some l ∧
        (∀ j < n, l.valid.getLsbD (pa % 128 + j) = true ∧ l.dirty.getLsbD (pa % 128 + j) = true ∧
          ∀ b < 8, l.data.getLsbD (8 * (pa % 128 + j) + b) = (s.rx d).getLsbD (8 * j + b)) ∧
        (∀ o, (s1.cache ag).find dm (pa / 128) = some o →
          (∀ j < 128, j < pa % 128 ∨ pa % 128 + n ≤ j → l.valid.getLsbD j = o.valid.getLsbD j ∧
            l.dirty.getLsbD j = o.dirty.getLsbD j ∧ ∀ b < 8, l.data.getLsbD (8 * j + b) = o.data.getLsbD (8 * j + b)) ∧
          l.epoch = (if o.dirty = 0#128 then (s1.cache ag).relcnt.setWidth 24 else o.epoch)) ∧
        ((s1.cache ag).find dm (pa / 128) = none →
          (∀ j < 128, j < pa % 128 ∨ pa % 128 + n ≤ j → l.valid.getLsbD j = false) ∧
          l.epoch = (s1.cache ag).relcnt.setWidth 24)) ∧
      (cached = false ∨ hint = 2#3 → ∃ (s2 t : State) (m : Msg), exec i s = .next t ∧ s2.Sends t m ∧ m.kind = .store ∧ m.pa = pa ∧ m.n = n ∧
        data m ∧ s2.cur = s1.cur ∧ (∀ dd, s2.dom dd = s1.dom dd) ∧ clean s2)) ∧
    ((ord = 0#3 ∨ scope = 0#3) → ¬s1.StoreMay ord → exec i s = .next s1.loseTurn) ∧
    (ord ≠ 0#3 → scope ≠ 0#3 → (ord.toNat < 3 ∨ s1.foldBlocks ag = false) → ∃ (s2 t : State) (m : Msg), exec i s = .next t ∧
      s2.SendsAndWaits t m ∧ m.pa = pa ∧ m.n = n ∧ m.va = ea ∧ data m ∧ m.ord = ord.toNat ∧ m.scope = scope.toNat ∧
      s2.cur = s1.cur ∧ (∀ dd, s2.dom dd = s1.dom dd) ∧ s2.loadL1 ag dm pa n = none ∧
      (ord = 1#3 → m.kind = .store ∧ (s2.cache ag).relcnt = (s1.cache ag).relcnt ∧ ∀ id ∈ s1.curReleases, id ∈ m.after) ∧
      (3 ≤ ord.toNat → m.kind = .release ∧ (s2.cache ag).relcnt = (s1.cache ag).relcnt + 1#64 ∧
        m.epoch = ((s1.cache ag).relcnt + 1#64).setWidth 24 ∧ ∀ id ∈ s1.curOutstanding, id ∈ m.after) ∧
      (ord = 5#3 ∨ scope = 6#3 → 3 ≤ ord.toNat → ∀ l ∈ (s2.cache ag).lines, l.dirty = 0#128)) ∧
    (3 ≤ ord.toNat → scope ≠ 0#3 → s1.foldBlocks ag = true → exec i s = .next s1.loseTurn)

/-- R248, R251, R256, R261, R264: an atomic at a translated address leaves for its home with its operation, operand and
comparand, its L1 copy written back and dropped. It waits for the reply, but for an AMO of D = 0 with ORD 1, 3 or 5; a
release part of scope 1 or wider is counted and waits for the thread's earlier requests; an eager one drains the L1 first
(R269). -/
def Says.GlobalAtomics : Prop :=
  ∀ (s : State) (d base idx : BitVec 6) (size ord scope : BitVec 3) (off : BitVec 48) (s1 : State) (pa : Nat)
      (e : TlbEnt), 2 ≤ size.toNat → size.toNat ≤ 3 →
    let ea := s.rx base + off.signExtend 64
    let n := 2 ^ size.toNat
    let ag := s.agentOf s.iss.core
    let rel : Bool := decide (3 ≤ ord.toNat) && scope != 0#3
    let atomics : List (Instr × Nat) := [
      (.amoAdd d base idx size ord scope off, 0), (.amoAnd d base idx size ord scope off, 1),
      (.amoOr d base idx size ord scope off, 2), (.amoXor d base idx size ord scope off, 3),
      (.amoSmin d base idx size ord scope off, 4), (.amoSmax d base idx size ord scope off, 5),
      (.amoUmin d base idx size ord scope off, 6), (.amoUmax d base idx size ord scope off, 7),
      (.amoSwap d base idx size ord scope off, 8), (.cas d base idx size ord scope off, 9)]
    s.translateCur ea .both = (s1, .ok pa e) → Global ea n → ∀ x ∈ atomics,
    (rel = true → s1.foldBlocks ag = true → exec x.1 s = .next s1.loseTurn) ∧
    (rel = false ∨ s1.foldBlocks ag = false → ∃ (s2 t : State) (m : Msg), exec x.1 s = .next t ∧
      (if x.2 ≠ 9 ∧ d = 0#6 ∧ (ord = 1#3 ∨ ord = 3#3 ∨ ord = 5#3 ∨ ord = 7#3) then s2.Sends t m else s2.SendsAndWaits t m) ∧
      m.kind = .atomic x.2 (if x.2 = 9 then s.rx d else 0#64) ∧ m.pa = pa ∧ m.n = n ∧ m.va = ea ∧ m.ord = ord.toNat ∧
      m.scope = scope.toNat ∧ m.data = (s.rx idx).setWidth 1024 ∧ m.dst = .x d false ∧ s2.cur = s1.cur ∧
      (∀ dd, s2.dom dd = s1.dom dd) ∧ (∀ k, s2.loadL1 ag s.cur.dom pa (k + 1) = none) ∧
      (s2.cache ag).relcnt = (s1.cache ag).relcnt + (if rel then 1#64 else 0#64) ∧
      (ord = 5#3 ∨ scope = 6#3 → 3 ≤ ord.toNat → ∀ l ∈ (s2.cache ag).lines, l.dirty = 0#128) ∧
      ∀ id ∈ (if 3 ≤ ord.toNat then s1.curOutstanding else s1.curReleases), id ∈ m.after)

/-- R250: PREF never faults and never waits. It changes no register and no byte of memory; where its address translates
for read it asks for the line, PREF.L1 only where the page is cached and the line not all in L1; else it does nothing. Only a
page that the L1 caches has replicas (R246). -/
def Says.Prefetches : Prop :=
  ∀ (s : State) (base idx : BitVec 6) (scl : BitVec 2) (hint : BitVec 3) (off : BitVec 48),
    let ea := s.rx base + s.rx idx * 2#64 ^ scl.toNat + off.signExtend 64
    let win := Config.windowBase ≤ ea.toNat ∧ ea.toNat < Config.windowBase + Config.windowBytes
    ∀ x ∈ [(Instr.prefL1 base idx scl hint off, true), (.prefL2 base idx scl hint off, false)],
    (∃ t : State, exec x.1 s = .next t ∧ t.cur = s.cur ∧ t.iss = s.iss ∧ s.SameMemory t) ∧
    (win → exec x.1 s = .next s) ∧
    (∀ s1 c info, ¬win → s.translateCur ea .read = (s1, .fail c info) → exec x.1 s = .next s1) ∧
    (∀ s1, ¬win → s.translateCur ea .read = (s1, .wait) → exec x.1 s = .next s1) ∧
    (∀ s1 pa e, ¬win → s.translateCur ea .read = (s1, .ok pa e) →
      let cached : Bool := e.flags.getLsbD 5 && e.bias.all fun b => b.2 != 1#2 && b.2 != 2#2
      let need := x.2 = false ∨ cached = true ∧ s1.loadL1 s1.curAgent s1.cur.dom (pa / 128 * 128) 128 = none
      (¬need → exec x.1 s = .next s1) ∧
      (need → ∃ (t : State) (m : Msg), exec x.1 s = .next t ∧ s1.Sends t m ∧ m.kind = .load x.2 (e.flags.getLsbD 6 || e.flags.getLsbD 7)
        (cached && hint == 1#3) ∧ m.pa = pa / 128 * 128 ∧ m.n = 128))

/-! ### Global memory: at the home -/

/-- R246, R248, R249: PLAIN_LOAD_AT_HOME answers a load with the 128 bytes of its line as they stand, and with the poison
of its words; the L2 holds the line then (R244), and one with HINT .REPL leaves a replica at its cluster. Every byte of memory
and every other request stays as it is. -/
def Says.PlainLoadAtHome : Prop :=
  ∀ (s : State) (id : Nat) (m : Msg) (alloc keep repl : Bool), s.AtHome id false m → m.kind = .load alloc keep repl →
    let line := m.pa / 128
    ∃ t m', exec (.plainLoadAtHome id) s = .next t ∧ s.NowIs t id m' ∧
      m' = { m with st := .replied, data := m'.data, pmask := m'.pmask } ∧
      (∀ j < 1024, m'.data.getLsbD j = s.hbit m.dom (128 * line) j) ∧
      (∀ i < 16, m'.pmask.getLsbD i = true ↔ 16 * line + i ∈ (s.dom m.dom).poison) ∧
      (repl = true → (line, m.core / 6) ∈ (t.dom m.dom).replicas) ∧ (repl = false → s.UsesHome t m) ∧ line ∈ (t.dom m.dom).l2 ∧
      s.SameMemory t ∧ t = { s with doms := t.doms, net := t.net }

/-- R242, R244, R248, R249, R256, R349, R352: WRITE_BACK_AT_HOME performs the dirty bytes of a write-back, and the bytes of a
store performed at the home, and no other byte; a store that waits is acknowledged. Of a write-back, words that one store
wrote whole lose their poison, and words whose dirty bytes were poisoned are poisoned. -/
def Says.WritesAtHome : Prop :=
  ∀ (s : State) (id : Nat) (m : Msg), s.AtHome id true m →
    (m.kind = .writeBack → m.pa % 128 = 0 → ∃ u t : State, exec (.writeBackAtHome id) s = .next t ∧
      (s.markServed m).BackWrite u m ∧ u.Left t id ∧ t = { u with net := t.net }) ∧
    (m.kind = .store → m.n ≤ 128 → ∃ u t : State, exec (.writeBackAtHome id) s = .next t ∧
      (s.markServed m).HomeWrite u m.dom m.launch m.pa m.n (fun _ => true) m.data.getLsbD ∧
      (m.wait = true → u.NowIs t id { m with st := .replied }) ∧ (m.wait = false → u.Left t id) ∧
      t = { u with net := t.net })

/-- The record of a line blocks a read of a request of `agent` at scope `sc` until its releaser is drained (R265). -/
def mustDrainFirst (s : State) (m : Msg) (r : RelRec) : Prop :=
  lookup (s.dom m.dom).recs (m.pa / 128) = some r ∧ (r.st = 1 ∨ r.st = 2) ∧ r.agent ≠ m.agent ∧
    scopeCovers r.scope r.agent m.agent = true ∧ scopeCovers m.scope m.agent r.agent = true ∧ m.ord ≠ 0 ∧ m.scope ≠ 0

/-- The record of a line blocks a release of a request of `agent` until its releaser is drained (R267). -/
def mustOverwriteFirst (s : State) (m : Msg) (r : RelRec) : Prop :=
  lookup (s.dom m.dom).recs (m.pa / 128) = some r ∧ (r.st = 1 ∨ r.st = 2) ∧ r.agent ≠ m.agent ∧
    scopeCovers r.scope r.agent m.agent = true

/-- Between `s` and `t` request `m` is held for the drain of the releaser `r` names: the record is draining, and where it
was undrained a DRAIN up to its epoch has left (R265, R266, R267). -/
def heldForDrain (s t : State) (m : Msg) (r : RelRec) : Prop :=
  t.findMsg m.id = some { m with st := .held } ∧ s.SameMemory t ∧
    (r.st = 1 → lookup (t.dom m.dom).recs (m.pa / 128) = some { r with st := 2 } ∧
      ∃ dr ∈ t.net, dr.id = s.nextId ∧ dr.kind = .drain r.agent r.epoch m.id ∧ dr.st = .sent ∧ dr.pa = m.pa ∧ dr.dom = m.dom) ∧
    (r.st = 2 → t.doms = (s.markServed m).doms)

/-- R249, R251, R264 to R267, R286: ATOMIC_AT_HOME is one indivisible step on the word: the reply carries the old word,
the word becomes the new one, and a release part leaves its record. It waits for the drain that its read or its release
needs; poison changes nothing. -/
def Says.AtomicAtHome : Prop :=
  ∀ (s : State) (id : Nat) (m : Msg) (op : Nat) (cmp : Word), s.AtHome id true m → id < s.nextId → m.kind = .atomic op cmp →
      m.n = 4 ∨ m.n = 8 →
    let clean := ∀ w, m.pa / 8 ≤ w → 8 * w < m.pa + m.n → w ∉ (s.dom m.dom).poison
    let old := Memory.read (s.dom m.dom).mem m.pa m.n
    let new := amoNew op m.n old m.data.toNat cmp.toNat
    let rel := 3 ≤ m.ord ∧ m.scope ≠ 0
    (∀ r, mustDrainFirst s m r → ∃ t, exec (.atomicAtHome id) s = .next t ∧ heldForDrain s t m r) ∧
    ((∀ r, ¬mustDrainFirst s m r) → new ≠ none → rel → ∀ r, mustOverwriteFirst s m r →
      ∃ t, exec (.atomicAtHome id) s = .next t ∧ heldForDrain s t m r) ∧
    ((∀ r, ¬mustDrainFirst s m r) → (rel → new ≠ none → ∀ r, ¬mustOverwriteFirst s m r) →
      (¬clean → ∃ t, exec (.atomicAtHome id) s = .next t ∧ s.NowIs t id { m with st := .replied, poisoned := true } ∧
        s.UsesHome t m ∧ t = { s with doms := t.doms, net := t.net }) ∧
      (clean → new = none → ∃ t m', exec (.atomicAtHome id) s = .next t ∧ s.NowIs t id m' ∧ m'.st = .replied ∧
        m'.poisoned = m.poisoned ∧ m'.data.toNat = old ∧ s.SameMemory t ∧ (t.dom m.dom).recs = (s.dom m.dom).recs ∧
        (∀ r, r ∈ (t.dom m.dom).replicas ↔ r ∈ (s.dom m.dom).replicas ∧ r.1 ≠ m.pa / 128) ∧
        t = { s with doms := t.doms, net := t.net }) ∧
      (clean → ∀ v, new = some v → ∃ (s1 u t : State) (m' : Msg), exec (.atomicAtHome id) s = .next t ∧ s.UsesHome s1 m ∧
        s1 = { s with doms := s1.doms } ∧ s1.HomeWrite u m.dom m.launch m.pa m.n (fun _ => true) v.testBit ∧ u.NowIs t id m' ∧ m'.st = .replied ∧
        m'.data.toNat = old ∧ m'.poisoned = m.poisoned ∧ u.SameMemory t ∧
        (rel → lookup (t.dom m.dom).recs (m.pa / 128) =
          some ⟨m.agent, m.epoch, m.scope, if m.ord = 5 ∨ m.scope = 6 then 3 else 1⟩) ∧
        (¬rel → t = { u with net := t.net })))

/-- R251: the new word of each atomic, for the words of 4 and 8 bytes. -/
def Says.AtomicOperations : Prop :=
  ∀ (n : Nat), n = 4 ∨ n = 8 → ∀ a b c : Nat, a < 2 ^ (8 * n) →
    let v := b % 2 ^ (8 * n)
    let z (x : Nat) : Int := Int.bmod x (2 ^ (8 * n))
    amoNew 0 n a b c = some ((a + v) % 2 ^ (8 * n)) ∧ amoNew 1 n a b c = some (a &&& v) ∧
    amoNew 2 n a b c = some (a ||| v) ∧ amoNew 3 n a b c = some (a ^^^ v) ∧
    amoNew 4 n a b c = some (if z a < z v then a else v) ∧ amoNew 5 n a b c = some (if z a < z v then v else a) ∧
    amoNew 6 n a b c = some (min a v) ∧ amoNew 7 n a b c = some (max a v) ∧ amoNew 8 n a b c = some v ∧
    amoNew 9 n a b c = (if a = c % 2 ^ (8 * n) then some v else none)

/-- R264, R267: RELEASE_AT_HOME performs the write and leaves its record, whose releaser is the issuing core with the
epoch and scope of the release; it waits for the drain of another releaser that the record it overwrites still needs, and
then makes the core self-invalidate. -/
def Says.ReleaseAtHome : Prop :=
  ∀ (s : State) (id : Nat) (m : Msg), s.AtHome id true m → id < s.nextId → m.kind = .release → m.n ≤ 128 →
    (∀ r, mustOverwriteFirst s m r → ∃ t, exec (.releaseAtHome id) s = .next t ∧ heldForDrain s t m r) ∧
    ((∀ r, ¬mustOverwriteFirst s m r) → ∃ (u t : State) (m' : Msg), exec (.releaseAtHome id) s = .next t ∧
      (s.markServed m).HomeWrite u m.dom m.launch m.pa m.n (fun _ => true) m.data.getLsbD ∧ u.NowIs t id m' ∧ m'.st = .replied ∧
      (m'.inval = true ↔ ∃ r, lookup (s.dom m.dom).recs (m.pa / 128) = some r ∧ r.agent ≠ m.agent) ∧ u.SameMemory t ∧
      lookup (t.dom m.dom).recs (m.pa / 128) =
        some ⟨m.agent, m.epoch, m.scope, if m.ord = 5 ∨ m.scope = 6 then 3 else 1⟩)

/-- R265: ORDERED_READ_AT_HOME first drains the releaser that the record names where both scopes say so; then the reply
carries the word, and an acquire of scope 1 or wider makes the core self-invalidate unless the record names the core
itself. -/
def Says.OrderedReadAtHome : Prop :=
  ∀ (s : State) (id : Nat) (m : Msg), s.AtHome id false m → id < s.nextId → m.kind = .read → m.n ≤ 16 →
    let rec? := lookup (s.dom m.dom).recs (m.pa / 128)
    (∀ r, mustDrainFirst s m r → ∃ t, exec (.orderedReadAtHome id) s = .next t ∧ heldForDrain s t m r) ∧
    ((∀ r, ¬mustDrainFirst s m r) → (∀ w, m.pa / 8 ≤ w → 8 * w < m.pa + m.n → w ∉ (s.dom m.dom).poison) →
      ∃ t m', exec (.orderedReadAtHome id) s = .next t ∧ s.NowIs t id m' ∧ s.UsesHome t m ∧
        t = { s with doms := t.doms, net := t.net } ∧
        m' = { m with st := .replied, data := m'.data, inval := m'.inval } ∧
        m'.data.toNat = Memory.read (s.dom m.dom).mem m.pa m.n ∧
        (m'.inval = true ↔ (m.ord = 2 ∨ m.ord = 4 ∨ m.ord = 6) ∧ m.scope ≠ 0 ∧ ∀ r, rec? = some r → r.agent ≠ m.agent))

/-! ### Drains, folds, evictions -/

/-- R262, R265, R266, R267: a core that begins to serve a DRAIN writes back every dirty line whose epoch lies at or before the
one named, with its dirty bytes, and keeps the bytes clean; the acknowledgement reaches the home once those write-backs, and
those of the core that left before, have been performed. The record is then drained, where it is still the one that the
drain was for, and the requests held for the line go on. -/
def Says.DrainsServed : Prop :=
  ∀ (s : State) (id : Nat) (m : Msg) (ag : Nat) (e : BitVec 24) (h : Nat), s.findMsg id = some m →
      m.kind = .drain ag e h →
    let old := (s.cache ag).lines
    let picked (l : L1Line) : Prop := (e - l.epoch).toNat < 2 ^ 23
    (m.st = .sent → id < s.nextId → ∃ t m', exec (.drainRequest id) s = .next t ∧ t.findMsg id = some m' ∧
      m'.st = .replied ∧ s.SameMemory { t with caches := s.caches } ∧
      (t.cache ag).lines.length = old.length ∧ (∀ l ∈ (t.cache ag).lines, picked l → l.dirty = 0#128) ∧
      (∀ l ∈ (t.cache ag).lines, ∃ o ∈ old, l.dom = o.dom ∧ l.line = o.line ∧ l.data = o.data ∧ l.valid = o.valid ∧
        (l.dirty = o.dirty ∨ picked o)) ∧
      (∀ o ∈ old, picked o → o.dirty ≠ 0#128 → ∃ x ∈ t.net, x.kind = .writeBack ∧ x.id ∈ m'.after ∧ x.agent = ag ∧
        x.dom = o.dom ∧ x.pa = 128 * o.line ∧ x.data = o.data ∧ x.mask = o.dirty) ∧
      (∀ x ∈ s.net, x.kind = .writeBack → x.agent = ag → x.id ∈ m'.after) ∧
      (t.cache ag).drains = (s.cache ag).drains + 1#32) ∧
    (m.st = .replied → (∃ x ∈ m.after, s.acked x = false) → exec (.drainAckAtHome id) s = .next s) ∧
    (m.st = .replied → (∀ x ∈ m.after, s.acked x = true) → ∃ t, exec (.drainAckAtHome id) s = .next t ∧
      t.findMsg id = none ∧ s.SameMemory t ∧
      (∀ r, lookup (s.dom m.dom).recs (m.pa / 128) = some r →
        lookup (t.dom m.dom).recs (m.pa / 128) = some (if r.agent = ag ∧ r.epoch = e ∧ r.st = 2 then { r with st := 3 } else r)) ∧
      (∀ x ∈ s.net, x.id ≠ id → x.st = .held → x.dom = m.dom → x.pa / 128 = m.pa / 128 → { x with st := .sent } ∈ t.net))

/-- R268: a release that makes RELCNT[22:0] zero makes a fold due; FOLD writes back every line that was dirty before that
increment, and FOLD_END ends it when those write-backs have been performed. -/
def Says.Folds : Prop :=
  ∀ (s : State) (ag : Nat),
    ((s.countRelease ag).cache ag).relcnt = (s.cache ag).relcnt + 1#64 ∧
    (((s.cache ag).relcnt + 1#64).toNat % 2 ^ 23 = 0 → ((s.countRelease ag).cache ag).fold = some (false, [])) ∧
    (((s.cache ag).relcnt + 1#64).toNat % 2 ^ 23 ≠ 0 → ((s.countRelease ag).cache ag).fold = (s.cache ag).fold) ∧
    (∀ ids, (s.cache ag).fold = some (false, ids) → ∃ t ids', exec (.fold ag) s = .next t ∧
      (t.cache ag).fold = some (true, ids') ∧ (t.cache ag).drains = (s.cache ag).drains + 1#32 ∧
      s.SameMemory { t with caches := s.caches } ∧
      ∀ o ∈ (s.cache ag).lines, o.dirty ≠ 0#128 →
        (BitVec.ofNat 24 ((s.cache ag).relcnt.toNat / 2 ^ 23 * 2 ^ 23) - 1#24 - o.epoch).toNat < 2 ^ 23 →
        ∃ x ∈ t.net, x.kind = .writeBack ∧ x.id ∈ ids' ∧ x.agent = ag ∧ x.dom = o.dom ∧ x.pa = 128 * o.line ∧ x.data = o.data ∧
          x.mask = o.dirty) ∧
    (∀ ids, (s.cache ag).fold = some (true, ids) → (∀ x ∈ ids, s.acked x = true) →
      exec (.foldEnd ag) s = .next (s.setCache ag { s.cache ag with fold := none })) ∧
    (∀ ids, (s.cache ag).fold = some (true, ids) → (∃ x ∈ ids, s.acked x = false) → exec (.foldEnd ag) s = .next s)

/-- R244, R270: a line leaves the LLC only once its record is drained: an undrained record makes the home ask for the drain
first, a draining one keeps the line, and a drained one is dropped with it, and so are the line's replicas. No byte of memory
changes. -/
def Says.LlcEvictions : Prop :=
  ∀ (s : State) (d line : Nat), ∃ t, exec (.llcEvictionDrain d line) s = .next t ∧ s.SameMemory t ∧
    (∀ r, lookup (s.dom d).recs line = some r →
      (r.st = 1 → lookup (t.dom d).recs line = some { r with st := 2 } ∧
        ∃ m ∈ t.net, m.id = s.nextId ∧ m.kind = .drain r.agent r.epoch 0 ∧ m.dom = d ∧ m.pa = 128 * line) ∧
      (r.st = 2 → t = s) ∧
      (r.st ≠ 1 → r.st ≠ 2 → t = s.setDom d ((s.dom d).evictLine line) ∧ lookup (t.dom d).recs line = none)) ∧
    (lookup (s.dom d).recs line = none → t = s.setDom d ((s.dom d).evictLine line)) ∧
    ((s.dom d).evictLine line = { s.dom d with
      l2 := (s.dom d).l2.erase line
      llc := (s.dom d).llc.erase line
      recs := eraseKey (s.dom d).recs line
      replicas := (s.dom d).replicas.filter fun r => r.1 != line })

/-! ### Replies and acknowledgements -/

/-- The thread that sent `m` still waits for its reply (R109, R126). -/
def Waiting (s : State) (m : Msg) (x : Thread) : Prop :=
  s.thread? m.core m.slot = some x ∧ x.gen = m.gen ∧ m.wait = true ∧
    (x.st = .parked (.home m.id) ∨ x.awaits = some m.id)

/-- The waiting thread goes on: back in rotation, its next turn after the cycle of the observation (R109), or as a handler
that loses no more turns (R126). -/
def rotated (s : State) (m : Msg) (x : Thread) : Thread :=
  if x.awaits = some m.id then { x with awaits := none }
  else { x with st := .ready, startAt := max x.startAt ((s.core m.core).cyc + 1) }

/-- What a thread's registers hold once the `n` bytes `v` have been delivered (R248). -/
def delivered (x : Thread) (dst : Dst) (n v : Nat) : Thread → Prop := fun y =>
  match dst with
  | .x d sx => ∃ w, HasBits (8 * n) sx v.testBit w ∧ y = { x with x := y.x } ∧ y.getX d = (if d = 0#6 then 0#64 else w) ∧
      ∀ r, r ≠ d → y.getX r = x.getX r
  | .none => y = x
  | _ => True

/-- R109, R242, R248, R249: LOAD_REPLY_ARRIVAL of a load merges its line into the L1 where it allocates, keeping the dirty
bytes; the waiting thread returns to rotation with its destination written from the bytes that the L1 holds dirty and else from
the reply; poison raises a precise Poison trap of the load, but not poison of a word that a store has since written whole. An
allocating load replaces the clean bytes of an L1 copy. -/
def Says.LoadReplies : Prop :=
  ∀ (s : State) (id : Nat) (m : Msg) (alloc keep repl : Bool) (x : Thread) (d : BitVec 6) (sx : Bool),
      s.findMsg id = some m → m.kind = .load alloc keep repl → m.st = .replied → Waiting s m x → m.dst = .x d sx →
      m.pa % 128 + m.n ≤ 128 → m.n ≤ 8 → id < s.nextId →
    let l? := (s.cache m.agent).find m.dom (m.pa / 128)
    let held (j : Nat) : Bool := (l?.map fun l => l.dirty.getLsbD j).getD false
    let byte (j : Nat) : BitVec 8 :=
      if held j then ((l?.map fun l => l.data.extractLsb' (8 * j) 8).getD 0#8) else m.data.extractLsb' (8 * j) 8
    let bad := ∃ i < 16, m.pa % 128 < 8 * i + 8 ∧ 8 * i < m.pa % 128 + m.n ∧
      ((∃ l, l? = some l ∧ l.dpoison.getLsbD i = true) ∨
        (m.pmask.getLsbD i = true ∧ ∀ l, l? = some l → l.whole.getLsbD i = false))
    (¬bad → ∃ t, exec (.loadReplyArrival id) s = .next t ∧ t.findMsg id = none ∧ s.SameMemory { t with caches := s.caches } ∧
      (∃ v, (∀ j < 8 * m.n, v.testBit j = (byte (m.pa % 128 + j / 8)).getLsbD (j % 8)) ∧
        delivered (rotated s m x) (.x d sx) m.n v (t.thread m.core m.slot)) ∧
      (alloc = true → ∃ l, (t.cache m.agent).find m.dom (m.pa / 128) = some l ∧
        (∀ j < 128, l.valid.getLsbD j = true) ∧
        (∀ i < 16, l.poison.getLsbD i = true ↔ m.pmask.getLsbD i = true ∧ ∀ o, l? = some o → o.whole.getLsbD i = false) ∧
        (∀ o, l? = some o → l.dirty = o.dirty ∧ ∀ j < 128, o.dirty.getLsbD j = true → ∀ b < 8,
          l.data.getLsbD (8 * j + b) = o.data.getLsbD (8 * j + b)) ∧
        (∀ j < 128, (∀ o, l? = some o → o.dirty.getLsbD j = false) → ∀ b < 8,
          l.data.getLsbD (8 * j + b) = m.data.getLsbD (8 * j + b)) ∧
        (l? = none → l.dirty = 0#128 ∧ l.keep = keep))) ∧
    (bad → ∃ u : State, u.cores = s.cores ∧ u.doms = s.doms ∧ (alloc = false → u = s.dropMsg id) ∧
      exec (.loadReplyArrival id) s = .next (u.raiseAt m.core m.slot .poison m.va 0#64 m.pc m.npc m.pair))

/-- SelfInvalidate (R265): of the L1 of an agent, clean lines are gone but for those of IMM and PRIVC pages, and a dirty
line holds only its dirty bytes, with their poison. -/
def selfInvalidated (s t : State) (agent : Nat) : Prop :=
  (∀ a, a ≠ agent → t.cache a = s.cache a) ∧ t.doms = s.doms ∧ t.cores = s.cores ∧
  ∀ l, l ∈ (t.cache agent).lines ↔ ∃ o ∈ (s.cache agent).lines,
    (o.keep = true ∧ l = o) ∨ (o.keep = false ∧ o.dirty ≠ 0#128 ∧ l = { o with valid := o.dirty, poison := 0#16 })

/-- R251, R256, R265, R267: the reply of an ordered read, an ordered store or an atomic reaches its core: the
self-invalidation that it owes comes first, then the destination is written and the thread returns to rotation; poison
raises a precise Poison trap. -/
def Says.OrderedReplies : Prop :=
  ∀ (s : State) (id : Nat) (m : Msg) (x : Thread) (op : Nat) (cmp : Word), s.findMsg id = some m → m.st = .replied →
      Waiting s m x → (m.dst = .none ∨ ∃ d, m.dst = .x d false) → m.n ≤ 8 → m.mask.getLsbD 1 = false →
      (m.kind = .read ∨ m.kind = .store ∨ m.kind = .atomic op cmp) →
    ∃ u, (if m.inval then selfInvalidated (s.dropMsg id) u m.agent else u = s.dropMsg id) ∧
      (m.poisoned = true → exec (.loadReplyArrival id) s =
        .next (u.raiseAt m.core m.slot .poison m.va 0#64 m.pc m.npc m.pair)) ∧
      (m.poisoned = false → ∃ t, exec (.loadReplyArrival id) s = .next t ∧
        delivered (rotated s m x) m.dst m.n (m.data.toNat % 2 ^ (8 * m.n)) (t.thread m.core m.slot) ∧
        t = u.setThread m.core m.slot (t.thread m.core m.slot))

/-- R249, R251, R264, R267: acknowledgements that no thread parks for. AMO_ACK_ARRIVAL makes poison a late Poison fault of
the issuing thread, with the AMO's PC and virtual address, that cancels nothing; RELEASE_ACK_ARRIVAL ends a release that
is not waited for, with the self-invalidation that it owes. -/
def Says.Acknowledgements : Prop :=
  ∀ (s : State) (id : Nat) (m : Msg) (op : Nat) (cmp : Word), s.findMsg id = some m → m.st = .replied → m.wait = false →
    let u := if m.inval then (s.dropMsg id).selfInvalidate m.agent else s.dropMsg id
    (m.inval = true → selfInvalidated (s.dropMsg id) u m.agent) ∧
    (m.kind = .atomic op cmp → m.poisoned = false → exec (.amoAckArrival id) s = .next u) ∧
    (m.kind = .atomic op cmp → m.poisoned = true → ∀ x, s.thread? m.core m.slot = some x → x.gen = m.gen → x.st = .ready →
      m.slot ≠ 15 → ∃ t r, exec (.amoAckArrival id) s = .next t ∧ (t.thread m.core m.slot) =
          { x with late := true, lastTrap := some (m.pc, false) } ∧
        (s.core m.core).Enters (t.core m.core).trapq r ∧ r.w1 = m.pc ∧ r.w2 = m.va ∧ r.w3 = 0#64 ∧
        r.w0.extractLsb' 0 8 = 0x0A#8 ∧ r.w0.extractLsb' 8 8 = 1#8 ∧
        r.w0.extractLsb' 16 17 = tidOf m.core m.slot) ∧
    (m.kind = .release ∨ m.kind = .counter true → exec (.releaseAckArrival id) s = .next u)

/-! ### Fences and drains -/

/-- Between `s` and `t` every dirty line of an agent's L1 that `p` picks has been written back and keeps its bytes clean; the
write-backs are among `ids`. Nothing else has changed but the counters of R272 and what loads under way may bring. -/
def WrittenBack (s t : State) (ag : Nat) (p : L1Line → Prop) (ids : List Nat) : Prop :=
  s.SameMemory { t with caches := s.caches } ∧ t.cores = s.cores ∧ t.iss = s.iss ∧ (∀ a, a ≠ ag → t.cache a = s.cache a) ∧
  (∀ l ∈ (t.cache ag).lines, p l → l.dirty = 0#128) ∧ (t.cache ag).relcnt = (s.cache ag).relcnt ∧
  (t.cache ag).lines.length = (s.cache ag).lines.length ∧
  (∀ o ∈ (s.cache ag).lines, ¬p o → o ∈ (t.cache ag).lines) ∧
  (∀ o ∈ (s.cache ag).lines, p o → o.dirty ≠ 0#128 → ∃ x ∈ t.net, x.kind = .writeBack ∧ x.id ∈ ids ∧ x.agent = ag ∧
    x.dom = o.dom ∧ x.pa = 128 * o.line ∧ x.data = o.data ∧ x.mask = o.dirty) ∧
  ∀ x ∈ s.net, x.kind = .writeBack → x ∈ t.net

/-- The write-backs of an agent under way, of lines that `p` picks, are `ids`. -/
def BacksUnderWay (t : State) (ag : Nat) (p : Msg → Prop) (ids : List Nat) : Prop :=
  ∀ id, id ∈ ids ↔ ∃ x ∈ t.net, x.id = id ∧ x.kind = .writeBack ∧ x.agent = ag ∧ p x

/-- R104, R272, R278: DRAIN and IFENCE write back every dirty line of the L1, counted as one drain, and lose turns until every
write-back of the core is acknowledged, those that left before among them; then DRAIN is done, and IFENCE empties the core's L1
instruction cache. -/
def Says.DrainAndIfence : Prop :=
  ∀ (s : State),
    let ag := s.agentOf s.iss.core
    let emptied (u : State) : State := u.setCore u.iss.core { u.core u.iss.core with icache := [] }
    (s.cur.prog = none → ∃ u ids, WrittenBack s u ag (fun _ => True) ids ∧ BacksUnderWay u ag (fun _ => True) ids ∧
      (u.cache ag).drains = (s.cache ag).drains + 1#32 ∧
      (u.cache ag).dlines = (s.cache ag).dlines + BitVec.ofNat 32 ((s.cache ag).lines.filter fun l => l.dirty != 0#128).length ∧
      (ids = [] → exec .drain s = .next u ∧ exec .ifence s = .next (emptied u)) ∧
      (ids ≠ [] → exec .drain s = .next (u.loseWith ⟨1, ids, 0#64⟩) ∧
        exec .ifence s = .next (u.loseWith ⟨1, ids, 0#64⟩))) ∧
    (∀ p, s.cur.prog = some p → (∀ id ∈ p.ids, s.acked id = true) →
      exec .drain s = .next s ∧ exec .ifence s = .next (emptied s)) ∧
    (∀ p, s.cur.prog = some p → (∃ id ∈ p.ids, s.acked id = false) →
      exec .drain s = .next (s.loseWith ⟨1, p.ids, 0#64⟩) ∧ exec .ifence s = .next (s.loseWith ⟨1, p.ids, 0#64⟩))

/-- R278: DRAIN.L does nothing for an address in the window; else it translates without checking a permission, writes back
the dirty bytes of the one line and loses turns until the write-backs of the line are acknowledged. RELCNT stays. -/
def Says.DrainLine : Prop :=
  ∀ (s : State) (base idx : BitVec 6) (scl : BitVec 2) (off : BitVec 48),
    let ea := s.rx base + s.rx idx * 2#64 ^ scl.toNat + off.signExtend 64
    let i : Instr := .drainL base idx scl off
    let win := Config.windowBase ≤ ea.toNat ∧ ea.toNat < Config.windowBase + Config.windowBytes
    (s.cur.prog = none →
      (win → exec i s = .next s) ∧
      (∀ s1 c info, ¬win → s.translateCur ea .any = (s1, .fail c info) → exec i s = .next (s1.xlateTrap c ea info)) ∧
      (∀ s1, ¬win → s.translateCur ea .any = (s1, .wait) → exec i s = .next s1.loseTurn) ∧
      (∀ s1 pa e, ¬win → s.translateCur ea .any = (s1, .ok pa e) → ∃ u ids,
        WrittenBack s1 u (s1.agentOf s.iss.core) (fun l => l.dom = s.cur.dom ∧ l.line = pa / 128) ids ∧
        BacksUnderWay u (s1.agentOf s.iss.core) (fun x => x.dom = s.cur.dom ∧ x.pa / 128 = pa / 128) ids ∧
        (ids = [] → exec i s = .next u) ∧ (ids ≠ [] → exec i s = .next (u.loseWith ⟨1, ids, 0#64⟩)))) ∧
    (∀ p, s.cur.prog = some p → (∀ id ∈ p.ids, s.acked id = true) → exec i s = .next s) ∧
    (∀ p, s.cur.prog = some p → (∃ id ∈ p.ids, s.acked id = false) → exec i s = .next (s.loseWith ⟨1, p.ids, 0#64⟩))

/-- R272, R277: FENCE. Its release part waits for the thread's requests and, at scope 1 or wider, writes back every dirty line;
it counts as a drain at every scope. Its acquire part waits for the thread's atomics and then self-invalidates at scope 1 or wider. It never parks. -/
def Says.Fences : Prop :=
  ∀ (s : State) (ord scope : BitVec 3), 2 ≤ ord.toNat → ord.toNat ≤ 6 →
    let ag := s.agentOf s.iss.core
    let rel := ord.toNat ≠ 2
    let acq := ord.toNat = 2 ∨ ord.toNat = 4 ∨ ord.toNat = 6
    (rel → s.cur.prog = none → s.curOutstanding ≠ [] → LosesTurn (.fence ord scope) s) ∧
    (rel → s.cur.prog = none → s.curOutstanding = [] → scope ≠ 0#3 → ∃ u ids, WrittenBack s u ag (fun _ => True) ids ∧
      BacksUnderWay u ag (fun _ => True) ids ∧ (u.cache ag).drains = (s.cache ag).drains + 1#32 ∧
      (ids ≠ [] → exec (.fence ord scope) s = .next (u.loseWith ⟨1, ids, 0#64⟩)) ∧
      (ids = [] → ¬acq → exec (.fence ord scope) s = .next u) ∧
      (ids = [] → acq → ∃ t, exec (.fence ord scope) s = .next t ∧ selfInvalidated u t ag)) ∧
    (∀ p, s.cur.prog = some p → (∀ id ∈ p.ids, s.acked id = true) → ¬acq → exec (.fence ord scope) s = .next s) ∧
    (¬rel → s.cur.prog = none → s.curAtomics ≠ [] → LosesTurn (.fence ord scope) s) ∧
    (acq → s.curAtomics = [] → scope ≠ 0#3 →
      (¬rel ∧ s.cur.prog = none ∨ ∃ p, s.cur.prog = some p ∧ ∀ id ∈ p.ids, s.acked id = true) →
      ∃ t, exec (.fence ord scope) s = .next t ∧ selfInvalidated s t ag) ∧
    (∀ p, s.cur.prog = some p → (∃ id ∈ p.ids, s.acked id = false) → exec (.fence ord scope) s = .next (s.loseWith ⟨1, p.ids, 0#64⟩)) ∧
    (s.curAtomics = [] → s.curOutstanding = [] → scope = 0#3 → s.cur.prog = none →
      exec (.fence ord scope) s = .next (if ord = 2#3 then s else s.countDrain ag 0))

/-! ### Barriers and waits -/

/-- R163, R279, R280, R331, R118: BARW, WAITV, LWAIT and JOIN on a local word complete at once when their condition holds,
with the word in X[D]; else the thread parks on the bank's wait list, and a handler raises Handler-Block. -/
def Says.LocalWaits : Prop :=
  ∀ (s : State) (sub : BitVec 4) (d base idx : BitVec 6) (size ord scope : BitVec 3) (off : BitVec 48),
      sub.toNat < 12 → 2 ≤ size.toNat → size.toNat ≤ 3 →
    let ea := s.rx base + off.signExtend 64
    let n := 2 ^ size.toNat
    let a := s.localOf ea
    let w := BitVec.ofNat 64 (Memory.read s.curCore.lmem a n)
    let a' := s.localOf (s.rx base)
    let w' := BitVec.ofNat 64 (Memory.read s.curCore.lmem a' 8)
    let parks (i : Instr) (kind : MKind) (a n : Nat) : Prop := ∃ t m, exec i s = .next t ∧ m.kind = kind ∧ m.id = s.nextId ∧
      m.pa = a ∧ m.n = n ∧ m.dom = bankDom s.iss.core ∧ m.st = .waiting ∧ m.wait = true ∧
      t = { s.setThread s.iss.core s.iss.slot { s.cur with st := .parked (.home m.id) } with
        net := s.net ++ [m], nextId := s.nextId + 1 }
    exec (.join 0#6) s = .next s ∧ ((s.rx base).toNat % 32 ≠ 0 → TrapsWith (.lwait d base) s .alignment (s.rx base) 0#64) ∧
    (s.curReleases = [] → s.curCore.fill = none →
    (s.InRegion ea n → s.Unpoisoned a n →
      (conditionOf sub.toNat (8 * n) w (s.rx idx) →
        WritesX (.waitv sub d base idx size ord scope off) s d (HasBits (8 * n) false (s.lbit a))) ∧
      (¬conditionOf sub.toNat (8 * n) w (s.rx idx) → s.iss.slot = 14 →
        TrapsWith (.waitv sub d base idx size ord scope off) s .handlerBlock 0#64 0#64) ∧
      (¬conditionOf sub.toNat (8 * n) w (s.rx idx) → s.iss.slot ≠ 14 →
        parks (.waitv sub d base idx size ord scope off) (.waitv sub (s.rx idx)) a n)) ∧
    (s.InRegion (s.rx base) 8 → s.Unpoisoned a' 8 → base ≠ 0#6 →
      (w' = 0#64 → exec (.join base) s = .next s) ∧
      (w' ≠ 0#64 → s.iss.slot = 14 → TrapsWith (.join base) s .handlerBlock 0#64 0#64) ∧
      (w' ≠ 0#64 → s.iss.slot ≠ 14 → parks (.join base) .join a' 8) ∧
      ((s.rx base).toNat % 32 = 0 →
        (w'.toNat % 256 ≠ 0 → WritesX (.lwait d base) s d (HasBits 64 false (s.lbit a'))) ∧
        (w'.toNat % 256 = 0 → s.iss.slot = 14 → TrapsWith (.lwait d base) s .handlerBlock 0#64 0#64) ∧
        (w'.toNat % 256 = 0 → s.iss.slot ≠ 14 → parks (.lwait d base) .lwait a' 8))))

/-- R163, R279: an arrival at a barrier word in local memory is one indivisible step: X[D] receives the old word; one that
writes nothing and the last one complete, and any other parks until GEN moves. -/
def Says.LocalBarrier : Prop :=
  ∀ (s : State) (d base idx : BitVec 6) (scl : BitVec 2) (size ord scope : BitVec 3) (off : BitVec 48),
    let ea := s.rx base + s.rx idx * 2#64 ^ scl.toNat + off.signExtend 64
    let a := s.localOf ea
    let w := BitVec.ofNat 64 (Memory.read s.curCore.lmem a 8)
    let i : Instr := .barw d base idx scl size ord scope off
    (s.iss.slot = 14 → TrapsWith i s .handlerBlock 0#64 0#64) ∧
    (s.iss.slot ≠ 14 → s.InRegion ea 8 → s.curCore.fill = none → s.curOutstanding ≠ [] → LosesTurn i s) ∧
    (s.iss.slot ≠ 14 → s.InRegion ea 8 → s.curCore.fill = none → s.Unpoisoned a 8 → s.curOutstanding = [] →
      (barDone w = true → WritesX i s d (· = w)) ∧
      (barDone w = false → barLast w = true → BankAtomic i s 0#3 a 8 d fun _ => barNext w) ∧
      (barDone w = false → barLast w = false → ∃ u t m, exec i s = .next t ∧
        s.LocalWrite u a 8 (fun j => (barNext w).getLsbD j) (Whole a 8) ∧ m.kind = .barw ∧ m.id = s.nextId ∧
        m.pa = a ∧ m.dom = bankDom s.iss.core ∧ m.st = .waiting ∧ m.data = w.setWidth 1024 ∧ m.dst = .x d false ∧
        t = { u.setThread s.iss.core s.iss.slot { s.cur with st := .parked (.home m.id) } with
          net := u.net ++ [m], nextId := s.nextId + 1 }))

/-- R279: what an arrival does to a barrier word: nothing where TARGET is 0 or COUNT has reached it; the last arrival
raises GEN and clears COUNT; any other adds one to COUNT. -/
def Says.BarrierWord : Prop :=
  ∀ w : Word,
    let count := w.toNat % 2 ^ 24
    let target := w.toNat / 2 ^ 24 % 2 ^ 24
    let gen := w.toNat / 2 ^ 48
    (barDone w = true ↔ target = 0 ∨ target ≤ count) ∧ (barLast w = true ↔ count + 1 = target) ∧
    (barDone w = false → (barNext w).toNat = if count + 1 = target then (gen + 1) % 2 ^ 16 * 2 ^ 48 + target * 2 ^ 24
      else gen * 2 ^ 48 + target * 2 ^ 24 + (count + 1))

/-- R118, R256, R264, R279, R280, R331: BARW, WAITV, JOIN and LWAIT on a global word leave for the word's home and the
thread waits. Each carries its order and scope: JOIN and LWAIT acquire at partition scope; BARW of scope 1 or wider counts a
release. -/
def Says.GlobalWaits : Prop :=
  ∀ (s : State) (sub : BitVec 4) (d base idx : BitVec 6) (scl : BitVec 2) (size ord scope : BitVec 3) (off : BitVec 48)
      (s1 : State) (pa : Nat) (e : TlbEnt), sub.toNat < 12 → size.toNat ≤ 3 → base ≠ 0#6 →
    let ea := s.rx base + s.rx idx * 2#64 ^ scl.toNat + off.signExtend 64
    let va := s.rx base + off.signExtend 64
    let n := 2 ^ size.toNat
    let ag := s.agentOf s.iss.core
    let gone (s2 : State) : Prop := s2.cur = s1.cur ∧ (∀ dd, s2.dom dd = s1.dom dd) ∧ (s2.cache ag).find s.cur.dom (pa / 128) = none
    (Global va n → s.translateCur va .read = (s1, .ok pa e) → ∃ s2 t m,
      exec (.waitv sub d base idx size ord scope off) s = .next t ∧ gone s2 ∧ s2.SendsAndWaits t m ∧
      m.kind = .waitv sub (s.rx idx) ∧ m.pa = pa ∧ m.n = n ∧ m.ord = ord.toNat ∧ m.scope = scope.toNat ∧ m.dst = .x d false ∧
      ∀ id ∈ s1.curReleases, id ∈ m.after) ∧
    (Global (s.rx base) 8 → s.translateCur (s.rx base) .read = (s1, .ok pa e) →
      (∃ s2 t m, exec (.join base) s = .next t ∧ gone s2 ∧ s2.SendsAndWaits t m ∧ m.kind = .join ∧ m.pa = pa ∧ m.n = 8 ∧
        m.ord = 2 ∧ m.scope = 2 ∧ m.dst = .none) ∧
      ((s.rx base).toNat % 32 = 0 → ∃ s2 t m, exec (.lwait d base) s = .next t ∧ gone s2 ∧ s2.SendsAndWaits t m ∧
        m.kind = .lwait ∧ m.pa = pa ∧ m.n = 8 ∧ m.ord = 2 ∧ m.scope = 2 ∧ m.dst = .x d false)) ∧
    (s.iss.slot ≠ 14 → Global ea 8 → s.translateCur ea .both = (s1, .ok pa e) →
      (scope ≠ 0#3 → s1.foldBlocks ag = true → exec (.barw d base idx scl size ord scope off) s = .next s1.loseTurn) ∧
      (scope = 0#3 ∨ s1.foldBlocks ag = false → ∃ s2 t m, exec (.barw d base idx scl size ord scope off) s = .next t ∧
        gone s2 ∧ s2.SendsAndWaits t m ∧ m.kind = .barw ∧ m.pa = pa ∧ m.n = 8 ∧ m.mask = 0#128 ∧ m.ord = ord.toNat ∧
        m.scope = scope.toNat ∧ m.dst = .x d false ∧
        (s2.cache ag).relcnt = (s1.cache ag).relcnt + (if scope = 0#3 then 0#64 else 1#64) ∧
        ∀ id ∈ s1.curOutstanding, id ∈ m.after))

/-- The thread of request `m` is parked for its reply. -/
def ParkedFor (s : State) (m : Msg) : Prop :=
  (s.thread m.core m.slot).gen = m.gen ∧ (s.thread m.core m.slot).st = .parked (.home m.id)

/-- R110, R118, R265, R280, R331: what the read of a JOIN, WAITV or LWAIT does at its home when no releaser has to be
drained: with its condition met the reply carries the word; else a thread stands on the word's wait list, and a handler is
told that it blocks. A thread that a late fault has taken meanwhile stands on no list (R337). No byte of memory changes. -/
def Says.WaitingReadsAtHome : Prop :=
  ∀ (s : State) (id : Nat) (m : Msg) (cc : BitVec 4) (v : Word), s.AtHome id false m → id < s.nextId →
      (∀ r, ¬mustDrainFirst s m r) → (∀ w, m.pa / 8 ≤ w → 8 * w < m.pa + m.n → w ∉ (s.dom m.dom).poison) → cc.toNat < 12 →
      (m.kind = .join ∨ m.kind = .lwait ∨ m.kind = .waitv cc v) → m.n = 1 ∨ m.n = 2 ∨ m.n = 4 ∨ m.n = 8 →
    let w := Memory.read (s.dom m.dom).mem m.pa m.n
    let met : Prop := (m.kind = .join → w = 0) ∧ (m.kind = .lwait → w % 256 ≠ 0) ∧
      (m.kind = .waitv cc v → conditionOf cc.toNat (8 * m.n) (BitVec.ofNat 64 w) v)
    let becomes (P : Msg → Prop) : Prop := ∃ t m', exec (.orderedReadAtHome id) s = .next t ∧ s.NowIs t id m' ∧ s.UsesHome t m ∧
      s.SameMemory t ∧ t = { s with doms := t.doms, net := t.net } ∧ P m'
    (met → becomes fun m' => m'.st = .replied ∧ m'.data.toNat = w ∧ m'.mask = m.mask) ∧
    (¬met → m.slot ≠ 14 → ParkedFor s m → becomes fun m' => m' = { m with st := .waiting }) ∧
    (¬met → m.slot ≠ 14 → ¬ParkedFor s m → ∃ t, exec (.orderedReadAtHome id) s = .next t ∧ s.Left t id ∧ s.SameMemory t) ∧
    (¬met → m.slot = 14 → becomes fun m' => m'.st = .replied ∧ m'.mask.getLsbD 1 = true)

/-- R110, R279: BARW_ARRIVAL_AT_HOME when no releaser has to be drained: an arrival that writes nothing is answered; the
last one is answered and moves GEN; any other waits. An arrival that writes leaves the release record of its core, and
every waiter of the word looks again. -/
def Says.BarrierArrivals : Prop :=
  ∀ (s : State) (id : Nat) (m : Msg), s.AtHome id true m → id < s.nextId → m.kind = .barw → m.mask = 0#128 → m.n = 8 →
      (∀ r, ¬mustDrainFirst s m r) → (∀ r, ¬mustOverwriteFirst s m r) →
      (∀ w, m.pa / 8 ≤ w → 8 * w < m.pa + 8 → w ∉ (s.dom m.dom).poison) →
    let old := BitVec.ofNat 64 (Memory.read (s.dom m.dom).mem m.pa 8)
    (barDone old = true → ∃ t m', exec (.barwArrivalAtHome id) s = .next t ∧ s.NowIs t id m' ∧ m'.st = .replied ∧
      m'.data = old.setWidth 1024 ∧ s.UsesHome t m ∧ s.SameMemory t ∧ t = { s with doms := t.doms, net := t.net }) ∧
    (barDone old = false → (barLast old = true ∨ ParkedFor s m) → ∃ (s1 u t : State) (m' : Msg),
      exec (.barwArrivalAtHome id) s = .next t ∧ s.UsesHome s1 m ∧ s1 = { s with doms := s1.doms } ∧
      s1.HomeWrite u m.dom m.launch m.pa 8 (fun _ => true) (barNext old).getLsbD ∧ u.NowIs t id m' ∧
      m'.data = old.setWidth 1024 ∧ m'.st = (if barLast old then .replied else .waiting) ∧ u.SameMemory t ∧
      (m.scope ≠ 0 → lookup (t.dom m.dom).recs (m.pa / 128) =
        some ⟨m.agent, m.epoch, m.scope, if m.ord = 5 ∨ m.scope = 6 then 3 else 1⟩))

/-- R110, R118, R265, R280: waiters look again. WAITV_REREAD reads the word afresh once a write to it has been performed,
and a waiter whose condition fails waits on; WAKE_NOTICE sends a JOIN or LWAIT whose word meets its condition back to
its instruction, and delivers the word of a BARW or WAITV. -/
def Says.WaitersLookAgain : Prop :=
  ∀ (s : State) (id : Nat) (m : Msg) (cc : BitVec 4) (v : Word) (x : Thread), s.findMsg id = some m → cc.toNat < 12 →
    let w := Memory.read (s.dom m.dom).mem m.pa m.n
    let l := Memory.read (s.core m.core).lmem m.pa m.n
    (m.kind = .waitv cc v → m.st = .poked → m.dom < 32 →
      exec (.waitvReread id) s = exec (.orderedReadAtHome id) (s.setMsg { m with st := .sent })) ∧
    (m.kind = .waitv cc v → m.st = .poked → m.dom = bankDom m.core → m.n = 4 ∨ m.n = 8 →
      (∀ i < m.n, (m.pa + i) / 8 ∉ (s.core m.core).lpoison) →
      (conditionOf cc.toNat (8 * m.n) (BitVec.ofNat 64 l) v →
        exec (.waitvReread id) s = .next (s.setMsg { m with st := .replied, data := BitVec.ofNat 1024 l })) ∧
      (¬conditionOf cc.toNat (8 * m.n) (BitVec.ofNat 64 l) v →
        exec (.waitvReread id) s = .next (s.setMsg { m with st := .waiting }))) ∧
    (m.kind = .join ∨ m.kind = .lwait → m.st = .poked → m.dom < 32 → Waiting s m x → x.awaits ≠ some m.id →
      ((m.kind = .join → w = 0) ∧ (m.kind = .lwait → w % 256 ≠ 0) → exec (.wakeNotice id) s =
        .next ((s.dropMsg id).setThread m.core m.slot
          { x with st := .ready, startAt := max x.startAt ((s.core m.core).cyc + 1), pc := m.pc, pendV := none })) ∧
      (¬((m.kind = .join → w = 0) ∧ (m.kind = .lwait → w % 256 ≠ 0)) →
        exec (.wakeNotice id) s = .next (s.setMsg { m with st := .waiting }))) ∧
    ((m.kind = .barw ∨ m.kind = .waitv cc v) → m.st = .replied → m.mask.getLsbD 1 = false → m.n ≤ 8 → m.poisoned = false →
      (∃ d, m.dst = .x d false) → m.inval = false → Waiting s m x → ∃ t, exec (.wakeNotice id) s = .next t ∧
        delivered (rotated s m x) m.dst m.n (m.data.toNat % 2 ^ (8 * m.n)) (t.thread m.core m.slot) ∧
        t = (s.dropMsg id).setThread m.core m.slot (t.thread m.core m.slot))

/-- R117, R118: JOIN_COUNTER_UPDATE adds one to the counter of a FORK.J at its home, or takes one away for a RETIRE.J, which
is a release and lets the outstanding-work count fall; poison changes nothing. -/
def Says.JoinCounters : Prop :=
  ∀ (s : State) (id : Nat) (m : Msg) (down : Bool), s.AtHome id true m → id < s.nextId → m.kind = .counter down →
      (∀ r, ¬mustDrainFirst s m r) → (∀ r, ¬mustOverwriteFirst s m r) →
      (∀ w, m.pa / 8 ≤ w → 8 * w < m.pa + 8 → w ∉ (s.dom m.dom).poison) →
    let old := Memory.read (s.dom m.dom).mem m.pa 8
    let new := BitVec.ofNat 64 (if down then old + (2 ^ 64 - 1) else old + 1)
    ∃ u t : State, exec (.joinCounterUpdate id) s = .next t ∧
      (s.markServed m).HomeWrite u m.dom m.launch m.pa 8 (fun _ => true) new.getLsbD ∧ u.SameMemory t ∧
      (down = false → u.Left t id ∧ t = { u with net := t.net }) ∧
      (down = true → (∃ m', u.NowIs t id m' ∧ m'.st = .replied) ∧
        lookup (t.dom m.dom).recs (m.pa / 128) =
          some ⟨m.agent, m.epoch, m.scope, if m.ord = 5 ∨ m.scope = 6 then 3 else 1⟩ ∧
        ∀ l, lookup (s.dom m.dom).launches m.launch = some l →
          ((lookup (t.dom m.dom).launches m.launch).map Launch.work) = some (l.work - 1))

/-! ### Threads -/

/-- A thread that has just started in slot `sl` of core `c` in the context of `p` (R80, R85, R100, R113): its number is
`gen`, and every register is zero. -/
def freshThread (s : State) (p : Thread) (c sl gen : Nat) (pc : Word) : Thread :=
  { Thread.blank with
    gen := gen, pc := pc, npc := pc, startAt := (s.core c).cyc + 16
    lvl := if p.launch = 0 then p.lvl else (s.launch p.dom p.launch).lvl
    rseq := (tidOf c sl).setWidth 64 <<< 32 ||| 0x6A09E667#64
    dom := p.dom, asn := p.asn, root := p.root, launch := p.launch }

/-- One more piece of outstanding work of the issuing thread's launch (R115). -/
def moreWork (s t : State) : Prop :=
  ∀ l, lookup (s.dom s.cur.dom).launches s.cur.launch = some l →
    lookup (t.dom s.cur.dom).launches s.cur.launch = some { l with work := l.work + 1 }

/-- The core's store of 64 entries has room for one more of the issuing thread's launch (R131). -/
def StoreHasRoom (s : State) : Prop :=
  ∀ it : Item, it.spill = none →
    (s.curCore.setDeque s.cur.launch (it :: s.curCore.deque s.cur.launch)).stored.length ≤ 64

/-- Between `s` and `t` the issuing thread has pushed the item `w` (R117, R130, R132, R273): it is the bottom of the deque
of its launch, with the record of the release that the push is, which RELCNT has counted. The deque grows by one entry; while
the core's store of 64 entries has room, no other entry moves (R131). -/
def pushed (s t : State) (w : List Word) (after : List Nat) : Prop :=
  let c := s.iss.core
  let ag := s.agentOf c
  let n := s.cur.launch
  (StoreHasRoom s → ∃ born, (t.core c).deque n = ⟨w, none, some ⟨ag, (t.cache ag).relcnt.setWidth 24,
      if (s.launch s.cur.dom n).hdr.steal = 2 then 1 else 2, 1⟩, after, born⟩ :: (s.core c).deque n ∧
    ∀ k, k ≠ n → (t.core c).deque k = (s.core c).deque k) ∧
  ((t.core c).deque n).length = ((s.core c).deque n).length + 1 ∧
  (t.cache ag).relcnt = (s.cache ag).relcnt + 1#64 ∧ (t.cache ag).lines = (s.cache ag).lines

/-- R112, R115, R117, R130: FORK starts a thread in the lowest free user slot within the launch's cap, at its target with
the argument words in x1 to x5; where there is none it pushes a closure item, and where the deque is full it is refused
and changes nothing but X[D] and P[PD]. -/
def Says.Forks : Prop :=
  ∀ (s : State) (d b : BitVec 6) (pd : BitVec 3) (disp : BitVec 37) (slot : BitVec 3) (x0 : Thread),
    let c := s.iss.core
    let i : Instr := .fork d b pd disp slot
    let pc := (s.iss.pc / 64#64 + disp.signExtend 64) * 64#64 + 12#64 * slot.setWidth 64
    let arg (k : Nat) : Word := if b = 0#6 then 0#64 else s.rx (b + BitVec.ofNat 6 k)
    s.thread? c s.iss.slot = some x0 →
    (∀ sl, s.freeSlot c s.cur = some sl → ∃ t y, exec i s = .next t ∧ sl < 14 ∧ s.thread? c sl = none ∧
      t.thread? c sl = some y ∧ y = { freshThread s s.cur c sl s.nextId pc with x := y.x } ∧
      (∀ r : BitVec 6, y.getX r = if 1 ≤ r.toNat ∧ r.toNat ≤ 5 then arg (r.toNat - 1) else 0#64) ∧
      t.rx d = (if d = 0#6 then 0#64 else (tidOf c sl).setWidth 64) ∧ t.rp pd = true ∧
      (∀ r, r ≠ d → t.rx r = s.rx r) ∧ (∀ r, r ≠ pd → t.rp r = s.rp r) ∧
      (∀ k, k ≠ sl → k ≠ s.iss.slot → t.thread? c k = s.thread? c k) ∧ moreWork s t ∧ s.SameMemory t) ∧
    (s.freeSlot c s.cur = none → s.dqrunSlot c s.cur.launch = none →
      ((s.core c).deque s.cur.launch).length < s.curLaunch.hdr.deque → s.foldBlocks (s.agentOf c) = false →
      ∃ t, exec i s = .next t ∧ pushed s t [pc + 2#64, arg 0, arg 1, arg 2, arg 3, arg 4, 0#64, 0#64] s.curOutstanding ∧
        t.rx d = (if d = 0#6 then 0#64 else BitVec.allOnes 64) ∧ t.rp pd = true ∧ (∀ r, r ≠ d → t.rx r = s.rx r) ∧
        (∀ r, r ≠ pd → t.rp r = s.rp r) ∧ (∀ k, k ≠ s.iss.slot → t.thread? c k = s.thread? c k) ∧ moreWork s t ∧
        (StoreHasRoom s → s.SameMemory { t with caches := s.caches })) ∧
    (s.freeSlot c s.cur = none → s.dqrunSlot c s.cur.launch = none →
      s.curLaunch.hdr.deque ≤ ((s.core c).deque s.cur.launch).length → ∃ t, exec i s = .next t ∧
        t.rx d = (if d = 0#6 then 0#64 else 0xFFFFFFFFFFFFFFFE#64) ∧ t.rp pd = (pd == 0#3) ∧ s.Frame t [d] [pd] [] []) ∧
    (s.freeSlot c s.cur = none → s.canPush c s.cur = true → s.foldBlocks (s.agentOf c) = true → LosesTurn i s)

/-- R117: FORK.J checks its counter as a word to be written, and does as FORK does with the counter's address as x6 of the
new work. A counter in local memory is increased by one in the same step; the increment of any other leaves for its home. -/
def Says.ForksWithCounter : Prop :=
  ∀ (s : State) (d a b : BitVec 6) (pd : BitVec 3) (disp : BitVec 37) (slot : BitVec 3) (x0 : Thread),
    let c := s.iss.core
    let i : Instr := .forkJ d a b pd disp slot
    let o := s.localOf (s.rx a)
    let pc := (s.iss.pc / 64#64 + disp.signExtend 64) * 64#64 + 12#64 * slot.setWidth 64
    let old := Memory.read s.curCore.lmem o 8
    let arg (k : Nat) : Word := if b = 0#6 then 0#64 else s.rx (b + BitVec.ofNat 6 k)
    let starts (u t : State) (sl : Nat) : Prop := exec i s = .next t ∧ ∃ y, t.thread? c sl = some y ∧
      y = { freshThread s s.cur c sl u.nextId pc with x := y.x } ∧ y.getX 6#6 = s.rx a ∧
      (∀ k : BitVec 6, 1 ≤ k.toNat → k.toNat ≤ 5 → y.getX k = arg (k.toNat - 1)) ∧
      t.rx d = (if d = 0#6 then 0#64 else (tidOf c sl).setWidth 64) ∧ t.rp pd = true ∧ moreWork u t
    let counted (t : State) : Prop := (∀ j < 64, t.lbit o j = (BitVec.ofNat 64 (old + 1)).getLsbD j) ∧
      ∀ k, k < o ∨ o + 8 ≤ k → t.lbyte k = s.lbyte k
    let refused (u : State) : Prop := ∃ t, exec i s = .next t ∧
      t.rx d = (if d = 0#6 then 0#64 else 0xFFFFFFFFFFFFFFFE#64) ∧ t.rp pd = (pd == 0#3) ∧ u.Frame t [d] [pd] [] []
    s.thread? c s.iss.slot = some x0 →
    ((s.rx a).toNat % 8 ≠ 0 → TrapsWith i s .alignment (s.rx a) 0#64) ∧
    (s.InRegion (s.rx a) 8 → s.curCore.fill = none →
      (∀ sl, s.freeSlot c s.cur = some sl → ∃ t, starts s t sl ∧ counted t) ∧
      (s.freeSlot c s.cur = none → s.dqrunSlot c s.cur.launch = none →
        (((s.core c).deque s.cur.launch).length < s.curLaunch.hdr.deque → s.foldBlocks (s.agentOf c) = false →
          ∃ t, exec i s = .next t ∧ (StoreHasRoom s → counted t) ∧
            pushed s t [pc + 2#64, arg 0, arg 1, arg 2, arg 3, arg 4, s.rx a, 0#64] s.curOutstanding ∧
            t.rx d = (if d = 0#6 then 0#64 else BitVec.allOnes 64) ∧ t.rp pd = true ∧ moreWork s t) ∧
        (s.curLaunch.hdr.deque ≤ ((s.core c).deque s.cur.launch).length → refused s))) ∧
    (∀ s1 pa e, Global (s.rx a) 8 → s.translateCur (s.rx a) .write = (s1, .ok pa e) →
      (∀ sl, s1.freeSlot c s1.cur = some sl → ∃ t m, starts s1 t sl ∧ m ∈ t.net ∧ m.kind = .counter false ∧ m.pa = pa ∧ m.n = 8 ∧
        m.ord = 1 ∧ m.scope = 2 ∧ ∀ id ∈ s1.curReleases, id ∈ m.after) ∧
      (s1.freeSlot c s1.cur = none → s1.canPush c s1.cur = false → refused s1))

/-- R111, R115, R118, R251: RETIRE frees the slot and lets the outstanding-work count fall, once no AMO of the thread is
unacknowledged; in slot 15 it is illegal. RETIRE.J takes one from a counter in local memory first, and sends a release to
the home of a global one. -/
def Says.Retires : Prop :=
  ∀ (s : State) (a : BitVec 6) (l : Launch),
    let c := s.iss.core
    let sl := s.iss.slot
    let gone (t : State) : Prop := t.thread? c sl = none ∧ ∀ k, k ≠ sl → t.thread? c k = s.thread? c k
    let o := s.localOf (s.rx a)
    (sl = 15 → TrapsWith .retire s .illegalInstruction 0#64 0#64 ∧ TrapsWith (.retireJ a) s .illegalInstruction 0#64 0#64) ∧
    (sl ≠ 15 → s.curAtomics ≠ [] → LosesTurn .retire s ∧ LosesTurn (.retireJ a) s) ∧
    (sl ≠ 15 → s.curAtomics = [] → s.cur.ended = false → lookup (s.dom s.cur.dom).launches s.cur.launch = some l →
      (∃ t, exec .retire s = .next t ∧ gone t ∧ s.SameMemory t ∧
        (lookup (t.dom s.cur.dom).launches s.cur.launch).map Launch.work = some (l.work - 1)) ∧
      (s.InRegion (s.rx a) 8 → s.curCore.fill = none → s.curOutstanding = [] → ∃ t, exec (.retireJ a) s = .next t ∧ gone t ∧
        (∀ j < 64, t.lbit o j = (BitVec.ofNat 64 (Memory.read s.curCore.lmem o 8 + (2 ^ 64 - 1))).getLsbD j) ∧
        (∀ k, k < o ∨ o + 8 ≤ k → t.lbyte k = s.lbyte k) ∧
        (lookup (t.dom s.cur.dom).launches s.cur.launch).map Launch.work = some (l.work - 1)) ∧
      (∀ s1 pa e, Global (s.rx a) 8 → s.translateCur (s.rx a) .both = (s1, .ok pa e) →
        s1.foldBlocks (s.agentOf c) = false → ∃ t m, exec (.retireJ a) s = .next t ∧ gone t ∧ m ∈ t.net ∧
          m.kind = .counter true ∧ m.pa = pa ∧ m.n = 8 ∧ m.ord = 3 ∧ m.scope = 2 ∧ m.wait = false ∧
          (lookup (t.dom s.cur.dom).launches s.cur.launch).map Launch.work = some l.work))

/-- R109, R119, R120, R126: YIELD parks for 1 + min(X[A], 4095) turns, PARK and PARK.REL until their deadline unless it has
been reached; in a handler they raise Handler-Block. -/
def Says.YieldAndPark : Prop :=
  ∀ (s : State) (a : BitVec 6),
    let parks (i : Instr) (w : Wake) : Prop :=
      exec i s = .next (s.setThread s.iss.core s.iss.slot { s.cur with st := .parked w })
    let x := (s.rx a).toNat
    let now := s.curCore.cyc
    (s.iss.slot = 14 → ∀ i ∈ [Instr.yield a, .park a, .parkRel a], TrapsWith i s .handlerBlock 0#64 0#64) ∧
    (s.iss.slot ≠ 14 →
      parks (.yield a) (.turns (1 + min x 4095)) ∧
      (x ≤ now → exec (.park a) s = .next s) ∧ (now < x → parks (.park a) (.deadline x)) ∧
      (min (now + x) (2 ^ 64 - 1) ≤ now → exec (.parkRel a) s = .next s) ∧
      (now < min (now + x) (2 ^ 64 - 1) → parks (.parkRel a) (.deadline (min (now + x) (2 ^ 64 - 1)))))

/-- R115, R121, R123, R264, R273: SEND puts its eight words into the core's outbound queue with the sender's TID and the
record of a release at partition scope, and counts work; a core outside the launch or an INBOX of 0 is a Protection
trap, and a full queue loses the turn, or blocks a handler. -/
def Says.Sends : Prop :=
  ∀ (s : State) (a b : BitVec 6),
    let c := s.iss.core
    let v := (s.rx a).toNat
    let tgt := v / 2048 * 960 + v / 8 % 256 * 6 + v % 8
    let named := v < 8192 ∧ v / 8 % 256 < 160 ∧ v % 8 < 6 ∧ tgt ∈ s.curLaunch.cores
    let ag := s.agentOf c
    (¬named ∨ s.curLaunch.hdr.inbox = 0 → ∃ e, exec (.send a b) s = .next (s.useFree.takeTrap .protection 0#64 e)) ∧
    (named → s.curLaunch.hdr.inbox ≠ 0 → 16 ≤ s.curCore.outq.length →
      (s.iss.slot = 14 → TrapsWith (.send a b) s .handlerBlock 0#64 0#64) ∧ (s.iss.slot ≠ 14 → LosesTurn (.send a b) s)) ∧
    (named → s.curLaunch.hdr.inbox ≠ 0 → s.curCore.outq.length < 16 → s.foldBlocks ag = true → LosesTurn (.send a b) s) ∧
    (named → s.curLaunch.hdr.inbox ≠ 0 → s.curCore.outq.length < 16 → s.foldBlocks ag = false → ∃ t m,
      exec (.send a b) s = .next t ∧ (t.core c).outq = (s.core c).outq ++ [m] ∧ m.target = tgt ∧
      m.sender = (tidOf c s.iss.slot).toNat ∧ m.launch = s.cur.launch ∧ m.w.length = 8 ∧
      (∀ k < 8, m.w.getD k 0#64 = s.rx (b + BitVec.ofNat 6 k)) ∧
      m.rel = some ⟨ag, (t.cache ag).relcnt.setWidth 24, 2, 1⟩ ∧ (t.cache ag).relcnt = (s.cache ag).relcnt + 1#64 ∧
      m.after = s.curOutstanding ∧ t.cur = s.cur ∧ moreWork s t ∧ s.SameMemory { t with caches := s.caches } ∧
      (t.cache ag).lines = (s.cache ag).lines)

/-- R122, R124: MESSAGE_DELIVERY takes the oldest message to a target: the target's inbox accepts it while the launch has
an entry free and is not evicted there, else it is tried again 64 cycles later by MESSAGE_RETRY; later messages to the
target wait behind it. In one cycle a target accepts messages in ascending order of the sending core. -/
def Says.MessageDelivery : Prop :=
  ∀ (s : State) (c tgt : Nat) (m : Message), (s.core c).outq.find? (fun x => x.target == tgt) = some m →
      (∀ id ∈ m.after, s.acked id = true) →
    let l := s.launch m.dom m.launch
    let full := l.hdr.inbox ≤ (s.core tgt).inboxHeld m.launch ∨ l.evictedAt tgt = true
    let i : Instr := if m.retryAt = 0 then .messageDelivery c tgt else .messageRetry c tgt
    (m.retryAt ≠ 0 → (s.core c).cyc < m.retryAt → exec i s = .next s) ∧
    let late : Prop := ∃ b, (s.core tgt).accepted = some ((s.core tgt).cyc, b) ∧ c < b
    (m.retryAt ≤ (s.core c).cyc → ¬full → late → exec i s = .next s) ∧
    (m.retryAt ≤ (s.core c).cyc → ¬full → ¬late → ∃ t, exec i s = .next t ∧
      (t.core c).outq = (s.core c).outq.erase m ∧ (t.core tgt).inbox = (s.core tgt).inbox ++ [m] ∧
      (∀ k, k ≠ c → (t.core k).outq = (s.core k).outq) ∧ (∀ k, k ≠ tgt → (t.core k).inbox = (s.core k).inbox) ∧
      (t.core tgt).accepted = some ((s.core tgt).cyc, c) ∧
      (∀ k, t.core k = { s.core k with outq := (t.core k).outq, inbox := (t.core k).inbox, accepted := (t.core k).accepted }) ∧
      (∀ k, k ≠ tgt → (t.core k).accepted = (s.core k).accepted) ∧
      t = { s with cores := t.cores }) ∧
    (m.retryAt ≤ (s.core c).cyc → full → ∃ t, exec i s = .next t ∧
      (t.core c) = { s.core c with outq := (s.core c).outq.map fun x =>
        if x = m then { x with retryAt := (s.core c).cyc + 64 } else x } ∧ (∀ k, k ≠ c → t.core k = s.core k) ∧
      t = { s with cores := t.cores })

/-- R113, R123, R125, R273: HANDLER_START gives slot 14 the oldest message of the inbox: PC word 0, x1 to x7 words 1 to
7, x8 the sender's TID, at the level of the launch. It is the acquire of the SEND: the sender's core is drained first where
its record needs it. It does nothing while slot 14 is held or a steal of a thread killed there is in flight (R140), nor in a cycle
in which the core has allotted a slot (R114). -/
def Says.HandlerStarts : Prop :=
  ∀ (s : State) (c : Nat) (m : Message) (rest : List Message),
    let starts (u : State) : Prop := ∃ t y, exec (.handlerStart c) s = .next t ∧ (t.core c).inbox = rest ∧
      t.thread? c 14 = some y ∧ y.pc = m.w.getD 0 0#64 ∧
      (∀ k : BitVec 6, 1 ≤ k.toNat → k.toNat ≤ 7 → m.w.length = 8 → y.getX k = m.w.getD k.toNat 0#64) ∧
      y.getX 8#6 = BitVec.ofNat 64 m.sender ∧ y.lvl = (s.launch m.dom m.launch).lvl ∧
      y.launch = m.launch ∧ y.dom = m.dom ∧ y.st = .ready ∧ y.startAt = (s.core c).cyc + 16 ∧
      (∀ k, k ≠ 14 → t.thread? c k = s.thread? c k) ∧ s.SameMemory { t with caches := s.caches } ∧ t.caches = u.caches
    (s.thread? c 14 ≠ none ∨ 14 ∈ (s.core c).ghosts ∨ (s.core c).allotted = some ((s.core c).cyc - 1) →
      exec (.handlerStart c) s = .next s) ∧
    (s.thread? c 14 = none → 14 ∉ (s.core c).ghosts → (s.core c).allotted ≠ some ((s.core c).cyc - 1) →
      (s.core c).inbox = m :: rest → (∀ id ∈ m.after, s.acked id = true) →
      ((m.rel = none ∨ ∃ r, m.rel = some r ∧ r.agent = s.agentOf c) → starts s) ∧
      (∀ r, m.rel = some r → r.agent ≠ s.agentOf c → r.st = 3 → ∃ u, selfInvalidated s u (s.agentOf c) ∧ starts u) ∧
      (∀ r, m.rel = some r → r.agent ≠ s.agentOf c → r.st = 1 → scopeCovers r.scope r.agent (s.agentOf c) = true →
        ∃ t dr, exec (.handlerStart c) s = .next t ∧ t.thread? c 14 = none ∧ dr ∈ t.net ∧ dr.id = s.nextId ∧
          dr.kind = .drain r.agent r.epoch 0 ∧
          (t.core c).inbox = { m with rel := some { r with st := 2 }, after := [s.nextId] } :: rest))

/-! ### Deques (R129 to R140) -/

/-- Thread `y` has just started with the item `w` from the deque of core `owner` in slot `sl` of core `c` (R113, R129). -/
def itemStarts (s : State) (c sl : Nat) (w : List Word) (owner launch : Nat) (y : Thread) : Prop :=
  let g (i : Nat) := w.getD i 0#64
  let kind := (g 0).toNat % 4
  y.pc = g 0 &&& ~~~3#64 ∧ y.xfer = true ∧ y.st = .ready ∧ y.launch = launch ∧ y.startAt = (s.core c).cyc + 16 ∧
  y.rseq = (tidOf c sl).setWidth 64 <<< 32 ||| 0x6A09E667#64 ∧ y.fpsr = 0#5 ∧ y.p = 0#8 ∧
  (∀ r : BitVec 6, y.getX r =
    if r = 7#6 then BitVec.ofNat 64 (coreNum owner)
    else if 1 ≤ r.toNat ∧ ((kind = 0 ∧ r.toNat ≤ 4) ∨ (kind = 1 ∧ r.toNat = 1) ∨ (kind = 2 ∧ r.toNat ≤ 6)) then g r.toNat
    else 0#64) ∧
  (kind = 1 → y.allot = 1 ∧ y.getQ 0#3 = g 7 ++ g 6 ++ g 5 ++ g 4 ∧ y.qwin = g 2 &&& 0xFFFFFFFFFFFF#64 ∧ y.trav = g 3) ∧
  (kind ≠ 1 → y.allot = 0 ∧ y.qwin = 0#64 ∧ y.trav = 0#64)

/-- One more, or one less, piece of outstanding work of a launch (R115). -/
def workIs (s t : State) (d n : Nat) (f : Nat → Nat) : Prop :=
  (lookup (t.dom d).launches n).map Launch.work = (lookup (s.dom d).launches n).map fun l => f l.work

/-- The eight words of an entry of the deque of launch `l` on core `c`: its own, or those at its place in the spill area of the
launch (R129, R131). -/
def itemWords (s : State) (c : Nat) (l : Launch) (it : Item) (w : List Word) : Prop :=
  w.length = 8 ∧ (it.spill = none → w = it.w) ∧ ∀ i, it.spill = some i → ∀ k < 8, ∀ j < 64,
    (w.getD k 0#64).getLsbD j =
      (Memory.get (s.core c).lmem (l.lbase + l.hdr.lmem + 64 * i + 8 * k + j / 8)).getLsbD (j % 8)

/-- R136: DQPUSH pushes X[B] to X[B + 7] as one item. A kind of 3, or of 1 when QALLOT.DECL is 0, is an
Illegal-Instruction trap; a full deque clears P[PD] and changes nothing else, unless a parked DQRUN receives the push;
otherwise the item is the new bottom, P[PD] is 1 and the outstanding-work count rises. As a release (R132) the push loses
its turn while the core's fold stands in its way (R268). -/
def Says.DequePush : Prop :=
  ∀ (s : State) (b : BitVec 6) (pd : BitVec 3),
    let c := s.iss.core
    let i : Instr := .dqpush b pd
    let w := (List.range 8).map fun k => s.rx (b + BitVec.ofNat 6 k)
    let kind := (s.rx b).toNat % 4
    let illegal := kind = 3 ∨ (kind = 1 ∧ s.curLaunch.hdr.qregs = 0)
    let len := ((s.core c).deque s.cur.launch).length
    (illegal → TrapsWith i s .illegalInstruction 0#64 0#64) ∧
    (¬illegal → s.dqrunSlot c s.cur.launch = none → s.curLaunch.hdr.deque ≤ len → WritesP i s pd false) ∧
    (¬illegal → s.dqrunSlot c s.cur.launch = none → len < s.curLaunch.hdr.deque → s.foldBlocks (s.agentOf c) = true →
      LosesTurn i s) ∧
    (¬illegal → s.dqrunSlot c s.cur.launch = none → len < s.curLaunch.hdr.deque → s.foldBlocks (s.agentOf c) = false →
      ∃ t, exec i s = .next t ∧ pushed s t w s.curOutstanding ∧ t.rp pd = true ∧ (∀ r, t.rx r = s.rx r) ∧
        (∀ r, r ≠ pd → t.rp r = s.rp r) ∧ moreWork s t ∧ (StoreHasRoom s → s.SameMemory { t with caches := s.caches })) ∧
    (¬illegal → ∀ sl, s.dqrunSlot c s.cur.launch = some sl → sl ≠ s.iss.slot → s.foldBlocks (s.agentOf c) = false →
      ∃ t y, exec i s = .next t ∧ t.thread? c sl = some y ∧ itemStarts s c sl w c s.cur.launch y ∧ y.hold = s.curOutstanding ∧
        (t.core c).deque s.cur.launch = (s.core c).deque s.cur.launch ∧ t.rp pd = true ∧ (∀ r, t.rx r = s.rx r) ∧
        workIs s t s.cur.dom s.cur.launch (· + 1))

/-- R137: DQSPLIT pushes the upper half of the range in X[A] and X[A + 1] with the arguments X[A + 2] and X[A + 3], and
keeps the lower half; a range below two elements, or a full deque, clears P[PD] and changes nothing else. -/
def Says.DequeSplit : Prop :=
  ∀ (s : State) (a : BitVec 6) (pd : BitVec 3) (disp : BitVec 37) (slot : BitVec 3),
    let c := s.iss.core
    let i : Instr := .dqsplit a pd disp slot
    let pc := (s.iss.pc / 64#64 + disp.signExtend 64) * 64#64 + 12#64 * slot.setWidth 64
    let lo := s.rx a
    let hi := s.rx (a + 1#6)
    let mid := hi - BitVec.ofNat 64 (((hi - lo).toNat + 1) / 2)
    let len := ((s.core c).deque s.cur.launch).length
    ((hi - lo).toNat < 2 → WritesP i s pd false) ∧
    (s.dqrunSlot c s.cur.launch = none → s.curLaunch.hdr.deque ≤ len → WritesP i s pd false) ∧
    (2 ≤ (hi - lo).toNat → s.dqrunSlot c s.cur.launch = none → len < s.curLaunch.hdr.deque →
      s.foldBlocks (s.agentOf c) = true → LosesTurn i s) ∧
    (2 ≤ (hi - lo).toNat → s.dqrunSlot c s.cur.launch = none → len < s.curLaunch.hdr.deque →
      s.foldBlocks (s.agentOf c) = false → ∃ t, exec i s = .next t ∧
        pushed s t [pc, mid, hi, s.rx (a + 2#6), s.rx (a + 3#6), 0#64, 0#64, 0#64] s.curOutstanding ∧
        t.rx (a + 1#6) = (if a + 1#6 = 0#6 then 0#64 else mid) ∧ t.rp pd = true ∧ (∀ r, r ≠ a + 1#6 → t.rx r = s.rx r) ∧
        (∀ r, r ≠ pd → t.rp r = s.rp r) ∧ moreWork s t ∧ (StoreHasRoom s → s.SameMemory { t with caches := s.caches }))

/-- R138: DQPOP takes the bottom item of the thread's own deque into X[D] to X[D + 7] and sets P[PD]; on an empty deque it
clears P[PD] and writes nothing. A spilled item is read back (R131); one whose push has not taken effect loses the turn (R132,
R273). The taken item stays counted. -/
def Says.DequePop : Prop :=
  ∀ (s : State) (d : BitVec 6) (pd : BitVec 3),
    let c := s.iss.core
    let i : Instr := .dqpop d pd
    ((s.core c).deque s.cur.launch = [] → WritesP i s pd false) ∧
    (∀ it rest, (s.core c).deque s.cur.launch = it :: rest → (∃ j ∈ it.after, s.acked j = false) → LosesTurn i s) ∧
    (∀ it rest w, (s.core c).deque s.cur.launch = it :: rest → (∀ j ∈ it.after, s.acked j = true) →
      itemWords s c s.curLaunch it w → ∃ t, exec i s = .next t ∧
      (t.core c).deque s.cur.launch = rest ∧
      (∀ k < 8, t.rx (d + BitVec.ofNat 6 k) = if d + BitVec.ofNat 6 k = 0#6 then 0#64 else w.getD k 0#64) ∧
      (∀ r, (∀ k < 8, r ≠ d + BitVec.ofNat 6 k) → t.rx r = s.rx r) ∧ t.rp pd = true ∧
      (∀ r, r ≠ pd → t.rp r = s.rp r) ∧ (∀ n, n ≠ s.cur.launch → (t.core c).deque n = (s.core c).deque n) ∧
      t.doms = s.doms ∧ s.SameMemory t)

/-- One draw of the victim sequence (R134). -/
def drawn (v : BitVec 32) : BitVec 32 := (v >>> 1) ^^^ (if v.getLsbD 0 then 0x80200003#32 else 0#32)

/-- The placed cores, ascending, that core `c` visits at a level of a round (R134): 1 its cluster, 2 its die, 3 the
partition. -/
def victimsOf (l : Launch) (c level : Nat) : List Nat :=
  (List.range Config.cores).filter fun v => l.cores.contains v && v != c &&
    (level == 3 || (level == 2 && v / 960 == c / 960) || (level == 1 && v / 6 == c / 6))

/-- At its level, round `r` visits core `v`, and is then `r'`, the victim sequence going from `q` to `q'` (R134): level 1 in
order from one drawn place on, levels 2 and 3 with one draw for each visit. -/
def visitsNow (l : Launch) (c : Nat) (r : Round) (q : BitVec 32) (v : Nat) (r' : Round) (q' : BitVec 32) : Prop :=
  let cs := victimsOf l c r.level
  let k := (drawn q).toNat % 65536 % cs.length
  1 ≤ r.level ∧ r.level + l.hdr.steal ≤ 3 ∧ cs ≠ [] ∧
    ((r.level = 1 ∧ q' = q ∧ ∃ rest, r.near = some (v :: rest) ∧ r' = { r with near := some rest }) ∨
      (r.level = 1 ∧ q' = drawn q ∧ r.near = none ∧ ∃ rest, cs.drop k ++ cs.take k = v :: rest ∧
        r' = { r with near := some rest }) ∨
      (r.level ≠ 1 ∧ q' = drawn q ∧ ∃ n, r.left = n + 1 ∧ v = cs.getD k 0 ∧ r' = { r with left := n }))

/-- Round `r` has nothing to visit at its level: every core of level 1 has been visited, all eight visits of level 2 or 3 have
been made, or the level has no other placed core (log 20). -/
def levelOver (l : Launch) (c : Nat) (r : Round) : Prop :=
  r.level + l.hdr.steal ≤ 3 ∧
    (victimsOf l c r.level = [] ∨ (r.level = 1 ∧ r.near = some []) ∨ (r.level ≠ 1 ∧ r.left = 0))

/-- The next visit of round `r`, whose remaining levels are at most `n` (R134). -/
def nextVisitIs (l : Launch) (c : Nat) : Nat → Round → BitVec 32 → Nat → Round → BitVec 32 → Prop
  | 0, _, _, _, _, _ => False
  | n + 1, r, q, v, r', q' =>
    visitsNow l c r q v r' q' ∨ (levelOver l c r ∧ nextVisitIs l c n ⟨r.level + 1, some [], 8⟩ q v r' q')

/-- Round `r` is over: the levels of the launch's steal domain that remain, at most `n`, have nothing to visit (R134). -/
def roundOver (l : Launch) (c : Nat) : Nat → Round → Prop
  | 0, r => 3 < r.level + l.hdr.steal
  | n + 1, r => 3 < r.level + l.hdr.steal ∨ (levelOver l c r ∧ roundOver l c n ⟨r.level + 1, some [], 8⟩)

/-- A round that has made no visit (R134). -/
def newRound : Round := ⟨1, none, 8⟩

/-- R134, R139: DQSTEAL sends one steal attempt to the next victim of the round, and when that is over to the first of a new
one; a round visits the other placed cores of the cluster, then eight of the die, then eight of the partition, as far as the
launch's steal domain reaches. DQSTEAL.AT sends one to the core that X[A] names, and is no visit. The thread loses turns until
the attempt answers; the answer's item goes to X[D] to X[D + 7], which ends the round of a DQSTEAL, and without one P[PD] is
cleared. That the round is the thread's, and that no draw is made for a level without cores, are the model's choices
(log 20). -/
def Says.Steals : Prop :=
  ∀ (s : State) (d a : BitVec 6) (pd : BitVec 3),
    let c := s.iss.core
    let l := s.curLaunch
    let q := s.curCore.vseq
    let sends (i : Instr) (v : Nat) (round : Option Round) (q' : BitVec 32) : Prop := ∃ t m, exec i s = .next t ∧ s.Mine m ∧
      m.kind = .steal v [] none ∧ m.dst = .steal d pd ∧ m.wait = false ∧ t.net = s.net ++ [m] ∧ t.iss.st = .lost ∧
      t.cur = { s.cur with round := round, prog := some ⟨1, [s.nextId], 0⟩, pc := s.iss.pc } ∧
      t.core c = { s.core c with slots := (t.core c).slots, vseq := q' } ∧
      (∀ k, k ≠ s.iss.slot → t.thread? c k = s.thread? c k) ∧ s.SameMemory t
    let x := (s.rx a).toNat
    let tgt := x / 2048 * 960 + x / 8 % 256 * 6 + x % 8
    let named := x < 8192 ∧ x / 8 % 256 < 160 ∧ x % 8 < 6 ∧ tgt ∈ l.cores ∧
      (l.hdr.steal = 1 → tgt / 960 = c / 960) ∧ (2 ≤ l.hdr.steal → tgt / 6 = c / 6)
    let r := s.cur.round.getD newRound
    (s.cur.prog = none →
      (∀ v r' q', nextVisitIs l c 3 r q v r' q' → sends (.dqsteal d pd) v (some r') q') ∧
      (roundOver l c 3 r → ∀ v r' q', nextVisitIs l c 3 newRound q v r' q' → sends (.dqsteal d pd) v (some r') q') ∧
      (roundOver l c 3 r → roundOver l c 3 newRound → ∃ t, exec (.dqsteal d pd) s = .next t ∧ t.rp pd = (pd == 0#3) ∧
        (∀ k, k ≠ pd → t.rp k = s.rp k) ∧ t.cur = { s.cur with round := none, p := t.cur.p } ∧
        t = s.setThread c s.iss.slot t.cur ∧ s.SameMemory t) ∧
      (named → sends (.dqstealAt d a pd) tgt s.cur.round q) ∧
      (¬named → ∃ e, exec (.dqstealAt d a pd) s = .next (s.useFree.takeTrap .protection 0#64 e))) ∧
    (∀ id m, s.cur.prog = some ⟨1, [id], 0⟩ → s.findMsg id = some m → ∀ i ∈ [Instr.dqsteal d pd, .dqstealAt d a pd],
      (m.st ≠ .poked → LosesTurn i s) ∧
      (m.st = .poked → ∀ v, m.kind = .steal v [] none → ∃ t, exec i s = .next t ∧ s.Left t id ∧ t.rp pd = (pd == 0#3) ∧
        (∀ r, r ≠ pd → t.rp r = s.rp r) ∧ t.cur = { s.cur with p := t.cur.p } ∧ s.SameMemory t) ∧
      (m.st = .poked → ∀ v it, m.kind = .steal v [] (some it) → it.w.length = 8 → ∃ t, exec i s = .next t ∧ s.Left t id ∧
        (∀ k < 8, t.rx (d + BitVec.ofNat 6 k) = if d + BitVec.ofNat 6 k = 0#6 then 0#64 else it.w.getD k 0#64) ∧
        (∀ r, (∀ k < 8, r ≠ d + BitVec.ofNat 6 k) → t.rx r = s.rx r) ∧ t.rp pd = true ∧ (∀ r, r ≠ pd → t.rp r = s.rp r) ∧
        t.cur.round = (if i = .dqsteal d pd then none else s.cur.round) ∧
        t.cur = { s.cur with x := t.cur.x, p := t.cur.p, round := t.cur.round } ∧ s.SameMemory t))

/-- R115, R118, R126, R140, R251: DQRUN starts the bottom item of its own deque in its slot, which counts as a RETIRE; with
an empty deque the thread parks for steal rounds, makes the first visit of one and is due for the next 256 cycles later, and
counts as retired too. It loses turns while an AMO of the thread is unacknowledged, or the item's push has not taken effect; in
slot 14 it raises Handler-Block. -/
def Says.RunsItems : Prop :=
  ∀ (s : State) (x : Thread),
    let c := s.iss.core
    let sl := s.iss.slot
    let l := s.curLaunch
    let retires (n : Nat) : Nat := if x.ended then n else n - 1
    s.thread? c sl = some x →
    (sl = 14 → TrapsWith .dqrun s .handlerBlock 0#64 0#64) ∧
    (sl ≠ 14 → s.curAtomics ≠ [] → LosesTurn .dqrun s) ∧
    (sl ≠ 14 → s.curAtomics = [] → ∀ it rest, (s.core c).deque x.launch = it :: rest →
      (∃ j ∈ it.after, s.acked j = false) → LosesTurn .dqrun s) ∧
    (sl ≠ 14 → s.curAtomics = [] → ∀ it rest w, (s.core c).deque x.launch = it :: rest →
      (∀ j ∈ it.after, s.acked j = true) → itemWords s c l it w → ∃ t y,
      exec .dqrun s = .next t ∧ (t.core c).deque x.launch = rest ∧ t.thread? c sl = some y ∧
      itemStarts s c sl w c x.launch y ∧ y.hold = [] ∧ workIs s t x.dom x.launch retires ∧
      (∀ k, k ≠ sl → t.thread? c k = s.thread? c k) ∧ s.SameMemory t) ∧
    (sl ≠ 14 → s.curAtomics = [] → (s.core c).deque x.launch = [] →
      let parks (round : Option Round) (t : State) : Prop := exec .dqrun s = .next t ∧
        t.thread? c sl = some { x with st := .parked (.deque ((s.core c).cyc + 256)), ended := true, round := round } ∧
        workIs s t x.dom x.launch retires ∧ (∀ k, k ≠ sl → t.thread? c k = s.thread? c k) ∧ s.SameMemory t
      (∀ v r' q', nextVisitIs l c 3 newRound s.curCore.vseq v r' q' → ∃ t m, parks (some r') t ∧ s.Mine m ∧
        m.kind = .steal v [] none ∧ m.dst = .none ∧ m.wait = false ∧ t.net = s.net ++ [m] ∧ (t.core c).vseq = q') ∧
      (roundOver l c 3 newRound → ∃ t, parks none t ∧ t.net = s.net ∧ (t.core c).vseq = (s.core c).vseq))

/-- R132, R133, R134, R140: STEAL_ROUND sends a request of a parked DQRUN to the next victim, one at a time, a new round every
256 cycles; at the victim STEAL_REQUEST takes the top item, whose push must have taken effect: a range is split, the thief
receiving the upper half; STEAL_ANSWER acquires the item (R265, R273) and starts it in the thief's slot with x7 the victim, or
lets a DQSTEAL read it. A slot whose thread was killed meanwhile is held until then. -/
def Says.StealEvents : Prop :=
  ∀ (s : State) (c sl id : Nat) (x : Thread) (m : Msg),
    (s.thread? c sl = some x → ∀ next, x.st = .parked (.deque next) →
      let l := s.launch x.dom x.launch
      let visits (r : Round) (next' : Nat) : Prop :=
        (∀ v r' q', nextVisitIs l c 3 r (s.core c).vseq v r' q' → ∃ t m', exec (.stealRound c sl) s = .next t ∧
          t.net = s.net ++ [m'] ∧ m'.kind = .steal v [] none ∧ m'.core = c ∧ m'.slot = sl ∧ m'.gen = x.gen ∧ m'.dst = .none ∧
          m'.id = s.nextId ∧ m'.st = .sent ∧ m'.launch = x.launch ∧ m'.dom = x.dom ∧ (t.core c).vseq = q' ∧
          t.thread? c sl = some { x with st := .parked (.deque next'), round := some r' } ∧
          (∀ k, k ≠ sl → t.thread? c k = s.thread? c k) ∧ s.SameMemory t) ∧
        (roundOver l c 3 r → ∃ t, exec (.stealRound c sl) s = .next t ∧ t.net = s.net ∧
          t.thread? c sl = some { x with st := .parked (.deque next'), round := none } ∧
          (∀ k, k ≠ sl → t.thread? c k = s.thread? c k) ∧ s.SameMemory t)
      (s.stealing c sl = true → exec (.stealRound c sl) s = .next s) ∧
      (s.stealing c sl = false → ∀ r, x.round = some r → visits r next) ∧
      (s.stealing c sl = false → x.round = none → (s.core c).cyc < next → exec (.stealRound c sl) s = .next s) ∧
      (s.stealing c sl = false → x.round = none → next ≤ (s.core c).cyc → visits newRound (next + 256))) ∧
    (s.findMsg id = some m → m.st = .sent → ∀ v, m.kind = .steal v [] none →
      ((s.core v).deque m.launch = [] → exec (.stealRequest id) s = .next (s.setMsg { m with st := .replied })) ∧
      (∀ top it, (s.core v).deque m.launch = top ++ [it] → (∃ j ∈ it.after, s.acked j = false) →
        exec (.stealRequest id) s = .next (s.setMsg { m with st := .replied })) ∧
      (∀ top it w, (s.core v).deque m.launch = top ++ [it] → (∀ j ∈ it.after, s.acked j = true) →
        itemWords s v (s.launch m.dom m.launch) it w →
        let lo := w.getD 1 0#64
        let hi := w.getD 2 0#64
        let mid := hi - BitVec.ofNat 64 (((hi - lo).toNat + 1) / 2)
        let got (g : Item) (q : List Item) (more : Nat) : Prop := ∃ t, exec (.stealRequest id) s = .next t ∧
          t.findMsg id = some { m with kind := .steal v [] (some g), st := .replied } ∧
          ((t.core v).deque m.launch).length = q.length ∧
          (((s.core v).setDeque m.launch q).stored.length ≤ 64 →
            s.NowIs t id { m with kind := .steal v [] (some g), st := .replied } ∧ (t.core v).deque m.launch = q ∧
            (∀ n, n ≠ m.launch → (t.core v).deque n = (s.core v).deque n) ∧ s.SameMemory t) ∧
          (∀ k, k ≠ v → t.core k = s.core k) ∧ workIs s t m.dom m.launch (· + more)
        ((w.getD 0 0#64).toNat % 4 ≠ 0 → got { it with w := w, spill := none } top 0) ∧
        ((w.getD 0 0#64).toNat % 4 = 0 → lo.toNat < mid.toNat →
          got { it with w := w.set 1 mid, spill := none } (top ++ [{ it with w := w.set 2 mid, spill := none }]) 1) ∧
        ((w.getD 0 0#64).toNat % 4 = 0 → mid.toNat ≤ lo.toNat → got { it with w := w.set 1 mid, spill := none } top 0))) ∧
    (s.findMsg id = some m → m.st = .replied → (∃ j ∈ m.after, s.acked j = false) → ∀ v it, m.kind = .steal v [] it →
      exec (.stealAnswer id) s = .next s) ∧
    (s.findMsg id = some m → m.st = .replied → (∀ j ∈ m.after, s.acked j = true) → ∀ v,
      let ghost := m.slot ∈ (s.core m.core).ghosts
      let starts (it : Item) : Prop := ∃ t y, exec (.stealAnswer id) s = .next t ∧ s.Left t id ∧
        t.thread? m.core m.slot = some y ∧ itemStarts s m.core m.slot it.w v m.launch y ∧
        (∀ k, k ≠ m.slot → t.thread? m.core k = s.thread? m.core k) ∧
        ∀ k, k ∈ (t.core m.core).ghosts ↔ k ∈ (s.core m.core).ghosts ∧ k ≠ m.slot
      (m.kind = .steal v [] none → ¬ghost → m.dst = .none → exec (.stealAnswer id) s = .next (s.dropMsg id)) ∧
      (m.kind = .steal v [] none → ¬ghost → ∀ d pd, m.dst = .steal d pd →
        exec (.stealAnswer id) s = .next (s.setMsg { m with st := .poked })) ∧
      (m.kind = .steal v [] none → ghost → ∃ t, exec (.stealAnswer id) s = .next t ∧ s.Left t id ∧
        (∀ k, k ∈ (t.core m.core).ghosts ↔ k ∈ (s.core m.core).ghosts ∧ k ≠ m.slot) ∧
        (∀ k, t.thread? m.core k = s.thread? m.core k) ∧ s.SameMemory t) ∧
      (∀ it, m.kind = .steal v [] (some it) → it.rel = none ∨ (∃ r, it.rel = some r ∧ r.agent = m.agent) →
        (∀ d pd, m.dst = .steal d pd → ¬ghost → exec (.stealAnswer id) s = .next (s.setMsg { m with st := .poked })) ∧
        (m.dst = .none ∨ ghost → it.w.length = 8 → starts it)) ∧
      (∀ it r, m.kind = .steal v [] (some it) → it.rel = some r → r.agent ≠ m.agent →
        (r.st = 1 → scopeCovers r.scope r.agent m.agent = true →
          ∃ t dr, exec (.stealAnswer id) s = .next t ∧ dr ∈ t.net ∧ dr.id = s.nextId ∧ dr.kind = .drain r.agent r.epoch 0 ∧
            (s.nextId ≠ id → t.findMsg id = some { m with
              kind := .steal v [] (some { it with rel := some { r with st := 2 } }), after := [s.nextId] })) ∧
        (r.st ≠ 1 → ∀ d pd, m.dst = .steal d pd → ¬ghost → ∃ u, selfInvalidated s u m.agent ∧
          exec (.stealAnswer id) s = .next (u.setMsg { m with st := .poked }))))

/-! ### Query sets (R81, R82, R141 to R160) -/

/-- An instruction that names a q register outside the thread's allotment raises Illegal-Register (R82); else it has its
effect. -/
def NeedsQ (i : Instr) (s : State) (rs : List (BitVec 3)) (effect : Prop) : Prop :=
  ((∃ r ∈ rs, s.cur.allot ≤ r.toNat) → TrapsWith i s .illegalRegister 0#64 0#64) ∧
  ((∀ r ∈ rs, r.toNat < s.cur.allot) → effect)

/-- `i` completes, writes to q register `qd` the set `v` and to P[PD] whether it is non-empty, and changes nothing
else. -/
def WritesSet (i : Instr) (s : State) (qd pd : BitVec 3) (v : QSet) : Prop :=
  ∃ t, exec i s = .next t ∧ t.rq qd = v ∧ t.rp pd = (pd == 0#3 || v != 0#256) ∧ s.Frame t [] [pd] [] [qd]

/-- R82, R149: QALLOC beyond the declaration clears P[PD]; else it empties the q registers it newly allots, raises the
allotment to IMM32 and sets P[PD]. QFREE lowers the allotment to IMM32. Nothing else changes. -/
def Says.QueryAllotment : Prop :=
  ∀ (s : State) (pd : BitVec 3) (imm : BitVec 32), imm.toNat ≤ 8 →
    (s.curLaunch.hdr.qregs < imm.toNat → WritesP (.qalloc pd imm) s pd false) ∧
    (imm.toNat ≤ s.curLaunch.hdr.qregs → ∃ t, exec (.qalloc pd imm) s = .next t ∧
      (∀ r, t.rq r = if s.cur.allot ≤ r.toNat ∧ r.toNat < imm.toNat then 0#256 else s.rq r) ∧ t.rp pd = true ∧
      (∀ r, r ≠ pd → t.rp r = s.rp r) ∧
      t.cur = { s.cur with allot := max s.cur.allot imm.toNat, q := t.cur.q, p := t.cur.p } ∧
      t = s.setThread s.iss.core s.iss.slot t.cur ∧ s.SameMemory t) ∧
    (∃ t, exec (.qfree imm) s = .next t ∧ t.cur = { s.cur with allot := min s.cur.allot imm.toNat } ∧
      t = s.setThread s.iss.core s.iss.slot t.cur ∧ s.SameMemory t)

/-- R82, R150: the register-only set operations, bit i standing for member i. -/
def Says.QuerySets : Prop :=
  ∀ (s : State) (qd qa qb pd : BitVec 3) (xa xb : BitVec 6),
    let a := s.rq qa
    let b := s.rq qb
    let k := (s.rx xa).toNat
    let sets (i : Instr) (rs : List (BitVec 3)) (v : QSet) : Prop := NeedsQ i s rs (WritesSet i s qd pd v)
    let tests (i : Instr) (rs : List (BitVec 3)) (p : Prop) : Prop :=
      NeedsQ i s rs (∃ v : Bool, WritesP i s pd v ∧ (v = true ↔ p))
    let bit (i : Instr) (new : Bool) : Prop := NeedsQ i s [qd]
      ((256 ≤ k → WritesP i s pd false) ∧
       (k < 256 → ∃ t, exec i s = .next t ∧
         (∀ j < 256, (t.rq qd).getLsbD j = if j = k then new else (s.rq qd).getLsbD j) ∧
         t.rp pd = (pd == 0#3 || (s.rq qd).getLsbD k) ∧ s.Frame t [] [pd] [] [qd]))
    sets (.qlogAnd qd qa qb pd) [qd, qa, qb] (a &&& b) ∧ sets (.qlogOr qd qa qb pd) [qd, qa, qb] (a ||| b) ∧
    sets (.qlogXor qd qa qb pd) [qd, qa, qb] (a ^^^ b) ∧ sets (.qlogAndn qd qa qb pd) [qd, qa, qb] (a &&& ~~~b) ∧
    sets (.qlogCopy qd qa pd) [qd, qa] a ∧ sets (.qlogClear qd pd) [qd] 0#256 ∧
    sets (.qlogFull qd pd) [qd] (BitVec.allOnes 256) ∧ sets (.qlogNot qd qa pd) [qd, qa] (~~~a) ∧
    bit (.qbitSet qd xa pd) true ∧ bit (.qbitClr qd xa pd) false ∧
    NeedsQ (.qpop qa xa pd) s [qa]
      ((a = 0#256 → ∃ t, exec (.qpop qa xa pd) s = .next t ∧ t.rx xa = (if xa = 0#6 then 0#64 else BitVec.allOnes 64) ∧
         t.rp pd = (pd == 0#3) ∧ s.Frame t [xa] [pd] [] []) ∧
       (∀ n < 256, a.getLsbD n = true → (∀ j < n, a.getLsbD j = false) → ∃ t, exec (.qpop qa xa pd) s = .next t ∧
         t.rx xa = (if xa = 0#6 then 0#64 else BitVec.ofNat 64 n) ∧
         (∀ j < 256, (t.rq qa).getLsbD j = (j != n && a.getLsbD j)) ∧ t.rp pd = true ∧ s.Frame t [xa] [pd] [] [qa])) ∧
    NeedsQ (.qcnt qa xa pd) s [qa] (∃ t, exec (.qcnt qa xa pd) s = .next t ∧
      t.rx xa = (if xa = 0#6 then 0#64 else BitVec.ofNat 64 ((List.range 256).filter fun j => a.getLsbD j).length) ∧
      t.rp pd = (pd == 0#3 || a != 0#256) ∧ s.Frame t [xa] [pd] [] []) ∧
    tests (.qtest qa xb pd) [qa] ((s.rx xb).toNat < 256 ∧ a.getLsbD (s.rx xb).toNat = true) ∧
    tests (.qeqEmpty qa pd) [qa] (a = 0#256) ∧ tests (.qeqEq qa qb pd) [qa, qb] (a = b) ∧
    tests (.qeqSub qa qb pd) [qa, qb] (∀ j < 256, a.getLsbD j = true → b.getLsbD j = true) ∧
    tests (.qeqDisj qa qb pd) [qa, qb] (∀ j < 256, ¬(a.getLsbD j = true ∧ b.getLsbD j = true)) ∧
    WritesX (.qaddr xa xb) s xa (· = s.cur.qsb + BitVec.ofNat 64 ((s.rx xb).toNat % 256) * s.cur.qss) ∧
    WritesX (.qaddrQn xa xb) s xa (· = s.cur.qwin + BitVec.ofNat 64 ((s.rx xb).toNat % 256)) ∧
    (∃ t, exec (.qwin xa xb) s = .next t ∧
      t.cur = { s.cur with qwin := BitVec.ofNat 64 ((s.rx xa).toNat % 2 ^ 48), trav := s.rx xb } ∧
      t = s.setThread s.iss.core s.iss.slot t.cur ∧ s.SameMemory t)

/-- R151: QSPLIT reads its three registers, then writes them: Q[QD] the members of Q[QA] in Q[QB], then Q[QA] those
outside it, P[PD] whether both are non-empty and X[XA] two bits that say which.
Of each of these forms it concludes, under conditions on the state and the operands alone, that exec answers a next
state with the form's own effect: qsplit. -/
def Obligations.QuerySplit : Prop :=
  ∀ (s : State) (qd qa qb pd : BitVec 3) (xa : BitVec 6),
    let d := s.rq qa &&& s.rq qb
    let a := s.rq qa &&& ~~~(s.rq qb)
    let i : Instr := .qsplit qd qa qb pd xa
    NeedsQ i s [qd, qa, qb] (∃ t, exec i s = .next t ∧ t.rq qd = (if qd = qa then a else d) ∧ t.rq qa = a ∧
      t.rp pd = (pd == 0#3 || (d != 0#256 && a != 0#256)) ∧
      t.rx xa = (if xa = 0#6 then 0#64
        else (if a = 0#256 then 0#64 else 2#64) + (if d = 0#256 then 0#64 else 1#64)) ∧
      s.Frame t [xa] [pd] [] [qd, qa])

/-- R82, R153: QMOV moves a set as four words, the lowest bits first: to and from x registers, and as a plain load or
store of 32 bytes, in local memory or by a request to the home. -/
def Says.QueryMoves : Prop :=
  ∀ (s : State) (q : BitVec 3) (xa : BitVec 6) (imm : BitVec 32) (s1 : State) (pa : Nat) (e : TlbEnt),
    let ea := s.rx xa + imm.signExtend 64
    let ld : Instr := .qmovLd q xa imm
    let st : Instr := .qmovSt q xa imm
    let a := s.localOf ea
    let cached : Bool := e.flags.getLsbD 5 && e.bias.all fun b => b.2 != 1#2 && b.2 != 2#2
    let ag := s.agentOf s.iss.core
    NeedsQ (.qmovTox q xa) s [q] (1 ≤ xa.toNat → xa.toNat ≤ 60 → ∃ t, exec (.qmovTox q xa) s = .next t ∧
      (∀ j < 4, t.rx (xa + BitVec.ofNat 6 j) = (s.rq q).extractLsb' (64 * j) 64) ∧
      s.Frame t [xa, xa + 1#6, xa + 2#6, xa + 3#6] [] [] []) ∧
    NeedsQ (.qmovFromx q xa) s [q] (∃ t, exec (.qmovFromx q xa) s = .next t ∧
      (∀ j < 4, (t.rq q).extractLsb' (64 * j) 64 = s.rx (xa + BitVec.ofNat 6 j)) ∧ s.Frame t [] [] [] [q]) ∧
    NeedsQ ld s [q]
      ((ea.toNat % 32 ≠ 0 → TrapsWith ld s .alignment ea 0#64) ∧
       (s.InRegion ea 32 → s.Unpoisoned a 32 → s.curCore.fill = none → ∃ t, exec ld s = .next t ∧
         (∀ j < 256, (t.rq q).getLsbD j = s.lbit a j) ∧ s.Frame t [] [] [] [q]) ∧
       (Global ea 32 → s.translateCur ea .read = (s1, .ok pa e) → (cached = false ∨ s1.loadL1 ag s.cur.dom pa 32 = none) →
         ∃ (t : State) (m : Msg), exec ld s = .next t ∧ s1.SendsAndWaits t m ∧
           m.kind = .load cached (e.flags.getLsbD 6 || e.flags.getLsbD 7) false ∧ m.pa = pa ∧ m.n = 32 ∧ m.va = ea ∧
           m.dst = .q q)) ∧
    NeedsQ st s [q]
      ((ea.toNat % 32 ≠ 0 → TrapsWith st s .alignment ea 0#64) ∧
       (s.InRegion ea 32 → s.curCore.fill = none → StoresLocal st s 0#3 a 32 (s.rq q).getLsbD) ∧
       (Global ea 32 → s.translateCur ea .write = (s1, .ok pa e) → cached = false → s1.cur.prog = none →
         ∃ (s2 t : State) (m : Msg), exec st s = .next t ∧ s2.Sends t m ∧ m.kind = .store ∧ m.pa = pa ∧ m.n = 32 ∧
           m.data = (s.rq q).setWidth 1024 ∧ s2.cur = s1.cur ∧ ∀ dd, s2.dom dd = s1.dom dd))

/-- R112, R115, R140, R157: QFORK moves its set to a new thread in the lowest free user slot, else to an item, and empties
Q[QA]; where neither is possible it is refused and keeps the set.
Of each of these forms it concludes, under conditions on the state and the operands alone, that exec answers a next
state with the form's own effect: qfork. -/
def Obligations.QueryForks : Prop :=
  ∀ (s : State) (qa : BitVec 3) (xa xb : BitVec 6) (pd : BitVec 3) (imm : BitVec 32) (x0 : Thread),
    let c := s.iss.core
    let i : Instr := .qfork qa xa xb pd imm
    let disp : BitVec 29 := BitVec.ofNat 29 (imm.toNat / 8)
    let pc := (s.iss.pc / 64#64 + disp.signExtend 64) * 64#64 + 12#64 * BitVec.ofNat 64 (imm.toNat % 8)
    let q (j : Nat) : Word := (s.rq qa).extractLsb' (64 * j) 64
    s.thread? c s.iss.slot = some x0 →
    NeedsQ i s [qa]
      ((∀ sl, s.freeSlot c s.cur = some sl → ∃ t y, exec i s = .next t ∧ s.thread? c sl = none ∧ t.thread? c sl = some y ∧
          y = { freshThread s s.cur c sl s.nextId pc with
                  x := y.x, q := y.q, allot := 1, qwin := BitVec.ofNat 64 (s.cur.qwin.toNat % 2 ^ 48), trav := s.cur.trav } ∧
          (∀ r : BitVec 6, y.getX r =
            if r = 1#6 then s.rx xa else if r = 7#6 then BitVec.ofNat 64 (coreNum c) else 0#64) ∧
          (∀ r : BitVec 3, y.getQ r = if r = 0#3 then s.rq qa else 0#256) ∧
          t.rx xb = (if xb = 0#6 then 0#64 else (tidOf c sl).setWidth 64) ∧ t.rp pd = true ∧ t.rq qa = 0#256 ∧
          (∀ r, r ≠ xb → t.rx r = s.rx r) ∧ (∀ r, r ≠ pd → t.rp r = s.rp r) ∧ (∀ r, r ≠ qa → t.rq r = s.rq r) ∧
          moreWork s t ∧ s.SameMemory t) ∧
       (s.freeSlot c s.cur = none → s.dqrunSlot c s.cur.launch = none →
          ((s.core c).deque s.cur.launch).length < s.curLaunch.hdr.deque → s.foldBlocks (s.agentOf c) = false →
          ∃ t, exec i s = .next t ∧
            pushed s t [pc + 1#64, s.rx xa, s.cur.qwin, s.cur.trav, q 0, q 1, q 2, q 3] s.curOutstanding ∧
            t.rx xb = (if xb = 0#6 then 0#64 else BitVec.allOnes 64) ∧ t.rp pd = (pd == 0#3) ∧ t.rq qa = 0#256 ∧
            (∀ r, r ≠ xb → t.rx r = s.rx r) ∧ (∀ r, r ≠ pd → t.rp r = s.rp r) ∧ (∀ r, r ≠ qa → t.rq r = s.rq r) ∧
            moreWork s t ∧ (StoreHasRoom s → s.SameMemory { t with caches := s.caches })) ∧
       (s.freeSlot c s.cur = none → s.canPush c s.cur = true → s.foldBlocks (s.agentOf c) = true → LosesTurn i s) ∧
       (s.freeSlot c s.cur = none → s.dqrunSlot c s.cur.launch = none →
          s.curLaunch.hdr.deque ≤ ((s.core c).deque s.cur.launch).length → ∃ t, exec i s = .next t ∧
            t.rx xb = (if xb = 0#6 then 0#64 else 0xFFFFFFFFFFFFFFFE#64) ∧ t.rp pd = (pd == 0#3) ∧
            s.Frame t [xb] [pd] [] []))

/-- R126, R154, R155, R158: ARRIVE sends its set and the thread's key to the home of the node's line as a release, DEPART
asks there for what it leads; the thread waits. A misaligned node is an Alignment trap; DEPART.W in a handler is
Handler-Block. -/
def Says.NodesAtIssue : Prop :=
  ∀ (s : State) (qa : BitVec 3) (xa xb : BitVec 6) (pd : BitVec 3) (s1 : State) (pa : Nat) (e : TlbEnt),
    let va := s.rx xa
    let ag := s.agentOf s.iss.core
    let arr : Instr := .arrive qa xa xb pd
    let dep (w : Bool) : Instr := if w then .departW qa xa xb pd else .depart qa xa xb pd
    NeedsQ arr s [qa]
      ((va.toNat % 8 ≠ 0 → TrapsWith arr s .alignment va 0#64) ∧
       (va.toNat % 8 = 0 → s.translateCur va .read = (s1, .ok pa e) →
         (s1.foldBlocks ag = true → exec arr s = .next s1.loseTurn) ∧
         (s1.foldBlocks ag = false → ∃ (s2 t : State) (m : Msg), exec arr s = .next t ∧ s2.SendsAndWaits t m ∧
           m.kind = .arrive (s.rq qa) s.cur.trav s.cur.qwin ∧ m.pa = pa ∧ m.n = 8 ∧ m.ord = 3 ∧ m.scope = 2 ∧
           m.epoch = ((s1.cache ag).relcnt + 1#64).setWidth 24 ∧ m.dst = .arrive qa xb pd ∧ m.after = s1.curOutstanding ∧
           s2.cur = s1.cur ∧ s2.doms = s1.doms ∧ (s2.cache ag).relcnt = (s1.cache ag).relcnt + 1#64 ∧
           (s2.cache ag).lines = (s1.cache ag).lines))) ∧
    (∀ w, NeedsQ (dep w) s [qa]
      ((w = true → s.iss.slot = 14 → TrapsWith (dep w) s .handlerBlock 0#64 0#64) ∧
       (w = false ∨ s.iss.slot ≠ 14 →
         (va.toNat % 8 ≠ 0 → TrapsWith (dep w) s .alignment va 0#64) ∧
         (va.toNat % 8 = 0 → s.translateCur va .read = (s1, .ok pa e) → ∃ (t : State) (m : Msg),
           exec (dep w) s = .next t ∧ s1.SendsAndWaits t m ∧ m.kind = .depart w s.cur.trav s.cur.qwin ∧ m.pa = pa ∧
           m.n = 8 ∧ m.ord = 2 ∧ m.scope = 2 ∧ m.dst = .depart qa xb pd ∧ m.after = s1.curReleases))))

/-- R143, R144, R154, R155, R158: at the home. ARRIVE joins the OPEN entry of its key, else leads a new one, else is told
that there is none; its release leaves a record on the node's line. DEPART collects the entries of the key that its thread
leads and closes them; DEPART.W waits while one of them is OPEN. No entry of the slice is found OPEN that has been due to be
sealed for 16 cycles (R145). No byte of memory changes. -/
def Says.NodesAtHome : Prop :=
  ∀ (s : State) (id : Nat) (m : Msg) (set : QSet) (trav win : Word) (w : Bool), s.AtHome id false m → id < s.nextId →
    let v := s.dom m.dom
    let key := nodeKey m.dom m.asn trav win m.pa
    let sl := homeSlice v (m.pa / 128)
    let opens (e : ConfEnt) : Bool := e.slice == sl && e.key == key && e.st == .opened
    let inTime (v : Dom) : Prop := ∀ e ∈ v.conf, e.slice = sl → e.st = .opened → s.cycle < e.born + e.openMax + 16
    (m.kind = .arrive set trav win → (∀ r, ¬mustOverwriteFirst s m r) →
      let told (t : State) (ans : Nat) : Prop := exec (.arriveAtHome id) s = .next t ∧ s.SameMemory t ∧
        lookup (t.dom m.dom).recs (m.pa / 128) =
          some ⟨m.agent, m.epoch, m.scope, if m.ord = 5 ∨ m.scope = 6 then 3 else 1⟩ ∧
        ∃ m', s.NowIs t id m' ∧ m'.st = .replied ∧ m'.data = BitVec.ofNat 1024 ans
      (∃ t, exec (.arriveAtHome id) s = .next t ∧ inTime (t.dom m.dom)) ∧
      (inTime v → v.conf.any opens = true → ∃ t, told t 0 ∧ (t.dom m.dom).conf = v.conf.map fun e =>
        if opens e then { e with union := e.union ||| set, count := min (e.count + 1) 65535 } else e) ∧
      (inTime v → v.conf.any opens = false → ∀ way, v.confWay sl (keySet trav win m.pa) = some way → ∃ (t : State) (e : ConfEnt), told t 1 ∧
        (t.dom m.dom).conf = e :: v.conf.filter (fun x => !(x.slice == sl && x.way == way)) ∧ e.slice = sl ∧ e.way = way ∧
        e.key = key ∧ e.st = .opened ∧ e.leader = tidOf m.core m.slot ∧ e.lgen = m.gen ∧ e.union = 0#256 ∧ e.count = 1 ∧
        e.born = s.cycle ∧ e.pin = false) ∧
      (inTime v → v.conf.any opens = false → v.confWay sl (keySet trav win m.pa) = none → ∃ t, told t 3 ∧
        (t.dom m.dom).conf = v.conf)) ∧
    (m.kind = .depart w trav win → inTime v →
      let mine (e : ConfEnt) : Bool := e.key == key && e.lgen == m.gen && e.st != .closed
      let es := v.conf.filter mine ++ (s.launch m.dom m.launch).spilled.filter mine
      (es = [] → exec (.departAtHome id) s = .next ((s.markServed m).setMsg { m with st := .replied })) ∧
      (w = true → (∃ e ∈ v.conf, mine e = true ∧ e.st = .opened) → ParkedFor s m →
        exec (.departAtHome id) s = .next ((s.markServed m).setMsg { m with st := .waiting })) ∧
      (es ≠ [] → (w = false ∨ ∀ e ∈ v.conf, mine e = true → e.st ≠ .opened) → (∀ r, ¬mustDrainFirst s m r) →
        ∃ t m', exec (.departAtHome id) s = .next t ∧ s.SameMemory t ∧ s.NowIs t id m' ∧ m'.st = .replied ∧
          m'.data.getLsbD 272 = true ∧ (∀ j < 256, m'.data.getLsbD j = es.any fun e => e.union.getLsbD j) ∧
          m'.data.extractLsb' 256 16 = BitVec.ofNat 16 (min (es.map ConfEnt.count).sum 65535) ∧
          (t.dom m.dom).conf = v.conf.map fun e => if mine e then { e with st := .closed, pin := false } else e))

/-- R109, R154, R155: the reply of ARRIVE or DEPART at its thread. An absorbed set leaves its register empty and the
predicate clear; a leader keeps it; DEPART's union joins Q[QA], its count goes to X[XB], and an empty answer clears P[PD]
only. -/
def Says.NodeReplies : Prop :=
  ∀ (s : State) (id : Nat) (m : Msg) (set : QSet) (trav win : Word) (w : Bool) (qa : BitVec 3) (xs : BitVec 6) (pd : BitVec 3)
      (x : Thread), s.findMsg id = some m → m.st = .replied → m.inval = false → m.poisoned = false → Waiting s m x →
    let r := rotated s m x
    let goes (p : Thread → Prop) : Prop := ∃ t y, exec (.loadReplyArrival id) s = .next t ∧
      t = (s.dropMsg id).setThread m.core m.slot y ∧ y = { r with x := y.x, p := y.p, q := y.q } ∧ p y ∧
      (∀ k, k ≠ qa → y.getQ k = x.getQ k) ∧ (∀ k, k ≠ xs → y.getX k = x.getX k) ∧ ∀ k, k ≠ pd → y.getP k = x.getP k
    (m.kind = .arrive set trav win → m.dst = .arrive qa xs pd → goes fun y =>
      y.getP pd = (pd == 0#3 || m.data.getLsbD 0) ∧ y.getX xs = (if xs = 0#6 then 0#64 else m.data.setWidth 64) ∧
      y.getQ qa = if m.data.getLsbD 0 then x.getQ qa else 0#256) ∧
    (m.kind = .depart w trav win → m.dst = .depart qa xs pd → goes fun y =>
      (m.data.getLsbD 272 = true → y.getP pd = true ∧ y.getQ qa = x.getQ qa ||| m.data.setWidth 256 ∧
        y.getX xs = if xs = 0#6 then 0#64 else (m.data.extractLsb' 256 16).setWidth 64) ∧
      (m.data.getLsbD 272 = false → y.getP pd = (pd == 0#3) ∧ y.getQ qa = x.getQ qa ∧ y.getX xs = x.getX xs))

/-- R143, R144, R145, R155: AGE_SEAL seals an OPEN entry that has reached its OPENMAX and lets a DEPART.W that waits for
it go on, before the requests that the slice performs in the cycle; CLOSED_ENTRY_INVALIDATE drops a CLOSED entry and no other. -/
def Says.EntriesAge : Prop :=
  ∀ (s : State) (d ent : Nat) (e : ConfEnt), (s.dom d).conf.find? (fun x => x.id == ent) = some e →
    let seals := e.st = .opened ∧ e.born + e.openMax ≤ s.cycle ∧
      ∀ p, lookup (s.dom d).served e.slice = some p → p.1 ≠ s.cycle
    (¬seals → exec (.ageSeal d ent) s = .next s) ∧
    (seals → ∃ t, exec (.ageSeal d ent) s = .next t ∧
      t.dom d = { s.dom d with conf := (s.dom d).conf.map fun x => if x.id = ent then { x with st := .sealed } else x } ∧
      (∀ k, k ≠ d → t.dom k = s.dom k) ∧ t = { s with doms := t.doms, net := t.net } ∧
      ∀ id m w trav win, s.findMsg id = some m → m.kind = .depart w trav win → m.st = .waiting → m.dom = d →
        m.gen = e.lgen → nodeKey m.dom m.asn trav win m.pa = e.key → t.findMsg id = some { m with st := .sent }) ∧
    (∃ t, exec (.closedEntryInvalidate d ent) s = .next t ∧
      (∀ x, x ∈ (t.dom d).conf ↔ x ∈ (s.dom d).conf ∧ ¬(x.id = ent ∧ x.st = .closed)) ∧
      t.dom d = { s.dom d with conf := (t.dom d).conf } ∧ (∀ k, k ≠ d → t.dom k = s.dom k) ∧
      t = { s with doms := t.doms })

/-- R159, R252: SWITCH_COMBINE makes one request of two plain loads of one word, or of two AMOs of one operation on it, that meet
a switch, in the order of their input ports, and of two arrivals of one key in the order of their threads; the first carries the
other. Requests of different domains are never combined. -/
def Says.SwitchCombines : Prop :=
  ∀ (s : State) (p q i j : Nat) (a b : Msg) (al ke re al' ke' re' : Bool) (op : Nat) (ca cb : Word) (sa sb : QSet)
      (trav win : Word),
      s.findMsg i = some a → s.findMsg j = some b → i ≠ j → a.st = .sent → b.st = .sent → a.group = [] → b.group = [] → p ≤ q →
    let word := (a.kind = .load al ke re ∧ b.kind = .load al' ke' re' ∧ a.n ≤ 8 ∧ a.ord = 0 ∧ b.ord = 0) ∨
      (a.kind = .atomic op ca ∧ b.kind = .atomic op cb ∧ op < 8 ∧ a.ord = 1 ∧ b.ord = 1 ∧ a.scope = b.scope)
    let arrives := a.kind = .arrive sa trav win ∧ b.kind = .arrive sb trav win ∧ a.mask = 0#128 ∧ b.mask = 0#128 ∧ a.asn = b.asn
    let carries (x y : Msg) : State := (s.setMsg { y with st := .combined }).setMsg { x with group := [y.id] }
    (word → a.dom = b.dom → a.n = b.n → a.pa / 8 = b.pa / 8 →
      exec (.switchCombine [(p, i), (q, j)]) s = .next (carries a b) ∧
      (p < q → exec (.switchCombine [(q, j), (p, i)]) s = .next (carries a b))) ∧
    (arrives → a.dom = b.dom → a.pa / 8 = b.pa / 8 →
      exec (.switchCombine [(p, i), (q, j)]) s =
        .next (if (tidOf a.core a.slot).toNat ≤ (tidOf b.core b.slot).toNat then carries a b else carries b a)) ∧
    (a.dom ≠ b.dom → exec (.switchCombine [(p, i), (q, j)]) s = .next s)

/-! ### Streams (R152, R171 to R176) -/

/-- The generators of the issuing thread that stand on f registers `p` picks. -/
def Sys2Proof.Machine.State.genOf (s : State) (p : BitVec 3 → Bool) (g : Gen) : Bool :=
  g.slot == s.iss.slot && g.gen == s.cur.gen && !g.closing && p g.freg

/-- Between `s` and `t` only the generators of the issuing core have changed, and registers of the issuing thread. -/
def Sys2Proof.Machine.State.GensOnly (s t : State) : Prop :=
  let c := s.iss.core
  t.core c = { s.core c with gens := (t.core c).gens, slots := (t.core c).slots } ∧
  t.cur = { s.cur with p := t.cur.p, q := t.cur.q } ∧ (∀ k, k ≠ s.iss.slot → t.thread? c k = s.thread? c k) ∧
  (∀ i, i ≠ c → t.core i = s.core i) ∧ t = { s with cores := t.cores }

/-- `i` is the lowest generator of the issuing core that is free (R171). -/
def Sys2Proof.Machine.State.LowestFree (s : State) (i : Nat) : Prop :=
  i < 16 ∧ lookup s.curCore.gens i = none ∧ ∀ j < i, lookup s.curCore.gens j ≠ none

/-- R171, R173: SCFG. A bound above 2^32 is illegal; a base or stride that is no multiple of the element size is an
Alignment trap; an element of a local stream outside the region is a Protection trap; else the lowest free generator is
bound, disabled, at element 0, its elements in lexicographic order, innermost loop fastest; without one P[PD] is
cleared. -/
def Says.StreamLoops : Prop :=
  ∀ (s : State) (fs : BitVec 5) (xa xb : BitVec 6) (loops : BitVec 2) (dir space : BitVec 1) (fmt : BitVec 4)
      (pd : BitVec 3), fs.toNat < 8 →
    let i : Instr := .scfg fs xa xb loops dir space fmt pd
    let n := loops.toNat + 1
    let es := elemBytes fmt.toNat
    let b (j : Nat) : Nat := (s.rx (xb + BitVec.ofNat 6 (2 * j))).toNat
    let st (j : Nat) : Int := (s.rx (xb + BitVec.ofNat 6 (2 * j + 1))).toInt
    let base := s.rx xa
    let off (ix : Nat → Nat) : Int := ((List.range n).map fun j => (ix j : Int) * st j).sum
    let rank (ix : Nat → Nat) : Nat := (List.range n).foldr (fun j r => ix j + b j * r) 0
    let reaches (ix : Nat → Nat) : Prop := ∀ j < n, ix j < b j
    let lo : Int := Config.windowBase
    let out (ix : Nat → Nat) : Prop := base.toNat + off ix < lo ∨ lo + s.curLaunch.hdr.lmem < base.toNat + off ix + es
    let huge := ∃ j < n, 2 ^ 32 < b j
    let skew := base.toNat % es ≠ 0 ∨ ∃ j < n, st j % es ≠ 0
    let strays := space = 0#1 ∧ ∃ ix, reaches ix ∧ out ix
    (huge → TrapsWith i s .illegalInstruction 0#64 0#64) ∧
    (¬huge → skew → TrapsWith i s .alignment base 0#64) ∧
    (¬huge → ¬skew → strays → ∃ ix e, reaches ix ∧ out ix ∧
      exec i s = .next (s.useFree.takeTrap .protection (BitVec.ofInt 64 (base.toNat + off ix)) e)) ∧
    (¬huge → ¬skew → ¬strays → (∀ e ∈ s.curCore.gens, s.genOf (· == fs.setWidth 3) e.2 = false) →
      ((∀ j < 16, lookup s.curCore.gens j ≠ none) → ∃ t, exec i s = .next t ∧ t.rp pd = (pd == 0#3) ∧ s.GensOnly t ∧
        t.curCore.gens = s.curCore.gens) ∧
      (∀ k, s.LowestFree k → ∃ t g, exec i s = .next t ∧ t.rp pd = true ∧ s.GensOnly t ∧
        t.curCore.gens = insertKey s.curCore.gens k g ∧ t.cur.q = s.cur.q ∧ (∀ r, r ≠ pd → t.rp r = s.rp r) ∧
        g.slot = s.iss.slot ∧ g.gen = s.cur.gen ∧ g.freg = fs.setWidth 3 ∧ g.wr = (dir == 1#1) ∧ g.glob = (space == 1#1) ∧
        g.fmt = fmt ∧ g.enabled = false ∧ g.closing = false ∧ g.pos = 0 ∧ g.ahead = [] ∧ g.pushes = [] ∧
        g.total = (List.range n).foldl (fun p j => p * b j) 1 ∧ g.lbase = s.curLaunch.lbase ∧
        ∀ ix, reaches ix → g.addr (rank ix) = base + BitVec.ofInt 64 (off ix)))

/-- R82, R171, R174: SCFGM binds a stream over the members of Q[QS], its element k at QSB + i × QSS for the k-th member i;
QSB and QSS must be multiples of the element size, and the elements of a local stream lie in the region. -/
def Says.MemberStreams : Prop :=
  ∀ (s : State) (fs : BitVec 5) (dir space : BitVec 1) (fmt : BitVec 4) (qs pd : BitVec 3), fs.toNat < 8 →
    let i : Instr := .scfgm fs dir space fmt qs pd
    let es := elemBytes fmt.toNat
    let ms := (List.range 256).filter fun j => (s.rq qs).getLsbD j
    let ea (k : Nat) : Word := s.cur.qsb + BitVec.ofNat 64 (ms.getD k 0) * s.cur.qss
    let out (k : Nat) : Prop := (ea k).toNat < Config.windowBase ∨
      Config.windowBase + s.curLaunch.hdr.lmem < (ea k).toNat + es
    let skew := s.cur.qsb.toNat % es ≠ 0 ∨ s.cur.qss.toNat % es ≠ 0
    let strays := space = 0#1 ∧ ∃ k < ms.length, out k
    NeedsQ i s [qs]
      ((skew → TrapsWith i s .alignment s.cur.qsb 0#64) ∧
       (¬skew → strays → ∃ k e, k < ms.length ∧ out k ∧ exec i s = .next (s.useFree.takeTrap .protection (ea k) e)) ∧
       (¬skew → ¬strays → (∀ e ∈ s.curCore.gens, s.genOf (· == fs.setWidth 3) e.2 = false) → ∀ k, s.LowestFree k →
         ∃ t g, exec i s = .next t ∧ t.rp pd = true ∧ s.GensOnly t ∧ t.curCore.gens = insertKey s.curCore.gens k g ∧
           g.slot = s.iss.slot ∧ g.gen = s.cur.gen ∧ g.freg = fs.setWidth 3 ∧ g.wr = (dir == 1#1) ∧
           g.glob = (space == 1#1) ∧ g.fmt = fmt ∧ g.enabled = false ∧ g.pos = 0 ∧ g.total = ms.length ∧
           ∀ j < ms.length, g.addr j = ea j))

/-- R175: SEN enables the named registers, or raises Vector-Stream when one is unbound; SDIS unbinds them, a write stream
only once its pushed elements have been written. -/
def Says.StreamEnables : Prop :=
  ∀ (s : State) (mask : BitVec 8),
    let named := s.genOf fun r => mask.getLsbD r.toNat
    let bound := (s.curCore.gens.filter fun e => named e.2).map fun e => e.2.freg
    (bound.Nodup → (∃ r : BitVec 3, mask.getLsbD r.toNat = true ∧ r ∉ bound) →
      TrapsWith (.sen mask) s .vectorStream 0#64 0#64) ∧
    (bound.Nodup → (∀ r : BitVec 3, mask.getLsbD r.toNat = true → r ∈ bound) → ∃ t, exec (.sen mask) s = .next t ∧
      s.GensOnly t ∧ t.cur = s.cur ∧ t.curCore.gens = s.curCore.gens.map fun e =>
        if named e.2 then (e.1, { e.2 with enabled := true }) else e) ∧
    (∃ t, exec (.sdis mask) s = .next t ∧ s.GensOnly t ∧ t.cur = s.cur ∧ ∀ e, e ∈ t.curCore.gens ↔
      ∃ o ∈ s.curCore.gens, if named o.2 then o.2.wr = true ∧ o.2.pushes ≠ [] ∧ e = (o.1, { o.2 with closing := true })
        else e = o)

/-- R108, R175: SWAIT loses turns while a named write stream has elements to write; then it writes back the L1 lines that
hold written elements and loses turns until every write-back of these and the stores at homes are acknowledged. -/
def Says.StreamWaits : Prop :=
  ∀ (s : State) (mask : BitVec 8),
    let named (g : Gen) : Bool := s.genOf (fun r => mask.getLsbD r.toNat) g && g.wr
    let i : Instr := .swait mask
    let ag := s.agentOf s.iss.core
    let holds (line : Nat) : Prop := ∃ e ∈ s.curCore.gens, named e.2 = true ∧ line ∈ e.2.lines
    let sent (id : Nat) : Prop := ∃ e ∈ s.curCore.gens, named e.2 = true ∧ id ∈ e.2.sent
    let done (t : State) : Prop := exec i s = .next t ∧ t.cur = s.cur ∧ t.iss = s.iss ∧
      t.curCore.gens = s.curCore.gens.map fun e => if named e.2 then (e.1, { e.2 with lines := [], sent := [] }) else e
    (s.cur.prog = none → (∃ e ∈ s.curCore.gens, named e.2 = true ∧ e.2.pushes ≠ []) → LosesTurn i s) ∧
    (s.cur.prog = none → (∀ e ∈ s.curCore.gens, named e.2 = true → e.2.pushes = []) → ∃ u ids,
      WrittenBack s u ag (fun l => l.dom = s.cur.dom ∧ holds l.line) ids ∧
      BacksUnderWay u ag (fun x => x.dom = s.cur.dom ∧ holds (x.pa / 128)) ids ∧
      (ids = [] → (∀ id, sent id → u.acked id = true) → ∃ t, done t) ∧
      (ids ≠ [] ∨ (∃ id, sent id ∧ u.acked id = false) → ∃ ids',
        exec i s = .next (u.loseWith ⟨1, ids', 0#64⟩) ∧ ∀ id, id ∈ ids' ↔ id ∈ ids ∨ sent id)) ∧
    (∀ p, s.cur.prog = some p → (∀ id ∈ p.ids, s.acked id = true) → ∃ t, done t) ∧
    (∀ p, s.cur.prog = some p → (∃ id ∈ p.ids, s.acked id = false) →
      exec i s = .next (s.loseWith ⟨1, p.ids, 0#64⟩))

/-- R152, R176: QMASK. A register that no read stream is bound to raises Vector-Stream; else one element is popped per
member, in ascending order, until the stream ends, and the members whose element has bit 0 set are the result; P[PD]
tells that the stream lasted. It loses turns while the stream that it would pop is not enabled. An element that fails traps
precisely and is not popped. -/
def Says.QueryMasks : Prop :=
  ∀ (s : State) (qd qa pd : BitVec 3) (fm : BitVec 3),
    let i : Instr := .qmask qd qa pd (fm.setWidth 32)
    let ms := (List.range 256).filter fun j => (s.rq qa).getLsbD j
    let bound (e : Nat × Gen) : Prop := s.curCore.gens.find? (fun e => s.genOf (· == fm) e.2) = some e
    NeedsQ i s [qd, qa]
      (((∀ e, ¬bound e) → TrapsWith i s .vectorStream 0#64 0#64) ∧
       (∀ e, bound e → e.2.wr = true → TrapsWith i s .vectorStream 0#64 0#64) ∧
       (∀ e, bound e → e.2.wr = false → e.2.enabled = false → ms ≠ [] → e.2.pos < e.2.total → LosesTurn i s) ∧
       (∀ (e : Nat × Gen) (vs : List (BitVec 32)), bound e → lookup s.curCore.gens e.1 = some e.2 → e.2.wr = false → e.2.enabled = true →
         e.2.ahead.take vs.length = vs.map Elem.ok → vs.length = min ms.length (e.2.total - e.2.pos) →
         ∃ t, exec i s = .next t ∧ s.GensOnly t ∧
           (∀ j < 256, (t.rq qd).getLsbD j = true ↔ ∃ k < vs.length, ms.getD k 256 = j ∧ (vs.getD k 0#32).getLsbD 0 = true) ∧
           t.rp pd = (pd == 0#3 || decide (ms.length ≤ e.2.total - e.2.pos)) ∧ (∀ r, r ≠ qd → t.rq r = s.rq r) ∧
           (∀ r, r ≠ pd → t.rp r = s.rp r) ∧ lookup t.curCore.gens e.1 =
             some { e.2 with pos := e.2.pos + vs.length, ahead := e.2.ahead.drop vs.length } ∧
           ∀ k, k ≠ e.1 → lookup t.curCore.gens k = lookup s.curCore.gens k) ∧
       (∀ e c va info rest, bound e → lookup s.curCore.gens e.1 = some e.2 → e.2.wr = false → e.2.enabled = true →
         ms ≠ [] → e.2.pos < e.2.total → e.2.ahead = .bad c va info :: rest → ∃ u, s.GensOnly u ∧
           u.cur = s.cur ∧ lookup u.curCore.gens e.1 = some { e.2 with ahead := [] } ∧
           exec i s = .next (u.takeTrap c va (BitVec.ofNat 64 (info.toNat % 256 + e.2.pos % 2 ^ 32 * 2 ^ 32)))))

/-- R173, R175, R176: the events of a local stream. STREAM_ELEMENT_FETCH reads the next element of an enabled read stream,
at most 64 ahead of the pop; STREAM_PUSH_WRITE writes the oldest pushed element at its address, and a generator that SDIS
or RETIRE has named is free after its last. Neither acts while a FILL is held at the core's banks (R163). -/
def Says.StreamEvents : Prop :=
  ∀ (s : State) (c i : Nat) (g : Gen), lookup (s.core c).gens i = some g → g.glob = false →
    let es := elemBytes g.fmt.toNat
    let at' (k : Nat) : Nat := g.lbase + ((g.addr k).toNat - Config.windowBase)
    let k := g.pos + g.ahead.length
    let due := g.enabled = true ∧ g.wr = false ∧ g.closing = false ∧ g.ahead.length < 64 ∧ k < g.total
    let bad := ∃ w ∈ (s.core c).lpoison, at' k < 8 * w + 8 ∧ 8 * w < at' k + es
    (¬due → exec (.streamElementFetch c i) s = .next s) ∧
    (due → (s.core c).fill ≠ none → exec (.streamElementFetch c i) s = .next s) ∧
    (due → (s.core c).fill = none → bad → exec (.streamElementFetch c i) s = .next (s.setCore c { s.core c with
      gens := insertKey (s.core c).gens i { g with ahead := g.ahead ++ [.bad .poison (g.addr k) 0#64] } })) ∧
    (due → (s.core c).fill = none → ¬bad → exec (.streamElementFetch c i) s = .next (s.setCore c { s.core c with
      gens := insertKey (s.core c).gens i
        { g with ahead := g.ahead ++ [.ok (BitVec.ofNat 32 (Memory.read (s.core c).lmem (at' k) es) &&&
          if g.fmt = 11#4 then 0x3FFFFFF#32 else 0xFFFFFFFF#32)] } })) ∧
    (g.pushes = [] → g.closing = false → exec (.streamPushWrite c i) s = .next s) ∧
    (g.pushes = [] → g.closing = true → exec (.streamPushWrite c i) s =
      .next (s.setCore c { s.core c with gens := eraseKey (s.core c).gens i })) ∧
    (g.pushes ≠ [] → (s.core c).fill ≠ none → exec (.streamPushWrite c i) s = .next s) ∧
    (∀ p rest, g.pushes = p :: rest → (s.core c).fill = none → ∃ t, exec (.streamPushWrite c i) s = .next t ∧
      (∀ j < 8 * es, (Memory.get (t.core c).lmem (at' p.idx + j / 8)).getLsbD (j % 8) = p.v.getLsbD j) ∧
      (∀ a, a < at' p.idx ∨ at' p.idx + es ≤ a → Memory.get (t.core c).lmem a = Memory.get (s.core c).lmem a) ∧
      lookup (t.core c).gens i = (if g.closing = true ∧ rest = [] then none else some { g with pushes := rest }) ∧
      (∀ k, k ≠ i → lookup (t.core c).gens k = lookup (s.core c).gens k) ∧
      (∀ k, k ≠ c → t.core k = s.core k) ∧ t = { s with cores := t.cores, net := t.net })

/-! ### Exact values and rounding (R56, R67, R68, R185) -/

/-- The rational number of a finite value that is exact. -/
def ratOf (v : Dy) : ℚ := (if v.neg then -1 else 1) * v.m * (2 : ℚ) ^ v.e

/-- R185, R186: on finite operands the sum, the product, the fused product and the scaled value are exact, and a quotient
or a square root is exact or lies strictly between its value and one unit more. -/
def Says.ExactArithmetic : Prop :=
  ∀ (m : Nat) (x y z : Dy) (k : Int) (c : RC), x.more = false → y.more = false → z.more = false →
    let exact (r : FVal × RC) (q : ℚ) : Prop := ∃ v, r = (.fin v, c) ∧ v.more = false ∧ ratOf v = q
    let ulp (v : Dy) : ℚ := (2 : ℚ) ^ v.e
    exact (fAdd m (.fin x) (.fin y) c) (ratOf x + ratOf y) ∧
    exact (fMul (.fin x) (.fin y) c) (ratOf x * ratOf y) ∧
    exact (fFma m (.fin x) (.fin y) (.fin z) c) (ratOf x * ratOf y + ratOf z) ∧
    exact (fScale (.fin x) k, c) (ratOf x * (2 : ℚ) ^ k) ∧
    (y.m ≠ 0 → ∃ v, fDiv (.fin x) (.fin y) c = (.fin v, c) ∧ (x.m ≠ 0 → v.neg = (x.neg != y.neg)) ∧
      |ratOf v| ≤ |ratOf x / ratOf y| ∧ |ratOf x / ratOf y| < |ratOf v| + ulp v ∧
      (v.more = false ↔ |ratOf v| = |ratOf x / ratOf y|)) ∧
    (x.neg = false → ∃ v, fSqrt (.fin x) c = (.fin v, c) ∧ v.neg = false ∧ ratOf v ^ 2 ≤ ratOf x ∧
      (x.m ≠ 0 → ratOf x < (ratOf v + ulp v) ^ 2) ∧ (v.more = false ↔ ratOf v ^ 2 = ratOf x)) ∧
    (y.m = 0 → x.m ≠ 0 → fDiv (.fin x) (.fin y) c = (.inf (x.neg != y.neg), c.or fDZ)) ∧
    (y.m = 0 → x.m = 0 → fDiv (.fin x) (.fin y) c = (.nan, c.or fIV)) ∧
    (x.neg = true → x.m ≠ 0 → fSqrt (.fin x) c = (.nan, c.or fIV))

/-- R67, R68, R72: rounding an exact finite value that is no larger than the largest finite one to a floating format
gives a finite code of the same sign: under RNE and RNA a nearest one, an even one of two under RNE and the larger under
RNA; under RTZ, RDN and RUP the nearest on the side the mode names. IX tells that the result differs. A value above the
largest finite one by an ulp or more overflows with OF and IX. -/
def Obligations.Roundings : Prop :=
  ∀ (f mode : Nat) (v : Dy) (c : RC), f ∈ [0, 1, 2, 3, 4, 5, 11] → mode < 5 → v.more = false → v.m ≠ 0 →
    let r := roundTo f mode false (.fin v) c
    let x := ratOf v
    let finite (code : Nat) (u : Dy) : Prop := code < 2 ^ fmtBits f ∧ valueOf f code = .fin u
    ∀ top, finite (maxCode f) top →
    (|x| ≤ ratOf top → ∃ w, finite r.1 w ∧ w.neg = v.neg ∧ r.2.rseq = c.rseq ∧
      (r.2.flags.getLsbD 4 = true ↔ c.flags.getLsbD 4 = true ∨ ratOf w ≠ x) ∧
      (mode = 0 ∨ mode = 4 → ∀ code u, finite code u → |ratOf w - x| ≤ |ratOf u - x| ∧
        (|ratOf w - x| = |ratOf u - x| → ratOf u ≠ ratOf w → (mode = 0 → r.1 % 2 = 0) ∧ (mode = 4 → |ratOf u| < |ratOf w|))) ∧
      (mode = 1 → |ratOf w| ≤ |x| ∧ ∀ code u, finite code u → |ratOf u| ≤ |x| → |ratOf u| ≤ |ratOf w|) ∧
      (mode = 2 → ratOf w ≤ x ∧ ∀ code u, finite code u → ratOf u ≤ x → ratOf u ≤ ratOf w) ∧
      (mode = 3 → x ≤ ratOf w ∧ ∀ code u, finite code u → x ≤ ratOf u → ratOf w ≤ ratOf u)) ∧
    (2 * ratOf top ≤ |x| → r.2.flags = c.flags ||| (fOF ||| fIX) ∧
      (f = 5 ∨ mode = 1 ∨ (mode = 2 ∧ v.neg = false) ∨ (mode = 3 ∧ v.neg = true) →
        ∃ w, finite r.1 w ∧ w.neg = v.neg ∧ |ratOf w| = ratOf top) ∧
      (¬(f = 5 ∨ mode = 1 ∨ (mode = 2 ∧ v.neg = false) ∨ (mode = 3 ∧ v.neg = true)) →
        valueOf f r.1 = if f = 3 then .nan else .inf v.neg))

/-! ### The vector engine (R178 to R192) -/

/-- Between `s` and `t` an operation of the issuing thread has entered the vector engine: it holds the input stage for
`occ` cycles, its results stand ready 12 cycles later (R181), and its entry opens the command ring (R338). Of the
issuing thread only the random sequence has changed; streams of the core may have. -/
def Sys2Proof.Machine.State.Enters (s t : State) (occ : Nat) (wf : Option (BitVec 5 × Word)) (wp : Option (BitVec 3 × Bool))
    (c : RC) (fault : Option (Cause × Word × Word)) : Prop :=
  let k := s.curCore
  ∃ op e, t.curCore.vec = ⟨some (k.cyc + occ), k.vec.ops ++ [op]⟩ ∧ op.seq = k.seq ∧ op.slot = s.iss.slot ∧
    op.gen = s.cur.gen ∧ op.doneAt = k.cyc + occ + 12 ∧ op.wf = wf ∧ op.wp = wp ∧ op.flags = c.flags ∧ op.fault = fault ∧
    (k.ring.length < 64 → t.curCore.ring = e :: k.ring) ∧ e.seq = k.seq ∧ e.st = 0#3 ∧
    e.tid = tidOf s.iss.core s.iss.slot ∧ e.opc = slotOpc s.iss.raw ∧ t.curCore.seq = k.seq + 1#16 ∧
    t.curCore = { k with slots := t.curCore.slots, gens := t.curCore.gens, ring := t.curCore.ring, seq := t.curCore.seq,
                         vec := t.curCore.vec } ∧
    t.cur = { s.cur with rseq := c.rseq } ∧ (∀ j, j ≠ s.iss.slot → t.thread? s.iss.core j = s.thread? s.iss.core j) ∧
    (∀ j, j ≠ s.iss.core → t.core j = s.core j) ∧ t = { s with cores := t.cores }

/-- `i` enters the engine as an operation of one iteration over registers: no stream changes. -/
def EntersPlain (i : Instr) (s : State) (occ : Nat) (wf : Option (BitVec 5 × Word)) (wp : Option (BitVec 3 × Bool))
    (c : RC) : Prop :=
  ∃ t, exec i s = .next t ∧ s.Enters t occ wf wp c none ∧ t.curCore.gens = s.curCore.gens

/-- The code of format `f` in an f register, as a V half reads it (R28, R61). -/
def codeIn (s : State) (f : Nat) (r : BitVec 5) : Nat := (s.vf r).toNat % 2 ^ fmtBits f

/-- The mode of an operation (R66). -/
def modeOf (s : State) (rnd : BitVec 3) : Nat := if rnd = 0#3 then s.cur.fpcr.toNat else rnd.toNat - 1

/-- An element as an f register holds it (R61). -/
def elemWord (code : Nat) : Word := (BitVec.ofNat 32 code).setWidth 64

/-- Occupancy of one iteration, doubled from energy stage 3 on (R181, R378). -/
def occOne (s : State) : Nat := if 3 ≤ s.curDom.acct.stage then 2 else 1

/-- R66, R178, R179, R181, R185: the floating operations over registers round their exact result once, in the mode of the
operation; the special functions (R188) round with RNE. -/
def Says.VectorFloat : Prop :=
  ∀ (s : State) (fd fa fb fc : BitVec 5) (fmt : BitVec 4) (rnd : BitVec 3) (bc : BitVec 2) (imm : BitVec 32),
    let f := fmt.toNat
    let m := modeOf s rnd
    let a := valueOf f (codeIn s f fa)
    let b := valueOf f (codeIn s f fb)
    let c := valueOf f (codeIn s f fc)
    let e := codeIn s 10 fb
    let c0 : RC := ⟨0#5, s.cur.rseq⟩
    let r (x : FVal × RC) : Nat × RC := roundTo f m false x.1 x.2
    let r0 (x : FVal × RC) : Nat × RC := roundTo f 0 false x.1 x.2
    let ops : List (Instr × (Nat × RC)) := [
      (.vadd fd fa fb fmt rnd bc, r (fAdd m a b c0)), (.vsub fd fa fb fmt rnd bc, r (fAdd m a b.negate c0)),
      (.vmul fd fa fb fmt rnd bc, r (fMul a b c0)), (.vfma fd fa fb fc fmt rnd bc, r (fFma m a b c c0)),
      (.vfmaMs fd fa fb fc fmt rnd bc, r (fFma m a b c.negate c0)),
      (.vfmaNma fd fa fb fc fmt rnd bc, r (fFma m a.negate b c c0)),
      (.vfmaNms fd fa fb fc fmt rnd bc, r (fFma m a.negate b c.negate c0)),
      (.vdiv fd fa fb fmt rnd bc, r (fDiv a b c0)), (.vsqrt fd fa fmt rnd, r (fSqrt a c0)),
      (.vsclI fd fa fmt rnd imm, r (fScale a imm.toInt, c0)),
      (.vsclE fd fa fb fmt rnd bc, if e = 255 then (canonNaN f, c0.or fIV) else r (fScale a ((e : Int) - 127), c0)),
      (.vexp fd fa fmt, r0 (spExp a c0)), (.vlog fd fa fmt, r0 (spLog a c0)), (.vrcp fd fa fmt, r0 (spRcp a c0)),
      (.vrsq fd fa fmt, r0 (spRsq a c0)), (.vsinpi fd fa fmt, r0 (spSinPi a c0)),
      (.vcospi fd fa fmt, r0 (spCosPi a c0)), (.vtanh fd fa fmt, r0 (spTanh a c0))]
    (∀ x ∈ [fd, fa, fb, fc], s.Plain x) →
    ∀ x ∈ ops, EntersPlain x.1 s (occOne s) (some (fd, elemWord x.2.1)) none x.2.2

/-- R185, R187: the operations that set no flag: VMIN and VMAX order −0 below +0 and pass over a NaN, VSGN replaces a sign,
VMOV and VSEL copy, a NaN becoming canonical; VCMP and VCLS write their predicates. -/
def Says.VectorSelect : Prop :=
  ∀ (s : State) (sub : BitVec 4) (fd fa fb fc : BitVec 5) (fmt : BitVec 4) (pd : BitVec 3) (bc : BitVec 2) (imm mask : BitVec 32),
      sub.toNat < 8 → fmt.toNat ∈ [0, 1, 2, 3, 4] → imm.getLsbD 0 = false →
    let f := fmt.toNat
    let w := fmtBits f
    let x := codeIn s f fa
    let y := codeIn s f fb
    let a := valueOf f x
    let b := valueOf f y
    let canon (code : Nat) : Nat := if valueOf f code = .nan then canonNaN f else code
    let sgn (code : Nat) : Bool := decide (2 ^ (w - 1) ≤ code)
    let signed (neg : Bool) : Nat :=
      if a = .nan then canonNaN f else x % 2 ^ (w - 1) + (if neg then 2 ^ (w - 1) else 0)
    let un : Bool := decide (a = .nan ∨ b = .nan)
    let eq : Bool := fEq a b
    let lt : Bool := fLess a b && !eq
    let c0 : RC := ⟨0#5, s.cur.rseq⟩
    let ops : List (Instr × Nat) := [
      (.vmin fd fa fb fmt bc, if a = .nan then canon y else if b = .nan then x else if fLess b a then y else x),
      (.vmax fd fa fb fmt bc, if a = .nan then canon y else if b = .nan then x else if fLess a b then y else x),
      (.vsgnCpy fd fa fb fmt bc, signed (sgn y)), (.vsgnNeg fd fa fb fmt bc, signed (!sgn y)),
      (.vsgnXor fd fa fb fmt bc, signed (sgn x != sgn y)), (.vmov fd fa fmt, canon x),
      (.vsel fd fa fb fc fmt bc, if (s.vf fc).getLsbD 0 then canon x else canon y)]
    (∀ r ∈ [fd, fa, fb, fc], s.Plain r) →
    (∀ o ∈ ops, EntersPlain o.1 s (occOne s) (some (fd, elemWord o.2)) none c0) ∧
    EntersPlain (.vcmp sub fd fa fb fmt pd bc imm) s (occOne s) none
      (some (pd, [!un && eq, un || !eq, !un && lt, !un && (lt || eq), !un && !lt && !eq, !un && !lt, un, !un].getD sub.toNat false))
      c0 ∧
    EntersPlain (.vcls fd fa fmt pd mask) s (occOne s) (some (fd, elemWord (2 ^ classBit f x)))
      (some (pd, mask.getLsbD (classBit f x))) c0

/-- R187: the class of a code. -/
def Says.VectorClasses : Prop :=
  ∀ (f code : Nat), f ∈ [0, 1, 2, 3, 4, 11] → code < 2 ^ fmtBits f →
    (classBit f code = 8 ↔ valueOf f code = .nan) ∧
    (classBit f code = 0 ↔ valueOf f code = .inf true) ∧ (classBit f code = 7 ↔ valueOf f code = .inf false) ∧
    ∀ v, valueOf f code = .fin v →
      (classBit f code = 3 ↔ v.m = 0 ∧ v.neg = true) ∧ (classBit f code = 4 ↔ v.m = 0 ∧ v.neg = false) ∧
      (∀ eb fb bias, fltParams f = some (eb, fb, bias) →
        (classBit f code = 2 ∨ classBit f code = 5 ↔ v.m ≠ 0 ∧ |ratOf v| < (2 : ℚ) ^ (1 - (bias : Int)))) ∧
      (v.neg = true ↔ classBit f code ∈ [1, 2, 3])

/-- R190: the integer operations over registers, on two's-complement elements of width w. -/
def Says.VectorIntegers : Prop :=
  ∀ (s : State) (fd fa fb : BitVec 5) (fmt : BitVec 4) (bc : BitVec 2), fmt = 6#4 ∨ fmt = 9#4 →
    let w := fmtBits fmt.toNat
    let a := codeIn s fmt.toNat fa
    let b := codeIn s fmt.toNat fb
    let x : Int := Int.bmod a (2 ^ w)
    let y : Int := Int.bmod b (2 ^ w)
    let lo : Int := -(2 ^ (w - 1))
    let hi : Int := 2 ^ (w - 1) - 1
    let sat (v : Int) : Int := max lo (min v hi)
    let bits (f : Nat → Bool) : Int := (((List.range w).map fun j => if f j then 2 ^ j else 0).sum : Nat)
    let n := b % w
    let ops : List (Instr × Int) := [
      (.viaddAdd fd fa fb fmt bc, x + y), (.viaddSub fd fa fb fmt bc, x - y),
      (.viaddAdds fd fa fb fmt bc, sat (x + y)), (.viaddSubs fd fa fb fmt bc, sat (x - y)),
      (.viaddMin fd fa fb fmt bc, min x y), (.viaddMax fd fa fb fmt bc, max x y),
      (.viaddAbsd fd fa fb fmt bc, max (x - y) (y - x)),
      (.vimulLo fd fa fb fmt bc, x * y), (.vimulHi fd fa fb fmt bc, (x * y).fdiv (2 ^ w)),
      (.vimulHiu fd fa fb fmt bc, (a * b / 2 ^ w : Nat)),
      (.vlogicAnd fd fa fb fmt bc, bits fun j => a.testBit j && b.testBit j),
      (.vlogicOr fd fa fb fmt bc, bits fun j => a.testBit j || b.testBit j),
      (.vlogicXor fd fa fb fmt bc, bits fun j => a.testBit j != b.testBit j),
      (.vlogicAndn fd fa fb fmt bc, bits fun j => a.testBit j && !b.testBit j),
      (.vlogicNot fd fa fmt, bits fun j => !a.testBit j),
      (.vshfSll fd fa fb fmt bc, bits fun j => decide (n ≤ j) && a.testBit (j - n)),
      (.vshfSrl fd fa fb fmt bc, bits fun j => a.testBit (j + n)),
      (.vshfSra fd fa fb fmt bc, bits fun j => a.testBit (min (j + n) (w - 1))),
      (.vshfRot fd fa fb fmt bc, bits fun j => a.testBit ((j + n) % w))]
    (∀ r ∈ [fd, fa, fb], s.Plain r) →
    ∀ o ∈ ops, EntersPlain o.1 s (occOne s) (some (fd, elemWord (o.2 % 2 ^ w).toNat)) none ⟨0#5, s.cur.rseq⟩

/-- R181, R189: a reduction of one element in a register: the element meets lane 0, whose initial value is +0, +∞ or −∞, and
then the other lanes; the input stage is held for 4 cycles more. -/
def Says.VectorReductions : Prop :=
  ∀ (s : State) (fd fa fb : BitVec 5) (fmt : BitVec 4) (rnd : BitVec 3) (bc : BitVec 2),
    let f := fmt.toNat
    let m := modeOf s rnd
    let a := valueOf f (codeIn s f fa)
    let b := valueOf f (codeIn s f fb)
    let c0 : RC := ⟨0#5, s.cur.rseq⟩
    let rd (x : FVal × RC) : Nat × RC := roundTo 0 m false x.1 x.2
    let more (l : Nat × RC) : Nat × RC := rd (fAdd m (valueOf 0 l.1) (valueOf 0 0) l.2)
    let pick (mx : Bool) (x y : FVal) : Nat := exactCode 0 (fMinMax mx x y)
    let ends (mx : Bool) : Nat × RC := (pick mx (valueOf 0 (pick mx (.inf mx) a)) (.inf mx), c0)
    let ops : List (Instr × (Nat × RC)) := [
      (.vredSum fd fa fmt rnd, more (rd (fAdd m (valueOf 0 0) a c0))),
      (.vdot fd fa fb fmt rnd bc, more (rd (fFma m a b (valueOf 0 0) c0))),
      (.vredMin fd fa fmt rnd, ends false), (.vredMax fd fa fmt rnd, ends true)]
    (∀ r ∈ [fd, fa, fb], s.Plain r) →
    ∀ o ∈ ops, EntersPlain o.1 s (occOne s + 4) (some (fd, elemWord o.2.1)) none o.2.2

/-- Stream `r` of the issuing thread is a read stream of format `fmt`, generator `i`, with the elements `vs` at hand. -/
def Feeds (s : State) (r : BitVec 5) (fmt i : Nat) (g : Gen) (vs : List (BitVec 32)) : Prop :=
  s.streamOf r = some (i, g) ∧ lookup s.curCore.gens i = some g ∧ g.wr = false ∧ g.fmt.toNat = fmt ∧
    g.ahead.take vs.length = vs.map Elem.ok ∧ vs.length ≤ g.total - g.pos

/-- Stream `r` of the issuing thread is a local write stream of format `fmt`, generator `o`, that takes `n` more elements; no
FILL is held at the banks (R163). -/
def Takes (s : State) (r : BitVec 5) (fmt o : Nat) (b : Gen) (n : Nat) : Prop :=
  s.streamOf r = some (o, b) ∧ lookup s.curCore.gens o = some b ∧ b.wr = true ∧ b.glob = false ∧ b.fmt.toNat = fmt ∧
    n ≤ b.total - b.pos ∧ s.curCore.fill = none

/-- `n` elements of generator `i` have been popped and the elements `out` pushed to generator `o` by the operation that is the
core's next command (R179, R219); bits 31:26 of an FP26 element are zero (R59). -/
def Streamed (s t : State) (i : Nat) (g : Gen) (n o : Nat) (b : Gen) (out : List (BitVec 32)) : Prop :=
  lookup t.curCore.gens i = some { g with pos := g.pos + n, ahead := g.ahead.drop n } ∧
  lookup t.curCore.gens o = some { b with
    pos := b.pos + out.length
    pushes := b.pushes ++ (List.range out.length).map fun k =>
      ⟨b.pos + k, if b.fmt = 11#4 then out.getD k 0#32 &&& 0x3FFFFFF#32 else out.getD k 0#32,
        if s.iss.pair then s.iss.pc + 12#64 else s.iss.pc, s.curCore.seq, s.curCore.seq + 1#16⟩ } ∧
  ∀ k, k ≠ i → k ≠ o → lookup t.curCore.gens k = lookup s.curCore.gens k

/-- R178, R179, R181: over streams the number of iterations is the least that remains; element k of the sources gives
element k of the result, and the stage is held for Ceil(n / r) cycles. -/
def Says.VectorStreams : Prop :=
  ∀ (s : State) (fd fa fb : BitVec 5) (fmt : BitVec 4) (bc : BitVec 2) (i o : Nat) (g b : Gen) (vs : List (BitVec 32)),
      fmt = 6#4 ∨ fmt = 9#4 → i ≠ o → Feeds s fa fmt.toNat i g vs → Takes s fd fmt.toNat o b vs.length → s.Plain fb →
      vs.length = min (g.total - g.pos) (b.total - b.pos) →
    let w := fmtBits fmt.toNat
    let y : Int := Int.bmod (codeIn s fmt.toNat fb) (2 ^ w)
    let r := if w = 8 then 32 else 16
    let occ := max 1 ((vs.length + r - 1) / r) * occOne s
    ∃ t out, exec (.viaddAdd fd fa fb fmt bc) s = .next t ∧ s.Enters t occ none none ⟨0#5, s.cur.rseq⟩ none ∧
      out.length = vs.length ∧ Streamed s t i g vs.length o b out ∧
      ∀ k < vs.length, ((out.getD k 0#32).toNat : Int) = (Int.bmod (vs.getD k 0#32).toNat (2 ^ w) + y) % 2 ^ w

/-- R77, R180: a stream operand bound in the wrong direction or with the wrong element format makes the operation a late
Vector-Stream fault that writes no element, pops none and pushes none. -/
def Says.VectorStreamFaults : Prop :=
  ∀ (s : State) (fd fa fb fc : BitVec 5) (sub fmt : BitVec 4) (rnd pd : BitVec 3) (bc : BitVec 2) (imm : BitVec 32)
      (i : Nat) (g : Gen), s.streamOf fa = some (i, g) →
    let late (x : Instr) : Prop := ∃ t occ, exec x s = .next t ∧
      s.Enters t occ none none ⟨0#5, s.cur.rseq⟩ (some (.vectorStream, 0#64, 0#64)) ∧ t.curCore.gens = s.curCore.gens
    (g.wr = true ∨ g.fmt ≠ fmt → ∀ x ∈ [Instr.vadd fd fa fb fmt rnd bc, .vmul fd fa fb fmt rnd bc, .vmov fd fa fmt,
      .vsel fd fa fb fc fmt bc, .vcls fd fa fmt pd imm, .vredSum fd fa fmt rnd, .viaddAdd fd fa fb fmt bc,
      .vlogicNot fd fa fmt, .vexp fd fa fmt, .nfscan fd fa fmt pd], late x) ∧
    (g.wr = true ∨ g.fmt ≠ sub → ∀ x ∈ [Instr.cvt sub fd fa fmt rnd imm, .cvti sub fd fa fmt rnd imm,
      .packStrm sub fd fa fmt rnd imm], late x) ∧
    (g.wr = true ∨ g.fmt ≠ 6#4 → ∀ x ∈ [Instr.unpk sub fd fa fmt rnd imm, .unpkHi sub fd fa fmt rnd imm,
      .unpkStrm sub fd fa fmt rnd imm, .unplane fd fa fmt, .spackChk fd fa fmt pd], late x)

/-- R61, R70, R179, R180, R337, R338: VECTOR_OP_COMPLETE delivers the results and flags of an operation whose time has come
to its thread; a fault becomes a late record with the command's sequence number. VECTOR_STAGE_FREE frees the stage. -/
def Says.VectorCompletions : Prop :=
  ∀ (s : State) (c : Nat) (seq : BitVec 16) (o : VecOp) (x : Thread), (s.core c).vec.ops.find? (fun o => o.seq == seq) = some o →
      s.thread? c o.slot = some x → x.gen = o.gen →
    let i : Instr := .vectorOpComplete c seq
    let landed (y : Thread) : Prop :=
      (∀ r, y.getF r = match o.wf with | some (d, v) => if r = d then v else x.getF r | none => x.getF r) ∧
      (∀ r, y.getP r = match o.wp with | some (p, v) => if r = p then (p == 0#3 || v) else x.getP r | none => x.getP r) ∧
      y.fpsr = x.fpsr ||| o.flags
    ((s.core c).cyc < o.doneAt → exec i s = .next s) ∧
    (o.doneAt ≤ (s.core c).cyc → o.fault = none → ∃ t y, exec i s = .next t ∧ t.thread? c o.slot = some y ∧ landed y ∧
      y = { x with f := y.f, p := y.p, fpsr := y.fpsr } ∧
      (t.core c).vec = { (s.core c).vec with ops := (s.core c).vec.ops.filter fun a => a.seq != seq } ∧
      t.core c = { s.core c with slots := (t.core c).slots, vec := (t.core c).vec, ring := (t.core c).ring } ∧
      (∀ k, k ≠ o.slot → t.thread? c k = s.thread? c k) ∧ t = { s with cores := t.cores }) ∧
    (o.doneAt ≤ (s.core c).cyc → ∀ cause a e, o.fault = some (cause, a, e) → x.st = .ready → o.slot ≠ 15 →
      (s.core c).cube.queue = [] → ∃ t y r, exec i s = .next t ∧ t.thread? c o.slot = some y ∧ landed y ∧
        y = { x with f := y.f, p := y.p, fpsr := y.fpsr, late := true, lastTrap := some (o.pc, false) } ∧
        (s.core c).Enters (t.core c).trapq r ∧
        r.w0.extractLsb' 0 8 = cause.code ∧ r.w0.extractLsb' 8 8 = 1#8 ∧ r.w0.extractLsb' 16 17 = tidOf c o.slot ∧
        r.w0.extractLsb' 48 16 = seq ∧ r.w1 = o.pc ∧ r.w2 = a ∧ r.w3 = e) ∧
    (∀ u, (s.core c).vec.stage = some u →
      (u ≤ (s.core c).cyc → exec (.vectorStageFree c) s =
        .next (s.setCore c { s.core c with vec := { (s.core c).vec with stage := none } })) ∧
      ((s.core c).cyc < u → exec (.vectorStageFree c) s = .next s))

/-! ### Conversions, packing, transposes and sparse tiles (R62, R63, R73 to R77, R191, R192, R201 to R209) -/

/-- R74, R75, R76: the register forms. CVT and CVTI round the exact value of the source to the destination, a CVT between
identical formats returning its operand with a NaN made canonical, one of E8M0 with IV; PACK converts FA first and puts it in the low half of a
byte; UNPK decodes the low or the high half. -/
def Says.RegisterConversions : Prop :=
  ∀ (s : State) (sub fmt : BitVec 4) (fd fa fb : BitVec 5) (rnd : BitVec 3) (imm : BitVec 32),
    let a := sub.toNat
    let f := fmt.toNat
    let m := modeOf s rnd
    let sat := imm.getLsbD 0
    let c0 : RC := ⟨0#5, s.cur.rseq⟩
    let conv (code : Nat) (sat : Bool) (c : RC) : Nat × RC :=
      if a = f ∧ a ≤ 5 ∨ a = f ∧ a = 11 then (if valueOf a code = .nan then canonNaN a else code, c)
      else if a = f ∧ a = 10 then (code, if code = 255 then c.or fIV else c) else roundTo f m sat (valueOf a code) c
    let x := conv (codeIn s a fa) (sat || f == 5) c0
    let y := conv (codeIn s a fb) (sat || f == 5) x.2
    let pair := codeIn s 6 fa
    (∀ r ∈ [fd, fa, fb], s.Plain r) → a ≤ 11 → f ≤ 11 →
    (∀ i ∈ [Instr.cvt sub fd fa fmt rnd imm, .cvti sub fd fa fmt rnd imm],
      EntersPlain i s (occOne s) (some (fd, elemWord (conv (codeIn s a fa) sat c0).1)) none (conv (codeIn s a fa) sat c0).2) ∧
    (fmt = 5#4 ∨ fmt = 7#4 → EntersPlain (.pack sub fd fa fb fmt rnd imm) s (occOne s)
      (some (fd, elemWord (y.1 * 16 + x.1))) none y.2) ∧
    EntersPlain (.unpk sub fd fa fmt rnd imm) s (occOne s)
      (some (fd, elemWord (roundTo f m sat (valueOf a (pair % 16)) c0).1)) none (roundTo f m sat (valueOf a (pair % 16)) c0).2 ∧
    EntersPlain (.unpkHi sub fd fa fmt rnd imm) s (occOne s)
      (some (fd, elemWord (roundTo f m sat (valueOf a (pair / 16)) c0).1)) none (roundTo f m sat (valueOf a (pair / 16)) c0).2

/-- An operation that pops the elements `vs` from FA and pushes `out` to FD. -/
def Repacks (i : Instr) (s : State) (ia : Nat) (g : Gen) (vs : List (BitVec 32)) (o : Nat) (b : Gen) (out : List (BitVec 32))
    (wp : Option (BitVec 3 × Bool)) (c : RC) : Prop :=
  ∃ t occ, exec i s = .next t ∧ s.Enters t occ none wp c none ∧ Streamed s t ia g vs.length o b out

/-- R62, R63, R75, R76: the stream forms, for a source that ends after one unit: two elements make a byte and a byte two
elements, and a group of OLI4 is 32 elements in 24 bytes. -/
def Says.StreamConversions : Prop :=
  ∀ (s : State) (sub fmt : BitVec 4) (fd fa : BitVec 5) (rnd : BitVec 3) (imm : BitVec 32) (i o : Nat) (g b : Gen)
      (vs : List (BitVec 32)), i ≠ o → vs.length = g.total - g.pos →
    let a := sub.toNat
    let f := fmt.toNat
    let m := modeOf s rnd
    let sat := imm.getLsbD 0
    let c0 : RC := ⟨0#5, s.cur.rseq⟩
    let v (k : Nat) : Nat := (vs.getD k 0#32).toNat
    let words (l : List Nat) := l.map (BitVec.ofNat 32)
    (vs.length = 2 → fmt = 5#4 ∨ fmt = 7#4 → Feeds s fa a i g vs → Takes s fd 6 o b 1 →
      let r := packByte a f m sat (v 0) (v 1) c0
      Repacks (.packStrm sub fd fa fmt rnd imm) s i g vs o b (words [r.1]) none r.2) ∧
    (vs.length = 32 → fmt = 8#4 → Feeds s fa a i g vs → Takes s fd 6 o b 24 →
      let r := oliGroup a m (vs.map (·.toNat)) c0
      Repacks (.packStrm sub fd fa fmt rnd imm) s i g vs o b (words r.1) none r.2) ∧
    (vs.length = 1 → sub = 5#4 ∨ sub = 7#4 → Feeds s fa 6 i g vs → Takes s fd f o b 2 →
      let x := roundTo f m sat (valueOf a (v 0 % 16)) c0
      let y := roundTo f m sat (valueOf a (v 0 / 16 % 16)) x.2
      Repacks (.unpkStrm sub fd fa fmt rnd imm) s i g vs o b (words [x.1, y.1]) none y.2) ∧
    (vs.length = 24 → sub = 8#4 → Feeds s fa 6 i g vs → Takes s fd f o b 32 →
      let d := oliDecode (vs.map (·.toNat)) c0
      let r := roundAll f m sat d.1 d.2
      d.1.length = 32 ∧ Repacks (.unpkStrm sub fd fa fmt rnd imm) s i g vs o b (words r.1) none r.2)

/-- R62, R63: pair j of a decoded OLI4 group. A slot-0 marker makes element 2j the E4M3 code of slot 1 and the companion
nibble and element 2j + 1 zero; an orphan marker in slot 1 reads as zero and is invalid; every other slot holds its INT4
value. -/
def Says.OutlierPairs : Prop :=
  ∀ (g : List Nat) (j : Nat), j < 16 → g.length = 24 → (∀ x ∈ g, x < 256) →
    let s0 := g.getD j 0 % 16
    let s1 := g.getD j 0 / 16
    let comp := if j % 2 = 0 then g.getD (16 + j / 2) 0 % 16 else g.getD (16 + j / 2) 0 / 16
    let int (n : Nat) : FVal := .ofInt (if n < 8 then n else (n : Int) - 16)
    let p := oliValues g j
    (s0 = 8 → p = (valueOf 3 (16 * s1 + comp), .zero false, 0#5)) ∧
    (s0 ≠ 8 → s1 = 8 → p = (int s0, .zero false, fIV)) ∧ (s0 ≠ 8 → s1 ≠ 8 → p = (int s0, int s1, 0#5)) ∧
    ∀ c, (oliDecode g c).1.getD (2 * j) .nan = p.1 ∧ (oliDecode g c).1.getD (2 * j + 1) .nan = p.2.1

/-- R191, R192: PLANE pushes the bit planes of a tile of 1,024 codes, byte 128 j + b holding bit j of codes 8 b to 8 b + 7;
UNPLANE gathers the codes again. A code of 4 bits travels two to a byte, the first in the low half. -/
def Says.Planes : Prop :=
  ∀ (s : State) (fmt : BitVec 4) (fd fa : BitVec 5) (i o : Nat) (g b : Gen) (vs : List (BitVec 32)), i ≠ o →
    let f := fmt.toNat
    let w := planeWidth f
    let st := if w = 4 then 6 else f
    let len := if w = 4 then 512 else 1024
    let c0 : RC := ⟨0#5, s.cur.rseq⟩
    let code (l : List (BitVec 32)) (e j : Nat) : Bool :=
      if w = 4 then (l.getD (e / 2) 0#32).getLsbD (4 * (e % 2) + j) else (l.getD e 0#32).getLsbD j
    let plane (l : List (BitVec 32)) (e j : Nat) : Bool := (l.getD (128 * j + e / 8) 0#32).getLsbD (e % 8)
    (vs.length = len → Feeds s fa st i g vs → Takes s fd 6 o b (128 * w) → ∃ out,
      Repacks (.plane fd fa fmt) s i g vs o b out none c0 ∧ out.length = 128 * w ∧
      ∀ e < 1024, ∀ j < w, plane out e j = code vs e j) ∧
    (vs.length = 128 * w → Feeds s fa 6 i g vs → Takes s fd st o b len → ∃ out,
      Repacks (.unplane fd fa fmt) s i g vs o b out none c0 ∧ out.length = len ∧
      ∀ e < 1024, ∀ j < w, code out e j = plane vs e j)

/-- R180, R206, R207: SPACK keeps of every four codes of a dense tile the two of largest magnitude, in order, and writes
the planes of the kept codes and then the positions; FD names the first group that had more than two non-zero codes.
SPACK.CHK finds the first metadata group whose two positions are one. -/
def Says.SparseTiles : Prop :=
  ∀ (s : State) (fd fa fb : BitVec 5) (pd : BitVec 3) (i o : Nat) (g b : Gen) (vs : List (BitVec 32)), i ≠ o →
      s.streamOf fd = none →
    let c0 : RC := ⟨0#5, s.cur.rseq⟩
    let q (k : Nat) : Nat := (vs.getD k 0#32).toNat % 256
    let mag (k : Nat) : Nat := (Int.bmod (q k) 256).natAbs
    let first (p : Nat → Prop) (n k : Nat) : Prop := k < n ∧ p k ∧ ∀ j < k, ¬p j
    let named (v : Word) (ok : Bool) (p : Nat → Prop) (n : Nat) : Prop :=
      (ok = true ∧ v = 0xFFFFFFFF#64 ∧ ∀ k < n, ¬p k) ∨ (ok = false ∧ first p n v.toNat)
    let full (k : Nat) : Prop := 2 < ((List.range 4).filter fun j => mag (4 * k + j) != 0).length
    let nib (k : Nat) : Nat := q (k / 2) / 16 ^ (k % 2) % 16
    (vs.length = 1024 → Feeds s fa 6 i g vs → Takes s fb 6 o b 640 → ∃ t occ out v ok,
      exec (.spack fd fa fb 6#4 pd) s = .next t ∧ s.Enters t occ (some (fd, v)) (some (pd, ok)) c0 none ∧
      Streamed s t i g 1024 o b out ∧ out.length = 640 ∧ named v ok full 256 ∧
      ∀ k < 256, ∃ x y : Nat, x < y ∧ y < 4 ∧
        (∀ j < 4, j ≠ x → j ≠ y → ∀ z ∈ [x, y], mag (4 * k + j) < mag (4 * k + z) ∨
          (mag (4 * k + j) = mag (4 * k + z) ∧ z < j)) ∧
        (out.getD (512 + k / 2) 0#32).toNat / 16 ^ (k % 2) % 16 = x + 4 * y ∧
        ∀ j < 8, (out.getD (64 * j + k / 4) 0#32).getLsbD (2 * (k % 4)) = (q (4 * k + x)).testBit j ∧
          (out.getD (64 * j + k / 4) 0#32).getLsbD (2 * (k % 4) + 1) = (q (4 * k + y)).testBit j) ∧
    (vs.length = 128 → Feeds s fa 6 i g vs → ∃ t occ v ok, exec (.spackChk fd fa 6#4 pd) s = .next t ∧
      s.Enters t occ (some (fd, v)) (some (pd, ok)) c0 none ∧ named v ok (fun k => nib k % 4 = nib k / 4) 256 ∧
      lookup t.curCore.gens i = some { g with pos := g.pos + 128, ahead := g.ahead.drop 128 })

/-- R203, R208: NFSCAN of a whole panel of 64 rows of 16 codes pushes four bytes; flag 2 c + h tells that a code of rows
32 h to 32 h + 31 of column c is infinite or a NaN, and P[PD] whether any is. -/
def Says.NonFiniteScans : Prop :=
  ∀ (s : State) (fd fa : BitVec 5) (fmt : BitVec 4) (pd : BitVec 3) (i o : Nat) (g b : Gen) (vs : List (BitVec 32)),
      i ≠ o → vs.length = 1024 → g.total - g.pos = 1024 → Feeds s fa fmt.toNat i g vs → Takes s fd 6 o b 4 →
    let bad (k : Nat) : Prop := ∀ v, valueOf fmt.toNat (vs.getD k 0#32).toNat ≠ .fin v
    ∃ out any, Repacks (.nfscan fd fa fmt pd) s i g vs o b out (some (pd, any)) ⟨0#5, s.cur.rseq⟩ ∧ out.length = 4 ∧
      (∀ c < 16, ∀ h < 2, ((out.getD (c / 4) 0#32).getLsbD (2 * (c % 4) + h) = true ↔
        ∃ k < 32, bad (16 * (32 * h + k) + c))) ∧
      (any = true ↔ ∃ k < 1024, bad k)

/-! ### The cube (R210 to R233, R346, R347) -/

/-- Between `s` and `t` the cube of the issuing core has become `k`, and nothing else has changed. -/
def CubeBecomes (s t : State) (k : Cube) : Prop :=
  t.core s.iss.core = { s.core s.iss.core with cube := k } ∧ (∀ i, i ≠ s.iss.core → t.core i = s.core i) ∧
    t = { s with cores := t.cores }

/-- The issuing thread owns the cube. -/
def OwnsCube (s : State) : Prop :=
  (s.core s.iss.core).cube.owner = some s.iss.slot ∧ (s.core s.iss.core).cube.leaving = false

/-- No command of the cube waits or executes. -/
def CubeQuiet (s : State) : Prop := (s.core s.iss.core).cube.exec = none ∧ (s.core s.iss.core).cube.queue = []

/-- R214, R216, R220, R230, R231, R273: claiming, releasing and configuring the cube, its status, and waiting for a command. A
release that must follow requests under way leaves the cube when they are acknowledged, and the thread goes on. -/
def Says.CubeControl : Prop :=
  ∀ (s : State) (d : BitVec 6),
    let c := s.iss.core
    let k := (s.core c).cube
    let p : BitVec 3 := d.setWidth 3
    let v := s.rx d
    let pint := (v.extractLsb' 32 7).toNat
    let badCfg := v &&& 0xFFFFF880FEC08000#64 ≠ 0#64 ∨ pint = 0 ∨ 64 < pint
    let pending (q : BitVec 16) := (∃ m, k.exec = some m ∧ m.seq = q) ∨ ∃ m ∈ k.queue, m.seq = q
    -- CCLAIM
    (s.iss.slot = 14 ∨ s.curLaunch.hdr.cube = false → TrapsWith (.cclaim d) s .cubeOwner 0#64 0#64) ∧
    (s.iss.slot ≠ 14 → s.curLaunch.hdr.cube = true → k.owner ≠ none → ¬OwnsCube s → WritesP (.cclaim d) s p false) ∧
    (s.iss.slot ≠ 14 → s.curLaunch.hdr.cube = true → k.owner = none ∨ OwnsCube s →
      ∃ t u, exec (.cclaim d) s = .next t ∧ CubeBecomes s u { k with owner := some s.iss.slot } ∧ t.rp p = true ∧
        u.Frame t [] [p] [] []) ∧
    -- CREL
    (¬OwnsCube s → TrapsWith .crel s .cubeOwner 0#64 0#64) ∧
    (OwnsCube s → ¬CubeQuiet s → LosesTurn .crel s) ∧
    (OwnsCube s → CubeQuiet s → s.curOutstanding ≠ [] →
      ∃ t, exec .crel s = .next t ∧ CubeBecomes s t { k with leaving := true, after := s.curOutstanding }) ∧
    (OwnsCube s → CubeQuiet s → s.curOutstanding = [] →
      ∃ t, exec .crel s = .next t ∧ CubeBecomes s t { k with owner := none }) ∧
    -- CCFG
    (¬OwnsCube s → TrapsWith (.ccfg d) s .cubeOwner 0#64 0#64) ∧
    (OwnsCube s → badCfg → TrapsWith (.ccfg d) s .cubeShape 0#64 0#64) ∧
    (OwnsCube s → ¬badCfg → ¬CubeQuiet s → LosesTurn (.ccfg d) s) ∧
    (OwnsCube s → ¬badCfg → CubeQuiet s →
      ∃ t, exec (.ccfg d) s = .next t ∧ CubeBecomes s t { k with cfg := v.setWidth 43 }) ∧
    -- CSTAT.CLR
    (∃ t u, exec (.cstatClr d) s = .next t ∧ exec (.cstat d) s = .next u ∧
      (OwnsCube s ∨ s.iss.slot = 15 → CubeBecomes u t { k with sticky := 0#4 }) ∧
      (¬(OwnsCube s ∨ s.iss.slot = 15) → t = u)) ∧
    -- CWAIT
    (s.iss.slot = 14 → TrapsWith (.cwait d) s .handlerBlock 0#64 0#64) ∧
    (s.iss.slot ≠ 14 → ¬pending (v.setWidth 16) → exec (.cwait d) s = .next s) ∧
    (s.iss.slot ≠ 14 → pending (v.setWidth 16) →
      exec (.cwait d) s = .next (s.setThread c s.iss.slot { s.cur with st := .parked (.cube (v.setWidth 16)) }))

/-- Row `r` of R210 fails for a CMUL of the issuing thread. -/
def RowFails (s : State) (xa xb xg xn : BitVec 6) (acb : BitVec 9) (spa : Bool) (r : Nat) : Prop :=
  let cfg := (s.core s.iss.core).cube.cfg
  let n := (s.rx xn).toNat
  let a := (cfg.extractLsb' 0 4).toNat
  let b := (cfg.extractLsb' 4 4).toNat
  let g := (cfg.extractLsb' 8 4).toNat
  let gmode := (cfg.extractLsb' 12 3).toNat
  let k1 := (cfg.extractLsb' 16 6).toNat
  let base (x : BitVec 6) : Prop := (s.rx x).toNat % 128 = 0 ∧ Config.windowBase ≤ (s.rx x).toNat ∧
    (s.rx x).toNat < Config.windowBase + Config.windowBytes
  let inside (x : BitVec 6) (n : Nat) : Prop := (s.rx x).toNat - Config.windowBase + n ≤ s.curLaunch.hdr.lmem
  -- twice the bytes of an element (R211)
  let e2 (f : Nat) : Nat := if f = 1 ∨ f = 2 then 4 else if f = 5 ∨ f = 7 then 1 else 2
  -- planes of an A tile (R196)
  let pa : Nat := if a = 1 ∨ a = 2 then 16 else if a = 3 ∨ a = 4 ∨ a = 6 then 8 else if a = 8 then 9 else 4
  let rows : Nat := if gmode = 4 then k1 else 64
  let extA : Nat := if spa then 64 * pa + 128 else 128 * pa
  let extB : Nat := n / 16 * (8 * rows * e2 b) + if spa then 128 else 0
  let extG : Nat := if gmode = 1 then 512 * e2 g else if gmode = 2 then n / 16 * (512 * e2 g)
    else if gmode = 3 then 32 * e2 g else n / 16 * (8 * (64 / k1) * e2 g)
  match r with
  | 1 => ¬(n % 16 = 0 ∧ 16 ≤ n ∧ n ≤ 512)
  | 2 => ¬acb.toNat + n ≤ 512
  | 3 => ¬(1 ≤ a ∧ a ≤ 8)
  | 4 => ¬((1 ≤ a ∧ a ≤ 5 ∧ 1 ≤ b ∧ b ≤ 5) ∨ ((a = 6 ∨ a = 7) ∧ (b = 6 ∨ b = 7)) ∨ (a = 8 ∧ (b = 3 ∨ b = 4 ∨ b = 6)))
  | 5 => ¬(gmode ≤ 4 ∧ (gmode ≠ 0 → 1 ≤ a ∧ a ≤ 5 ∧ 1 ≤ b ∧ b ≤ 5 ∧ 1 ≤ g ∧ g ≤ 4))
  | 6 => ¬(gmode = 4 → k1 ∈ [2, 4, 8, 16, 32])
  | 7 => ¬(cfg.getLsbD 24 = true → a ∈ [3, 4, 5] ∧ b ∈ [3, 4, 5])
  | 8 => ¬(spa = true → gmode = 0 ∧ a ≠ 8)
  | 9 => ¬(base xa ∧ base xb ∧ (gmode ≠ 0 → base xg))
  | 10 => ¬(inside xa extA ∧ inside xb extB ∧ (gmode ≠ 0 → inside xg extG))
  | _ => False

/-- Between `s` and `t` the command `m` of the issuing thread has entered the queue under the next number, which X[XD]
holds, and its entry opens the ring (R219, R338). Nothing else has changed. -/
def Queued (s t : State) (d : BitVec 6) (m : CubeCmd) (snap0 snap1 : Word) : Prop :=
  let c := s.iss.core
  let k := s.core c
  ∃ (u : State) (e : RingEnt), u.core c = { k with cube := { k.cube with queue := k.cube.queue ++ [m] }, ring := (u.core c).ring, seq := k.seq + 1#16 } ∧
    (∀ i, i ≠ c → u.core i = s.core i) ∧ u = { s with cores := u.cores } ∧ u.Frame t [d] [] [] [] ∧
    t.rx d = (if d = 0#6 then 0#64 else k.seq.setWidth 64) ∧ (k.ring.length < 64 → (u.core c).ring = e :: k.ring) ∧
    e.seq = k.seq ∧ e.tid = tidOf c s.iss.slot ∧ e.st = 0#3 ∧ e.passes = 0#6 ∧ e.pc = s.iss.pc ∧ e.snap0 = snap0 ∧
    e.snap1 = snap1 ∧ e.opc = (if m.prom then 0xD4#8 else 0xD3#8)

/-- The fields of a command that the issuing thread gives it (R219, R338). -/
def CmdOf (s : State) (m : CubeCmd) : Prop :=
  m.seq = (s.core s.iss.core).seq ∧ m.slot = s.iss.slot ∧ m.gen = s.cur.gen ∧ m.tid = tidOf s.iss.core s.iss.slot ∧
    m.pc = s.iss.pc ∧ m.cfg = (s.core s.iss.core).cube.cfg ∧ m.pass = 0 ∧ m.flags = 0#4 ∧
    m.readyAt = (s.core s.iss.core).cyc + 1 ∧ m.lbase = s.curLaunch.lbase

/-- R193, R210, R214, R219, R338: a CMUL of a thread that does not own the cube is a Cube-Owner trap; else the lowest
failing row of R210 is a Cube-Shape trap; else a full queue loses the turn; else the command is queued. -/
def Says.CubeMultiplies : Prop :=
  ∀ (s : State) (xa xb xg xd xn : BitVec 6) (acb : BitVec 9) (spa za : BitVec 1),
    let i : Instr := .cmul xa xb xg xd xn acb spa za
    let k := (s.core s.iss.core).cube
    let fails := RowFails s xa xb xg xn acb (spa == 1#1)
    let off (x : BitVec 6) : Nat := (s.rx x).toNat - Config.windowBase
    let gOff : Nat := if k.cfg.extractLsb' 12 3 = 0#3 then 0 else off xg
    (¬OwnsCube s → TrapsWith i s .cubeOwner 0#64 0#64) ∧
    (OwnsCube s → ∀ r, fails r → (∀ q < r, ¬fails q) → TrapsWith i s .cubeShape 0#64 (BitVec.ofNat 64 r)) ∧
    (OwnsCube s → (∀ r, ¬fails r) → 2 ≤ k.queue.length → LosesTurn i s) ∧
    (OwnsCube s → (∀ r, ¬fails r) → k.queue.length < 2 → ∃ (t : State) (m : CubeCmd), exec i s = .next t ∧ CmdOf s m ∧ m.prom = false ∧
      m.offA = off xa ∧ m.offB = off xb ∧ m.offG = gOff ∧ m.n16 = (s.rx xn).toNat / 16 ∧ m.acb = acb.toNat ∧
      m.spa = (spa == 1#1) ∧ m.za = (za == 1#1) ∧
      Queued s t xd m
        (0#3 ++ za ++ spa ++ BitVec.ofNat 5 ((s.rx xn).toNat / 16 - 1) ++ BitVec.ofNat 18 gOff ++ BitVec.ofNat 18 (off xb) ++
          BitVec.ofNat 18 (off xa))
        (0#5 ++ k.cfg ++ 0#7 ++ acb))

/-- R214, R219, R226, R338: CPROM checks rows 1 and 2, then AFMT, then with scale tiles their addresses and extents; else
it is queued as a CMUL is. -/
def Says.CubePromotes : Prop :=
  ∀ (s : State) (xa xb xd xn : BitVec 6) (acb : BitVec 9) (nsc : BitVec 2),
    let i : Instr := .cprom xa xb xd xn acb nsc
    let k := (s.core s.iss.core).cube
    let n := (s.rx xn).toNat
    let a := (k.cfg.extractLsb' 0 4).toNat
    let rows := n % 16 = 0 ∧ 16 ≤ n ∧ n ≤ 512
    let base (x : BitVec 6) : Prop := (s.rx x).toNat % 128 = 0 ∧ Config.windowBase ≤ (s.rx x).toNat ∧
      (s.rx x).toNat < Config.windowBase + Config.windowBytes
    let inside (x : BitVec 6) (n : Nat) : Prop := (s.rx x).toNat - Config.windowBase + n ≤ s.curLaunch.hdr.lmem
    let scales := nsc.toNat ≠ 0 → base xa ∧ base xb
    let extents := nsc.toNat ≠ 0 → inside xa (16 * nsc.toNat) ∧ inside xb (n * nsc.toNat)
    let shape (r : Word) : Prop := TrapsWith i s .cubeShape 0#64 r
    (¬OwnsCube s → TrapsWith i s .cubeOwner 0#64 0#64) ∧
    (OwnsCube s →
      (¬rows → shape 1#64) ∧
      (rows → ¬acb.toNat + n ≤ 512 → shape 2#64) ∧
      (rows → acb.toNat + n ≤ 512 →
        (a = 6 ∨ a = 7 → shape 11#64) ∧
        (a = 0 ∨ 9 ≤ a → shape 3#64) ∧
        (1 ≤ a → a ≤ 5 ∨ a = 8 →
          (¬scales → shape 9#64) ∧
          (scales → ¬extents → shape 10#64) ∧
          (scales → extents → 2 ≤ k.queue.length → LosesTurn i s) ∧
          (scales → extents → k.queue.length < 2 → ∃ (t : State) (m : CubeCmd) (w0 w1 : Word), exec i s = .next t ∧
            CmdOf s m ∧ m.prom = true ∧ m.n16 = n / 16 ∧ m.acb = acb.toNat ∧ m.nsc = nsc.toNat ∧
            (nsc.toNat ≠ 0 → m.offA = (s.rx xa).toNat - Config.windowBase ∧ m.offB = (s.rx xb).toNat - Config.windowBase) ∧
            Queued s t xd m w0 w1 ∧ w1 = 0#5 ++ k.cfg ++ 0#7 ++ acb ∧ w0.extractLsb' 36 18 = 0#18 ∧
            w0.extractLsb' 54 5 = BitVec.ofNat 5 (n / 16 - 1) ∧ w0.extractLsb' 59 2 = 0#2 ∧ w0.extractLsb' 61 2 = nsc ∧
            w0.getLsbD 63 = false))))

/-- The word of row m and column c of a lane or of ACC. -/
def cellOf (l : List (Nat × BitVec 32)) (m c : Nat) : BitVec 32 := (lookup l (512 * m + c)).getD 0#32

/-- R214, R228, R229: CZERO, CSTOR and CLOAD in the local window. They need the cube or slot 15, check rows 1 and 2, and an
image its address; they lose turns until the array is quiet, and while a FILL is held at the banks (R163). CZERO clears the columns; a CSTOR writes the image, FP26 words
with bits 31:26 zero; a CLOAD takes it in raw, or raises Poison at the first poisoned word and takes nothing. -/
def Says.CubeImages : Prop :=
  ∀ (s : State) (xa xn : BitVec 6) (acb : BitVec 9),
    let c := s.iss.core
    let k := (s.core c).cube
    let n := (s.rx xn).toNat
    let va := s.rx xa
    let a := s.localOf va
    let col := acb.toNat
    let cols (j : Nat) : Prop := col ≤ j ∧ j < col + n
    let mayUse := OwnsCube s ∨ s.iss.slot = 15
    let rows := n % 16 = 0 ∧ 16 ≤ n ∧ n ≤ 512
    let all : List (Instr × Nat) := [(.cstorAcc xa xn acb, 64), (.cstorL0 xa xn acb, 64), (.cstorL1 xa xn acb, 64),
      (.cstorCnt xa xn acb, 1), (.cloadAcc xa xn acb, 64), (.cloadL0 xa xn acb, 64), (.cloadL1 xa xn acb, 64),
      (.cloadCnt xa xn acb, 1)]
    let inWin := Config.windowBase ≤ va.toNat ∧ va.toNat < Config.windowBase + Config.windowBytes
    let fits (sz : Nat) : Prop := va.toNat % 128 = 0 ∧ inWin ∧ va.toNat - Config.windowBase + sz * n ≤ s.curLaunch.hdr.lmem
    let ready (sz : Nat) : Prop := mayUse ∧ rows ∧ col + n ≤ 512 ∧ fits sz ∧ CubeQuiet s ∧ s.curCore.fill = none
    let word (l : List (Nat × BitVec 32)) (fp : Bool) (j : Nat) : Bool :=
      (cellOf l (j / 32 / n) (col + j / 32 % n)).getLsbD (j % 32) && (!fp || decide (j % 32 < 26))
    let integer := k.cfg.extractLsb' 0 4 = 6#4 ∨ k.cfg.extractLsb' 0 4 = 7#4
    let raw (m j : Nat) : Nat → Bool := fun b => s.lbit (a + 4 * (n * m + (j - col))) b
    let lane (old new : List (Nat × BitVec 32)) : Prop := ∀ m < 16, ∀ j < 512, ∀ b < 32,
      (cellOf new m j).getLsbD b = if col ≤ j ∧ j < col + n then raw m j b else (cellOf old m j).getLsbD b
    (s.cur.prog = none →
      (¬mayUse → ∀ x ∈ all, TrapsWith x.1 s .cubeOwner 0#64 0#64) ∧
      (mayUse → ¬rows → ∀ x ∈ all, TrapsWith x.1 s .cubeShape 0#64 1#64) ∧
      (mayUse → rows → ¬col + n ≤ 512 → ∀ x ∈ all, TrapsWith x.1 s .cubeShape 0#64 2#64) ∧
      (mayUse → rows → col + n ≤ 512 → va.toNat % 128 ≠ 0 → ∀ x ∈ all, TrapsWith x.1 s .alignment va 0#64) ∧
      (mayUse → rows → col + n ≤ 512 → ∀ x ∈ all, fits x.2 → ¬CubeQuiet s ∨ s.curCore.fill ≠ none → LosesTurn x.1 s)) ∧
    (s.cur.prog = none → s.curLaunch.lbase % 8 = 0 → s.curLaunch.hdr.lmem ≤ Config.windowBytes →
      (ready 64 → StoresLocal (.cstorAcc xa xn acb) s 0#3 a (64 * n) (word k.acc false)) ∧
      (ready 64 → integer → StoresLocal (.cstorL0 xa xn acb) s 0#3 a (64 * n) (word k.l0 false)) ∧
      (ready 64 → ¬integer → StoresLocal (.cstorL0 xa xn acb) s 0#3 a (64 * n) (word k.l0 true)) ∧
      (ready 64 → StoresLocal (.cstorL1 xa xn acb) s 0#3 a (64 * n) (word k.l1 true)) ∧
      (ready 1 → StoresLocal (.cstorCnt xa xn acb) s 0#3 a n fun j =>
        ((lookup k.cnt (col + j / 8)).getD 0#7).getLsbD (j % 8)) ∧
      (ready 64 → s.Unpoisoned a (64 * n) → ∃ t new, exec (.cloadAcc xa xn acb) s = .next t ∧
        CubeBecomes s t { k with acc := new } ∧ lane k.acc new) ∧
      (ready 64 → s.Unpoisoned a (64 * n) → ∃ t new, exec (.cloadL0 xa xn acb) s = .next t ∧
        CubeBecomes s t { k with l0 := new } ∧ lane k.l0 new) ∧
      (ready 64 → s.Unpoisoned a (64 * n) → ∃ t new, exec (.cloadL1 xa xn acb) s = .next t ∧
        CubeBecomes s t { k with l1 := new } ∧ lane k.l1 new) ∧
      (ready 1 → s.Unpoisoned a n → ∃ t new, exec (.cloadCnt xa xn acb) s = .next t ∧
        CubeBecomes s t { k with cnt := new } ∧ ∀ j, (lookup new j).getD 0#7 =
          if cols j then (s.lbyte (a + (j - col))).setWidth 7 else (lookup k.cnt j).getD 0#7) ∧
      (ready 64 → ∀ w, 8 * w < 64 * n → (a + 8 * w) / 8 ∈ s.curCore.lpoison → s.Unpoisoned a (8 * w) →
        ∀ i ∈ [Instr.cloadAcc xa xn acb, .cloadL0 xa xn acb, .cloadL1 xa xn acb],
          TrapsWith i s .poison (va + BitVec.ofNat 64 (8 * w)) 0#64)) ∧
    -- CZERO
    (¬mayUse → TrapsWith (.czero xn acb) s .cubeOwner 0#64 0#64) ∧
    (mayUse → ¬rows → TrapsWith (.czero xn acb) s .cubeShape 0#64 1#64) ∧
    (mayUse → rows → ¬col + n ≤ 512 → TrapsWith (.czero xn acb) s .cubeShape 0#64 2#64) ∧
    (mayUse → rows → col + n ≤ 512 → ¬CubeQuiet s → LosesTurn (.czero xn acb) s) ∧
    (mayUse → rows → col + n ≤ 512 → CubeQuiet s → ∃ (t : State) (q : Cube), exec (.czero xn acb) s = .next t ∧
      CubeBecomes s t { k with l0 := q.l0, l1 := q.l1, acc := q.acc, cnt := q.cnt } ∧
      (∀ m j, j < 512 → (cols j → cellOf q.l0 m j = 0#32 ∧ cellOf q.l1 m j = 0#32 ∧ cellOf q.acc m j = 0#32) ∧
        (¬cols j → cellOf q.l0 m j = cellOf k.l0 m j ∧ cellOf q.l1 m j = cellOf k.l1 m j ∧
          cellOf q.acc m j = cellOf k.acc m j)) ∧
      ∀ j, (lookup q.cnt j).getD 0#7 = if cols j then 0#7 else (lookup k.cnt j).getD 0#7)

/-- R346: CRING of the supervisor's level writes the newest ring entries, each as the 32 bytes of R338, to local memory
newest first, and nothing when asked for none; an instruction that has sent stores loses turns until they are
acknowledged. -/
def Says.RingDump : Prop :=
  ∀ (s : State) (xa xn : BitVec 6),
    let i : Instr := .cring xa xn
    let va := s.rx xa
    let k := min (s.rx xn).toNat 64
    let ring := (s.core s.iss.core).ring
    let field (e : RingEnt) (w : Nat) : Word :=
      if w = 0 then 0#10 ++ e.passes ++ e.opc ++ 0#4 ++ e.st ++ e.tid ++ e.seq else if w = 1 then e.pc
      else if w = 2 then e.snap0 else e.snap1
    (s.cur.lvl.toNat < 1 → TrapsWith i s .privilege 0#64 0#64) ∧
    (1 ≤ s.cur.lvl.toNat → s.cur.prog = none → va.toNat % 32 ≠ 0 → TrapsWith i s .alignment va 0#64) ∧
    (1 ≤ s.cur.lvl.toNat → s.cur.prog = none → va.toNat % 32 = 0 → k = 0 → exec i s = .next s) ∧
    (1 ≤ s.cur.lvl.toNat → s.cur.prog = none → va.toNat % 32 = 0 → 0 < k → Config.windowBase ≤ va.toNat →
      va.toNat - Config.windowBase + 32 * k ≤ s.curLaunch.hdr.lmem → s.curLaunch.hdr.lmem ≤ Config.windowBytes →
      s.curLaunch.lbase % 8 = 0 → s.curCore.fill = none → (ring = [] → exec i s = .next s) ∧
      (ring ≠ [] → StoresLocal i s 0#3 (s.localOf va) (32 * min k ring.length) fun j =>
        ((ring[j / 256]?).map fun e => (field e (j / 64 % 4)).getLsbD (j % 64)).getD false)) ∧
    ∀ p : Prog, 1 ≤ s.cur.lvl.toNat → s.cur.prog = some p →
      ((∀ id ∈ p.ids, ∀ m ∈ s.net, m.id ≠ id) → exec i s = .next s) ∧
      ((∃ m ∈ s.net, m.id ∈ p.ids) → ∃ t, exec i s = .next t ∧ t.iss.st = .lost ∧
        t.cur = { s.cur with pc := s.iss.pc, prog := some ⟨1, p.ids, 0#64⟩ })

/-- R347: CRETRY of the supervisor's level requeues the newest cube command of its number when that is faulted or cancelled
and no older such command still waits for its retry, from a pass that it had completed before, under its own number and
configuration. -/
def Says.CubeRetries : Prop :=
  ∀ (s : State) (xa xb : BitVec 6),
    let i : Instr := .cretry xa xb
    let c := s.iss.core
    let k := s.core c
    let q : BitVec 16 := (s.rx xa).setWidth 16
    let p := (s.rx xb).toNat
    let isCube (e : RingEnt) : Prop := e.opc = 0xD3#8 ∨ e.opc = 0xD4#8
    let stopped (e : RingEnt) : Prop := isCube e ∧ (e.st = 2#3 ∨ e.st = 3#3)
    (s.cur.lvl.toNat < 1 → TrapsWith i s .privilege 0#64 0#64) ∧
    (1 ≤ s.cur.lvl.toNat → (∀ e ∈ k.ring, ¬(e.seq = q ∧ isCube e)) → TrapsWith i s .cubeShape 0#64 12#64) ∧
    ∀ newer e older, 1 ≤ s.cur.lvl.toNat → k.ring = newer ++ e :: older → e.seq = q → isCube e →
        (∀ x ∈ newer, ¬(x.seq = q ∧ isCube x)) →
      let late := (e.st = 3#3 ∧ p ≠ 0) ∨ (e.st = 2#3 ∧ e.passes.toNat < p)
      let first := stopped e ∧ ∀ x ∈ older, ¬stopped x
      (¬first → TrapsWith i s .cubeShape 0#64 12#64) ∧
      (first → late → TrapsWith i s .cubeShape 0#64 13#64) ∧
      (first → ¬late → 2 ≤ k.cube.queue.length → LosesTurn i s) ∧
      (first → ¬late → k.cube.queue.length < 2 → ∃ (t : State) (m : CubeCmd), exec i s = .next t ∧
        t.core c = { k with
          ring := k.ring.map fun x => if x = e then { e with st := 0#3, passes := BitVec.ofNat 6 p, flags := 0#4 } else x
          cube := { k.cube with queue := k.cube.queue ++ [m] } } ∧
        (∀ j, j ≠ c → t.core j = s.core j) ∧ t = { s with cores := t.cores } ∧
        m.seq = q ∧ m.tid = e.tid ∧ m.pc = e.pc ∧ (m.prom = true ↔ e.opc = 0xD4#8) ∧ m.cfg = e.snap1.extractLsb' 16 43 ∧
        m.offA = (e.snap0.extractLsb' 0 18).toNat ∧ m.offB = (e.snap0.extractLsb' 18 18).toNat ∧
        m.offG = (e.snap0.extractLsb' 36 18).toNat ∧ m.n16 = (e.snap0.extractLsb' 54 5).toNat + 1 ∧
        m.acb = (e.snap1.extractLsb' 0 9).toNat ∧ m.spa = e.snap0.getLsbD 59 ∧ m.za = e.snap0.getLsbD 60 ∧
        m.nsc = (e.snap0.extractLsb' 61 2).toNat ∧ m.pass = p ∧ m.flags = e.flags ∧ m.readyAt = k.cyc + 1)

/-! ### The array at work (R195, R219, R222 to R227, R232, R337) -/

/-- Bits of a list of local bytes. -/
def tileOf (s : State) (c a n : Nat) : List Byte := (List.range n).map fun i => Memory.get (s.core c).lmem (a + i)

/-- No word that `n` local bytes of core `c` touch is poisoned. -/
def cleanAt (s : State) (c a n : Nat) : Prop := ∀ i < n, (a + i) / 8 ∉ (s.core c).lpoison

/-- The first word that `n` local bytes of core `c` touch and that is poisoned starts at byte `w`. -/
def struckAt (s : State) (c a n w : Nat) : Prop :=
  w % 8 = 0 ∧ w / 8 ∈ (s.core c).lpoison ∧ (∃ i < n, (a + i) / 8 = w / 8) ∧ ∀ i < n, (a + i) / 8 < w / 8 → (a + i) / 8 ∉ (s.core c).lpoison

/-- R195, R219: CUBE_DISPATCH: the idle array takes the oldest waiting command from its first cycle on. A CPROM takes
2 + N / 16 cycles; a dense CMUL reads its tiles in a lead-in of Ceil(LB / 512) cycles, before its first pass. -/
def Says.CubeDispatches : Prop :=
  ∀ (s : State) (c : Nat) (m : CubeCmd) (rest : List CubeCmd),
      (s.core c).cube.exec = none → (s.core c).cube.queue = m :: rest →
    let k := s.core c
    let now (m' : CubeCmd) : Prop := ∃ t, exec (.cubeDispatch c) s = .next t ∧
      t.core c = { k with cube := { k.cube with queue := rest, exec := some m' } } ∧ (∀ i, i ≠ c → t.core i = s.core i) ∧
      t = { s with cores := t.cores }
    let na := extentA m.cfg false
    let ng := if m.cfg.extractLsb' 12 3 = 1#3 ∨ m.cfg.extractLsb' 12 3 = 3#3 then extentG m.cfg m.n16 else 0
    let pb := panelB m.cfg + if m.cfg.extractLsb' 12 3 = 2#3 ∨ m.cfg.extractLsb' 12 3 = 4#3 then panelG m.cfg else 0
    let stage := ((s.core c).part.map fun d => (s.dom d).acct.stage).getD 0
    let steps := planeSteps (m.cfg.extractLsb' 0 4).toNat
    (k.cyc < m.readyAt → exec (.cubeDispatch c) s = .next s) ∧
    (m.readyAt ≤ k.cyc → m.prom = true → now { m with readyAt := k.cyc + 2 + m.n16 }) ∧
    (m.readyAt ≤ k.cyc → m.prom = false → m.spa = false → cleanAt s c (m.lbase + m.offA) na → cleanAt s c (m.lbase + m.offG) ng →
      now { m with
        tileA := tileOf s c (m.lbase + m.offA) na, tileG := tileOf s c (m.lbase + m.offG) ng, bad := none,
        readyAt := k.cyc + (na + ng + 511) / 512 +
          max (steps * (if stage = 0 then 1 else if stage = 1 then 2 else 4)) ((pb + 511) / 512) })

/-- R222: the slab sum of finite products not all zero: with E the leading bit of the largest, the products are truncated to
multiples of 2^(E − 47), summed exactly and rounded once; a sum of zero is +0. Products all zero give −0 when every one is
−0. A NaN, or infinities of both signs, give NaN; else an infinity. -/
def Says.SlabSums : Prop :=
  ∀ (ps : List FVal),
    let fin (p : FVal) : Prop := ∃ v, p = .fin v
    let m (p : FVal) : ℚ := match p with
      | .fin v => |ratOf v|
      | _ => 0
    let neg (p : FVal) : Bool := match p with
      | .fin v => v.neg
      | _ => false
    (.nan ∈ ps ∨ (.inf true ∈ ps ∧ .inf false ∈ ps) → slabSum ps = (0x01FF0000, false)) ∧
    (.nan ∉ ps → .inf true ∈ ps → .inf false ∉ ps → slabSum ps = (0x03FE0000, false)) ∧
    (.nan ∉ ps → .inf true ∉ ps → .inf false ∈ ps → slabSum ps = (0x01FE0000, false)) ∧
    ((∀ p ∈ ps, fin p ∧ m p = 0) → slabSum ps = (if ∀ p ∈ ps, neg p = true then 0x02000000 else 0, false)) ∧
    ∀ (E : Int), (∀ p ∈ ps, ∃ v, p = .fin v ∧ v.more = false) → (∃ p ∈ ps, (2 : ℚ) ^ E ≤ m p) → (∀ p ∈ ps, m p < (2 : ℚ) ^ (E + 1)) →
      let u := (2 : ℚ) ^ (E - 47)
      let S : Int := (ps.map fun p => if neg p then -⌊m p / u⌋ else ⌊m p / u⌋).foldl (· + ·) 0
      slabSum ps = if S = 0 then (0, false) else
        let r := roundFlt 11 0 false (.fin ⟨decide (S < 0), S.natAbs, E - 47, false⟩) ⟨0#5, 1#64⟩
        (r.1, r.2.flags.getLsbD 2)

/-- R222 to R224, R338: CUBE_PASS_END of a dense CMUL in a floating mode with one block lane: each element of the pass's 16
columns receives the slab sum of its row and column, rounded into its lane; the column's count goes up by one, and where it
reaches PINT the lane is promoted into ACC and cleared, and the count is zero. Columns outside the pass stay. -/
def Says.CubePasses : Prop :=
  ∀ (s : State) (c : Nat) (m : CubeCmd), (s.core c).cube.exec = some m → m.prom = false → m.pass < m.n16 →
      m.readyAt ≤ (s.core c).cyc → m.bad = none → m.spa = false → m.za = false → m.acb + 16 * m.n16 ≤ 512 →
      m.cfg.getLsbD 24 = false → (m.cfg.extractLsb' 0 4).toNat ≠ 6 → (m.cfg.extractLsb' 0 4).toNat ≠ 7 →
    let k := (s.core c).cube
    let gm := (m.cfg.extractLsb' 12 3).toNat
    let ng := if gm = 2 ∨ gm = 4 then panelG m.cfg else 0
    let bAt := m.lbase + m.offB + m.pass * panelB m.cfg
    let gAt := m.lbase + m.offG + m.pass * panelG m.cfg
    let pint := (m.cfg.extractLsb' 32 7).toNat
    let A := faceA m.cfg (denseA (m.cfg.extractLsb' 0 4).toNat m.tileA) m.tileG
    let B := faceB m.cfg (tileOf s c bAt (panelB m.cfg)) (tileOf s c gAt ng)
    cleanAt s c bAt (panelB m.cfg) → cleanAt s c gAt ng →
    ∃ (t : State) (q : Cube) (m' : CubeCmd), exec (.cubePassEnd c) s = .next t ∧ (t.core c).cube = q ∧
      q = { k with l0 := q.l0, l1 := q.l1, acc := q.acc, cnt := q.cnt, exec := some m' } ∧
      m' = { m with pass := m.pass + 1, flags := m'.flags, readyAt := m'.readyAt } ∧
      t.core c = { s.core c with cube := q, ring := (t.core c).ring } ∧ (∀ i, i ≠ c → t.core i = s.core i) ∧
      t = { s with cores := t.cores } ∧
      ∀ r < 16, ∀ j < 512, let j' := j - (m.acb + 16 * m.pass)
        let slab := slabSum (((A.getD r []).zip (B.getD j' [])).filterMap fun x => x.1.map fun a => (fMul a x.2 ⟨0#5, 1#64⟩).1)
        let sum := (cubeAdd 11 (valueOf 11 (cellOf k.l0 r j).toNat) (valueOf 11 slab.1)).1
        let n := min 127 (((lookup k.cnt j).getD 0#7).toNat + 1)
        if m.acb + 16 * m.pass ≤ j ∧ j < m.acb + 16 * m.pass + 16 then
          cellOf q.l1 r j = cellOf k.l1 r j ∧
          if n < pint then
            cellOf q.l0 r j = BitVec.ofNat 32 sum ∧ cellOf q.acc r j = cellOf k.acc r j ∧
              ((lookup q.cnt j).getD 0#7).toNat = n
          else
            cellOf q.l0 r j = 0#32 ∧ ((lookup q.cnt j).getD 0#7).toNat = 0 ∧
              cellOf q.acc r j = BitVec.ofNat 32 (cubeAdd 0 (valueOf 0 (cellOf k.acc r j).toNat) (valueOf 11 (sum % 2 ^ 32))).1
        else
          cellOf q.l0 r j = cellOf k.l0 r j ∧ cellOf q.l1 r j = cellOf k.l1 r j ∧ cellOf q.acc r j = cellOf k.acc r j ∧
            (lookup q.cnt j).getD 0#7 = (lookup k.cnt j).getD 0#7

/-- Between `s` and `t` the executing command of core `c` has left the array with the cube at `q`: an owner that has ended
gives it up with its last command unless requests of its release are under way (R273), and threads that wait for a command no longer pending return to rotation (R118, R220,
R230). -/
def CommandLeft (s t : State) (c : Nat) (q : Cube) : Prop :=
  let pending (n : BitVec 16) : Bool := q.queue.any fun x => x.seq == n
  (t.core c).cube = (if q.leaving = true ∧ q.after = [] ∧ q.queue = [] then { q with owner := none, leaving := false } else q) ∧
  ∀ sl, t.thread? c sl = (s.thread? c sl).map fun x => match x.st with
    | .parked (.cube n) => if pending n then x else { x with st := .ready, startAt := max x.startAt ((s.core c).cyc + 1) }
    | _ => x

/-- R217, R219, R220, R226, R227: CUBE_COMMAND_COMPLETE at the end of a command's time: its CUBEST flags land, DONE takes its
number, its ring entry is completed, and its waiters return to rotation. A CPROM promotes its columns then. -/
def Says.CubeCompletes : Prop :=
  ∀ (s : State) (c : Nat) (m : CubeCmd), (s.core c).cube.exec = some m → m.readyAt ≤ (s.core c).cyc →
      keysRise (s.core c).slots = true →
    let k := (s.core c).cube
    let entry (t : State) (m : CubeCmd) : Prop := ∀ e, (s.core c).ring.find? (fun e => e.seq == m.seq && e.isCube) = some e →
      (t.core c).ring = (s.core c).ring.map fun x => if x = e then { e with st := 1#3, passes := BitVec.ofNat 6 m.pass } else x
    (m.prom = false → m.n16 ≤ m.pass → ¬(m.flags.getLsbD 2 = true ∧ m.cfg.getLsbD 41 = true) →
        ¬(m.flags.getLsbD 3 = true ∧ m.cfg.getLsbD 42 = true) →
      ∃ t, exec (.cubeCommandComplete c) s = .next t ∧ entry t m ∧
        CommandLeft s t c { k with exec := none, done := m.seq, sticky := k.sticky ||| m.flags }) ∧
    (m.prom = true → m.nsc = 0 → m.cfg.getLsbD 24 = false → m.acb + 16 * m.n16 ≤ 512 → m.flags = 0#4 →
      ∃ (t : State) (q : Cube) (ovf : Bool), exec (.cubeCommandComplete c) s = .next t ∧ entry t m ∧
        CommandLeft s t c { k with l0 := q.l0, l1 := q.l1, acc := q.acc, cnt := q.cnt, exec := none, done := m.seq,
                                   sticky := k.sticky ||| (if ovf then 1#4 else 0#4) } ∧
        ∀ r < 16, ∀ j < 512,
          if m.acb ≤ j ∧ j < m.acb + 16 * m.n16 then
            cellOf q.l0 r j = 0#32 ∧ cellOf q.l1 r j = 0#32 ∧ (lookup q.cnt j).getD 0#7 = 0#7 ∧
            cellOf q.acc r j = BitVec.ofNat 32 (cubeAdd 0 (valueOf 0 (cellOf k.acc r j).toNat)
              (fScale (valueOf 11 (cellOf k.l0 r j).toNat) 0)).1
          else
            cellOf q.l0 r j = cellOf k.l0 r j ∧ cellOf q.l1 r j = cellOf k.l1 r j ∧ cellOf q.acc r j = cellOf k.acc r j ∧
              (lookup q.cnt j).getD 0#7 = (lookup k.cnt j).getD 0#7)

/-- R232, R334, R337: an uncorrectable error in an operand stream abandons the pass: the columns stay as they were at its
start, the ring entry is faulted with the passes completed, and the late Cube-Data fault cancels the thread's later
commands. CUBE_DATA_ERROR raises it at a word of the stream; CUBE_PASS_END at the first poisoned word of the B panel. -/
def Says.CubeDataFaults : Prop :=
  ∀ (s : State) (c : Nat) (m : CubeCmd) (x : Thread), (s.core c).cube.exec = some m → (s.core c).cube.queue = [] →
      s.thread? c m.slot = some x → x.gen = m.gen → x.st = .ready → m.slot < 15 → m.prom = false → m.pass < m.n16 → m.pass < 64 →
      keysRise (s.core c).slots = true →
    let b := m.lbase + m.offB + m.pass * panelB m.cfg
    let struck (t : State) (stream w : Nat) : Prop :=
      (t.core c).cube = (if (s.core c).cube.leaving = true ∧ (s.core c).cube.after = [] then { (s.core c).cube with exec := none, owner := none, leaving := false }
        else { (s.core c).cube with exec := none }) ∧
      t.thread c m.slot = { x with late := true, lastTrap := some (m.pc, false) } ∧
      (∃ r, (s.core c).Enters (t.core c).trapq r ∧ r.w0.extractLsb' 0 8 = 0x0C#8 ∧ r.w0.extractLsb' 8 8 = 1#8 ∧
        r.w0.extractLsb' 16 17 = tidOf c m.slot ∧ r.w0.extractLsb' 48 16 = m.seq ∧ r.w1 = m.pc ∧
        r.w2 = BitVec.ofNat 64 (Config.windowBase + (w - m.lbase)) ∧ r.w3 = BitVec.ofNat 64 (m.pass + 256 * stream)) ∧
      ∀ e, (s.core c).ring.find? (fun e => e.seq == m.seq && e.isCube) = some e → (t.core c).ring = (s.core c).ring.map fun y =>
        if y = e then { e with st := 2#3, passes := BitVec.ofNat 6 m.pass, flags := m.flags } else y
    (∀ w, m.readyAt ≤ (s.core c).cyc → m.bad = none → struckAt s c b (panelB m.cfg) w →
      ∃ t, exec (.cubePassEnd c) s = .next t ∧ struck t 1 w) ∧
    (0 < panelB m.cfg → ∃ t w, exec (.cubeDataError c 1#2) s = .next t ∧ struck t 1 w ∧ b ≤ w ∧ w < b + panelB m.cfg)

/-! ### Buffer handles (R285, R294 to R296) -/

/-- The status word `v` of a handle (R296): zero for one that is not allotted. -/
def StatusOf (h : Option Handle) (v : Word) : Prop :=
  match h with
  | none => v = 0#64
  | some h => v.extractLsb' 0 2 = h.st ∧ v.getLsbD 2 = h.err ∧ v.getLsbD 3 = true ∧ v.extractLsb' 4 4 = h.reason ∧
      v.extractLsb' 8 18 = BitVec.ofNat 18 h.base ∧ v.extractLsb' 26 6 = 0#6 ∧ v.extractLsb' 32 19 = BitVec.ofNat 19 h.len ∧
      v.extractLsb' 51 13 = 0#13

/-- Between `s` and `t` handle `hn` of launch `n` on core `c` has become `h`; threads that wait for a state it is in have
its status word and are ready, and nothing else of the core has changed (R294, R296). -/
def HandleIs (s t : State) (c n hn : Nat) (h : Option Handle) : Prop :=
  let met (sm : BitVec 4) : Prop := ∀ x, h = some x → sm.getLsbD x.st.toNat = true
  (t.core c).handle n hn = h ∧ (∀ m j, j < 64 → hn < 64 → (m, j) ≠ (n, hn) → (t.core c).handle m j = (s.core c).handle m j) ∧
  (∀ sl x, s.thread? c sl = some x →
    (∀ sm d, x.st = .parked (.handle hn sm d) → x.launch = n → met sm → ∃ y v, t.thread? c sl = some y ∧ StatusOf h v ∧
      y = { x with st := .ready, startAt := max x.startAt ((s.core c).cyc + 1), x := y.x } ∧
      y.getX d = (if d = 0#6 then 0#64 else v) ∧ ∀ r, r ≠ d → y.getX r = x.getX r) ∧
    ((∀ sm d, x.st = .parked (.handle hn sm d) → x.launch = n → ¬met sm) → t.thread? c sl = some x)) ∧
  t.core c = { s.core c with handles := (t.core c).handles, slots := (t.core c).slots } ∧
  (∀ i, i ≠ c → t.core i = s.core i) ∧ ∀ d, t.dom d = s.dom d

/-- R285, R294, R295, R296: the handle instructions. A number at or above .handles is a Protection trap. HSTAT gives the
status word; HWAIT gives it in a state that it names or when the handle is not allotted, and parks else; HSET.DRN moves full
to draining and HSET.FREE draining to free, with ERR and REASON cleared; HALLOC allots a handle that is not allotted to a
buffer in the region; HFREE unallots one that is not filling. -/
def Says.Handles : Prop :=
  ∀ (s : State) (d a b hn : BitVec 6) (sm : BitVec 4) (pd : BitVec 3),
    let c := s.iss.core
    let n := s.cur.launch
    let h := (s.core c).handle n hn.toNat
    let base := s.rx a
    let len := (s.rx b).toNat
    let all := [Instr.hstat d hn, .hwait d hn sm, .hsetDrn hn pd, .halloc a b hn pd, .hfree hn pd]
    let inside : Prop := hn.toNat < s.curLaunch.hdr.handles
    let moves (i : Instr) (x : Option Handle) : Prop := ∃ t u, exec i s = .next t ∧ HandleIs s u c n hn.toNat x ∧
      t.rp pd = true ∧ (∀ r, r ≠ pd → t.rp r = s.rp r) ∧ ∀ r, t.rx r = s.rx r
    let sized : Prop := base.toNat % 64 = 0 ∧ len % 64 = 0 ∧ 64 ≤ len ∧ len ≤ 262144
    let buffer : Prop := Config.windowBase ≤ base.toNat ∧ base.toNat < Config.windowBase + Config.windowBytes ∧
      base.toNat - Config.windowBase + len ≤ s.curLaunch.hdr.lmem
    let met : Prop := ∀ x, h = some x → sm.getLsbD x.st.toNat = true
    (¬inside → ∀ i ∈ all, ∃ extra, exec i s = .next (s.useFree.takeTrap .protection 0#64 extra) ∧ extra.toNat % 16 = 7) ∧
    (¬inside → s.curOutstanding = [] → ∃ extra, exec (.hsetFree hn pd) s = .next (s.useFree.takeTrap .protection 0#64 extra) ∧
      extra.toNat % 16 = 7) ∧
    (inside → WritesX (.hstat d hn) s d (StatusOf h)) ∧
    (inside → met → (∀ x, h = some x → x.st ≠ 2#2) → WritesX (.hwait d hn sm) s d (StatusOf h)) ∧
    (inside → met → (∃ x, h = some x ∧ x.st = 2#2) → ∃ t u, exec (.hwait d hn sm) s = .next t ∧
      selfInvalidated s u (s.agentOf c) ∧ u.Frame t [d] [] [] [] ∧
      ∃ v, StatusOf h v ∧ t.rx d = (if d = 0#6 then 0#64 else v)) ∧
    (inside → ¬met → s.iss.slot = 14 → TrapsWith (.hwait d hn sm) s .handlerBlock 0#64 0#64) ∧
    (inside → ¬met → s.iss.slot ≠ 14 → exec (.hwait d hn sm) s =
      .next (s.setThread c s.iss.slot { s.cur with st := .parked (.handle hn.toNat sm d) })) ∧
    (s.curOutstanding ≠ [] → LosesTurn (.hsetFree hn pd) s) ∧
    (inside → (∀ x, h = some x → x.st ≠ 2#2) → WritesP (.hsetDrn hn pd) s pd false) ∧
    (inside → s.curOutstanding = [] → (∀ x, h = some x → x.st ≠ 3#2) → WritesP (.hsetFree hn pd) s pd false) ∧
    (inside → ¬sized → TrapsWith (.halloc a b hn pd) s .alignment base 0#64) ∧
    (inside → sized → ¬buffer → ∃ extra, exec (.halloc a b hn pd) s = .next (s.useFree.takeTrap .protection base extra) ∧
      extra.toNat % 16 = 7) ∧
    (inside → sized → buffer → h ≠ none → WritesP (.halloc a b hn pd) s pd false) ∧
    (inside → (h = none ∨ ∃ x, h = some x ∧ x.st = 1#2) → WritesP (.hfree hn pd) s pd false) ∧
    (s.cur.st = .ready → keysRise (s.core c).slots = true →
      (∀ x, inside → h = some x → x.st = 2#2 → moves (.hsetDrn hn pd) (some { x with st := 3#2 })) ∧
      (∀ x, inside → s.curOutstanding = [] → h = some x → x.st = 3#2 →
        moves (.hsetFree hn pd) (some { x with st := 0#2, err := false, reason := 0#4 })) ∧
      (inside → sized → buffer → h = none →
        moves (.halloc a b hn pd) (some ⟨base.toNat - Config.windowBase, len, 0#2, false, 0#4⟩)) ∧
      ∀ x, inside → h = some x → x.st ≠ 1#2 → moves (.hfree hn pd) none)

/-! ### Publishing packets (R281, R282, R286, R287, R330) -/

/-- The little-endian word of `n` bytes at a physical address. -/
def wordAt (s : State) (d pa n : Nat) : Nat := Memory.read (s.dom d).mem pa n

/-- R286, R330: CQPUT and LAUNCH at issue: a header that is not 64-byte aligned is an Alignment trap, one in the local
window a Protection trap; else the claim leaves for the header's home and the thread waits for its reply. -/
def Says.ClaimsLeave : Prop :=
  ∀ (s : State) (d a b : BitVec 6) (pd : BitVec 3) (s1 : State) (pa : Nat) (e : TlbEnt),
    let h := s.rx a
    let words := (List.range 8).map fun j => s.rx (b + BitVec.ofNat 6 j)
    let claims : List (Instr × Bool) := [(.cqput d a b pd, false), (.launch d a b pd, true)]
    let inWin := Config.windowBase ≤ h.toNat ∧ h.toNat < Config.windowBase + Config.windowBytes
    (h.toNat % 64 ≠ 0 → ∀ x ∈ claims, TrapsWith x.1 s .alignment h 0#64) ∧
    (h.toNat % 64 = 0 → inWin → ∀ x ∈ claims, ∃ extra, exec x.1 s = .next (s.useFree.takeTrap .protection h extra) ∧
      extra.toNat % 16 = 7) ∧
    (h.toNat % 64 = 0 → ¬inWin → s.translateCur h .both = (s1, .ok pa e) → ∀ x ∈ claims, ∃ s2 t m, exec x.1 s = .next t ∧
      s2 = s1.flushLine (s1.agentOf s1.iss.core) s1.cur.dom pa ∧ s2.SendsAndWaits t m ∧
      m.kind = .claim x.2 h words s.cur.lvl ∧ m.pa = pa ∧ m.n = 32 ∧ m.va = h ∧ m.dst = .claim d pd)

/-- R286, R330: the claim at the header's home, in one indivisible step. An unbound queue, for LAUNCH also one that no launch
unit serves, answers 1; for LAUNCH a level below the queue's answers 3; a full one answers 2; else WI goes up by one and the
reply holds 0. The reply holds WI as it was, CAP and PRIO. -/
def Says.ClaimsAtHome : Prop :=
  ∀ (s : State) (id : Nat) (m : Msg) (launch : Bool) (h : Word) (w : List Word) (lvl : BitVec 2), s.AtHome id true m →
      id < s.nextId → m.kind = .claim launch h w lvl → (∀ r, ¬mustDrainFirst s m r) →
      (∀ i < 32, (m.pa + i) / 8 ∉ (s.dom m.dom).poison) →
    let wi := wordAt s m.dom m.pa 8
    let ri := wordAt s m.dom (m.pa + 8) 8
    let cap := wordAt s m.dom (m.pa + 16) 4
    let bind := BitVec.ofNat 64 (wordAt s m.dom (m.pa + 24) 8)
    let unbound : Prop := bind.getLsbD 31 = false ∨ (launch = true ∧ bind.extractLsb' 0 13 ≠ 0x1FFF#13)
    let low : Prop := launch = true ∧ lvl.toNat < (bind.extractLsb' 20 2).toNat
    let full : Prop := cap ≤ (BitVec.ofNat 64 wi - BitVec.ofNat 64 ri).toNat
    let answers (u t : State) (code : Nat) : Prop := ∃ m', u.NowIs t id m' ∧ m'.st = .replied ∧
      m'.data.extractLsb' 0 64 = BitVec.ofNat 64 code ∧ m'.data.extractLsb' 64 64 = BitVec.ofNat 64 wi ∧
      m'.data.extractLsb' 128 64 = BitVec.ofNat 64 cap ∧ m'.data.extractLsb' 192 64 = (bind.extractLsb' 16 3).setWidth 64 ∧
      t = { u with net := t.net }
    ∃ s1 t, s.UsesHome s1 m ∧ s1 = { s with doms := s1.doms } ∧ exec (.atomicAtHome id) s = .next t ∧
      (unbound → answers s1 t 1) ∧ (¬unbound → low → answers s1 t 3) ∧ (¬unbound → ¬low → full → answers s1 t 2) ∧
      (¬unbound → ¬low → ¬full → ∃ u, s1.HomeWrite u m.dom m.launch m.pa 8 (fun _ => true) (BitVec.ofNat 64 (wi + 1)).getLsbD ∧
        answers u t 0)

/-- R286, R330: the reply of a claim. An unbound queue gives X[D] = 2^64 − 2 and a full one 2^64 − 1, with P[PD] = 0; a
level too low is a Protection trap at the header; poison of the header is a Poison trap. A claimed slot that does not
translate for writing raises its fault at the slot's address, with the index in bits 63:32 of the extra word, and a slot
that denies the write is made a NOP packet of the right phase by a store to its home. Else X[D] is the index and P[PD] = 1. -/
def Says.ClaimReplies : Prop :=
  ∀ (s : State) (id : Nat) (m : Msg) (launch : Bool) (h : Word) (w : List Word) (lvl : BitVec 2) (x : Thread) (d : BitVec 6)
      (pd : BitVec 3), s.findMsg id = some m → m.kind = .claim launch h w lvl → m.st = .replied → Waiting s m x →
      m.dst = .claim d pd →
    let code := (m.data.extractLsb' 0 64).toNat
    let i := (m.data.extractLsb' 64 64).toNat
    let cap := (m.data.extractLsb' 128 64).toNat
    let phase := (i / cap + 1) % 2
    let slot := h + 64#64 + BitVec.ofNat 64 (64 * (i % cap))
    let scope : Nat := if launch then 2 else min 6 ((w.getD 0 0).extractLsb' 28 3).toNat
    let u := s.dropMsg id
    let as : State := { u with iss := { u.iss with
      core := m.core, slot := m.slot, pc := m.pc, npc := m.npc, pair := m.pair, st := .issued } }
    let answered (t : State) (v : Word) (ok : Bool) : Prop :=
      let y := t.thread m.core m.slot
      y = { rotated s m x with x := y.x, p := y.p } ∧ y.getX d = (if d = 0#6 then 0#64 else v) ∧ y.getP pd = (pd == 0#3 || ok) ∧
        (∀ r, r ≠ d → y.getX r = x.getX r) ∧ ∀ r, r ≠ pd → y.getP r = x.getP r
    let i' : Instr := .loadReplyArrival id
    (m.poisoned = true → exec i' s = .next (u.raiseAt m.core m.slot .poison h 0#64 m.pc m.npc m.pair)) ∧
    (m.poisoned = false → code = 1 → ∃ t, exec i' s = .next t ∧ answered t 0xFFFFFFFFFFFFFFFE#64 false ∧
      t = u.setThread m.core m.slot (t.thread m.core m.slot)) ∧
    (m.poisoned = false → code = 2 → ∃ t, exec i' s = .next t ∧ answered t 0xFFFFFFFFFFFFFFFF#64 false ∧
      t = u.setThread m.core m.slot (t.thread m.core m.slot)) ∧
    (m.poisoned = false → code = 3 → ∃ extra, exec i' s = .next (as.useFree.takeTrap .protection h extra) ∧
      extra.toNat % 16 = 7) ∧
    (m.poisoned = false → code = 0 → 0 < cap → (1 ≤ scope → s.foldBlocks m.agent = false) →
        (scope = 0 → s.outstanding m.core m.slot = []) →
      (∀ s1 info, as.translateCur slot .write = (s1, .fail .translation info) → exec i' s = .next
        (s1.raiseAt m.core m.slot .translation slot (BitVec.ofNat 32 i ++ BitVec.ofNat 32 info) m.pc m.npc m.pair)) ∧
      (∀ s1 s2 info pa e, as.translateCur slot .write = (s1, .fail .protection info) →
        s1.translateCur slot .any = (s2, .ok pa e) → ∃ w7 : Word, w7.extractLsb' 32 32 = BitVec.ofNat 32 i ∧
          w7.extractLsb' 1 7 = 0#7 ∧ (w7.getLsbD 0 = true ↔ phase = 1) ∧ w7.extractLsb' 8 24 = (w.getD 7 0).extractLsb' 8 24 ∧
          ∃ st : Msg, st.kind = .store ∧ st.core = m.core ∧ st.slot = m.slot ∧ st.gen = x.gen ∧ st.dom = x.dom ∧
            st.launch = x.launch ∧ st.pa = pa ∧ st.n = 64 ∧ st.wait = false ∧ st.data.extractLsb' 0 448 = 0#448 ∧
            st.data.extractLsb' 448 64 = w7 ∧ exec i' s = .next ((s2.post st).raiseAt m.core m.slot .protection slot
              (BitVec.ofNat 32 i ++ BitVec.ofNat 32 info) m.pc m.npc m.pair)) ∧
      (∀ s1 pa e, as.translateCur slot .write = (s1, .ok pa e) → ∃ t, exec i' s = .next t ∧
        let y := t.thread m.core m.slot
        y.getX d = (if d = 0#6 then 0#64 else BitVec.ofNat 64 i) ∧ y.getP pd = true ∧
          (∀ r, r ≠ d → y.getX r = x.getX r) ∧ ∀ r, r ≠ pd → y.getP r = x.getP r) ∧
      (∀ s1 pa e, as.translateCur slot .write = (s1, .ok pa e) → 1 ≤ scope → ∃ t r, exec i' s = .next t ∧ r ∈ t.net ∧
        r.kind = .release ∧ r.pa = pa + 56 ∧ r.n = 8 ∧ r.scope = scope ∧ r.wait = false ∧
        r.data.extractLsb' 32 32 = BitVec.ofNat 32 i ∧ (r.data.getLsbD 0 = true ↔ phase = 1) ∧
        r.data.extractLsb' 1 7 = 0#7 ∧ r.data.extractLsb' 8 24 = (w.getD 7 0).extractLsb' 8 24 ∧ r.epoch = t.epochOf (s.agentOf m.core)))

/-- R287, R288: CQINIT. BIND checks its operands, alignment and every page of the queue; at the header's home it refuses when
the engine has 8 queues, the launch's .sluice would be passed or the queue is bound, and else writes the header, {0, 0, CAP,
BIND}, and binds the queue. UNB of a queue that is not bound here by the launch clears P[PD]; else it clears BOUND, and
completes once the engine has no packet of the queue. -/
def Says.QueueBinding : Prop :=
  ∀ (s : State) (a b : BitVec 6) (pd : BitVec 3) (s1 s2 : State) (pa : Nat) (e : TlbEnt),
    let i : Instr := .cqinitBind a b pd
    let j : Instr := .cqinitUnb a pd
    let h := s.rx a
    let v := s.rx b
    let cap := (v.extractLsb' 0 32).toNat
    let prio := (v.extractLsb' 32 3).toNat
    let c := s.iss.core
    let k := s.core c
    let wellFormed : Prop := v.extractLsb' 35 29 = 0#29 ∧ ∃ n, 1 ≤ n ∧ n ≤ 20 ∧ cap = 2 ^ n
    let inWin := Config.windowBase ≤ h.toNat ∧ h.toNat < Config.windowBase + Config.windowBytes
    let mine (q : EngQueue) : Prop := q.va = h ∧ q.launch = s.cur.launch ∧ q.dom = s.cur.dom
    let bind := BitVec.ofNat 64 (wordAt s s.cur.dom (pa + 24) 8)
    let clean (u : State) : Prop := (u.dom s.cur.dom).mem = (s.dom s.cur.dom).mem ∧ u.cur = { s.cur with prog := none } ∧
      (∀ i, (u.core i).eng = (s.core i).eng) ∧ u.curLaunch.hdr = s.curLaunch.hdr
    -- no request of the core is on its way to the header
    let quiet (u : State) : Prop := u.onWay u.curAgent s.cur.dom (pa / 128) (lineMask (pa % 128) 32) u.nextId = false
    -- the home uses the header's line
    let uses (u w : State) : Prop := w = { u with doms := w.doms } ∧ (∀ d, d ≠ s.cur.dom → w.dom d = u.dom d) ∧
      (u.dom s.cur.dom).Used (w.dom s.cur.dom) (pa / 128) u.cycle ∧
      w.dom s.cur.dom = { u.dom s.cur.dom with
        l2 := (w.dom s.cur.dom).l2, llc := (w.dom s.cur.dom).llc, dir := (w.dom s.cur.dom).dir }
    (¬wellFormed → TrapsWith i s .illegalInstruction 0#64 0#64) ∧
    (wellFormed → h.toNat % 64 ≠ 0 → TrapsWith i s .alignment h 0#64) ∧
    (wellFormed → h.toNat % 64 = 0 → inWin → ∃ extra, exec i s = .next (s.useFree.takeTrap .protection h extra) ∧
      extra.toNat % 16 = 7) ∧
    (∀ cause f info, wellFormed → h.toNat % 64 = 0 → ¬inWin → cause ≠ .poison →
      s.translateAll h .both (pagesOf h (64 + 64 * cap)) = .ok (s1, some (cause, f, info)) →
      exec i s = .next (s1.takeTrap cause f (BitVec.ofNat 64 info))) ∧
    (wellFormed → h.toNat % 64 = 0 → ¬inWin → s.translateAll h .both (pagesOf h (64 + 64 * cap)) = .ok (s1, none) →
      s1.translateCur h .both = (s2, .ok pa e) → s.cur.prog = none → (s2.cache (s2.agentOf c)).find s.cur.dom (pa / 128) = none →
      clean s2 → s2.iss = s.iss → quiet s2 → s2.gate s.cur.dom pa 0 true = .ready s2 → (∀ n < 64, (pa + n) / 8 ∉ (s2.dom s.cur.dom).poison) →
      let bound := s2.boundCap s.cur.launch s.cur.dom
      ((8 ≤ k.eng.queues.length ∨ s.curLaunch.hdr.sluice < bound + cap ∨ bind.getLsbD 31 = true) →
        ∃ s3 t, uses s2 s3 ∧ exec i s = .next t ∧ t.rp pd = (pd == 0#3) ∧ (∀ d, t.dom d = s3.dom d)) ∧
      (k.eng.queues.length < 8 → bound + cap ≤ s.curLaunch.hdr.sluice → bind.getLsbD 31 = false →
        ∃ s3 t u, uses s2 s3 ∧ exec i s = .next t ∧ t.rp pd = true ∧
          s3.HomeWrite u s.cur.dom s.cur.launch pa 32 (fun _ => true)
            (BitVec.ofNat 256 (cap * 2 ^ 128 + (coreNum c + 65536 * prio + 2 ^ 31) * 2 ^ 192)).getLsbD ∧
          (∀ d, t.dom d = u.dom d) ∧ (t.core c).eng.queues = k.eng.queues ++
            [⟨h, s.cur.launch, s.cur.dom, s.cur.asn, s.cur.root, prio, cap, 0⟩])) ∧
    (s.cur.prog = none → (∀ q ∈ k.eng.queues, ¬mine q) → WritesP j s pd false) ∧
    (s.cur.prog = some ⟨2, [], 0#64⟩ → (∀ x, k.eng.cur = some x → ¬(x.qva = h ∧ x.launch = s.cur.launch)) → WritesP j s pd true) ∧
    (∀ x, s.cur.prog = some ⟨2, [], 0#64⟩ → k.eng.cur = some x → x.qva = h → x.launch = s.cur.launch →
      ∃ t, exec j s = .next t ∧ t.iss.st = .lost ∧ t.cur = { s.cur with pc := s.iss.pc }) ∧
    ((∃ q ∈ k.eng.queues, mine q) → s.translateCur h .both = (s2, .ok pa e) → s.cur.prog = none →
      clean s2 → s2.iss = s.iss → (s2.cache (s2.agentOf c)).find s.cur.dom (pa / 128) = none →
      quiet s2 → s2.gate s.cur.dom pa 0 true = .ready s2 →
      (∀ n < 64, (pa + n) / 8 ∉ (s2.dom s.cur.dom).poison) → (∀ x, k.eng.cur = some x → ¬(x.qva = h ∧ x.launch = s.cur.launch)) →
      ∃ s3 t u, uses s2 s3 ∧ exec j s = .next t ∧ t.rp pd = true ∧
        s3.HomeWrite u s.cur.dom s.cur.launch (pa + 24) 8 (fun _ => true) (bind &&& 0xFFFFFFFF7FFFFFFF#64).getLsbD ∧
        (∀ d, t.dom d = u.dom d) ∧ ∀ q, q ∈ (t.core c).eng.queues ↔ q ∈ k.eng.queues ∧ ¬mine q)

/-! ### The copy engine (R284, R289 to R293) -/

/-- Between `s` and `t` the engine of core `c` has come to hold the packet `x`, and nothing else has changed. -/
def EngineHolds (s t : State) (c : Nat) (x : Option Xfer) : Prop :=
  t.core c = { s.core c with eng := { (s.core c).eng with cur := x } } ∧ (∀ i, i ≠ c → t.core i = s.core i) ∧
    t = { s with cores := t.cores }

/-- Between `s` and `t` the home of one line has used the line (R244, R302), and nothing else has changed. -/
def Sys2Proof.Machine.State.UsesLine (s t : State) (d line : Nat) : Prop :=
  (s.dom d).Used (t.dom d) line s.cycle ∧
    t.dom d = { s.dom d with l2 := (t.dom d).l2, llc := (t.dom d).llc, dir := (t.dom d).dir } ∧
    (∀ i, i ≠ d → t.dom i = s.dom i) ∧ t = { s with doms := t.doms }

/-- R282, R289, R290, R291: COPY_PACKET_ACCEPT takes the next packet of the queue that the idle engine serves, once a record
that its acquire of scope 6 meets at the slot has been drained: RI goes up at the header's home and the queue expects the
next index. A packet that passes the checks is held, and its handle is filling; a NOP packet with the right SEQ completes at
once and touches no handle; any other is held as failed with its reason. The first failing check gives the reason: 6 for
poison of the slot, 8 for SEQ, 1 for the fields, 2 for a handle that is not allotted. While a packet is held, or an engine
record waits in its holding place, or no head is ready, nothing is taken. -/
def Says.CopyAccepts : Prop :=
  ∀ (s : State) (c : Nat),
    let i : Instr := .copyPacketAccept c
    let k := s.core c
    let idle : Prop := k.eng.cur = none ∧ ∀ r ∈ k.trapq.drop 16, r.w0.getLsbD 10 = false
    (¬idle → exec i s = .next s) ∧
    (idle → ∀ s0, s.chooseQueue c = (s0, none) → exec i s = .next (s.asked s0)) ∧
    ∀ (q : EngQueue) (pa hp : Nat), idle → s.chooseQueue c = (s, some (q, pa, hp)) → s.gateAll q.dom true [(hp, 8)] = .ok s →
        pa % 64 = 0 → hp % 64 = 0 → q ∈ k.eng.queues →
      let w := (List.range 8).map fun j => BitVec.ofNat 64 (wordAt s q.dom (pa + 8 * j) 8)
      let w0 := w.getD 0 0#64
      let opc := w0.extractLsb' 0 8
      let slot := q.va + 64#64 + BitVec.ofNat 64 (64 * (q.next % max q.cap 1))
      let hn := (w0.extractLsb' 16 6).toNat
      let hv := w0.getLsbD 8
      let h := k.handle q.launch hn
      let right : Prop := (w.getD 7 0#64).extractLsb' 32 32 = BitVec.ofNat 32 q.next
      let struck : Prop := ∃ n < 64, (pa + n) / 8 ∈ (s.dom q.dom).poison
      ∃ s1, s.UsesLine s1 q.dom (pa / 128) ∧
        (∀ r, s.slotDrain c q pa = some r → r.st = 1 → ∃ t m, exec i s = .next t ∧ t.net = s.net ++ [m] ∧ m.kind = .drain r.agent r.epoch 0 ∧
          m.dom = q.dom ∧ m.agent = 8192 + c ∧ (t.dom q.dom).recAt pa = some { r with st := 2 }) ∧
        (∀ r, s.slotDrain c q pa = some r → r.st ≠ 1 → exec i s = .next s1) ∧
        (s.slotDrain c q pa = none → ∀ s2 r, (struck → s2 = s1 ∧ r = .bad 6 slot) →
            (¬struck → s1.checkPacket c q slot w = (s2, r)) →
          (¬struck → ¬right → r = .bad 8 slot) ∧
          (¬struck → right → opc = 0#8 → r = .good none) ∧
          (¬struck → right → opc ≠ 0#8 → pktReserved w = true ∨ pktTransformsOk w h = false → r = .bad 1 slot) ∧
          (¬struck → right → opc ≠ 0#8 → pktReserved w = false → pktTransformsOk w h = true → pktDec w = false → hv = true →
            h = none → r = .bad 2 slot) ∧
          (r = .wait → exec i s = .next (s1.asked s2)) ∧
          (r ≠ .wait → ∃ t u, exec i s = .next t ∧
            s2.HomeWrite u q.dom q.launch (hp + 8) 8 (fun _ => true) (BitVec.ofNat 64 (q.next + 1)).getLsbD ∧
            (∀ d, t.dom d = u.dom d) ∧ (t.core c).eng.last = some (q.launch, q.va) ∧
            { q with next := q.next + 1 } ∈ (t.core c).eng.queues ∧ (t.core c).eng.queues.length = k.eng.queues.length ∧
            let held (fail : Option (Nat × Word)) (ca : Option Nat) : Prop := ∃ x, (t.core c).eng.cur = some x ∧ x.fail = fail ∧
              x.w = w ∧ x.caddr = ca ∧ x.idx = q.next ∧ x.launch = q.launch ∧ x.dom = q.dom ∧ x.rpos = 0 ∧ x.wpos = 0 ∧
              x.out = [] ∧ x.buf = [] ∧ x.closed = false ∧ x.spage = none ∧ x.dpage = none
            (∀ n a, r = .bad n a → held (some (n, a)) none ∧ (t.core c).handles = k.handles) ∧
            (∀ ca, r = .good ca → opc = 0#8 → (t.core c).eng.cur = none ∧ (t.core c).handles = k.handles) ∧
            ∀ ca, r = .good ca → opc ≠ 0#8 → held none ca ∧
              (t.core c).handle q.launch hn = if hv then h.map fun x => { x with st := 1#2 } else h))

/-- R284, R290, R293, R374: COPY_PAGE_BOUNDARY of a packet without transforms moves the next piece, to the end of its row and
page: what has been read and not written is written first, to the buffer, the window or at the home of a translated address;
else bytes are read. A page's bytes move under the one translation obtained at its boundary, where the engine pauses while an
invalidation is pending. A poisoned source fails with 6 at its first poisoned byte, and an address that does not translate
with 3 or 4; bytes written stay. Where a peer's stack does not answer, a read fails with 6 and a write is dropped. -/
def Says.CopyMoves : Prop :=
  ∀ (s : State) (c : Nat) (x : Xfer), (s.core c).eng.cur = some x → x.fail = none → x.closed = false →
      (x.w.getD 5 0#64).extractLsb' 0 3 = 0#3 →
    let i : Instr := .copyPageBoundary c
    let l := s.launch x.dom x.launch
    let w0 := x.w.getD 0 0#64
    let rb := ((x.w.getD 3 0#64).extractLsb' 0 32).toNat
    let rows := ((x.w.getD 3 0#64).extractLsb' 32 32).toNat
    let src : Int := (x.w.getD 1 0#64).toNat + (x.rpos / rb : Nat) * ((x.w.getD 4 0#64).extractLsb' 32 32).toInt + (x.rpos % rb : Nat)
    let dst : Int := (x.w.getD 2 0#64).toNat + (x.wpos / rb : Nat) * ((x.w.getD 4 0#64).extractLsb' 0 32).toInt + (x.wpos % rb : Nat)
    let a := BitVec.ofInt 64 src
    let b := BitVec.ofInt 64 dst
    let win (v : Word) : Prop := Config.windowBase ≤ v.toNat ∧ v.toNat < Config.windowBase + Config.windowBytes
    let rn := min (rb - x.rpos % rb) (4096 - a.toNat % 4096)
    let o := l.lbase + (a.toNat - Config.windowBase)
    let wn := min x.out.length (rb - x.wpos % rb)
    let pn := min wn (4096 - b.toNat % 4096)
    let q : EngQueue := ⟨x.qva, x.launch, x.dom, x.asn, x.root, 0, 1, x.idx⟩
    let more (x' : Xfer) (n : Nat) : Prop := x'.wpos = x.wpos + n ∧ x'.rpos = x.rpos ∧ x'.fail = none ∧ x'.w = x.w ∧
      x'.out ++ x'.buf = x.out.drop n ++ x.buf
    let pageOf (v : Word) (pa : Nat) : Option (Nat × Nat) := some (v.toNat / 4096, pa - v.toNat % 4096)
    -- the engine holds the page of `v`, which lies so that `v` is at `pa`
    let holds (p : Option (Nat × Nat)) (v : Word) (pa : Nat) : Prop := ∃ f, p = some (v.toNat / 4096, f) ∧ pa = f + v.toNat % 4096
    -- bytes of the source at `pa` may be read in `s1`
    let from' (s1 : State) (pa : Nat) (pg : Option (Nat × Nat)) : Prop := (holds x.spage a pa ∧ pg = x.spage ∧ s1 = s) ∨
      (∀ p, ¬holds x.spage a p) ∧ pg = pageOf a pa ∧
        ∃ e, s.translateUnit x.dom x.asn x.root a .read = (s1, .ok pa e) ∧ e.flags.getLsbD 9 = false
    let goesTo (s1 : State) (pa : Nat) (pg : Option (Nat × Nat)) : Prop := (holds x.dpage b pa ∧ pg = x.dpage ∧ s1 = s) ∨
      (∀ p, ¬holds x.dpage b p) ∧ pg = pageOf b pa ∧ ∃ e, s.copyXlate q b .write = (s1, .ok pa e)
    let fails (s1 : State) (pg : Option (Nat × Nat)) (r : Nat) (at' : Word) : Prop := ∃ t, exec i s = .next t ∧
      EngineHolds s1 t c (some { x with spage := pg, fail := some (r, at') })
    0 < rb →
    -- an invalidation is pending at the boundary of a page
    (x.refill = x → x.inPage = false → s.shootdown c x = true → exec i s = .next s) ∧
    -- reading
    (x.out = [] → x.buf.length < rb → x.rpos < rows * rb → (x.inPage = true ∨ s.shootdown c x = false) →
      (win a → cleanAt s c o rn → ∃ t x', exec i s = .next t ∧ EngineHolds s t c (some x') ∧ x'.rpos = x.rpos + rn ∧
        x'.wpos = x.wpos ∧ x'.fail = none ∧ x'.w = x.w ∧ x'.spage = none ∧ x'.out ++ x'.buf = x.buf ++ tileOf s c o rn) ∧
      (win a → ∀ j < rn, (o + j) / 8 ∈ (s.core c).lpoison → cleanAt s c o j → fails s none 6 (a + BitVec.ofNat 64 j)) ∧
      (¬win a → (∀ p, ¬holds x.spage a p) → ∀ s1 cause info, s.translateUnit x.dom x.asn x.root a .read = (s1, .fail cause info) →
        (cause = .translation → fails s1 x.spage 3 a) ∧ (cause = .protection → fails s1 x.spage 5 a) ∧
        (cause = .poison → fails s1 x.spage 6 a)) ∧
      (¬win a → (∀ p, ¬holds x.spage a p) → ∀ s1 pa e, s.translateUnit x.dom x.asn x.root a .read = (s1, .ok pa e) →
        e.flags.getLsbD 9 = true → fails s1 x.spage 5 a) ∧
      (¬win a → ∀ s1 pa pg, from' s1 pa pg → (s1.dom x.dom).bytes < pa + rn → fails s1.countPeer pg 6 a) ∧
      (¬win a → ∀ s1 pa pg, from' s1 pa pg → pa + rn ≤ (s1.dom x.dom).bytes →
        s1.gateAll x.dom false (linePieces 33 pa rn) = .ok s1 →
        (∀ j < rn, (pa + j) / 8 ∈ (s1.dom x.dom).poison → (∀ k < j, (pa + k) / 8 ∉ (s1.dom x.dom).poison) →
          ∃ t, exec i s = .next t ∧ (t.core c).eng.cur = some { x with spage := pg, fail := some (6, a + BitVec.ofNat 64 j) }) ∧
        ((∀ j < rn, (pa + j) / 8 ∉ (s1.dom x.dom).poison) → ∃ t x', exec i s = .next t ∧ (t.core c).eng.cur = some x' ∧
          x'.rpos = x.rpos + rn ∧ x'.wpos = x.wpos ∧ x'.fail = none ∧ x'.w = x.w ∧ x'.spage = pg ∧
          x'.out ++ x'.buf = x.buf ++ (List.range rn).map (fun j => Memory.get (s1.dom x.dom).mem (pa + j)) ∧
          s1.SameMemory t))) ∧
    -- writing
    (x.out ≠ [] → (x.inPage = true ∨ s.shootdown c x = false) →
      (w0.getLsbD 8 = true → ∀ h, (s.core c).handle x.launch (w0.extractLsb' 16 6).toNat = some h →
        ∃ t x', exec i s = .next t ∧ (t.core c).eng.cur = some x' ∧ more x' wn ∧
          (let o := l.lbase + h.base + dst.toNat
           ∀ j, Memory.get (t.core c).lmem j = if o ≤ j ∧ j < o + wn then x.out.getD (j - o) 0#8 else Memory.get (s.core c).lmem j) ∧
          ∀ d, t.dom d = s.dom d) ∧
      (w0.getLsbD 8 = false → win b → ∃ t x', exec i s = .next t ∧ (t.core c).eng.cur = some x' ∧ more x' pn ∧
        (let o := l.lbase + (b.toNat - Config.windowBase)
         ∀ j, Memory.get (t.core c).lmem j = if o ≤ j ∧ j < o + pn then x.out.getD (j - o) 0#8 else Memory.get (s.core c).lmem j) ∧
        ∀ d, t.dom d = s.dom d) ∧
      (w0.getLsbD 8 = false → ¬win b → (∀ p, ¬holds x.dpage b p) → ∀ s1 cause info, s.copyXlate q b .write = (s1, .fail cause info) →
        (cause = .translation → fails s1 x.spage 4 b) ∧ (cause = .protection → fails s1 x.spage 5 b) ∧
        (cause = .poison → fails s1 x.spage 6 b)) ∧
      (w0.getLsbD 8 = false → ¬win b → ∀ s1 pa pg, goesTo s1 pa pg → (s1.dom x.dom).bytes < pa + pn → ∃ t x', exec i s = .next t ∧
        EngineHolds s1.countPeer t c (some x') ∧ more x' pn ∧ x'.dpage = pg) ∧
      (w0.getLsbD 8 = false → ¬win b → ∀ s1 pa pg, goesTo s1 pa pg → pa + pn ≤ (s1.dom x.dom).bytes →
        s1.gateAll x.dom true (linePieces 33 pa pn) = .ok s1 → ∃ t x', exec i s = .next t ∧
          (t.core c).eng.cur = some x' ∧ more x' pn ∧ x'.dpage = pg ∧
          (∀ j, Memory.get (t.dom x.dom).mem j =
            if pa ≤ j ∧ j < pa + pn then x.out.getD (j - pa) 0#8 else Memory.get (s1.dom x.dom).mem j) ∧
          (∀ d, d ≠ x.dom → t.dom d = s1.dom d) ∧ (∀ j, (t.core j).lmem = (s.core j).lmem) ∧
          (pa % 128 + pn ≤ 128 → 0 < pn → ∃ u,
            s1.HomeWrite u x.dom x.launch pa pn (fun _ => true) (fun j => (x.out.getD (j / 8) 0#8).getLsbD (j % 8)) ∧
            ∀ d, t.dom d = u.dom d)))

/-- R291, R293, R294, R335: COPY_COMPLETE once every byte has been written: with HV the handle is full; with CV the byte
VALUE, zero-extended, is stored at CADDR, with a release of SCOPE, which waits for the drain of a record that it overwrites;
the engine is free for the next packet. A pending invalidation comes first. COPY_ERROR sets the handle of a failed packet
full with ERR and its reason, of a NOP packet none, and puts the record of R291 into the trap queue. -/
def Says.CopyEnds : Prop :=
  ∀ (s : State) (c : Nat) (x : Xfer), (s.core c).eng.cur = some x →
    let l := s.launch x.dom x.launch
    let w0 := x.w.getD 0 0#64
    let w6 := x.w.getD 6 0#64
    let hv := w0.getLsbD 8
    let hn := (w0.extractLsb' 16 6).toNat
    let h := (s.core c).handle x.launch hn
    let caddr : Word := (w6.extractLsb' 3 53 ++ 0#3).signExtend 64
    let scope := (w0.extractLsb' 28 3).toNat
    let value := (w6.extractLsb' 56 8).setWidth 64
    let q : EngQueue := ⟨x.qva, x.launch, x.dom, x.asn, x.root, 0, 1, x.idx⟩
    let win (v : Word) : Prop := Config.windowBase ≤ v.toNat ∧ v.toNat < Config.windowBase + Config.windowBytes
    let handleNow (t : State) (g : Handle → Handle) : Prop :=
      (t.core c).handle x.launch hn = if hv then h.map g else h
    let filled (h : Handle) : Handle := { h with st := 2#2, err := false, reason := 0#4 }
    let done : Prop := x.fail = none ∧ x.closed = false ∧ x.rpos = ((x.w.getD 3 0#64).extractLsb' 32 32).toNat *
      ((x.w.getD 3 0#64).extractLsb' 0 32).toNat ∧ x.buf = [] ∧ x.out = [] ∧ (x.w.getD 5 0#64).extractLsb' 0 3 = 0#3 ∧
      w0.getLsbD 10 = false ∧ s.shootdown c x = false
    let i : Instr := .copyComplete c
    -- no thread of the core is in HWAIT, whose completion may be an acquire (R296)
    let calm : Prop := ∀ e ∈ (s.core c).slots, ∀ n sm d, e.2.st ≠ .parked (.handle n sm d)
    let standing (r : RelRec) : Prop := (r.st = 1 ∨ r.st = 2) ∧ r.agent ≠ 8192 + c ∧ scopeCovers r.scope r.agent (8192 + c) = true
    (done → w0.getLsbD 9 = false → ∃ t, exec i s = .next t ∧ (t.core c).eng.cur = none ∧
      handleNow t filled ∧ (∀ d, t.dom d = s.dom d) ∧ (∀ j, (t.core j).lmem = (s.core j).lmem) ∧ (calm → s.SameMemory t)) ∧
    (done → w0.getLsbD 9 = true → win caddr → ∃ t, exec i s = .next t ∧ (t.core c).eng.cur = none ∧
      handleNow t filled ∧ (let o := l.lbase + (caddr.toNat - Config.windowBase)
        (∀ j < 64, (Memory.get (t.core c).lmem (o + j / 8)).getLsbD (j % 8) = value.getLsbD j) ∧
        ∀ a, a < o ∨ o + 8 ≤ a → Memory.get (t.core c).lmem a = Memory.get (s.core c).lmem a) ∧ ∀ d, t.dom d = s.dom d) ∧
    (∀ pa, done → w0.getLsbD 9 = true → ¬win caddr → x.caddr = some pa → pa % 8 = 0 → pa + 8 ≤ (s.dom x.dom).bytes →
      s.gateAll x.dom true [(pa, 8)] = .ok s →
      ((∀ r, (s.dom x.dom).recAt pa = some r → ¬standing r) → ∃ t u, exec i s = .next t ∧
        (t.core c).eng.cur = none ∧ handleNow t filled ∧
        s.HomeWrite u x.dom x.launch pa 8 (fun _ => true) value.getLsbD ∧ (t.dom x.dom).mem = (u.dom x.dom).mem ∧
        (scope = 0 → (t.dom x.dom).recAt pa = (s.dom x.dom).recAt pa) ∧
        (1 ≤ scope → (t.dom x.dom).recAt pa = some ⟨8192 + c, t.epochOf (8192 + c), scope, if scope = 6 then 3 else 1⟩ ∧
          (t.cache (8192 + c)).relcnt = (s.cache (8192 + c)).relcnt + 1#64)) ∧
      ∀ r, (s.dom x.dom).recAt pa = some r → standing r → ∃ t, exec i s = .next t ∧
        (t.core c).eng.cur = some { x with closed := true } ∧ handleNow t filled ∧
        (∀ a, Memory.get (t.dom x.dom).mem a = Memory.get (s.dom x.dom).mem a) ∧
        (r.st = 1 → calm → ∃ m, t.net = s.net ++ [m] ∧ m.kind = .drain r.agent r.epoch 0 ∧ m.pa = pa ∧ m.dom = x.dom ∧
          m.agent = 8192 + c ∧ (t.dom x.dom).recAt pa = some { r with st := 2 })) ∧
    (∀ pa, done → w0.getLsbD 9 = true → ¬win caddr → x.caddr = some pa → (s.dom x.dom).bytes < pa + 8 → ∃ t, exec i s = .next t ∧
      (t.core c).eng.cur = none ∧ handleNow t filled ∧ ∀ d, t.dom d = s.dom d) ∧
    (∀ s1 cause info, x.fail = none → x.closed = true → w0.getLsbD 9 = true → ¬win caddr → x.caddr = none →
      s.copyXlate q caddr .write = (s1, .fail cause info) → ∃ t r, exec i s = .next t ∧
        EngineHolds s1 t c (some { x with fail := some (r, caddr) }) ∧ (cause = .translation → r = 4) ∧
        (cause = .protection → r = 5) ∧ (cause = .poison → r = 6)) ∧
    (x.fail = none → x.closed = false → x.out ≠ [] ∨ s.shootdown c x = true → exec i s = .next s) ∧
    ∀ r a, x.fail = some (r, a) → r < 16 → ∃ t rec', exec (.copyError c) s = .next t ∧
      (t.core c).eng.cur = none ∧
      (let late : Prop := x.closed = true ∧ ∃ g, h = some g ∧ g.st ≠ 2#2
       (w0.extractLsb' 0 8 ≠ 0#8 → ¬late → handleNow t (fun h => { h with st := 2#2, err := true, reason := BitVec.ofNat 4 r })) ∧
       (w0.extractLsb' 0 8 = 0#8 ∨ late → (t.core c).handle x.launch hn = h)) ∧
      (s.core c).Enters (t.core c).trapq rec' ∧ rec'.w0.extractLsb' 0 8 = 0x16#8 ∧ rec'.w0.extractLsb' 8 8 = 4#8 ∧
      rec'.w1 = 0#64 ∧ rec'.w2 = a ∧ rec'.w3.extractLsb' 0 4 = BitVec.ofNat 4 r ∧ rec'.w3.extractLsb' 4 6 = BitVec.ofNat 6 hn ∧
      rec'.w3.getLsbD 10 = hv ∧ rec'.w3.extractLsb' 40 24 = (x.w.getD 7 0#64).extractLsb' 8 24 ∧
      (∀ d, t.dom d = s.dom d) ∧ (calm → s.SameMemory t)

/-! ### The supervisor (R339 to R344) -/

/-- The thread in the target slot that X[A] names, at most 14 (R340). -/
def Target (s : State) (a : BitVec 6) (sl : Nat) (x : Thread) : Prop :=
  (s.rx a).toNat = sl ∧ sl ≤ 14 ∧ s.thread? s.iss.core sl = some x

/-- R335, R341, R126: TRECV and TRECV.TRY take the oldest record into X[D] to X[D + 3]; on an empty queue TRECV parks at
itself, and TRECV.TRY clears P[PD]. In a handler TRECV raises Handler-Block, whether or not a record waits. -/
def Says.TrapRecords : Prop :=
  ∀ (s : State) (d : BitVec 6) (p : BitVec 3), 1 ≤ s.cur.lvl.toNat → 1 ≤ d.toNat → d.toNat ≤ 60 →
    let c := s.iss.core
    let takes (i : Instr) (ps : List (BitVec 3)) : Prop := ∀ r rest, (s.core c).trapq = r :: rest → ∃ (t u : State), exec i s = .next t ∧
      u.core c = { s.core c with trapq := rest } ∧ (∀ j, j ≠ c → u.core j = s.core j) ∧ u = { s with cores := u.cores } ∧
      u.Frame t [d, d + 1#6, d + 2#6, d + 3#6] ps [] [] ∧ t.rx d = r.w0 ∧ t.rx (d + 1#6) = r.w1 ∧ t.rx (d + 2#6) = r.w2 ∧
      t.rx (d + 3#6) = r.w3 ∧ (p ∈ ps → t.rp p = true)
    (s.iss.slot ≠ 14 → takes (.trecv d) []) ∧ takes (.trecvTry d p) [p] ∧
    ((s.core c).trapq = [] → WritesP (.trecvTry d p) s p false) ∧
    (s.iss.slot = 14 → TrapsWith (.trecv d) s .handlerBlock 0#64 0#64) ∧
    ((s.core c).trapq = [] → s.iss.slot ≠ 14 → exec (.trecv d) s =
      .next (s.setThread c s.iss.slot { s.cur with st := .parked (.record d), pc := s.iss.pc }))

/-- R340, R342: TREAD and TWRITE of a slot with no TRAPPED thread clear P[PD] and change nothing. Else TREAD gives the
register that IMM32 selects, and TWRITE writes it and nothing else; a q register beyond QALLOT.N, or a PC that names no
slot, clears P[PD]. -/
def Says.TrappedContexts : Prop :=
  ∀ (s : State) (d a b : BitVec 6) (sr : BitVec 12) (p : BitVec 3) (imm : BitVec 32), 1 ≤ s.cur.lvl.toNat →
    let c := s.iss.core
    let v := s.rx b
    let cls := (imm.extractLsb' 8 24).toNat
    let n := (imm.extractLsb' 0 8).toNat
    let reads (w : Word) : Prop := ∃ t, exec (.tread d a sr p imm) s = .next t ∧ t.rx d = (if d = 0#6 then 0#64 else w) ∧
      t.rp p = true ∧ s.Frame t [d] [p] [] []
    let writes (sl : Nat) (y : Thread) : Prop := ∃ t u, exec (.twrite a b sr p imm) s = .next t ∧ u = s.setThread c sl y ∧
      t.rp p = true ∧ u.Frame t [] [p] [] []
    ((∀ sl x, Target s a sl x → x.st ≠ .trapped) → WritesP (.tread d a sr p imm) s p false ∧
      WritesP (.twrite a b sr p imm) s p false) ∧
    ∀ sl x, Target s a sl x → x.st = .trapped → sl ≠ s.iss.slot →
      (cls = 0 → n < 64 → reads (x.getX (BitVec.ofNat 6 n)) ∧ writes sl (x.setX (BitVec.ofNat 6 n) v)) ∧
      (cls = 1 → n < 32 → reads (x.getF (BitVec.ofNat 5 n)) ∧ writes sl (x.setF (BitVec.ofNat 5 n) v)) ∧
      (cls = 2 → (∃ w, reads w ∧ w.extractLsb' 8 56 = 0#56 ∧ ∀ j < 8, w.getLsbD j = x.getP (BitVec.ofNat 3 j)) ∧
        writes sl { x with p := v.setWidth 8 }) ∧
      (cls = 3 → n < 32 →
        let q := BitVec.ofNat 3 n
        (q.toNat < x.allot → reads ((x.getQ q).extractLsb' (64 * (n / 8)) 64) ∧ ∃ y, writes sl (x.setQ q y) ∧
          ∀ j < 256, y.getLsbD j = if j / 64 = n / 8 then v.getLsbD (j % 64) else (x.getQ q).getLsbD j) ∧
        (x.allot ≤ q.toNat → WritesP (.tread d a sr p imm) s p false ∧ WritesP (.twrite a b sr p imm) s p false)) ∧
      (cls = 4 → reads x.pc ∧ (v.toNat % 64 ∈ [0, 12, 24, 36, 48] → writes sl { x with pc := v }) ∧
        (v.toNat % 64 ∉ [0, 12, 24, 36, 48] → WritesP (.twrite a b sr p imm) s p false)) ∧
      (cls = 5 → reads x.npc ∧ (v.toNat % 64 ∈ [0, 12, 24, 36, 48] → writes sl { x with npc := v }) ∧
        (v.toNat % 64 ∉ [0, 12, 24, 36, 48] → WritesP (.twrite a b sr p imm) s p false)) ∧
      (cls = 6 →
        (sr = 0x006#12 → reads x.rseq ∧ writes sl { x with rseq := if v = 0#64 then 0x6A09E667#64 else v }) ∧
        (sr = 0x010#12 → 6 ≤ v.toNat % 8 → TrapsWith (.twrite a b sr p imm) s .illegalInstruction 0#64 0#64) ∧
        (sr = 0x010#12 → v.toNat % 8 < 6 → writes sl { x with fpcr := BitVec.ofNat 3 v.toNat }) ∧
        (sr = 0x011#12 → writes sl { x with fpsr := BitVec.ofNat 5 v.toNat }) ∧
        (sr = 0x005#12 → s.cur.lvl.toNat < v.toNat % 4 → TrapsWith (.twrite a b sr p imm) s .privilege 0#64 0#64) ∧
        (sr = 0x005#12 → v.toNat % 4 ≤ s.cur.lvl.toNat → writes sl { x with lvl := BitVec.ofNat 2 v.toNat }) ∧
        (sr = 0x020#12 → reads x.qsb ∧ writes sl { x with qsb := v }) ∧
        (sr = 0x023#12 → reads x.trav ∧ writes sl { x with trav := v }))

/-- R26, R113, R126, R343, R220: TRESUME and TRESUME.NEXT return a TRAPPED thread, all of whose records have been taken, to
READY at its PC or its NPC: it issues from 16 cycles on, its next fetch is checked as that of a transfer and of a resumption,
and a handler counts its bundles afresh. Faulted and cancelled commands of an owner of the cube are dropped. Else P[PD] is cleared and nothing
changes. -/
def Says.Resumes : Prop :=
  ∀ (s : State) (a : BitVec 6) (p : BitVec 3), 1 ≤ s.cur.lvl.toNat →
    let c := s.iss.core
    let both := [Instr.tresume a p, .tresumeNext a p]
    let waits (sl : Nat) : Prop := ∃ r ∈ (s.core c).trapq, r.w0.getLsbD 10 = false ∧ r.w0.extractLsb' 16 17 = tidOf c sl
    let back (x : Thread) (pc : Word) : Thread :=
      { x with st := .ready, pc := pc, xfer := true, resumed := true, count := 0, startAt := (s.core c).cyc + 16, late := false,
               held := none }
    let resumes (i : Instr) (sl : Nat) (y : Thread) : Prop := ∃ t u, exec i s = .next t ∧ u = s.setThread c sl y ∧ t.rp p = true ∧
      u.Frame t [] [p] [] []
    ((∀ sl x, Target s a sl x → x.st ≠ .trapped) → ∀ i ∈ both, WritesP i s p false) ∧
    ∀ sl x, Target s a sl x → x.st = .trapped → sl ≠ s.iss.slot →
      (waits sl → ∀ i ∈ both, WritesP i s p false) ∧
      (¬waits sl → (s.core c).cube.owner ≠ some sl →
        resumes (.tresume a p) sl (back x x.pc) ∧ resumes (.tresumeNext a p) sl (back x x.npc)) ∧
      (¬waits sl → (s.core c).cube.owner = some sl → ∃ t, exec (.tresume a p) s = .next t ∧ t.thread? c sl = some (back x x.pc) ∧
        t.rp p = true ∧ (t.core c).ring = (s.core c).ring.map fun e =>
          if (e.opc = 0xD3#8 ∨ e.opc = 0xD4#8) ∧ e.tid = tidOf c sl ∧ (e.st = 2#3 ∨ e.st = 3#3) then { e with st := 4#3 } else e)

/-- R115, R118, R140, R144, R340, R344: TKILL of a FREE slot clears P[PD]. Else the thread is gone, its records too when it was
TRAPPED, its requests stand on no wait list, entries it leads are closed and pinned no more, its launch has one piece of work less
unless a DQRUN that parked has counted the thread's end, and P[PD] is set. A slot with a steal in flight is not free yet. -/
def Says.Kills : Prop :=
  ∀ (s : State) (a : BitVec 6) (p : BitVec 3), 1 ≤ s.cur.lvl.toNat →
    let c := s.iss.core
    ((∀ sl x, ¬Target s a sl x) → WritesP (.tkill a p) s p false) ∧
    ∀ sl x, Target s a sl x → sl ≠ s.iss.slot → ∃ t, exec (.tkill a p) s = .next t ∧
      t.thread? c sl = none ∧ t.rp p = true ∧ (∀ r, t.rx r = s.rx r) ∧ (∀ r, r ≠ p → t.rp r = s.rp r) ∧
      ((t.core c).trapq = if x.st = .trapped then (s.core c).trapq.filter fun r => !r.ofTid (tidOf c sl) else (s.core c).trapq) ∧
      (∀ m ∈ t.net, ¬(m.core = c ∧ m.slot = sl ∧ m.gen = x.gen ∧ m.st = .waiting ∧ ∀ v r w, m.kind ≠ .steal v r w)) ∧
      (∀ e ∈ (t.dom x.dom).conf, e.lgen = x.gen → e.st = .closed ∧ (e.pin = true → e ∈ (s.dom x.dom).conf)) ∧
      (s.stealing c sl = true → sl ∈ (t.core c).ghosts) ∧
      workIs s t x.dom x.launch (if x.ended then id else (· - 1)) ∧ (t.core c).deques = (s.core c).deques

/-- R339, R350: SUPERVISOR_RESTART: a fault of slot 15 starts the supervisor again at its entry, at level 1, in the address
space of SUPVASN and in no launch, with the record in x1 to x4; the trap queue stays. A second one within 2^20 cycles of a
restart is an unrecoverable fault of every context with a TRAPPED thread on the core. -/
def Says.SupervisorRestarts : Prop :=
  ∀ (s : State) (c d : Nat) (r : TrapRec),
    ((s.core c).supFault = none → exec (.supervisorRestart c) s = .next s) ∧
    ((s.core c).supFault = some r → (s.core c).part = some d → (∀ at', (s.core c).supAt = some at' → at' + 2 ^ 20 < (s.core c).cyc) →
      ∃ t x, exec (.supervisorRestart c) s = .next t ∧ (t.core c).supFault = none ∧ (t.core c).supAt = some (s.core c).cyc ∧
        (t.core c).trapq = (s.core c).trapq ∧ t.thread? c 15 = some x ∧ x.pc = (s.dom d).supPc ∧ x.xfer = true ∧ x.lvl = 1#2 ∧
        x.asn = (s.dom d).supAsn ∧ x.root = (s.dom d).supRoot ∧ x.dom = d ∧ x.launch = 0 ∧ x.st = .ready ∧
        (∀ q, x.getX q = if q = 1#6 then r.w0 else if q = 2#6 then r.w1 else if q = 3#6 then r.w2 else if q = 4#6 then r.w3
          else 0#64) ∧ ∀ j, j ≠ 15 → t.thread? c j = s.thread? c j) ∧
    (∀ at', (s.core c).supFault = some r → (s.core c).part = some d → (s.core c).supAt = some at' → (s.core c).cyc ≤ at' + 2 ^ 20 →
      ∃ t, exec (.supervisorRestart c) s = .next t ∧ ∀ e ∈ (s.core c).slots, e.2.st = .trapped → e.2.launch ≠ 0 →
        lookup (s.dom d).launches e.2.launch ≠ none → ∃ o, (t.launch d e.2.launch).phase = .failed o)

/-! ### Turns and fetches (R24, R86, R99, R106, R113, R119, R120, R323, R337) -/

/-- R86, R106, R119, R120, R170, R273, R323, R337: SLOT_TURN: one cycle of a core ends, TC with it when the cycle is enabled,
and slot TC mod 16 has the turn: a FREE slot, a TRAPPED thread and one that waits issue nothing, a YIELD counts its turn, a
late fault is delivered and a quantum expiry taken in place of issuing. A FILL that the core holds is performed first, once
the requests of its thread have been acknowledged. No core runs four cycles ahead of another; at throttle stage 4 odd cycles
are not enabled. -/
def Says.Turns : Prop :=
  ∀ (s : State) (c : Nat), c < Config.cores → (∀ e ∈ s.cores, (s.core c).cyc < e.2.cyc + 4) → s.latch = none →
    let k := s.core c
    let h := s.performHeld c
    let sl := k.tc % 16
    let on : Prop := ∀ d, k.part = some d → (s.dom d).acct.stage < 4 ∨ k.cyc % 2 = 0
    let ends (u t : State) (n : Nat) : Prop := t.core c = { u.core c with cyc := (u.core c).cyc + 1, tc := (u.core c).tc + n } ∧
      (∀ i, i ≠ c → lookup t.cores i = lookup u.cores i) ∧ t.cycle = max u.cycle ((u.core c).cyc + 1) ∧
      t = { u with cores := t.cores, cycle := t.cycle }
    let turns (u : State) : Prop := ∃ t, exec (.slotTurn c) s = .next t ∧ ends u t 1
    ((∀ f, k.fill = some f → ∃ i ∈ f.after, s.acked i = false) → k.cube.after = [] → h = s) ∧
    (∀ f, k.fill = some f → (∀ i ∈ f.after, s.acked i = true) → (h.core c).fill = none ∧
      (∀ j < 64, (Memory.get (h.core c).lmem (f.a + j / 8)).getLsbD (j % 8) = f.v.getLsbD j) ∧
      ∀ a, a < f.a ∨ f.a + 8 ≤ a → Memory.get (h.core c).lmem a = Memory.get k.lmem a) ∧
    (¬on → ∃ t, exec (.slotTurn c) s = .next t ∧ ends h t 0) ∧
    (on →
      (h.thread? c sl = none → turns h) ∧
      (∀ x, h.thread? c sl = some x →
        (x.st = .trapped → turns h) ∧
        (∀ id, x.st = .parked (.home id) → turns h) ∧
        (∀ n, x.st = .parked (.turns (n + 1)) → turns (h.setThread c sl { x with st := .parked (.turns n) })) ∧
        (∀ n, x.st = .parked (.deadline n) → k.cyc ≤ n → turns h) ∧
        (x.st = .ready → k.cyc < x.startAt → turns h) ∧
        (x.st = .ready → x.startAt ≤ k.cyc → sl ≠ 15 → x.late = true → turns (h.setThread c sl
          { x with st := .trapped, npc := x.pc, late := false, prog := none, fetching := none })) ∧
        (x.st = .ready → x.startAt ≤ k.cyc → sl ≠ 15 → x.late = false → h.expiryDue c sl x = true → turns (h.setThread c sl
          { x with st := .parked .scheduler })) ∧
        (x.st = .ready → x.startAt ≤ k.cyc → sl ≠ 15 → x.late = false → h.expiryDue c sl x = false →
          x.awaits ≠ none ∨ x.fetching ≠ none ∨ (∃ i ∈ x.hold, h.acked i = false) → turns h)))

/-- R109, R119, R120, R323, R337: the events of one thread: PARK_DEADLINE once CYCLE has reached the deadline, YIELD_EXPIRY
once its turns have passed, LATE_FAULT_DELIVERY, and QUANTUM_EXPIRY at its turn of a thread whose context must leave its
cores. -/
def Says.ThreadEvents : Prop :=
  ∀ (s : State) (c sl : Nat) (x : Thread), s.thread? c sl = some x →
    let k := s.core c
    (∀ n, x.st = .parked (.deadline n) → (n ≤ k.cyc → exec (.parkDeadline c sl) s =
        .next (s.setThread c sl { x with st := .ready, startAt := max x.startAt (k.cyc + 1) })) ∧
      (k.cyc < n → exec (.parkDeadline c sl) s = .next s)) ∧
    (x.st = .parked (.turns 0) → exec (.yieldExpiry c sl) s = .next (s.setThread c sl { x with st := .ready })) ∧
    (x.st = .ready → x.late = true → exec (.lateFaultDelivery c sl) s = .next (s.setThread c sl
      { x with st := .trapped, npc := x.pc, late := false, prog := none, fetching := none })) ∧
    (c < Config.cores → (∀ e ∈ s.cores, k.cyc < e.2.cyc + 4) → s.enabled k = true → k.tc % 16 = sl → x.st = .ready →
      x.startAt ≤ k.cyc → x.late = false → s.expiryDue c sl x = true → ∃ t, exec (.quantumExpiry c) s = .next t ∧
        t.thread? c sl = some { x with st := .parked .scheduler } ∧ (t.core c).cyc = k.cyc + 1 ∧ (t.core c).tc = k.tc + 1) ∧
    ∀ t0, sl < 14 → (s.launch x.dom x.launch).phase = .preempting t0 ∨ (s.launch x.dom x.launch).phase = .checkpointing t0 →
      (s.expiryDue c sl x = true ↔ t0 + (s.dom x.dom).quantum ≤ k.cyc + 16)

/-- R24, R99, R113: THREAD_FIRST_FETCH begins the fetch of a thread that has not begun one. FETCH_LINE_ARRIVAL brings a missed
line into the core's L1 instruction cache, and the thread no longer loses turns for it; LINE_REFETCH does so for a line whose
parity failed, and a second failure is the machine check of kind 1. A poisoned line is a Poison fault of the fetch, and so is
one of a peer that no route reaches, which is counted. -/
def Says.LineArrivals : Prop :=
  ∀ (s : State) (c sl pa : Nat) (x : Thread), s.thread? c sl = some x →
    let bits (b : BitVec 512) : Prop := ∀ j < 512, b.getLsbD j = (Memory.get (s.dom x.dom).mem (pa + j / 8)).getLsbD (j % 8)
    let here : Prop := pa + 64 ≤ (s.dom x.dom).bytes ∧ s.gate x.dom pa 0 false = .ready s
    let whole : Prop := ∀ j < 64, (pa + j) / 8 ∉ (s.dom x.dom).poison
    let arrives (i : Instr) : Prop := ∃ t b, exec i s = .next t ∧ bits b ∧ t.thread? c sl = some { x with fetching := none } ∧
      (t.core c).icache.find? (fun l => l.dom == x.dom && l.pa == pa) = some ⟨x.dom, pa, b⟩ ∧
      (∀ l ∈ (s.core c).icache, (l.dom, l.pa) ≠ (x.dom, pa) → l ∈ (t.core c).icache) ∧ s.SameMemory t
    (x.st = .ready → x.held = none → x.xfer = true → x.fetching = none →
      exec (.threadFirstFetch c sl) s = .next (s.fetchLine c sl).1) ∧
    (x.fetching = some (pa, false) → here → whole → arrives (.fetchLineArrival c sl)) ∧
    (x.fetching = some (pa, false) → here → ¬whole → exec (.fetchLineArrival c sl) s = .next (s.fetchTrap c sl .poison)) ∧
    (∀ again, x.fetching = some (pa, again) → (s.dom x.dom).bytes < pa + 64 →
      exec (if again then .lineRefetch c sl else .fetchLineArrival c sl) s = .next (s.countPeer.fetchTrap c sl .poison)) ∧
    (x.fetching = some (pa, true) → here → ¬whole → exec (.lineRefetch c sl) s = .next (s.fetchTrap c sl .poison)) ∧
    (x.fetching = some (pa, true) → here → whole → (∀ b, bits b → lineParityOk b = true) → arrives (.lineRefetch c sl)) ∧
    (x.fetching = some (pa, true) → here → whole → (∀ b, bits b → lineParityOk b = false) → ∃ u, exec (.lineRefetch c sl) s =
      .next (u.raiseAt c sl .machineCheck 0#64 1#64 x.pc x.pc false) ∧ s.SameMemory u ∧ u.thread? c sl = some x)

/-! ### Launches (R115, R313 to R328, R377) -/

/-- The completion record at a physical address (R315). -/
def RecordIs (t : State) (d pa status reason serial start stop energy : Nat) : Prop :=
  Memory.read (t.dom d).mem pa 32 = (status + 256 * reason + 65536 * (serial % 2 ^ 32) +
    2 ^ 64 * (start + 2 ^ 64 * (stop + 2 ^ 64 * energy))) % 2 ^ 256 ∧
  (t.dom d).recAt pa = some ⟨16384 + d, t.epochOf (16384 + d), 6, 3⟩

/-- The launch unit may write a record of 32 bytes at `pa` now: it lies in memory, no outside agent stands against it, and no
release record is there. -/
def Writable (s : State) (d pa : Nat) : Prop :=
  pa % 32 = 0 ∧ pa + 32 ≤ (s.dom d).bytes ∧ s.gateAll d true [(pa, 32)] = .ok s ∧ (s.dom d).recAt pa = none

/-- Between `s` and `t` homes of domain `d` have used lines, and nothing else has changed. -/
def LinesUsed (s t : State) (d : Nat) : Prop :=
  t.dom d = { s.dom d with l2 := (t.dom d).l2, llc := (t.dom d).llc, dir := (t.dom d).dir } ∧
    (∀ i, i ≠ d → t.dom i = s.dom i) ∧ t = { s with doms := t.doms }

/-- R265, R282, R313 to R317: LAUNCH_PACKET_TAKE reads the packet of a queue's head slot when its phase is that of RI, once
a record that its acquire meets there has been drained. A NOP is discarded; a packet that names no valid context or has no
record to write is discarded and counted under class 8, kind 2; a malformed one ends with STATUS 3 and its reason, and no core
runs; any other waits as the queue's head. RI advances with a packet that is discarded or refused. -/
def Says.LaunchPackets : Prop :=
  ∀ (s : State) (d q : Nat),
    let v := s.dom d
    let i : Instr := .launchPacketTake d q
    (v.st ≠ .running ∨ lookup v.heads q ≠ none ∨ s.launchQueue d q = none → exec i s = .next s) ∧
    (∀ lq, v.st = .running → lookup v.heads q = none → s.launchQueue d q = some lq →
      let pa := lq.h + 64 + 64 * (lq.ri % max lq.cap 1)
      let w := (List.range 8).map fun j => BitVec.ofNat 64 (wordAt s d (pa + 8 * j) 8)
      let reads := s.takeReads d q lq w
      let u := s.touchLines d ((pa, 64) :: reads)
      let ready : Prop := wordAt s d (pa + 56) 8 % 2 = (lq.ri / lq.cap + 1) % 2
      pa + 64 ≤ v.bytes → pa % 64 = 0 → (∀ n < 64, (pa + n) / 8 ∉ v.poison) →
      (¬ready → exec i s = .next s) ∧
      (ready → s.gateAll d false [(pa, 32)] = .ok s →
        (∀ r, v.recAt pa = some r → r.mustDrain (16384 + d) 6 = true → r.st = 1 → ∃ t m, exec i s = .next t ∧ t.net = s.net ++ [m] ∧
          m.kind = .drain r.agent r.epoch 0 ∧ m.dom = d ∧ m.agent = 16384 + d ∧ (t.dom d).recAt pa = some { r with st := 2 }) ∧
        ((∀ r, v.recAt pa = some r → r.mustDrain (16384 + d) 6 = false) → s.gateAll d false ((pa + 32, 32) :: reads) = .ok s →
            s.gateAll d true [(lq.h, 16)] = .ok s → LinesUsed s u d ∧ ∀ s2 res,
            u.checkLaunch d lq.ri (lq.bind.extractLsb' 16 3).toNat (lq.bind.extractLsb' 20 2).toNat w = (s2, res) →
          (res = .wait → exec i s = .next (u.asked s2)) ∧
          (∀ counted, res = .discard counted → ∃ t, exec i s = .next t ∧ (if counted then s2.count 8 2 d else s2).HomeWrite t d 0
            (lq.h + 8) 8 (fun _ => true) (BitVec.ofNat 64 (lq.ri + 1)).getLsbD) ∧
          (∀ cpa r, res = .refuse cpa r → Writable s2 d cpa → (cpa + 32 ≤ lq.h + 8 ∨ lq.h + 16 ≤ cpa) →
            ∃ t, exec i s = .next t ∧ RecordIs t d cpa 3 r 0 s2.cycle s2.cycle 0 ∧
              Memory.read (t.dom d).mem (lq.h + 8) 8 = (lq.ri + 1) % 2 ^ 64 ∧
              ∀ n, (lookup (t.dom d).launches n).isSome = (lookup (s2.dom d).launches n).isSome) ∧
          (∀ x, res = .head x → ∃ t, exec i s = .next t ∧
            lookup (t.dom d).heads q = some { x with h := lq.h } ∧ t.dom d = { s2.dom d with heads := (t.dom d).heads } ∧
            (∀ j, j ≠ q → lookup (t.dom d).heads j = lookup (s2.dom d).heads j) ∧ t = { s2 with doms := t.doms })))) ∧
    -- what the checks find first
    ∀ (w : List Word) (ri prio lvl : Nat),
      let w0 := w.getD 0 0#64
      let asn := (w0.extractLsb' 32 16).toNat
      let ctx := BitVec.ofNat 64 (wordAt s d (v.ctxt + 32 * asn) 8)
      let crec := w.getD 2 0#64
      let res := s.checkLaunch d ri prio lvl w
      let noContext : Prop := v.nctx ≤ asn ∨ ctx.getLsbD 0 = false ∨ crec.toNat % 32 ≠ 0
      (w0.extractLsb' 0 8 = 0#8 → res = (s, .discard false)) ∧
      (w0.extractLsb' 0 8 ≠ 0#8 → noContext → res = (s, .discard true)) ∧
      ∀ s2 found, w0.extractLsb' 0 8 ≠ 0#8 → ¬noContext → s.unitXlate d asn (ctxRoot (v.context asn)) crec .both = (s2, found) →
        (∀ cause info, found = .fail cause info → res = (s2, .discard true)) ∧
        ∀ cpa e, found = .ok cpa e →
          ((w.getD 7 0#64).extractLsb' 32 32 ≠ BitVec.ofNat 32 ri ∨ w0.extractLsb' 0 8 ≠ 1#8 ∨ 4 < (w0.extractLsb' 8 3).toNat ∨
            w0.extractLsb' 48 16 ≠ 0#16 → res = (s2, .refuse cpa 3)) ∧
          (lpFieldsOk w ri = true → ctxReserved (v.context asn) = true → res = (s2, .refuse cpa 4)) ∧
          (lpFieldsOk w ri = true → ctxReserved (v.context asn) = false → (w.getD 1 0#64).toNat % 64 ≠ 0 →
            res = (s2, .refuse cpa 1))

/-- R320, R321: effective priorities and dependences: the effective priority of a live launch is at least its base priority
and that of every live launch that depends on it, and is the base priority of one of the launches that wait on it. A head is
eligible once every record that it depends on shows a STATUS. -/
def Says.Priorities : Prop :=
  (∀ (v : Dom), let es : List Live := v.effective
    es.map (fun e => (e.ctx, e.key)) = v.live.map (fun e => (e.ctx, e.key)) ∧
    (∀ x ∈ es, ∀ y ∈ es, x.crec ∈ y.deps → y.eff ≤ x.eff) ∧
    ∀ (i : Nat) (x b : Live), es[i]? = some x → v.live[i]? = some b → b.eff ≤ x.eff ∧ ∃ y ∈ v.live, x.eff = y.eff) ∧
  ∀ (s : State) (d q : Nat) (h : QHead), lookup (s.dom d).heads q = some h →
    (∀ pa ∈ h.deps, pa % 32 = 0 ∧ pa + 32 ≤ (s.dom d).bytes ∧ s.gateAll d false [(pa, 32)] = .ok s ∧
      (∀ r, (s.dom d).recAt pa = some r → r.mustDrain (16384 + d) 6 = false) ∧ pa / 8 ∉ (s.dom d).poison) →
    ((∀ pa ∈ h.deps, wordAt s d pa 1 ≠ 0) → ∃ t, exec (.dependenceReread d q) s = .next t ∧
      lookup (t.dom d).heads q = some { h with depsOk := true } ∧ (∀ j, j ≠ q → lookup (t.dom d).heads j = lookup (s.dom d).heads j) ∧
      t.dom d = { s.dom d with heads := (t.dom d).heads, l2 := (t.dom d).l2, llc := (t.dom d).llc, dir := (t.dom d).dir } ∧
      (∀ j, j ≠ d → t.dom j = s.dom j) ∧ t = { s with doms := t.doms }) ∧
    ((∃ pa ∈ h.deps, wordAt s d pa 1 = 0) → exec (.dependenceReread d q) s = .next s)

/-- R161, R243, R318, R319, R377: where the Weir places a launch: a rectangle of the partition's cluster grid at the origin
that it asks for, on cores each with a free slot, at a base of 128-byte multiples below 256 KiB that meets no other region,
within the bounds of the card, and with its energy in the bucket. A fused launch shares no cluster. -/
def Says.Reservations : Prop :=
  ∀ (s : State) (d : Nat) (x : QHead) (cores : List Nat) (b : Nat), s.findPlace d x [] = some (cores, b) →
    let v := s.dom d
    let others := (v.launches.filter fun e => !e.2.isOut).map (·.2)
    let bytes (h : Hdr) : Nat := h.lmem + 64 * h.deque
    let total (f : Hdr → Nat) (c : Nat) : Nat := (others.filter fun l => l.cores.contains c).foldl (fun n l => n + f l.hdr) (f x.hdr)
    (∃ o, (x.origin ≠ 0xFFFF → o = x.origin) ∧ o % 16 + x.hdr.cols ≤ 16 ∧ o / 16 + x.hdr.rows ≤ (onesAt v.groups).length ∧
      cores.length = 6 * (x.hdr.rows * x.hdr.cols) ∧
      ∀ r < x.hdr.rows, ∀ c < x.hdr.cols, ∀ k < 6, ∃ g, (onesAt v.groups)[o / 16 + r]? = some g ∧
        cores[6 * (x.hdr.cols * r + c) + k]? = some ((g / 10 * 160 + g % 10 * 16 + o % 16 + c) * 6 + k)) ∧
    b + bytes x.hdr ≤ 262144 ∧ b % 128 = 0 ∧
    (∀ l ∈ others, ∀ c ∈ cores, c ∈ l.cores → 0 < bytes x.hdr → 0 < bytes l.hdr → l.lbase + bytes l.hdr ≤ b ∨ b + bytes x.hdr ≤ l.lbase) ∧
    (∀ c ∈ cores, (∃ sl < 14, lookup (s.core c).slots sl = none ∧ sl ∉ (s.core c).ghosts) ∧ total (·.inbox) c ≤ 64 ∧ total (·.handles) c ≤ 64 ∧
      total (fun h => h.qregs * slotCap h.qregs) c ≤ 32 ∧
      (x.hdr.cube = true → ∀ l ∈ others, c ∈ l.cores → l.hdr.cube = false)) ∧
    (∀ l ∈ others, x.hdr.fuse = true ∨ l.hdr.fuse = true → ∀ c ∈ cores, ∀ k ∈ l.cores, clusterOf c ≠ clusterOf k) ∧
    v.launches.foldl (fun n e => n + e.2.hdr.conf) x.hdr.conf ≤ 512 ∧
    ((x.hdr.energy * 1000 : Nat) : Int) ≤ v.acct.b ∧ others.foldl (fun n l => n + l.hdr.sluice) x.hdr.sluice ≤ 2 ^ 24 ∧
    ∀ e ∈ v.launches, e.2.save ≠ x.save

/-- R134, R162, R215 to R217, R243, R319, R321, R322, R327, R351, R377: WEIR_ADMIT. A head whose dependence failed under
DFAIL is refused with STATUS 5, one that the partition could never supply with STATUS 2 and the reason; the chosen head is
admitted when it can be placed: it becomes a launch under the next serial, its cores' regions are zero but for the preload, its
cubes' lanes and counts are clear, its energy leaves the bucket, and RI advances; one with checkpoints has its first image.
Else it stays chosen and waits. -/
def Says.Admissions : Prop :=
  ∀ (s : State) (d q : Nat) (x : QHead) (c : Live), (s.dom d).st = .running → lookup (s.dom d).heads q = some x →
      s.gateAll d true [(x.h, 16)] = .ok s →
    let v := s.dom d
    let i : Instr := .weirAdmit d
    let taken (t : State) : Prop := ∀ lq, s.launchQueue d q = some lq →
      Memory.read (t.dom d).mem (x.h + 8) 8 = (x.idx + 1) % 2 ^ 64
    let refused (status reason : Nat) : Prop := ∃ t, exec i s = .next t ∧ RecordIs t d x.crecPa status reason 0 s.cycle s.cycle 0 ∧
      lookup (t.dom d).heads q = none ∧ (t.dom d).chosen = none ∧
      (x.crecPa + 32 ≤ x.h + 8 ∨ x.h + 16 ≤ x.crecPa → taken t) ∧
      ∀ n, (lookup (t.dom d).launches n).isSome = (lookup v.launches n).isSome
    let waits (ctx : Bool) (key : Nat) : Prop := ∃ t, exec i s = .next t ∧ t.dom d = { v with chosen := some (ctx, key) } ∧
      (∀ j, j ≠ d → t.dom j = s.dom j) ∧ t = { s with doms := t.doms }
    (v.failedDep = some (q, x) → Writable s d x.crecPa → refused 5 0) ∧
    (v.failedDep = none → v.choose = none → exec i s = .next s) ∧
    (v.failedDep = none → v.choose = some c → c.ctx = true → waits true c.key) ∧
    (v.failedDep = none → v.choose = some c → c.ctx = false → c.key = q → ∀ r, v.never x = some r → Writable s d x.crecPa →
      refused 2 r) ∧
    (v.failedDep = none → v.choose = some c → c.ctx = false → c.key = q → v.never x = none → s.findPlace d x [] = none →
      waits false q) ∧
    (∀ cores b, v.failedDep = none → v.choose = some c → c.ctx = false → c.key = q → v.never x = none →
      s.findPlace d x [] = some (cores, b) →
      (x.hdr.fuse = true → ∀ k ∈ cores, (s.cache k).lines = [] ∧ ∀ m ∈ s.net, m.agent ≠ k) →
      ∃ t l, exec i s = .next t ∧ lookup (t.dom d).launches v.nextSerial = some l ∧ lookup (t.dom d).heads q = none ∧
        l.serial = v.nextSerial ∧ l.queue = q ∧ l.cores = cores ∧ l.left = cores ∧ l.work = cores.length ∧ l.lbase = b ∧
        l.startAt = s.cycle ∧ l.phase = .running ∧ l.hdr = x.hdr ∧ l.lvl = x.lvl ∧ l.prio = x.prio ∧ l.asn = x.asn ∧ l.root = x.root ∧
        l.crecPa = x.crecPa ∧ l.arg0 = x.arg0 ∧ l.arg1 = x.arg1 ∧ l.entries = x.entries ∧ l.energyRes = (x.hdr.energy * 1000 : Nat) ∧
        (x.hdr.ckpt = 0 → l.ckpt = none) ∧ (x.hdr.ckpt ≠ 0 → l.taken = 1 ∧ l.ckptDue = s.cycle + x.hdr.ckpt ∧ ∃ im, l.ckpt = some im ∧
          im.work = cores.length ∧ im.left = cores ∧ im.cores.map (·.core) = cores) ∧ taken t ∧
        (t.dom d).acct.b = v.acct.b - (x.hdr.energy * 1000 : Nat) ∧ (t.dom d).chosen = none ∧
        (∀ n, n ≠ v.nextSerial → (∀ y, lookup v.launches n = some y → y.hdr.ckpt = 0) → lookup (t.dom d).launches n = lookup v.launches n) ∧
        (∀ core ∈ cores, (∀ a, b ≤ a → a < b + (x.hdr.lmem + 64 * x.hdr.deque) →
            Memory.get (t.core core).lmem a = if a < b + x.hdr.lmem then x.preload.getD (a - b) 0#8 else 0#8) ∧
          (∀ a, a < b ∨ b + (x.hdr.lmem + 64 * x.hdr.deque) ≤ a → Memory.get (t.core core).lmem a = Memory.get (s.core core).lmem a) ∧
          (x.hdr.cube = true → let k := (s.core core).cube
            (t.core core).cube = { k with l0 := [], l1 := [], acc := [], cnt := [], owner := none, leaving := false, after := [],
                                          queue := [], exec := none }) ∧
          (x.hdr.cube = false → (t.core core).cube = (s.core core).cube) ∧
          (t.core core).fused = x.hdr.fuse ∧ (t.core core).slots = (s.core core).slots) ∧
        ∀ core, core ∉ cores → t.core core = s.core core)

/-- R65, R80, R85, R100, R113, R114, R134, R327: ENTRY_START starts the entry thread of the next placed core in its lowest free
slot, in a cycle in which the core allots no other: x1 and x2 hold the arguments, x3 its position, x4 the core count, x5 its
role and x7 CORE; every other register is zero, and the core's VSEQ starts from its index. -/
def Says.EntryThreads : Prop :=
  ∀ (s : State) (d n c sl p : Nat) (rest : List Nat) (l : Launch), lookup (s.dom d).launches n = some l →
      l.left = c :: rest → l.phase = .running → (s.core c).free.head? = some sl → l.cores[p]? = some c →
      (∀ j < p, l.cores[j]? ≠ some c) → n ≠ 0 →
    let role := l.roles.getD p 0
    (((s.core c).allotted = some ((s.core c).cyc - 1)) → exec (.entryStart d n) s = .next s) ∧
    (((s.core c).allotted ≠ some ((s.core c).cyc - 1)) → ∃ t x, exec (.entryStart d n) s = .next t ∧ t.thread? c sl = some x ∧
      (∀ r, x.getX r = if r = 1#6 then l.arg0 else if r = 2#6 then l.arg1 else if r = 3#6 then BitVec.ofNat 64 p
        else if r = 4#6 then BitVec.ofNat 64 l.cores.length else if r = 5#6 then BitVec.ofNat 64 role
        else if r = 7#6 then BitVec.ofNat 64 (coreNum c) else 0#64) ∧
      x.pc = l.entries.getD role 0#64 ∧ x.xfer = true ∧ x.st = .ready ∧ x.startAt = (s.core c).cyc + 16 ∧ x.lvl = l.lvl ∧ x.launch = n ∧
      x.dom = d ∧ x.asn = l.asn ∧ x.root = l.root ∧ x.p = 0#8 ∧ x.fpcr = 0#3 ∧ x.fpsr = 0#5 ∧ x.allot = 0 ∧
      x.rseq = ((tidOf c sl).setWidth 64 <<< 32 ||| 0x6A09E667#64) ∧ (∀ r, x.getF r = 0#64) ∧
      lookup (t.dom d).launches n = some { l with left := rest } ∧ (∀ j, j ≠ sl → t.thread? c j = s.thread? c j) ∧
      (t.core c).vseq = BitVec.ofNat 32 (c + 1) ∧ ∀ j, j ≠ c → t.core j = s.core j)

/-- R115, R140, R162, R298, R315, R319, R328, R377: LAUNCH_COMPLETE. When the outstanding-work count is zero and every packet
is done, the slots parked in DQRUN are freed and the placed cores are drained; once the drains are acknowledged, and every
packet published meanwhile is done, the launch is gone: its regions are zero, its queues, deques and handles are gone, its
unspent energy returns, and its record shows STATUS 1. Before that nothing happens. -/
def Says.Completions : Prop :=
  ∀ (s : State) (d n : Nat) (l : Launch), lookup (s.dom d).launches n = some l → l.serial = n → l.hdr.fuse = false →
    let i : Instr := .launchComplete d n
    (l.phase = .running → l.work ≠ 0 → exec i s = .next s) ∧
    (∀ s1, l.phase = .running → l.work = 0 → s.engineQuiet d n = (s1, some false) → exec i s = .next s) ∧
    (l.phase = .running → l.work = 0 → s.engineQuiet d n = (s, some true) → (∀ c ∈ l.cores, s.activeOn d l true c = false) →
      ∃ t ids, exec i s = .next t ∧
      lookup (t.dom d).launches n = some { l with phase := .draining ids } ∧
      (∀ m ∈ s.net, m.dom = d → m.launch = n → m.st ≠ .waiting → m.id ∈ ids) ∧
      (∀ c ∈ l.cores, ∀ y ∈ (t.cache (s.agentOf c)).lines, y.dirty = 0#128) ∧
      ∀ c ∈ l.cores, ∀ y ∈ (s.cache (s.agentOf c)).lines, y.dirty ≠ 0#128 → ∃ m ∈ t.net, m.id ∈ ids ∧ m.kind = .writeBack ∧
        m.pa = 128 * y.line ∧ m.data = y.data ∧ m.mask = y.dirty ∧ m.dom = y.dom) ∧
    (l.phase = .running → l.work = 0 → s.engineQuiet d n = (s, some true) →
      ∃ t, exec i s = .next t ∧ ∀ c ∈ l.cores, ∀ sl x, s.thread? c sl = some x → x.dom = d → x.launch = n →
        (∃ k, x.st = .parked (.deque k)) → s.stealing c sl = false → t.thread? c sl = none) ∧
    (∀ ids, l.phase = .draining ids → (∃ m ∈ s.net, m.id ∈ ids) → exec i s = .next s) ∧
    (∀ ids s1, l.phase = .draining ids → (∀ m ∈ s.net, m.id ∉ ids) → s.engineQuiet d n = (s1, some false) →
      ∃ t, exec i s = .next t ∧ lookup (t.dom d).launches n = some { l with phase := if l.saved = [] then .running else .out } ∧
        s.SameMemory t) ∧
    (∀ ids u, l.phase = .draining ids → (∀ m ∈ s.net, m.id ∉ ids) → l.saved = [] → s.engineQuiet d n = (s, some true) →
      Writable s d l.crecPa → s.unbindEach (s.boundQueues d n) = .ok u → ∃ t, exec i s = .next t ∧
      lookup (t.dom d).launches n = none ∧ RecordIs t d l.crecPa 1 0 n l.startAt s.cycle (l.energyTot / 1000) ∧
      (t.dom d).replicas = [] ∧ (t.dom d).acct.b = min ((s.dom d).acct.b + max l.energyRes 0) ((s.dom d).acct.cap * 1000 : Nat) ∧
      (∀ c, ∀ e ∈ (t.core c).eng.queues, ¬(e.launch = n ∧ e.dom = d)) ∧
      ∀ c ∈ l.cores,
        (∀ a, l.lbase ≤ a → a < l.lbase + (l.hdr.lmem + 64 * l.hdr.deque) → Memory.get (t.core c).lmem a = 0#8) ∧
        lookup (t.core c).deques n = none ∧ (∀ j < 64, (t.core c).handle n j = none) ∧
        (l.hdr.cube = true → (t.core c).cube.owner = none ∧ (t.core c).cube.done = (s.core c).cube.done))

/-! ### Pre-emption, eviction and restoration (R111, R140, R322 to R325) -/

/-- R319, R321, R322, R323: PREEMPT changes nothing but launches of lower effective priority than the chosen one, which begin
to be pre-empted; and when some of them keep it from its reservation, those that have to go do. For a head that is to be
refused none goes. -/
def Says.Preemptions : Prop :=
  ∀ (s : State) (d : Nat) (c : Live), (s.dom d).choose = some c → keysRise (s.dom d).launches = true →
    let v := s.dom d
    let going := (v.launches.filter fun e => e.2.preempted).map (·.1)
    (v.mustRefuse c = true ∨ v.st ≠ .running → exec (.preempt d) s = .next s) ∧
    ∃ t, exec (.preempt d) s = .next t ∧ t.dom d = { v with launches := (t.dom d).launches } ∧ (∀ j, j ≠ d → t.dom j = s.dom j) ∧
      t = { s with doms := t.doms } ∧
      (∀ n l, lookup v.launches n = some l → lookup (t.dom d).launches n = some l ∨
        (lookup (t.dom d).launches n = some { l with phase := .preempting s.cycle } ∧ l.phase = .running ∧
          ∃ e ∈ v.effective, e.ctx = true ∧ e.key = n ∧ e.eff < c.eff)) ∧
      ∀ gone, v.st = .running → v.mustRefuse c = false → s.wouldFit d c [] = false → s.wouldFit d c going = false →
        takeUntil (s.wouldFit d c) going (v.victims c.eff) = some gone → s.wouldFit d c gone = true ∧
          ∀ n ∈ gone, ∀ l, lookup v.launches n = some l → l.phase = .running →
            lookup (t.dom d).launches n = some { l with phase := .preempting s.cycle }

/-- R111, R140, R160, R169, R323, R351: THREAD_EVICT of a parked thread of a context that must leave its cores, with nothing of
it in flight: it leaves its slot and stands in the save area, parked with its wake condition; the request with which it stands
on a wait list goes with it. One in WAITF or DEPART.W performs its instruction afresh when it is restored. One idle in DQRUN
only frees its slot. Its generators go with it, but during a checkpoint, which keeps its slot and its generators taken. -/
def Says.Evictions : Prop :=
  ∀ (s : State) (c sl t0 : Nat) (x : Thread) (l : Launch), s.thread? c sl = some x →
      lookup (s.dom x.dom).launches x.launch = some l → l.phase = .preempting t0 ∨ l.phase = .checkpointing t0 →
      s.evictable c sl x = true →
    let i : Instr := .threadEvict c sl
    let inPlace : Prop := l.phase = .checkpointing t0
    let mine (m : Msg) : Prop := m.core = c ∧ m.slot = sl ∧ m.gen = x.gen
    let gens (g : Nat × Gen) : Prop := g.2.slot = sl ∧ g.2.gen = x.gen
    let afresh (y : Thread) : Thread := { y with st := .ready, pc := x.lastPc, pendV := none }
    let bare : Thread := { x with held := none, fetching := none }
    let saved (y : Thread) (msg : Option Msg) : Prop := ∃ t l' sv, exec i s = .next t ∧ t.thread? c sl = none ∧
      (∀ j, j ≠ sl → t.thread? c j = s.thread? c j) ∧ (∀ j, j ≠ c → t.core j = s.core j) ∧
      lookup (t.dom x.dom).launches x.launch = some l' ∧ (l'.savedAt c).threads = (l.savedAt c).threads ++ [sv] ∧ sv.slot = sl ∧
      sv.thread = y ∧ sv.msg = msg ∧ (∀ m ∈ t.net, m ∈ s.net ∧ (mine m → m.st ≠ .waiting)) ∧
      (∀ g, g ∈ sv.gens ↔ g ∈ (s.core c).gens ∧ gens g) ∧
      (∀ g, g ∈ (t.core c).gens ↔ g ∈ (s.core c).gens ∧ (inPlace ∨ ¬gens g)) ∧ (inPlace → sl ∈ (t.core c).ghosts)
    ((∀ m ∈ s.net, ¬mine m) →
      ((∃ n, x.st = .parked (.deadline n)) ∨ (∃ n, x.st = .parked (.turns n)) ∨ (∃ a k r, x.st = .parked (.handle a k r)) ∨
        (∃ q, x.st = .parked (.cube q)) ∨ (∃ r, x.st = .parked (.record r)) → saved bare none) ∧
      ((∃ a k r, x.st = .parked (.word a k r)) → saved (afresh bare) none) ∧
      (x.st = .parked .scheduler → saved { bare with st := .ready } none) ∧
      ∀ k, x.st = .parked (.deque k) → ∃ t, exec i s = .next t ∧ t.thread? c sl = none ∧
        lookup (t.dom x.dom).launches x.launch = some { l with
          spilled := l.spilled.filter fun e => e.lgen != x.gen, work := if x.ended then l.work else l.work - 1 }) ∧
    ∀ m, m ∈ s.net → mine m → (∀ k ∈ s.net, mine k → k = m) → m.st = .waiting → x.st = .parked (.home m.id) →
      (∀ v r w, m.kind ≠ .steal v r w) →
      ((∀ w tr q, m.kind ≠ .depart w tr q) → saved bare (some m)) ∧
      ((∃ w tr q, m.kind = .depart w tr q) → saved (afresh bare) none)

/-- R124, R213, R273, R323, R377: CORE_SAVE_END of a core of a pre-empted context on which nothing of it runs any more: the save
area holds its local memory, deque, handles and cube, they leave the core, and the save counts as a release by the core; with
the last core the context gives up its reservations and its unspent energy. -/
def Says.CoreSaves : Prop :=
  ∀ (s : State) (c n d t0 : Nat) (l : Launch), (s.core c).part = some d → lookup (s.dom d).launches n = some l → l.serial = n →
      l.phase = .preempting t0 → c ∈ l.cores → (l.savedAt c).ended = false → s.activeOn d l true c = false →
      s.foldBlocks (s.agentOf c) = false → l.hdr.fuse = false →
    let inside (a : Nat) : Prop := l.lbase ≤ a ∧ a < l.lbase + (l.hdr.lmem + 64 * l.hdr.deque)
    let last : Prop := ∀ x ∈ l.cores, x ≠ c → (l.savedAt x).ended = true
    ∃ t l', exec (.coreSaveEnd c n) s = .next t ∧ lookup (t.dom d).launches n = some l' ∧
      (∀ e, e ∈ (l'.savedAt c).lmem ↔ e ∈ (s.core c).lmem ∧ inside e.1) ∧
      (∀ e, e ∈ (l'.savedAt c).handles ↔ e ∈ (s.core c).handles ∧ e.1 / 64 = n) ∧
      (l'.savedAt c).items = (s.core c).deque n ∧ (l'.savedAt c).ended = true ∧ (l'.savedAt c).threads = (l.savedAt c).threads ∧
      (l.hdr.cube = true → (t.core c).cube.owner = none ∧
        (l'.savedAt c).cube = some { (s.core c).cube with owner := (s.core c).cube.owner.map (· % 16) }) ∧
      (∀ a, Memory.get (t.core c).lmem a = if l.lbase ≤ a ∧ a < l.lbase + (l.hdr.lmem + 64 * l.hdr.deque) then 0#8
        else Memory.get (s.core c).lmem a) ∧
      lookup (t.core c).deques n = none ∧ (t.core c).outq = (s.core c).outq ∧
      (t.cache (s.agentOf c)).relcnt = (s.cache (s.agentOf c)).relcnt + 1#64 ∧
      (¬last → l'.phase = l.phase ∧ (t.dom d).acct = (s.dom d).acct) ∧
      (last → l'.phase = .out ∧
        (t.dom d).acct.b = min ((s.dom d).acct.b + max l.energyRes 0) ((s.dom d).acct.cap * 1000 : Nat))

/-- A wake condition that a core looks at itself: a handle's state, a cube command, a trap record. -/
def Watches (x : ThreadSt) : Prop :=
  (∃ h m d, x = .parked (.handle h m d)) ∨ (∃ q, x = .parked (.cube q)) ∨ ∃ d, x = .parked (.record d)

/-- R111, R325, R377: CONTEXT_RESTORE of the chosen context, when its own placement can be reserved at its own LBASE, with the
energy that it gave back: its threads return to their slots, a PARKED one as it was or, its wake condition holding, to
rotation; its local memory and handles stand as they were saved, the homes look again at the words its threads wait on, and it
runs. Else nothing happens. -/
def Says.Restorations : Prop :=
  ∀ (s : State) (d : Nat) (c : Live) (l : Launch), (s.dom d).choose = some c → lookup (s.dom d).launches c.key = some l →
    ((s.dom d).st ≠ .running ∨ c.ctx = false ∨ l.evicted = false ∨ s.contextFits d l [] = false →
      exec (.contextRestore d) s = .next s) ∧
    ((s.dom d).st = .running → c.ctx = true → l.evicted = true → s.contextFits d l [] = true →
      (l.hdr.fuse = true → ∀ k ∈ l.cores, (s.cache k).lines = [] ∧ ∀ m ∈ s.net, m.agent ≠ k) →
      l.saved.Pairwise (fun a b => a.core ≠ b.core) →
      ∃ t, exec (.contextRestore d) s = .next t ∧ lookup (t.dom d).launches c.key = some { l with phase := .running, saved := [] } ∧
        (t.dom d).chosen = none ∧ (t.dom d).acct.b = (s.dom d).acct.b - max l.energyRes 0 ∧
        (∀ sv ∈ l.saved, ∀ x ∈ sv.threads, ∀ m, x.msg = some m → { m with st := .poked } ∈ t.net) ∧
        ∀ sv ∈ l.saved, (sv.threads.Pairwise fun a b => a.slot ≠ b.slot) → keysRise sv.lmem = true →
          (∀ x ∈ sv.threads, ¬Watches x.thread.st → t.thread? sv.core x.slot =
            some { x.thread with startAt := max x.thread.startAt ((s.core sv.core).cyc + 1) }) ∧
          (∀ x ∈ sv.threads, Watches x.thread.st → ∃ y, t.thread? sv.core x.slot = some y ∧ y.pc = x.thread.pc ∧
            y.gen = x.thread.gen ∧ y.launch = x.thread.launch ∧ (y.st = x.thread.st ∨ y.st = .ready) ∧
            (∀ r, x.thread.st = .parked (.record r) → (y.st = .ready ↔ (s.core sv.core).trapq ≠ []))) ∧
          (∀ j, (∀ x ∈ sv.threads, x.slot ≠ j) → (∀ y, s.thread? sv.core j = some y → ¬Watches y.st) →
            t.thread? sv.core j = s.thread? sv.core j) ∧
          ((s.core sv.core).stored.length + sv.items.length ≤ 64 → ∀ a, l.lbase ≤ a → a < l.lbase + (l.hdr.lmem + 64 * l.hdr.deque) →
            Memory.get (t.core sv.core).lmem a = Memory.get sv.lmem a))

/-! ### Checkpoints and containment (R348, R350 to R354) -/

/-- Every thread of launch `n` of domain `d` is gone from a core. -/
def Stopped (t : State) (d n c : Nat) : Prop := ∀ e ∈ (t.core c).slots, ¬(e.2.dom = d ∧ e.2.launch = n)

/-- R124, R333, R348, R350: an unrecoverable fault stops a context at once: its threads are gone from its cores, its messages
from their outbound queues, its requests from the network, and a record of a machine check of kind 2 with CONTAINED is queued
at the core. One that stands evicted is stopped where it stands. -/
def Says.Containment : Prop :=
  ∀ (s : State) (d n c : Nat) (l : Launch), lookup (s.dom d).launches n = some l → l.serial = n →
      l.phase = .running ∨ l.phase = .out →
    let failed (t : State) : Prop :=
      lookup (t.dom d).launches n = some { l with phase := .failed (decide (l.phase = .out)) } ∧
      (l.phase = .running → ∀ x ∈ l.cores, Stopped t d n x) ∧
      (∀ x ∈ l.cores, ∀ m ∈ (t.core x).outq, m.launch ≠ n) ∧
      (∀ m ∈ t.net, m.dom = d → m.launch = n → m.kind = .writeBack ∨ ∃ a e h, m.kind = .drain a e h) ∧
      (∃ r ∈ (t.core c).trapq, r.w0.extractLsb' 0 16 = 0x0800#16 ∧ r.w2 = 0#64 ∧ r.w3 = 2#64) ∧
      ∀ j, j ≠ d → t.dom j = s.dom j
    (∃ t, exec (.ueStateMachineCheck d n c) s = .next t ∧ failed t) ∧
    ∀ (a : BitVec 6) (p : BitVec 3), 2 ≤ s.cur.lvl.toNat → s.cur.dom = d → s.iss.core = c → (s.rx a).toNat % 2 ^ 32 = n →
      l.hdr.ckpt ≠ 0 → ∃ t, exec (.ckptRoll a p) s = .next t ∧ failed t

/-- R351, R354: CKPT at the firmware level, of a launch that takes checkpoints: .TAKE starts one unless one is in progress, and
.STAT gives the checkpoints taken and the rollbacks. With no such launch P[PD] is cleared. CHECKPOINT starts one that is due,
and ends it once the drains are acknowledged: the image holds what was saved, the undo log is empty, and the threads go on. -/
def Says.Checkpoints : Prop :=
  ∀ (s : State) (d a : BitVec 6) (p : BitVec 3),
    let n := (s.rx a).toNat % 2 ^ 32
    let dm := s.cur.dom
    let at' := (s.core s.iss.core).cyc
    let marks (l' : Launch) : Prop := ∃ (t u : State), exec (.ckptTake a p) s = .next t ∧ lookup (u.dom dm).launches n = some l' ∧
      u.dom dm = { s.dom dm with launches := (u.dom dm).launches } ∧ (∀ k, k ≠ n → lookup (u.dom dm).launches k = lookup (s.dom dm).launches k) ∧
      (∀ j, j ≠ dm → u.dom j = s.dom j) ∧ u = { s with doms := u.doms } ∧ t.rp p = true ∧ u.Frame t [] [p] [] []
    (2 ≤ s.cur.lvl.toNat →
      ((∀ l, lookup (s.dom dm).launches n = some l → l.hdr.ckpt = 0) →
        ∀ i ∈ [Instr.ckptTake a p, .ckptRoll a p, .ckptStat d a p], WritesP i s p false) ∧
      ∀ l, lookup (s.dom dm).launches n = some l → l.hdr.ckpt ≠ 0 →
        (l.phase = .running → marks { l with phase := .checkpointing at' }) ∧
        ((∃ t0, l.phase = .checkpointing t0) ∨ (∃ ids, l.phase = .ckptDrain ids) → marks l) ∧
        (l.phase = .out → marks { l with ckptDue := 0 }) ∧
        ∃ t v, exec (.ckptStat d a p) s = .next t ∧ t.rx d = (if d = 0#6 then 0#64 else v) ∧
          v.extractLsb' 0 32 = BitVec.ofNat 32 l.taken ∧ v.extractLsb' 32 32 = BitVec.ofNat 32 l.rolled ∧ t.rp p = true ∧
          s.Frame t [d] [p] [] []) ∧
    ∀ k m l, lookup (s.dom k).launches m = some l → l.hdr.ckpt ≠ 0 →
      (l.phase = .running → l.ckptDue ≤ s.cycle ∨ 2 ^ 20 ≤ l.undo.length → ∃ t, exec (.checkpoint k m) s = .next t ∧
        lookup (t.dom k).launches m = some { l with phase := .checkpointing s.cycle } ∧ t = { s with doms := t.doms }) ∧
      (l.phase = .running → s.cycle < l.ckptDue → l.undo.length < 2 ^ 20 → exec (.checkpoint k m) s = .next s) ∧
      (∀ ids, l.phase = .ckptDrain ids → (∀ x ∈ s.net, x.id ∉ ids) → ∃ t l', exec (.checkpoint k m) s = .next t ∧
        lookup (t.dom k).launches m = some l' ∧ l'.phase = .running ∧ l'.undo = [] ∧ l'.undoPoison = [] ∧ l'.taken = l.taken + 1 ∧
        l'.ckptDue = s.cycle + l.hdr.ckpt ∧ l'.saved = [] ∧ ∃ img, l'.ckpt = some img ∧ img.cores = l.saved ∧ img.work = l.work ∧
          img.left = l.left)

/-- R315, R349, R350, R352, R353: ROLLBACK of a context that failed: the bytes that it wrote since its checkpoint are again
what they were, and its words poisoned as they were; no L1 of its cores holds a clean byte; it runs again from the image once
its slots are free, or waits to be restored from it when it stood evicted. CONTEXT_TERMINATE of one without a checkpoint ends
it with STATUS 4. -/
def Says.Rollbacks : Prop :=
  ∀ (s : State) (d n : Nat) (l : Launch) (out : Bool), lookup (s.dom d).launches n = some l → l.serial = n → l.phase = .failed out →
    let w := s.modDom d fun v => { v with conf := v.conf.map fun e =>
      if e.launch == n then { e with st := .closed, pin := false } else e }
    (∀ img, l.ckpt = some img → out = false → s.slotsFit img.cores = false → exec (.rollback d n) s = .next s) ∧
    (∀ img, l.ckpt = some img → out = true ∨ s.slotsFit img.cores = true → ∃ t l', exec (.rollback d n) s = .next t ∧
      (∀ a, Memory.get (t.dom d).mem a = (lookup l.undo.reverse a).getD (Memory.get (s.dom d).mem a)) ∧
      (∀ a, a ∈ (t.dom d).poison ↔ (lookup l.undoPoison.reverse a).getD (decide (a ∈ (s.dom d).poison)) = true) ∧
      (∀ c ∈ l.cores, ∀ y ∈ (t.cache (s.agentOf c)).lines, y.valid = y.dirty) ∧
      lookup (t.dom d).launches n = some l' ∧ l'.phase = (if out then .out else .running) ∧ (out = true → l'.saved = img.cores) ∧
      l'.work = img.work ∧ l'.left = img.left ∧ l'.undo = [] ∧ l'.undoPoison = [] ∧ l'.rolled = l.rolled + 1 ∧
      l'.spilled = img.conf ∧ ∀ e ∈ (t.dom d).conf, e.launch ≠ n) ∧
    (∀ u, l.ckpt = none → l.hdr.fuse = false → Writable w d l.crecPa → w.unbindEach (w.boundQueues d n) = .ok u →
      ∃ t, exec (.contextTerminate d n) s = .next t ∧ lookup (t.dom d).launches n = none ∧
        (∀ e ∈ (t.dom d).conf, e.launch = n → e.st = .closed) ∧
        RecordIs t d l.crecPa 4 0 n l.startAt s.cycle (l.energyTot / 1000))

/-! ### The directory (R299 to R308) -/

/-- Only domain `d` has changed, to `v`. -/
def OnlyDom (s t : State) (d : Nat) (v : Dom) : Prop := t.dom d = v ∧ (∀ j, j ≠ d → t.dom j = s.dom j) ∧ t = { s with doms := t.doms }

/-- No earlier request waits at the block of `pa`. -/
def NoneWaits (v : Dom) (pa : Nat) : Prop := ∀ r ∈ v.reqs, r.pa / 65536 ≠ pa / 65536

/-- Nothing of the block of `pa` is being served, and no earlier request waits at it. -/
def BlockIdle (v : Dom) (pa : Nat) : Prop := NoneWaits v pa ∧ ∀ p ∈ v.pend, p.line / 512 ≠ pa / 65536

/-- The halves that splitting the entry of a line down to the line makes have ways in their sets (R304, R307). -/
def SplitFits (v : Dom) (line : Nat) : Prop := (splitBases line v.dir).findSome? (v.roomFor line) = none

/-- The outside agent is answered with the 128-byte line of `pa`: poisoned, or data of the kind given. -/
def AnswersLine (s t : State) (d pa kind : Nat) : Prop :=
  ∃ a : Answer, t.answers = s.answers ++ [a] ∧ a.addr = pa / 128 * 128 ∧ a.size = 128 ∧
    (∀ j < 1024, a.data.getLsbD j = s.hbit d (pa / 128 * 128) j) ∧
    (a.kind = 4 ↔ ∃ w ∈ (s.dom d).poison, w / 16 = pa / 128) ∧ (a.kind ≠ 4 → a.kind = kind)

/-- R299, R303, R304, R312: RdS and RdO of agents of the partition's set, at a block where nothing is being served. A line that
no entry covers gets one of SIZE 9; a request that conflicts with no entry is answered at once, at the entry's present size; one
that conflicts splits the entry down to the line, the halves copying it, and sends an invalidation of that line alone to every
agent its entry names but the requester. It waits while the block is being served, behind a core access that waits at it, and
while its page is FLIPPING. An agent outside the set, or an address outside the memory, is refused. -/
def Says.ExternalReads : Prop :=
  ∀ (s : State) (d agent pa : Nat) (own : Bool),
    let i := if own then Instr.rdo d agent pa else .rds d agent pa
    let v := s.dom d
    let line := pa / 128
    let kind := if own then 3 else 2
    let asked := v.asked.filter fun l => l != line
    let waits : Prop := ∃ t r, exec i s = .next t ∧ r.agent = agent ∧ r.pa = pa ∧ r.kind = kind ∧
      OnlyDom s t d { v with reqs := v.reqs ++ [r] }
    (v.bytes ≤ pa ∨ agent ∉ v.agentSet → exec i s = .next { s with answers := s.answers ++ [⟨1, pa, 128, 0⟩] }) ∧
    (pa < v.bytes → agent ∈ v.agentSet → NoneWaits v pa → (∃ p ∈ v.pend, p.line / 512 = pa / 65536) ∨ s.biasAt d pa = 2#2 → waits) ∧
    (∀ r, pa < v.bytes → agent ∈ v.agentSet → v.reqs.find? (fun r => r.pa / 65536 == pa / 65536) = some r → r.kind = 6 →
      s.stillAsks r = true → waits) ∧
    (pa < v.bytes → agent ∈ v.agentSet → BlockIdle v pa → s.biasAt d pa ≠ 2#2 → (agent = 1 → s.biasAt d pa = 1#2) →
      (v.entryOf line = none → (v.setMates (line / 512 * 512)).length < 16 →
        ∃ t e, exec i s = .next t ∧ AnswersLine s t d pa kind ∧ t = { s with doms := t.doms, answers := t.answers } ∧
          OnlyDom s { t with answers := s.answers } d { v with dir := e :: v.dir, asked := asked } ∧
          e.line = line / 512 * 512 ∧ e.size = 9 ∧ e.owned = own ∧ e.coarse = false ∧ e.last = s.cycle ∧
          ∀ x, x ∈ e.agents v.agentSet ↔ x = agent ∨ (x = 0 ∧ ∃ l ∈ v.l2, l / 512 = line / 512)) ∧
      (∀ e, v.entryOf line = some e →
        let names := e.agents v.agentSet
        let conflict : Prop := if own then ∃ x ∈ names, x ≠ agent else e.owned = true ∧ agent ∉ names
        (¬conflict → ∃ t e', exec i s = .next t ∧ AnswersLine s t d pa kind ∧ t = { s with doms := t.doms, answers := t.answers } ∧
          OnlyDom s { t with answers := s.answers } d { v with dir := v.dir.map fun x => if x = e then e' else x, asked := asked } ∧
          e'.line = e.line ∧ e'.size = e.size ∧ e'.last = s.cycle ∧
          (own = true → e'.owned = true ∧ e'.coarse = false ∧ e'.agents v.agentSet = [agent]) ∧
          (own = false → e'.owned = e.owned ∧
            (agent ∈ names → e' = { e with last := s.cycle }) ∧
            (agent ∉ names → e.coarse = true → e'.coarse = true ∧
              ∀ g < 64, e'.holders.getLsbD g = (e.holders.getLsbD g || g == agent / 32)) ∧
            (agent ∉ names → e.coarse = false → e.nptr < 4 → e.holders.toNat < 2 ^ (11 * e.nptr) →
              e'.coarse = false ∧ e'.agents v.agentSet = names ++ [agent]) ∧
            (agent ∉ names → e.coarse = false → e.nptr = 4 → e'.coarse = true ∧ e'.nptr = 0 ∧
              ∀ g < 64, e'.holders.getLsbD g = true ↔ ∃ x, (x = agent ∨ x ∈ names) ∧ x / 32 = g))) ∧
        (conflict → e.size ≤ 9 → SplitFits v line → ∃ t p, exec i s = .next t ∧
          OnlyDom s t d { v with dir := (t.dom d).dir, pend := v.pend ++ [p], asked := asked } ∧
          p.line = line ∧ (∀ x, x ∈ p.agents ↔ x ∈ names ∧ x ≠ agent) ∧ p.why = (if own then .rdo agent else .rds agent) ∧
          (t.dom d).entryOf line = some { e with line := line, size := 0 } ∧
          ∀ l, ((t.dom d).entryOf l).map (fun x => (x.owned, x.coarse, x.nptr, x.holders)) =
            (v.entryOf l).map fun x => (x.owned, x.coarse, x.nptr, x.holders))))

/-- R307: when the 16 ways of its set are all taken, a request that needs an entry waits, and the home recalls an entry of the
set than which no other was requested less recently, from every agent it names, line by line; while a recall of the slice is
under way it waits for that. A split whose halves find no way waits so too. -/
def Says.EntryRecalls : Prop :=
  ∀ (s : State) (d agent pa : Nat) (own : Bool),
    let i := if own then Instr.rdo d agent pa else .rds d agent pa
    let v := s.dom d
    let line := pa / 128
    let mates := v.setMates (line / 512 * 512)
    let recalling : Prop := ∃ p ∈ v.pend, p.why = DirWhy.recall ∧ v.dirSlice p.line = v.dirSlice (line / 512 * 512)
    let waits (pend : List DirPend) : Prop := ∃ t r, exec i s = .next t ∧ r.agent = agent ∧ r.pa = pa ∧
      OnlyDom s t d { v with reqs := v.reqs ++ [r], pend := pend, asked := v.asked.filter fun l => l != line }
    pa < v.bytes → agent ∈ v.agentSet → BlockIdle v pa → s.biasAt d pa ≠ 2#2 → (agent = 1 → s.biasAt d pa = 1#2) →
    (v.entryOf line = none → 16 ≤ mates.length → recalling → waits v.pend) ∧
    (v.entryOf line = none → 16 ≤ mates.length → ¬recalling → ∃ e ∈ mates, (∀ x ∈ mates, e.last ≤ x.last) ∧
      waits (v.pend ++ (e.lines v.dir).map fun l => ⟨l, e.agents v.agentSet, .recall⟩) ∧
      ∀ l, l ∈ e.lines v.dir ↔ e.covers l = true ∧ ∀ x ∈ v.dir, ¬(x.covers l = true ∧ x.size < e.size)) ∧
    ∀ e v', v.entryOf line = some e → (own = true → ∃ x ∈ e.agents v.agentSet, x ≠ agent) →
      (own = false → e.owned = true ∧ agent ∉ e.agents v.agentSet) → (splitBases line v.dir).findSome? (v.roomFor line) = some v' →
      waits v'.pend

/-- A Gauge counter has advanced by one, saturating, and no other has changed (R381). -/
def Counts (s t : State) (cls kind inst : Nat) : Prop :=
  let i := 65536 * cls + 4096 * kind + inst
  t.gaugeAt i = (if s.gaugeAt i = BitVec.allOnes 64 then s.gaugeAt i else s.gaugeAt i + 1#64) ∧ ∀ j, j ≠ i → t.gaugeAt j = s.gaugeAt j

/-- R302, R304, R305, R308, R310, R396: an acknowledgement that nothing awaits changes nothing. One that is awaited performs the
bytes it returns, agent 0 dropping its copies instead; the last one of a line lets the home go on, at a block where nothing
waits. A region that is rebuilt is counted then. -/
def Says.InvalidationAcks : Prop :=
  ∀ (s : State) (d agent pa : Nat) (mask : BitVec 128) (data : BitVec 1024),
    ∀ i ∈ Instr.invalidationAck d agent pa mask data :: (if agent = 1 then [Instr.backInvalidateResponse d pa mask data] else []),
    let v := s.dom d
    let line := pa / 128
    ((∀ p ∈ v.pend, p.line = line → agent ∉ p.agents) → exec i s = .next s) ∧
    ∀ p ∈ v.pend, p.line = line → agent ∈ p.agents → (∀ q ∈ v.pend, q.line = line → q = p) →
      v.pend.count p = 1 → NoneWaits v pa → (p.why = DirWhy.recall → v.reqs = []) →
      (∀ e, v.entryOf line = some e → ∀ x ∈ v.dir, x.covers line = true → x.size ≤ e.size → x = e) →
    ∃ u t : State, exec i s = .next t ∧
      (agent ≠ 0 → mask ≠ 0#128 → ∃ u0, s.OutsideWrite u0 d line mask data ∧ (p.why ≠ DirWhy.flip → u = u0) ∧
        (p.why = DirWhy.flip → OnlyDom u0 u d { u0.dom d with llc := (u.dom d).llc } ∧ line ∈ (u.dom d).llc)) ∧
      (agent ≠ 0 → mask = 0#128 → u = s) ∧
      (agent = 0 → OnlyDom s u d { v with l2 := v.l2.erase line, llc := (u.dom d).llc, replicas := (u.dom d).replicas } ∧
        line ∈ (u.dom d).llc ∧ ∀ r, r ∈ (u.dom d).replicas ↔ r ∈ v.replicas ∧ r.1 ≠ line) ∧
      (p.agents ≠ [agent] → OnlyDom u t d { u.dom d with
        pend := v.pend.map (fun q => if q = p then { p with agents := p.agents.erase agent } else q) }) ∧
      (p.agents = [agent] →
        let w : Dom := { u.dom d with pend := v.pend.erase p, dir := (t.dom d).dir }
        let removed : Prop := OnlyDom u t d w ∧ ∀ x, x ∈ (t.dom d).dir ↔ x ∈ (u.dom d).dir ∧ (u.dom d).entryOf line ≠ some x
        let here : Prop := line ∈ (u.dom d).l2
        let isSoleEntry (owned : Bool) (a : Nat) : Prop := ∃ e, (t.dom d).entryOf line = some e ∧ e.line = line ∧ e.size = 0 ∧
          e.owned = owned ∧ e.coarse = false ∧ (a < 2048 → e.agents v.agentSet = [a])
        (∀ a, p.why = .rds a → isSoleEntry false a ∧ AnswersLine u t d (128 * line) 2 ∧
          OnlyDom u { t with answers := s.answers } d w ∧ t = { u with doms := t.doms, answers := t.answers }) ∧
        (∀ a, p.why = .rdo a → isSoleEntry true a ∧ AnswersLine u t d (128 * line) 3 ∧
          OnlyDom u { t with answers := s.answers } d w ∧ t = { u with doms := t.doms, answers := t.answers }) ∧
        (∀ id, p.why = .core id true → (here → OnlyDom u t d w ∧ isSoleEntry false 0) ∧ (¬here → removed)) ∧
        (∀ id, p.why = .core id false → OnlyDom u t d { w with asked := (t.dom d).asked } ∧
          (∀ e, (u.dom d).entryOf line = some e → 1 ∈ e.agents v.agentSet → line ∈ (t.dom d).asked ∧
            let e' : DirEnt := { e with owned := false, last := s.cycle }
            (t.dom d).entryOf line = some (if line ∈ (u.dom d).l2 then e'.addAgent 0 else e')) ∧
          ((∀ e, (u.dom d).entryOf line = some e → 1 ∉ e.agents v.agentSet) → isSoleEntry false 0)) ∧
        (p.why = DirWhy.flip → removed) ∧
        (p.why = DirWhy.recall → (∀ q ∈ v.pend, q ≠ p → q.why ≠ DirWhy.recall) → removed) ∧
        (∀ b n, p.why = .rebuild b n → (∀ q ∈ v.pend, q ≠ p → q.why ≠ .rebuild b n) →
          OnlyDom u { t with gauge := u.gauge } d w ∧ t = { u with doms := t.doms, gauge := t.gauge } ∧
          Counts u t 8 3 ((u.dom d).dirSlice b) ∧
          ∀ x, x ∈ (t.dom d).dir ↔ x ∈ (u.dom d).dir ∧ ¬(b ≤ x.line ∧ x.line < b + 2 ^ n ∧ x.size ≤ n)) ∧
        (∀ b n, p.why = .rebuild b n → (∃ q ∈ v.pend, q ≠ p ∧ q.why = .rebuild b n) → OnlyDom u t d { w with dir := (u.dom d).dir }))

/-- R303 to R305: WrB and EvN take their turn at their block. WrB of the agent that the entry names as owner performs its bytes;
any other is refused, its bytes are discarded and the event is counted. WrB and EvN make an entry of SIZE 0 whose one pointer is
the sender INVALID, unless an invalidation of the line to it is outstanding, and leave every other entry as it is; an EvN of an
agent that is not named is ignored. While such an invalidation is outstanding a WrB is performed at once and an EvN ignored. -/
def Says.WriteBacksAndNotices : Prop :=
  ∀ (s : State) (d agent pa : Nat) (mask : BitVec 128) (data : BitVec 1024) (crossed : Bool),
    let v := s.dom d
    let line := pa / 128
    let out : Prop := ∃ p ∈ v.pend, p.line = line ∧ agent ∈ p.agents
    let gives (e : DirEnt) : Prop := v.entryOf line = some e ∧ e.size = 0 ∧ e.coarse = false ∧ e.agents v.agentSet = [agent] ∧ ¬out
    let named : Prop := ∃ e, v.entryOf line = some e ∧ agent ∈ e.agents v.agentSet
    let owns : Prop := ∃ e, v.entryOf line = some e ∧ e.owned = true ∧ agent ∈ e.agents v.agentSet
    let given (u : State) : Prop := OnlyDom s u d { v with dir := (u.dom d).dir } ∧
      (∀ e, gives e → ∀ x, x ∈ (u.dom d).dir ↔ x ∈ v.dir ∧ x ≠ e) ∧
      ((∀ e, ¬gives e) → (u.dom d).dir.map (fun x => ({ x with last := 0 } : DirEnt)) = v.dir.map fun x => ({ x with last := 0 } : DirEnt))
    let served : Prop := BlockIdle v pa ∧ s.biasAt d pa ≠ 2#2
    let wrb := Instr.wrb d agent pa mask data
    let evn := Instr.evn d agent pa
    let waits (i : Instr) (kind : Nat) : Prop := ∃ t r, exec i s = .next t ∧ r.kind = kind ∧ r.agent = agent ∧ r.pa = pa ∧
      OnlyDom s t d { v with reqs := v.reqs ++ [r] }
    (agent = 1 → exec (.hostRequest d pa (4, crossed) mask data) s = exec (.wrb d 1 pa mask data) s ∧
      exec (.hostRequest d pa (5, crossed) 0#128 0#1024) s = exec (.evn d 1 pa) s) ∧
    (pa < v.bytes → agent ∈ v.agentSet → 128 * line + 128 ≤ v.bytes →
      (out → exec evn s = .next s) ∧
      (¬out → served → ¬named → ∃ t, exec evn s = .next t ∧ OnlyDom s t d v) ∧
      (¬out → served → named → ∃ t, exec evn s = .next t ∧ given t) ∧
      (out ∨ served → owns → ∃ u t, exec wrb s = .next t ∧ given u ∧ u.OutsideWrite t d line mask data) ∧
      (out ∨ served → ¬owns → ∃ t, exec wrb s = .next t ∧ given { t with gauge := s.gauge } ∧ Counts s t 8 1 (v.dirSlice line)) ∧
      (¬out → NoneWaits v pa → (∃ p ∈ v.pend, p.line / 512 = pa / 65536) ∨ s.biasAt d pa = 2#2 → waits wrb 4 ∧ waits evn 5))

/-- R306: ENTRY_MERGE puts two sibling halves back into their parent when all the conditions of the rule hold, QUIET being the
cycles since the last request; else it changes nothing.
Of each of these forms it concludes, under conditions on the state and the operands alone, that exec answers a next
state with the form's own effect: entryMerge. -/
def Obligations.EntryMerges : Prop :=
  ∀ (s : State) (d pa : Nat) (e x : DirEnt),
    let v := s.dom d
    let siblings : Prop := e.line = x.line + 2 ^ x.size ∨ x.line = e.line + 2 ^ e.size
    let quiet (y : DirEnt) : Prop := y.last + (2 ^ 20 - 1) ≤ s.cycle
    let merges : Prop := e.size < 9 ∧ x.size < 9 ∧ e.owned = x.owned ∧ e.coarse = x.coarse ∧ e.nptr = x.nptr ∧ e.holders = x.holders ∧
      quiet e ∧ quiet x ∧ ∀ p ∈ v.pend, ¬(e.covers p.line = true ∨ x.covers p.line = true)
    v.entryOf (pa / 128) = some e → x ∈ v.dir → x.size = e.size → siblings → min e.line x.line % 2 ^ (e.size + 1) = 0 →
    (∀ y ∈ v.dir, y.line = x.line → y.size = x.size → y = x) →
      (merges → ∃ t f, exec (.entryMerge d pa) s = .next t ∧ OnlyDom s t d { v with dir := (t.dom d).dir } ∧
        f.line = min e.line x.line ∧ f.size = e.size + 1 ∧ f.owned = e.owned ∧ f.coarse = e.coarse ∧ f.nptr = e.nptr ∧
        f.holders = e.holders ∧ ∀ y, y ∈ (t.dom d).dir ↔ y = f ∨ (y ∈ v.dir ∧ y ≠ e ∧ y ≠ x)) ∧
      (¬merges → exec (.entryMerge d pa) s = .next s)

/-- R308: when an entry reports an uncorrectable error, every line of its region is invalidated at every agent of the set,
agent 0 included; no thread changes. While that goes on a second report changes nothing, and no core access to the region is
let through. -/
def Says.DirectoryErrors : Prop :=
  ∀ (s : State) (d pa : Nat) (e : DirEnt), (s.dom d).entryOf (pa / 128) = some e →
    let v := s.dom d
    0 ∈ v.agentSet ∧
    ((∃ p ∈ v.pend, p.why = .rebuild e.line e.size) → exec (.directoryUe d pa) s = .next s ∧ ∀ a id write,
      e.covers (a / 128) = true → s.isBack id = false → ∃ u, s.gate d a id write = .blocked u) ∧
    ((∀ p ∈ v.pend, p.why ≠ .rebuild e.line e.size) → ∃ t, exec (.directoryUe d pa) s = .next t ∧
      OnlyDom s t d { v with pend := v.pend ++ (List.range (2 ^ e.size)).map fun j =>
        ⟨e.line + j, v.agentSet, .rebuild e.line e.size⟩ })

/-- R302, R303, R310, R312: a core access is let through at its home, takes its place among the requests of its block, or has the
line recalled first, by the bias of its page and by what the entry of its line says of outside agents. A read of a HOST page of
which the host has a shared copy asks the host first. -/
def Says.CoreAccessesAtDirectory : Prop :=
  ∀ (s : State) (d pa id : Nat) (write : Bool),
    let v := s.dom d
    let line := pa / 128
    let bias := s.biasAt d pa
    let outside (e : DirEnt) : List Nat := (e.agents v.agentSet).filter fun a => a ≠ 0
    let way : List Nat := match v.entryOf line with
      | none => []
      | some e => if write ∨ e.owned = true then outside e
        else if bias = 1#2 ∧ 1 ∈ outside e ∧ line ∉ v.asked then [1] else []
    let held : Prop := ∃ p ∈ v.pend, p.line = line ∨ ∃ b n, p.why = .rebuild b n ∧ b ≤ line ∧ line < b + 2 ^ n
    let queued : Prop := ∃ r ∈ v.reqs, r.kind = 6 ∧ r.id = id
    let reqs := if id = 0 ∨ queued then v.reqs else v.reqs ++ [⟨0, pa, 6, id, 0, 0⟩]
    let waits : Prop := ∃ t, s.gate d pa id write = .blocked t ∧ OnlyDom s t d { v with reqs := reqs }
    let concerned : Prop := bias = 1#2 ∨ way ≠ [] ∨ queued
    let behind : Prop := concerned ∧ v.ahead pa id = true
    s.isBack id = false →
      (bias = 2#2 ∨ held ∨ behind → waits) ∧
      (bias ≠ 2#2 → ¬held → ¬behind → way = [] → bias ≠ 1#2 → ¬queued → line ∉ v.asked → s.gate d pa id write = .ready s) ∧
      (bias ≠ 2#2 → ¬held → ¬behind → way = [] → ∃ t, s.gate d pa id write = .ready t ∧
        OnlyDom s t d { v with
          dir := if bias = 1#2 then v.dir.map (fun e => if v.entryOf line = some e then { e with last := s.cycle } else e) else v.dir
          reqs := v.reqs.filter fun r => !(r.kind == 6 && r.id == id)
          asked := v.asked.filter fun l => l != line } ∨ s.gate d pa id write = .ready s) ∧
      (bias ≠ 2#2 → ¬held → ¬behind → ∀ e, v.entryOf line = some e → way ≠ [] → e.size ≤ 9 → SplitFits v line →
        ∃ t p, s.gate d pa id write = .blocked t ∧
        OnlyDom s t d { v with dir := (t.dom d).dir, pend := v.pend ++ [p], reqs := reqs } ∧ p.line = line ∧ p.agents = way ∧
        p.why = .core id write ∧ (t.dom d).entryOf line = some { e with line := line, size := 0 })

/-! ### The host (R246, R309, R310, R312, R370, R372) -/

/-- R310, R312, R372: in DEVICE bias a request of the host is served at the home as an uncached access and leaves the host no copy,
once a peer that holds the line against it has given it up; in HOST bias a read is an RdS and a write an RdO of agent 1. One
that had crossed a back-invalidate of a core access is served first, and the back-invalidate goes out again. Window 2 reaches
the memory of its function's running partition so, line by line. -/
def Says.HostAccesses : Prop :=
  ∀ (s : State) (d pa n : Nat) (mask : BitVec 128) (data : BitVec 1024),
    let v := s.dom d
    let line := pa / 128
    let read := Instr.hostRequest d pa (0, false) 0#128 (BitVec.ofNat 1024 n)
    let write := Instr.hostRequest d pa (1, false) mask data
    let answered (t : State) (kind : Nat) : Prop := ∃ a : Answer, t = { s with answers := s.answers ++ [a] } ∧ a.addr = pa ∧
      a.size = n ∧ (∀ j < 8 * n, a.data.getLsbD j = s.hbit d pa j) ∧ (v.poisoned pa n = true → a.kind = 4) ∧
      (v.poisoned pa n = false → a.kind = kind)
    pa < v.bytes → 1 ∈ v.agentSet → n ≤ 128 →
      (BlockIdle v pa → s.biasAt d pa = 0#2 →
        (v.inTheWay line false false = [] → ∃ t : State, exec read s = .next t ∧ answered { t with doms := s.doms } 0 ∧
          ∀ j, t.dom j = s.dom j) ∧
        (v.inTheWay line false true = [] → ∃ t u a, exec write s = .next t ∧ s.OutsideWrite u d line mask data ∧
          (∀ j, t.dom j = u.dom j) ∧ t = { u with doms := t.doms, answers := s.answers ++ [a] } ∧ a.kind = 5) ∧
        ∀ w : Bool, v.inTheWay line false w ≠ [] → SplitFits v line → ∃ t r p, exec (if w then write else read) s = .next t ∧
          r.agent = 1 ∧ r.pa = pa ∧ OnlyDom s t d { v with reqs := v.reqs ++ [r], dir := (t.dom d).dir, pend := v.pend ++ [p] } ∧
          p.line = line ∧ p.agents = v.inTheWay line false w ∧ p.why = .core 0 w) ∧
      (BlockIdle v pa → s.biasAt d pa = 1#2 → ∃ t u, exec read s = .next t ∧
        exec (.rds d 1 pa) s = .next u ∧ t.answers = u.answers ∧ (t.dom d).pend = (u.dom d).pend ∧ (t.dom d).dir = (u.dom d).dir) ∧
      (BlockIdle v pa → s.biasAt d pa = 1#2 → ∃ t u, exec write s = .next t ∧
        exec (.rdo d 1 pa) s = .next u ∧ t.answers = u.answers ∧ (t.dom d).pend = (u.dom d).pend ∧ (t.dom d).dir = (u.dom d).dir) ∧
      (∀ p id w, v.pend = [p] → p.line = line → 1 ∈ p.agents → p.why = .core id w → v.reqs = [] → s.biasAt d pa = 1#2 →
        ∀ u, exec (.rds d 1 pa) (s.setDom d { v with pend := [] }) = .next u → (u.dom d).reqs = [] →
        ∃ t, exec (.hostRequest d pa (2, true) 0#128 0#1024) s = .next t ∧ t.answers = u.answers ∧
          t.dom d = { u.dom d with pend := (u.dom d).pend ++ [p] }) ∧
      (d < 16 → v.st = .running → 0 < n → pa + n ≤ v.bytes →
        (pa % 128 + n ≤ 128 → exec (.window2Access (d + 1) pa false n data) s = exec read s ∧
          ∀ m : BitVec 128, (∀ k < 128, m.getLsbD k = decide (pa % 128 ≤ k ∧ k < pa % 128 + n)) →
            exec (.window2Access (d + 1) pa true n data) s =
              exec (.hostRequest d pa (1, false) m (data <<< (8 * (pa % 128)))) s) ∧
        (128 < pa % 128 + n → ∃ u, exec (.hostRequest d pa (0, false) 0#128 (BitVec.ofNat 1024 (128 - pa % 128))) s = .next u ∧
          exec (.window2Access (d + 1) pa false n data) s = exec (.hostRequest d (128 * (line + 1)) (0, false) 0#128
            (BitVec.ofNat 1024 (n - (128 - pa % 128)))) u))

/-- R372: an access to a window 2 that is not there, or that reaches beyond the end of the partition's memory, is refused, and
nothing changes; an offset beyond the window is no access to it. -/
def Says.WindowRefusals : Prop :=
  ∀ (s : State) (fn off n : Nat) (w : Bool) (data : BitVec 1024), n ≤ 128 →
    let v := s.dom (fn - 1)
    let there : Prop := fn ≠ 0 ∧ fn ≤ 16 ∧ v.st = .running
    let refused : Prop := exec (.window2Access fn off w n data) s = .next { s with answers := s.answers ++ [⟨1, off, n, 0⟩] }
    (¬there → refused) ∧ (there → off < v.window2Bytes → v.bytes < off + n → refused) ∧
    (there → v.window2Bytes ≤ off → exec (.window2Access fn off w n data) s = .next s) ∧
    (0 < v.bytes → v.bytes ≤ v.window2Bytes ∧ v.window2Bytes < 2 * v.bytes ∧ ∃ k, v.window2Bytes = 2 ^ k)

/-- R246, R309: a slice drops a clean replica, and a snoop of the host is answered from the L2's copy of host memory, its bytes on
a hit; an invalidating one drops the line. Neither changes anything else. -/
def Says.DropsAndSnoops : Prop :=
  ∀ (s : State) (d line cl addr : Nat) (inval : Bool) (fetched : Option (BitVec 1024)),
    (∃ t, exec (.replicaDrop d line cl) s = .next t ∧ OnlyDom s t d { s.dom d with replicas := (t.dom d).replicas } ∧
      ∀ r, r ∈ (t.dom d).replicas ↔ r ∈ (s.dom d).replicas ∧ r ≠ (line, cl)) ∧
    let held := (lookup s.hostLines (addr / 128)).or fetched
    (held = none → exec (.hostSnoop addr (inval, fetched)) s = .next { s with answers := s.answers ++ [⟨5, addr, 128, 0⟩] }) ∧
    ∀ b, held = some b → ∃ t, exec (.hostSnoop addr (inval, fetched)) s = .next t ∧
      t = { s with hostLines := t.hostLines, answers := s.answers ++ [⟨2, addr, 128, b⟩] } ∧
      (∀ l, l ≠ addr / 128 → lookup t.hostLines l = lookup s.hostLines l) ∧
      lookup t.hostLines (addr / 128) = if inval then none else some b

/-! ### Translation and its invalidation (R234 to R240) -/

/-- The 8-byte word of domain `d`'s memory at `a`. -/
def wordOf (s : State) (d a : Nat) : Word := BitVec.ofNat 64 (Memory.read (s.dom d).mem a 8)

/-- A table entry (T = 1) that is not malformed at a level below 4. -/
def TableEntry (e : Word) (level : Nat) : Prop :=
  e.getLsbD 0 = true ∧ e.getLsbD 1 = true ∧ e.extractLsb' 56 8 = 0#8 ∧ e.extractLsb' 52 4 = 0#4 ∧ e.extractLsb' 9 3 = 0#3 ∧
    e.extractLsb' 2 6 = 0#6 ∧ (e.getLsbD 8 = true → level = 3)

/-- A leaf (T = 0) of 2^`n` bytes that is not malformed at a level. -/
def LeafEntry (e : Word) (level n : Nat) : Prop :=
  2 ≤ level ∧ e.getLsbD 0 = true ∧ e.getLsbD 1 = false ∧ e.extractLsb' 56 8 = 0#8 ∧ e.extractLsb' 10 2 = 0#2 ∧
    e.getLsbD 8 = false ∧ (e.getLsbD 9 = false → e.extractLsb' 52 4 = 0#4) ∧ e.toNat / 4096 % 2 ^ 40 * 4096 % 2 ^ n = 0 ∧
    ¬(e.getLsbD 6 = true ∧ e.getLsbD 3 = true) ∧ ¬(e.getLsbD 9 = true ∧ e.getLsbD 4 = true)

/-- The page or next table of an entry. -/
def addrOf (e : Word) : Nat := e.toNat / 4096 % 2 ^ 40 * 4096

/-- R235: the index that a virtual address has in the table of a level, whose granule is 64 KiB when `tg`. -/
def indexIn (va level : Nat) (tg : Bool) : Nat :=
  match level with
  | 0 => va / 2 ^ 48 % 256
  | 4 => if tg then va / 2 ^ 16 % 32 else va / 2 ^ 12 % 512
  | n => va / 2 ^ (48 - 9 * n) % 512

/-- R235: log2 of the bytes that a leaf of a level maps. -/
def leafBits (level : Nat) (tg : Bool) : Nat :=
  match level with
  | 2 => 30
  | 3 => 21
  | _ => if tg then 16 else 12

/-- An entry at `x` lies in the memory of the domain, in a word that is not poisoned. -/
def Readable (s : State) (d x : Nat) : Prop := x + 8 ≤ (s.dom d).bytes ∧ x / 8 ∉ (s.dom d).poison

/-- R235, R302: from state `s`, table entries lead from the root `root` to the entry of `va` at `level`, which stands at address
`at'` and is read in state `u`: each entry before it has passed its home, which has used its line. -/
inductive Leads (s : State) (d va root : Nat) : Nat → Bool → Nat → State → Prop
  | root : Leads s d va root 0 false (root + 8 * indexIn va 0 false) s
  | down (level at' : Nat) (tg : Bool) (u w : State) : Leads s d va root level tg at' u → level < 4 →
      TableEntry (wordOf s d at') level → Readable s d at' → u.gate d at' 0 false = .ready w →
      Leads s d va root (level + 1) ((wordOf s d at').getLsbD 8)
        (addrOf (wordOf s d at') + 8 * indexIn va (level + 1) ((wordOf s d at').getLsbD 8))
        (w.modDom d fun v => v.touchL2 (at' / 128) w.cycle)

/-- R234, R235, R237: an address that no TLB maps is walked for, level by level; the leaf that the walk reaches gives the
physical address when it permits the access, and a malformed or invalid entry, a refusal of the leaf or a non-canonical address
gives the fault and the word of the trap record. An address of the local window is never translated: what asks for it has no such
page (log 16). The walk waits where the home of an entry waits for an outside agent. -/
def Says.Walks : Prop :=
  ∀ (s : State) (c d asn root : Nat) (a : Word) (need : Need),
    let va := a.toNat % 2 ^ 56
    let wants (r w x : Bool) (e : Word) : Prop := (r = true → e.getLsbD 2 = true) ∧ (w = true → e.getLsbD 3 = true) ∧
      (x = true → e.getLsbD 4 = true)
    let permits (e : Word) : Prop := need ≠ .any → e.getLsbD 9 = false ∧ match need with
      | .read => wants true false false e
      | .write => wants false true false e
      | .both => wants true true false e
      | .exec => wants false false true e
      | .any => True
    let canon : Prop := a.toNat / 2 ^ 55 = 0 ∨ a.toNat / 2 ^ 55 = 511
    let gives (r : XRes) : Prop := (s.translate c d asn root a need).2 = r
    let local' : Prop := Config.windowBase ≤ a.toNat ∧ a.toNat < Config.windowBase + Config.windowBytes
    (¬canon → gives (.fail .translation 0x27) ∧ (s.translate c d asn root a need).1 = s) ∧
    (canon → local' → ∃ r < 16, gives (.fail .protection (7 + 16 * r))) ∧
    (canon → ¬local' → s.tlbFind c d asn va = none → (s.dom d).walk = [] →
      ∀ level tg at' u, Leads s d va root level tg at' u → at' + 8 ≤ (s.dom d).bytes →
      ((∃ w, u.gate d at' 0 false = .blocked w) → gives .wait) ∧
      (∀ w, u.gate d at' 0 false = .ready w → Readable s d at' →
        let e := wordOf s d at'
        let n := leafBits level tg
        (LeafEntry e level n → permits e → ∃ x, gives (.ok (addrOf e + va % 2 ^ n) x)) ∧
        (LeafEntry e level n → need ≠ .any → ¬permits e → ∃ r, gives (.fail .protection (level + 16 * r)) ∧
          (need = .read → r = if e.getLsbD 2 then 6 else 3) ∧ (need = .write → r = if e.getLsbD 3 then 6 else 4) ∧
          (need = .exec → r = if e.getLsbD 4 then 6 else 5) ∧
          (need = .both → r = if e.getLsbD 2 then (if e.getLsbD 3 then 6 else 4) else 3)) ∧
        (e.getLsbD 0 = false → gives (.fail .translation level)) ∧
        (e.getLsbD 0 = true → ¬LeafEntry e level n → ¬(level < 4 ∧ TableEntry e level) →
          gives (.fail .translation (level + 16)))) ∧
      (∀ w, u.gate d at' 0 false = .ready w → at' / 8 ∈ (s.dom d).poison → gives (.fail .poison 0))) ∧
    (canon → ¬local' → s.tlbFind c d asn va = none → (s.dom d).walk = [] →
      ∀ level tg at' u, Leads s d va root level tg at' u → (s.dom d).bytes < at' + 8 → gives (.fail .poison 0))

/-- An invalidation concerns a TLB entry (R240, R311). -/
def Concerns (k : InvKind) (d : Nat) (e : TlbEnt) : Prop :=
  e.dom = d ∧ match k with
    | .va n a => e.asn = n ∧ e.va ≤ a ∧ a < e.va + 2 ^ e.size
    | .space n => e.asn = n
    | .all => True
    | .page pa => e.pa ≤ pa ∧ pa < e.pa + 2 ^ e.size

/-- A core of partition `d` (R9, R355). -/
def CoreOf (s : State) (d c : Nat) : Prop := c < 3840 ∧ (s.dom d).groups.getLsbD (10 * (c / 960) + c % 960 / 96) = true

/-- R240: XLINV writes back the dirty set of the issuing core as one drain, losing turns until every write-back of the core is
performed, then sends the
invalidation to every core, cluster TLB and copy engine of the partition and the walker caches, and completes. A ninth one
loses turns. XLSYNC loses turns until the XLINVs that its core has issued are acknowledged. -/
def Says.Invalidations : Prop :=
  ∀ (s : State) (a b : BitVec 6), 2 ≤ s.cur.lvl.toNat → s.cur.dom < 16 →
    let ag := s.agentOf s.iss.core
    let open' := s.invals.filter fun i => i.core = s.iss.core ∧ i.dom = s.cur.dom ∧ i.kind.isPage = false
    let sends (u t : State) (k : InvKind) : Prop := ∃ i : Inval, t = { u with invals := u.invals ++ [i], nextId := u.nextId + 1 } ∧
      i.id = u.nextId ∧ i.dom = s.cur.dom ∧ i.core = s.iss.core ∧ i.kind = k ∧ i.acks = [] ∧
      ∀ n, n ∈ i.todo ↔ n = 16384 ∨ ∃ c, CoreOf s s.cur.dom c ∧ (n = c ∨ n = 4096 + c / 6 ∨ n = 8192 + c)
    (∀ x ∈ [(Instr.xlinvVa a b, InvKind.va ((s.rx a).toNat % 65536) ((s.rx b).toNat % 2 ^ 56)),
        (.xlinvAs a, .space ((s.rx a).toNat % 65536)), (.xlinvAll, .all)],
      (8 ≤ open'.length → s.cur.prog = none → LosesTurn x.1 s) ∧
      (open'.length < 8 → s.cur.prog = none → ∃ u ids, WrittenBack s u ag (fun _ => True) ids ∧
        BacksUnderWay u ag (fun _ => True) ids ∧ (u.cache ag).drains = (s.cache ag).drains + 1#32 ∧
        (ids = [] → ∃ t, exec x.1 s = .next t ∧ sends u t x.2) ∧
        (ids ≠ [] → exec x.1 s = .next (u.loseWith ⟨1, ids, 0#64⟩))) ∧
      (∀ p, s.cur.prog = some p → (∃ n ∈ p.ids, s.acked n = false) → exec x.1 s = .next (s.loseWith ⟨1, p.ids, 0#64⟩)) ∧
      (∀ p, 8 ≤ open'.length → s.cur.prog = some p → (∀ n ∈ p.ids, s.acked n = true) → LosesTurn x.1 s) ∧
      (∀ p, open'.length < 8 → s.cur.prog = some p → (∀ n ∈ p.ids, s.acked n = true) →
        ∃ t, exec x.1 s = .next t ∧ sends s t x.2)) ∧
    (s.cur.prog = none → open' = [] → exec .xlsync s = .next s) ∧
    (s.cur.prog = none → open' ≠ [] → ∃ t, exec .xlsync s = .next t ∧ t.iss.st = .lost ∧
      t.cur = { s.cur with pc := s.iss.pc, prog := some ⟨1, open'.map (·.id), 0⟩ }) ∧
    (∀ p, s.cur.prog = some p → (∀ i ∈ s.invals, i.id ∉ p.ids) → exec .xlsync s = .next s)

/-- A request that its home has not performed yet. -/
def UnderWay (m : Msg) : Prop := m.st = .sent ∨ m.st = .held ∨ m.st = .combined

/-- A request under way that has used a TLB entry of `es` which invalidation `i` removes; one to the page that is being flipped
waits for the end of the flip and is not meant (R310, log 57). -/
def UsesEntry (i : Inval) (es : List TlbEnt) (m : Msg) : Prop :=
  UnderWay m ∧ m.dom = i.dom ∧ (∃ e ∈ es, Concerns i.kind i.dom e ∧ e.asn = m.asn ∧ e.va ≤ m.va.toNat % 2 ^ 56 ∧
    m.va.toNat % 2 ^ 56 < e.va + 2 ^ e.size) ∧ ∀ pa, i.kind = .page pa → m.pa / 4096 ≠ pa / 4096

/-- An invalidation concerns what the copy engine has translated for packet `x` (R293). -/
def ConcernsPacket (i : Inval) (x : Xfer) : Prop :=
  x.dom = i.dom ∧ (i.kind = .all ∨ i.kind = .space x.asn ∨ ∃ a, i.kind = .va x.asn a)

/-- R240, R293: a recipient of an invalidation loses the entries that it concerns; a core that receives an XLINV writes back every
dirty line as one drain and drops its whole L1 data cache, and nothing that is under way comes to stand in it. Its acknowledgement
waits for what it has sent and for the accesses that used the entries. A copy engine receives it at the end of a page only. -/
def Says.InvalidationReceipts : Prop :=
  ∀ (s : State) (i : Inval) (n : Nat), i ∈ s.invals → (∀ j ∈ s.invals, j.id = i.id → j = i) → n ∈ i.todo →
    let page : Prop := ∃ pa, i.kind = .page pa
    let ag := s.agentOf n
    let busy : Prop := 8192 ≤ n ∧ n < 16384 ∧ ∃ x, (s.core (n - 8192)).eng.cur = some x ∧ ConcernsPacket i x ∧ x.inPage = true
    let awaits (ids : List Nat) (p : Msg → Prop) : Prop := ∀ k, k ∈ ids ↔ ∃ m ∈ s.net, m.id = k ∧ p m
    (busy → exec (.xlinvReceipt i.id n) s = .next s) ∧
    (¬busy → ∃ t ids, exec (.xlinvReceipt i.id n) s = .next t ∧
      t.invals = s.invals.map (fun x => if x.id = i.id then { i with todo := i.todo.erase n, acks := i.acks ++ [(n, ids)] } else x) ∧
      s.SameMemory { t with caches := s.caches } ∧
      (n < 4096 → (∀ e, e ∈ (t.core n).tlb ↔ e ∈ (s.core n).tlb ∧ ¬Concerns i.kind i.dom e) ∧
        (page → t.caches = s.caches ∧ t.net = s.net ∧ awaits ids fun m => m.core = n ∧ UsesEntry i (s.core n).tlb m) ∧
        (¬page → (t.cache ag).lines = [] ∧ (t.cache ag).drains = (s.cache ag).drains + 1#32 ∧
          (∀ m ∈ s.net, m.core = n → m.dom = i.dom → UnderWay m → m.id ∈ ids) ∧
          (∀ m ∈ s.net, m.kind = .writeBack → m.agent = ag → m.id ∈ ids) ∧
          (∀ m ∈ t.net, m.agent = ag → ∀ keep repl, m.kind ≠ .load true keep repl) ∧
          (∀ sl x, s.thread? n sl = some x → t.thread? n sl = some (if x.dom = i.dom then { x with fetching := none } else x)) ∧
          ∀ o ∈ (s.cache ag).lines, o.dirty ≠ 0#128 → ∃ m ∈ t.net, m.kind = .writeBack ∧ m.id ∈ ids ∧
            m.agent = ag ∧ m.dom = o.dom ∧ m.pa = 128 * o.line ∧ m.data = o.data ∧ m.mask = o.dirty)) ∧
      (4096 ≤ n → n < 8192 → t = { s with ctlbs := t.ctlbs, invals := t.invals } ∧
        (∀ e, e ∈ (lookup t.ctlbs (n - 4096)).getD [] ↔ e ∈ (lookup s.ctlbs (n - 4096)).getD [] ∧ ¬Concerns i.kind i.dom e) ∧
        awaits ids fun m => m.core / 6 = n - 4096 ∧ UsesEntry i ((lookup s.ctlbs (n - 4096)).getD []) m) ∧
      (8192 ≤ n → n < 16384 → ids = [] ∧ ∀ x, (s.core (n - 8192)).eng.cur = some x →
        (ConcernsPacket i x → (t.core (n - 8192)).eng.cur = some { x with caddr := none, spage := none, dpage := none }) ∧
        (¬ConcernsPacket i x → (t.core (n - 8192)).eng.cur = some x)) ∧
      (16384 ≤ n → ids = [] ∧ ∀ w, w ∈ (t.dom i.dom).walk ↔ w ∈ (s.dom i.dom).walk ∧
        ¬(i.kind = .all ∨ i.kind = .space w.asn ∨ ∃ a, i.kind = .va w.asn a ∧ w.tag = a / 2 ^ (leafBits w.level false)
          ∧ 2 ≤ w.level ∨ ∃ a, i.kind = .va w.asn a ∧ w.level < 2 ∧ w.tag = a / 2 ^ (48 - 9 * w.level))))

/-- R239, R240: an acknowledgement reaches the issuing core once everything it waits for has been performed, and the invalidation
ends with the last one. A TLB or walker cache drops an entry at any cycle, which changes nothing else. -/
def Says.InvalidationEnds : Prop :=
  (∀ (s : State) (i : Inval) (a : Nat × List Nat), i ∈ s.invals → (∀ j ∈ s.invals, j.id = i.id → j = i) → a ∈ i.acks →
      (∀ b ∈ i.acks, b.1 = a.1 → b = a) →
    ((∃ m ∈ s.net, m.id ∈ a.2) → exec (.xlinvAckArrival i.id a.1) s = .next s) ∧
    ((∀ m ∈ s.net, m.id ∉ a.2) → i.todo = [] ∧ i.acks = [a] → ∃ t, exec (.xlinvAckArrival i.id a.1) s = .next t ∧
      t = { s with invals := t.invals } ∧ ∀ j, j ∈ t.invals ↔ j ∈ s.invals ∧ j.id ≠ i.id) ∧
    ((∀ m ∈ s.net, m.id ∉ a.2) → ¬(i.todo = [] ∧ i.acks = [a]) → exec (.xlinvAckArrival i.id a.1) s =
      .next { s with invals := s.invals.map fun x => if x.id = i.id then { i with acks := i.acks.erase a } else x })) ∧
  ∀ (s : State) (n k : Nat),
    (n < 3840 → ∃ t, exec (.tlbEntryDrop 0 n k) s = .next t ∧ (t.core n) = { s.core n with tlb := (s.core n).tlb.eraseIdx k } ∧
      (∀ j, j ≠ n → t.core j = s.core j) ∧ t = { s with cores := t.cores }) ∧
    (n < 640 → ∃ t, exec (.tlbEntryDrop 1 n k) s = .next t ∧ lookup t.ctlbs n = some (((lookup s.ctlbs n).getD []).eraseIdx k) ∧
      (∀ j, j ≠ n → lookup t.ctlbs j = lookup s.ctlbs j) ∧ t = { s with ctlbs := t.ctlbs }) ∧
    (n ≤ 16 → ∃ t, exec (.tlbEntryDrop 2 n k) s = .next t ∧ OnlyDom s t n { s.dom n with walk := (s.dom n).walk.eraseIdx k }) ∧
    (3840 ≤ n → exec (.tlbEntryDrop 0 n k) s = .next s) ∧ (640 ≤ n → exec (.tlbEntryDrop 1 n k) s = .next s) ∧
    (16 < n → exec (.tlbEntryDrop 2 n k) s = .next s)

/-! ### Bias flips (R310, R311) -/

/-- Between `s` and `t` the bias code of the page at `pa` has become `code`, and no other byte of the domain's memory than the one
of the table that holds it has changed. -/
def BiasSet (s t : State) (d pa : Nat) (code : BitVec 2) : Prop :=
  let at' := (s.dom d).bias + pa / 16384
  (∀ a, a ≠ at' → Memory.get (t.dom d).mem a = Memory.get (s.dom d).mem a) ∧
  ∀ j < 8, (Memory.get (t.dom d).mem at').getLsbD j =
    if j / 2 = pa / 4096 % 4 then code.getLsbD (j % 2) else (Memory.get (s.dom d).mem at').getLsbD j

/-- R311: BFLIP.RD gives the bias code of the page; an address that is no multiple of 4,096 raises Alignment, one outside the
partition's memory Protection. BFLIP.HOST and BFLIP.DEV clear P[PD] when the page has the bias already, lose turns while it is
FLIPPING or earlier releases of the thread are unacknowledged, and else begin: the page is FLIPPING and its TLB entries are
invalidated. -/
def Says.BiasFlipsBegin : Prop :=
  ∀ (s : State) (a d : BitVec 6) (pd : BitVec 3), 2 ≤ s.cur.lvl.toNat →
    let w := s.rx a
    let pa := w.toNat
    let dd := s.cur.dom
    let flips : List (Instr × BitVec 2) := [(.bflipHost a pd, 1#2), (.bflipDev a pd, 0#2)]
    let every : List Instr := [.bflipHost a pd, .bflipDev a pd, .bflipRd d a]
    let inside : Prop := dd < 16 ∧ pa + 4096 ≤ s.curDom.bytes
    (pa % 4096 ≠ 0 → ∀ i ∈ every, TrapsWith i s .alignment w 0#64) ∧
    (pa % 4096 = 0 → ¬inside → ∀ i ∈ every, ∃ extra, exec i s = .next (s.useFree.takeTrap .protection w extra) ∧ extra.toNat % 16 = 7) ∧
    (pa % 4096 = 0 → inside → s.curDom.st = .running → WritesX (.bflipRd d a) s d fun v => ∃ j < 8, j % 2 = 0 ∧ j / 2 = pa / 4096 % 4 ∧
      ∀ k < 64, v.getLsbD k = (decide (k < 2) && s.hbit dd (s.curDom.bias + pa / 16384) (j + k))) ∧
    (pa % 4096 = 0 → inside → s.cur.prog = none → ∀ x ∈ flips,
      (s.biasAt dd pa = x.2 → WritesP x.1 s pd false) ∧
      (s.biasAt dd pa = 2#2 → LosesTurn x.1 s) ∧
      (s.biasAt dd pa ≠ x.2 → s.biasAt dd pa ≠ 2#2 → s.curOutstanding ≠ [] → LosesTurn x.1 s) ∧
      (s.biasAt dd pa ≠ x.2 → s.biasAt dd pa ≠ 2#2 → s.curOutstanding = [] → ∃ t i, exec x.1 s = .next t ∧ t.iss.st = .lost ∧
        t.cur = { s.cur with pc := s.iss.pc, prog := some ⟨1, [s.nextId], 0⟩ } ∧ BiasSet s t dd pa 2#2 ∧
        t.invals = s.invals ++ [i] ∧ i.id = s.nextId ∧ i.kind = .page pa ∧ i.dom = dd ∧ i.acks = [] ∧
        ∀ n, n ∈ i.todo ↔ ∃ c, CoreOf s dd c ∧ (n = c ∨ n = 4096 + c / 6)))

/-- R311: BFLIP.HOST, its invalidation acknowledged, has every core write back and drop its lines of the page, a drain where there
are any; those performed, every releaser of an undrained record on the page is drained; with none left the records and replicas
go, the L2's lines of the page go to the LLC, the bias is HOST and P[PD] is 1. BFLIP.DEV has every line of the page that an entry
names outside agents for invalidated at them; once no entry names one, the replicas go (R246), the bias is DEVICE and P[PD] is 1. -/
def Says.BiasFlipsEnd : Prop :=
  ∀ (s : State) (a : BitVec 6) (pd : BitVec 3) (p : Prog), 2 ≤ s.cur.lvl.toNat →
    let pa := (s.rx a).toNat
    let dd := s.cur.dom
    let v := s.dom dd
    let mine (l : Nat) : Prop := l / 32 = pa / 4096
    let held : Prop := ∃ r ∈ v.reqs, r.pa / 65536 = pa / 65536
    let ends (t : State) (code : BitVec 2) : Prop := BiasSet s t dd pa code ∧ t.rp pd = true ∧
      t.cur = { s.cur with p := t.cur.p } ∧ (∀ j, j ≠ dd → t.dom j = s.dom j) ∧ t = { s with doms := t.doms, cores := t.cores } ∧
      ∀ r, r ∈ (t.dom dd).replicas ↔ r ∈ v.replicas ∧ ¬mine r.1
    let acked : Prop := ∀ i ∈ s.invals, i.id ∉ p.ids
    let outside (l x : Nat) : Prop := mine l ∧ ∃ e, v.entryOf l = some e ∧ x ∈ e.agents v.agentSet ∧ x ≠ 0
    let flips (t : State) (l : Nat) : Prop := ∃ q ∈ (t.dom dd).pend, q.line = l ∧ q.why = .flip ∧ ∀ x, x ∈ q.agents ↔ outside l x
    pa % 4096 = 0 → dd < 16 → pa + 4096 ≤ v.bytes → s.cur.prog = some p →
      (p.stage = 1 → ¬acked → LosesTurn (.bflipHost a pd) s ∧ LosesTurn (.bflipDev a pd) s) ∧
      (p.stage = 1 → acked → keysRise s.caches = true → ∃ t ids, exec (.bflipHost a pd) s = .next t ∧ t.iss.st = .lost ∧
        t.cur = { s.cur with pc := s.iss.pc, prog := some ⟨2, ids, 0⟩ } ∧ s.SameMemory { t with caches := s.caches } ∧
        (∀ k, k ∈ ids ↔ ∃ m ∈ t.net, m.id = k ∧ m.kind = .writeBack ∧ m.dom = dd ∧ mine (m.pa / 128)) ∧
        (∀ m ∈ t.net, m.dom = dd → mine (m.pa / 128) → ∀ keep repl, m.kind ≠ .load true keep repl) ∧
        ∀ e ∈ s.caches, (∀ l, l ∈ (t.cache e.1).lines ↔ l ∈ e.2.lines ∧ ¬(l.dom = dd ∧ mine l.line)) ∧
          ((∃ o ∈ e.2.lines, o.dom = dd ∧ mine o.line ∧ o.dirty ≠ 0#128) → (t.cache e.1).drains = e.2.drains + 1#32) ∧
          ∀ o ∈ e.2.lines, o.dom = dd → mine o.line → o.dirty ≠ 0#128 → ∃ m ∈ t.net, m.kind = .writeBack ∧ m.id ∈ ids ∧
            m.agent = e.1 ∧ m.dom = dd ∧ m.pa = 128 * o.line ∧ m.data = o.data ∧ m.mask = o.dirty) ∧
      (p.stage = 2 → (∃ n ∈ p.ids, s.acked n = false) → LosesTurn (.bflipHost a pd) s) ∧
      (p.stage = 2 → (∀ n ∈ p.ids, s.acked n = true) → (∃ l r, mine l ∧ lookup v.recs l = some r ∧ (r.st = 1 ∨ r.st = 2)) →
        ∃ t, exec (.bflipHost a pd) s = .next t ∧ t.iss.st = .lost ∧ s.SameMemory t ∧
          ∀ l r, mine l → lookup v.recs l = some r → r.st = 1 → lookup (t.dom dd).recs l = some { r with st := 2 } ∧
            ∃ m ∈ t.net, m.kind = .drain r.agent r.epoch 0 ∧ m.dom = dd ∧ m.pa = 128 * l) ∧
      (p.stage = 2 → (∀ n ∈ p.ids, s.acked n = true) → (∀ l r, mine l → lookup v.recs l = some r → r.st ≠ 1 ∧ r.st ≠ 2) →
        ¬held → ∃ t, exec (.bflipHost a pd) s = .next t ∧ ends t 1#2 ∧ (∀ l, mine l → lookup (t.dom dd).recs l = none) ∧
          (∀ l, l ∈ (t.dom dd).l2 ↔ l ∈ v.l2 ∧ ¬mine l) ∧ ∀ l, l ∈ (t.dom dd).llc ↔ l ∈ v.llc ∨ l ∈ v.l2 ∧ mine l) ∧
      ((p.stage = 1 → acked) →
        ((∃ q ∈ v.pend, mine q.line) → LosesTurn (.bflipDev a pd) s) ∧
        ((∀ q ∈ v.pend, ¬mine q.line) → (∃ l x, outside l x) → ∃ t, exec (.bflipDev a pd) s = .next t ∧ t.iss.st = .lost ∧
          t.cur = { s.cur with pc := s.iss.pc } ∧ s.SameMemory t ∧
          ((∀ l x e, outside l x → v.entryOf l = some e → e.size = 0) → ∀ l x, outside l x → flips t l) ∧
          ∀ l x v', outside l x → (∀ m y, outside m y → l ≤ m) → v.splitFor l = .ok v' → flips t l) ∧
        ((∀ q ∈ v.pend, ¬mine q.line) → (¬∃ l x, outside l x) → ¬held → ∃ t, exec (.bflipDev a pd) s = .next t ∧ ends t 0#2 ∧
          (t.dom dd).dir = v.dir ∧ (t.dom dd).l2 = v.l2 ∧ (t.dom dd).recs = v.recs))

/-! ### Partition and device firmware (R355 to R366, R376 to R382) -/

/-- `i` completes, writes `v` to x register `d` and `b` to predicate `p`, and changes nothing else (R79 for x0 and p0). -/
def WritesXP (i : Instr) (s : State) (d : BitVec 6) (v : Word) (p : BitVec 3) (b : Bool) : Prop :=
  ∃ t, exec i s = .next t ∧ t.rx d = (if d = 0#6 then 0#64 else v) ∧ t.rp p = (p == 0#3 || b) ∧ s.Frame t [d] [p] [] []

/-- R363, R366: KEYLD.INST installs a staging entry into an EMPTY slot when both addresses are multiples of 4,096 and the chunks
and tags lie in the partition's memory, and the entry is emptied; else P[PD] is 0 and nothing changes. KEYLD.CLR empties the
slot; KEYLD.STAT gives its state and its chunks. -/
def Says.ModelKeys : Prop :=
  ∀ (s : State) (d a b : BitVec 6) (pd : BitVec 3), 2 ≤ s.cur.lvl.toNat →
    let v := s.curDom
    let k := (s.rx a).toNat % 16
    let j := (s.rx a).toNat / 256 % 16
    let pbase := (s.rx b).toNat
    let tag := (s.rx d).toNat
    let fits (e : Staging) : Prop := pbase % 4096 = 0 ∧ tag % 4096 = 0 ∧ pbase + 4096 * e.nchunk ≤ v.bytes ∧
      tag + 16 * e.nchunk ≤ v.bytes
    let writes (i : Instr) (w : Dom) (x : Bool) : Prop := ∃ t, exec i s = .next t ∧ t.dom s.cur.dom = w ∧
      (∀ n, n ≠ s.cur.dom → t.dom n = s.dom n) ∧ t.rp pd = (pd == 0#3 || x) ∧ t.cur = { s.cur with p := t.cur.p } ∧
      t = { s with doms := t.doms, cores := t.cores }
    (∀ e, lookup v.keys k = none → lookup v.staging j = some e → fits e → ∃ w, writes (.keyldInst d a b pd) w true ∧
      lookup w.keys k = some ⟨e.key, e.kid, e.meas, pbase, e.nchunk, tag⟩ ∧ lookup w.staging j = none ∧
      (∀ n, n ≠ k → lookup w.keys n = lookup v.keys n) ∧ (∀ n, n ≠ j → lookup w.staging n = lookup v.staging n) ∧
      w = { v with keys := w.keys, staging := w.staging }) ∧
    (lookup v.keys k ≠ none ∨ (∀ e, lookup v.staging j = some e → ¬fits e) → WritesP (.keyldInst d a b pd) s pd false) ∧
    (∃ w, writes (.keyldClr a pd) w true ∧ lookup w.keys k = none ∧ (∀ n, n ≠ k → lookup w.keys n = lookup v.keys n) ∧
      w = { v with keys := w.keys }) ∧
    (∀ e, lookup v.keys k = some e → WritesXP (.keyldStat d a pd) s d (BitVec.ofNat 64 (1 + 2 * (e.nchunk % 2 ^ 32))) pd true) ∧
    (lookup v.keys k = none → WritesXP (.keyldStat d a pd) s d 0#64 pd false)

/-- R380: ENERGY.RD gives the fields of the account as they stood at the last interval end, B in mJ. ENERGY.SET asks for a field
to be set at the next interval end, unless it names none of the three, the rates of all partitions would exceed 3,000, or CAP
would exceed 2^40. -/
def Says.EnergyAccounts : Prop :=
  ∀ (s : State) (d a b : BitVec 6) (pd : BitVec 3),
    let e := s.curDom.acct
    let f := (s.rx a).toNat
    let x := (s.rx b).toNat
    let others := ((s.doms.filter fun y => decide (y.1 < 16 ∧ y.1 ≠ s.cur.dom)).map fun y => y.2.acct.rate).sum
    let bad : Prop := 2 < f ∨ (f = 1 ∧ 3000 < x + others) ∨ (f = 2 ∧ 2 ^ 40 < x)
    (f = 0 → ∃ w : Word, w.toInt = Int.bmod (e.snapB / 1000) (2 ^ 64) ∧ WritesXP (.energyRd d a pd) s d w pd true) ∧
    (f = 1 → WritesXP (.energyRd d a pd) s d (BitVec.ofNat 64 e.rate) pd true) ∧
    (f = 2 → WritesXP (.energyRd d a pd) s d (BitVec.ofNat 64 e.cap) pd true) ∧
    (f = 3 → WritesXP (.energyRd d a pd) s d (BitVec.ofNat 64 e.snapStage) pd true) ∧
    (f = 4 → WritesXP (.energyRd d a pd) s d (BitVec.ofNat 64 (e.snapUsed / 1000)) pd true) ∧
    (4 < f → WritesXP (.energyRd d a pd) s d 0#64 pd false) ∧
    (2 ≤ s.cur.lvl.toNat → bad → WritesP (.energySet a b pd) s pd false) ∧
    (2 ≤ s.cur.lvl.toNat → ¬bad → ∃ t, exec (.energySet a b pd) s = .next t ∧
      t.dom s.cur.dom = { s.curDom with acct := { e with sets := e.sets ++ [(f, x)] } } ∧
      (∀ n, n ≠ s.cur.dom → t.dom n = s.dom n) ∧ t.rp pd = true ∧ t.cur = { s.cur with p := t.cur.p } ∧
      t = { s with doms := t.doms, cores := t.cores })

/-- R376, R378, R380: at an interval end what a launch has drawn is charged to its reservation first and then to B, as is what the
partition draws outside any launch; RATE is added and B clamped at CAP; STAGE rises by one when B is not positive and falls by
one when B has reached a sixteenth of CAP; then what ENERGY.SET asked for is set, and the account is what ENERGY.RD reads. -/
def Says.EnergyIntervals : Prop :=
  ∀ (s : State) (d own drawn n : Nat) (l : Launch),
    let v := s.dom d
    let e := v.acct
    let held : Int := min (max l.energyRes 0) drawn
    let cap : Int := 1000 * e.cap
    let after (charged : Int) : Int := max (min (e.b - charged + e.rate) cap) (-(2 ^ 62))
    let stage (b : Int) : Nat := if b ≤ 0 then min (e.stage + 1) 4 else if cap ≤ 16 * b then e.stage - 1 else e.stage
    let is (t : State) (b : Int) (rate cp used : Nat) (st : Nat) : Prop := (t.dom d).acct =
      { rate := rate, cap := cp, b := b, stage := st, used := used, snapB := b, snapStage := st, snapUsed := used, sets := [],
        next := e.next + 1200 }
    (v.st ≠ .running ∨ s.cycle < e.next → exec (.energyIntervalEnd d [(n, drawn)] own) s = .next s) ∧
    (v.st = .running → e.next ≤ s.cycle →
      (lookup v.launches n = some l → ∃ t l', exec (.energyIntervalEnd d [(n, drawn)] own) s = .next t ∧
        lookup (t.dom d).launches n = some l' ∧ l' = { l with energyRes := l.energyRes - held, energyTot := l.energyTot + drawn } ∧
        (e.sets = [] → is t (after (drawn - held + own)) e.rate e.cap (e.used + drawn + own) (stage (after (drawn - held + own))))) ∧
      ∃ t, exec (.energyIntervalEnd d [] own) s = .next t ∧ OnlyDom s t d { v with acct := (t.dom d).acct } ∧
        let b := after own
        (e.sets = [] → is t b e.rate e.cap (e.used + own) (stage b)) ∧
        (∀ x : Nat, e.sets = [(0, x)] → is t (1000 * min x e.cap : Nat) e.rate e.cap (e.used + own) (stage b)) ∧
        (∀ x, e.sets = [(1, x)] → is t b x e.cap (e.used + own) (stage b)) ∧
        ∀ x : Nat, e.sets = [(2, x)] → is t (min b (1000 * x : Nat)) e.rate x (e.used + own) (stage b))

/-- R381, R382: the partition whose firmware asks may read a counter: that of a unit it owns, or of class 1 or 2. -/
def MayRead (s : State) (d cls kind inst : Nat) : Prop :=
  let core : Prop := inst < 3840 ∧ (s.core inst).part = some d
  let slice : Prop := inst < 640 ∧ (s.dom d).groups.getLsbD (10 * (inst / 160) + inst % 160 / 16) = true
  let llc : Prop := inst < 64 ∧ (s.dom d).llcs.getLsbD inst = true
  let stack : Prop := inst < 16 ∧ d < 16 ∧ (s.dom d).stks.getLsbD inst = true
  let part : Prop := inst < 16 ∧ inst = d
  (cls = 1 ∧ kind = 0 ∧ inst < 96) ∨ (cls = 2 ∧ kind = 0 ∧ inst < 6) ∨
  ((cls = 3 ∨ cls = 4) ∧ ((kind = 0 ∧ core) ∨ (kind = 1 ∧ slice) ∨ (kind = 2 ∧ llc) ∨ (kind = 3 ∧ stack))) ∨
  (cls = 5 ∧ kind = 0 ∧ core) ∨ (cls = 6 ∧ kind ≤ 1 ∧ slice) ∨ (cls = 7 ∧ kind = 0 ∧ part) ∨
  (cls = 8 ∧ ((kind = 0 ∧ core) ∨ (kind = 1 ∧ llc) ∨ (kind = 2 ∧ part) ∨ (kind = 3 ∧ llc)))

/-- R381, R382: GAUGE reads a counter that its partition may read; of any other it gives zero, with P[PD] zero. The management
interface reads every counter. -/
def Says.GaugeCounters : Prop :=
  ∀ (s : State) (d a : BitVec 6) (pd : BitVec 3) (cls kind inst : Nat), kind < 16 → inst < 4096 →
    let i := 65536 * cls + 4096 * kind + inst
    (2 ≤ s.cur.lvl.toNat → (s.rx a).toNat = i →
      (cls < 256 → MayRead s s.cur.dom cls kind inst → WritesXP (.gauge d a pd) s d (s.gaugeAt i) pd true) ∧
      (256 ≤ cls ∨ ¬MayRead s s.cur.dom cls kind inst → WritesXP (.gauge d a pd) s d 0#64 pd false)) ∧
    ∀ idx : BitVec 24, idx.toNat = i → ∃ x, exec (.gaugeMctpRead idx) s = .next { s with answers := s.answers ++ [x] } ∧
      x.addr = i ∧ x.data = (s.gaugeAt i).setWidth 1024

/-- R255, R360: SCOPT reads word X[B] of scope-table entry X[A], and SCOPT.CNT the number of its words; an entry outside 1 to 3
and a word outside the entry read as zero. -/
def Says.ScopeTable : Prop :=
  ∀ (s : State) (d a b : BitVec 6) (pd : BitVec 3), 2 ≤ s.cur.lvl.toNat →
    let n := (s.rx a).toNat
    let j := (s.rx b).toNat
    let words := s.curDom.scopes.getD (n - 1) []
    let isEntry : Prop := 1 ≤ n ∧ n ≤ 3
    (∀ w, isEntry → words[j]? = some w → WritesXP (.scopt d a b pd) s d (BitVec.ofNat 64 w) pd true) ∧
    (¬isEntry ∨ words.length ≤ j → WritesXP (.scopt d a b pd) s d 0#64 pd false) ∧
    (isEntry → WritesX (.scoptCnt d a) s d fun v => v = BitVec.ofNat 64 words.length) ∧
    (¬isEntry → WritesX (.scoptCnt d a) s d fun v => v = 0#64)

/-- R356, R358, R359: PARTCTL.STAT gives the state of a partition. PARTCTL.CREATE reads the descriptor; the first check that fails
gives the code in X[D], and no partition changes; when all hold the partition runs under a key freshly drawn, with its memory and what device firmware sees of its stacks zero, its
key slots empty and
the supervisors at the entry point of their image. Counts of releases and drains stay (R261, R272). PARTCTL.DESTROY of a running partition leaves none, its memory gone and its
cores free. -/
def Says.Partitions : Prop :=
  ∀ (s : State) (d a : BitVec 6) (pd : BitVec 3), 3 ≤ s.cur.lvl.toNat →
    let w := s.rx a
    let f := s.dom 16
    let D (i : Nat) : Nat := Memory.read f.mem (w.toNat + 8 * i) 8
    let p := D 0
    let q := w.toNat % 16
    let others (P : Dom → Prop) : Prop := ∃ e ∈ s.doms, e.1 < 16 ∧ e.2.st ≠ .none ∧ P e.2
    let shares (v : Dom) : Prop := BitVec.ofNat 40 (D 1) &&& v.groups ≠ 0 ∨ BitVec.ofNat 64 (D 2) &&& v.llcs ≠ 0 ∨
      BitVec.ofNat 16 (D 3) &&& v.stks ≠ 0 ∨ BitVec.ofNat 64 (D 4) &&& v.hostSlot ≠ 0 ∨ BitVec.ofNat 64 (D 5) &&& v.fabSlot ≠ 0
    let reserved : Prop := 16 ≤ D 0 ∨ 2 ^ 40 ≤ D 1 ∨ 2 ^ 16 ≤ D 3 ∨ 2 ^ 25 ≤ D 6 ∨ 2 ^ 17 ≤ D 8 ∨ 2 ^ 16 ≤ D 13 ∨ D 14 ≠ 0 ∨ D 15 ≠ 0 ∨
      (∃ x ∈ [(7, 12), (9, 6), (10, 12), (11, 12), (12, 6)], 2 ^ 52 ≤ D x.1 ∨ D x.1 % 2 ^ x.2 ≠ 0)
    let fails (n : Nat) : Prop := ∃ t, exec (.partctlCreate d a pd) s = .next t ∧ t.rx d = (if d = 0#6 then 0#64 else BitVec.ofNat 64 n) ∧
      t.rp pd = (pd == 0#3) ∧ (∀ j, t.dom j = s.dom j) ∧ s.SameMemory t ∧ ∀ c sl, (c, sl) ≠ (s.iss.core, s.iss.slot) →
        t.thread? c sl = s.thread? c sl
    let readable : Prop := w.toNat % 64 = 0 ∧ w.toNat + 128 ≤ f.bytes ∧ ∀ n ∈ f.poison, n < w.toNat / 8 ∨ w.toNat / 8 + 16 ≤ n
    (w.toNat % 64 ≠ 0 → TrapsWith (.partctlCreate d a pd) s .alignment w 0#64) ∧
    (w.toNat % 64 = 0 → ¬readable → TrapsWith (.partctlCreate d a pd) s .poison w 0#64) ∧
    (readable → reserved ∨ (s.dom p).st ≠ .none → fails 1) ∧
    (readable → ¬reserved → (s.dom p).st = .none → others shares → fails 2) ∧
    (readable → ¬reserved → (s.dom p).st = .none → ¬others shares → D 1 % 2 ^ 40 = 0 ∨ D 2 = 0 ∨ D 3 % 2 ^ 16 = 0 → fails 3) ∧
    (readable → ∀ v, s.checkDesc (Memory.bytes f.mem w.toNat 128) = .ok v → s.cur.dom = 16 → (∃ x, s.thread? s.iss.core s.iss.slot = some x) →
      s.iss.slot ≠ 15 → ∃ t, exec (.partctlCreate d a pd) s = .next t ∧ t.rx d = 0#64 ∧ t.rp pd = true ∧
        (t.dom p).st = .running ∧ (∀ x, Memory.get (t.dom p).mem x = 0#8) ∧ (t.dom p).keys = [] ∧
        (t.dom p).groups.toNat = D 1 ∧ (t.dom p).llcs.toNat = D 2 ∧ (t.dom p).stks.toNat = D 3 ∧ (t.dom p).quantum = D 6 ∧
        (t.dom p).acct.rate = 0 ∧ (t.dom p).acct.b = 0 ∧ (∀ j, j ≠ p → j ≠ 16 → t.dom j = s.dom j) ∧
        (∀ x, Memory.get (t.dom 16).mem x = if (D 3).testBit (x / Config.stackBytes) then 0#8 else Memory.get f.mem x) ∧
        (∀ n, n ∈ (t.dom 16).poison ↔ n ∈ f.poison ∧ (D 3).testBit (8 * n / Config.stackBytes) = false) ∧
        t.dom 16 = { f with mem := (t.dom 16).mem, poison := (t.dom 16).poison } ∧
        (∀ j < 8, (t.dom p).xts.extractLsb' (64 * j) 64 = Config.freeWord (s.fresh + 8 - j)) ∧ t.fresh = s.fresh + 9 ∧
        (∀ a, (t.cache a).relcnt = (s.cache a).relcnt ∧ (t.cache a).drains = (s.cache a).drains) ∧
        ∀ c, CoreOf t p c → (t.core c).part = some p ∧ (∀ x, Memory.get (t.core c).lmem x = 0#8) ∧
          ∃ x, t.thread? c 15 = some x ∧ x.pc = v.supPc ∧ x.dom = p ∧ x.asn = D 13 ∧ x.lvl = 1#2) ∧
    ((s.dom q).st ≠ .running → WritesP (.partctlDestroy a pd) s pd false) ∧
    ((s.dom q).st = .running → s.cur.dom = 16 → (∃ x, s.thread? s.iss.core s.iss.slot = some x) → ∃ t, exec (.partctlDestroy a pd) s = .next t ∧ t.rp pd = true ∧
      (t.dom q).st = .none ∧ (∀ x, Memory.get (t.dom q).mem x = 0#8) ∧ (t.dom q).keys = [] ∧ (∀ m ∈ t.net, m.dom ≠ q) ∧
      ∀ c, CoreOf s q c → (t.core c).part = none ∧ (∀ x, Memory.get (t.core c).lmem x = 0#8) ∧
        ∀ e ∈ (t.core c).slots, e.2.dom = 16) ∧
    WritesX (.partctlStat d a) s d fun v => v.toNat = match (s.dom q).st with
      | .none => 0
      | .creating => 1
      | .running => 2
      | .destroying => 3

/-! ### Window 0 and the links (R313, R370, R371, R373, R374) -/

/-- R370, R371: window 0 of a function that is there shows STAT, the slots and indices of its management ring, and zero elsewhere, at
whatever offset and size a read has; a write changes the ring and its write index only. A window that is not there, or an offset
outside it, is refused. -/
def Says.WindowZero : Prop :=
  ∀ (s : State) (fn off n : Nat) (data : BitVec 1024), n ≤ 128 →
    let there : Prop := fn = 0 ∨ (fn ≤ 16 ∧ (s.dom (fn - 1)).st = .running)
    let ringOf (t : State) : MRing := (lookup t.rings fn).getD ⟨[], 0, 0⟩
    let slot (t : State) (i : Nat) : Word := (lookup (ringOf t).slots i).getD 0#64
    let i (w : Bool) : Instr := .window0Access fn off w n data
    (¬there ∨ 2 ^ 26 < off + n → ∀ w, exec (i w) s = .next { s with answers := s.answers ++ [⟨1, off, n, 0⟩] }) ∧
    (there → off + n ≤ 2 ^ 26 → 1 ≤ s.bootStep → s.bootStep ≤ 7 →
      ∃ (stat : Word) (x : Answer), exec (i false) s = .next { s with answers := s.answers ++ [x] } ∧
        x.kind = 6 ∧ x.addr = off ∧ x.size = n ∧
        (∀ j < 1024, x.data.getLsbD j = (decide (j < 8 * n) && (let o := (off + j / 8) / 8 * 8
          let w := if o = 0 then stat else if 0x1000 ≤ o ∧ o < 0x1400 then slot s ((o - 0x1000) / 8)
            else if o = 0x1400 then (ringOf s).wi else if o = 0x1408 then (ringOf s).ri else 0#64
          w.getLsbD (8 * ((off + j / 8) % 8) + j % 8)))) ∧
        stat.toNat % 16 = s.bootStep ∧ stat.getLsbD 4 = s.ready ∧ stat.extractLsb' 5 3 = 0#3 ∧ stat.extractLsb' 8 8 = s.bootErr ∧
        stat.toNat / 65536 = if fn = 0 then 0 else fn - 1) ∧
    (there → off + n ≤ 2 ^ 26 → ∃ t, exec (i true) s = .next t ∧ t = { s with rings := t.rings } ∧
      (∀ k, k ≠ fn → lookup t.rings k = lookup s.rings k) ∧ (ringOf t).ri = (ringOf s).ri ∧
      let new (base : Nat) (w : Word) (j : Nat) : Bool :=
        if off ≤ base + j / 8 ∧ base + j / 8 < off + n then data.getLsbD (8 * (base + j / 8 - off) + j % 8) else w.getLsbD j
      (∀ k < 128, ∀ j < 64, (slot t k).getLsbD j = new (0x1000 + 8 * k) (slot s k) j) ∧
      (∀ j < 64, (ringOf t).wi.getLsbD j = new 0x1400 (ringOf s).wi j) ∧
      (off + n ≤ 0x1000 ∨ 0x1408 ≤ off → t = s))

/-- R313, R361, R371: a request of a partition's ring is served in its turn: it binds a launch queue, by the header's address in
the launch-queue table and BIND, valid with its priority and level; level 3 is the security processor's alone. An empty ring
has none. -/
def Says.RingRequests : Prop :=
  ∀ (s : State) (fn queue header : Nat) (prio : BitVec 3) (lvl : BitVec 2),
    let r := (lookup s.rings fn).getD ⟨[], 0, 0⟩
    let v := s.dom (fn - 1)
    let ok : Prop := 1 ≤ fn ∧ fn ≤ 16 ∧ v.st = .running ∧ queue < 64 ∧ header % 64 = 0 ∧ header + 64 ≤ v.bytes ∧ v.lqt + 512 ≤ v.bytes ∧
      lvl ≠ 3#2
    let bind := 0x1FFF + 2 ^ 16 * prio.toNat + 2 ^ 20 * lvl.toNat + 2 ^ 31
    (r.ri = r.wi → exec (.mringRequest fn queue header prio lvl) s = .next s) ∧
    let gates := s.gateAll (fn - 1) true [(header + 24, 8), (v.lqt + 8 * queue, 8)]
    let served (u t : State) : Prop := u = { t with rings := u.rings } ∧ lookup u.rings fn = some { r with ri := r.ri + 1#64 } ∧
      ∀ k, k ≠ fn → lookup u.rings k = lookup s.rings k
    (r.ri ≠ r.wi → ¬ok → ∃ t : State, exec (.mringRequest fn queue header prio lvl) s = .next t ∧ served t s) ∧
    (∀ s', r.ri ≠ r.wi → ok → gates = .error s' → exec (.mringRequest fn queue header prio lvl) s = .next (s.asked s')) ∧
    (r.ri ≠ r.wi → ok → gates = .ok s → ∃ u t : State, exec (.mringRequest fn queue header prio lvl) s = .next t ∧ served t u ∧
      u.rings = s.rings ∧
      ((v.lqt + 8 * queue + 8 ≤ header + 24 ∨ header + 32 ≤ v.lqt + 8 * queue) →
        (∀ j < 64, t.hbit (fn - 1) (header + 24) j = bind.testBit j) ∧
        (∀ j < 64, t.hbit (fn - 1) (v.lqt + 8 * queue) j = header.testBit j) ∧
        ∀ a, (a < header + 24 ∨ header + 32 ≤ a) → (a < v.lqt + 8 * queue ∨ v.lqt + 8 * queue + 8 ≤ a) →
          Memory.get (t.dom (fn - 1)).mem a = Memory.get v.mem a))

/-- R373, R374: a flit that fails its CRC is replayed; a port that fails 16 times in a row is taken down. An access to a peer that
no route reaches completes 2^20 cycles after it left, with poison for a load or an atomic, and is counted, at a link port that the
model leaves free (log 9). -/
def Says.Links : Prop :=
  (∀ (s : State) (port : Nat) (ok : Bool), (32 ≤ port → exec (.flitReplay port ok) s = .next s) ∧
    (port < 32 → ∃ t, exec (.flitReplay port ok) s = .next t ∧ t = { s with retries := t.retries, portsDown := t.portsDown } ∧
      let n := if ok then 0 else (lookup s.retries port).getD 0 + 1
      lookup t.retries port = some n ∧ (∀ k, k ≠ port → lookup t.retries k = lookup s.retries k) ∧
      ∀ k, k ∈ t.portsDown ↔ k ∈ s.portsDown ∨ (k = port ∧ 16 ≤ n))) ∧
  ∀ (s : State) (id : Nat) (m : Msg), s.findMsg id = some m → m.id = id → m.dom ≤ 16 → (s.dom m.dom).bytes < m.pa + m.n →
      m.st = .sent ∨ m.st = .combined →
    let counted (t : State) : Prop := s.SameMemory t ∧ ∃ port < 32, Counts s t 8 4 port
    let done (m' : Msg) : Prop := ∃ t, exec (.peerUnreachable id) s = .next t ∧ s.NowIs t id m' ∧ t.cores = s.cores ∧ counted t
    let gone : Prop := ∃ t, exec (.peerUnreachable id) s = .next t ∧ s.Left t id ∧ counted t
    (s.cycle < m.sentAt + 2 ^ 20 → exec (.peerUnreachable id) s = .next s) ∧
    (m.sentAt + 2 ^ 20 ≤ s.cycle →
      (∀ al k rp, m.kind = .load al k rp → done { m with kind := .load false k false, data := 0#1024, pmask := 0xFFFF#16, st := .replied }) ∧
      ((∃ op c, m.kind = .atomic op c) ∨ m.kind = .read → done { m with poisoned := true, st := .replied }) ∧
      (m.kind = .store → m.wait = true → done { m with st := .replied }) ∧ (m.kind = .release → done { m with st := .replied }) ∧
      (m.kind = .counter true → ∃ t, exec (.peerUnreachable id) s = .next t ∧ s.NowIs t id { m with st := .replied } ∧ counted t) ∧
      (m.kind = .store → m.wait = false → gone) ∧ (m.kind = .writeBack → gone) ∧
      (m.kind = .counter false → (∀ x, s.thread? m.core m.slot = some x → x.gen ≠ m.gen) → gone) ∧
      (m.kind = .counter false → ∀ x, s.thread? m.core m.slot = some x → x.gen = m.gen → x.st = .ready → m.slot < 15 →
        ∃ t r, exec (.peerUnreachable id) s = .next t ∧ counted t ∧ t.findMsg id = none ∧
          t.thread? m.core m.slot = some { x with late := true, lastTrap := some (m.pc, false) } ∧
          (s.core m.core).Enters (t.core m.core).trapq r ∧ r.w1 = m.pc ∧ r.w2 = m.va ∧ r.w0.extractLsb' 0 8 = 0x0A#8) ∧
      ((∃ a e k, m.kind = .drain a e k) ∨ (∃ a b c, m.kind = .steal a b c) → exec (.peerUnreachable id) s = .next s))

/-! ### Reset, bring-up, counters and soft errors (R348, R349, R381, R383) -/

/-- R361, R367, R381, R383: a reset, and a loss of power, start the bring-up at step 1 with no partition, no thread and no byte of
memory; only the counters that were saved remain. Step after step succeeds; steps 1 and 2 take in what they measured, step 2 makes
the identity key of the digest of step 1, step 5 sets the fabric device number, step 6 binds the launch queue of level 3 and starts
device firmware, where the model leaves free (log 28), step 7 loads the counters and sets READY. A step that fails stays reported
with its code. -/
def Says.BringUp : Prop :=
  ∀ (s : State) (err : BitVec 8) (m : BitVec 512),
    (∀ i ∈ [Instr.deviceReset true (err, m), .lossOfPower], ∃ t, exec i s = .next t ∧ t.bootStep = 1 ∧ t.ready = false ∧ t.bootErr = 0#8 ∧
      t.cycle = 0 ∧ t.doms = [] ∧ t.cores = [] ∧ t.caches = [] ∧ t.net = [] ∧ t.gauge = [] ∧ t.gaugeNv = s.gaugeNv ∧
      t.latch = none ∧ t.rings = [] ∧ t.sessions = [] ∧ t.portsDown = [] ∧ t.hostLines = [] ∧ t.identity = 0#456 ∧ t.fwQueue = none) ∧
    (s.ready = true ∨ s.bootErr ≠ 0#8 → exec (.deviceReset false (err, m)) s = .next s) ∧
    (s.ready = false → s.bootErr = 0#8 →
      (err ≠ 0#8 → exec (.deviceReset false (err, m)) s = .next { s with bootErr := err }) ∧
      (err = 0#8 →
        (s.bootStep = 1 → exec (.deviceReset false (err, m)) s = .next { s with spDigest := m, bootStep := 2 }) ∧
        (s.bootStep = 2 → exec (.deviceReset false (err, m)) s =
          .next { s with identity := Config.identityKey s.spDigest, fwDigest := m, bootStep := 3 }) ∧
        (s.bootStep = 3 ∨ s.bootStep = 4 → exec (.deviceReset false (err, m)) s = .next { s with bootStep := s.bootStep + 1 }) ∧
        (s.bootStep = 5 → ∃ n < 1024, exec (.deviceReset false (err, m)) s = .next { s.useFree with fabric := n, bootStep := 6 }) ∧
        (s.bootStep = 6 → ∃ t h c sl x, exec (.deviceReset false (err, m)) s = .next t ∧ t.bootStep = 7 ∧ t.fwQueue = some h ∧
          c < 3840 ∧ sl < 14 ∧ t.thread? c sl = some x ∧ x.lvl = 3#2 ∧ x.dom = 16 ∧ x.st = .ready ∧
          (∀ i j, (i, j) ≠ (c, sl) → t.thread? i j = s.thread? i j) ∧ s.SameMemory t ∧ t.doms = s.doms ∧ t.net = s.net) ∧
        (s.bootStep = 7 → exec (.deviceReset false (err, m)) s = .next { s with gauge := s.gaugeNv, ready := true })))

/-- R348, R381: what the Gauge counts: supply droops, seconds in the temperature bands of the dies, corrected errors of a structure; and saving
keeps a copy. Nothing else changes. -/
def Says.GaugeEvents : Prop :=
  ∀ (s : State) (k n : Nat) (b : Vector (Fin 16) 6),
    let unit : Prop := n < [3840, 640, 64, 16].getD k 0
    (n < 6 → ∃ t, exec (.supplyDroop n) s = .next t ∧ t = { s with gauge := t.gauge } ∧ Counts s t 2 0 n) ∧
    (6 ≤ n → exec (.supplyDroop n) s = .next s) ∧
    (unit → ∃ t, exec (.correctableError k n) s = .next t ∧ t = { s with gauge := t.gauge } ∧ Counts s t 3 k n) ∧
    (¬unit → exec (.correctableError k n) s = .next s) ∧
    exec .gaugeSave s = .next { s with gaugeNv := s.gauge } ∧
    ∃ t, exec (.temperatureSecond (b.toList.map (·.val))) s = .next t ∧ t = { s with gauge := t.gauge } ∧
      ∀ i, t.gaugeAt i = if (∃ d : Fin 6, i = 65536 + 16 * d.val + (b.get d).val) ∧ s.gaugeAt i ≠ BitVec.allOnes 64
        then s.gaugeAt i + 1#64 else s.gaugeAt i

/-- R348, R349: an uncorrectable error of a clean copy drops the copy; of the only copy of a word it poisons the word. Either is
counted at the structure, and no byte changes. A unit that is not there has no copy. -/
def Says.SoftErrors : Prop :=
  ∀ (s : State) (n addr : Nat),
    let line := addr / 128
    let v := s.dom n
    let at' (a : Nat) : Nat := if a < 4096 then a else if a < 8192 then 6 * (a - 4096) else a - 8192
    let quiet (t : State) : Prop := s.SameMemory { t with caches := s.caches }
    let agent : Prop := n < 3840 ∨ (4096 ≤ n ∧ n < 4736)
    let clean (k : Nat) : Instr := .ueCleanData k n addr
    let dirty (k : Nat) : Instr := .uePoison k n addr
    (agent → ∃ t, exec (clean 0) s = .next t ∧ quiet t ∧ Counts s t 4 0 (at' n) ∧ (∀ a, a ≠ n → t.cache a = s.cache a) ∧
      ∀ l, l ∈ (t.cache n).lines ↔ l ∈ (s.cache n).lines ∧ (l.line = line → l.dirty ≠ 0#128)) ∧
    (n ≤ 16 → ∃ t, exec (clean 1) s = .next t ∧ s.SameMemory t ∧ Counts s t 4 1 (homeSlice v line) ∧
      t.dom n = { v with l2 := v.l2.erase line }) ∧
    (n ≤ 16 → ∃ t, exec (clean 2) s = .next t ∧ s.SameMemory t ∧ Counts s t 4 1 (homeSlice v line) ∧
      (∀ r, r ∈ (t.dom n).replicas ↔ r ∈ v.replicas ∧ r.1 ≠ line) ∧ t.dom n = { v with replicas := (t.dom n).replicas }) ∧
    (n ≤ 16 → ∃ t, exec (clean 3) s = .next t ∧ s.SameMemory t ∧ Counts s t 4 2 (llcSlice v line) ∧
      t.dom n = { v with llc := v.llc.erase line }) ∧
    (n < 3840 → ∃ t, exec (clean 4) s = .next t ∧ s.SameMemory t ∧ Counts s t 4 0 n ∧
      (∀ l, l ∈ (t.core n).icache ↔ l ∈ (s.core n).icache ∧ l.pa ≠ addr / 64 * 64) ∧
      t.core n = { s.core n with icache := (t.core n).icache }) ∧
    (agent → ∃ t, exec (dirty 0) s = .next t ∧ quiet t ∧ Counts s t 4 0 (at' n) ∧ (t.cache n).lines =
      (s.cache n).lines.map fun l => if l.line = line ∧ l.dirty.extractLsb' (addr % 128 / 8 * 8) 8 ≠ 0#8
        then { l with dpoison := l.dpoison ||| BitVec.ofNat 16 (2 ^ (addr % 128 / 8)) } else l) ∧
    (n < 3840 → addr < 262144 → ∃ t, exec (dirty 1) s = .next t ∧ s.SameMemory t ∧ Counts s t 4 0 n ∧
      (∀ w, w ∈ (t.core n).lpoison ↔ w ∈ (s.core n).lpoison ∨ w = addr / 8) ∧
      t.core n = { s.core n with lpoison := (t.core n).lpoison }) ∧
    (n ≤ 16 → addr < v.bytes → ∃ t, exec (dirty 2) s = .next t ∧ s.SameMemory t ∧ Counts s t 4 3 (v.stackOf addr) ∧
      (∀ w, w ∈ (t.dom n).poison ↔ w ∈ v.poison ∨ w = addr / 8) ∧ t.dom n = { v with poison := (t.dom n).poison }) ∧
    (¬agent → exec (clean 0) s = .next s ∧ exec (dirty 0) s = .next s) ∧ (3840 ≤ n → exec (clean 4) s = .next s ∧ exec (dirty 1) s = .next s) ∧
    (16 < n → exec (clean 1) s = .next s ∧ exec (clean 2) s = .next s ∧ exec (clean 3) s = .next s ∧ exec (dirty 2) s = .next s)

/-! ### Sessions, measurement and key delivery (R367 to R369) -/

/-- R368: the responder of partition `d` is reached at `e`. -/
def RespondsFor (e d : Nat) : Prop := d < 16 ∧ (e = 1 + d ∨ e = 0x20 + d)

/-- A session of number `n` at endpoint `e` is open, and is the model's session `k`. -/
def OpenAt (s : State) (e n k : Nat) : Prop := (e, n, k) ∈ s.sessions ∧ ∀ j, (e, n, j) ∈ s.sessions → j = k

/-- R369: a key is delivered inside a session of the partition's responder: it is opened under the session's key with the
partition measurement, KID and MEAS as associated data, and stored in a free staging entry that the answer names; STATUS is 2
when it does not authenticate, 1 when no entry is free and 3 when the payload is not of its layout. Outside a session, or of a
partition that does not run, a request is not answered (log 6). The end of a session discards the staging entries that it left. -/
def Says.KeyDelivery : Prop :=
  ∀ (s : State) (e d n k : Nat) (kid nchunk : BitVec 64) (meas : BitVec 512) (wrapped : BitVec 256) (tag : BitVec 128)
      (bad : Option (BitVec 64)), RespondsFor e d →
    let v := s.dom d
    let known := natToBytes 8 kid.toNat ++ natToBytes 64 meas.toNat
    -- the payload from its first eight bytes, or one of another length
    let i (head : Option (BitVec 64)) : Instr := .keyDeliveryRequest e n head kid meas nchunk (tag ++ wrapped)
    let p := some 1#64
    let opened := Config.gcmDecrypt (Config.sessionKey k) 0 (natToBytes 64 (s.measurement d).toNat ++ known)
      (natToBytes 32 wrapped.toNat) tag
    let answered (t : State) (status ticket : Nat) : Prop := ∃ x : Answer, t.answers = s.answers ++ [x] ∧
      x.data = BitVec.ofNat 1024 (0x81 + 2 ^ 8 * status + 2 ^ 16 * ticket)
    ((v.st ≠ .running ∨ ∀ j, (e, n, j) ∉ s.sessions) → exec (i p) s = .next s ∧ exec (i bad) s = .next s) ∧
    (v.st = .running → OpenAt s e n k →
      (bad ≠ p → ∃ t, exec (i bad) s = .next t ∧ answered t 3 0 ∧
        t = { s with answers := t.answers }) ∧
      ∃ t, exec (i p) s = .next t ∧
      (opened = none → answered t 2 0 ∧ t = { s with answers := t.answers }) ∧
      ∀ key, opened = some key →
        ((∀ j < 16, lookup v.staging j ≠ none) → answered t 1 0 ∧ t = { s with answers := t.answers }) ∧
        ((∃ j < 16, lookup v.staging j = none) → ∃ j < 16, lookup v.staging j = none ∧ answered t 0 j ∧
          OnlyDom s { t with answers := s.answers } d { v with staging := (t.dom d).staging } ∧
          lookup (t.dom d).staging j = some ⟨BitVec.ofNat 256 (bytesToNat key), kid, meas, nchunk.toNat, k⟩ ∧
          ∀ l, l ≠ j → lookup (t.dom d).staging l = lookup v.staging l)) ∧
    (OpenAt s e n k → ∃ t, exec (.spdmSessionEnd e n) s = .next t ∧ (∀ x, x ∈ t.sessions ↔ x ∈ s.sessions ∧ x.2.2 ≠ k) ∧
      OnlyDom s { t with sessions := s.sessions } d { v with staging := (t.dom d).staging } ∧
      ∀ e, e ∈ (t.dom d).staging ↔ e ∈ v.staging ∧ e.2.session ≠ k)

/-- R367, R368: a responder answers with the measurement block asked for: the digests of the boot chain, for a partition its
descriptor, the digest of its supervisor and of each of its key slots; the device's own reports blocks 1 to 3 only. Opening a session
makes it one, with a number of the model's own that no session had before. At any other endpoint nothing answers. The request codes
are the outside standard's (log 6). -/
def Says.Measurements : Prop :=
  ∀ (s : State) (e d arg : Nat),
    let v := s.dom d
    let part : Prop := RespondsFor e d ∧ v.st = .running
    let device : Prop := e = 0 ∨ e = 0x1F
    let block (i : Nat) (b : List Byte) : Prop := ∃ x, exec (.spdmRequest e 0xE0 i) s = .next { s with answers := s.answers ++ [x] } ∧
      x.size = b.length ∧ x.data = BitVec.ofNat 1024 (bytesToNat b)
    (part ∨ device → block 1 (natToBytes 64 Config.romDigest.toNat) ∧ block 2 (natToBytes 64 s.spDigest.toNat) ∧
      block 3 (natToBytes 64 s.fwDigest.toNat) ∧
      (∃ x, exec (.spdmRequest e 0x82 0) s = .next { s with answers := s.answers ++ [x] } ∧ x.data = Config.certChain s.identity) ∧
      ∃ t x, exec (.spdmRequest e 0xE4 arg) s = .next t ∧
        t = { s with answers := s.answers ++ [x], sessions := t.sessions, nextId := t.nextId } ∧
        ((∃ k, (e, arg, k) ∈ s.sessions) → t.sessions = s.sessions) ∧
        ((∀ k, (e, arg, k) ∉ s.sessions) → t.sessions = s.sessions ++ [(e, arg, s.nextId)] ∧ t.nextId = s.nextId + 1)) ∧
    (device → ∀ i, 4 ≤ i → block i []) ∧
    (part → block 4 v.desc ∧ block 5 (natToBytes 64 v.supDigest.toNat) ∧
      ∀ i < 16, (∀ k, lookup v.keys i = some k → block (16 + i) (natToBytes 8 k.kid.toNat ++ natToBytes 64 k.meas.toNat)) ∧
        (lookup v.keys i = none → block (16 + i) (List.replicate 72 0#8))) ∧
    ((∀ d', ¬(RespondsFor e d' ∧ (s.dom d').st = .running)) → ¬device → ∀ code, exec (.spdmRequest e code arg) s = .next s)

/-! ### Order kept in the maps -/

/-- The slots of every core, the launches and heads of every domain, and the cores, caches and domains themselves stand in rising
order of their keys. -/
def Ordered (s : State) : Prop :=
  keysRise s.cores = true ∧ keysRise s.caches = true ∧ keysRise s.doms = true ∧ (∀ e ∈ s.cores, keysRise e.2.slots = true) ∧
    ∀ e ∈ s.doms, keysRise e.2.launches = true

/-- Every step keeps that order (log 1: maps as lists have one form). -/
def Obligations.StepsKeepOrder : Prop :=
  ∀ (s t : State), Ordered s → step s = .next t → Ordered t

/-- The machine after reset has it. -/
def Says.ResetOrdered : Prop := Ordered State.reset

/-! ### The statements that are made of several -/

/-- The bitwise operations, SEL, LDI, LEA, the shifts and their immediate forms, CLZ, CTZ, POPC, BREV, BFX, BFI and
XFOLD complete with their result bit by bit and change nothing else; an immediate shift count of the width or more
raises Illegal-Instruction. Of each of these forms it concludes, under conditions on the state and the operands alone,
that exec answers a next state with the form's own effect: and, or, xor, andn, sel, andi, ori, xori, ldi, lea, sll, srl,
sra, slli, srli, srai, rot, clz, ctz, popc, brev, bfx, bfi, xfold. -/
def Obligations.BitsShiftsAndFields : Prop :=
  Says.BitwiseAndConstants ∧
  Says.Shifts ∧
  Says.CountsAndFields ∧
  Says.ShiftCountTraps

/-- BRK, SVC, ILL and TRAP raise the trap of their cause; an instruction below its level raises Privilege; neither does
anything else. Of each of these forms it concludes, under conditions on the state and the operands alone, that exec
answers a next state with the form's own effect: brk, svc, trap, ill. -/
def Obligations.SoftwareTrapsAndPrivilege : Prop :=
  Says.SoftwareTraps ∧
  Says.PrivilegeLevels

/-- MFS and CSTAT read each special register as the spec gives it, and MTS writes the register it names, with the checks
of PRIV and FPCR; nothing else changes, and FPCR and FPSR wait for the V-operations of the thread. Of each of these
forms it concludes, under conditions on the state and the operands alone, that exec answers a next state with the form's
own effect: mfs, mfsFpsr, mtsFpsr, cstat, mts, mtsFpcr, mtsPriv, mtsRseq. -/
def Obligations.SpecialRegisters : Prop :=
  Says.MfsReads ∧
  Says.CubestFields ∧
  Says.MtsWrites

/-- Loads of local memory complete with the bytes they name; stores write the bytes they name, at the address computed
from the operands, and every other byte of memory reads as before; atomics are one indivisible step. Of each of these
forms it concludes, under conditions on the state and the operands alone, that exec answers a next state with the form's
own effect: ld, ldf, ldp, ldb, st, stf, stp, stb, amoAdd, amoAnd, amoOr, amoXor, amoSmin, amoSmax, amoUmin, amoUmax,
amoSwap, cas, amofAdd, amofMin, amofMax. -/
def Obligations.LocalMemory : Prop :=
  Says.LocalLoads ∧
  Says.LocalStores ∧
  Says.LocalAtomics ∧
  Says.LocalFloatAtomics

/-- WAITF reads a full word and WAITF.E empties it; on an empty word the thread parks. EMPTY empties the word. FILL
writes its word and serves the waiters in ascending slot order up to the first WAITF.E. Of each of these forms it
concludes, under conditions on the state and the operands alone, that exec answers a next state with the form's own
effect: waitf, waitfE, empty, fill. -/
def Obligations.FullAndEmptyWords : Prop :=
  Says.FullEmptyWords ∧
  Says.FillServesWaiters

/-- A slot that decodes gives a well-formed instruction and is the one slot that stands for it; only the illegal opcode
0xFF ignores its other bits. The opcodes of class I and of class V are disjoint, and no event of the machine is a slot. -/
def Obligations.EncodeOfDecode : Prop :=
  Says.EncodeOfDecode ∧
  Says.OpcodeClasses

/-- A thread runs on in the line it holds; any other line comes from local memory in the window, and else from the L1
instruction cache or a fetch, and on entry parity, pair and target are checked. The events of a fetch bring the line in;
a second parity failure is a machine check. Of each of these forms it concludes, under conditions on the state and the
operands alone, that exec answers a next state with the form's own effect: lineRefetch, fetchLineArrival,
threadFirstFetch. -/
def Obligations.Fetching : Prop :=
  Says.LineFetch ∧
  Says.LineArrivals

/-- After reset the bring-up stands at step 1 with READY clear; there is no partition, no thread and no line in any
cache; the state is sound and its maps are in order. That memory reads as zero is the model's choice (log 1). -/
def Obligations.ResetLeaves : Prop :=
  Says.ResetState ∧
  Says.ResetSound ∧
  Says.ResetOrdered

/-- A load hits the L1 or leaves for its home; a store enters the L1 or leaves; an atomic leaves with its operation;
ordered accesses of scope 1 or wider are performed at the home, a release counted. PREF never faults and changes nothing
but asks for a line. No byte but the ones stored changes. Of each of these forms it concludes, under conditions on the
state and the operands alone, that exec answers a next state with the form's own effect: ld, ldf, ldp, st, amoAdd,
amoAnd, amoOr, amoXor, amoSmin, amoSmax, amoUmin, amoUmax, amoSwap, cas, prefL1, prefL2. -/
def Obligations.GlobalAccesses : Prop :=
  Says.GlobalLoads ∧
  Says.GlobalStores ∧
  Says.GlobalAtomics ∧
  Says.Prefetches

/-- A load is answered with its line as it stands and the poison of its words; an ordered read first has the releaser
drained that the record names; a wait is answered or stands on the wait list of the word. No byte of memory changes. Of
each of these forms it concludes, under conditions on the state and the operands alone, that exec answers a next state
with the form's own effect: plainLoadAtHome, orderedReadAtHome. -/
def Obligations.HomeReads : Prop :=
  Says.PlainLoadAtHome ∧
  Says.OrderedReadAtHome ∧
  Says.WaitingReadsAtHome

/-- Write-backs, stores, atomics and releases perform exactly their bytes at the home; an atomic is one indivisible step
with the operation of its code; a release leaves its record, and waits for the drain of a record that it overwrites. Of
each of these forms it concludes, under conditions on the state and the operands alone, that exec answers a next state
with the form's own effect: writeBackAtHome, atomicAtHome, releaseAtHome. -/
def Obligations.HomeWrites : Prop :=
  Says.WritesAtHome ∧
  Says.AtomicAtHome ∧
  Says.AtomicOperations ∧
  Says.ReleaseAtHome

/-- A DRAIN writes back every dirty line up to its epoch and is acknowledged when they have been performed; a fold does
so when RELCNT[22:0] becomes zero; a line leaves the LLC only once its record is drained. Of each of these forms it
concludes, under conditions on the state and the operands alone, that exec answers a next state with the form's own
effect: drainRequest, drainAckAtHome, fold, foldEnd, llcEvictionDrain. -/
def Obligations.Drains : Prop :=
  Says.DrainsServed ∧
  Says.Folds ∧
  Says.LlcEvictions

/-- A reply writes the destination and returns the thread to rotation, merges a line into the L1 or self-invalidates
first as owed; poison is a precise Poison trap, or a late one for an atomic that is not waited for. Of each of these
forms it concludes, under conditions on the state and the operands alone, that exec answers a next state with the form's
own effect: loadReplyArrival, amoAckArrival, releaseAckArrival. -/
def Obligations.Replies : Prop :=
  Says.LoadReplies ∧
  Says.OrderedReplies ∧
  Says.Acknowledgements

/-- DRAIN and IFENCE write back every dirty line as one drain and DRAIN.L the bytes of one line, losing turns until they
are acknowledged; IFENCE then empties the instruction cache; FENCE does its release part and its acquire part and never
parks. Of each of these forms it concludes, under conditions on the state and the operands alone, that exec answers a
next state with the form's own effect: ifence, drain, drainL, fence. -/
def Obligations.FencesAndDrains : Prop :=
  Says.DrainAndIfence ∧
  Says.DrainLine ∧
  Says.Fences

/-- On a local word they complete at once when their condition holds, and else the thread parks on the wait list; on a
global word they leave for the home; waiters look again when the word has been written. Of each of these forms it
concludes, under conditions on the state and the operands alone, that exec answers a next state with the form's own
effect: waitv, join, lwait, barw, wakeNotice, orderedReadAtHome, waitvReread. -/
def Obligations.Waits : Prop :=
  Says.LocalWaits ∧
  Says.GlobalWaits ∧
  Says.WaitersLookAgain

/-- An arrival at a barrier word does nothing where TARGET is 0 or COUNT has reached it, raises GEN and clears COUNT
when it is the last, and else adds one and waits; at the home it leaves the release record of its core and every waiter
looks again. Of each of these forms it concludes, under conditions on the state and the operands alone, that exec
answers a next state with the form's own effect: barw, barwArrivalAtHome. -/
def Obligations.Barriers : Prop :=
  Says.LocalBarrier ∧
  Says.BarrierWord ∧
  Says.BarrierArrivals

/-- FORK starts a thread in the lowest free user slot within the cap, with the argument words in x1 to x5, or pushes a
closure item, or is refused; FORK.J counts its counter up as well, at the home or in local memory; the counter goes down
with RETIRE.J. Of each of these forms it concludes, under conditions on the state and the operands alone, that exec
answers a next state with the form's own effect: joinCounterUpdate, fork, forkJ. -/
def Obligations.ForksAndJoins : Prop :=
  Says.JoinCounters ∧
  Says.Forks ∧
  Says.ForksWithCounter

/-- RETIRE frees the slot and lets the outstanding-work count fall; RETIRE.J takes one from its counter first; YIELD
parks for its turns and PARK until its deadline; a handler that would block raises Handler-Block. Of each of these forms
it concludes, under conditions on the state and the operands alone, that exec answers a next state with the form's own
effect: retire, retireJ, yield, park, parkRel. -/
def Obligations.EndsAndPauses : Prop :=
  Says.Retires ∧
  Says.YieldAndPark

/-- SEND queues its eight words with the sender's TID and the record of a release; delivery moves the oldest message to
the inbox while the launch has an entry free, else tries again 64 cycles later; a handler starts in slot 14 with the
words of the oldest message. Of each of these forms it concludes, under conditions on the state and the operands alone,
that exec answers a next state with the form's own effect: send, messageDelivery, messageRetry, handlerStart. -/
def Obligations.Messages : Prop :=
  Says.Sends ∧
  Says.MessageDelivery ∧
  Says.HandlerStarts

/-- DQPUSH and DQSPLIT put items at the bottom of the deque of the core with their words and the record of a release,
and count work; where the deque is full they are refused and change nothing else. DQPOP takes the bottom item into eight
registers and sets P[PD]; on an empty deque it clears P[PD] and writes nothing. Of each of these forms it concludes,
under conditions on the state and the operands alone, that exec answers a next state with the form's own effect: dqpush,
dqsplit, dqpop. -/
def Obligations.Deques : Prop :=
  Says.DequePush ∧
  Says.DequeSplit ∧
  Says.DequePop

/-- DQSTEAL and DQSTEAL.AT send a steal attempt and lose turns until it answers; DQRUN runs the bottom item of its own
deque, or parks for steal rounds; at the victim an attempt takes the top item, splitting a range; the answer starts the
item or is read by a DQSTEAL. A round makes its draws one by one, each when its victim is visited; what it does at a
level without victims is the model's (log 20). Of each of these forms it concludes, under conditions on the state and
the operands alone, that exec answers a next state with the form's own effect: dqsteal, dqstealAt, dqrun, stealRound,
stealRequest, stealAnswer. -/
def Obligations.StealsAndRuns : Prop :=
  Says.Steals ∧
  Says.RunsItems ∧
  Says.StealEvents

/-- QALLOC and QFREE move the allotment within the declaration; the set operations, QMOV and QMASK complete with the
members that the rules give and change nothing else; an instruction that names a q register beyond the allotment raises
Illegal-Register. Of each of these forms it concludes, under conditions on the state and the operands alone, that exec
answers a next state with the form's own effect: qalloc, qfree, qlogAnd, qlogOr, qlogXor, qlogAndn, qlogCopy, qlogClear,
qlogFull, qlogNot, qbitSet, qbitClr, qpop, qcnt, qtest, qeqEmpty, qeqEq, qeqSub, qeqDisj, qaddr, qaddrQn, qwin, qmovTox,
qmovFromx, qmovLd, qmovSt, qmask. -/
def Obligations.QueryRegisters : Prop :=
  Says.QueryAllotment ∧
  Says.QuerySets ∧
  Says.QueryMoves ∧
  Says.QueryMasks

/-- ARRIVE and DEPART leave for the home of their node's line; there ARRIVE joins the open entry of its key, leads a new
one or is told that there is none, and DEPART collects and closes what its thread leads; the replies write their
destinations; entries seal by age and closed ones are dropped; a switch combines requests of one kind. No byte of memory
changes. Of each of these forms it concludes, under conditions on the state and the operands alone, that exec answers a
next state with the form's own effect: arrive, depart, departW, arriveAtHome, departAtHome, loadReplyArrival, ageSeal,
closedEntryInvalidate, switchCombine. -/
def Obligations.ConfluenceNodes : Prop :=
  Says.NodesAtIssue ∧
  Says.NodesAtHome ∧
  Says.NodeReplies ∧
  Says.EntriesAge ∧
  Says.SwitchCombines

/-- SCFG and SCFGM bind the lowest free generator with its loops or members, after their checks; SEN and SDIS enable and
end streams; SWAIT waits for what they have written; their events fetch ahead and write pushed elements in order. Of
each of these forms it concludes, under conditions on the state and the operands alone, that exec answers a next state
with the form's own effect: scfg, scfgm, sen, sdis, swait, streamElementFetch, streamPushWrite. -/
def Obligations.Streams : Prop :=
  Says.StreamLoops ∧
  Says.MemberStreams ∧
  Says.StreamEnables ∧
  Says.StreamWaits ∧
  Says.StreamEvents

/-- The arithmetic under every rounding is exact: products, sums and the slab sum of a cube pass equal the rational or
integer number of their operands. -/
def Obligations.ExactArithmetic : Prop :=
  Says.ExactArithmetic ∧
  Says.SlabSums

/-- The floating operations over registers complete with the exact result rounded once and the flags of the rounding;
minima, maxima, selections, classes and comparisons, the integer operations and the reductions complete as their rules
give. The precision of the special functions is the model's (log 21). Of each of these forms it concludes, under
conditions on the state and the operands alone, that exec answers a next state with the form's own effect: vadd, vsub,
vmul, vfma, vfmaMs, vfmaNma, vfmaNms, vdiv, vsqrt, vsclI, vsclE, vexp, vlog, vrcp, vrsq, vsinpi, vcospi, vtanh, vredSum,
vredMin, vredMax, vdot, vmin, vmax, vsgnCpy, vsgnNeg, vsgnXor, vcmp, vsel, vmov, vcls, viaddAdd, viaddSub, viaddAdds,
viaddSubs, viaddMin, viaddMax, viaddAbsd, vimulLo, vimulHi, vimulHiu, vlogicAnd, vlogicOr, vlogicXor, vlogicAndn,
vlogicNot, vshfSll, vshfSrl, vshfSra, vshfRot. -/
def Obligations.VectorArithmetic : Prop :=
  Says.VectorFloat ∧
  Says.VectorReductions ∧
  Says.VectorSelect ∧
  Says.VectorClasses ∧
  Says.VectorIntegers

/-- Over streams the number of iterations is the least that remains, and element k of the sources gives element k of the
result; a stream bound in the wrong direction or format makes a late Vector-Stream fault; results, flags and faults are
delivered when the operation completes. Of each of these forms it concludes, under conditions on the state and the
operands alone, that exec answers a next state with the form's own effect: vectorOpComplete, vectorStageFree. -/
def Obligations.VectorStreams : Prop :=
  Says.VectorStreams ∧
  Says.VectorStreamFaults ∧
  Says.VectorCompletions

/-- The conversions, PACK and UNPK complete with the exact value rounded to the destination, in registers and, for a
source that ends after one unit, on streams; pair j of an OLI4 group decodes as the table gives. Of each of these forms
it concludes, under conditions on the state and the operands alone, that exec answers a next state with the form's own
effect: cvt, cvti, pack, unpk, unpkHi, packStrm, unpkStrm. -/
def Obligations.Conversions : Prop :=
  Says.RegisterConversions ∧
  Says.StreamConversions ∧
  Says.OutlierPairs

/-- PLANE and UNPLANE push the bit planes of a tile and gather them again; SPACK keeps of every four codes the two of
largest magnitude and SPACK.CHK checks metadata; NFSCAN flags the panel's non-finite codes. Of each of these forms it
concludes, under conditions on the state and the operands alone, that exec answers a next state with the form's own
effect: plane, unplane, spack, spackChk, nfscan. -/
def Obligations.ImagesOfTiles : Prop :=
  Says.Planes ∧
  Says.SparseTiles ∧
  Says.NonFiniteScans

/-- Claiming, releasing, configuring, status and waiting; a CMUL or CPROM is checked row by row and queued or loses its
turn; CZERO, CSTOR and CLOAD move images of a quiet array; CRING dumps the command ring and CRETRY requeues a faulted
command. What CPROM with NSC 0 takes from X[XA] and X[XB] is an inference of the model (log 33). Of each of these forms
it concludes, under conditions on the state and the operands alone, that exec answers a next state with the form's own
effect: cclaim, crel, ccfg, cstat, cstatClr, cwait, cmul, cprom, czero, cstorAcc, cstorL0, cstorL1, cstorCnt, cloadAcc,
cloadL0, cloadL1, cloadCnt, cring, cretry. -/
def Obligations.CubeIssue : Prop :=
  Says.CubeControl ∧
  Says.CubeMultiplies ∧
  Says.CubePromotes ∧
  Says.CubeImages ∧
  Says.RingDump ∧
  Says.CubeRetries

/-- A queued command is dispatched with its tiles, each pass of a dense CMUL adds the slab sum of each row and column
into its lane, completion sets DONE and the flags and wakes the thread that waits; an uncorrectable error abandons the
pass and cancels later commands. Of each of these forms it concludes, under conditions on the state and the operands
alone, that exec answers a next state with the form's own effect: cubeDispatch, cubePassEnd, cubeCommandComplete,
cubeDataError. -/
def Obligations.CubeArray : Prop :=
  Says.CubeDispatches ∧
  Says.CubePasses ∧
  Says.CubeCompletes ∧
  Says.CubeDataFaults

/-- HALLOC, HSET and HWAIT manage the handles of a launch; CQPUT and LAUNCH claim a slot of a queue at the home of its
header and publish the packet; CQINIT binds a queue to the engine of the core. Of each of these forms it concludes,
under conditions on the state and the operands alone, that exec answers a next state with the form's own effect: hstat,
hwait, hsetDrn, hsetFree, halloc, hfree, launch, cqput, atomicAtHome, loadReplyArrival, cqinitBind, cqinitUnb. -/
def Obligations.HandlesAndQueues : Prop :=
  Says.Handles ∧
  Says.ClaimsLeave ∧
  Says.ClaimsAtHome ∧
  Says.ClaimReplies ∧
  Says.QueueBinding

/-- The engine accepts the oldest packet of its queues, reads and writes its bytes in order with the transforms that it
names, and ends it with its record, its handle and its flags; a failure ends it with its reason. Of each of these forms
it concludes, under conditions on the state and the operands alone, that exec answers a next state with the form's own
effect: copyPacketAccept, copyPageBoundary, copyComplete, copyError. -/
def Obligations.CopyEngine : Prop :=
  Says.CopyAccepts ∧
  Says.CopyMoves ∧
  Says.CopyEnds

/-- TRECV takes records, TREAD and TWRITE reach the registers of a trapped thread, TRESUME returns it to rotation, TKILL
ends a thread, and a fault of slot 15 restarts the supervisor. Of each of these forms it concludes, under conditions on
the state and the operands alone, that exec answers a next state with the form's own effect: trecv, trecvTry, tread,
twrite, tresume, tresumeNext, tkill, supervisorRestart. -/
def Obligations.SupervisorAndTraps : Prop :=
  Says.TrapRecords ∧
  Says.TrappedContexts ∧
  Says.Resumes ∧
  Says.Kills ∧
  Says.SupervisorRestarts

/-- Each turn ends one cycle of a core and gives the next slot its turn; a thread that cannot issue issues nothing;
deadlines, yields, late faults and quantum expiries come when they are due. Of each of these forms it concludes, under
conditions on the state and the operands alone, that exec answers a next state with the form's own effect: slotTurn,
parkDeadline, yieldExpiry, lateFaultDelivery, quantumExpiry. -/
def Obligations.TurnsAndThreadEvents : Prop :=
  Says.Turns ∧
  Says.ThreadEvents

/-- The launch unit takes and checks packets, orders them by effective priority and dependence, reserves cores, local
memory and energy, admits, starts the entry threads and completes the launch with its record. Of each of these forms it
concludes, under conditions on the state and the operands alone, that exec answers a next state with the form's own
effect: launchPacketTake, dependenceReread, weirAdmit, entryStart, launchComplete. -/
def Obligations.Launches : Prop :=
  Says.LaunchPackets ∧
  Says.Priorities ∧
  Says.Reservations ∧
  Says.Admissions ∧
  Says.EntryThreads ∧
  Says.Completions

/-- Contexts of lower priority are pre-empted, their threads evicted and their cores saved; a context is restored as it
was saved; an unrecoverable fault stops its context; checkpoints and rollbacks restore the bytes written since. Of each
of these forms it concludes, under conditions on the state and the operands alone, that exec answers a next state with
the form's own effect: preempt, threadEvict, coreSaveEnd, contextRestore, ueStateMachineCheck, ckptTake, ckptRoll,
ckptStat, checkpoint, rollback, contextTerminate. -/
def Obligations.Scheduling : Prop :=
  Says.Preemptions ∧
  Says.Evictions ∧
  Says.CoreSaves ∧
  Says.Restorations ∧
  Says.Containment ∧
  Says.Checkpoints ∧
  Says.Rollbacks

/-- Requests of outside agents create, share, own and split entries, and send exactly the invalidations that the entry
names; acknowledgements let the home go on; write-backs of the owner are performed and others refused; an uncorrectable
entry is invalidated everywhere. A slice has 2,048 sets of 16 ways; which bits of a line index them is the model's (log
24). Of each of these forms it concludes, under conditions on the state and the operands alone, that exec answers a next
state with the form's own effect: rds, rdo, invalidationAck, backInvalidateResponse, wrb, evn, hostRequest, directoryUe. -/
def Obligations.Directory : Prop :=
  Says.ExternalReads ∧
  Says.EntryRecalls ∧
  Says.InvalidationAcks ∧
  Says.WriteBacksAndNotices ∧
  Says.DirectoryErrors

/-- An access of a core waits, is let through or has its line recalled first; an access of the host is uncached in
DEVICE bias and an RdS or RdO in HOST bias; window 2 reaches the memory of a running partition and is else refused;
replicas drop and snoops are answered. Of each of these forms it concludes, under conditions on the state and the
operands alone, that exec answers a next state with the form's own effect: hostRequest, window2Access, hostSnoop,
replicaDrop. -/
def Obligations.BiasAndHost : Prop :=
  Says.CoreAccessesAtDirectory ∧
  Says.HostAccesses ∧
  Says.WindowRefusals ∧
  Says.DropsAndSnoops

/-- A walk goes level by level and gives the address or the fault of the entry it meets; XLINV, XLSYNC and BFLIP
invalidate, flush, wait and end as the rules say; receipts remove exactly the entries concerned and wait for the
accesses that used them. That accesses to the page being flipped are not awaited (log 57), and what asks for an address
of the window (log 16), are the model's. Of each of these forms it concludes, under conditions on the state and the
operands alone, that exec answers a next state with the form's own effect: xlinvVa, xlinvAs, xlinvAll, xlsync,
xlinvReceipt, xlinvAckArrival, tlbEntryDrop, bflipHost, bflipDev, bflipRd. -/
def Obligations.TranslationAndBias : Prop :=
  Says.Walks ∧
  Says.Invalidations ∧
  Says.InvalidationReceipts ∧
  Says.InvalidationEnds ∧
  Says.BiasFlipsBegin ∧
  Says.BiasFlipsEnd

/-- KEYLD, ENERGY, GAUGE, SCOPT and PARTCTL complete with the results that their rules give, and the energy account
moves at interval ends. The order of ENERGY.SET at an interval end (log 25) and that CREATE and DESTROY are one step
(log 26) are the model's. Of each of these forms it concludes, under conditions on the state and the operands alone,
that exec answers a next state with the form's own effect: keyldInst, keyldClr, keyldStat, energyRd, energySet,
energyIntervalEnd, gauge, gaugeMctpRead, scopt, scoptCnt, partctlCreate, partctlDestroy, partctlStat. -/
def Obligations.FirmwareInstructions : Prop :=
  Says.ModelKeys ∧
  Says.EnergyAccounts ∧
  Says.EnergyIntervals ∧
  Says.GaugeCounters ∧
  Says.ScopeTable ∧
  Says.Partitions

/-- Window 0, the management rings, link ports and unreachable peers, reset and bring-up, counters, soft errors, key
delivery and measurement act as their rules say. Where device firmware starts (log 28) is the model's free choice. What
opcodes and codes outside standards fix is the model's (log 6). Of each of these forms it concludes, under conditions on
the state and the operands alone, that exec answers a next state with the form's own effect: window0Access,
mringRequest, flitReplay, peerUnreachable, deviceReset, lossOfPower, gaugeSave, correctableError, supplyDroop,
temperatureSecond, ueCleanData, uePoison, keyDeliveryRequest, spdmSessionEnd, spdmRequest. -/
def Obligations.DeviceEvents : Prop :=
  Says.WindowZero ∧
  Says.RingRequests ∧
  Says.Links ∧
  Says.BringUp ∧
  Says.GaugeEvents ∧
  Says.SoftErrors ∧
  Says.KeyDelivery ∧
  Says.Measurements
end

