-- ==== Sys2Proof/Laws/Exec.lean ====
section
/-! SUPPORT. What exec does with each constructor: the call of its meaning. Later proofs rewrite with these laws and
unfold exec nowhere. -/
namespace Sys2Proof.Machine

variable (s : State)

@[simp] theorem exec_nop : exec .nop s = execNop s := rfl
@[simp] theorem exec_brk (imm : BitVec 32) : exec (.brk imm) s = execBrk imm s := rfl
@[simp] theorem exec_svc (imm : BitVec 32) : exec (.svc imm) s = execSvc imm s := rfl
@[simp] theorem exec_trap (sub : BitVec 4) (a b : BitVec 6) (imm : BitVec 32) : exec (.trap sub a b imm) s = execTrap sub a b imm s := rfl
@[simp] theorem exec_ill : exec .ill s = execIll s := rfl
@[simp] theorem exec_mfs (d : BitVec 6) (sreg : BitVec 12) : exec (.mfs d sreg) s = execMfs d sreg s := rfl
@[simp] theorem exec_mfsFpsr (d : BitVec 6) : exec (.mfsFpsr d) s = execMfsFpsr d s := rfl
@[simp] theorem exec_mts (a : BitVec 6) (sreg : BitVec 12) : exec (.mts a sreg) s = execMts a sreg s := rfl
@[simp] theorem exec_mtsFpcr (a : BitVec 6) : exec (.mtsFpcr a) s = execMtsFpcr a s := rfl
@[simp] theorem exec_mtsFpsr (a : BitVec 6) : exec (.mtsFpsr a) s = execMtsFpsr a s := rfl
@[simp] theorem exec_mtsPriv (a : BitVec 6) : exec (.mtsPriv a) s = execMtsPriv a s := rfl
@[simp] theorem exec_mtsRseq (a : BitVec 6) : exec (.mtsRseq a) s = execMtsRseq a s := rfl
@[simp] theorem exec_ifence : exec .ifence s = execIfence s := rfl
@[simp] theorem exec_rand (d : BitVec 6) : exec (.rand d) s = execRand d s := rfl
@[simp] theorem exec_randR16 (d : BitVec 6) : exec (.randR16 d) s = execRandR16 d s := rfl
@[simp] theorem exec_add (d a b : BitVec 6) (w : BitVec 4) : exec (.add d a b w) s = execAdd d a b w s := rfl
@[simp] theorem exec_sub (d a b : BitVec 6) (w : BitVec 4) : exec (.sub d a b w) s = execSub d a b w s := rfl
@[simp] theorem exec_mul (d a b : BitVec 6) (w : BitVec 4) : exec (.mul d a b w) s = execMul d a b w s := rfl
@[simp] theorem exec_mulh (d a b : BitVec 6) (w : BitVec 4) : exec (.mulh d a b w) s = execMulh d a b w s := rfl
@[simp] theorem exec_div (d a b : BitVec 6) (w : BitVec 4) : exec (.div d a b w) s = execDiv d a b w s := rfl
@[simp] theorem exec_rem (d a b : BitVec 6) (w : BitVec 4) : exec (.rem d a b w) s = execRem d a b w s := rfl
@[simp] theorem exec_and (d a b : BitVec 6) (w : BitVec 4) : exec (.and d a b w) s = execAnd d a b w s := rfl
@[simp] theorem exec_or (d a b : BitVec 6) (w : BitVec 4) : exec (.or d a b w) s = execOr d a b w s := rfl
@[simp] theorem exec_xor (d a b : BitVec 6) (w : BitVec 4) : exec (.xor d a b w) s = execXor d a b w s := rfl
@[simp] theorem exec_andn (d a b : BitVec 6) (w : BitVec 4) : exec (.andn d a b w) s = execAndn d a b w s := rfl
@[simp] theorem exec_min (d a b : BitVec 6) (w : BitVec 4) : exec (.min d a b w) s = execMin d a b w s := rfl
@[simp] theorem exec_max (d a b : BitVec 6) (w : BitVec 4) : exec (.max d a b w) s = execMax d a b w s := rfl
@[simp] theorem exec_sel (d a b c : BitVec 6) (w : BitVec 4) : exec (.sel d a b c w) s = execSel d a b c w s := rfl
@[simp] theorem exec_madd (d a b c : BitVec 6) (w : BitVec 4) : exec (.madd d a b c w) s = execMadd d a b c w s := rfl
@[simp] theorem exec_adds (sub : BitVec 4) (d a b : BitVec 6) (w : BitVec 4) : exec (.adds sub d a b w) s = execAdds sub d a b w s := rfl
@[simp] theorem exec_absd (d a b : BitVec 6) (w : BitVec 4) : exec (.absd d a b w) s = execAbsd d a b w s := rfl
@[simp] theorem exec_addi (d a : BitVec 6) (w : BitVec 4) (imm : BitVec 64) : exec (.addi d a w imm) s = execAddi d a w imm s := rfl
@[simp] theorem exec_muli (d a : BitVec 6) (w : BitVec 4) (imm : BitVec 64) : exec (.muli d a w imm) s = execMuli d a w imm s := rfl
@[simp] theorem exec_andi (d a : BitVec 6) (w : BitVec 4) (imm : BitVec 64) : exec (.andi d a w imm) s = execAndi d a w imm s := rfl
@[simp] theorem exec_ori (d a : BitVec 6) (w : BitVec 4) (imm : BitVec 64) : exec (.ori d a w imm) s = execOri d a w imm s := rfl
@[simp] theorem exec_xori (d a : BitVec 6) (w : BitVec 4) (imm : BitVec 64) : exec (.xori d a w imm) s = execXori d a w imm s := rfl
@[simp] theorem exec_ldi (d : BitVec 6) (w : BitVec 4) (imm : BitVec 64) : exec (.ldi d w imm) s = execLdi d w imm s := rfl
@[simp] theorem exec_lea (d : BitVec 6) (w : BitVec 4) (imm : BitVec 64) : exec (.lea d w imm) s = execLea d w imm s := rfl
@[simp] theorem exec_sll (d a b : BitVec 6) (w : BitVec 4) : exec (.sll d a b w) s = execSll d a b w s := rfl
@[simp] theorem exec_srl (d a b : BitVec 6) (w : BitVec 4) : exec (.srl d a b w) s = execSrl d a b w s := rfl
@[simp] theorem exec_sra (d a b : BitVec 6) (w : BitVec 4) : exec (.sra d a b w) s = execSra d a b w s := rfl
@[simp] theorem exec_slli (d a : BitVec 6) (w : BitVec 4) (imm : BitVec 64) : exec (.slli d a w imm) s = execSlli d a w imm s := rfl
@[simp] theorem exec_srli (d a : BitVec 6) (w : BitVec 4) (imm : BitVec 64) : exec (.srli d a w imm) s = execSrli d a w imm s := rfl
@[simp] theorem exec_srai (d a : BitVec 6) (w : BitVec 4) (imm : BitVec 64) : exec (.srai d a w imm) s = execSrai d a w imm s := rfl
@[simp] theorem exec_rot (d a b : BitVec 6) (w : BitVec 4) : exec (.rot d a b w) s = execRot d a b w s := rfl
@[simp] theorem exec_clz (d a : BitVec 6) (w : BitVec 4) : exec (.clz d a w) s = execClz d a w s := rfl
@[simp] theorem exec_ctz (d a : BitVec 6) (w : BitVec 4) : exec (.ctz d a w) s = execCtz d a w s := rfl
@[simp] theorem exec_popc (d a : BitVec 6) (w : BitVec 4) : exec (.popc d a w) s = execPopc d a w s := rfl
@[simp] theorem exec_brev (d a : BitVec 6) (w : BitVec 4) : exec (.brev d a w) s = execBrev d a w s := rfl
@[simp] theorem exec_bfx (d a b c : BitVec 6) (w : BitVec 4) : exec (.bfx d a b c w) s = execBfx d a b c w s := rfl
@[simp] theorem exec_bfi (d a b c : BitVec 6) (w : BitVec 4) : exec (.bfi d a b c w) s = execBfi d a b c w s := rfl
@[simp] theorem exec_xfold (sub : BitVec 4) (d a b : BitVec 6) : exec (.xfold sub d a b) s = execXfold sub d a b s := rfl
@[simp] theorem exec_cmp (sub : BitVec 4) (d a b : BitVec 6) (w : BitVec 4) : exec (.cmp sub d a b w) s = execCmp sub d a b w s := rfl
@[simp] theorem exec_cmpi (sub : BitVec 4) (d a : BitVec 6) (w : BitVec 4) (imm : BitVec 64) : exec (.cmpi sub d a w imm) s = execCmpi sub d a w imm s := rfl
@[simp] theorem exec_plog (sub : BitVec 4) (d a b : BitVec 6) : exec (.plog sub d a b) s = execPlog sub d a b s := rfl
@[simp] theorem exec_pmovTox (d : BitVec 6) : exec (.pmovTox d) s = execPmovTox d s := rfl
@[simp] theorem exec_pmovFromx (a : BitVec 6) : exec (.pmovFromx a) s = execPmovFromx a s := rfl
@[simp] theorem exec_pmovNz (d a : BitVec 6) : exec (.pmovNz d a) s = execPmovNz d a s := rfl
@[simp] theorem exec_br (disp : BitVec 37) (slot : BitVec 3) : exec (.br disp slot) s = execBr disp slot s := rfl
@[simp] theorem exec_call (disp : BitVec 37) (slot : BitVec 3) : exec (.call disp slot) s = execCall disp slot s := rfl
@[simp] theorem exec_callR (a : BitVec 6) : exec (.callR a) s = execCallR a s := rfl
@[simp] theorem exec_ret (a : BitVec 6) : exec (.ret a) s = execRet a s := rfl
@[simp] theorem exec_jmp (a : BitVec 6) : exec (.jmp a) s = execJmp a s := rfl
@[simp] theorem exec_loop (a : BitVec 6) (disp : BitVec 37) (slot : BitVec 3) : exec (.loop a disp slot) s = execLoop a disp slot s := rfl
@[simp] theorem exec_brz (a : BitVec 6) (cond : BitVec 4) (disp : BitVec 37) (slot : BitVec 3) : exec (.brz a cond disp slot) s = execBrz a cond disp slot s := rfl
@[simp] theorem exec_brcmp (a b : BitVec 6) (cond : BitVec 4) (disp : BitVec 37) (slot : BitVec 3) : exec (.brcmp a b cond disp slot) s = execBrcmp a b cond disp slot s := rfl
@[simp] theorem exec_ld (sub : BitVec 4) (d base idx : BitVec 6) (scl : BitVec 2) (size ord scope hint : BitVec 3) (off : BitVec 48) : exec (.ld sub d base idx scl size ord scope hint off) s = execLd sub d base idx scl size ord scope hint off s := rfl
@[simp] theorem exec_st (d base idx : BitVec 6) (scl : BitVec 2) (size ord scope hint : BitVec 3) (off : BitVec 48) : exec (.st d base idx scl size ord scope hint off) s = execSt d base idx scl size ord scope hint off s := rfl
@[simp] theorem exec_ldf (d base idx : BitVec 6) (scl : BitVec 2) (size ord scope hint : BitVec 3) (off : BitVec 48) : exec (.ldf d base idx scl size ord scope hint off) s = execLdf d base idx scl size ord scope hint off s := rfl
@[simp] theorem exec_stf (d base idx : BitVec 6) (scl : BitVec 2) (size ord scope hint : BitVec 3) (off : BitVec 48) : exec (.stf d base idx scl size ord scope hint off) s = execStf d base idx scl size ord scope hint off s := rfl
@[simp] theorem exec_ldp (d base idx : BitVec 6) (scl : BitVec 2) (size ord scope hint : BitVec 3) (off : BitVec 48) : exec (.ldp d base idx scl size ord scope hint off) s = execLdp d base idx scl size ord scope hint off s := rfl
@[simp] theorem exec_stp (d base idx : BitVec 6) (scl : BitVec 2) (size ord scope hint : BitVec 3) (off : BitVec 48) : exec (.stp d base idx scl size ord scope hint off) s = execStp d base idx scl size ord scope hint off s := rfl
@[simp] theorem exec_ldb (sub : BitVec 4) (d base idx : BitVec 6) (scl : BitVec 2) (size hint : BitVec 3) (off : BitVec 48) : exec (.ldb sub d base idx scl size hint off) s = execLdb sub d base idx scl size hint off s := rfl
@[simp] theorem exec_stb (d base idx : BitVec 6) (scl : BitVec 2) (size hint : BitVec 3) (off : BitVec 48) : exec (.stb d base idx scl size hint off) s = execStb d base idx scl size hint off s := rfl
@[simp] theorem exec_prefL1 (base idx : BitVec 6) (scl : BitVec 2) (hint : BitVec 3) (off : BitVec 48) : exec (.prefL1 base idx scl hint off) s = execPrefL1 base idx scl hint off s := rfl
@[simp] theorem exec_prefL2 (base idx : BitVec 6) (scl : BitVec 2) (hint : BitVec 3) (off : BitVec 48) : exec (.prefL2 base idx scl hint off) s = execPrefL2 base idx scl hint off s := rfl
@[simp] theorem exec_drain : exec .drain s = execDrain s := rfl
@[simp] theorem exec_drainL (base idx : BitVec 6) (scl : BitVec 2) (off : BitVec 48) : exec (.drainL base idx scl off) s = execDrainL base idx scl off s := rfl
@[simp] theorem exec_amoAdd (d base idx : BitVec 6) (size ord scope : BitVec 3) (off : BitVec 48) : exec (.amoAdd d base idx size ord scope off) s = execAmoAdd d base idx size ord scope off s := rfl
@[simp] theorem exec_amoAnd (d base idx : BitVec 6) (size ord scope : BitVec 3) (off : BitVec 48) : exec (.amoAnd d base idx size ord scope off) s = execAmoAnd d base idx size ord scope off s := rfl
@[simp] theorem exec_amoOr (d base idx : BitVec 6) (size ord scope : BitVec 3) (off : BitVec 48) : exec (.amoOr d base idx size ord scope off) s = execAmoOr d base idx size ord scope off s := rfl
@[simp] theorem exec_amoXor (d base idx : BitVec 6) (size ord scope : BitVec 3) (off : BitVec 48) : exec (.amoXor d base idx size ord scope off) s = execAmoXor d base idx size ord scope off s := rfl
@[simp] theorem exec_amoSmin (d base idx : BitVec 6) (size ord scope : BitVec 3) (off : BitVec 48) : exec (.amoSmin d base idx size ord scope off) s = execAmoSmin d base idx size ord scope off s := rfl
@[simp] theorem exec_amoSmax (d base idx : BitVec 6) (size ord scope : BitVec 3) (off : BitVec 48) : exec (.amoSmax d base idx size ord scope off) s = execAmoSmax d base idx size ord scope off s := rfl
@[simp] theorem exec_amoUmin (d base idx : BitVec 6) (size ord scope : BitVec 3) (off : BitVec 48) : exec (.amoUmin d base idx size ord scope off) s = execAmoUmin d base idx size ord scope off s := rfl
@[simp] theorem exec_amoUmax (d base idx : BitVec 6) (size ord scope : BitVec 3) (off : BitVec 48) : exec (.amoUmax d base idx size ord scope off) s = execAmoUmax d base idx size ord scope off s := rfl
@[simp] theorem exec_amoSwap (d base idx : BitVec 6) (size ord scope : BitVec 3) (off : BitVec 48) : exec (.amoSwap d base idx size ord scope off) s = execAmoSwap d base idx size ord scope off s := rfl
@[simp] theorem exec_cas (d base idx : BitVec 6) (size ord scope : BitVec 3) (off : BitVec 48) : exec (.cas d base idx size ord scope off) s = execCas d base idx size ord scope off s := rfl
@[simp] theorem exec_amofAdd (d base idx : BitVec 6) (size ord scope : BitVec 3) (off : BitVec 48) : exec (.amofAdd d base idx size ord scope off) s = execAmofAdd d base idx size ord scope off s := rfl
@[simp] theorem exec_amofMin (d base idx : BitVec 6) (size ord scope : BitVec 3) (off : BitVec 48) : exec (.amofMin d base idx size ord scope off) s = execAmofMin d base idx size ord scope off s := rfl
@[simp] theorem exec_amofMax (d base idx : BitVec 6) (size ord scope : BitVec 3) (off : BitVec 48) : exec (.amofMax d base idx size ord scope off) s = execAmofMax d base idx size ord scope off s := rfl
@[simp] theorem exec_fence (ord scope : BitVec 3) : exec (.fence ord scope) s = execFence ord scope s := rfl
@[simp] theorem exec_barw (d base idx : BitVec 6) (scl : BitVec 2) (size ord scope : BitVec 3) (off : BitVec 48) : exec (.barw d base idx scl size ord scope off) s = execBarw d base idx scl size ord scope off s := rfl
@[simp] theorem exec_waitv (sub : BitVec 4) (d base idx : BitVec 6) (size ord scope : BitVec 3) (off : BitVec 48) : exec (.waitv sub d base idx size ord scope off) s = execWaitv sub d base idx size ord scope off s := rfl
@[simp] theorem exec_fork (d b : BitVec 6) (pd : BitVec 3) (disp : BitVec 37) (slot : BitVec 3) : exec (.fork d b pd disp slot) s = execFork d b pd disp slot s := rfl
@[simp] theorem exec_forkJ (d a b : BitVec 6) (pd : BitVec 3) (disp : BitVec 37) (slot : BitVec 3) : exec (.forkJ d a b pd disp slot) s = execForkJ d a b pd disp slot s := rfl
@[simp] theorem exec_join (a : BitVec 6) : exec (.join a) s = execJoin a s := rfl
@[simp] theorem exec_retire : exec .retire s = execRetire s := rfl
@[simp] theorem exec_retireJ (a : BitVec 6) : exec (.retireJ a) s = execRetireJ a s := rfl
@[simp] theorem exec_yield (a : BitVec 6) : exec (.yield a) s = execYield a s := rfl
@[simp] theorem exec_park (a : BitVec 6) : exec (.park a) s = execPark a s := rfl
@[simp] theorem exec_parkRel (a : BitVec 6) : exec (.parkRel a) s = execParkRel a s := rfl
@[simp] theorem exec_send (a b : BitVec 6) : exec (.send a b) s = execSend a b s := rfl
@[simp] theorem exec_waitf (d base idx : BitVec 6) (scl : BitVec 2) (size : BitVec 3) (off : BitVec 48) : exec (.waitf d base idx scl size off) s = execWaitf d base idx scl size off s := rfl
@[simp] theorem exec_waitfE (d base idx : BitVec 6) (scl : BitVec 2) (size : BitVec 3) (off : BitVec 48) : exec (.waitfE d base idx scl size off) s = execWaitfE d base idx scl size off s := rfl
@[simp] theorem exec_fill (d base idx : BitVec 6) (scl : BitVec 2) (size : BitVec 3) (off : BitVec 48) : exec (.fill d base idx scl size off) s = execFill d base idx scl size off s := rfl
@[simp] theorem exec_empty (base idx : BitVec 6) (scl : BitVec 2) (size : BitVec 3) (off : BitVec 48) : exec (.empty base idx scl size off) s = execEmpty base idx scl size off s := rfl
@[simp] theorem exec_dqpush (b : BitVec 6) (pd : BitVec 3) : exec (.dqpush b pd) s = execDqpush b pd s := rfl
@[simp] theorem exec_dqpop (d : BitVec 6) (pd : BitVec 3) : exec (.dqpop d pd) s = execDqpop d pd s := rfl
@[simp] theorem exec_dqsplit (a : BitVec 6) (pd : BitVec 3) (disp : BitVec 37) (slot : BitVec 3) : exec (.dqsplit a pd disp slot) s = execDqsplit a pd disp slot s := rfl
@[simp] theorem exec_dqsteal (d : BitVec 6) (pd : BitVec 3) : exec (.dqsteal d pd) s = execDqsteal d pd s := rfl
@[simp] theorem exec_dqstealAt (d a : BitVec 6) (pd : BitVec 3) : exec (.dqstealAt d a pd) s = execDqstealAt d a pd s := rfl
@[simp] theorem exec_dqrun : exec .dqrun s = execDqrun s := rfl
@[simp] theorem exec_launch (d a b : BitVec 6) (pd : BitVec 3) : exec (.launch d a b pd) s = execLaunch d a b pd s := rfl
@[simp] theorem exec_lwait (d a : BitVec 6) : exec (.lwait d a) s = execLwait d a s := rfl
@[simp] theorem exec_qalloc (pd : BitVec 3) (imm : BitVec 32) : exec (.qalloc pd imm) s = execQalloc pd imm s := rfl
@[simp] theorem exec_qfree (imm : BitVec 32) : exec (.qfree imm) s = execQfree imm s := rfl
@[simp] theorem exec_qlogAnd (qd qa qb pd : BitVec 3) : exec (.qlogAnd qd qa qb pd) s = execQlogAnd qd qa qb pd s := rfl
@[simp] theorem exec_qlogOr (qd qa qb pd : BitVec 3) : exec (.qlogOr qd qa qb pd) s = execQlogOr qd qa qb pd s := rfl
@[simp] theorem exec_qlogXor (qd qa qb pd : BitVec 3) : exec (.qlogXor qd qa qb pd) s = execQlogXor qd qa qb pd s := rfl
@[simp] theorem exec_qlogAndn (qd qa qb pd : BitVec 3) : exec (.qlogAndn qd qa qb pd) s = execQlogAndn qd qa qb pd s := rfl
@[simp] theorem exec_qlogCopy (qd qa pd : BitVec 3) : exec (.qlogCopy qd qa pd) s = execQlogCopy qd qa pd s := rfl
@[simp] theorem exec_qlogClear (qd pd : BitVec 3) : exec (.qlogClear qd pd) s = execQlogClear qd pd s := rfl
@[simp] theorem exec_qlogFull (qd pd : BitVec 3) : exec (.qlogFull qd pd) s = execQlogFull qd pd s := rfl
@[simp] theorem exec_qlogNot (qd qa pd : BitVec 3) : exec (.qlogNot qd qa pd) s = execQlogNot qd qa pd s := rfl
@[simp] theorem exec_qbitSet (qd : BitVec 3) (xa : BitVec 6) (pd : BitVec 3) : exec (.qbitSet qd xa pd) s = execQbitSet qd xa pd s := rfl
@[simp] theorem exec_qbitClr (qd : BitVec 3) (xa : BitVec 6) (pd : BitVec 3) : exec (.qbitClr qd xa pd) s = execQbitClr qd xa pd s := rfl
@[simp] theorem exec_qpop (qa : BitVec 3) (xa : BitVec 6) (pd : BitVec 3) : exec (.qpop qa xa pd) s = execQpop qa xa pd s := rfl
@[simp] theorem exec_qcnt (qa : BitVec 3) (xa : BitVec 6) (pd : BitVec 3) : exec (.qcnt qa xa pd) s = execQcnt qa xa pd s := rfl
@[simp] theorem exec_qtest (qa : BitVec 3) (xb : BitVec 6) (pd : BitVec 3) : exec (.qtest qa xb pd) s = execQtest qa xb pd s := rfl
@[simp] theorem exec_qeqEmpty (qa pd : BitVec 3) : exec (.qeqEmpty qa pd) s = execQeqEmpty qa pd s := rfl
@[simp] theorem exec_qeqEq (qa qb pd : BitVec 3) : exec (.qeqEq qa qb pd) s = execQeqEq qa qb pd s := rfl
@[simp] theorem exec_qeqSub (qa qb pd : BitVec 3) : exec (.qeqSub qa qb pd) s = execQeqSub qa qb pd s := rfl
@[simp] theorem exec_qeqDisj (qa qb pd : BitVec 3) : exec (.qeqDisj qa qb pd) s = execQeqDisj qa qb pd s := rfl
@[simp] theorem exec_qaddr (xa xb : BitVec 6) : exec (.qaddr xa xb) s = execQaddr xa xb s := rfl
@[simp] theorem exec_qaddrQn (xa xb : BitVec 6) : exec (.qaddrQn xa xb) s = execQaddrQn xa xb s := rfl
@[simp] theorem exec_qwin (xa xb : BitVec 6) : exec (.qwin xa xb) s = execQwin xa xb s := rfl
@[simp] theorem exec_qmask (qd qa pd : BitVec 3) (imm : BitVec 32) : exec (.qmask qd qa pd imm) s = execQmask qd qa pd imm s := rfl
@[simp] theorem exec_qsplit (qd qa qb pd : BitVec 3) (xa : BitVec 6) : exec (.qsplit qd qa qb pd xa) s = execQsplit qd qa qb pd xa s := rfl
@[simp] theorem exec_qmovTox (qa : BitVec 3) (xa : BitVec 6) : exec (.qmovTox qa xa) s = execQmovTox qa xa s := rfl
@[simp] theorem exec_qmovFromx (qd : BitVec 3) (xa : BitVec 6) : exec (.qmovFromx qd xa) s = execQmovFromx qd xa s := rfl
@[simp] theorem exec_qmovLd (qd : BitVec 3) (xa : BitVec 6) (imm : BitVec 32) : exec (.qmovLd qd xa imm) s = execQmovLd qd xa imm s := rfl
@[simp] theorem exec_qmovSt (qa : BitVec 3) (xa : BitVec 6) (imm : BitVec 32) : exec (.qmovSt qa xa imm) s = execQmovSt qa xa imm s := rfl
@[simp] theorem exec_arrive (qa : BitVec 3) (xa xb : BitVec 6) (pd : BitVec 3) : exec (.arrive qa xa xb pd) s = execArrive qa xa xb pd s := rfl
@[simp] theorem exec_depart (qa : BitVec 3) (xa xb : BitVec 6) (pd : BitVec 3) : exec (.depart qa xa xb pd) s = execDepart qa xa xb pd s := rfl
@[simp] theorem exec_departW (qa : BitVec 3) (xa xb : BitVec 6) (pd : BitVec 3) : exec (.departW qa xa xb pd) s = execDepartW qa xa xb pd s := rfl
@[simp] theorem exec_qfork (qa : BitVec 3) (xa xb : BitVec 6) (pd : BitVec 3) (imm : BitVec 32) : exec (.qfork qa xa xb pd imm) s = execQfork qa xa xb pd imm s := rfl
@[simp] theorem exec_scfg (fs : BitVec 5) (xa xb : BitVec 6) (loops : BitVec 2) (dir space : BitVec 1) (fmt : BitVec 4) (pd : BitVec 3) : exec (.scfg fs xa xb loops dir space fmt pd) s = execScfg fs xa xb loops dir space fmt pd s := rfl
@[simp] theorem exec_scfgm (fs : BitVec 5) (dir space : BitVec 1) (fmt : BitVec 4) (qs pd : BitVec 3) : exec (.scfgm fs dir space fmt qs pd) s = execScfgm fs dir space fmt qs pd s := rfl
@[simp] theorem exec_sen (mask : BitVec 8) : exec (.sen mask) s = execSen mask s := rfl
@[simp] theorem exec_sdis (mask : BitVec 8) : exec (.sdis mask) s = execSdis mask s := rfl
@[simp] theorem exec_swait (mask : BitVec 8) : exec (.swait mask) s = execSwait mask s := rfl
@[simp] theorem exec_vadd (fd fa fb : BitVec 5) (fmt : BitVec 4) (rnd : BitVec 3) (bc : BitVec 2) : exec (.vadd fd fa fb fmt rnd bc) s = execVadd fd fa fb fmt rnd bc s := rfl
@[simp] theorem exec_vsub (fd fa fb : BitVec 5) (fmt : BitVec 4) (rnd : BitVec 3) (bc : BitVec 2) : exec (.vsub fd fa fb fmt rnd bc) s = execVsub fd fa fb fmt rnd bc s := rfl
@[simp] theorem exec_vmul (fd fa fb : BitVec 5) (fmt : BitVec 4) (rnd : BitVec 3) (bc : BitVec 2) : exec (.vmul fd fa fb fmt rnd bc) s = execVmul fd fa fb fmt rnd bc s := rfl
@[simp] theorem exec_vfma (fd fa fb fc : BitVec 5) (fmt : BitVec 4) (rnd : BitVec 3) (bc : BitVec 2) : exec (.vfma fd fa fb fc fmt rnd bc) s = execVfma fd fa fb fc fmt rnd bc s := rfl
@[simp] theorem exec_vfmaMs (fd fa fb fc : BitVec 5) (fmt : BitVec 4) (rnd : BitVec 3) (bc : BitVec 2) : exec (.vfmaMs fd fa fb fc fmt rnd bc) s = execVfmaMs fd fa fb fc fmt rnd bc s := rfl
@[simp] theorem exec_vfmaNma (fd fa fb fc : BitVec 5) (fmt : BitVec 4) (rnd : BitVec 3) (bc : BitVec 2) : exec (.vfmaNma fd fa fb fc fmt rnd bc) s = execVfmaNma fd fa fb fc fmt rnd bc s := rfl
@[simp] theorem exec_vfmaNms (fd fa fb fc : BitVec 5) (fmt : BitVec 4) (rnd : BitVec 3) (bc : BitVec 2) : exec (.vfmaNms fd fa fb fc fmt rnd bc) s = execVfmaNms fd fa fb fc fmt rnd bc s := rfl
@[simp] theorem exec_vmin (fd fa fb : BitVec 5) (fmt : BitVec 4) (bc : BitVec 2) : exec (.vmin fd fa fb fmt bc) s = execVmin fd fa fb fmt bc s := rfl
@[simp] theorem exec_vmax (fd fa fb : BitVec 5) (fmt : BitVec 4) (bc : BitVec 2) : exec (.vmax fd fa fb fmt bc) s = execVmax fd fa fb fmt bc s := rfl
@[simp] theorem exec_vsgnCpy (fd fa fb : BitVec 5) (fmt : BitVec 4) (bc : BitVec 2) : exec (.vsgnCpy fd fa fb fmt bc) s = execVsgnCpy fd fa fb fmt bc s := rfl
@[simp] theorem exec_vsgnNeg (fd fa fb : BitVec 5) (fmt : BitVec 4) (bc : BitVec 2) : exec (.vsgnNeg fd fa fb fmt bc) s = execVsgnNeg fd fa fb fmt bc s := rfl
@[simp] theorem exec_vsgnXor (fd fa fb : BitVec 5) (fmt : BitVec 4) (bc : BitVec 2) : exec (.vsgnXor fd fa fb fmt bc) s = execVsgnXor fd fa fb fmt bc s := rfl
@[simp] theorem exec_vcmp (sub : BitVec 4) (fd fa fb : BitVec 5) (fmt : BitVec 4) (pd : BitVec 3) (bc : BitVec 2) (imm : BitVec 32) : exec (.vcmp sub fd fa fb fmt pd bc imm) s = execVcmp sub fd fa fb fmt pd bc imm s := rfl
@[simp] theorem exec_vsel (fd fa fb fc : BitVec 5) (fmt : BitVec 4) (bc : BitVec 2) : exec (.vsel fd fa fb fc fmt bc) s = execVsel fd fa fb fc fmt bc s := rfl
@[simp] theorem exec_vdiv (fd fa fb : BitVec 5) (fmt : BitVec 4) (rnd : BitVec 3) (bc : BitVec 2) : exec (.vdiv fd fa fb fmt rnd bc) s = execVdiv fd fa fb fmt rnd bc s := rfl
@[simp] theorem exec_vsqrt (fd fa : BitVec 5) (fmt : BitVec 4) (rnd : BitVec 3) : exec (.vsqrt fd fa fmt rnd) s = execVsqrt fd fa fmt rnd s := rfl
@[simp] theorem exec_vredSum (fd fa : BitVec 5) (fmt : BitVec 4) (rnd : BitVec 3) : exec (.vredSum fd fa fmt rnd) s = execVredSum fd fa fmt rnd s := rfl
@[simp] theorem exec_vredMin (fd fa : BitVec 5) (fmt : BitVec 4) (rnd : BitVec 3) : exec (.vredMin fd fa fmt rnd) s = execVredMin fd fa fmt rnd s := rfl
@[simp] theorem exec_vredMax (fd fa : BitVec 5) (fmt : BitVec 4) (rnd : BitVec 3) : exec (.vredMax fd fa fmt rnd) s = execVredMax fd fa fmt rnd s := rfl
@[simp] theorem exec_vdot (fd fa fb : BitVec 5) (fmt : BitVec 4) (rnd : BitVec 3) (bc : BitVec 2) : exec (.vdot fd fa fb fmt rnd bc) s = execVdot fd fa fb fmt rnd bc s := rfl
@[simp] theorem exec_vmov (fd fa : BitVec 5) (fmt : BitVec 4) : exec (.vmov fd fa fmt) s = execVmov fd fa fmt s := rfl
@[simp] theorem exec_vsclI (fd fa : BitVec 5) (fmt : BitVec 4) (rnd : BitVec 3) (imm : BitVec 32) : exec (.vsclI fd fa fmt rnd imm) s = execVsclI fd fa fmt rnd imm s := rfl
@[simp] theorem exec_vsclE (fd fa fb : BitVec 5) (fmt : BitVec 4) (rnd : BitVec 3) (bc : BitVec 2) : exec (.vsclE fd fa fb fmt rnd bc) s = execVsclE fd fa fb fmt rnd bc s := rfl
@[simp] theorem exec_vcls (fd fa : BitVec 5) (fmt : BitVec 4) (pd : BitVec 3) (imm : BitVec 32) : exec (.vcls fd fa fmt pd imm) s = execVcls fd fa fmt pd imm s := rfl
@[simp] theorem exec_vexp (fd fa : BitVec 5) (fmt : BitVec 4) : exec (.vexp fd fa fmt) s = execVexp fd fa fmt s := rfl
@[simp] theorem exec_vlog (fd fa : BitVec 5) (fmt : BitVec 4) : exec (.vlog fd fa fmt) s = execVlog fd fa fmt s := rfl
@[simp] theorem exec_vrcp (fd fa : BitVec 5) (fmt : BitVec 4) : exec (.vrcp fd fa fmt) s = execVrcp fd fa fmt s := rfl
@[simp] theorem exec_vrsq (fd fa : BitVec 5) (fmt : BitVec 4) : exec (.vrsq fd fa fmt) s = execVrsq fd fa fmt s := rfl
@[simp] theorem exec_vsinpi (fd fa : BitVec 5) (fmt : BitVec 4) : exec (.vsinpi fd fa fmt) s = execVsinpi fd fa fmt s := rfl
@[simp] theorem exec_vcospi (fd fa : BitVec 5) (fmt : BitVec 4) : exec (.vcospi fd fa fmt) s = execVcospi fd fa fmt s := rfl
@[simp] theorem exec_vtanh (fd fa : BitVec 5) (fmt : BitVec 4) : exec (.vtanh fd fa fmt) s = execVtanh fd fa fmt s := rfl
@[simp] theorem exec_viaddAdd (fd fa fb : BitVec 5) (fmt : BitVec 4) (bc : BitVec 2) : exec (.viaddAdd fd fa fb fmt bc) s = execViaddAdd fd fa fb fmt bc s := rfl
@[simp] theorem exec_viaddSub (fd fa fb : BitVec 5) (fmt : BitVec 4) (bc : BitVec 2) : exec (.viaddSub fd fa fb fmt bc) s = execViaddSub fd fa fb fmt bc s := rfl
@[simp] theorem exec_viaddAdds (fd fa fb : BitVec 5) (fmt : BitVec 4) (bc : BitVec 2) : exec (.viaddAdds fd fa fb fmt bc) s = execViaddAdds fd fa fb fmt bc s := rfl
@[simp] theorem exec_viaddSubs (fd fa fb : BitVec 5) (fmt : BitVec 4) (bc : BitVec 2) : exec (.viaddSubs fd fa fb fmt bc) s = execViaddSubs fd fa fb fmt bc s := rfl
@[simp] theorem exec_viaddMin (fd fa fb : BitVec 5) (fmt : BitVec 4) (bc : BitVec 2) : exec (.viaddMin fd fa fb fmt bc) s = execViaddMin fd fa fb fmt bc s := rfl
@[simp] theorem exec_viaddMax (fd fa fb : BitVec 5) (fmt : BitVec 4) (bc : BitVec 2) : exec (.viaddMax fd fa fb fmt bc) s = execViaddMax fd fa fb fmt bc s := rfl
@[simp] theorem exec_viaddAbsd (fd fa fb : BitVec 5) (fmt : BitVec 4) (bc : BitVec 2) : exec (.viaddAbsd fd fa fb fmt bc) s = execViaddAbsd fd fa fb fmt bc s := rfl
@[simp] theorem exec_vimulLo (fd fa fb : BitVec 5) (fmt : BitVec 4) (bc : BitVec 2) : exec (.vimulLo fd fa fb fmt bc) s = execVimulLo fd fa fb fmt bc s := rfl
@[simp] theorem exec_vimulHi (fd fa fb : BitVec 5) (fmt : BitVec 4) (bc : BitVec 2) : exec (.vimulHi fd fa fb fmt bc) s = execVimulHi fd fa fb fmt bc s := rfl
@[simp] theorem exec_vimulHiu (fd fa fb : BitVec 5) (fmt : BitVec 4) (bc : BitVec 2) : exec (.vimulHiu fd fa fb fmt bc) s = execVimulHiu fd fa fb fmt bc s := rfl
@[simp] theorem exec_vlogicAnd (fd fa fb : BitVec 5) (fmt : BitVec 4) (bc : BitVec 2) : exec (.vlogicAnd fd fa fb fmt bc) s = execVlogicAnd fd fa fb fmt bc s := rfl
@[simp] theorem exec_vlogicOr (fd fa fb : BitVec 5) (fmt : BitVec 4) (bc : BitVec 2) : exec (.vlogicOr fd fa fb fmt bc) s = execVlogicOr fd fa fb fmt bc s := rfl
@[simp] theorem exec_vlogicXor (fd fa fb : BitVec 5) (fmt : BitVec 4) (bc : BitVec 2) : exec (.vlogicXor fd fa fb fmt bc) s = execVlogicXor fd fa fb fmt bc s := rfl
@[simp] theorem exec_vlogicAndn (fd fa fb : BitVec 5) (fmt : BitVec 4) (bc : BitVec 2) : exec (.vlogicAndn fd fa fb fmt bc) s = execVlogicAndn fd fa fb fmt bc s := rfl
@[simp] theorem exec_vlogicNot (fd fa : BitVec 5) (fmt : BitVec 4) : exec (.vlogicNot fd fa fmt) s = execVlogicNot fd fa fmt s := rfl
@[simp] theorem exec_vshfSll (fd fa fb : BitVec 5) (fmt : BitVec 4) (bc : BitVec 2) : exec (.vshfSll fd fa fb fmt bc) s = execVshfSll fd fa fb fmt bc s := rfl
@[simp] theorem exec_vshfSrl (fd fa fb : BitVec 5) (fmt : BitVec 4) (bc : BitVec 2) : exec (.vshfSrl fd fa fb fmt bc) s = execVshfSrl fd fa fb fmt bc s := rfl
@[simp] theorem exec_vshfSra (fd fa fb : BitVec 5) (fmt : BitVec 4) (bc : BitVec 2) : exec (.vshfSra fd fa fb fmt bc) s = execVshfSra fd fa fb fmt bc s := rfl
@[simp] theorem exec_vshfRot (fd fa fb : BitVec 5) (fmt : BitVec 4) (bc : BitVec 2) : exec (.vshfRot fd fa fb fmt bc) s = execVshfRot fd fa fb fmt bc s := rfl
@[simp] theorem exec_cvt (sub : BitVec 4) (fd fa : BitVec 5) (fmt : BitVec 4) (rnd : BitVec 3) (imm : BitVec 32) : exec (.cvt sub fd fa fmt rnd imm) s = execCvt sub fd fa fmt rnd imm s := rfl
@[simp] theorem exec_cvti (sub : BitVec 4) (fd fa : BitVec 5) (fmt : BitVec 4) (rnd : BitVec 3) (imm : BitVec 32) : exec (.cvti sub fd fa fmt rnd imm) s = execCvti sub fd fa fmt rnd imm s := rfl
@[simp] theorem exec_pack (sub : BitVec 4) (fd fa fb : BitVec 5) (fmt : BitVec 4) (rnd : BitVec 3) (imm : BitVec 32) : exec (.pack sub fd fa fb fmt rnd imm) s = execPack sub fd fa fb fmt rnd imm s := rfl
@[simp] theorem exec_packStrm (sub : BitVec 4) (fd fa : BitVec 5) (fmt : BitVec 4) (rnd : BitVec 3) (imm : BitVec 32) : exec (.packStrm sub fd fa fmt rnd imm) s = execPackStrm sub fd fa fmt rnd imm s := rfl
@[simp] theorem exec_unpk (sub : BitVec 4) (fd fa : BitVec 5) (fmt : BitVec 4) (rnd : BitVec 3) (imm : BitVec 32) : exec (.unpk sub fd fa fmt rnd imm) s = execUnpk sub fd fa fmt rnd imm s := rfl
@[simp] theorem exec_unpkHi (sub : BitVec 4) (fd fa : BitVec 5) (fmt : BitVec 4) (rnd : BitVec 3) (imm : BitVec 32) : exec (.unpkHi sub fd fa fmt rnd imm) s = execUnpkHi sub fd fa fmt rnd imm s := rfl
@[simp] theorem exec_unpkStrm (sub : BitVec 4) (fd fa : BitVec 5) (fmt : BitVec 4) (rnd : BitVec 3) (imm : BitVec 32) : exec (.unpkStrm sub fd fa fmt rnd imm) s = execUnpkStrm sub fd fa fmt rnd imm s := rfl
@[simp] theorem exec_plane (fd fa : BitVec 5) (fmt : BitVec 4) : exec (.plane fd fa fmt) s = execPlane fd fa fmt s := rfl
@[simp] theorem exec_unplane (fd fa : BitVec 5) (fmt : BitVec 4) : exec (.unplane fd fa fmt) s = execUnplane fd fa fmt s := rfl
@[simp] theorem exec_spack (fd fa fb : BitVec 5) (fmt : BitVec 4) (pd : BitVec 3) : exec (.spack fd fa fb fmt pd) s = execSpack fd fa fb fmt pd s := rfl
@[simp] theorem exec_spackChk (fd fa : BitVec 5) (fmt : BitVec 4) (pd : BitVec 3) : exec (.spackChk fd fa fmt pd) s = execSpackChk fd fa fmt pd s := rfl
@[simp] theorem exec_nfscan (fd fa : BitVec 5) (fmt : BitVec 4) (pd : BitVec 3) : exec (.nfscan fd fa fmt pd) s = execNfscan fd fa fmt pd s := rfl
@[simp] theorem exec_cclaim (xd : BitVec 6) : exec (.cclaim xd) s = execCclaim xd s := rfl
@[simp] theorem exec_crel : exec .crel s = execCrel s := rfl
@[simp] theorem exec_ccfg (xd : BitVec 6) : exec (.ccfg xd) s = execCcfg xd s := rfl
@[simp] theorem exec_cmul (xa xb xg xd xn : BitVec 6) (acb : BitVec 9) (spa za : BitVec 1) : exec (.cmul xa xb xg xd xn acb spa za) s = execCmul xa xb xg xd xn acb spa za s := rfl
@[simp] theorem exec_cprom (xa xb xd xn : BitVec 6) (acb : BitVec 9) (nsc : BitVec 2) : exec (.cprom xa xb xd xn acb nsc) s = execCprom xa xb xd xn acb nsc s := rfl
@[simp] theorem exec_czero (xn : BitVec 6) (acb : BitVec 9) : exec (.czero xn acb) s = execCzero xn acb s := rfl
@[simp] theorem exec_cstat (xd : BitVec 6) : exec (.cstat xd) s = execCstat xd s := rfl
@[simp] theorem exec_cstatClr (xd : BitVec 6) : exec (.cstatClr xd) s = execCstatClr xd s := rfl
@[simp] theorem exec_cwait (xa : BitVec 6) : exec (.cwait xa) s = execCwait xa s := rfl
@[simp] theorem exec_cstorAcc (xa xn : BitVec 6) (acb : BitVec 9) : exec (.cstorAcc xa xn acb) s = execCstorAcc xa xn acb s := rfl
@[simp] theorem exec_cstorL0 (xa xn : BitVec 6) (acb : BitVec 9) : exec (.cstorL0 xa xn acb) s = execCstorL0 xa xn acb s := rfl
@[simp] theorem exec_cstorL1 (xa xn : BitVec 6) (acb : BitVec 9) : exec (.cstorL1 xa xn acb) s = execCstorL1 xa xn acb s := rfl
@[simp] theorem exec_cstorCnt (xa xn : BitVec 6) (acb : BitVec 9) : exec (.cstorCnt xa xn acb) s = execCstorCnt xa xn acb s := rfl
@[simp] theorem exec_cloadAcc (xa xn : BitVec 6) (acb : BitVec 9) : exec (.cloadAcc xa xn acb) s = execCloadAcc xa xn acb s := rfl
@[simp] theorem exec_cloadL0 (xa xn : BitVec 6) (acb : BitVec 9) : exec (.cloadL0 xa xn acb) s = execCloadL0 xa xn acb s := rfl
@[simp] theorem exec_cloadL1 (xa xn : BitVec 6) (acb : BitVec 9) : exec (.cloadL1 xa xn acb) s = execCloadL1 xa xn acb s := rfl
@[simp] theorem exec_cloadCnt (xa xn : BitVec 6) (acb : BitVec 9) : exec (.cloadCnt xa xn acb) s = execCloadCnt xa xn acb s := rfl
@[simp] theorem exec_cring (xa xn : BitVec 6) : exec (.cring xa xn) s = execCring xa xn s := rfl
@[simp] theorem exec_cretry (xa xb : BitVec 6) : exec (.cretry xa xb) s = execCretry xa xb s := rfl
@[simp] theorem exec_cqput (d a b : BitVec 6) (pd : BitVec 3) : exec (.cqput d a b pd) s = execCqput d a b pd s := rfl
@[simp] theorem exec_hstat (d hn : BitVec 6) : exec (.hstat d hn) s = execHstat d hn s := rfl
@[simp] theorem exec_hwait (d hn : BitVec 6) (smask : BitVec 4) : exec (.hwait d hn smask) s = execHwait d hn smask s := rfl
@[simp] theorem exec_hsetDrn (hn : BitVec 6) (pd : BitVec 3) : exec (.hsetDrn hn pd) s = execHsetDrn hn pd s := rfl
@[simp] theorem exec_hsetFree (hn : BitVec 6) (pd : BitVec 3) : exec (.hsetFree hn pd) s = execHsetFree hn pd s := rfl
@[simp] theorem exec_halloc (a b hn : BitVec 6) (pd : BitVec 3) : exec (.halloc a b hn pd) s = execHalloc a b hn pd s := rfl
@[simp] theorem exec_hfree (hn : BitVec 6) (pd : BitVec 3) : exec (.hfree hn pd) s = execHfree hn pd s := rfl
@[simp] theorem exec_cqinitBind (a b : BitVec 6) (pd : BitVec 3) : exec (.cqinitBind a b pd) s = execCqinitBind a b pd s := rfl
@[simp] theorem exec_cqinitUnb (a : BitVec 6) (pd : BitVec 3) : exec (.cqinitUnb a pd) s = execCqinitUnb a pd s := rfl
@[simp] theorem exec_trecv (d : BitVec 6) : exec (.trecv d) s = execTrecv d s := rfl
@[simp] theorem exec_trecvTry (d : BitVec 6) (pd : BitVec 3) : exec (.trecvTry d pd) s = execTrecvTry d pd s := rfl
@[simp] theorem exec_tread (d a : BitVec 6) (sreg : BitVec 12) (pd : BitVec 3) (imm : BitVec 32) : exec (.tread d a sreg pd imm) s = execTread d a sreg pd imm s := rfl
@[simp] theorem exec_twrite (a b : BitVec 6) (sreg : BitVec 12) (pd : BitVec 3) (imm : BitVec 32) : exec (.twrite a b sreg pd imm) s = execTwrite a b sreg pd imm s := rfl
@[simp] theorem exec_tresume (a : BitVec 6) (pd : BitVec 3) : exec (.tresume a pd) s = execTresume a pd s := rfl
@[simp] theorem exec_tresumeNext (a : BitVec 6) (pd : BitVec 3) : exec (.tresumeNext a pd) s = execTresumeNext a pd s := rfl
@[simp] theorem exec_tkill (a : BitVec 6) (pd : BitVec 3) : exec (.tkill a pd) s = execTkill a pd s := rfl
@[simp] theorem exec_xlinvVa (a b : BitVec 6) : exec (.xlinvVa a b) s = execXlinvVa a b s := rfl
@[simp] theorem exec_xlinvAs (a : BitVec 6) : exec (.xlinvAs a) s = execXlinvAs a s := rfl
@[simp] theorem exec_xlinvAll : exec .xlinvAll s = execXlinvAll s := rfl
@[simp] theorem exec_xlsync : exec .xlsync s = execXlsync s := rfl
@[simp] theorem exec_ckptTake (a : BitVec 6) (pd : BitVec 3) : exec (.ckptTake a pd) s = execCkptTake a pd s := rfl
@[simp] theorem exec_ckptRoll (a : BitVec 6) (pd : BitVec 3) : exec (.ckptRoll a pd) s = execCkptRoll a pd s := rfl
@[simp] theorem exec_ckptStat (d a : BitVec 6) (pd : BitVec 3) : exec (.ckptStat d a pd) s = execCkptStat d a pd s := rfl
@[simp] theorem exec_bflipHost (a : BitVec 6) (pd : BitVec 3) : exec (.bflipHost a pd) s = execBflipHost a pd s := rfl
@[simp] theorem exec_bflipDev (a : BitVec 6) (pd : BitVec 3) : exec (.bflipDev a pd) s = execBflipDev a pd s := rfl
@[simp] theorem exec_bflipRd (d a : BitVec 6) : exec (.bflipRd d a) s = execBflipRd d a s := rfl
@[simp] theorem exec_keyldInst (d a b : BitVec 6) (pd : BitVec 3) : exec (.keyldInst d a b pd) s = execKeyldInst d a b pd s := rfl
@[simp] theorem exec_keyldClr (a : BitVec 6) (pd : BitVec 3) : exec (.keyldClr a pd) s = execKeyldClr a pd s := rfl
@[simp] theorem exec_keyldStat (d a : BitVec 6) (pd : BitVec 3) : exec (.keyldStat d a pd) s = execKeyldStat d a pd s := rfl
@[simp] theorem exec_energyRd (d a : BitVec 6) (pd : BitVec 3) : exec (.energyRd d a pd) s = execEnergyRd d a pd s := rfl
@[simp] theorem exec_energySet (a b : BitVec 6) (pd : BitVec 3) : exec (.energySet a b pd) s = execEnergySet a b pd s := rfl
@[simp] theorem exec_gauge (d a : BitVec 6) (pd : BitVec 3) : exec (.gauge d a pd) s = execGauge d a pd s := rfl
@[simp] theorem exec_scopt (d a b : BitVec 6) (pd : BitVec 3) : exec (.scopt d a b pd) s = execScopt d a b pd s := rfl
@[simp] theorem exec_scoptCnt (d a : BitVec 6) : exec (.scoptCnt d a) s = execScoptCnt d a s := rfl
@[simp] theorem exec_partctlCreate (d a : BitVec 6) (pd : BitVec 3) : exec (.partctlCreate d a pd) s = execPartctlCreate d a pd s := rfl
@[simp] theorem exec_partctlDestroy (a : BitVec 6) (pd : BitVec 3) : exec (.partctlDestroy a pd) s = execPartctlDestroy a pd s := rfl
@[simp] theorem exec_partctlStat (d a : BitVec 6) : exec (.partctlStat d a) s = execPartctlStat d a s := rfl
@[simp] theorem exec_lineRefetch (core slot : Nat) : exec (.lineRefetch core slot) s = execLineRefetch core slot s := rfl
@[simp] theorem exec_fetchLineArrival (core slot : Nat) : exec (.fetchLineArrival core slot) s = execFetchLineArrival core slot s := rfl
@[simp] theorem exec_slotTurn (core : Nat) : exec (.slotTurn core) s = execSlotTurn core s := rfl
@[simp] theorem exec_threadFirstFetch (core slot : Nat) : exec (.threadFirstFetch core slot) s = execThreadFirstFetch core slot s := rfl
@[simp] theorem exec_loadReplyArrival (id : Nat) : exec (.loadReplyArrival id) s = execLoadReplyArrival id s := rfl
@[simp] theorem exec_wakeNotice (id : Nat) : exec (.wakeNotice id) s = execWakeNotice id s := rfl
@[simp] theorem exec_parkDeadline (core slot : Nat) : exec (.parkDeadline core slot) s = execParkDeadline core slot s := rfl
@[simp] theorem exec_yieldExpiry (core slot : Nat) : exec (.yieldExpiry core slot) s = execYieldExpiry core slot s := rfl
@[simp] theorem exec_plainLoadAtHome (id : Nat) : exec (.plainLoadAtHome id) s = execPlainLoadAtHome id s := rfl
@[simp] theorem exec_writeBackAtHome (id : Nat) : exec (.writeBackAtHome id) s = execWriteBackAtHome id s := rfl
@[simp] theorem exec_atomicAtHome (id : Nat) : exec (.atomicAtHome id) s = execAtomicAtHome id s := rfl
@[simp] theorem exec_amoAckArrival (id : Nat) : exec (.amoAckArrival id) s = execAmoAckArrival id s := rfl
@[simp] theorem exec_releaseAtHome (id : Nat) : exec (.releaseAtHome id) s = execReleaseAtHome id s := rfl
@[simp] theorem exec_releaseAckArrival (id : Nat) : exec (.releaseAckArrival id) s = execReleaseAckArrival id s := rfl
@[simp] theorem exec_orderedReadAtHome (id : Nat) : exec (.orderedReadAtHome id) s = execOrderedReadAtHome id s := rfl
@[simp] theorem exec_drainRequest (id : Nat) : exec (.drainRequest id) s = execDrainRequest id s := rfl
@[simp] theorem exec_drainAckAtHome (id : Nat) : exec (.drainAckAtHome id) s = execDrainAckAtHome id s := rfl
@[simp] theorem exec_fold (core : Nat) : exec (.fold core) s = execFold core s := rfl
@[simp] theorem exec_foldEnd (core : Nat) : exec (.foldEnd core) s = execFoldEnd core s := rfl
@[simp] theorem exec_llcEvictionDrain (dom line : Nat) : exec (.llcEvictionDrain dom line) s = execLlcEvictionDrain dom line s := rfl
@[simp] theorem exec_barwArrivalAtHome (id : Nat) : exec (.barwArrivalAtHome id) s = execBarwArrivalAtHome id s := rfl
@[simp] theorem exec_waitvReread (id : Nat) : exec (.waitvReread id) s = execWaitvReread id s := rfl
@[simp] theorem exec_joinCounterUpdate (id : Nat) : exec (.joinCounterUpdate id) s = execJoinCounterUpdate id s := rfl
@[simp] theorem exec_switchCombine (reqs : List (Nat × Nat)) : exec (.switchCombine reqs) s = execSwitchCombine reqs s := rfl
@[simp] theorem exec_arriveAtHome (id : Nat) : exec (.arriveAtHome id) s = execArriveAtHome id s := rfl
@[simp] theorem exec_departAtHome (id : Nat) : exec (.departAtHome id) s = execDepartAtHome id s := rfl
@[simp] theorem exec_ageSeal (dom ent : Nat) : exec (.ageSeal dom ent) s = execAgeSeal dom ent s := rfl
@[simp] theorem exec_closedEntryInvalidate (dom ent : Nat) : exec (.closedEntryInvalidate dom ent) s = execClosedEntryInvalidate dom ent s := rfl
@[simp] theorem exec_stealRound (core slot : Nat) : exec (.stealRound core slot) s = execStealRound core slot s := rfl
@[simp] theorem exec_stealRequest (id : Nat) : exec (.stealRequest id) s = execStealRequest id s := rfl
@[simp] theorem exec_stealAnswer (id : Nat) : exec (.stealAnswer id) s = execStealAnswer id s := rfl
@[simp] theorem exec_messageDelivery (core target : Nat) : exec (.messageDelivery core target) s = execMessageDelivery core target s := rfl
@[simp] theorem exec_messageRetry (core target : Nat) : exec (.messageRetry core target) s = execMessageRetry core target s := rfl
@[simp] theorem exec_handlerStart (core : Nat) : exec (.handlerStart core) s = execHandlerStart core s := rfl
@[simp] theorem exec_streamElementFetch (core gen : Nat) : exec (.streamElementFetch core gen) s = execStreamElementFetch core gen s := rfl
@[simp] theorem exec_streamPushWrite (core gen : Nat) : exec (.streamPushWrite core gen) s = execStreamPushWrite core gen s := rfl
@[simp] theorem exec_vectorOpComplete (core : Nat) (seq : BitVec 16) : exec (.vectorOpComplete core seq) s = execVectorOpComplete core seq s := rfl
@[simp] theorem exec_vectorStageFree (core : Nat) : exec (.vectorStageFree core) s = execVectorStageFree core s := rfl
@[simp] theorem exec_cubeDispatch (core : Nat) : exec (.cubeDispatch core) s = execCubeDispatch core s := rfl
@[simp] theorem exec_cubePassEnd (core : Nat) : exec (.cubePassEnd core) s = execCubePassEnd core s := rfl
@[simp] theorem exec_cubeCommandComplete (core : Nat) : exec (.cubeCommandComplete core) s = execCubeCommandComplete core s := rfl
@[simp] theorem exec_cubeDataError (core : Nat) (stream : BitVec 2) : exec (.cubeDataError core stream) s = execCubeDataError core stream s := rfl
@[simp] theorem exec_lateFaultDelivery (core slot : Nat) : exec (.lateFaultDelivery core slot) s = execLateFaultDelivery core slot s := rfl
@[simp] theorem exec_supervisorRestart (core : Nat) : exec (.supervisorRestart core) s = execSupervisorRestart core s := rfl
@[simp] theorem exec_copyPacketAccept (core : Nat) : exec (.copyPacketAccept core) s = execCopyPacketAccept core s := rfl
@[simp] theorem exec_copyPageBoundary (core : Nat) : exec (.copyPageBoundary core) s = execCopyPageBoundary core s := rfl
@[simp] theorem exec_copyComplete (core : Nat) : exec (.copyComplete core) s = execCopyComplete core s := rfl
@[simp] theorem exec_copyError (core : Nat) : exec (.copyError core) s = execCopyError core s := rfl
@[simp] theorem exec_xlinvReceipt (inv unit : Nat) : exec (.xlinvReceipt inv unit) s = execXlinvReceipt inv unit s := rfl
@[simp] theorem exec_xlinvAckArrival (inv unit : Nat) : exec (.xlinvAckArrival inv unit) s = execXlinvAckArrival inv unit s := rfl
@[simp] theorem exec_launchPacketTake (dom queue : Nat) : exec (.launchPacketTake dom queue) s = execLaunchPacketTake dom queue s := rfl
@[simp] theorem exec_dependenceReread (dom queue : Nat) : exec (.dependenceReread dom queue) s = execDependenceReread dom queue s := rfl
@[simp] theorem exec_weirAdmit (dom : Nat) : exec (.weirAdmit dom) s = execWeirAdmit dom s := rfl
@[simp] theorem exec_entryStart (dom serial : Nat) : exec (.entryStart dom serial) s = execEntryStart dom serial s := rfl
@[simp] theorem exec_preempt (dom : Nat) : exec (.preempt dom) s = execPreempt dom s := rfl
@[simp] theorem exec_quantumExpiry (core : Nat) : exec (.quantumExpiry core) s = execQuantumExpiry core s := rfl
@[simp] theorem exec_threadEvict (core slot : Nat) : exec (.threadEvict core slot) s = execThreadEvict core slot s := rfl
@[simp] theorem exec_coreSaveEnd (core serial : Nat) : exec (.coreSaveEnd core serial) s = execCoreSaveEnd core serial s := rfl
@[simp] theorem exec_contextRestore (dom : Nat) : exec (.contextRestore dom) s = execContextRestore dom s := rfl
@[simp] theorem exec_launchComplete (dom serial : Nat) : exec (.launchComplete dom serial) s = execLaunchComplete dom serial s := rfl
@[simp] theorem exec_checkpoint (dom serial : Nat) : exec (.checkpoint dom serial) s = execCheckpoint dom serial s := rfl
@[simp] theorem exec_rollback (dom serial : Nat) : exec (.rollback dom serial) s = execRollback dom serial s := rfl
@[simp] theorem exec_contextTerminate (dom serial : Nat) : exec (.contextTerminate dom serial) s = execContextTerminate dom serial s := rfl
@[simp] theorem exec_energyIntervalEnd (dom : Nat) (charges : List (Nat × Nat)) (own : Nat) : exec (.energyIntervalEnd dom charges own) s = execEnergyIntervalEnd dom charges own s := rfl
@[simp] theorem exec_rds (dom agent pa : Nat) : exec (.rds dom agent pa) s = execRds dom agent pa s := rfl
@[simp] theorem exec_rdo (dom agent pa : Nat) : exec (.rdo dom agent pa) s = execRdo dom agent pa s := rfl
@[simp] theorem exec_wrb (dom agent pa : Nat) (mask : BitVec 128) (data : BitVec 1024) : exec (.wrb dom agent pa mask data) s = execWrb dom agent pa mask data s := rfl
@[simp] theorem exec_evn (dom agent pa : Nat) : exec (.evn dom agent pa) s = execEvn dom agent pa s := rfl
@[simp] theorem exec_invalidationAck (dom agent pa : Nat) (mask : BitVec 128) (data : BitVec 1024) : exec (.invalidationAck dom agent pa mask data) s = execInvalidationAck dom agent pa mask data s := rfl
@[simp] theorem exec_entryMerge (dom pa : Nat) : exec (.entryMerge dom pa) s = execEntryMerge dom pa s := rfl
@[simp] theorem exec_directoryUe (dom pa : Nat) : exec (.directoryUe dom pa) s = execDirectoryUe dom pa s := rfl
@[simp] theorem exec_hostRequest (dom pa : Nat) (kind : Nat × Bool) (mask : BitVec 128) (data : BitVec 1024) : exec (.hostRequest dom pa kind mask data) s = execHostRequest dom pa kind mask data s := rfl
@[simp] theorem exec_backInvalidateResponse (dom pa : Nat) (mask : BitVec 128) (data : BitVec 1024) : exec (.backInvalidateResponse dom pa mask data) s = execBackInvalidateResponse dom pa mask data s := rfl
@[simp] theorem exec_window0Access (fn off : Nat) (write : Bool) (size : Nat) (data : BitVec 1024) : exec (.window0Access fn off write size data) s = execWindow0Access fn off write size data s := rfl
@[simp] theorem exec_mringRequest (fn queue header : Nat) (prio : BitVec 3) (lvl : BitVec 2) : exec (.mringRequest fn queue header prio lvl) s = execMringRequest fn queue header prio lvl s := rfl
@[simp] theorem exec_window2Access (fn off : Nat) (write : Bool) (size : Nat) (data : BitVec 1024) : exec (.window2Access fn off write size data) s = execWindow2Access fn off write size data s := rfl
@[simp] theorem exec_flitReplay (port : Nat) (ok : Bool) : exec (.flitReplay port ok) s = execFlitReplay port ok s := rfl
@[simp] theorem exec_peerUnreachable (id : Nat) : exec (.peerUnreachable id) s = execPeerUnreachable id s := rfl
@[simp] theorem exec_deviceReset (start : Bool) (result : BitVec 8 × BitVec 512) : exec (.deviceReset start result) s = execDeviceReset start result s := rfl
@[simp] theorem exec_gaugeSave : exec .gaugeSave s = execGaugeSave s := rfl
@[simp] theorem exec_correctableError (kind inst : Nat) : exec (.correctableError kind inst) s = execCorrectableError kind inst s := rfl
@[simp] theorem exec_ueCleanData (kind unit addr : Nat) : exec (.ueCleanData kind unit addr) s = execUeCleanData kind unit addr s := rfl
@[simp] theorem exec_uePoison (kind unit addr : Nat) : exec (.uePoison kind unit addr) s = execUePoison kind unit addr s := rfl
@[simp] theorem exec_ueStateMachineCheck (dom serial core : Nat) : exec (.ueStateMachineCheck dom serial core) s = execUeStateMachineCheck dom serial core s := rfl
@[simp] theorem exec_keyDeliveryRequest (endpoint session : Nat) (head : Option (BitVec 64)) (kid : BitVec 64) (meas : BitVec 512) (nchunk : BitVec 64) (sealed : BitVec 384) : exec (.keyDeliveryRequest endpoint session head kid meas nchunk sealed) s = execKeyDeliveryRequest endpoint session head kid meas nchunk sealed s := rfl
@[simp] theorem exec_spdmSessionEnd (endpoint session : Nat) : exec (.spdmSessionEnd endpoint session) s = execSpdmSessionEnd endpoint session s := rfl
@[simp] theorem exec_hostSnoop (addr : Nat) (inval : Bool × Option (BitVec 1024)) : exec (.hostSnoop addr inval) s = execHostSnoop addr inval s := rfl
@[simp] theorem exec_replicaDrop (dom line cluster : Nat) : exec (.replicaDrop dom line cluster) s = execReplicaDrop dom line cluster s := rfl
@[simp] theorem exec_tlbEntryDrop (kind unit idx : Nat) : exec (.tlbEntryDrop kind unit idx) s = execTlbEntryDrop kind unit idx s := rfl
@[simp] theorem exec_spdmRequest (endpoint code arg : Nat) : exec (.spdmRequest endpoint code arg) s = execSpdmRequest endpoint code arg s := rfl
@[simp] theorem exec_gaugeMctpRead (idx : BitVec 24) : exec (.gaugeMctpRead idx) s = execGaugeMctpRead idx s := rfl
@[simp] theorem exec_supplyDroop (die : Nat) : exec (.supplyDroop die) s = execSupplyDroop die s := rfl
@[simp] theorem exec_temperatureSecond (bins : List Nat) : exec (.temperatureSecond bins) s = execTemperatureSecond bins s := rfl
@[simp] theorem exec_lossOfPower : exec .lossOfPower s = execLossOfPower s := rfl

end Sys2Proof.Machine
end

