-- ==== Sys2Proof/Laws/Maps.lean ====
section
/-! SUPPORT. Laws of the key maps and of byte memory: what a read gives after a write, and that every memory operation
keeps the canonical form. -/
namespace Sys2Proof.Machine

variable {α : Type}

/-! ### Key maps -/

@[simp] theorem lookup_nil (k : Nat) : lookup ([] : List (Nat × α)) k = none := rfl

@[simp] theorem lookup_insertKey_self (m : List (Nat × α)) (k : Nat) (v : α) : lookup (insertKey m k v) k = some v := by
  induction m with
  | nil => simp [insertKey, lookup]
  | cons e t ih =>
    obtain ⟨k', v'⟩ := e
    by_cases h1 : k < k'
    · simp [insertKey, h1, lookup]
    · by_cases h2 : k = k'
      · simp [insertKey, h2, lookup]
      · simp [insertKey, h1, h2, lookup, Ne.symm h2, ih]

theorem lookup_insertKey_ne (m : List (Nat × α)) {k j : Nat} (v : α) (h : j ≠ k) :
    lookup (insertKey m k v) j = lookup m j := by
  induction m with
  | nil => simp [insertKey, lookup, h.symm]
  | cons e t ih =>
    obtain ⟨k', v'⟩ := e
    by_cases h1 : k < k'
    · simp [insertKey, h1, lookup, h.symm]
    · by_cases h2 : k = k'
      · subst h2; simp [insertKey, lookup, h.symm]
      · simp [insertKey, h1, h2, lookup, ih]

theorem lookup_insertKey (m : List (Nat × α)) (k j : Nat) (v : α) :
    lookup (insertKey m k v) j = if j = k then some v else lookup m j := by
  by_cases h : j = k
  · simp [h]
  · simp [h, lookup_insertKey_ne m v h]

@[simp] theorem insertKey_insertKey (m : List (Nat × α)) (k : Nat) (v w : α) :
    insertKey (insertKey m k v) k w = insertKey m k w := by
  induction m with
  | nil => simp [insertKey]
  | cons e t ih =>
    obtain ⟨k', v'⟩ := e
    by_cases h1 : k < k'
    · simp [insertKey, h1]
    · by_cases h2 : k = k'
      · subst h2; simp [insertKey]
      · simp [insertKey, h1, h2, ih]

@[simp] theorem lookup_eraseKey_self (m : List (Nat × α)) (k : Nat) : lookup (eraseKey m k) k = none := by
  induction m with
  | nil => rfl
  | cons e t ih =>
    obtain ⟨k', v'⟩ := e
    by_cases h : k' = k
    · simpa [eraseKey, h] using ih
    · simpa [eraseKey, h, lookup] using ih

theorem lookup_eraseKey_ne (m : List (Nat × α)) {k j : Nat} (h : j ≠ k) : lookup (eraseKey m k) j = lookup m j := by
  induction m with
  | nil => rfl
  | cons e t ih =>
    obtain ⟨k', v'⟩ := e
    by_cases h2 : k' = k
    · subst h2; simpa [eraseKey, lookup, h.symm] using ih
    · by_cases h3 : k' = j
      · subst h3; simp [eraseKey, h2, lookup]
      · simpa [eraseKey, h2, lookup, h3] using ih

/-- Every entry of a map after an insertion is the new one or an old one. -/
theorem mem_insertKey {m : List (Nat × α)} {k : Nat} {v : α} {e : Nat × α} (h : e ∈ insertKey m k v) :
    e = (k, v) ∨ e ∈ m := by
  induction m with
  | nil => simpa [insertKey] using h
  | cons e' t ih =>
    obtain ⟨k', v'⟩ := e'
    simp only [insertKey] at h
    split at h
    · simpa using h
    · split at h
      · rcases List.mem_cons.1 h with h | h
        · exact .inl h
        · exact .inr (List.mem_cons_of_mem _ h)
      · rcases List.mem_cons.1 h with h | h
        · exact .inr (h ▸ List.mem_cons_self)
        · exact (ih h).imp_right (List.mem_cons_of_mem _)

theorem mem_of_lookup {m : List (Nat × α)} {k : Nat} {v : α} (h : lookup m k = some v) : (k, v) ∈ m := by
  induction m with
  | nil => simp at h
  | cons e t ih =>
    obtain ⟨k', v'⟩ := e
    by_cases h2 : k' = k
    · simp [lookup, h2] at h; simp [h2, h]
    · simp [lookup, h2] at h; exact List.mem_cons_of_mem _ (ih h)

/-- A property of every entry holds after an insertion when it holds of the new one. -/
theorem all_insertKey {m : List (Nat × α)} {p : Nat × α → Bool} {k : Nat} {v : α} (hm : m.all p = true)
    (hv : p (k, v) = true) : (insertKey m k v).all p = true := by
  rw [List.all_eq_true] at *
  intro e he
  rcases mem_insertKey he with rfl | h
  · exact hv
  · exact hm e h

/-! ### Rising keys -/

/-- All keys of a map lie above `k`. -/
def keysAbove (k : Nat) (m : List (Nat × α)) : Prop := ∀ e ∈ m, k < e.1

theorem keysRise_cons {e : Nat × α} {t : List (Nat × α)} :
    keysRise (e :: t) = true ↔ keysAbove e.1 t ∧ keysRise t = true := by
  induction t generalizing e with
  | nil => simp [keysRise, keysAbove]
  | cons f t ih =>
    obtain ⟨a, x⟩ := e
    obtain ⟨b, y⟩ := f
    have hc : keysRise ((a, x) :: (b, y) :: t) = (decide (a < b) && keysRise ((b, y) :: t)) := rfl
    rw [hc, Bool.and_eq_true, decide_eq_true_eq]
    constructor
    · rintro ⟨h1, h2⟩
      refine ⟨?_, h2⟩
      intro e he
      rcases List.mem_cons.1 he with rfl | he
      · exact h1
      · exact Nat.lt_trans h1 ((ih.1 h2).1 e he)
    · rintro ⟨h1, h2⟩
      exact ⟨h1 (b, y) List.mem_cons_self, h2⟩

theorem keysRise_insertKey {m : List (Nat × α)} (h : keysRise m = true) (k : Nat) (v : α) :
    keysRise (insertKey m k v) = true := by
  induction m with
  | nil => rfl
  | cons e t ih =>
    obtain ⟨k', v'⟩ := e
    obtain ⟨h1, h2⟩ := keysRise_cons.1 h
    simp only [insertKey]
    split
    · rename_i hlt
      refine keysRise_cons.2 ⟨?_, h⟩
      intro e he
      rcases List.mem_cons.1 he with rfl | he
      · exact hlt
      · exact Nat.lt_trans hlt (h1 e he)
    · split
      · rename_i _ heq
        subst heq
        exact keysRise_cons.2 ⟨h1, h2⟩
      · rename_i hlt hne
        refine keysRise_cons.2 ⟨?_, ih h2⟩
        intro e he
        rcases mem_insertKey he with rfl | he
        · simp only; omega
        · exact h1 e he

theorem keysRise_filter {m : List (Nat × α)} (h : keysRise m = true) (p : Nat × α → Bool) :
    keysRise (m.filter p) = true := by
  induction m with
  | nil => rfl
  | cons e t ih =>
    obtain ⟨h1, h2⟩ := keysRise_cons.1 h
    by_cases hp : p e = true
    · rw [List.filter_cons_of_pos hp]
      exact keysRise_cons.2 ⟨fun x hx => h1 x (List.mem_of_mem_filter hx), ih h2⟩
    · rw [List.filter_cons_of_neg hp]; exact ih h2

theorem keysRise_eraseKey {m : List (Nat × α)} (h : keysRise m = true) (k : Nat) : keysRise (eraseKey m k) = true :=
  keysRise_filter h _

/-! ### Bytes -/

@[simp] theorem Memory.get_nil (a : Nat) : Memory.get [] a = Memory.unlisted := rfl

@[simp] theorem Memory.get_set_self (m : List Host.Cell) (a : Nat) (b : Byte) : Memory.get (Memory.set m a b) a = b := by
  unfold Memory.get Memory.set
  split
  · next h => simp [h]
  · simp

theorem Memory.get_set_ne (m : List Host.Cell) {a c : Nat} (b : Byte) (h : c ≠ a) :
    Memory.get (Memory.set m a b) c = Memory.get m c := by
  unfold Memory.get Memory.set
  split
  · rw [lookup_eraseKey_ne m h]
  · rw [lookup_insertKey_ne m b h]

/-- A write leaves every byte outside its range alone. -/
theorem Memory.get_write_outside (m : List Host.Cell) (a n v c : Nat) (h : c < a ∨ a + n ≤ c) :
    Memory.get (Memory.write m a n v) c = Memory.get m c := by
  induction n generalizing m a v with
  | zero => rfl
  | succ n ih =>
    rw [Memory.write, ih _ _ _ (by omega), Memory.get_set_ne _ _ (by omega)]

/-- A read after a write to the same bytes gives the low bytes of what was written. -/
theorem Memory.get_write_inside (m : List Host.Cell) (a n v i : Nat) (h : i < n) :
    Memory.get (Memory.write m a n v) (a + i) = BitVec.ofNat 8 (v / 256 ^ i) := by
  induction n generalizing m a v i with
  | zero => omega
  | succ n ih =>
    rw [Memory.write]
    cases i with
    | zero =>
      rw [Memory.get_write_outside _ _ _ _ _ (by omega)]; simp
    | succ i =>
      have := ih (Memory.set m a (BitVec.ofNat 8 v)) (a + 1) (v / 256) i (by omega)
      rw [show a + (i + 1) = a + 1 + i by omega, this, Nat.div_div_eq_div_mul, ← Nat.pow_succ']

theorem Memory.read_congr {m m' : List Host.Cell} {a n : Nat} (h : ∀ i < n, Memory.get m (a + i) = Memory.get m' (a + i)) :
    Memory.read m a n = Memory.read m' a n := by
  induction n generalizing a with
  | zero => rfl
  | succ n ih =>
    rw [Memory.read, Memory.read, ih fun i hi => ?_]
    · have h0 := h 0 (by omega)
      rw [Nat.add_zero] at h0
      rw [h0]
    · have h1 := h (i + 1) (by omega)
      rwa [show a + 1 + i = a + (i + 1) by omega]

theorem Memory.read_write_outside (m : List Host.Cell) (a n v c k : Nat) (h : c + k ≤ a ∨ a + n ≤ c) :
    Memory.read (Memory.write m a n v) c k = Memory.read m c k :=
  Memory.read_congr fun i hi => Memory.get_write_outside _ _ _ _ _ (by omega)

/-- What was written is read back. -/
theorem Memory.read_write_self (m : List Host.Cell) (a n v : Nat) :
    Memory.read (Memory.write m a n v) a n = v % 256 ^ n := by
  induction n generalizing m a v with
  | zero => simp [Memory.read, Nat.mod_one]
  | succ n ih =>
    rw [Memory.write, Memory.read, Memory.get_write_outside _ _ _ _ _ (by omega), Memory.get_set_self, ih,
      BitVec.toNat_ofNat, show (256 : Nat) ^ (n + 1) = 256 * 256 ^ n from Nat.pow_succ', Nat.mod_mul]

/-! ### The canonical form -/

theorem Memory.wf_iff {m : List Host.Cell} :
    Memory.wf m = true ↔ keysRise m = true ∧ ∀ c ∈ m, c.2 ≠ Memory.unlisted := by
  simp [Memory.wf, List.all_eq_true]

@[simp] theorem Memory.wf_nil : Memory.wf [] = true := rfl

theorem Memory.wf_filter {m : List Host.Cell} (h : Memory.wf m = true) (p : Host.Cell → Bool) :
    Memory.wf (m.filter p) = true := by
  rw [Memory.wf_iff] at *
  exact ⟨keysRise_filter h.1 _, fun c hc => h.2 c (List.mem_of_mem_filter hc)⟩

theorem Memory.wf_set {m : List Host.Cell} (h : Memory.wf m = true) (a : Nat) (b : Byte) :
    Memory.wf (Memory.set m a b) = true := by
  unfold Memory.set
  split
  · exact Memory.wf_filter h _
  · next hb =>
    rw [Memory.wf_iff] at *
    refine ⟨keysRise_insertKey h.1 _ _, fun c hc => ?_⟩
    rcases mem_insertKey hc with rfl | hc
    · exact hb
    · exact h.2 c hc

theorem Memory.wf_write {m : List Host.Cell} (h : Memory.wf m = true) (a n v : Nat) :
    Memory.wf (Memory.write m a n v) = true := by
  induction n generalizing m a v with
  | zero => exact h
  | succ n ih => exact ih (Memory.wf_set h _ _) _ _

theorem Memory.wf_writeMask {m : List Host.Cell} (h : Memory.wf m = true) (a n mask v : Nat) :
    Memory.wf (Memory.writeMask m a n mask v) = true := by
  induction n generalizing m a mask v with
  | zero => exact h
  | succ n ih =>
    rw [Memory.writeMask]
    split
    · exact ih (Memory.wf_set h _ _) _ _ _
    · exact ih h _ _ _

theorem Memory.wf_put {m : List Host.Cell} (h : Memory.wf m = true) (a : Nat) (bs : List Byte) :
    Memory.wf (Memory.put m a bs) = true := by
  induction bs generalizing m a with
  | nil => exact h
  | cons b t ih => exact ih (Memory.wf_set h _ _) _

theorem Memory.wf_foldl_set {m : List Host.Cell} (h : Memory.wf m = true) (cs : List Host.Cell) :
    Memory.wf (cs.foldl (fun m e => Memory.set m e.1 e.2) m) = true := by
  induction cs generalizing m with
  | nil => exact h
  | cons c t ih => exact ih (Memory.wf_set h _ _)

theorem Memory.get_cons_self (a : Nat) (b : Byte) (t : List Host.Cell) : Memory.get ((a, b) :: t) a = b := by
  simp [Memory.get, lookup]

theorem Memory.get_cons_ne {a c : Nat} (b : Byte) (t : List Host.Cell) (h : c ≠ a) :
    Memory.get ((a, b) :: t) c = Memory.get t c := by
  simp [Memory.get, lookup, h.symm]

theorem Memory.get_of_keysAbove {a c : Nat} {m : List Host.Cell} (h : keysAbove a m) (hc : c ≤ a) :
    Memory.get m c = Memory.unlisted := by
  unfold Memory.get
  cases hl : lookup m c with
  | none => rfl
  | some v => have := h _ (mem_of_lookup hl); simp only at this; omega

/-- Canonical memories whose bytes read alike are equal data. -/
theorem Memory.ext {m m' : List Host.Cell} (h : Memory.wf m = true) (h' : Memory.wf m' = true)
    (hg : ∀ a, Memory.get m a = Memory.get m' a) : m = m' := by
  induction m generalizing m' with
  | nil =>
    cases m' with
    | nil => rfl
    | cons c t =>
      have h1 := (Memory.wf_iff.1 h').2 c List.mem_cons_self
      have h2 := hg c.1
      rw [show c :: t = (c.1, c.2) :: t from rfl, Memory.get_cons_self] at h2
      exact absurd h2.symm h1
  | cons c t ih =>
    obtain ⟨a, b⟩ := c
    obtain ⟨hr0, hz⟩ := Memory.wf_iff.1 h
    obtain ⟨ha, hr⟩ := keysRise_cons.1 hr0
    cases m' with
    | nil =>
      have h2 := hg a
      rw [Memory.get_cons_self] at h2
      exact absurd h2 (hz _ List.mem_cons_self)
    | cons c' t' =>
      obtain ⟨a', b'⟩ := c'
      obtain ⟨hr0', hz'⟩ := Memory.wf_iff.1 h'
      obtain ⟨ha', hr'⟩ := keysRise_cons.1 hr0'
      have key : a = a' := by
        rcases Nat.lt_trichotomy a a' with hlt | heq | hgt
        · have h2 := hg a
          rw [Memory.get_cons_self, Memory.get_cons_ne _ _ (by omega : a ≠ a'),
            Memory.get_of_keysAbove ha' (by simpa using Nat.le_of_lt hlt)] at h2
          exact absurd h2 (hz _ List.mem_cons_self)
        · exact heq
        · have h2 := hg a'
          rw [Memory.get_cons_self, Memory.get_cons_ne _ _ (by omega : a' ≠ a),
            Memory.get_of_keysAbove ha (by simpa using Nat.le_of_lt hgt)] at h2
          exact absurd h2.symm (hz' _ List.mem_cons_self)
      subst key
      have hb : b = b' := by simpa [Memory.get_cons_self] using hg a
      subst hb
      have : t = t' := by
        refine ih (Memory.wf_iff.2 ⟨hr, fun c hc => hz c (List.mem_cons_of_mem _ hc)⟩)
          (Memory.wf_iff.2 ⟨hr', fun c hc => hz' c (List.mem_cons_of_mem _ hc)⟩) fun c => ?_
        by_cases hc : c = a
        · subst hc
          rw [Memory.get_of_keysAbove ha (Nat.le_refl _), Memory.get_of_keysAbove ha' (Nat.le_refl _)]
        · simpa [Memory.get_cons_ne, hc] using hg c
      rw [this]

end Sys2Proof.Machine
end

