-- ==== Sys2Proof/Laws/State.lean ====
section
/-! SUPPORT. One law per field of the state for each basic update, and what the accessors read after one. -/
namespace Sys2Proof.Machine

variable (s : State)

/-! ### Fields an update leaves alone -/

@[simp] theorem State.setCore_cycle (c : Nat) (k : Core) : (s.setCore c k).cycle = s.cycle := rfl
@[simp] theorem State.setCore_caches (c : Nat) (k : Core) : (s.setCore c k).caches = s.caches := rfl
@[simp] theorem State.setCore_ctlbs (c : Nat) (k : Core) : (s.setCore c k).ctlbs = s.ctlbs := rfl
@[simp] theorem State.setCore_doms (c : Nat) (k : Core) : (s.setCore c k).doms = s.doms := rfl
@[simp] theorem State.setCore_net (c : Nat) (k : Core) : (s.setCore c k).net = s.net := rfl
@[simp] theorem State.setCore_invals (c : Nat) (k : Core) : (s.setCore c k).invals = s.invals := rfl
@[simp] theorem State.setCore_nextId (c : Nat) (k : Core) : (s.setCore c k).nextId = s.nextId := rfl
@[simp] theorem State.setCore_fresh (c : Nat) (k : Core) : (s.setCore c k).fresh = s.fresh := rfl
@[simp] theorem State.setCore_bootStep (c : Nat) (k : Core) : (s.setCore c k).bootStep = s.bootStep := rfl
@[simp] theorem State.setCore_ready (c : Nat) (k : Core) : (s.setCore c k).ready = s.ready := rfl
@[simp] theorem State.setCore_bootErr (c : Nat) (k : Core) : (s.setCore c k).bootErr = s.bootErr := rfl
@[simp] theorem State.setCore_rings (c : Nat) (k : Core) : (s.setCore c k).rings = s.rings := rfl
@[simp] theorem State.setCore_sessions (c : Nat) (k : Core) : (s.setCore c k).sessions = s.sessions := rfl
@[simp] theorem State.setCore_identity (c : Nat) (k : Core) : (s.setCore c k).identity = s.identity := rfl
@[simp] theorem State.setCore_spDigest (c : Nat) (k : Core) : (s.setCore c k).spDigest = s.spDigest := rfl
@[simp] theorem State.setCore_fwDigest (c : Nat) (k : Core) : (s.setCore c k).fwDigest = s.fwDigest := rfl
@[simp] theorem State.setCore_fwQueue (c : Nat) (k : Core) : (s.setCore c k).fwQueue = s.fwQueue := rfl
@[simp] theorem State.setCore_fabric (c : Nat) (k : Core) : (s.setCore c k).fabric = s.fabric := rfl
@[simp] theorem State.setCore_portsDown (c : Nat) (k : Core) : (s.setCore c k).portsDown = s.portsDown := rfl
@[simp] theorem State.setCore_retries (c : Nat) (k : Core) : (s.setCore c k).retries = s.retries := rfl
@[simp] theorem State.setCore_hostLines (c : Nat) (k : Core) : (s.setCore c k).hostLines = s.hostLines := rfl
@[simp] theorem State.setCore_gauge (c : Nat) (k : Core) : (s.setCore c k).gauge = s.gauge := rfl
@[simp] theorem State.setCore_gaugeNv (c : Nat) (k : Core) : (s.setCore c k).gaugeNv = s.gaugeNv := rfl
@[simp] theorem State.setCore_answers (c : Nat) (k : Core) : (s.setCore c k).answers = s.answers := rfl
@[simp] theorem State.setCore_iss (c : Nat) (k : Core) : (s.setCore c k).iss = s.iss := rfl
@[simp] theorem State.setCore_latch (c : Nat) (k : Core) : (s.setCore c k).latch = s.latch := rfl
@[simp] theorem State.setCore_agenda (c : Nat) (k : Core) : (s.setCore c k).agenda = s.agenda := rfl

@[simp] theorem State.modCore_cycle (c : Nat) (g : Core → Core) : (s.modCore c g).cycle = s.cycle := rfl
@[simp] theorem State.modCore_caches (c : Nat) (g : Core → Core) : (s.modCore c g).caches = s.caches := rfl
@[simp] theorem State.modCore_ctlbs (c : Nat) (g : Core → Core) : (s.modCore c g).ctlbs = s.ctlbs := rfl
@[simp] theorem State.modCore_doms (c : Nat) (g : Core → Core) : (s.modCore c g).doms = s.doms := rfl
@[simp] theorem State.modCore_net (c : Nat) (g : Core → Core) : (s.modCore c g).net = s.net := rfl
@[simp] theorem State.modCore_invals (c : Nat) (g : Core → Core) : (s.modCore c g).invals = s.invals := rfl
@[simp] theorem State.modCore_nextId (c : Nat) (g : Core → Core) : (s.modCore c g).nextId = s.nextId := rfl
@[simp] theorem State.modCore_fresh (c : Nat) (g : Core → Core) : (s.modCore c g).fresh = s.fresh := rfl
@[simp] theorem State.modCore_bootStep (c : Nat) (g : Core → Core) : (s.modCore c g).bootStep = s.bootStep := rfl
@[simp] theorem State.modCore_ready (c : Nat) (g : Core → Core) : (s.modCore c g).ready = s.ready := rfl
@[simp] theorem State.modCore_bootErr (c : Nat) (g : Core → Core) : (s.modCore c g).bootErr = s.bootErr := rfl
@[simp] theorem State.modCore_rings (c : Nat) (g : Core → Core) : (s.modCore c g).rings = s.rings := rfl
@[simp] theorem State.modCore_sessions (c : Nat) (g : Core → Core) : (s.modCore c g).sessions = s.sessions := rfl
@[simp] theorem State.modCore_identity (c : Nat) (g : Core → Core) : (s.modCore c g).identity = s.identity := rfl
@[simp] theorem State.modCore_spDigest (c : Nat) (g : Core → Core) : (s.modCore c g).spDigest = s.spDigest := rfl
@[simp] theorem State.modCore_fwDigest (c : Nat) (g : Core → Core) : (s.modCore c g).fwDigest = s.fwDigest := rfl
@[simp] theorem State.modCore_fwQueue (c : Nat) (g : Core → Core) : (s.modCore c g).fwQueue = s.fwQueue := rfl
@[simp] theorem State.modCore_fabric (c : Nat) (g : Core → Core) : (s.modCore c g).fabric = s.fabric := rfl
@[simp] theorem State.modCore_portsDown (c : Nat) (g : Core → Core) : (s.modCore c g).portsDown = s.portsDown := rfl
@[simp] theorem State.modCore_retries (c : Nat) (g : Core → Core) : (s.modCore c g).retries = s.retries := rfl
@[simp] theorem State.modCore_hostLines (c : Nat) (g : Core → Core) : (s.modCore c g).hostLines = s.hostLines := rfl
@[simp] theorem State.modCore_gauge (c : Nat) (g : Core → Core) : (s.modCore c g).gauge = s.gauge := rfl
@[simp] theorem State.modCore_gaugeNv (c : Nat) (g : Core → Core) : (s.modCore c g).gaugeNv = s.gaugeNv := rfl
@[simp] theorem State.modCore_answers (c : Nat) (g : Core → Core) : (s.modCore c g).answers = s.answers := rfl
@[simp] theorem State.modCore_iss (c : Nat) (g : Core → Core) : (s.modCore c g).iss = s.iss := rfl
@[simp] theorem State.modCore_latch (c : Nat) (g : Core → Core) : (s.modCore c g).latch = s.latch := rfl
@[simp] theorem State.modCore_agenda (c : Nat) (g : Core → Core) : (s.modCore c g).agenda = s.agenda := rfl

@[simp] theorem State.setThread_cycle (c sl : Nat) (t : Thread) : (s.setThread c sl t).cycle = s.cycle := rfl
@[simp] theorem State.setThread_caches (c sl : Nat) (t : Thread) : (s.setThread c sl t).caches = s.caches := rfl
@[simp] theorem State.setThread_ctlbs (c sl : Nat) (t : Thread) : (s.setThread c sl t).ctlbs = s.ctlbs := rfl
@[simp] theorem State.setThread_doms (c sl : Nat) (t : Thread) : (s.setThread c sl t).doms = s.doms := rfl
@[simp] theorem State.setThread_net (c sl : Nat) (t : Thread) : (s.setThread c sl t).net = s.net := rfl
@[simp] theorem State.setThread_invals (c sl : Nat) (t : Thread) : (s.setThread c sl t).invals = s.invals := rfl
@[simp] theorem State.setThread_nextId (c sl : Nat) (t : Thread) : (s.setThread c sl t).nextId = s.nextId := rfl
@[simp] theorem State.setThread_fresh (c sl : Nat) (t : Thread) : (s.setThread c sl t).fresh = s.fresh := rfl
@[simp] theorem State.setThread_bootStep (c sl : Nat) (t : Thread) : (s.setThread c sl t).bootStep = s.bootStep := rfl
@[simp] theorem State.setThread_ready (c sl : Nat) (t : Thread) : (s.setThread c sl t).ready = s.ready := rfl
@[simp] theorem State.setThread_bootErr (c sl : Nat) (t : Thread) : (s.setThread c sl t).bootErr = s.bootErr := rfl
@[simp] theorem State.setThread_rings (c sl : Nat) (t : Thread) : (s.setThread c sl t).rings = s.rings := rfl
@[simp] theorem State.setThread_sessions (c sl : Nat) (t : Thread) : (s.setThread c sl t).sessions = s.sessions := rfl
@[simp] theorem State.setThread_identity (c sl : Nat) (t : Thread) : (s.setThread c sl t).identity = s.identity := rfl
@[simp] theorem State.setThread_spDigest (c sl : Nat) (t : Thread) : (s.setThread c sl t).spDigest = s.spDigest := rfl
@[simp] theorem State.setThread_fwDigest (c sl : Nat) (t : Thread) : (s.setThread c sl t).fwDigest = s.fwDigest := rfl
@[simp] theorem State.setThread_fwQueue (c sl : Nat) (t : Thread) : (s.setThread c sl t).fwQueue = s.fwQueue := rfl
@[simp] theorem State.setThread_fabric (c sl : Nat) (t : Thread) : (s.setThread c sl t).fabric = s.fabric := rfl
@[simp] theorem State.setThread_portsDown (c sl : Nat) (t : Thread) : (s.setThread c sl t).portsDown = s.portsDown := rfl
@[simp] theorem State.setThread_retries (c sl : Nat) (t : Thread) : (s.setThread c sl t).retries = s.retries := rfl
@[simp] theorem State.setThread_hostLines (c sl : Nat) (t : Thread) : (s.setThread c sl t).hostLines = s.hostLines := rfl
@[simp] theorem State.setThread_gauge (c sl : Nat) (t : Thread) : (s.setThread c sl t).gauge = s.gauge := rfl
@[simp] theorem State.setThread_gaugeNv (c sl : Nat) (t : Thread) : (s.setThread c sl t).gaugeNv = s.gaugeNv := rfl
@[simp] theorem State.setThread_answers (c sl : Nat) (t : Thread) : (s.setThread c sl t).answers = s.answers := rfl
@[simp] theorem State.setThread_iss (c sl : Nat) (t : Thread) : (s.setThread c sl t).iss = s.iss := rfl
@[simp] theorem State.setThread_latch (c sl : Nat) (t : Thread) : (s.setThread c sl t).latch = s.latch := rfl
@[simp] theorem State.setThread_agenda (c sl : Nat) (t : Thread) : (s.setThread c sl t).agenda = s.agenda := rfl

@[simp] theorem State.modThread_cycle (c sl : Nat) (g : Thread → Thread) : (s.modThread c sl g).cycle = s.cycle := rfl
@[simp] theorem State.modThread_caches (c sl : Nat) (g : Thread → Thread) : (s.modThread c sl g).caches = s.caches := rfl
@[simp] theorem State.modThread_ctlbs (c sl : Nat) (g : Thread → Thread) : (s.modThread c sl g).ctlbs = s.ctlbs := rfl
@[simp] theorem State.modThread_doms (c sl : Nat) (g : Thread → Thread) : (s.modThread c sl g).doms = s.doms := rfl
@[simp] theorem State.modThread_net (c sl : Nat) (g : Thread → Thread) : (s.modThread c sl g).net = s.net := rfl
@[simp] theorem State.modThread_invals (c sl : Nat) (g : Thread → Thread) : (s.modThread c sl g).invals = s.invals := rfl
@[simp] theorem State.modThread_nextId (c sl : Nat) (g : Thread → Thread) : (s.modThread c sl g).nextId = s.nextId := rfl
@[simp] theorem State.modThread_fresh (c sl : Nat) (g : Thread → Thread) : (s.modThread c sl g).fresh = s.fresh := rfl
@[simp] theorem State.modThread_bootStep (c sl : Nat) (g : Thread → Thread) : (s.modThread c sl g).bootStep = s.bootStep := rfl
@[simp] theorem State.modThread_ready (c sl : Nat) (g : Thread → Thread) : (s.modThread c sl g).ready = s.ready := rfl
@[simp] theorem State.modThread_bootErr (c sl : Nat) (g : Thread → Thread) : (s.modThread c sl g).bootErr = s.bootErr := rfl
@[simp] theorem State.modThread_rings (c sl : Nat) (g : Thread → Thread) : (s.modThread c sl g).rings = s.rings := rfl
@[simp] theorem State.modThread_sessions (c sl : Nat) (g : Thread → Thread) : (s.modThread c sl g).sessions = s.sessions := rfl
@[simp] theorem State.modThread_identity (c sl : Nat) (g : Thread → Thread) : (s.modThread c sl g).identity = s.identity := rfl
@[simp] theorem State.modThread_spDigest (c sl : Nat) (g : Thread → Thread) : (s.modThread c sl g).spDigest = s.spDigest := rfl
@[simp] theorem State.modThread_fwDigest (c sl : Nat) (g : Thread → Thread) : (s.modThread c sl g).fwDigest = s.fwDigest := rfl
@[simp] theorem State.modThread_fwQueue (c sl : Nat) (g : Thread → Thread) : (s.modThread c sl g).fwQueue = s.fwQueue := rfl
@[simp] theorem State.modThread_fabric (c sl : Nat) (g : Thread → Thread) : (s.modThread c sl g).fabric = s.fabric := rfl
@[simp] theorem State.modThread_portsDown (c sl : Nat) (g : Thread → Thread) : (s.modThread c sl g).portsDown = s.portsDown := rfl
@[simp] theorem State.modThread_retries (c sl : Nat) (g : Thread → Thread) : (s.modThread c sl g).retries = s.retries := rfl
@[simp] theorem State.modThread_hostLines (c sl : Nat) (g : Thread → Thread) : (s.modThread c sl g).hostLines = s.hostLines := rfl
@[simp] theorem State.modThread_gauge (c sl : Nat) (g : Thread → Thread) : (s.modThread c sl g).gauge = s.gauge := rfl
@[simp] theorem State.modThread_gaugeNv (c sl : Nat) (g : Thread → Thread) : (s.modThread c sl g).gaugeNv = s.gaugeNv := rfl
@[simp] theorem State.modThread_answers (c sl : Nat) (g : Thread → Thread) : (s.modThread c sl g).answers = s.answers := rfl
@[simp] theorem State.modThread_iss (c sl : Nat) (g : Thread → Thread) : (s.modThread c sl g).iss = s.iss := rfl
@[simp] theorem State.modThread_latch (c sl : Nat) (g : Thread → Thread) : (s.modThread c sl g).latch = s.latch := rfl
@[simp] theorem State.modThread_agenda (c sl : Nat) (g : Thread → Thread) : (s.modThread c sl g).agenda = s.agenda := rfl

@[simp] theorem State.modCur_cycle (g : Thread → Thread) : (s.modCur g).cycle = s.cycle := rfl
@[simp] theorem State.modCur_caches (g : Thread → Thread) : (s.modCur g).caches = s.caches := rfl
@[simp] theorem State.modCur_ctlbs (g : Thread → Thread) : (s.modCur g).ctlbs = s.ctlbs := rfl
@[simp] theorem State.modCur_doms (g : Thread → Thread) : (s.modCur g).doms = s.doms := rfl
@[simp] theorem State.modCur_net (g : Thread → Thread) : (s.modCur g).net = s.net := rfl
@[simp] theorem State.modCur_invals (g : Thread → Thread) : (s.modCur g).invals = s.invals := rfl
@[simp] theorem State.modCur_nextId (g : Thread → Thread) : (s.modCur g).nextId = s.nextId := rfl
@[simp] theorem State.modCur_fresh (g : Thread → Thread) : (s.modCur g).fresh = s.fresh := rfl
@[simp] theorem State.modCur_bootStep (g : Thread → Thread) : (s.modCur g).bootStep = s.bootStep := rfl
@[simp] theorem State.modCur_ready (g : Thread → Thread) : (s.modCur g).ready = s.ready := rfl
@[simp] theorem State.modCur_bootErr (g : Thread → Thread) : (s.modCur g).bootErr = s.bootErr := rfl
@[simp] theorem State.modCur_rings (g : Thread → Thread) : (s.modCur g).rings = s.rings := rfl
@[simp] theorem State.modCur_sessions (g : Thread → Thread) : (s.modCur g).sessions = s.sessions := rfl
@[simp] theorem State.modCur_identity (g : Thread → Thread) : (s.modCur g).identity = s.identity := rfl
@[simp] theorem State.modCur_spDigest (g : Thread → Thread) : (s.modCur g).spDigest = s.spDigest := rfl
@[simp] theorem State.modCur_fwDigest (g : Thread → Thread) : (s.modCur g).fwDigest = s.fwDigest := rfl
@[simp] theorem State.modCur_fwQueue (g : Thread → Thread) : (s.modCur g).fwQueue = s.fwQueue := rfl
@[simp] theorem State.modCur_fabric (g : Thread → Thread) : (s.modCur g).fabric = s.fabric := rfl
@[simp] theorem State.modCur_portsDown (g : Thread → Thread) : (s.modCur g).portsDown = s.portsDown := rfl
@[simp] theorem State.modCur_retries (g : Thread → Thread) : (s.modCur g).retries = s.retries := rfl
@[simp] theorem State.modCur_hostLines (g : Thread → Thread) : (s.modCur g).hostLines = s.hostLines := rfl
@[simp] theorem State.modCur_gauge (g : Thread → Thread) : (s.modCur g).gauge = s.gauge := rfl
@[simp] theorem State.modCur_gaugeNv (g : Thread → Thread) : (s.modCur g).gaugeNv = s.gaugeNv := rfl
@[simp] theorem State.modCur_answers (g : Thread → Thread) : (s.modCur g).answers = s.answers := rfl
@[simp] theorem State.modCur_iss (g : Thread → Thread) : (s.modCur g).iss = s.iss := rfl
@[simp] theorem State.modCur_latch (g : Thread → Thread) : (s.modCur g).latch = s.latch := rfl
@[simp] theorem State.modCur_agenda (g : Thread → Thread) : (s.modCur g).agenda = s.agenda := rfl

@[simp] theorem State.modCurCore_cycle (g : Core → Core) : (s.modCurCore g).cycle = s.cycle := rfl
@[simp] theorem State.modCurCore_caches (g : Core → Core) : (s.modCurCore g).caches = s.caches := rfl
@[simp] theorem State.modCurCore_ctlbs (g : Core → Core) : (s.modCurCore g).ctlbs = s.ctlbs := rfl
@[simp] theorem State.modCurCore_doms (g : Core → Core) : (s.modCurCore g).doms = s.doms := rfl
@[simp] theorem State.modCurCore_net (g : Core → Core) : (s.modCurCore g).net = s.net := rfl
@[simp] theorem State.modCurCore_invals (g : Core → Core) : (s.modCurCore g).invals = s.invals := rfl
@[simp] theorem State.modCurCore_nextId (g : Core → Core) : (s.modCurCore g).nextId = s.nextId := rfl
@[simp] theorem State.modCurCore_fresh (g : Core → Core) : (s.modCurCore g).fresh = s.fresh := rfl
@[simp] theorem State.modCurCore_bootStep (g : Core → Core) : (s.modCurCore g).bootStep = s.bootStep := rfl
@[simp] theorem State.modCurCore_ready (g : Core → Core) : (s.modCurCore g).ready = s.ready := rfl
@[simp] theorem State.modCurCore_bootErr (g : Core → Core) : (s.modCurCore g).bootErr = s.bootErr := rfl
@[simp] theorem State.modCurCore_rings (g : Core → Core) : (s.modCurCore g).rings = s.rings := rfl
@[simp] theorem State.modCurCore_sessions (g : Core → Core) : (s.modCurCore g).sessions = s.sessions := rfl
@[simp] theorem State.modCurCore_identity (g : Core → Core) : (s.modCurCore g).identity = s.identity := rfl
@[simp] theorem State.modCurCore_spDigest (g : Core → Core) : (s.modCurCore g).spDigest = s.spDigest := rfl
@[simp] theorem State.modCurCore_fwDigest (g : Core → Core) : (s.modCurCore g).fwDigest = s.fwDigest := rfl
@[simp] theorem State.modCurCore_fwQueue (g : Core → Core) : (s.modCurCore g).fwQueue = s.fwQueue := rfl
@[simp] theorem State.modCurCore_fabric (g : Core → Core) : (s.modCurCore g).fabric = s.fabric := rfl
@[simp] theorem State.modCurCore_portsDown (g : Core → Core) : (s.modCurCore g).portsDown = s.portsDown := rfl
@[simp] theorem State.modCurCore_retries (g : Core → Core) : (s.modCurCore g).retries = s.retries := rfl
@[simp] theorem State.modCurCore_hostLines (g : Core → Core) : (s.modCurCore g).hostLines = s.hostLines := rfl
@[simp] theorem State.modCurCore_gauge (g : Core → Core) : (s.modCurCore g).gauge = s.gauge := rfl
@[simp] theorem State.modCurCore_gaugeNv (g : Core → Core) : (s.modCurCore g).gaugeNv = s.gaugeNv := rfl
@[simp] theorem State.modCurCore_answers (g : Core → Core) : (s.modCurCore g).answers = s.answers := rfl
@[simp] theorem State.modCurCore_iss (g : Core → Core) : (s.modCurCore g).iss = s.iss := rfl
@[simp] theorem State.modCurCore_latch (g : Core → Core) : (s.modCurCore g).latch = s.latch := rfl
@[simp] theorem State.modCurCore_agenda (g : Core → Core) : (s.modCurCore g).agenda = s.agenda := rfl

@[simp] theorem State.wx_cycle (r : BitVec 6) (v : Word) : (s.wx r v).cycle = s.cycle := rfl
@[simp] theorem State.wx_caches (r : BitVec 6) (v : Word) : (s.wx r v).caches = s.caches := rfl
@[simp] theorem State.wx_ctlbs (r : BitVec 6) (v : Word) : (s.wx r v).ctlbs = s.ctlbs := rfl
@[simp] theorem State.wx_doms (r : BitVec 6) (v : Word) : (s.wx r v).doms = s.doms := rfl
@[simp] theorem State.wx_net (r : BitVec 6) (v : Word) : (s.wx r v).net = s.net := rfl
@[simp] theorem State.wx_invals (r : BitVec 6) (v : Word) : (s.wx r v).invals = s.invals := rfl
@[simp] theorem State.wx_nextId (r : BitVec 6) (v : Word) : (s.wx r v).nextId = s.nextId := rfl
@[simp] theorem State.wx_fresh (r : BitVec 6) (v : Word) : (s.wx r v).fresh = s.fresh := rfl
@[simp] theorem State.wx_bootStep (r : BitVec 6) (v : Word) : (s.wx r v).bootStep = s.bootStep := rfl
@[simp] theorem State.wx_ready (r : BitVec 6) (v : Word) : (s.wx r v).ready = s.ready := rfl
@[simp] theorem State.wx_bootErr (r : BitVec 6) (v : Word) : (s.wx r v).bootErr = s.bootErr := rfl
@[simp] theorem State.wx_rings (r : BitVec 6) (v : Word) : (s.wx r v).rings = s.rings := rfl
@[simp] theorem State.wx_sessions (r : BitVec 6) (v : Word) : (s.wx r v).sessions = s.sessions := rfl
@[simp] theorem State.wx_identity (r : BitVec 6) (v : Word) : (s.wx r v).identity = s.identity := rfl
@[simp] theorem State.wx_spDigest (r : BitVec 6) (v : Word) : (s.wx r v).spDigest = s.spDigest := rfl
@[simp] theorem State.wx_fwDigest (r : BitVec 6) (v : Word) : (s.wx r v).fwDigest = s.fwDigest := rfl
@[simp] theorem State.wx_fwQueue (r : BitVec 6) (v : Word) : (s.wx r v).fwQueue = s.fwQueue := rfl
@[simp] theorem State.wx_fabric (r : BitVec 6) (v : Word) : (s.wx r v).fabric = s.fabric := rfl
@[simp] theorem State.wx_portsDown (r : BitVec 6) (v : Word) : (s.wx r v).portsDown = s.portsDown := rfl
@[simp] theorem State.wx_retries (r : BitVec 6) (v : Word) : (s.wx r v).retries = s.retries := rfl
@[simp] theorem State.wx_hostLines (r : BitVec 6) (v : Word) : (s.wx r v).hostLines = s.hostLines := rfl
@[simp] theorem State.wx_gauge (r : BitVec 6) (v : Word) : (s.wx r v).gauge = s.gauge := rfl
@[simp] theorem State.wx_gaugeNv (r : BitVec 6) (v : Word) : (s.wx r v).gaugeNv = s.gaugeNv := rfl
@[simp] theorem State.wx_answers (r : BitVec 6) (v : Word) : (s.wx r v).answers = s.answers := rfl
@[simp] theorem State.wx_iss (r : BitVec 6) (v : Word) : (s.wx r v).iss = s.iss := rfl
@[simp] theorem State.wx_latch (r : BitVec 6) (v : Word) : (s.wx r v).latch = s.latch := rfl
@[simp] theorem State.wx_agenda (r : BitVec 6) (v : Word) : (s.wx r v).agenda = s.agenda := rfl

@[simp] theorem State.wp_cycle (r : BitVec 3) (v : Bool) : (s.wp r v).cycle = s.cycle := rfl
@[simp] theorem State.wp_caches (r : BitVec 3) (v : Bool) : (s.wp r v).caches = s.caches := rfl
@[simp] theorem State.wp_ctlbs (r : BitVec 3) (v : Bool) : (s.wp r v).ctlbs = s.ctlbs := rfl
@[simp] theorem State.wp_doms (r : BitVec 3) (v : Bool) : (s.wp r v).doms = s.doms := rfl
@[simp] theorem State.wp_net (r : BitVec 3) (v : Bool) : (s.wp r v).net = s.net := rfl
@[simp] theorem State.wp_invals (r : BitVec 3) (v : Bool) : (s.wp r v).invals = s.invals := rfl
@[simp] theorem State.wp_nextId (r : BitVec 3) (v : Bool) : (s.wp r v).nextId = s.nextId := rfl
@[simp] theorem State.wp_fresh (r : BitVec 3) (v : Bool) : (s.wp r v).fresh = s.fresh := rfl
@[simp] theorem State.wp_bootStep (r : BitVec 3) (v : Bool) : (s.wp r v).bootStep = s.bootStep := rfl
@[simp] theorem State.wp_ready (r : BitVec 3) (v : Bool) : (s.wp r v).ready = s.ready := rfl
@[simp] theorem State.wp_bootErr (r : BitVec 3) (v : Bool) : (s.wp r v).bootErr = s.bootErr := rfl
@[simp] theorem State.wp_rings (r : BitVec 3) (v : Bool) : (s.wp r v).rings = s.rings := rfl
@[simp] theorem State.wp_sessions (r : BitVec 3) (v : Bool) : (s.wp r v).sessions = s.sessions := rfl
@[simp] theorem State.wp_identity (r : BitVec 3) (v : Bool) : (s.wp r v).identity = s.identity := rfl
@[simp] theorem State.wp_spDigest (r : BitVec 3) (v : Bool) : (s.wp r v).spDigest = s.spDigest := rfl
@[simp] theorem State.wp_fwDigest (r : BitVec 3) (v : Bool) : (s.wp r v).fwDigest = s.fwDigest := rfl
@[simp] theorem State.wp_fwQueue (r : BitVec 3) (v : Bool) : (s.wp r v).fwQueue = s.fwQueue := rfl
@[simp] theorem State.wp_fabric (r : BitVec 3) (v : Bool) : (s.wp r v).fabric = s.fabric := rfl
@[simp] theorem State.wp_portsDown (r : BitVec 3) (v : Bool) : (s.wp r v).portsDown = s.portsDown := rfl
@[simp] theorem State.wp_retries (r : BitVec 3) (v : Bool) : (s.wp r v).retries = s.retries := rfl
@[simp] theorem State.wp_hostLines (r : BitVec 3) (v : Bool) : (s.wp r v).hostLines = s.hostLines := rfl
@[simp] theorem State.wp_gauge (r : BitVec 3) (v : Bool) : (s.wp r v).gauge = s.gauge := rfl
@[simp] theorem State.wp_gaugeNv (r : BitVec 3) (v : Bool) : (s.wp r v).gaugeNv = s.gaugeNv := rfl
@[simp] theorem State.wp_answers (r : BitVec 3) (v : Bool) : (s.wp r v).answers = s.answers := rfl
@[simp] theorem State.wp_iss (r : BitVec 3) (v : Bool) : (s.wp r v).iss = s.iss := rfl
@[simp] theorem State.wp_latch (r : BitVec 3) (v : Bool) : (s.wp r v).latch = s.latch := rfl
@[simp] theorem State.wp_agenda (r : BitVec 3) (v : Bool) : (s.wp r v).agenda = s.agenda := rfl

@[simp] theorem State.wq_cycle (r : BitVec 3) (v : QSet) : (s.wq r v).cycle = s.cycle := rfl
@[simp] theorem State.wq_caches (r : BitVec 3) (v : QSet) : (s.wq r v).caches = s.caches := rfl
@[simp] theorem State.wq_ctlbs (r : BitVec 3) (v : QSet) : (s.wq r v).ctlbs = s.ctlbs := rfl
@[simp] theorem State.wq_doms (r : BitVec 3) (v : QSet) : (s.wq r v).doms = s.doms := rfl
@[simp] theorem State.wq_net (r : BitVec 3) (v : QSet) : (s.wq r v).net = s.net := rfl
@[simp] theorem State.wq_invals (r : BitVec 3) (v : QSet) : (s.wq r v).invals = s.invals := rfl
@[simp] theorem State.wq_nextId (r : BitVec 3) (v : QSet) : (s.wq r v).nextId = s.nextId := rfl
@[simp] theorem State.wq_fresh (r : BitVec 3) (v : QSet) : (s.wq r v).fresh = s.fresh := rfl
@[simp] theorem State.wq_bootStep (r : BitVec 3) (v : QSet) : (s.wq r v).bootStep = s.bootStep := rfl
@[simp] theorem State.wq_ready (r : BitVec 3) (v : QSet) : (s.wq r v).ready = s.ready := rfl
@[simp] theorem State.wq_bootErr (r : BitVec 3) (v : QSet) : (s.wq r v).bootErr = s.bootErr := rfl
@[simp] theorem State.wq_rings (r : BitVec 3) (v : QSet) : (s.wq r v).rings = s.rings := rfl
@[simp] theorem State.wq_sessions (r : BitVec 3) (v : QSet) : (s.wq r v).sessions = s.sessions := rfl
@[simp] theorem State.wq_identity (r : BitVec 3) (v : QSet) : (s.wq r v).identity = s.identity := rfl
@[simp] theorem State.wq_spDigest (r : BitVec 3) (v : QSet) : (s.wq r v).spDigest = s.spDigest := rfl
@[simp] theorem State.wq_fwDigest (r : BitVec 3) (v : QSet) : (s.wq r v).fwDigest = s.fwDigest := rfl
@[simp] theorem State.wq_fwQueue (r : BitVec 3) (v : QSet) : (s.wq r v).fwQueue = s.fwQueue := rfl
@[simp] theorem State.wq_fabric (r : BitVec 3) (v : QSet) : (s.wq r v).fabric = s.fabric := rfl
@[simp] theorem State.wq_portsDown (r : BitVec 3) (v : QSet) : (s.wq r v).portsDown = s.portsDown := rfl
@[simp] theorem State.wq_retries (r : BitVec 3) (v : QSet) : (s.wq r v).retries = s.retries := rfl
@[simp] theorem State.wq_hostLines (r : BitVec 3) (v : QSet) : (s.wq r v).hostLines = s.hostLines := rfl
@[simp] theorem State.wq_gauge (r : BitVec 3) (v : QSet) : (s.wq r v).gauge = s.gauge := rfl
@[simp] theorem State.wq_gaugeNv (r : BitVec 3) (v : QSet) : (s.wq r v).gaugeNv = s.gaugeNv := rfl
@[simp] theorem State.wq_answers (r : BitVec 3) (v : QSet) : (s.wq r v).answers = s.answers := rfl
@[simp] theorem State.wq_iss (r : BitVec 3) (v : QSet) : (s.wq r v).iss = s.iss := rfl
@[simp] theorem State.wq_latch (r : BitVec 3) (v : QSet) : (s.wq r v).latch = s.latch := rfl
@[simp] theorem State.wq_agenda (r : BitVec 3) (v : QSet) : (s.wq r v).agenda = s.agenda := rfl

@[simp] theorem State.park_cycle (w : Wake) : (s.park w).cycle = s.cycle := rfl
@[simp] theorem State.park_caches (w : Wake) : (s.park w).caches = s.caches := rfl
@[simp] theorem State.park_ctlbs (w : Wake) : (s.park w).ctlbs = s.ctlbs := rfl
@[simp] theorem State.park_doms (w : Wake) : (s.park w).doms = s.doms := rfl
@[simp] theorem State.park_net (w : Wake) : (s.park w).net = s.net := rfl
@[simp] theorem State.park_invals (w : Wake) : (s.park w).invals = s.invals := rfl
@[simp] theorem State.park_nextId (w : Wake) : (s.park w).nextId = s.nextId := rfl
@[simp] theorem State.park_fresh (w : Wake) : (s.park w).fresh = s.fresh := rfl
@[simp] theorem State.park_bootStep (w : Wake) : (s.park w).bootStep = s.bootStep := rfl
@[simp] theorem State.park_ready (w : Wake) : (s.park w).ready = s.ready := rfl
@[simp] theorem State.park_bootErr (w : Wake) : (s.park w).bootErr = s.bootErr := rfl
@[simp] theorem State.park_rings (w : Wake) : (s.park w).rings = s.rings := rfl
@[simp] theorem State.park_sessions (w : Wake) : (s.park w).sessions = s.sessions := rfl
@[simp] theorem State.park_identity (w : Wake) : (s.park w).identity = s.identity := rfl
@[simp] theorem State.park_spDigest (w : Wake) : (s.park w).spDigest = s.spDigest := rfl
@[simp] theorem State.park_fwDigest (w : Wake) : (s.park w).fwDigest = s.fwDigest := rfl
@[simp] theorem State.park_fwQueue (w : Wake) : (s.park w).fwQueue = s.fwQueue := rfl
@[simp] theorem State.park_fabric (w : Wake) : (s.park w).fabric = s.fabric := rfl
@[simp] theorem State.park_portsDown (w : Wake) : (s.park w).portsDown = s.portsDown := rfl
@[simp] theorem State.park_retries (w : Wake) : (s.park w).retries = s.retries := rfl
@[simp] theorem State.park_hostLines (w : Wake) : (s.park w).hostLines = s.hostLines := rfl
@[simp] theorem State.park_gauge (w : Wake) : (s.park w).gauge = s.gauge := rfl
@[simp] theorem State.park_gaugeNv (w : Wake) : (s.park w).gaugeNv = s.gaugeNv := rfl
@[simp] theorem State.park_answers (w : Wake) : (s.park w).answers = s.answers := rfl
@[simp] theorem State.park_iss (w : Wake) : (s.park w).iss = s.iss := rfl
@[simp] theorem State.park_latch (w : Wake) : (s.park w).latch = s.latch := rfl
@[simp] theorem State.park_agenda (w : Wake) : (s.park w).agenda = s.agenda := rfl

@[simp] theorem State.parkHere_cycle (w : Wake) : (s.parkHere w).cycle = s.cycle := rfl
@[simp] theorem State.parkHere_caches (w : Wake) : (s.parkHere w).caches = s.caches := rfl
@[simp] theorem State.parkHere_ctlbs (w : Wake) : (s.parkHere w).ctlbs = s.ctlbs := rfl
@[simp] theorem State.parkHere_doms (w : Wake) : (s.parkHere w).doms = s.doms := rfl
@[simp] theorem State.parkHere_net (w : Wake) : (s.parkHere w).net = s.net := rfl
@[simp] theorem State.parkHere_invals (w : Wake) : (s.parkHere w).invals = s.invals := rfl
@[simp] theorem State.parkHere_nextId (w : Wake) : (s.parkHere w).nextId = s.nextId := rfl
@[simp] theorem State.parkHere_fresh (w : Wake) : (s.parkHere w).fresh = s.fresh := rfl
@[simp] theorem State.parkHere_bootStep (w : Wake) : (s.parkHere w).bootStep = s.bootStep := rfl
@[simp] theorem State.parkHere_ready (w : Wake) : (s.parkHere w).ready = s.ready := rfl
@[simp] theorem State.parkHere_bootErr (w : Wake) : (s.parkHere w).bootErr = s.bootErr := rfl
@[simp] theorem State.parkHere_rings (w : Wake) : (s.parkHere w).rings = s.rings := rfl
@[simp] theorem State.parkHere_sessions (w : Wake) : (s.parkHere w).sessions = s.sessions := rfl
@[simp] theorem State.parkHere_identity (w : Wake) : (s.parkHere w).identity = s.identity := rfl
@[simp] theorem State.parkHere_spDigest (w : Wake) : (s.parkHere w).spDigest = s.spDigest := rfl
@[simp] theorem State.parkHere_fwDigest (w : Wake) : (s.parkHere w).fwDigest = s.fwDigest := rfl
@[simp] theorem State.parkHere_fwQueue (w : Wake) : (s.parkHere w).fwQueue = s.fwQueue := rfl
@[simp] theorem State.parkHere_fabric (w : Wake) : (s.parkHere w).fabric = s.fabric := rfl
@[simp] theorem State.parkHere_portsDown (w : Wake) : (s.parkHere w).portsDown = s.portsDown := rfl
@[simp] theorem State.parkHere_retries (w : Wake) : (s.parkHere w).retries = s.retries := rfl
@[simp] theorem State.parkHere_hostLines (w : Wake) : (s.parkHere w).hostLines = s.hostLines := rfl
@[simp] theorem State.parkHere_gauge (w : Wake) : (s.parkHere w).gauge = s.gauge := rfl
@[simp] theorem State.parkHere_gaugeNv (w : Wake) : (s.parkHere w).gaugeNv = s.gaugeNv := rfl
@[simp] theorem State.parkHere_answers (w : Wake) : (s.parkHere w).answers = s.answers := rfl
@[simp] theorem State.parkHere_iss (w : Wake) : (s.parkHere w).iss = s.iss := rfl
@[simp] theorem State.parkHere_latch (w : Wake) : (s.parkHere w).latch = s.latch := rfl
@[simp] theorem State.parkHere_agenda (w : Wake) : (s.parkHere w).agenda = s.agenda := rfl

@[simp] theorem State.loseTurn_cycle : s.loseTurn.cycle = s.cycle := rfl
@[simp] theorem State.loseTurn_caches : s.loseTurn.caches = s.caches := rfl
@[simp] theorem State.loseTurn_ctlbs : s.loseTurn.ctlbs = s.ctlbs := rfl
@[simp] theorem State.loseTurn_doms : s.loseTurn.doms = s.doms := rfl
@[simp] theorem State.loseTurn_net : s.loseTurn.net = s.net := rfl
@[simp] theorem State.loseTurn_invals : s.loseTurn.invals = s.invals := rfl
@[simp] theorem State.loseTurn_nextId : s.loseTurn.nextId = s.nextId := rfl
@[simp] theorem State.loseTurn_fresh : s.loseTurn.fresh = s.fresh := rfl
@[simp] theorem State.loseTurn_bootStep : s.loseTurn.bootStep = s.bootStep := rfl
@[simp] theorem State.loseTurn_ready : s.loseTurn.ready = s.ready := rfl
@[simp] theorem State.loseTurn_bootErr : s.loseTurn.bootErr = s.bootErr := rfl
@[simp] theorem State.loseTurn_rings : s.loseTurn.rings = s.rings := rfl
@[simp] theorem State.loseTurn_sessions : s.loseTurn.sessions = s.sessions := rfl
@[simp] theorem State.loseTurn_identity : s.loseTurn.identity = s.identity := rfl
@[simp] theorem State.loseTurn_spDigest : s.loseTurn.spDigest = s.spDigest := rfl
@[simp] theorem State.loseTurn_fwDigest : s.loseTurn.fwDigest = s.fwDigest := rfl
@[simp] theorem State.loseTurn_fwQueue : s.loseTurn.fwQueue = s.fwQueue := rfl
@[simp] theorem State.loseTurn_fabric : s.loseTurn.fabric = s.fabric := rfl
@[simp] theorem State.loseTurn_portsDown : s.loseTurn.portsDown = s.portsDown := rfl
@[simp] theorem State.loseTurn_retries : s.loseTurn.retries = s.retries := rfl
@[simp] theorem State.loseTurn_hostLines : s.loseTurn.hostLines = s.hostLines := rfl
@[simp] theorem State.loseTurn_gauge : s.loseTurn.gauge = s.gauge := rfl
@[simp] theorem State.loseTurn_gaugeNv : s.loseTurn.gaugeNv = s.gaugeNv := rfl
@[simp] theorem State.loseTurn_answers : s.loseTurn.answers = s.answers := rfl
@[simp] theorem State.loseTurn_latch : s.loseTurn.latch = s.latch := rfl
@[simp] theorem State.loseTurn_agenda : s.loseTurn.agenda = s.agenda := rfl

@[simp] theorem State.setDom_cycle (d : Nat) (v : Dom) : (s.setDom d v).cycle = s.cycle := rfl
@[simp] theorem State.setDom_cores (d : Nat) (v : Dom) : (s.setDom d v).cores = s.cores := rfl
@[simp] theorem State.setDom_caches (d : Nat) (v : Dom) : (s.setDom d v).caches = s.caches := rfl
@[simp] theorem State.setDom_ctlbs (d : Nat) (v : Dom) : (s.setDom d v).ctlbs = s.ctlbs := rfl
@[simp] theorem State.setDom_net (d : Nat) (v : Dom) : (s.setDom d v).net = s.net := rfl
@[simp] theorem State.setDom_invals (d : Nat) (v : Dom) : (s.setDom d v).invals = s.invals := rfl
@[simp] theorem State.setDom_nextId (d : Nat) (v : Dom) : (s.setDom d v).nextId = s.nextId := rfl
@[simp] theorem State.setDom_fresh (d : Nat) (v : Dom) : (s.setDom d v).fresh = s.fresh := rfl
@[simp] theorem State.setDom_bootStep (d : Nat) (v : Dom) : (s.setDom d v).bootStep = s.bootStep := rfl
@[simp] theorem State.setDom_ready (d : Nat) (v : Dom) : (s.setDom d v).ready = s.ready := rfl
@[simp] theorem State.setDom_bootErr (d : Nat) (v : Dom) : (s.setDom d v).bootErr = s.bootErr := rfl
@[simp] theorem State.setDom_rings (d : Nat) (v : Dom) : (s.setDom d v).rings = s.rings := rfl
@[simp] theorem State.setDom_sessions (d : Nat) (v : Dom) : (s.setDom d v).sessions = s.sessions := rfl
@[simp] theorem State.setDom_identity (d : Nat) (v : Dom) : (s.setDom d v).identity = s.identity := rfl
@[simp] theorem State.setDom_spDigest (d : Nat) (v : Dom) : (s.setDom d v).spDigest = s.spDigest := rfl
@[simp] theorem State.setDom_fwDigest (d : Nat) (v : Dom) : (s.setDom d v).fwDigest = s.fwDigest := rfl
@[simp] theorem State.setDom_fwQueue (d : Nat) (v : Dom) : (s.setDom d v).fwQueue = s.fwQueue := rfl
@[simp] theorem State.setDom_fabric (d : Nat) (v : Dom) : (s.setDom d v).fabric = s.fabric := rfl
@[simp] theorem State.setDom_portsDown (d : Nat) (v : Dom) : (s.setDom d v).portsDown = s.portsDown := rfl
@[simp] theorem State.setDom_retries (d : Nat) (v : Dom) : (s.setDom d v).retries = s.retries := rfl
@[simp] theorem State.setDom_hostLines (d : Nat) (v : Dom) : (s.setDom d v).hostLines = s.hostLines := rfl
@[simp] theorem State.setDom_gauge (d : Nat) (v : Dom) : (s.setDom d v).gauge = s.gauge := rfl
@[simp] theorem State.setDom_gaugeNv (d : Nat) (v : Dom) : (s.setDom d v).gaugeNv = s.gaugeNv := rfl
@[simp] theorem State.setDom_answers (d : Nat) (v : Dom) : (s.setDom d v).answers = s.answers := rfl
@[simp] theorem State.setDom_iss (d : Nat) (v : Dom) : (s.setDom d v).iss = s.iss := rfl
@[simp] theorem State.setDom_latch (d : Nat) (v : Dom) : (s.setDom d v).latch = s.latch := rfl
@[simp] theorem State.setDom_agenda (d : Nat) (v : Dom) : (s.setDom d v).agenda = s.agenda := rfl

@[simp] theorem State.modDom_cycle (d : Nat) (g : Dom → Dom) : (s.modDom d g).cycle = s.cycle := rfl
@[simp] theorem State.modDom_cores (d : Nat) (g : Dom → Dom) : (s.modDom d g).cores = s.cores := rfl
@[simp] theorem State.modDom_caches (d : Nat) (g : Dom → Dom) : (s.modDom d g).caches = s.caches := rfl
@[simp] theorem State.modDom_ctlbs (d : Nat) (g : Dom → Dom) : (s.modDom d g).ctlbs = s.ctlbs := rfl
@[simp] theorem State.modDom_net (d : Nat) (g : Dom → Dom) : (s.modDom d g).net = s.net := rfl
@[simp] theorem State.modDom_invals (d : Nat) (g : Dom → Dom) : (s.modDom d g).invals = s.invals := rfl
@[simp] theorem State.modDom_nextId (d : Nat) (g : Dom → Dom) : (s.modDom d g).nextId = s.nextId := rfl
@[simp] theorem State.modDom_fresh (d : Nat) (g : Dom → Dom) : (s.modDom d g).fresh = s.fresh := rfl
@[simp] theorem State.modDom_bootStep (d : Nat) (g : Dom → Dom) : (s.modDom d g).bootStep = s.bootStep := rfl
@[simp] theorem State.modDom_ready (d : Nat) (g : Dom → Dom) : (s.modDom d g).ready = s.ready := rfl
@[simp] theorem State.modDom_bootErr (d : Nat) (g : Dom → Dom) : (s.modDom d g).bootErr = s.bootErr := rfl
@[simp] theorem State.modDom_rings (d : Nat) (g : Dom → Dom) : (s.modDom d g).rings = s.rings := rfl
@[simp] theorem State.modDom_sessions (d : Nat) (g : Dom → Dom) : (s.modDom d g).sessions = s.sessions := rfl
@[simp] theorem State.modDom_identity (d : Nat) (g : Dom → Dom) : (s.modDom d g).identity = s.identity := rfl
@[simp] theorem State.modDom_spDigest (d : Nat) (g : Dom → Dom) : (s.modDom d g).spDigest = s.spDigest := rfl
@[simp] theorem State.modDom_fwDigest (d : Nat) (g : Dom → Dom) : (s.modDom d g).fwDigest = s.fwDigest := rfl
@[simp] theorem State.modDom_fwQueue (d : Nat) (g : Dom → Dom) : (s.modDom d g).fwQueue = s.fwQueue := rfl
@[simp] theorem State.modDom_fabric (d : Nat) (g : Dom → Dom) : (s.modDom d g).fabric = s.fabric := rfl
@[simp] theorem State.modDom_portsDown (d : Nat) (g : Dom → Dom) : (s.modDom d g).portsDown = s.portsDown := rfl
@[simp] theorem State.modDom_retries (d : Nat) (g : Dom → Dom) : (s.modDom d g).retries = s.retries := rfl
@[simp] theorem State.modDom_hostLines (d : Nat) (g : Dom → Dom) : (s.modDom d g).hostLines = s.hostLines := rfl
@[simp] theorem State.modDom_gauge (d : Nat) (g : Dom → Dom) : (s.modDom d g).gauge = s.gauge := rfl
@[simp] theorem State.modDom_gaugeNv (d : Nat) (g : Dom → Dom) : (s.modDom d g).gaugeNv = s.gaugeNv := rfl
@[simp] theorem State.modDom_answers (d : Nat) (g : Dom → Dom) : (s.modDom d g).answers = s.answers := rfl
@[simp] theorem State.modDom_iss (d : Nat) (g : Dom → Dom) : (s.modDom d g).iss = s.iss := rfl
@[simp] theorem State.modDom_latch (d : Nat) (g : Dom → Dom) : (s.modDom d g).latch = s.latch := rfl
@[simp] theorem State.modDom_agenda (d : Nat) (g : Dom → Dom) : (s.modDom d g).agenda = s.agenda := rfl

@[simp] theorem State.setCache_cycle (a : Nat) (k : Cache) : (s.setCache a k).cycle = s.cycle := rfl
@[simp] theorem State.setCache_cores (a : Nat) (k : Cache) : (s.setCache a k).cores = s.cores := rfl
@[simp] theorem State.setCache_ctlbs (a : Nat) (k : Cache) : (s.setCache a k).ctlbs = s.ctlbs := rfl
@[simp] theorem State.setCache_doms (a : Nat) (k : Cache) : (s.setCache a k).doms = s.doms := rfl
@[simp] theorem State.setCache_net (a : Nat) (k : Cache) : (s.setCache a k).net = s.net := rfl
@[simp] theorem State.setCache_invals (a : Nat) (k : Cache) : (s.setCache a k).invals = s.invals := rfl
@[simp] theorem State.setCache_nextId (a : Nat) (k : Cache) : (s.setCache a k).nextId = s.nextId := rfl
@[simp] theorem State.setCache_fresh (a : Nat) (k : Cache) : (s.setCache a k).fresh = s.fresh := rfl
@[simp] theorem State.setCache_bootStep (a : Nat) (k : Cache) : (s.setCache a k).bootStep = s.bootStep := rfl
@[simp] theorem State.setCache_ready (a : Nat) (k : Cache) : (s.setCache a k).ready = s.ready := rfl
@[simp] theorem State.setCache_bootErr (a : Nat) (k : Cache) : (s.setCache a k).bootErr = s.bootErr := rfl
@[simp] theorem State.setCache_rings (a : Nat) (k : Cache) : (s.setCache a k).rings = s.rings := rfl
@[simp] theorem State.setCache_sessions (a : Nat) (k : Cache) : (s.setCache a k).sessions = s.sessions := rfl
@[simp] theorem State.setCache_identity (a : Nat) (k : Cache) : (s.setCache a k).identity = s.identity := rfl
@[simp] theorem State.setCache_spDigest (a : Nat) (k : Cache) : (s.setCache a k).spDigest = s.spDigest := rfl
@[simp] theorem State.setCache_fwDigest (a : Nat) (k : Cache) : (s.setCache a k).fwDigest = s.fwDigest := rfl
@[simp] theorem State.setCache_fwQueue (a : Nat) (k : Cache) : (s.setCache a k).fwQueue = s.fwQueue := rfl
@[simp] theorem State.setCache_fabric (a : Nat) (k : Cache) : (s.setCache a k).fabric = s.fabric := rfl
@[simp] theorem State.setCache_portsDown (a : Nat) (k : Cache) : (s.setCache a k).portsDown = s.portsDown := rfl
@[simp] theorem State.setCache_retries (a : Nat) (k : Cache) : (s.setCache a k).retries = s.retries := rfl
@[simp] theorem State.setCache_hostLines (a : Nat) (k : Cache) : (s.setCache a k).hostLines = s.hostLines := rfl
@[simp] theorem State.setCache_gauge (a : Nat) (k : Cache) : (s.setCache a k).gauge = s.gauge := rfl
@[simp] theorem State.setCache_gaugeNv (a : Nat) (k : Cache) : (s.setCache a k).gaugeNv = s.gaugeNv := rfl
@[simp] theorem State.setCache_answers (a : Nat) (k : Cache) : (s.setCache a k).answers = s.answers := rfl
@[simp] theorem State.setCache_iss (a : Nat) (k : Cache) : (s.setCache a k).iss = s.iss := rfl
@[simp] theorem State.setCache_latch (a : Nat) (k : Cache) : (s.setCache a k).latch = s.latch := rfl
@[simp] theorem State.setCache_agenda (a : Nat) (k : Cache) : (s.setCache a k).agenda = s.agenda := rfl

@[simp] theorem State.modCache_cycle (a : Nat) (g : Cache → Cache) : (s.modCache a g).cycle = s.cycle := rfl
@[simp] theorem State.modCache_cores (a : Nat) (g : Cache → Cache) : (s.modCache a g).cores = s.cores := rfl
@[simp] theorem State.modCache_ctlbs (a : Nat) (g : Cache → Cache) : (s.modCache a g).ctlbs = s.ctlbs := rfl
@[simp] theorem State.modCache_doms (a : Nat) (g : Cache → Cache) : (s.modCache a g).doms = s.doms := rfl
@[simp] theorem State.modCache_net (a : Nat) (g : Cache → Cache) : (s.modCache a g).net = s.net := rfl
@[simp] theorem State.modCache_invals (a : Nat) (g : Cache → Cache) : (s.modCache a g).invals = s.invals := rfl
@[simp] theorem State.modCache_nextId (a : Nat) (g : Cache → Cache) : (s.modCache a g).nextId = s.nextId := rfl
@[simp] theorem State.modCache_fresh (a : Nat) (g : Cache → Cache) : (s.modCache a g).fresh = s.fresh := rfl
@[simp] theorem State.modCache_bootStep (a : Nat) (g : Cache → Cache) : (s.modCache a g).bootStep = s.bootStep := rfl
@[simp] theorem State.modCache_ready (a : Nat) (g : Cache → Cache) : (s.modCache a g).ready = s.ready := rfl
@[simp] theorem State.modCache_bootErr (a : Nat) (g : Cache → Cache) : (s.modCache a g).bootErr = s.bootErr := rfl
@[simp] theorem State.modCache_rings (a : Nat) (g : Cache → Cache) : (s.modCache a g).rings = s.rings := rfl
@[simp] theorem State.modCache_sessions (a : Nat) (g : Cache → Cache) : (s.modCache a g).sessions = s.sessions := rfl
@[simp] theorem State.modCache_identity (a : Nat) (g : Cache → Cache) : (s.modCache a g).identity = s.identity := rfl
@[simp] theorem State.modCache_spDigest (a : Nat) (g : Cache → Cache) : (s.modCache a g).spDigest = s.spDigest := rfl
@[simp] theorem State.modCache_fwDigest (a : Nat) (g : Cache → Cache) : (s.modCache a g).fwDigest = s.fwDigest := rfl
@[simp] theorem State.modCache_fwQueue (a : Nat) (g : Cache → Cache) : (s.modCache a g).fwQueue = s.fwQueue := rfl
@[simp] theorem State.modCache_fabric (a : Nat) (g : Cache → Cache) : (s.modCache a g).fabric = s.fabric := rfl
@[simp] theorem State.modCache_portsDown (a : Nat) (g : Cache → Cache) : (s.modCache a g).portsDown = s.portsDown := rfl
@[simp] theorem State.modCache_retries (a : Nat) (g : Cache → Cache) : (s.modCache a g).retries = s.retries := rfl
@[simp] theorem State.modCache_hostLines (a : Nat) (g : Cache → Cache) : (s.modCache a g).hostLines = s.hostLines := rfl
@[simp] theorem State.modCache_gauge (a : Nat) (g : Cache → Cache) : (s.modCache a g).gauge = s.gauge := rfl
@[simp] theorem State.modCache_gaugeNv (a : Nat) (g : Cache → Cache) : (s.modCache a g).gaugeNv = s.gaugeNv := rfl
@[simp] theorem State.modCache_answers (a : Nat) (g : Cache → Cache) : (s.modCache a g).answers = s.answers := rfl
@[simp] theorem State.modCache_iss (a : Nat) (g : Cache → Cache) : (s.modCache a g).iss = s.iss := rfl
@[simp] theorem State.modCache_latch (a : Nat) (g : Cache → Cache) : (s.modCache a g).latch = s.latch := rfl
@[simp] theorem State.modCache_agenda (a : Nat) (g : Cache → Cache) : (s.modCache a g).agenda = s.agenda := rfl

@[simp] theorem State.useFree_cycle : s.useFree.cycle = s.cycle := rfl
@[simp] theorem State.useFree_cores : s.useFree.cores = s.cores := rfl
@[simp] theorem State.useFree_caches : s.useFree.caches = s.caches := rfl
@[simp] theorem State.useFree_ctlbs : s.useFree.ctlbs = s.ctlbs := rfl
@[simp] theorem State.useFree_doms : s.useFree.doms = s.doms := rfl
@[simp] theorem State.useFree_net : s.useFree.net = s.net := rfl
@[simp] theorem State.useFree_invals : s.useFree.invals = s.invals := rfl
@[simp] theorem State.useFree_nextId : s.useFree.nextId = s.nextId := rfl
@[simp] theorem State.useFree_bootStep : s.useFree.bootStep = s.bootStep := rfl
@[simp] theorem State.useFree_ready : s.useFree.ready = s.ready := rfl
@[simp] theorem State.useFree_bootErr : s.useFree.bootErr = s.bootErr := rfl
@[simp] theorem State.useFree_rings : s.useFree.rings = s.rings := rfl
@[simp] theorem State.useFree_sessions : s.useFree.sessions = s.sessions := rfl
@[simp] theorem State.useFree_identity : s.useFree.identity = s.identity := rfl
@[simp] theorem State.useFree_spDigest : s.useFree.spDigest = s.spDigest := rfl
@[simp] theorem State.useFree_fwDigest : s.useFree.fwDigest = s.fwDigest := rfl
@[simp] theorem State.useFree_fwQueue : s.useFree.fwQueue = s.fwQueue := rfl
@[simp] theorem State.useFree_fabric : s.useFree.fabric = s.fabric := rfl
@[simp] theorem State.useFree_portsDown : s.useFree.portsDown = s.portsDown := rfl
@[simp] theorem State.useFree_retries : s.useFree.retries = s.retries := rfl
@[simp] theorem State.useFree_hostLines : s.useFree.hostLines = s.hostLines := rfl
@[simp] theorem State.useFree_gauge : s.useFree.gauge = s.gauge := rfl
@[simp] theorem State.useFree_gaugeNv : s.useFree.gaugeNv = s.gaugeNv := rfl
@[simp] theorem State.useFree_answers : s.useFree.answers = s.answers := rfl
@[simp] theorem State.useFree_iss : s.useFree.iss = s.iss := rfl
@[simp] theorem State.useFree_latch : s.useFree.latch = s.latch := rfl
@[simp] theorem State.useFree_agenda : s.useFree.agenda = s.agenda := rfl

@[simp] theorem State.post_cycle (m : Msg) : (s.post m).cycle = s.cycle := rfl
@[simp] theorem State.post_cores (m : Msg) : (s.post m).cores = s.cores := rfl
@[simp] theorem State.post_caches (m : Msg) : (s.post m).caches = s.caches := rfl
@[simp] theorem State.post_ctlbs (m : Msg) : (s.post m).ctlbs = s.ctlbs := rfl
@[simp] theorem State.post_doms (m : Msg) : (s.post m).doms = s.doms := rfl
@[simp] theorem State.post_invals (m : Msg) : (s.post m).invals = s.invals := rfl
@[simp] theorem State.post_fresh (m : Msg) : (s.post m).fresh = s.fresh := rfl
@[simp] theorem State.post_bootStep (m : Msg) : (s.post m).bootStep = s.bootStep := rfl
@[simp] theorem State.post_ready (m : Msg) : (s.post m).ready = s.ready := rfl
@[simp] theorem State.post_bootErr (m : Msg) : (s.post m).bootErr = s.bootErr := rfl
@[simp] theorem State.post_rings (m : Msg) : (s.post m).rings = s.rings := rfl
@[simp] theorem State.post_sessions (m : Msg) : (s.post m).sessions = s.sessions := rfl
@[simp] theorem State.post_identity (m : Msg) : (s.post m).identity = s.identity := rfl
@[simp] theorem State.post_spDigest (m : Msg) : (s.post m).spDigest = s.spDigest := rfl
@[simp] theorem State.post_fwDigest (m : Msg) : (s.post m).fwDigest = s.fwDigest := rfl
@[simp] theorem State.post_fwQueue (m : Msg) : (s.post m).fwQueue = s.fwQueue := rfl
@[simp] theorem State.post_fabric (m : Msg) : (s.post m).fabric = s.fabric := rfl
@[simp] theorem State.post_portsDown (m : Msg) : (s.post m).portsDown = s.portsDown := rfl
@[simp] theorem State.post_retries (m : Msg) : (s.post m).retries = s.retries := rfl
@[simp] theorem State.post_hostLines (m : Msg) : (s.post m).hostLines = s.hostLines := rfl
@[simp] theorem State.post_gauge (m : Msg) : (s.post m).gauge = s.gauge := rfl
@[simp] theorem State.post_gaugeNv (m : Msg) : (s.post m).gaugeNv = s.gaugeNv := rfl
@[simp] theorem State.post_answers (m : Msg) : (s.post m).answers = s.answers := rfl
@[simp] theorem State.post_iss (m : Msg) : (s.post m).iss = s.iss := rfl
@[simp] theorem State.post_latch (m : Msg) : (s.post m).latch = s.latch := rfl
@[simp] theorem State.post_agenda (m : Msg) : (s.post m).agenda = s.agenda := rfl

@[simp] theorem State.setMsg_cycle (m : Msg) : (s.setMsg m).cycle = s.cycle := rfl
@[simp] theorem State.setMsg_cores (m : Msg) : (s.setMsg m).cores = s.cores := rfl
@[simp] theorem State.setMsg_caches (m : Msg) : (s.setMsg m).caches = s.caches := rfl
@[simp] theorem State.setMsg_ctlbs (m : Msg) : (s.setMsg m).ctlbs = s.ctlbs := rfl
@[simp] theorem State.setMsg_doms (m : Msg) : (s.setMsg m).doms = s.doms := rfl
@[simp] theorem State.setMsg_invals (m : Msg) : (s.setMsg m).invals = s.invals := rfl
@[simp] theorem State.setMsg_nextId (m : Msg) : (s.setMsg m).nextId = s.nextId := rfl
@[simp] theorem State.setMsg_fresh (m : Msg) : (s.setMsg m).fresh = s.fresh := rfl
@[simp] theorem State.setMsg_bootStep (m : Msg) : (s.setMsg m).bootStep = s.bootStep := rfl
@[simp] theorem State.setMsg_ready (m : Msg) : (s.setMsg m).ready = s.ready := rfl
@[simp] theorem State.setMsg_bootErr (m : Msg) : (s.setMsg m).bootErr = s.bootErr := rfl
@[simp] theorem State.setMsg_rings (m : Msg) : (s.setMsg m).rings = s.rings := rfl
@[simp] theorem State.setMsg_sessions (m : Msg) : (s.setMsg m).sessions = s.sessions := rfl
@[simp] theorem State.setMsg_identity (m : Msg) : (s.setMsg m).identity = s.identity := rfl
@[simp] theorem State.setMsg_spDigest (m : Msg) : (s.setMsg m).spDigest = s.spDigest := rfl
@[simp] theorem State.setMsg_fwDigest (m : Msg) : (s.setMsg m).fwDigest = s.fwDigest := rfl
@[simp] theorem State.setMsg_fwQueue (m : Msg) : (s.setMsg m).fwQueue = s.fwQueue := rfl
@[simp] theorem State.setMsg_fabric (m : Msg) : (s.setMsg m).fabric = s.fabric := rfl
@[simp] theorem State.setMsg_portsDown (m : Msg) : (s.setMsg m).portsDown = s.portsDown := rfl
@[simp] theorem State.setMsg_retries (m : Msg) : (s.setMsg m).retries = s.retries := rfl
@[simp] theorem State.setMsg_hostLines (m : Msg) : (s.setMsg m).hostLines = s.hostLines := rfl
@[simp] theorem State.setMsg_gauge (m : Msg) : (s.setMsg m).gauge = s.gauge := rfl
@[simp] theorem State.setMsg_gaugeNv (m : Msg) : (s.setMsg m).gaugeNv = s.gaugeNv := rfl
@[simp] theorem State.setMsg_answers (m : Msg) : (s.setMsg m).answers = s.answers := rfl
@[simp] theorem State.setMsg_iss (m : Msg) : (s.setMsg m).iss = s.iss := rfl
@[simp] theorem State.setMsg_latch (m : Msg) : (s.setMsg m).latch = s.latch := rfl
@[simp] theorem State.setMsg_agenda (m : Msg) : (s.setMsg m).agenda = s.agenda := rfl

@[simp] theorem State.dropMsg_cycle (id : Nat) : (s.dropMsg id).cycle = s.cycle := rfl
@[simp] theorem State.dropMsg_cores (id : Nat) : (s.dropMsg id).cores = s.cores := rfl
@[simp] theorem State.dropMsg_caches (id : Nat) : (s.dropMsg id).caches = s.caches := rfl
@[simp] theorem State.dropMsg_ctlbs (id : Nat) : (s.dropMsg id).ctlbs = s.ctlbs := rfl
@[simp] theorem State.dropMsg_doms (id : Nat) : (s.dropMsg id).doms = s.doms := rfl
@[simp] theorem State.dropMsg_invals (id : Nat) : (s.dropMsg id).invals = s.invals := rfl
@[simp] theorem State.dropMsg_nextId (id : Nat) : (s.dropMsg id).nextId = s.nextId := rfl
@[simp] theorem State.dropMsg_fresh (id : Nat) : (s.dropMsg id).fresh = s.fresh := rfl
@[simp] theorem State.dropMsg_bootStep (id : Nat) : (s.dropMsg id).bootStep = s.bootStep := rfl
@[simp] theorem State.dropMsg_ready (id : Nat) : (s.dropMsg id).ready = s.ready := rfl
@[simp] theorem State.dropMsg_bootErr (id : Nat) : (s.dropMsg id).bootErr = s.bootErr := rfl
@[simp] theorem State.dropMsg_rings (id : Nat) : (s.dropMsg id).rings = s.rings := rfl
@[simp] theorem State.dropMsg_sessions (id : Nat) : (s.dropMsg id).sessions = s.sessions := rfl
@[simp] theorem State.dropMsg_identity (id : Nat) : (s.dropMsg id).identity = s.identity := rfl
@[simp] theorem State.dropMsg_spDigest (id : Nat) : (s.dropMsg id).spDigest = s.spDigest := rfl
@[simp] theorem State.dropMsg_fwDigest (id : Nat) : (s.dropMsg id).fwDigest = s.fwDigest := rfl
@[simp] theorem State.dropMsg_fwQueue (id : Nat) : (s.dropMsg id).fwQueue = s.fwQueue := rfl
@[simp] theorem State.dropMsg_fabric (id : Nat) : (s.dropMsg id).fabric = s.fabric := rfl
@[simp] theorem State.dropMsg_portsDown (id : Nat) : (s.dropMsg id).portsDown = s.portsDown := rfl
@[simp] theorem State.dropMsg_retries (id : Nat) : (s.dropMsg id).retries = s.retries := rfl
@[simp] theorem State.dropMsg_hostLines (id : Nat) : (s.dropMsg id).hostLines = s.hostLines := rfl
@[simp] theorem State.dropMsg_gauge (id : Nat) : (s.dropMsg id).gauge = s.gauge := rfl
@[simp] theorem State.dropMsg_gaugeNv (id : Nat) : (s.dropMsg id).gaugeNv = s.gaugeNv := rfl
@[simp] theorem State.dropMsg_answers (id : Nat) : (s.dropMsg id).answers = s.answers := rfl
@[simp] theorem State.dropMsg_iss (id : Nat) : (s.dropMsg id).iss = s.iss := rfl
@[simp] theorem State.dropMsg_latch (id : Nat) : (s.dropMsg id).latch = s.latch := rfl
@[simp] theorem State.dropMsg_agenda (id : Nat) : (s.dropMsg id).agenda = s.agenda := rfl

@[simp] theorem State.answer_cycle (a : Answer) : (s.answer a).cycle = s.cycle := rfl
@[simp] theorem State.answer_cores (a : Answer) : (s.answer a).cores = s.cores := rfl
@[simp] theorem State.answer_caches (a : Answer) : (s.answer a).caches = s.caches := rfl
@[simp] theorem State.answer_ctlbs (a : Answer) : (s.answer a).ctlbs = s.ctlbs := rfl
@[simp] theorem State.answer_doms (a : Answer) : (s.answer a).doms = s.doms := rfl
@[simp] theorem State.answer_net (a : Answer) : (s.answer a).net = s.net := rfl
@[simp] theorem State.answer_invals (a : Answer) : (s.answer a).invals = s.invals := rfl
@[simp] theorem State.answer_nextId (a : Answer) : (s.answer a).nextId = s.nextId := rfl
@[simp] theorem State.answer_fresh (a : Answer) : (s.answer a).fresh = s.fresh := rfl
@[simp] theorem State.answer_bootStep (a : Answer) : (s.answer a).bootStep = s.bootStep := rfl
@[simp] theorem State.answer_ready (a : Answer) : (s.answer a).ready = s.ready := rfl
@[simp] theorem State.answer_bootErr (a : Answer) : (s.answer a).bootErr = s.bootErr := rfl
@[simp] theorem State.answer_rings (a : Answer) : (s.answer a).rings = s.rings := rfl
@[simp] theorem State.answer_sessions (a : Answer) : (s.answer a).sessions = s.sessions := rfl
@[simp] theorem State.answer_identity (a : Answer) : (s.answer a).identity = s.identity := rfl
@[simp] theorem State.answer_spDigest (a : Answer) : (s.answer a).spDigest = s.spDigest := rfl
@[simp] theorem State.answer_fwDigest (a : Answer) : (s.answer a).fwDigest = s.fwDigest := rfl
@[simp] theorem State.answer_fwQueue (a : Answer) : (s.answer a).fwQueue = s.fwQueue := rfl
@[simp] theorem State.answer_fabric (a : Answer) : (s.answer a).fabric = s.fabric := rfl
@[simp] theorem State.answer_portsDown (a : Answer) : (s.answer a).portsDown = s.portsDown := rfl
@[simp] theorem State.answer_retries (a : Answer) : (s.answer a).retries = s.retries := rfl
@[simp] theorem State.answer_hostLines (a : Answer) : (s.answer a).hostLines = s.hostLines := rfl
@[simp] theorem State.answer_gauge (a : Answer) : (s.answer a).gauge = s.gauge := rfl
@[simp] theorem State.answer_gaugeNv (a : Answer) : (s.answer a).gaugeNv = s.gaugeNv := rfl
@[simp] theorem State.answer_iss (a : Answer) : (s.answer a).iss = s.iss := rfl
@[simp] theorem State.answer_latch (a : Answer) : (s.answer a).latch = s.latch := rfl
@[simp] theorem State.answer_agenda (a : Answer) : (s.answer a).agenda = s.agenda := rfl

@[simp] theorem State.pushRec_cycle (c : Nat) (r : TrapRec) : (s.pushRec c r).cycle = s.cycle := rfl
@[simp] theorem State.pushRec_caches (c : Nat) (r : TrapRec) : (s.pushRec c r).caches = s.caches := rfl
@[simp] theorem State.pushRec_ctlbs (c : Nat) (r : TrapRec) : (s.pushRec c r).ctlbs = s.ctlbs := rfl
@[simp] theorem State.pushRec_doms (c : Nat) (r : TrapRec) : (s.pushRec c r).doms = s.doms := rfl
@[simp] theorem State.pushRec_net (c : Nat) (r : TrapRec) : (s.pushRec c r).net = s.net := rfl
@[simp] theorem State.pushRec_invals (c : Nat) (r : TrapRec) : (s.pushRec c r).invals = s.invals := rfl
@[simp] theorem State.pushRec_nextId (c : Nat) (r : TrapRec) : (s.pushRec c r).nextId = s.nextId := rfl
@[simp] theorem State.pushRec_fresh (c : Nat) (r : TrapRec) : (s.pushRec c r).fresh = s.fresh := rfl
@[simp] theorem State.pushRec_bootStep (c : Nat) (r : TrapRec) : (s.pushRec c r).bootStep = s.bootStep := rfl
@[simp] theorem State.pushRec_ready (c : Nat) (r : TrapRec) : (s.pushRec c r).ready = s.ready := rfl
@[simp] theorem State.pushRec_bootErr (c : Nat) (r : TrapRec) : (s.pushRec c r).bootErr = s.bootErr := rfl
@[simp] theorem State.pushRec_rings (c : Nat) (r : TrapRec) : (s.pushRec c r).rings = s.rings := rfl
@[simp] theorem State.pushRec_sessions (c : Nat) (r : TrapRec) : (s.pushRec c r).sessions = s.sessions := rfl
@[simp] theorem State.pushRec_identity (c : Nat) (r : TrapRec) : (s.pushRec c r).identity = s.identity := rfl
@[simp] theorem State.pushRec_spDigest (c : Nat) (r : TrapRec) : (s.pushRec c r).spDigest = s.spDigest := rfl
@[simp] theorem State.pushRec_fwDigest (c : Nat) (r : TrapRec) : (s.pushRec c r).fwDigest = s.fwDigest := rfl
@[simp] theorem State.pushRec_fwQueue (c : Nat) (r : TrapRec) : (s.pushRec c r).fwQueue = s.fwQueue := rfl
@[simp] theorem State.pushRec_fabric (c : Nat) (r : TrapRec) : (s.pushRec c r).fabric = s.fabric := rfl
@[simp] theorem State.pushRec_portsDown (c : Nat) (r : TrapRec) : (s.pushRec c r).portsDown = s.portsDown := rfl
@[simp] theorem State.pushRec_retries (c : Nat) (r : TrapRec) : (s.pushRec c r).retries = s.retries := rfl
@[simp] theorem State.pushRec_hostLines (c : Nat) (r : TrapRec) : (s.pushRec c r).hostLines = s.hostLines := rfl
@[simp] theorem State.pushRec_gauge (c : Nat) (r : TrapRec) : (s.pushRec c r).gauge = s.gauge := rfl
@[simp] theorem State.pushRec_gaugeNv (c : Nat) (r : TrapRec) : (s.pushRec c r).gaugeNv = s.gaugeNv := rfl
@[simp] theorem State.pushRec_answers (c : Nat) (r : TrapRec) : (s.pushRec c r).answers = s.answers := rfl
@[simp] theorem State.pushRec_iss (c : Nat) (r : TrapRec) : (s.pushRec c r).iss = s.iss := rfl
@[simp] theorem State.pushRec_latch (c : Nat) (r : TrapRec) : (s.pushRec c r).latch = s.latch := rfl
@[simp] theorem State.pushRec_agenda (c : Nat) (r : TrapRec) : (s.pushRec c r).agenda = s.agenda := rfl

/-! ### Cores -/

@[simp] theorem State.core_setCore_self (c : Nat) (k : Core) : (s.setCore c k).core c = k := by
  simp [State.core, State.setCore]
theorem State.core_setCore_ne {c b : Nat} (k : Core) (h : b ≠ c) : (s.setCore c k).core b = s.core b := by
  simp [State.core, State.setCore, lookup_insertKey_ne _ _ h]
@[simp] theorem State.core_modCore_self (c : Nat) (g : Core → Core) : (s.modCore c g).core c = g (s.core c) := by
  simp [State.modCore]
theorem State.core_modCore_ne {c b : Nat} (g : Core → Core) (h : b ≠ c) : (s.modCore c g).core b = s.core b := by
  simp [State.modCore, State.core_setCore_ne _ _ h]
@[simp] theorem State.setCore_setCore (c : Nat) (k k' : Core) : (s.setCore c k).setCore c k' = s.setCore c k' := by
  simp [State.setCore]
@[simp] theorem State.core_setDom (d : Nat) (v : Dom) (c : Nat) : (s.setDom d v).core c = s.core c := rfl
@[simp] theorem State.core_modDom (d : Nat) (g : Dom → Dom) (c : Nat) : (s.modDom d g).core c = s.core c := rfl
@[simp] theorem State.core_setCache (a : Nat) (k : Cache) (c : Nat) : (s.setCache a k).core c = s.core c := rfl
@[simp] theorem State.core_modCache (a : Nat) (g : Cache → Cache) (c : Nat) : (s.modCache a g).core c = s.core c := rfl
@[simp] theorem State.core_post (m : Msg) (c : Nat) : (s.post m).core c = s.core c := rfl

/-! ### Domains and caches -/

@[simp] theorem State.dom_setDom_self (d : Nat) (v : Dom) : (s.setDom d v).dom d = v := by
  simp [State.dom, State.setDom]
theorem State.dom_setDom_ne {d b : Nat} (v : Dom) (h : b ≠ d) : (s.setDom d v).dom b = s.dom b := by
  simp [State.dom, State.setDom, lookup_insertKey_ne _ _ h]
@[simp] theorem State.dom_modDom_self (d : Nat) (g : Dom → Dom) : (s.modDom d g).dom d = g (s.dom d) := by
  simp [State.modDom]
theorem State.dom_modDom_ne {d b : Nat} (g : Dom → Dom) (h : b ≠ d) : (s.modDom d g).dom b = s.dom b := by
  simp [State.modDom, State.dom_setDom_ne _ _ h]
@[simp] theorem State.cache_setCache_self (a : Nat) (k : Cache) : (s.setCache a k).cache a = k := by
  simp [State.cache, State.setCache]
theorem State.cache_setCache_ne {a b : Nat} (k : Cache) (h : b ≠ a) : (s.setCache a k).cache b = s.cache b := by
  simp [State.cache, State.setCache, lookup_insertKey_ne _ _ h]
@[simp] theorem State.cache_modCache_self (a : Nat) (g : Cache → Cache) : (s.modCache a g).cache a = g (s.cache a) := by
  simp [State.modCache]
theorem State.cache_modCache_ne {a b : Nat} (g : Cache → Cache) (h : b ≠ a) :
    (s.modCache a g).cache b = s.cache b := by
  simp [State.modCache, State.cache_setCache_ne _ _ h]

@[simp] theorem State.dom_setCore (c : Nat) (k : Core) (e : Nat) : (s.setCore c k).dom e = s.dom e := rfl
@[simp] theorem State.cache_setCore (c : Nat) (k : Core) (e : Nat) : (s.setCore c k).cache e = s.cache e := rfl
@[simp] theorem State.dom_modCore (c : Nat) (g : Core → Core) (e : Nat) : (s.modCore c g).dom e = s.dom e := rfl
@[simp] theorem State.cache_modCore (c : Nat) (g : Core → Core) (e : Nat) : (s.modCore c g).cache e = s.cache e := rfl
@[simp] theorem State.dom_setThread (c sl : Nat) (t : Thread) (e : Nat) : (s.setThread c sl t).dom e = s.dom e := rfl
@[simp] theorem State.cache_setThread (c sl : Nat) (t : Thread) (e : Nat) : (s.setThread c sl t).cache e = s.cache e := rfl
@[simp] theorem State.dom_modThread (c sl : Nat) (g : Thread → Thread) (e : Nat) : (s.modThread c sl g).dom e = s.dom e := rfl
@[simp] theorem State.cache_modThread (c sl : Nat) (g : Thread → Thread) (e : Nat) : (s.modThread c sl g).cache e = s.cache e := rfl
@[simp] theorem State.dom_modCur (g : Thread → Thread) (e : Nat) : (s.modCur g).dom e = s.dom e := rfl
@[simp] theorem State.cache_modCur (g : Thread → Thread) (e : Nat) : (s.modCur g).cache e = s.cache e := rfl
@[simp] theorem State.dom_modCurCore (g : Core → Core) (e : Nat) : (s.modCurCore g).dom e = s.dom e := rfl
@[simp] theorem State.cache_modCurCore (g : Core → Core) (e : Nat) : (s.modCurCore g).cache e = s.cache e := rfl
@[simp] theorem State.dom_wx (r : BitVec 6) (v : Word) (e : Nat) : (s.wx r v).dom e = s.dom e := rfl
@[simp] theorem State.cache_wx (r : BitVec 6) (v : Word) (e : Nat) : (s.wx r v).cache e = s.cache e := rfl
@[simp] theorem State.dom_wp (r : BitVec 3) (v : Bool) (e : Nat) : (s.wp r v).dom e = s.dom e := rfl
@[simp] theorem State.cache_wp (r : BitVec 3) (v : Bool) (e : Nat) : (s.wp r v).cache e = s.cache e := rfl
@[simp] theorem State.dom_wq (r : BitVec 3) (v : QSet) (e : Nat) : (s.wq r v).dom e = s.dom e := rfl
@[simp] theorem State.cache_wq (r : BitVec 3) (v : QSet) (e : Nat) : (s.wq r v).cache e = s.cache e := rfl
@[simp] theorem State.dom_park (w : Wake) (e : Nat) : (s.park w).dom e = s.dom e := rfl
@[simp] theorem State.cache_park (w : Wake) (e : Nat) : (s.park w).cache e = s.cache e := rfl
@[simp] theorem State.dom_parkHere (w : Wake) (e : Nat) : (s.parkHere w).dom e = s.dom e := rfl
@[simp] theorem State.cache_parkHere (w : Wake) (e : Nat) : (s.parkHere w).cache e = s.cache e := rfl
@[simp] theorem State.dom_loseTurn (e : Nat) : s.loseTurn.dom e = s.dom e := rfl
@[simp] theorem State.cache_loseTurn (e : Nat) : s.loseTurn.cache e = s.cache e := rfl
@[simp] theorem State.cache_setDom (d : Nat) (v : Dom) (e : Nat) : (s.setDom d v).cache e = s.cache e := rfl
@[simp] theorem State.cache_modDom (d : Nat) (g : Dom → Dom) (e : Nat) : (s.modDom d g).cache e = s.cache e := rfl
@[simp] theorem State.dom_setCache (a : Nat) (k : Cache) (e : Nat) : (s.setCache a k).dom e = s.dom e := rfl
@[simp] theorem State.dom_modCache (a : Nat) (g : Cache → Cache) (e : Nat) : (s.modCache a g).dom e = s.dom e := rfl
@[simp] theorem State.dom_useFree (e : Nat) : s.useFree.dom e = s.dom e := rfl
@[simp] theorem State.cache_useFree (e : Nat) : s.useFree.cache e = s.cache e := rfl
@[simp] theorem State.dom_post (m : Msg) (e : Nat) : (s.post m).dom e = s.dom e := rfl
@[simp] theorem State.cache_post (m : Msg) (e : Nat) : (s.post m).cache e = s.cache e := rfl
@[simp] theorem State.dom_setMsg (m : Msg) (e : Nat) : (s.setMsg m).dom e = s.dom e := rfl
@[simp] theorem State.cache_setMsg (m : Msg) (e : Nat) : (s.setMsg m).cache e = s.cache e := rfl
@[simp] theorem State.dom_dropMsg (id : Nat) (e : Nat) : (s.dropMsg id).dom e = s.dom e := rfl
@[simp] theorem State.cache_dropMsg (id : Nat) (e : Nat) : (s.dropMsg id).cache e = s.cache e := rfl
@[simp] theorem State.dom_answer (a : Answer) (e : Nat) : (s.answer a).dom e = s.dom e := rfl
@[simp] theorem State.cache_answer (a : Answer) (e : Nat) : (s.answer a).cache e = s.cache e := rfl
@[simp] theorem State.dom_pushRec (c : Nat) (r : TrapRec) (e : Nat) : (s.pushRec c r).dom e = s.dom e := rfl
@[simp] theorem State.cache_pushRec (c : Nat) (r : TrapRec) (e : Nat) : (s.pushRec c r).cache e = s.cache e := rfl

/-! ### Threads -/

@[simp] theorem State.thread?_setThread_self (c sl : Nat) (t : Thread) : (s.setThread c sl t).thread? c sl = some t := by
  simp [State.thread?, State.setThread]
@[simp] theorem State.thread_setThread_self (c sl : Nat) (t : Thread) : (s.setThread c sl t).thread c sl = t := by
  simp [State.thread]
theorem State.thread?_setThread_ne {c sl b j : Nat} (t : Thread) (h : ¬(b = c ∧ j = sl)) :
    (s.setThread c sl t).thread? b j = s.thread? b j := by
  by_cases hb : b = c
  · subst hb
    have hj : j ≠ sl := fun hj => h ⟨rfl, hj⟩
    simp [State.thread?, State.setThread, lookup_insertKey_ne _ _ hj]
  · simp [State.thread?, State.setThread, State.core_modCore_ne _ _ hb]
theorem State.thread_setThread_ne {c sl b j : Nat} (t : Thread) (h : ¬(b = c ∧ j = sl)) :
    (s.setThread c sl t).thread b j = s.thread b j := by
  simp [State.thread, State.thread?_setThread_ne _ _ h]
@[simp] theorem State.thread_modThread_self (c sl : Nat) (g : Thread → Thread) :
    (s.modThread c sl g).thread c sl = g (s.thread c sl) := by
  simp [State.modThread]
@[simp] theorem State.setThread_setThread (c sl : Nat) (t u : Thread) :
    (s.setThread c sl t).setThread c sl u = s.setThread c sl u := by
  simp [State.setThread, State.modCore]
@[simp] theorem State.cur_modCur (g : Thread → Thread) : (s.modCur g).cur = g s.cur := by
  simp [State.modCur, State.cur, State.modThread]
@[simp] theorem State.cur_setThread (t : Thread) : (s.setThread s.iss.core s.iss.slot t).cur = t := by
  simp [State.cur]
theorem State.modCur_eq (g : Thread → Thread) : s.modCur g = s.setThread s.iss.core s.iss.slot (g s.cur) := rfl
@[simp] theorem State.modCur_modCur (g h : Thread → Thread) : (s.modCur g).modCur h = s.modCur fun t => h (g t) := by
  simp [State.modCur, State.modThread]
@[simp] theorem State.cur_setDom (d : Nat) (v : Dom) : (s.setDom d v).cur = s.cur := rfl
@[simp] theorem State.cur_modDom (d : Nat) (g : Dom → Dom) : (s.modDom d g).cur = s.cur := rfl
@[simp] theorem State.cur_setCache (a : Nat) (k : Cache) : (s.setCache a k).cur = s.cur := rfl
@[simp] theorem State.cur_modCache (a : Nat) (g : Cache → Cache) : (s.modCache a g).cur = s.cur := rfl
@[simp] theorem State.cur_post (m : Msg) : (s.post m).cur = s.cur := rfl
@[simp] theorem State.cur_useFree : s.useFree.cur = s.cur := rfl

/-! ### Registers -/

@[simp] theorem Thread.getX_zero (t : Thread) : t.getX 0#6 = 0#64 := rfl
@[simp] theorem Thread.getP_zero (t : Thread) : t.getP 0#3 = true := rfl
theorem Thread.getX_setX (t : Thread) (d r : BitVec 6) (v : Word) :
    (t.setX d v).getX r = if r = 0#6 then 0#64 else if r = d then v else t.getX r := by
  unfold Thread.getX Thread.setX
  by_cases hr : r = 0#6
  · simp [hr]
  · by_cases hd : d = 0#6
    · have : r ≠ d := fun h => hr (h.trans hd)
      simp [hr, hd]
    · by_cases h : r = d
      · subst h; simp [hr]
      · have hn : d.toNat ≠ r.toNat := fun hh => h (BitVec.eq_of_toNat_eq hh.symm)
        simp [hr, hd, h, hn]
theorem predBit : ∀ (p : BitVec 8) (d r : BitVec 3) (v : Bool),
    (if v then p ||| (1#8 <<< d.toNat) else p &&& ~~~(1#8 <<< d.toNat)).getLsbD r.toNat =
      if r = d then v else p.getLsbD r.toNat := by
  decide +kernel
theorem Thread.getP_setP (t : Thread) (d r : BitVec 3) (v : Bool) :
    (t.setP d v).getP r = if r = 0#3 then true else if r = d then v else t.getP r := by
  unfold Thread.getP Thread.setP
  by_cases hr : r = 0#3
  · simp [hr]
  · by_cases hd : d = 0#3
    · have h : r ≠ d := fun h => hr (h.trans hd)
      simp [hr, hd]
    · simp only [hd, if_false, predBit]
      by_cases h : r = d
      · subst h; simp [hr]
      · simp [hr, h]
theorem Thread.getQ_setQ (t : Thread) (d r : BitVec 3) (v : QSet) :
    (t.setQ d v).getQ r = if r = d then v else t.getQ r := by
  unfold Thread.getQ Thread.setQ
  by_cases h : r = d
  · subst h; simp
  · have hn : d.toNat ≠ r.toNat := fun hh => h (BitVec.eq_of_toNat_eq hh.symm)
    simp [h, hn]
theorem Thread.getF_setF (t : Thread) (d r : BitVec 5) (v : Word) :
    (t.setF d v).getF r = if r = d then v else t.getF r := by
  unfold Thread.getF Thread.setF
  by_cases h : r = d
  · subst h; simp
  · have hn : d.toNat ≠ r.toNat := fun hh => h (BitVec.eq_of_toNat_eq hh.symm)
    simp [h, hn]
@[simp] theorem Thread.getP_setX (t : Thread) (d : BitVec 6) (v : Word) (r : BitVec 3) : (t.setX d v).getP r = t.getP r := by
  unfold Thread.setX; split <;> rfl
@[simp] theorem Thread.getQ_setX (t : Thread) (d : BitVec 6) (v : Word) (r : BitVec 3) : (t.setX d v).getQ r = t.getQ r := by
  unfold Thread.setX; split <;> rfl
@[simp] theorem Thread.getF_setX (t : Thread) (d : BitVec 6) (v : Word) (r : BitVec 5) : (t.setX d v).getF r = t.getF r := by
  unfold Thread.setX; split <;> rfl
@[simp] theorem Thread.getX_setP (t : Thread) (d : BitVec 3) (v : Bool) (r : BitVec 6) : (t.setP d v).getX r = t.getX r := by
  unfold Thread.setP; split <;> rfl
@[simp] theorem Thread.getQ_setP (t : Thread) (d : BitVec 3) (v : Bool) (r : BitVec 3) : (t.setP d v).getQ r = t.getQ r := by
  unfold Thread.setP; split <;> rfl
@[simp] theorem Thread.getF_setP (t : Thread) (d : BitVec 3) (v : Bool) (r : BitVec 5) : (t.setP d v).getF r = t.getF r := by
  unfold Thread.setP; split <;> rfl
@[simp] theorem Thread.getX_setQ (t : Thread) (d : BitVec 3) (v : QSet) (r : BitVec 6) : (t.setQ d v).getX r = t.getX r := rfl
@[simp] theorem Thread.getP_setQ (t : Thread) (d : BitVec 3) (v : QSet) (r : BitVec 3) : (t.setQ d v).getP r = t.getP r := rfl
@[simp] theorem Thread.getF_setQ (t : Thread) (d : BitVec 3) (v : QSet) (r : BitVec 5) : (t.setQ d v).getF r = t.getF r := rfl
theorem State.rx_wx (d r : BitVec 6) (v : Word) :
    (s.wx d v).rx r = if r = 0#6 then 0#64 else if r = d then v else s.rx r := by
  simp [State.rx, State.wx, Thread.getX_setX]
@[simp] theorem State.rp_wx (d : BitVec 6) (v : Word) (r : BitVec 3) : (s.wx d v).rp r = s.rp r := by
  simp [State.rp, State.wx]
@[simp] theorem State.rq_wx (d : BitVec 6) (v : Word) (r : BitVec 3) : (s.wx d v).rq r = s.rq r := by
  simp [State.rq, State.wx]
theorem State.rp_wp (d r : BitVec 3) (v : Bool) :
    (s.wp d v).rp r = if r = 0#3 then true else if r = d then v else s.rp r := by
  simp [State.rp, State.wp, Thread.getP_setP]
@[simp] theorem State.rx_wp (d : BitVec 3) (v : Bool) (r : BitVec 6) : (s.wp d v).rx r = s.rx r := by
  simp [State.rx, State.wp]
@[simp] theorem State.rq_wp (d : BitVec 3) (v : Bool) (r : BitVec 3) : (s.wp d v).rq r = s.rq r := by
  simp [State.rq, State.wp]
theorem State.rq_wq (d r : BitVec 3) (v : QSet) : (s.wq d v).rq r = if r = d then v else s.rq r := by
  simp [State.rq, State.wq, Thread.getQ_setQ]
@[simp] theorem State.rx_wq (d : BitVec 3) (v : QSet) (r : BitVec 6) : (s.wq d v).rx r = s.rx r := by
  simp [State.rx, State.wq]
@[simp] theorem State.rp_wq (d : BitVec 3) (v : QSet) (r : BitVec 3) : (s.wq d v).rp r = s.rp r := by
  simp [State.rp, State.wq]

end Sys2Proof.Machine
end

