-- ==== Sys2Proof/Laws/Frames.lean ====
section
/-! SUPPORT. Laws of the frames: the updates of registers of the issuing thread are framed, so an instruction whose
meaning is such an update is. -/
namespace Sys2Proof.Machine

theorem State.SameMemory.refl (s : State) : s.SameMemory s := ⟨fun _ _ => rfl, fun _ _ => rfl, fun _ => rfl⟩

/-- A change of one thread changes no local memory. -/
@[simp] theorem State.core_setThread_lmem (s : State) (c sl : Nat) (t : Thread) (b : Nat) :
    ((s.setThread c sl t).core b).lmem = (s.core b).lmem := by
  by_cases h : b = c
  · subst h; simp [State.setThread]
  · simp [State.setThread, State.core_modCore_ne _ _ h]

theorem State.SameMemory.setThread (s : State) (c sl : Nat) (t : Thread) : s.SameMemory (s.setThread c sl t) :=
  ⟨fun _ _ => rfl, fun c' a => by rw [State.core_setThread_lmem], fun _ => rfl⟩

theorem State.SameMemory.modCur (s : State) (g : Thread → Thread) : s.SameMemory (s.modCur g) :=
  State.SameMemory.setThread s _ _ _

theorem State.modCur_frame_eq (s : State) (g : Thread → Thread) :
    s.modCur g = s.setThread s.iss.core s.iss.slot (s.modCur g).cur := by
  rw [State.cur_modCur]; rfl

/-- The frame of a change of registers of the issuing thread. -/
theorem State.Frame.modCur (s : State) (g : Thread → Thread) {xs ps fs qs}
    (hx : ∀ r, r ∉ xs → (g s.cur).getX r = s.cur.getX r) (hp : ∀ r, r ∉ ps → (g s.cur).getP r = s.cur.getP r)
    (hf : ∀ r, r ∉ fs → (g s.cur).getF r = s.cur.getF r) (hq : ∀ r, r ∉ qs → (g s.cur).getQ r = s.cur.getQ r)
    (ht : g s.cur = { s.cur with x := (g s.cur).x, p := (g s.cur).p, f := (g s.cur).f, q := (g s.cur).q }) :
    s.Frame (s.modCur g) xs ps fs qs := by
  refine ⟨?_, ?_, ?_, ?_, ?_, State.modCur_frame_eq s g, State.SameMemory.modCur s g⟩
  · intro r hr; simpa [State.rx] using hx r hr
  · intro r hr; simpa [State.rp] using hp r hr
  · intro r hr; simpa using hf r hr
  · intro r hr; simpa [State.rq] using hq r hr
  · simpa using ht

theorem State.Frame.wx (s : State) (d : BitVec 6) (v : Word) : s.Frame (s.wx d v) [d] [] [] [] := by
  refine State.Frame.modCur s _ ?_ ?_ ?_ ?_ ?_
  · intro r hr
    have hr : r ≠ d := by simpa using hr
    rw [Thread.getX_setX]
    by_cases h0 : r = 0#6
    · subst h0; simp
    · simp [h0, hr]
  · intro r _; simp
  · intro r _; simp
  · intro r _; simp
  · unfold Thread.setX; split <;> rfl

theorem State.Frame.wp (s : State) (d : BitVec 3) (v : Bool) : s.Frame (s.wp d v) [] [d] [] [] := by
  refine State.Frame.modCur s _ ?_ ?_ ?_ ?_ ?_
  · intro r _; simp
  · intro r hr
    have hr : r ≠ d := by simpa using hr
    rw [Thread.getP_setP]
    by_cases h0 : r = 0#3
    · subst h0; simp
    · simp [h0, hr]
  · intro r _; simp
  · intro r _; simp
  · unfold Thread.setP; split <;> rfl

theorem State.Frame.wq (s : State) (d : BitVec 3) (v : QSet) : s.Frame (s.wq d v) [] [] [] [d] := by
  refine State.Frame.modCur s _ ?_ ?_ ?_ ?_ ?_
  · intro r _; simp
  · intro r _; simp
  · intro r _; simp
  · intro r hr
    have hr : r ≠ d := by simpa using hr
    rw [Thread.getQ_setQ]; simp [hr]
  · rfl

/-- An instruction whose meaning writes an x register does what WritesX says. -/
theorem WritesX.of_wx {i : Instr} {s : State} {d : BitVec 6} {v : Word} {P : Word → Prop}
    (h : exec i s = .next (s.wx d v)) (hv : P v) : WritesX i s d P := by
  refine ⟨_, v, h, hv, ?_, State.Frame.wx s d v⟩
  rw [State.rx_wx]; simp

/-- An instruction whose meaning writes a predicate does what WritesP says. -/
theorem WritesP.of_wp {i : Instr} {s : State} {p : BitVec 3} {b : Bool} (h : exec i s = .next (s.wp p b)) :
    WritesP i s p b := by
  refine ⟨_, h, ?_, State.Frame.wp s p b⟩
  rw [State.rp_wp]
  by_cases h0 : p = 0#3 <;> simp [h0]

/-- A jump goes to its target. -/
theorem GoesTo.of_jump {i : Instr} {s : State} {target : Word} (h : exec i s = .next (s.jump target)) :
    GoesTo i s target := by
  refine ⟨_, h, ?_, ?_, State.modCur_frame_eq s _, State.SameMemory.modCur s _⟩
  · intro r _; simp [State.rx, State.jump, Thread.getX]
  · simp [State.jump]

end Sys2Proof.Machine
end

