-- ==== Sys2Proof/Laws/Ops.lean ====
section
/-! SUPPORT. Laws of the shared operations: everything that taking a trap, queueing a record, losing a turn, parking and
a write at a home can change, said once, for proofs that cite it and do not unfold the operation. -/
namespace Sys2Proof.Machine
variable (s : State)

/-! ### Traps (R335, R336) -/

/-- A record that enters a queue changes that core alone. -/
theorem State.pushRec_eq (c : Nat) (r : TrapRec) : s.pushRec c r = { s with cores := (s.pushRec c r).cores } := rfl

/-- A trap raised at a slot changes cores alone. -/
theorem State.raiseAt_eq (c sl : Nat) (cause : Cause) (addr extra pc npc : Word) (pair : Bool) :
    s.raiseAt c sl cause addr extra pc npc pair =
      { s with cores := (s.raiseAt c sl cause addr extra pc npc pair).cores } := by
  unfold State.raiseAt; split <;> rfl

/-- Taking a trap changes the cores and marks the issue as trapped: memory, caches, requests and every counter outside
the cores stay. -/
theorem State.takeTrap_eq (cause : Cause) (addr extra : Word) :
    s.takeTrap cause addr extra =
      { s with cores := (s.takeTrap cause addr extra).cores, iss := { s.iss with st := .trapped } } := by
  rw [State.takeTrap, State.raiseAt_eq]

@[simp] theorem State.takeTrap_dom (cause : Cause) (addr extra : Word) (d : Nat) :
    (s.takeTrap cause addr extra).dom d = s.dom d := by rw [State.takeTrap_eq]; rfl
@[simp] theorem State.takeTrap_cache (cause : Cause) (addr extra : Word) (a : Nat) :
    (s.takeTrap cause addr extra).cache a = s.cache a := by rw [State.takeTrap_eq]; rfl
@[simp] theorem State.takeTrap_net (cause : Cause) (addr extra : Word) :
    (s.takeTrap cause addr extra).net = s.net := by rw [State.takeTrap_eq]
@[simp] theorem State.takeTrap_agenda (cause : Cause) (addr extra : Word) :
    (s.takeTrap cause addr extra).agenda = s.agenda := by rw [State.takeTrap_eq]

/-- A trap touches no core but the one that issues. -/
theorem State.raiseAt_core_ne {b c : Nat} (h : b ≠ c) (sl : Nat) (cause : Cause) (addr extra pc npc : Word) (pair : Bool) :
    (s.raiseAt c sl cause addr extra pc npc pair).core b = s.core b := by
  unfold State.raiseAt
  split <;> simp [State.pushRec, State.modThread, State.setThread, State.core_modCore_ne _ _ h]

theorem State.takeTrap_core_ne {b : Nat} (h : b ≠ s.iss.core) (cause : Cause) (addr extra : Word) :
    (s.takeTrap cause addr extra).core b = s.core b :=
  State.raiseAt_core_ne s h _ cause addr extra _ _ _

/-! ### Losing a turn and parking (R108, R109) -/

theorem State.loseTurn_eq : s.loseTurn = { s with cores := s.loseTurn.cores, iss := { s.iss with st := .lost } } := rfl
theorem State.park_eq (w : Wake) : s.park w = { s with cores := (s.park w).cores } := rfl
theorem State.parkHere_eq (w : Wake) : s.parkHere w = { s with cores := (s.parkHere w).cores } := rfl

/-! ### A write at a home (R249, R264) -/

theorem State.modLaunch_dom_ne {d e : Nat} (h : e ≠ d) (n : Nat) (g : Launch → Launch) :
    (s.modLaunch d n g).dom e = s.dom e := by
  unfold State.modLaunch
  split
  · exact State.dom_modDom_ne s _ h
  · rfl

theorem State.modLaunch_mem (d n : Nat) (g : Launch → Launch) : ((s.modLaunch d n g).dom d).mem = (s.dom d).mem := by
  unfold State.modLaunch
  split <;> simp

@[simp] theorem State.logUndo_mem (d l : Nat) (old : Dom) (b : List Nat) :
    ((s.logUndo d l old b).dom d).mem = (s.dom d).mem := State.modLaunch_mem s d l _
@[simp] theorem State.logUndo_dom_ne {d e : Nat} (h : e ≠ d) (l : Nat) (old : Dom) (b : List Nat) :
    (s.logUndo d l old b).dom e = s.dom e := State.modLaunch_dom_ne s h l _

/-- Logs of several launches touch no byte of memory and no other domain. -/
theorem State.logs_mem (d : Nat) (old : Dom) (b : Nat × Nat → List Nat) :
    ∀ (os : List (Nat × Nat)) (s : State), ((os.foldl (fun s o => s.logUndo d o.1 old (b o)) s).dom d).mem = (s.dom d).mem
  | [], _ => rfl
  | o :: os, s => by rw [List.foldl_cons, State.logs_mem d old b os, State.logUndo_mem]
theorem State.logs_dom_ne {d e : Nat} (h : e ≠ d) (old : Dom) (b : Nat × Nat → List Nat) :
    ∀ (os : List (Nat × Nat)) (s : State), (os.foldl (fun s o => s.logUndo d o.1 old (b o)) s).dom e = s.dom e
  | [], _ => rfl
  | o :: os, s => by rw [List.foldl_cons, State.logs_dom_ne h old b os, State.logUndo_dom_ne s h]

/-- A write at the home of a domain stores the masked bytes there. -/
theorem State.performWrite_mem (w : HWrite) :
    ((s.performWrite w).dom w.d).mem = Memory.writeMask (s.dom w.d).mem w.pa w.n w.mask w.v := by
  show ((List.foldl (fun s o => State.logUndo s _ _ _ _) _ w.owners).dom w.d).mem = _
  rw [State.logs_mem]
  simp

/-- It changes no other domain. -/
theorem State.performWrite_dom_ne (w : HWrite) {e : Nat} (h : e ≠ w.d) : (s.performWrite w).dom e = s.dom e := by
  show (List.foldl (fun s o => State.logUndo s _ _ _ _) _ w.owners).dom e = _
  rw [State.logs_dom_ne h]
  exact State.dom_setDom_ne s _ h

theorem State.homeWrite_mem (d l pa n mask v : Nat) :
    ((s.homeWrite d l pa n mask v).dom d).mem = Memory.writeMask (s.dom d).mem pa n mask v := State.performWrite_mem s _
theorem State.homeWrite_dom_ne {d e : Nat} (h : e ≠ d) (l pa n mask v : Nat) :
    (s.homeWrite d l pa n mask v).dom e = s.dom e := State.performWrite_dom_ne s _ h

theorem State.modLaunch_eq (d n : Nat) (g : Launch → Launch) : s.modLaunch d n g = { s with doms := (s.modLaunch d n g).doms } := by
  unfold State.modLaunch; split <;> rfl

theorem State.logs_eq (d : Nat) (old : Dom) (b : Nat × Nat → List Nat) : ∀ (os : List (Nat × Nat)) (s : State),
    os.foldl (fun s o => s.logUndo d o.1 old (b o)) s =
      { s with doms := (os.foldl (fun s o => s.logUndo d o.1 old (b o)) s).doms }
  | [], _ => rfl
  | o :: os, s => by
    rw [List.foldl_cons, State.logs_eq d old b os, State.logUndo, State.modLaunch_eq]

/-- A write changes domains and pokes requests that wait on the bytes, and nothing of a core or a cache. -/
theorem State.performWrite_eq (w : HWrite) :
    s.performWrite w = { s with
      doms := (s.performWrite w).doms
      net := s.net.map fun m => if m.watches w.d w.pa w.n then { m with st := .poked } else m } := by
  simp only [State.performWrite]
  rw [State.logs_eq]
  rfl

/-! ### Requests at their homes (R253, R312) -/

/-- Where no request waits at the directory of a domain, nothing is served. -/
theorem State.pumpBlock_nil {d : Nat} (line : Nat) (h : (s.dom d).reqs = []) : s.pumpBlock d line = s := by
  simp [State.pumpBlock, h, State.pump]

/-- A request that its home performs at once: the home notes it and does its part. -/
theorem State.perform_ready {id : Nat} {m : Msg} {kind : MKind → Bool} {write : Bool} {k : State → Msg → State}
    (hm : s.findMsg id = some m) (hk : kind m.kind = true) (hh : s.atHome m = true)
    (hg : s.gate m.dom m.pa id write = .ready s) (hr : ((k (s.markServed m) m).dom m.dom).reqs = []) :
    s.perform id kind write k = k (s.markServed m) m := by
  simp only [State.perform, hm, hk, hh, hg, Bool.and_self, if_true]
  exact State.pumpBlock_nil _ _ hr

/-- A request that is not of the kind, or not at its home, is left alone. -/
theorem State.perform_not {id : Nat} {m : Msg} {kind : MKind → Bool} {write : Bool} {k : State → Msg → State}
    (hm : s.findMsg id = some m) (h : (kind m.kind && s.atHome m) = false) : s.perform id kind write k = s := by
  simp [State.perform, hm, h]

end Sys2Proof.Machine
end

