-- ==== Sys2Proof/Laws/PerInstr.lean ====
section
/-! SUPPORT. One lemma per instruction: the family Encodable says that a well-formed instruction has an encoding, so that it
can stand in a slot; an event has none and is never well-formed (R30, R40). -/
namespace Sys2Proof

/-- A well-formed instruction has an encoding. -/
def Laws.Encodable.Statement (i : Instr) : Prop := i.WellFormed → (encodeParts i).isSome = true

theorem Laws.Encodable.nop : Laws.Encodable.Statement .nop := fun _ => rfl
theorem Laws.Encodable.brk : ∀ a0, Laws.Encodable.Statement (.brk a0) := fun _ _ => rfl
theorem Laws.Encodable.svc : ∀ a0, Laws.Encodable.Statement (.svc a0) := fun _ _ => rfl
theorem Laws.Encodable.trap : ∀ a0 a1 a2 a3, Laws.Encodable.Statement (.trap a0 a1 a2 a3) := fun _ _ _ _ _ => rfl
theorem Laws.Encodable.ill : Laws.Encodable.Statement .ill := fun _ => rfl
theorem Laws.Encodable.mfs : ∀ a0 a1, Laws.Encodable.Statement (.mfs a0 a1) := fun _ _ _ => rfl
theorem Laws.Encodable.mfsFpsr : ∀ a0, Laws.Encodable.Statement (.mfsFpsr a0) := fun _ _ => rfl
theorem Laws.Encodable.mts : ∀ a0 a1, Laws.Encodable.Statement (.mts a0 a1) := fun _ _ _ => rfl
theorem Laws.Encodable.mtsFpcr : ∀ a0, Laws.Encodable.Statement (.mtsFpcr a0) := fun _ _ => rfl
theorem Laws.Encodable.mtsFpsr : ∀ a0, Laws.Encodable.Statement (.mtsFpsr a0) := fun _ _ => rfl
theorem Laws.Encodable.mtsPriv : ∀ a0, Laws.Encodable.Statement (.mtsPriv a0) := fun _ _ => rfl
theorem Laws.Encodable.mtsRseq : ∀ a0, Laws.Encodable.Statement (.mtsRseq a0) := fun _ _ => rfl
theorem Laws.Encodable.ifence : Laws.Encodable.Statement .ifence := fun _ => rfl
theorem Laws.Encodable.rand : ∀ a0, Laws.Encodable.Statement (.rand a0) := fun _ _ => rfl
theorem Laws.Encodable.randR16 : ∀ a0, Laws.Encodable.Statement (.randR16 a0) := fun _ _ => rfl
theorem Laws.Encodable.add : ∀ a0 a1 a2 a3, Laws.Encodable.Statement (.add a0 a1 a2 a3) := fun _ _ _ _ _ => rfl
theorem Laws.Encodable.sub : ∀ a0 a1 a2 a3, Laws.Encodable.Statement (.sub a0 a1 a2 a3) := fun _ _ _ _ _ => rfl
theorem Laws.Encodable.mul : ∀ a0 a1 a2 a3, Laws.Encodable.Statement (.mul a0 a1 a2 a3) := fun _ _ _ _ _ => rfl
theorem Laws.Encodable.mulh : ∀ a0 a1 a2 a3, Laws.Encodable.Statement (.mulh a0 a1 a2 a3) := fun _ _ _ _ _ => rfl
theorem Laws.Encodable.div : ∀ a0 a1 a2 a3, Laws.Encodable.Statement (.div a0 a1 a2 a3) := fun _ _ _ _ _ => rfl
theorem Laws.Encodable.rem : ∀ a0 a1 a2 a3, Laws.Encodable.Statement (.rem a0 a1 a2 a3) := fun _ _ _ _ _ => rfl
theorem Laws.Encodable.and : ∀ a0 a1 a2 a3, Laws.Encodable.Statement (.and a0 a1 a2 a3) := fun _ _ _ _ _ => rfl
theorem Laws.Encodable.or : ∀ a0 a1 a2 a3, Laws.Encodable.Statement (.or a0 a1 a2 a3) := fun _ _ _ _ _ => rfl
theorem Laws.Encodable.xor : ∀ a0 a1 a2 a3, Laws.Encodable.Statement (.xor a0 a1 a2 a3) := fun _ _ _ _ _ => rfl
theorem Laws.Encodable.andn : ∀ a0 a1 a2 a3, Laws.Encodable.Statement (.andn a0 a1 a2 a3) := fun _ _ _ _ _ => rfl
theorem Laws.Encodable.min : ∀ a0 a1 a2 a3, Laws.Encodable.Statement (.min a0 a1 a2 a3) := fun _ _ _ _ _ => rfl
theorem Laws.Encodable.max : ∀ a0 a1 a2 a3, Laws.Encodable.Statement (.max a0 a1 a2 a3) := fun _ _ _ _ _ => rfl
theorem Laws.Encodable.sel : ∀ a0 a1 a2 a3 a4, Laws.Encodable.Statement (.sel a0 a1 a2 a3 a4) := fun _ _ _ _ _ _ => rfl
theorem Laws.Encodable.madd : ∀ a0 a1 a2 a3 a4, Laws.Encodable.Statement (.madd a0 a1 a2 a3 a4) := fun _ _ _ _ _ _ => rfl
theorem Laws.Encodable.adds : ∀ a0 a1 a2 a3 a4, Laws.Encodable.Statement (.adds a0 a1 a2 a3 a4) := fun _ _ _ _ _ _ => rfl
theorem Laws.Encodable.absd : ∀ a0 a1 a2 a3, Laws.Encodable.Statement (.absd a0 a1 a2 a3) := fun _ _ _ _ _ => rfl
theorem Laws.Encodable.addi : ∀ a0 a1 a2 a3, Laws.Encodable.Statement (.addi a0 a1 a2 a3) := fun _ _ _ _ _ => rfl
theorem Laws.Encodable.muli : ∀ a0 a1 a2 a3, Laws.Encodable.Statement (.muli a0 a1 a2 a3) := fun _ _ _ _ _ => rfl
theorem Laws.Encodable.andi : ∀ a0 a1 a2 a3, Laws.Encodable.Statement (.andi a0 a1 a2 a3) := fun _ _ _ _ _ => rfl
theorem Laws.Encodable.ori : ∀ a0 a1 a2 a3, Laws.Encodable.Statement (.ori a0 a1 a2 a3) := fun _ _ _ _ _ => rfl
theorem Laws.Encodable.xori : ∀ a0 a1 a2 a3, Laws.Encodable.Statement (.xori a0 a1 a2 a3) := fun _ _ _ _ _ => rfl
theorem Laws.Encodable.ldi : ∀ a0 a1 a2, Laws.Encodable.Statement (.ldi a0 a1 a2) := fun _ _ _ _ => rfl
theorem Laws.Encodable.lea : ∀ a0 a1 a2, Laws.Encodable.Statement (.lea a0 a1 a2) := fun _ _ _ _ => rfl
theorem Laws.Encodable.sll : ∀ a0 a1 a2 a3, Laws.Encodable.Statement (.sll a0 a1 a2 a3) := fun _ _ _ _ _ => rfl
theorem Laws.Encodable.srl : ∀ a0 a1 a2 a3, Laws.Encodable.Statement (.srl a0 a1 a2 a3) := fun _ _ _ _ _ => rfl
theorem Laws.Encodable.sra : ∀ a0 a1 a2 a3, Laws.Encodable.Statement (.sra a0 a1 a2 a3) := fun _ _ _ _ _ => rfl
theorem Laws.Encodable.slli : ∀ a0 a1 a2 a3, Laws.Encodable.Statement (.slli a0 a1 a2 a3) := fun _ _ _ _ _ => rfl
theorem Laws.Encodable.srli : ∀ a0 a1 a2 a3, Laws.Encodable.Statement (.srli a0 a1 a2 a3) := fun _ _ _ _ _ => rfl
theorem Laws.Encodable.srai : ∀ a0 a1 a2 a3, Laws.Encodable.Statement (.srai a0 a1 a2 a3) := fun _ _ _ _ _ => rfl
theorem Laws.Encodable.rot : ∀ a0 a1 a2 a3, Laws.Encodable.Statement (.rot a0 a1 a2 a3) := fun _ _ _ _ _ => rfl
theorem Laws.Encodable.clz : ∀ a0 a1 a2, Laws.Encodable.Statement (.clz a0 a1 a2) := fun _ _ _ _ => rfl
theorem Laws.Encodable.ctz : ∀ a0 a1 a2, Laws.Encodable.Statement (.ctz a0 a1 a2) := fun _ _ _ _ => rfl
theorem Laws.Encodable.popc : ∀ a0 a1 a2, Laws.Encodable.Statement (.popc a0 a1 a2) := fun _ _ _ _ => rfl
theorem Laws.Encodable.brev : ∀ a0 a1 a2, Laws.Encodable.Statement (.brev a0 a1 a2) := fun _ _ _ _ => rfl
theorem Laws.Encodable.bfx : ∀ a0 a1 a2 a3 a4, Laws.Encodable.Statement (.bfx a0 a1 a2 a3 a4) := fun _ _ _ _ _ _ => rfl
theorem Laws.Encodable.bfi : ∀ a0 a1 a2 a3 a4, Laws.Encodable.Statement (.bfi a0 a1 a2 a3 a4) := fun _ _ _ _ _ _ => rfl
theorem Laws.Encodable.xfold : ∀ a0 a1 a2 a3, Laws.Encodable.Statement (.xfold a0 a1 a2 a3) := fun _ _ _ _ _ => rfl
theorem Laws.Encodable.cmp : ∀ a0 a1 a2 a3 a4, Laws.Encodable.Statement (.cmp a0 a1 a2 a3 a4) := fun _ _ _ _ _ _ => rfl
theorem Laws.Encodable.cmpi : ∀ a0 a1 a2 a3 a4, Laws.Encodable.Statement (.cmpi a0 a1 a2 a3 a4) := fun _ _ _ _ _ _ => rfl
theorem Laws.Encodable.plog : ∀ a0 a1 a2 a3, Laws.Encodable.Statement (.plog a0 a1 a2 a3) := fun _ _ _ _ _ => rfl
theorem Laws.Encodable.pmovTox : ∀ a0, Laws.Encodable.Statement (.pmovTox a0) := fun _ _ => rfl
theorem Laws.Encodable.pmovFromx : ∀ a0, Laws.Encodable.Statement (.pmovFromx a0) := fun _ _ => rfl
theorem Laws.Encodable.pmovNz : ∀ a0 a1, Laws.Encodable.Statement (.pmovNz a0 a1) := fun _ _ _ => rfl
theorem Laws.Encodable.br : ∀ a0 a1, Laws.Encodable.Statement (.br a0 a1) := fun _ _ _ => rfl
theorem Laws.Encodable.call : ∀ a0 a1, Laws.Encodable.Statement (.call a0 a1) := fun _ _ _ => rfl
theorem Laws.Encodable.callR : ∀ a0, Laws.Encodable.Statement (.callR a0) := fun _ _ => rfl
theorem Laws.Encodable.ret : ∀ a0, Laws.Encodable.Statement (.ret a0) := fun _ _ => rfl
theorem Laws.Encodable.jmp : ∀ a0, Laws.Encodable.Statement (.jmp a0) := fun _ _ => rfl
theorem Laws.Encodable.loop : ∀ a0 a1 a2, Laws.Encodable.Statement (.loop a0 a1 a2) := fun _ _ _ _ => rfl
theorem Laws.Encodable.brz : ∀ a0 a1 a2 a3, Laws.Encodable.Statement (.brz a0 a1 a2 a3) := fun _ _ _ _ _ => rfl
theorem Laws.Encodable.brcmp : ∀ a0 a1 a2 a3 a4, Laws.Encodable.Statement (.brcmp a0 a1 a2 a3 a4) := fun _ _ _ _ _ _ => rfl
theorem Laws.Encodable.ld : ∀ a0 a1 a2 a3 a4 a5 a6 a7 a8 a9, Laws.Encodable.Statement (.ld a0 a1 a2 a3 a4 a5 a6 a7 a8 a9) := fun _ _ _ _ _ _ _ _ _ _ _ => rfl
theorem Laws.Encodable.st : ∀ a0 a1 a2 a3 a4 a5 a6 a7 a8, Laws.Encodable.Statement (.st a0 a1 a2 a3 a4 a5 a6 a7 a8) := fun _ _ _ _ _ _ _ _ _ _ => rfl
theorem Laws.Encodable.ldf : ∀ a0 a1 a2 a3 a4 a5 a6 a7 a8, Laws.Encodable.Statement (.ldf a0 a1 a2 a3 a4 a5 a6 a7 a8) := fun _ _ _ _ _ _ _ _ _ _ => rfl
theorem Laws.Encodable.stf : ∀ a0 a1 a2 a3 a4 a5 a6 a7 a8, Laws.Encodable.Statement (.stf a0 a1 a2 a3 a4 a5 a6 a7 a8) := fun _ _ _ _ _ _ _ _ _ _ => rfl
theorem Laws.Encodable.ldp : ∀ a0 a1 a2 a3 a4 a5 a6 a7 a8, Laws.Encodable.Statement (.ldp a0 a1 a2 a3 a4 a5 a6 a7 a8) := fun _ _ _ _ _ _ _ _ _ _ => rfl
theorem Laws.Encodable.stp : ∀ a0 a1 a2 a3 a4 a5 a6 a7 a8, Laws.Encodable.Statement (.stp a0 a1 a2 a3 a4 a5 a6 a7 a8) := fun _ _ _ _ _ _ _ _ _ _ => rfl
theorem Laws.Encodable.ldb : ∀ a0 a1 a2 a3 a4 a5 a6 a7, Laws.Encodable.Statement (.ldb a0 a1 a2 a3 a4 a5 a6 a7) := fun _ _ _ _ _ _ _ _ _ => rfl
theorem Laws.Encodable.stb : ∀ a0 a1 a2 a3 a4 a5 a6, Laws.Encodable.Statement (.stb a0 a1 a2 a3 a4 a5 a6) := fun _ _ _ _ _ _ _ _ => rfl
theorem Laws.Encodable.prefL1 : ∀ a0 a1 a2 a3 a4, Laws.Encodable.Statement (.prefL1 a0 a1 a2 a3 a4) := fun _ _ _ _ _ _ => rfl
theorem Laws.Encodable.prefL2 : ∀ a0 a1 a2 a3 a4, Laws.Encodable.Statement (.prefL2 a0 a1 a2 a3 a4) := fun _ _ _ _ _ _ => rfl
theorem Laws.Encodable.drain : Laws.Encodable.Statement .drain := fun _ => rfl
theorem Laws.Encodable.drainL : ∀ a0 a1 a2 a3, Laws.Encodable.Statement (.drainL a0 a1 a2 a3) := fun _ _ _ _ _ => rfl
theorem Laws.Encodable.amoAdd : ∀ a0 a1 a2 a3 a4 a5 a6, Laws.Encodable.Statement (.amoAdd a0 a1 a2 a3 a4 a5 a6) := fun _ _ _ _ _ _ _ _ => rfl
theorem Laws.Encodable.amoAnd : ∀ a0 a1 a2 a3 a4 a5 a6, Laws.Encodable.Statement (.amoAnd a0 a1 a2 a3 a4 a5 a6) := fun _ _ _ _ _ _ _ _ => rfl
theorem Laws.Encodable.amoOr : ∀ a0 a1 a2 a3 a4 a5 a6, Laws.Encodable.Statement (.amoOr a0 a1 a2 a3 a4 a5 a6) := fun _ _ _ _ _ _ _ _ => rfl
theorem Laws.Encodable.amoXor : ∀ a0 a1 a2 a3 a4 a5 a6, Laws.Encodable.Statement (.amoXor a0 a1 a2 a3 a4 a5 a6) := fun _ _ _ _ _ _ _ _ => rfl
theorem Laws.Encodable.amoSmin : ∀ a0 a1 a2 a3 a4 a5 a6, Laws.Encodable.Statement (.amoSmin a0 a1 a2 a3 a4 a5 a6) := fun _ _ _ _ _ _ _ _ => rfl
theorem Laws.Encodable.amoSmax : ∀ a0 a1 a2 a3 a4 a5 a6, Laws.Encodable.Statement (.amoSmax a0 a1 a2 a3 a4 a5 a6) := fun _ _ _ _ _ _ _ _ => rfl
theorem Laws.Encodable.amoUmin : ∀ a0 a1 a2 a3 a4 a5 a6, Laws.Encodable.Statement (.amoUmin a0 a1 a2 a3 a4 a5 a6) := fun _ _ _ _ _ _ _ _ => rfl
theorem Laws.Encodable.amoUmax : ∀ a0 a1 a2 a3 a4 a5 a6, Laws.Encodable.Statement (.amoUmax a0 a1 a2 a3 a4 a5 a6) := fun _ _ _ _ _ _ _ _ => rfl
theorem Laws.Encodable.amoSwap : ∀ a0 a1 a2 a3 a4 a5 a6, Laws.Encodable.Statement (.amoSwap a0 a1 a2 a3 a4 a5 a6) := fun _ _ _ _ _ _ _ _ => rfl
theorem Laws.Encodable.cas : ∀ a0 a1 a2 a3 a4 a5 a6, Laws.Encodable.Statement (.cas a0 a1 a2 a3 a4 a5 a6) := fun _ _ _ _ _ _ _ _ => rfl
theorem Laws.Encodable.amofAdd : ∀ a0 a1 a2 a3 a4 a5 a6, Laws.Encodable.Statement (.amofAdd a0 a1 a2 a3 a4 a5 a6) := fun _ _ _ _ _ _ _ _ => rfl
theorem Laws.Encodable.amofMin : ∀ a0 a1 a2 a3 a4 a5 a6, Laws.Encodable.Statement (.amofMin a0 a1 a2 a3 a4 a5 a6) := fun _ _ _ _ _ _ _ _ => rfl
theorem Laws.Encodable.amofMax : ∀ a0 a1 a2 a3 a4 a5 a6, Laws.Encodable.Statement (.amofMax a0 a1 a2 a3 a4 a5 a6) := fun _ _ _ _ _ _ _ _ => rfl
theorem Laws.Encodable.fence : ∀ a0 a1, Laws.Encodable.Statement (.fence a0 a1) := fun _ _ _ => rfl
theorem Laws.Encodable.barw : ∀ a0 a1 a2 a3 a4 a5 a6 a7, Laws.Encodable.Statement (.barw a0 a1 a2 a3 a4 a5 a6 a7) := fun _ _ _ _ _ _ _ _ _ => rfl
theorem Laws.Encodable.waitv : ∀ a0 a1 a2 a3 a4 a5 a6 a7, Laws.Encodable.Statement (.waitv a0 a1 a2 a3 a4 a5 a6 a7) := fun _ _ _ _ _ _ _ _ _ => rfl
theorem Laws.Encodable.fork : ∀ a0 a1 a2 a3 a4, Laws.Encodable.Statement (.fork a0 a1 a2 a3 a4) := fun _ _ _ _ _ _ => rfl
theorem Laws.Encodable.forkJ : ∀ a0 a1 a2 a3 a4 a5, Laws.Encodable.Statement (.forkJ a0 a1 a2 a3 a4 a5) := fun _ _ _ _ _ _ _ => rfl
theorem Laws.Encodable.join : ∀ a0, Laws.Encodable.Statement (.join a0) := fun _ _ => rfl
theorem Laws.Encodable.retire : Laws.Encodable.Statement .retire := fun _ => rfl
theorem Laws.Encodable.retireJ : ∀ a0, Laws.Encodable.Statement (.retireJ a0) := fun _ _ => rfl
theorem Laws.Encodable.yield : ∀ a0, Laws.Encodable.Statement (.yield a0) := fun _ _ => rfl
theorem Laws.Encodable.park : ∀ a0, Laws.Encodable.Statement (.park a0) := fun _ _ => rfl
theorem Laws.Encodable.parkRel : ∀ a0, Laws.Encodable.Statement (.parkRel a0) := fun _ _ => rfl
theorem Laws.Encodable.send : ∀ a0 a1, Laws.Encodable.Statement (.send a0 a1) := fun _ _ _ => rfl
theorem Laws.Encodable.waitf : ∀ a0 a1 a2 a3 a4 a5, Laws.Encodable.Statement (.waitf a0 a1 a2 a3 a4 a5) := fun _ _ _ _ _ _ _ => rfl
theorem Laws.Encodable.waitfE : ∀ a0 a1 a2 a3 a4 a5, Laws.Encodable.Statement (.waitfE a0 a1 a2 a3 a4 a5) := fun _ _ _ _ _ _ _ => rfl
theorem Laws.Encodable.fill : ∀ a0 a1 a2 a3 a4 a5, Laws.Encodable.Statement (.fill a0 a1 a2 a3 a4 a5) := fun _ _ _ _ _ _ _ => rfl
theorem Laws.Encodable.empty : ∀ a0 a1 a2 a3 a4, Laws.Encodable.Statement (.empty a0 a1 a2 a3 a4) := fun _ _ _ _ _ _ => rfl
theorem Laws.Encodable.dqpush : ∀ a0 a1, Laws.Encodable.Statement (.dqpush a0 a1) := fun _ _ _ => rfl
theorem Laws.Encodable.dqpop : ∀ a0 a1, Laws.Encodable.Statement (.dqpop a0 a1) := fun _ _ _ => rfl
theorem Laws.Encodable.dqsplit : ∀ a0 a1 a2 a3, Laws.Encodable.Statement (.dqsplit a0 a1 a2 a3) := fun _ _ _ _ _ => rfl
theorem Laws.Encodable.dqsteal : ∀ a0 a1, Laws.Encodable.Statement (.dqsteal a0 a1) := fun _ _ _ => rfl
theorem Laws.Encodable.dqstealAt : ∀ a0 a1 a2, Laws.Encodable.Statement (.dqstealAt a0 a1 a2) := fun _ _ _ _ => rfl
theorem Laws.Encodable.dqrun : Laws.Encodable.Statement .dqrun := fun _ => rfl
theorem Laws.Encodable.launch : ∀ a0 a1 a2 a3, Laws.Encodable.Statement (.launch a0 a1 a2 a3) := fun _ _ _ _ _ => rfl
theorem Laws.Encodable.lwait : ∀ a0 a1, Laws.Encodable.Statement (.lwait a0 a1) := fun _ _ _ => rfl
theorem Laws.Encodable.qalloc : ∀ a0 a1, Laws.Encodable.Statement (.qalloc a0 a1) := fun _ _ _ => rfl
theorem Laws.Encodable.qfree : ∀ a0, Laws.Encodable.Statement (.qfree a0) := fun _ _ => rfl
theorem Laws.Encodable.qlogAnd : ∀ a0 a1 a2 a3, Laws.Encodable.Statement (.qlogAnd a0 a1 a2 a3) := fun _ _ _ _ _ => rfl
theorem Laws.Encodable.qlogOr : ∀ a0 a1 a2 a3, Laws.Encodable.Statement (.qlogOr a0 a1 a2 a3) := fun _ _ _ _ _ => rfl
theorem Laws.Encodable.qlogXor : ∀ a0 a1 a2 a3, Laws.Encodable.Statement (.qlogXor a0 a1 a2 a3) := fun _ _ _ _ _ => rfl
theorem Laws.Encodable.qlogAndn : ∀ a0 a1 a2 a3, Laws.Encodable.Statement (.qlogAndn a0 a1 a2 a3) := fun _ _ _ _ _ => rfl
theorem Laws.Encodable.qlogCopy : ∀ a0 a1 a2, Laws.Encodable.Statement (.qlogCopy a0 a1 a2) := fun _ _ _ _ => rfl
theorem Laws.Encodable.qlogClear : ∀ a0 a1, Laws.Encodable.Statement (.qlogClear a0 a1) := fun _ _ _ => rfl
theorem Laws.Encodable.qlogFull : ∀ a0 a1, Laws.Encodable.Statement (.qlogFull a0 a1) := fun _ _ _ => rfl
theorem Laws.Encodable.qlogNot : ∀ a0 a1 a2, Laws.Encodable.Statement (.qlogNot a0 a1 a2) := fun _ _ _ _ => rfl
theorem Laws.Encodable.qbitSet : ∀ a0 a1 a2, Laws.Encodable.Statement (.qbitSet a0 a1 a2) := fun _ _ _ _ => rfl
theorem Laws.Encodable.qbitClr : ∀ a0 a1 a2, Laws.Encodable.Statement (.qbitClr a0 a1 a2) := fun _ _ _ _ => rfl
theorem Laws.Encodable.qpop : ∀ a0 a1 a2, Laws.Encodable.Statement (.qpop a0 a1 a2) := fun _ _ _ _ => rfl
theorem Laws.Encodable.qcnt : ∀ a0 a1 a2, Laws.Encodable.Statement (.qcnt a0 a1 a2) := fun _ _ _ _ => rfl
theorem Laws.Encodable.qtest : ∀ a0 a1 a2, Laws.Encodable.Statement (.qtest a0 a1 a2) := fun _ _ _ _ => rfl
theorem Laws.Encodable.qeqEmpty : ∀ a0 a1, Laws.Encodable.Statement (.qeqEmpty a0 a1) := fun _ _ _ => rfl
theorem Laws.Encodable.qeqEq : ∀ a0 a1 a2, Laws.Encodable.Statement (.qeqEq a0 a1 a2) := fun _ _ _ _ => rfl
theorem Laws.Encodable.qeqSub : ∀ a0 a1 a2, Laws.Encodable.Statement (.qeqSub a0 a1 a2) := fun _ _ _ _ => rfl
theorem Laws.Encodable.qeqDisj : ∀ a0 a1 a2, Laws.Encodable.Statement (.qeqDisj a0 a1 a2) := fun _ _ _ _ => rfl
theorem Laws.Encodable.qaddr : ∀ a0 a1, Laws.Encodable.Statement (.qaddr a0 a1) := fun _ _ _ => rfl
theorem Laws.Encodable.qaddrQn : ∀ a0 a1, Laws.Encodable.Statement (.qaddrQn a0 a1) := fun _ _ _ => rfl
theorem Laws.Encodable.qwin : ∀ a0 a1, Laws.Encodable.Statement (.qwin a0 a1) := fun _ _ _ => rfl
theorem Laws.Encodable.qmask : ∀ a0 a1 a2 a3, Laws.Encodable.Statement (.qmask a0 a1 a2 a3) := fun _ _ _ _ _ => rfl
theorem Laws.Encodable.qsplit : ∀ a0 a1 a2 a3 a4, Laws.Encodable.Statement (.qsplit a0 a1 a2 a3 a4) := fun _ _ _ _ _ _ => rfl
theorem Laws.Encodable.qmovTox : ∀ a0 a1, Laws.Encodable.Statement (.qmovTox a0 a1) := fun _ _ _ => rfl
theorem Laws.Encodable.qmovFromx : ∀ a0 a1, Laws.Encodable.Statement (.qmovFromx a0 a1) := fun _ _ _ => rfl
theorem Laws.Encodable.qmovLd : ∀ a0 a1 a2, Laws.Encodable.Statement (.qmovLd a0 a1 a2) := fun _ _ _ _ => rfl
theorem Laws.Encodable.qmovSt : ∀ a0 a1 a2, Laws.Encodable.Statement (.qmovSt a0 a1 a2) := fun _ _ _ _ => rfl
theorem Laws.Encodable.arrive : ∀ a0 a1 a2 a3, Laws.Encodable.Statement (.arrive a0 a1 a2 a3) := fun _ _ _ _ _ => rfl
theorem Laws.Encodable.depart : ∀ a0 a1 a2 a3, Laws.Encodable.Statement (.depart a0 a1 a2 a3) := fun _ _ _ _ _ => rfl
theorem Laws.Encodable.departW : ∀ a0 a1 a2 a3, Laws.Encodable.Statement (.departW a0 a1 a2 a3) := fun _ _ _ _ _ => rfl
theorem Laws.Encodable.qfork : ∀ a0 a1 a2 a3 a4, Laws.Encodable.Statement (.qfork a0 a1 a2 a3 a4) := fun _ _ _ _ _ _ => rfl
theorem Laws.Encodable.scfg : ∀ a0 a1 a2 a3 a4 a5 a6 a7, Laws.Encodable.Statement (.scfg a0 a1 a2 a3 a4 a5 a6 a7) := fun _ _ _ _ _ _ _ _ _ => rfl
theorem Laws.Encodable.scfgm : ∀ a0 a1 a2 a3 a4 a5, Laws.Encodable.Statement (.scfgm a0 a1 a2 a3 a4 a5) := fun _ _ _ _ _ _ _ => rfl
theorem Laws.Encodable.sen : ∀ a0, Laws.Encodable.Statement (.sen a0) := fun _ _ => rfl
theorem Laws.Encodable.sdis : ∀ a0, Laws.Encodable.Statement (.sdis a0) := fun _ _ => rfl
theorem Laws.Encodable.swait : ∀ a0, Laws.Encodable.Statement (.swait a0) := fun _ _ => rfl
theorem Laws.Encodable.vadd : ∀ a0 a1 a2 a3 a4 a5, Laws.Encodable.Statement (.vadd a0 a1 a2 a3 a4 a5) := fun _ _ _ _ _ _ _ => rfl
theorem Laws.Encodable.vsub : ∀ a0 a1 a2 a3 a4 a5, Laws.Encodable.Statement (.vsub a0 a1 a2 a3 a4 a5) := fun _ _ _ _ _ _ _ => rfl
theorem Laws.Encodable.vmul : ∀ a0 a1 a2 a3 a4 a5, Laws.Encodable.Statement (.vmul a0 a1 a2 a3 a4 a5) := fun _ _ _ _ _ _ _ => rfl
theorem Laws.Encodable.vfma : ∀ a0 a1 a2 a3 a4 a5 a6, Laws.Encodable.Statement (.vfma a0 a1 a2 a3 a4 a5 a6) := fun _ _ _ _ _ _ _ _ => rfl
theorem Laws.Encodable.vfmaMs : ∀ a0 a1 a2 a3 a4 a5 a6, Laws.Encodable.Statement (.vfmaMs a0 a1 a2 a3 a4 a5 a6) := fun _ _ _ _ _ _ _ _ => rfl
theorem Laws.Encodable.vfmaNma : ∀ a0 a1 a2 a3 a4 a5 a6, Laws.Encodable.Statement (.vfmaNma a0 a1 a2 a3 a4 a5 a6) := fun _ _ _ _ _ _ _ _ => rfl
theorem Laws.Encodable.vfmaNms : ∀ a0 a1 a2 a3 a4 a5 a6, Laws.Encodable.Statement (.vfmaNms a0 a1 a2 a3 a4 a5 a6) := fun _ _ _ _ _ _ _ _ => rfl
theorem Laws.Encodable.vmin : ∀ a0 a1 a2 a3 a4, Laws.Encodable.Statement (.vmin a0 a1 a2 a3 a4) := fun _ _ _ _ _ _ => rfl
theorem Laws.Encodable.vmax : ∀ a0 a1 a2 a3 a4, Laws.Encodable.Statement (.vmax a0 a1 a2 a3 a4) := fun _ _ _ _ _ _ => rfl
theorem Laws.Encodable.vsgnCpy : ∀ a0 a1 a2 a3 a4, Laws.Encodable.Statement (.vsgnCpy a0 a1 a2 a3 a4) := fun _ _ _ _ _ _ => rfl
theorem Laws.Encodable.vsgnNeg : ∀ a0 a1 a2 a3 a4, Laws.Encodable.Statement (.vsgnNeg a0 a1 a2 a3 a4) := fun _ _ _ _ _ _ => rfl
theorem Laws.Encodable.vsgnXor : ∀ a0 a1 a2 a3 a4, Laws.Encodable.Statement (.vsgnXor a0 a1 a2 a3 a4) := fun _ _ _ _ _ _ => rfl
theorem Laws.Encodable.vcmp : ∀ a0 a1 a2 a3 a4 a5 a6 a7, Laws.Encodable.Statement (.vcmp a0 a1 a2 a3 a4 a5 a6 a7) := fun _ _ _ _ _ _ _ _ _ => rfl
theorem Laws.Encodable.vsel : ∀ a0 a1 a2 a3 a4 a5, Laws.Encodable.Statement (.vsel a0 a1 a2 a3 a4 a5) := fun _ _ _ _ _ _ _ => rfl
theorem Laws.Encodable.vdiv : ∀ a0 a1 a2 a3 a4 a5, Laws.Encodable.Statement (.vdiv a0 a1 a2 a3 a4 a5) := fun _ _ _ _ _ _ _ => rfl
theorem Laws.Encodable.vsqrt : ∀ a0 a1 a2 a3, Laws.Encodable.Statement (.vsqrt a0 a1 a2 a3) := fun _ _ _ _ _ => rfl
theorem Laws.Encodable.vredSum : ∀ a0 a1 a2 a3, Laws.Encodable.Statement (.vredSum a0 a1 a2 a3) := fun _ _ _ _ _ => rfl
theorem Laws.Encodable.vredMin : ∀ a0 a1 a2 a3, Laws.Encodable.Statement (.vredMin a0 a1 a2 a3) := fun _ _ _ _ _ => rfl
theorem Laws.Encodable.vredMax : ∀ a0 a1 a2 a3, Laws.Encodable.Statement (.vredMax a0 a1 a2 a3) := fun _ _ _ _ _ => rfl
theorem Laws.Encodable.vdot : ∀ a0 a1 a2 a3 a4 a5, Laws.Encodable.Statement (.vdot a0 a1 a2 a3 a4 a5) := fun _ _ _ _ _ _ _ => rfl
theorem Laws.Encodable.vmov : ∀ a0 a1 a2, Laws.Encodable.Statement (.vmov a0 a1 a2) := fun _ _ _ _ => rfl
theorem Laws.Encodable.vsclI : ∀ a0 a1 a2 a3 a4, Laws.Encodable.Statement (.vsclI a0 a1 a2 a3 a4) := fun _ _ _ _ _ _ => rfl
theorem Laws.Encodable.vsclE : ∀ a0 a1 a2 a3 a4 a5, Laws.Encodable.Statement (.vsclE a0 a1 a2 a3 a4 a5) := fun _ _ _ _ _ _ _ => rfl
theorem Laws.Encodable.vcls : ∀ a0 a1 a2 a3 a4, Laws.Encodable.Statement (.vcls a0 a1 a2 a3 a4) := fun _ _ _ _ _ _ => rfl
theorem Laws.Encodable.vexp : ∀ a0 a1 a2, Laws.Encodable.Statement (.vexp a0 a1 a2) := fun _ _ _ _ => rfl
theorem Laws.Encodable.vlog : ∀ a0 a1 a2, Laws.Encodable.Statement (.vlog a0 a1 a2) := fun _ _ _ _ => rfl
theorem Laws.Encodable.vrcp : ∀ a0 a1 a2, Laws.Encodable.Statement (.vrcp a0 a1 a2) := fun _ _ _ _ => rfl
theorem Laws.Encodable.vrsq : ∀ a0 a1 a2, Laws.Encodable.Statement (.vrsq a0 a1 a2) := fun _ _ _ _ => rfl
theorem Laws.Encodable.vsinpi : ∀ a0 a1 a2, Laws.Encodable.Statement (.vsinpi a0 a1 a2) := fun _ _ _ _ => rfl
theorem Laws.Encodable.vcospi : ∀ a0 a1 a2, Laws.Encodable.Statement (.vcospi a0 a1 a2) := fun _ _ _ _ => rfl
theorem Laws.Encodable.vtanh : ∀ a0 a1 a2, Laws.Encodable.Statement (.vtanh a0 a1 a2) := fun _ _ _ _ => rfl
theorem Laws.Encodable.viaddAdd : ∀ a0 a1 a2 a3 a4, Laws.Encodable.Statement (.viaddAdd a0 a1 a2 a3 a4) := fun _ _ _ _ _ _ => rfl
theorem Laws.Encodable.viaddSub : ∀ a0 a1 a2 a3 a4, Laws.Encodable.Statement (.viaddSub a0 a1 a2 a3 a4) := fun _ _ _ _ _ _ => rfl
theorem Laws.Encodable.viaddAdds : ∀ a0 a1 a2 a3 a4, Laws.Encodable.Statement (.viaddAdds a0 a1 a2 a3 a4) := fun _ _ _ _ _ _ => rfl
theorem Laws.Encodable.viaddSubs : ∀ a0 a1 a2 a3 a4, Laws.Encodable.Statement (.viaddSubs a0 a1 a2 a3 a4) := fun _ _ _ _ _ _ => rfl
theorem Laws.Encodable.viaddMin : ∀ a0 a1 a2 a3 a4, Laws.Encodable.Statement (.viaddMin a0 a1 a2 a3 a4) := fun _ _ _ _ _ _ => rfl
theorem Laws.Encodable.viaddMax : ∀ a0 a1 a2 a3 a4, Laws.Encodable.Statement (.viaddMax a0 a1 a2 a3 a4) := fun _ _ _ _ _ _ => rfl
theorem Laws.Encodable.viaddAbsd : ∀ a0 a1 a2 a3 a4, Laws.Encodable.Statement (.viaddAbsd a0 a1 a2 a3 a4) := fun _ _ _ _ _ _ => rfl
theorem Laws.Encodable.vimulLo : ∀ a0 a1 a2 a3 a4, Laws.Encodable.Statement (.vimulLo a0 a1 a2 a3 a4) := fun _ _ _ _ _ _ => rfl
theorem Laws.Encodable.vimulHi : ∀ a0 a1 a2 a3 a4, Laws.Encodable.Statement (.vimulHi a0 a1 a2 a3 a4) := fun _ _ _ _ _ _ => rfl
theorem Laws.Encodable.vimulHiu : ∀ a0 a1 a2 a3 a4, Laws.Encodable.Statement (.vimulHiu a0 a1 a2 a3 a4) := fun _ _ _ _ _ _ => rfl
theorem Laws.Encodable.vlogicAnd : ∀ a0 a1 a2 a3 a4, Laws.Encodable.Statement (.vlogicAnd a0 a1 a2 a3 a4) := fun _ _ _ _ _ _ => rfl
theorem Laws.Encodable.vlogicOr : ∀ a0 a1 a2 a3 a4, Laws.Encodable.Statement (.vlogicOr a0 a1 a2 a3 a4) := fun _ _ _ _ _ _ => rfl
theorem Laws.Encodable.vlogicXor : ∀ a0 a1 a2 a3 a4, Laws.Encodable.Statement (.vlogicXor a0 a1 a2 a3 a4) := fun _ _ _ _ _ _ => rfl
theorem Laws.Encodable.vlogicAndn : ∀ a0 a1 a2 a3 a4, Laws.Encodable.Statement (.vlogicAndn a0 a1 a2 a3 a4) := fun _ _ _ _ _ _ => rfl
theorem Laws.Encodable.vlogicNot : ∀ a0 a1 a2, Laws.Encodable.Statement (.vlogicNot a0 a1 a2) := fun _ _ _ _ => rfl
theorem Laws.Encodable.vshfSll : ∀ a0 a1 a2 a3 a4, Laws.Encodable.Statement (.vshfSll a0 a1 a2 a3 a4) := fun _ _ _ _ _ _ => rfl
theorem Laws.Encodable.vshfSrl : ∀ a0 a1 a2 a3 a4, Laws.Encodable.Statement (.vshfSrl a0 a1 a2 a3 a4) := fun _ _ _ _ _ _ => rfl
theorem Laws.Encodable.vshfSra : ∀ a0 a1 a2 a3 a4, Laws.Encodable.Statement (.vshfSra a0 a1 a2 a3 a4) := fun _ _ _ _ _ _ => rfl
theorem Laws.Encodable.vshfRot : ∀ a0 a1 a2 a3 a4, Laws.Encodable.Statement (.vshfRot a0 a1 a2 a3 a4) := fun _ _ _ _ _ _ => rfl
theorem Laws.Encodable.cvt : ∀ a0 a1 a2 a3 a4 a5, Laws.Encodable.Statement (.cvt a0 a1 a2 a3 a4 a5) := fun _ _ _ _ _ _ _ => rfl
theorem Laws.Encodable.cvti : ∀ a0 a1 a2 a3 a4 a5, Laws.Encodable.Statement (.cvti a0 a1 a2 a3 a4 a5) := fun _ _ _ _ _ _ _ => rfl
theorem Laws.Encodable.pack : ∀ a0 a1 a2 a3 a4 a5 a6, Laws.Encodable.Statement (.pack a0 a1 a2 a3 a4 a5 a6) := fun _ _ _ _ _ _ _ _ => rfl
theorem Laws.Encodable.packStrm : ∀ a0 a1 a2 a3 a4 a5, Laws.Encodable.Statement (.packStrm a0 a1 a2 a3 a4 a5) := fun _ _ _ _ _ _ _ => rfl
theorem Laws.Encodable.unpk : ∀ a0 a1 a2 a3 a4 a5, Laws.Encodable.Statement (.unpk a0 a1 a2 a3 a4 a5) := fun _ _ _ _ _ _ _ => rfl
theorem Laws.Encodable.unpkHi : ∀ a0 a1 a2 a3 a4 a5, Laws.Encodable.Statement (.unpkHi a0 a1 a2 a3 a4 a5) := fun _ _ _ _ _ _ _ => rfl
theorem Laws.Encodable.unpkStrm : ∀ a0 a1 a2 a3 a4 a5, Laws.Encodable.Statement (.unpkStrm a0 a1 a2 a3 a4 a5) := fun _ _ _ _ _ _ _ => rfl
theorem Laws.Encodable.plane : ∀ a0 a1 a2, Laws.Encodable.Statement (.plane a0 a1 a2) := fun _ _ _ _ => rfl
theorem Laws.Encodable.unplane : ∀ a0 a1 a2, Laws.Encodable.Statement (.unplane a0 a1 a2) := fun _ _ _ _ => rfl
theorem Laws.Encodable.spack : ∀ a0 a1 a2 a3 a4, Laws.Encodable.Statement (.spack a0 a1 a2 a3 a4) := fun _ _ _ _ _ _ => rfl
theorem Laws.Encodable.spackChk : ∀ a0 a1 a2 a3, Laws.Encodable.Statement (.spackChk a0 a1 a2 a3) := fun _ _ _ _ _ => rfl
theorem Laws.Encodable.nfscan : ∀ a0 a1 a2 a3, Laws.Encodable.Statement (.nfscan a0 a1 a2 a3) := fun _ _ _ _ _ => rfl
theorem Laws.Encodable.cclaim : ∀ a0, Laws.Encodable.Statement (.cclaim a0) := fun _ _ => rfl
theorem Laws.Encodable.crel : Laws.Encodable.Statement .crel := fun _ => rfl
theorem Laws.Encodable.ccfg : ∀ a0, Laws.Encodable.Statement (.ccfg a0) := fun _ _ => rfl
theorem Laws.Encodable.cmul : ∀ a0 a1 a2 a3 a4 a5 a6 a7, Laws.Encodable.Statement (.cmul a0 a1 a2 a3 a4 a5 a6 a7) := fun _ _ _ _ _ _ _ _ _ => rfl
theorem Laws.Encodable.cprom : ∀ a0 a1 a2 a3 a4 a5, Laws.Encodable.Statement (.cprom a0 a1 a2 a3 a4 a5) := fun _ _ _ _ _ _ _ => rfl
theorem Laws.Encodable.czero : ∀ a0 a1, Laws.Encodable.Statement (.czero a0 a1) := fun _ _ _ => rfl
theorem Laws.Encodable.cstat : ∀ a0, Laws.Encodable.Statement (.cstat a0) := fun _ _ => rfl
theorem Laws.Encodable.cstatClr : ∀ a0, Laws.Encodable.Statement (.cstatClr a0) := fun _ _ => rfl
theorem Laws.Encodable.cwait : ∀ a0, Laws.Encodable.Statement (.cwait a0) := fun _ _ => rfl
theorem Laws.Encodable.cstorAcc : ∀ a0 a1 a2, Laws.Encodable.Statement (.cstorAcc a0 a1 a2) := fun _ _ _ _ => rfl
theorem Laws.Encodable.cstorL0 : ∀ a0 a1 a2, Laws.Encodable.Statement (.cstorL0 a0 a1 a2) := fun _ _ _ _ => rfl
theorem Laws.Encodable.cstorL1 : ∀ a0 a1 a2, Laws.Encodable.Statement (.cstorL1 a0 a1 a2) := fun _ _ _ _ => rfl
theorem Laws.Encodable.cstorCnt : ∀ a0 a1 a2, Laws.Encodable.Statement (.cstorCnt a0 a1 a2) := fun _ _ _ _ => rfl
theorem Laws.Encodable.cloadAcc : ∀ a0 a1 a2, Laws.Encodable.Statement (.cloadAcc a0 a1 a2) := fun _ _ _ _ => rfl
theorem Laws.Encodable.cloadL0 : ∀ a0 a1 a2, Laws.Encodable.Statement (.cloadL0 a0 a1 a2) := fun _ _ _ _ => rfl
theorem Laws.Encodable.cloadL1 : ∀ a0 a1 a2, Laws.Encodable.Statement (.cloadL1 a0 a1 a2) := fun _ _ _ _ => rfl
theorem Laws.Encodable.cloadCnt : ∀ a0 a1 a2, Laws.Encodable.Statement (.cloadCnt a0 a1 a2) := fun _ _ _ _ => rfl
theorem Laws.Encodable.cring : ∀ a0 a1, Laws.Encodable.Statement (.cring a0 a1) := fun _ _ _ => rfl
theorem Laws.Encodable.cretry : ∀ a0 a1, Laws.Encodable.Statement (.cretry a0 a1) := fun _ _ _ => rfl
theorem Laws.Encodable.cqput : ∀ a0 a1 a2 a3, Laws.Encodable.Statement (.cqput a0 a1 a2 a3) := fun _ _ _ _ _ => rfl
theorem Laws.Encodable.hstat : ∀ a0 a1, Laws.Encodable.Statement (.hstat a0 a1) := fun _ _ _ => rfl
theorem Laws.Encodable.hwait : ∀ a0 a1 a2, Laws.Encodable.Statement (.hwait a0 a1 a2) := fun _ _ _ _ => rfl
theorem Laws.Encodable.hsetDrn : ∀ a0 a1, Laws.Encodable.Statement (.hsetDrn a0 a1) := fun _ _ _ => rfl
theorem Laws.Encodable.hsetFree : ∀ a0 a1, Laws.Encodable.Statement (.hsetFree a0 a1) := fun _ _ _ => rfl
theorem Laws.Encodable.halloc : ∀ a0 a1 a2 a3, Laws.Encodable.Statement (.halloc a0 a1 a2 a3) := fun _ _ _ _ _ => rfl
theorem Laws.Encodable.hfree : ∀ a0 a1, Laws.Encodable.Statement (.hfree a0 a1) := fun _ _ _ => rfl
theorem Laws.Encodable.cqinitBind : ∀ a0 a1 a2, Laws.Encodable.Statement (.cqinitBind a0 a1 a2) := fun _ _ _ _ => rfl
theorem Laws.Encodable.cqinitUnb : ∀ a0 a1, Laws.Encodable.Statement (.cqinitUnb a0 a1) := fun _ _ _ => rfl
theorem Laws.Encodable.trecv : ∀ a0, Laws.Encodable.Statement (.trecv a0) := fun _ _ => rfl
theorem Laws.Encodable.trecvTry : ∀ a0 a1, Laws.Encodable.Statement (.trecvTry a0 a1) := fun _ _ _ => rfl
theorem Laws.Encodable.tread : ∀ a0 a1 a2 a3 a4, Laws.Encodable.Statement (.tread a0 a1 a2 a3 a4) := fun _ _ _ _ _ _ => rfl
theorem Laws.Encodable.twrite : ∀ a0 a1 a2 a3 a4, Laws.Encodable.Statement (.twrite a0 a1 a2 a3 a4) := fun _ _ _ _ _ _ => rfl
theorem Laws.Encodable.tresume : ∀ a0 a1, Laws.Encodable.Statement (.tresume a0 a1) := fun _ _ _ => rfl
theorem Laws.Encodable.tresumeNext : ∀ a0 a1, Laws.Encodable.Statement (.tresumeNext a0 a1) := fun _ _ _ => rfl
theorem Laws.Encodable.tkill : ∀ a0 a1, Laws.Encodable.Statement (.tkill a0 a1) := fun _ _ _ => rfl
theorem Laws.Encodable.xlinvVa : ∀ a0 a1, Laws.Encodable.Statement (.xlinvVa a0 a1) := fun _ _ _ => rfl
theorem Laws.Encodable.xlinvAs : ∀ a0, Laws.Encodable.Statement (.xlinvAs a0) := fun _ _ => rfl
theorem Laws.Encodable.xlinvAll : Laws.Encodable.Statement .xlinvAll := fun _ => rfl
theorem Laws.Encodable.xlsync : Laws.Encodable.Statement .xlsync := fun _ => rfl
theorem Laws.Encodable.ckptTake : ∀ a0 a1, Laws.Encodable.Statement (.ckptTake a0 a1) := fun _ _ _ => rfl
theorem Laws.Encodable.ckptRoll : ∀ a0 a1, Laws.Encodable.Statement (.ckptRoll a0 a1) := fun _ _ _ => rfl
theorem Laws.Encodable.ckptStat : ∀ a0 a1 a2, Laws.Encodable.Statement (.ckptStat a0 a1 a2) := fun _ _ _ _ => rfl
theorem Laws.Encodable.bflipHost : ∀ a0 a1, Laws.Encodable.Statement (.bflipHost a0 a1) := fun _ _ _ => rfl
theorem Laws.Encodable.bflipDev : ∀ a0 a1, Laws.Encodable.Statement (.bflipDev a0 a1) := fun _ _ _ => rfl
theorem Laws.Encodable.bflipRd : ∀ a0 a1, Laws.Encodable.Statement (.bflipRd a0 a1) := fun _ _ _ => rfl
theorem Laws.Encodable.keyldInst : ∀ a0 a1 a2 a3, Laws.Encodable.Statement (.keyldInst a0 a1 a2 a3) := fun _ _ _ _ _ => rfl
theorem Laws.Encodable.keyldClr : ∀ a0 a1, Laws.Encodable.Statement (.keyldClr a0 a1) := fun _ _ _ => rfl
theorem Laws.Encodable.keyldStat : ∀ a0 a1 a2, Laws.Encodable.Statement (.keyldStat a0 a1 a2) := fun _ _ _ _ => rfl
theorem Laws.Encodable.energyRd : ∀ a0 a1 a2, Laws.Encodable.Statement (.energyRd a0 a1 a2) := fun _ _ _ _ => rfl
theorem Laws.Encodable.energySet : ∀ a0 a1 a2, Laws.Encodable.Statement (.energySet a0 a1 a2) := fun _ _ _ _ => rfl
theorem Laws.Encodable.gauge : ∀ a0 a1 a2, Laws.Encodable.Statement (.gauge a0 a1 a2) := fun _ _ _ _ => rfl
theorem Laws.Encodable.scopt : ∀ a0 a1 a2 a3, Laws.Encodable.Statement (.scopt a0 a1 a2 a3) := fun _ _ _ _ _ => rfl
theorem Laws.Encodable.scoptCnt : ∀ a0 a1, Laws.Encodable.Statement (.scoptCnt a0 a1) := fun _ _ _ => rfl
theorem Laws.Encodable.partctlCreate : ∀ a0 a1 a2, Laws.Encodable.Statement (.partctlCreate a0 a1 a2) := fun _ _ _ _ => rfl
theorem Laws.Encodable.partctlDestroy : ∀ a0 a1, Laws.Encodable.Statement (.partctlDestroy a0 a1) := fun _ _ _ => rfl
theorem Laws.Encodable.partctlStat : ∀ a0 a1, Laws.Encodable.Statement (.partctlStat a0 a1) := fun _ _ _ => rfl
theorem Laws.Encodable.lineRefetch : ∀ a0 a1, Laws.Encodable.Statement (.lineRefetch a0 a1) := fun _ _ h => absurd h Bool.noConfusion
theorem Laws.Encodable.fetchLineArrival : ∀ a0 a1, Laws.Encodable.Statement (.fetchLineArrival a0 a1) := fun _ _ h => absurd h Bool.noConfusion
theorem Laws.Encodable.slotTurn : ∀ a0, Laws.Encodable.Statement (.slotTurn a0) := fun _ h => absurd h Bool.noConfusion
theorem Laws.Encodable.threadFirstFetch : ∀ a0 a1, Laws.Encodable.Statement (.threadFirstFetch a0 a1) := fun _ _ h => absurd h Bool.noConfusion
theorem Laws.Encodable.loadReplyArrival : ∀ a0, Laws.Encodable.Statement (.loadReplyArrival a0) := fun _ h => absurd h Bool.noConfusion
theorem Laws.Encodable.wakeNotice : ∀ a0, Laws.Encodable.Statement (.wakeNotice a0) := fun _ h => absurd h Bool.noConfusion
theorem Laws.Encodable.parkDeadline : ∀ a0 a1, Laws.Encodable.Statement (.parkDeadline a0 a1) := fun _ _ h => absurd h Bool.noConfusion
theorem Laws.Encodable.yieldExpiry : ∀ a0 a1, Laws.Encodable.Statement (.yieldExpiry a0 a1) := fun _ _ h => absurd h Bool.noConfusion
theorem Laws.Encodable.plainLoadAtHome : ∀ a0, Laws.Encodable.Statement (.plainLoadAtHome a0) := fun _ h => absurd h Bool.noConfusion
theorem Laws.Encodable.writeBackAtHome : ∀ a0, Laws.Encodable.Statement (.writeBackAtHome a0) := fun _ h => absurd h Bool.noConfusion
theorem Laws.Encodable.atomicAtHome : ∀ a0, Laws.Encodable.Statement (.atomicAtHome a0) := fun _ h => absurd h Bool.noConfusion
theorem Laws.Encodable.amoAckArrival : ∀ a0, Laws.Encodable.Statement (.amoAckArrival a0) := fun _ h => absurd h Bool.noConfusion
theorem Laws.Encodable.releaseAtHome : ∀ a0, Laws.Encodable.Statement (.releaseAtHome a0) := fun _ h => absurd h Bool.noConfusion
theorem Laws.Encodable.releaseAckArrival : ∀ a0, Laws.Encodable.Statement (.releaseAckArrival a0) := fun _ h => absurd h Bool.noConfusion
theorem Laws.Encodable.orderedReadAtHome : ∀ a0, Laws.Encodable.Statement (.orderedReadAtHome a0) := fun _ h => absurd h Bool.noConfusion
theorem Laws.Encodable.drainRequest : ∀ a0, Laws.Encodable.Statement (.drainRequest a0) := fun _ h => absurd h Bool.noConfusion
theorem Laws.Encodable.drainAckAtHome : ∀ a0, Laws.Encodable.Statement (.drainAckAtHome a0) := fun _ h => absurd h Bool.noConfusion
theorem Laws.Encodable.fold : ∀ a0, Laws.Encodable.Statement (.fold a0) := fun _ h => absurd h Bool.noConfusion
theorem Laws.Encodable.foldEnd : ∀ a0, Laws.Encodable.Statement (.foldEnd a0) := fun _ h => absurd h Bool.noConfusion
theorem Laws.Encodable.llcEvictionDrain : ∀ a0 a1, Laws.Encodable.Statement (.llcEvictionDrain a0 a1) := fun _ _ h => absurd h Bool.noConfusion
theorem Laws.Encodable.barwArrivalAtHome : ∀ a0, Laws.Encodable.Statement (.barwArrivalAtHome a0) := fun _ h => absurd h Bool.noConfusion
theorem Laws.Encodable.waitvReread : ∀ a0, Laws.Encodable.Statement (.waitvReread a0) := fun _ h => absurd h Bool.noConfusion
theorem Laws.Encodable.joinCounterUpdate : ∀ a0, Laws.Encodable.Statement (.joinCounterUpdate a0) := fun _ h => absurd h Bool.noConfusion
theorem Laws.Encodable.switchCombine : ∀ a0, Laws.Encodable.Statement (.switchCombine a0) := fun _ h => absurd h Bool.noConfusion
theorem Laws.Encodable.arriveAtHome : ∀ a0, Laws.Encodable.Statement (.arriveAtHome a0) := fun _ h => absurd h Bool.noConfusion
theorem Laws.Encodable.departAtHome : ∀ a0, Laws.Encodable.Statement (.departAtHome a0) := fun _ h => absurd h Bool.noConfusion
theorem Laws.Encodable.ageSeal : ∀ a0 a1, Laws.Encodable.Statement (.ageSeal a0 a1) := fun _ _ h => absurd h Bool.noConfusion
theorem Laws.Encodable.closedEntryInvalidate : ∀ a0 a1, Laws.Encodable.Statement (.closedEntryInvalidate a0 a1) := fun _ _ h => absurd h Bool.noConfusion
theorem Laws.Encodable.stealRound : ∀ a0 a1, Laws.Encodable.Statement (.stealRound a0 a1) := fun _ _ h => absurd h Bool.noConfusion
theorem Laws.Encodable.stealRequest : ∀ a0, Laws.Encodable.Statement (.stealRequest a0) := fun _ h => absurd h Bool.noConfusion
theorem Laws.Encodable.stealAnswer : ∀ a0, Laws.Encodable.Statement (.stealAnswer a0) := fun _ h => absurd h Bool.noConfusion
theorem Laws.Encodable.messageDelivery : ∀ a0 a1, Laws.Encodable.Statement (.messageDelivery a0 a1) := fun _ _ h => absurd h Bool.noConfusion
theorem Laws.Encodable.messageRetry : ∀ a0 a1, Laws.Encodable.Statement (.messageRetry a0 a1) := fun _ _ h => absurd h Bool.noConfusion
theorem Laws.Encodable.handlerStart : ∀ a0, Laws.Encodable.Statement (.handlerStart a0) := fun _ h => absurd h Bool.noConfusion
theorem Laws.Encodable.streamElementFetch : ∀ a0 a1, Laws.Encodable.Statement (.streamElementFetch a0 a1) := fun _ _ h => absurd h Bool.noConfusion
theorem Laws.Encodable.streamPushWrite : ∀ a0 a1, Laws.Encodable.Statement (.streamPushWrite a0 a1) := fun _ _ h => absurd h Bool.noConfusion
theorem Laws.Encodable.vectorOpComplete : ∀ a0 a1, Laws.Encodable.Statement (.vectorOpComplete a0 a1) := fun _ _ h => absurd h Bool.noConfusion
theorem Laws.Encodable.vectorStageFree : ∀ a0, Laws.Encodable.Statement (.vectorStageFree a0) := fun _ h => absurd h Bool.noConfusion
theorem Laws.Encodable.cubeDispatch : ∀ a0, Laws.Encodable.Statement (.cubeDispatch a0) := fun _ h => absurd h Bool.noConfusion
theorem Laws.Encodable.cubePassEnd : ∀ a0, Laws.Encodable.Statement (.cubePassEnd a0) := fun _ h => absurd h Bool.noConfusion
theorem Laws.Encodable.cubeCommandComplete : ∀ a0, Laws.Encodable.Statement (.cubeCommandComplete a0) := fun _ h => absurd h Bool.noConfusion
theorem Laws.Encodable.cubeDataError : ∀ a0 a1, Laws.Encodable.Statement (.cubeDataError a0 a1) := fun _ _ h => absurd h Bool.noConfusion
theorem Laws.Encodable.lateFaultDelivery : ∀ a0 a1, Laws.Encodable.Statement (.lateFaultDelivery a0 a1) := fun _ _ h => absurd h Bool.noConfusion
theorem Laws.Encodable.supervisorRestart : ∀ a0, Laws.Encodable.Statement (.supervisorRestart a0) := fun _ h => absurd h Bool.noConfusion
theorem Laws.Encodable.copyPacketAccept : ∀ a0, Laws.Encodable.Statement (.copyPacketAccept a0) := fun _ h => absurd h Bool.noConfusion
theorem Laws.Encodable.copyPageBoundary : ∀ a0, Laws.Encodable.Statement (.copyPageBoundary a0) := fun _ h => absurd h Bool.noConfusion
theorem Laws.Encodable.copyComplete : ∀ a0, Laws.Encodable.Statement (.copyComplete a0) := fun _ h => absurd h Bool.noConfusion
theorem Laws.Encodable.copyError : ∀ a0, Laws.Encodable.Statement (.copyError a0) := fun _ h => absurd h Bool.noConfusion
theorem Laws.Encodable.xlinvReceipt : ∀ a0 a1, Laws.Encodable.Statement (.xlinvReceipt a0 a1) := fun _ _ h => absurd h Bool.noConfusion
theorem Laws.Encodable.xlinvAckArrival : ∀ a0 a1, Laws.Encodable.Statement (.xlinvAckArrival a0 a1) := fun _ _ h => absurd h Bool.noConfusion
theorem Laws.Encodable.launchPacketTake : ∀ a0 a1, Laws.Encodable.Statement (.launchPacketTake a0 a1) := fun _ _ h => absurd h Bool.noConfusion
theorem Laws.Encodable.dependenceReread : ∀ a0 a1, Laws.Encodable.Statement (.dependenceReread a0 a1) := fun _ _ h => absurd h Bool.noConfusion
theorem Laws.Encodable.weirAdmit : ∀ a0, Laws.Encodable.Statement (.weirAdmit a0) := fun _ h => absurd h Bool.noConfusion
theorem Laws.Encodable.entryStart : ∀ a0 a1, Laws.Encodable.Statement (.entryStart a0 a1) := fun _ _ h => absurd h Bool.noConfusion
theorem Laws.Encodable.preempt : ∀ a0, Laws.Encodable.Statement (.preempt a0) := fun _ h => absurd h Bool.noConfusion
theorem Laws.Encodable.quantumExpiry : ∀ a0, Laws.Encodable.Statement (.quantumExpiry a0) := fun _ h => absurd h Bool.noConfusion
theorem Laws.Encodable.threadEvict : ∀ a0 a1, Laws.Encodable.Statement (.threadEvict a0 a1) := fun _ _ h => absurd h Bool.noConfusion
theorem Laws.Encodable.coreSaveEnd : ∀ a0 a1, Laws.Encodable.Statement (.coreSaveEnd a0 a1) := fun _ _ h => absurd h Bool.noConfusion
theorem Laws.Encodable.contextRestore : ∀ a0, Laws.Encodable.Statement (.contextRestore a0) := fun _ h => absurd h Bool.noConfusion
theorem Laws.Encodable.launchComplete : ∀ a0 a1, Laws.Encodable.Statement (.launchComplete a0 a1) := fun _ _ h => absurd h Bool.noConfusion
theorem Laws.Encodable.checkpoint : ∀ a0 a1, Laws.Encodable.Statement (.checkpoint a0 a1) := fun _ _ h => absurd h Bool.noConfusion
theorem Laws.Encodable.rollback : ∀ a0 a1, Laws.Encodable.Statement (.rollback a0 a1) := fun _ _ h => absurd h Bool.noConfusion
theorem Laws.Encodable.contextTerminate : ∀ a0 a1, Laws.Encodable.Statement (.contextTerminate a0 a1) := fun _ _ h => absurd h Bool.noConfusion
theorem Laws.Encodable.energyIntervalEnd : ∀ a0 a1 a2, Laws.Encodable.Statement (.energyIntervalEnd a0 a1 a2) := fun _ _ _ h => absurd h Bool.noConfusion
theorem Laws.Encodable.rds : ∀ a0 a1 a2, Laws.Encodable.Statement (.rds a0 a1 a2) := fun _ _ _ h => absurd h Bool.noConfusion
theorem Laws.Encodable.rdo : ∀ a0 a1 a2, Laws.Encodable.Statement (.rdo a0 a1 a2) := fun _ _ _ h => absurd h Bool.noConfusion
theorem Laws.Encodable.wrb : ∀ a0 a1 a2 a3 a4, Laws.Encodable.Statement (.wrb a0 a1 a2 a3 a4) := fun _ _ _ _ _ h => absurd h Bool.noConfusion
theorem Laws.Encodable.evn : ∀ a0 a1 a2, Laws.Encodable.Statement (.evn a0 a1 a2) := fun _ _ _ h => absurd h Bool.noConfusion
theorem Laws.Encodable.invalidationAck : ∀ a0 a1 a2 a3 a4, Laws.Encodable.Statement (.invalidationAck a0 a1 a2 a3 a4) := fun _ _ _ _ _ h => absurd h Bool.noConfusion
theorem Laws.Encodable.entryMerge : ∀ a0 a1, Laws.Encodable.Statement (.entryMerge a0 a1) := fun _ _ h => absurd h Bool.noConfusion
theorem Laws.Encodable.directoryUe : ∀ a0 a1, Laws.Encodable.Statement (.directoryUe a0 a1) := fun _ _ h => absurd h Bool.noConfusion
theorem Laws.Encodable.hostRequest : ∀ a0 a1 a2 a3 a4, Laws.Encodable.Statement (.hostRequest a0 a1 a2 a3 a4) := fun _ _ _ _ _ h => absurd h Bool.noConfusion
theorem Laws.Encodable.backInvalidateResponse : ∀ a0 a1 a2 a3, Laws.Encodable.Statement (.backInvalidateResponse a0 a1 a2 a3) := fun _ _ _ _ h => absurd h Bool.noConfusion
theorem Laws.Encodable.window0Access : ∀ a0 a1 a2 a3 a4, Laws.Encodable.Statement (.window0Access a0 a1 a2 a3 a4) := fun _ _ _ _ _ h => absurd h Bool.noConfusion
theorem Laws.Encodable.mringRequest : ∀ a0 a1 a2 a3 a4, Laws.Encodable.Statement (.mringRequest a0 a1 a2 a3 a4) := fun _ _ _ _ _ h => absurd h Bool.noConfusion
theorem Laws.Encodable.window2Access : ∀ a0 a1 a2 a3 a4, Laws.Encodable.Statement (.window2Access a0 a1 a2 a3 a4) := fun _ _ _ _ _ h => absurd h Bool.noConfusion
theorem Laws.Encodable.flitReplay : ∀ a0 a1, Laws.Encodable.Statement (.flitReplay a0 a1) := fun _ _ h => absurd h Bool.noConfusion
theorem Laws.Encodable.peerUnreachable : ∀ a0, Laws.Encodable.Statement (.peerUnreachable a0) := fun _ h => absurd h Bool.noConfusion
theorem Laws.Encodable.deviceReset : ∀ a0 a1, Laws.Encodable.Statement (.deviceReset a0 a1) := fun _ _ h => absurd h Bool.noConfusion
theorem Laws.Encodable.gaugeSave : Laws.Encodable.Statement .gaugeSave := fun h => absurd h Bool.noConfusion
theorem Laws.Encodable.correctableError : ∀ a0 a1, Laws.Encodable.Statement (.correctableError a0 a1) := fun _ _ h => absurd h Bool.noConfusion
theorem Laws.Encodable.ueCleanData : ∀ a0 a1 a2, Laws.Encodable.Statement (.ueCleanData a0 a1 a2) := fun _ _ _ h => absurd h Bool.noConfusion
theorem Laws.Encodable.uePoison : ∀ a0 a1 a2, Laws.Encodable.Statement (.uePoison a0 a1 a2) := fun _ _ _ h => absurd h Bool.noConfusion
theorem Laws.Encodable.ueStateMachineCheck : ∀ a0 a1 a2, Laws.Encodable.Statement (.ueStateMachineCheck a0 a1 a2) := fun _ _ _ h => absurd h Bool.noConfusion
theorem Laws.Encodable.keyDeliveryRequest : ∀ a0 a1 a2 a3 a4 a5 a6, Laws.Encodable.Statement (.keyDeliveryRequest a0 a1 a2 a3 a4 a5 a6) := fun _ _ _ _ _ _ _ h => absurd h Bool.noConfusion
theorem Laws.Encodable.spdmSessionEnd : ∀ a0 a1, Laws.Encodable.Statement (.spdmSessionEnd a0 a1) := fun _ _ h => absurd h Bool.noConfusion
theorem Laws.Encodable.hostSnoop : ∀ a0 a1, Laws.Encodable.Statement (.hostSnoop a0 a1) := fun _ _ h => absurd h Bool.noConfusion
theorem Laws.Encodable.replicaDrop : ∀ a0 a1 a2, Laws.Encodable.Statement (.replicaDrop a0 a1 a2) := fun _ _ _ h => absurd h Bool.noConfusion
theorem Laws.Encodable.tlbEntryDrop : ∀ a0 a1 a2, Laws.Encodable.Statement (.tlbEntryDrop a0 a1 a2) := fun _ _ _ h => absurd h Bool.noConfusion
theorem Laws.Encodable.spdmRequest : ∀ a0 a1 a2, Laws.Encodable.Statement (.spdmRequest a0 a1 a2) := fun _ _ _ h => absurd h Bool.noConfusion
theorem Laws.Encodable.gaugeMctpRead : ∀ a0, Laws.Encodable.Statement (.gaugeMctpRead a0) := fun _ h => absurd h Bool.noConfusion
theorem Laws.Encodable.supplyDroop : ∀ a0, Laws.Encodable.Statement (.supplyDroop a0) := fun _ h => absurd h Bool.noConfusion
theorem Laws.Encodable.temperatureSecond : ∀ a0, Laws.Encodable.Statement (.temperatureSecond a0) := fun _ h => absurd h Bool.noConfusion
theorem Laws.Encodable.lossOfPower : Laws.Encodable.Statement .lossOfPower := fun h => absurd h Bool.noConfusion

end Sys2Proof
end

