-- ==== Sys2Proof/Tests/Slice0.lean ====
section
/-! SUPPORT. Tests of the model: words of the spec, one step on a small machine, and for every statement a machine that meets
its hypotheses. -/
namespace Sys2Proof.Machine

-- One theorem at a time: many at once need more threads than the checker allows.
set_option Elab.async false

/-! ### Words of the spec decode to the instruction that they stand for -/

theorem test_decode_system :
  decodeSlot 0x0000_0000_0000_0000_0000_0000#96 = .ok .nop ∧
  decodeSlot 0x0100_0000_0000_0000_0000_0042#96 = .ok (.brk 0x42#32) ∧
  decodeSlot 0x0200_0000_0000_0000_0000_0007#96 = .ok (.svc 7#32) ∧
  decodeSlot 0x0350_0031_0000_0000_0000_0099#96 = .ok (.trap 5#4 3#6 4#6 0x99#32) ∧
  decodeSlot 0x0400_2800_0010_0000_0000_0000#96 = .ok (.mfs 10#6 4#12) ∧
  decodeSlot 0x0500_0040_0040_0000_0000_0000#96 = .ok (.mtsFpcr 4#6) ∧
  decodeSlot 0x0500_0000_0014_0000_0000_0000#96 = .ok (.mtsPriv 0#6) ∧
  decodeSlot 0x0600_0000_0000_0000_0000_0000#96 = .ok .ifence ∧
  decodeSlot 0x0710_2400_0000_0000_0000_0000#96 = .ok (.randR16 9#6) := by decide +kernel

theorem test_decode_arith :
  decodeSlot 0x1000_0420_C030_0000_0000_0000#96 = .ok (.add 1#6 2#6 3#6 3#4) ∧
  decodeSlot 0x1000_1872_00E0_0000_0000_0000#96 = .ok (.add 6#6 7#6 8#6 14#4) ∧
  decodeSlot 0x2000_1453_FFFF_FFFF_FFFF_FFF0#96 = .ok (.addi 5#6 5#6 3#4 0xFFFFFFFFFFFFFFF0#64) ∧
  decodeSlot 0x2400_2CB3_0000_0000_0000_0300#96 = .ok (.xori 11#6 11#6 3#4 0x300#64) ∧
  decodeSlot 0x2500_0803_0000_0000_0000_1234#96 = .ok (.ldi 2#6 3#4 0x1234#64) := by decide +kernel

theorem test_decode_compare :
  decodeSlot 0x3A20_0841_4030_0000_0000_0000#96 = .ok (.cmp 2#4 2#6 4#6 5#6 3#4) ∧
  decodeSlot 0x2A00_08E3_0000_0000_0000_000C#96 = .ok (.cmpi 0#4 2#6 14#6 3#4 12#64) ∧
  decodeSlot 0x3D30_2CC3_4000_0000_0000_0000#96 = .ok (.xfold 3#4 11#6 12#6 13#6) := by decide +kernel

theorem test_decode_branch :
  decodeSlot 0x4600_0C94_0000_0000_0000_0002#96 = .ok (.brcmp 3#6 9#6 4#4 0#37 2#3) ∧
  decodeSlot 0x4400_5000_0000_00FF_FFFF_FFF8#96 = .ok (.loop 20#6 0x1FFFFFFFFF#37 0#3) ∧
  decodeSlot 0x4500_0C01_0000_0000_0000_005C#96 = .ok (.brz 3#6 1#4 11#37 4#3) ∧
  decodeSlot 0x4007_0000_0000_00FF_FFFF_FFF1#96 = .ok (.br 0x1FFFFFFFFE#37 1#3) := by decide +kernel

theorem test_decode_loads :
  decodeSlot 0x5000_1C92_B690_0000_0000_0040#96 = .ok (.ld 0#4 7#6 9#6 10#6 3#2 3#3 2#3 2#3 0#3 64#48) ∧
  decodeSlot 0x5200_0850_0401_0000_0000_0100#96 = .ok (.ldf 2#6 5#6 0#6 0#2 2#3 0#3 0#3 1#3 0x100#48) ∧
  decodeSlot 0x5400_18A1_4802_0000_0000_0000#96 = .ok (.ldp 6#6 10#6 5#6 0#2 4#3 0#3 0#3 2#3 0#48) ∧
  decodeSlot 0x5610_1420_0203_0000_0000_0003#96 = .ok (.ldb 1#4 5#6 2#6 0#6 0#2 1#3 3#3 3#48) := by decide +kernel

theorem test_decode_stores :
  decodeSlot 0x5100_1030_0400_0000_0000_0008#96 = .ok (.st 4#6 3#6 0#6 0#2 2#3 0#3 0#3 0#3 8#48) ∧
  decodeSlot 0x5100_1410_06F0_0000_0001_0000#96 = .ok (.st 5#6 1#6 0#6 0#2 3#3 3#3 6#3 0#3 0x10000#48) ∧
  decodeSlot 0x5500_20B1_4802_0000_0000_0000#96 = .ok (.stp 8#6 11#6 5#6 0#2 4#3 0#3 0#3 2#3 0#48) ∧
  decodeSlot 0x5910_0070_0000_0000_0000_0000#96 = .ok (.drainL 7#6 0#6 0#2 0#48) := by decide +kernel

theorem test_decode_atomics :
  decodeSlot 0x6000_2062_4650_0000_0000_0000#96 = .ok (.amoAdd 8#6 6#6 9#6 3#3 1#3 2#3 0#48) ∧
  decodeSlot 0x6080_01B0_0650_0000_0000_0000#96 = .ok (.amoSwap 0#6 27#6 0#6 3#3 1#3 2#3 0#48) ∧
  decodeSlot 0x6100_2862_C710_0000_0000_0008#96 = .ok (.cas 10#6 6#6 11#6 3#3 4#3 2#3 8#48) := by decide +kernel

theorem test_decode_order :
  decodeSlot 0x6300_0000_00D0_0000_0000_0000#96 = .ok (.fence 3#3 2#3) ∧
  decodeSlot 0x6400_1480_0710_0000_0000_0000#96 = .ok (.barw 5#6 8#6 0#6 0#2 3#3 4#3 2#3 0#48) ∧
  decodeSlot 0x6530_0C61_0690_0000_0000_0010#96 = .ok (.waitv 3#4 3#6 6#6 4#6 3#3 2#3 2#3 16#48) := by decide +kernel

theorem test_decode_threads :
  decodeSlot 0x7000_780A_0040_0000_0000_0A00#96 = .ok (.fork 30#6 40#6 2#3 1#37 2#3) ∧
  decodeSlot 0x7010_2940_4040_0000_0000_1800#96 = .ok (.forkJ 10#6 20#6 1#6 2#3 3#37 0#3) ∧
  decodeSlot 0x7100_0140_0000_0000_0000_0000#96 = .ok (.join 20#6) ∧
  decodeSlot 0x7210_0060_0000_0000_0000_0000#96 = .ok (.retireJ 6#6) ∧
  decodeSlot 0x7400_0032_0000_0000_0000_0000#96 = .ok (.send 3#6 8#6) ∧
  decodeSlot 0x7810_0100_0000_0000_0000_0000#96 = .ok (.parkRel 16#6) := by decide +kernel

theorem test_decode_words :
  decodeSlot 0x7510_2440_0600_0000_0000_0008#96 = .ok (.waitfE 9#6 4#6 0#6 0#2 3#3 8#48) ∧
  decodeSlot 0x7600_2840_0600_0000_0000_0008#96 = .ok (.fill 10#6 4#6 0#6 0#2 3#3 8#48) := by decide +kernel

theorem test_decode_deques :
  decodeSlot 0x8000_0002_0020_0000_0000_0000#96 = .ok (.dqpush 8#6 1#3) ∧
  decodeSlot 0x8200_0010_0060_FFFF_FFFF_F000#96 = .ok (.dqsplit 1#6 3#3 0x1FFFFFFFFE#37 0#3) ∧
  decodeSlot 0x8310_4050_0040_0000_0000_0000#96 = .ok (.dqstealAt 16#6 5#6 2#3) ∧
  decodeSlot 0x8400_0000_0000_0000_0000_0000#96 = .ok .dqrun ∧
  decodeSlot 0x8500_3032_0020_0000_0000_0000#96 = .ok (.launch 12#6 3#6 8#6 1#3) ∧
  decodeSlot 0x8600_2440_0000_0000_0000_0000#96 = .ok (.lwait 9#6 4#6) := by decide +kernel

theorem test_decode_sets :
  decodeSlot 0x9000_0000_0100_0000_0004_0000#96 = .ok (.qalloc 1#3 4#32) ∧
  decodeSlot 0x9240_6800_0000_0000_0000_0000#96 = .ok (.qlogCopy 3#3 2#3 0#3) ∧
  decodeSlot 0x9300_4028_0000_0000_0000_0000#96 = .ok (.qbitSet 2#3 20#6 0#3) ∧
  decodeSlot 0x9400_0428_0200_0000_0000_0000#96 = .ok (.qpop 1#3 20#6 2#3) ∧
  decodeSlot 0x9800_2100_0200_0000_0000_0000#96 = .ok (.qsplit 1#3 0#3 2#3 2#3 0#6) ∧
  decodeSlot 0x9D00_0800_0300_0000_0000_0000#96 = .ok (.qeqEmpty 2#3 3#3) ∧
  decodeSlot 0x9E20_400C_0000_0000_0040_0000#96 = .ok (.qmovLd 2#3 6#6 64#32) ∧
  decodeSlot 0x9F00_0000_0800_0000_0000_0000#96 = .ok (.qwin 0#6 1#6) := by decide +kernel

theorem test_decode_nodes :
  decodeSlot 0x9900_0008_4900_0000_0000_0000#96 = .ok (.arrive 0#3 4#6 9#6 1#3) ∧
  decodeSlot 0x9A10_0008_5900_0000_0000_0000#96 = .ok (.departW 0#3 4#6 11#6 1#3) ∧
  decodeSlot 0x9B00_040A_6300_0000_000A_0000#96 = .ok (.qfork 1#3 5#6 12#6 3#3 0xA#32) := by decide +kernel

theorem test_decode_streams :
  decodeSlot 0xA000_0946_2002_0000_0000_0000#96 = .ok (.scfg 1#5 10#6 12#6 1#2 0#1 0#1 0#4 1#3) ∧
  decodeSlot 0xA100_1000_0802_0000_0000_0000#96 = .ok (.scfgm 2#5 0#1 1#1 0#4 0#3 1#3) ∧
  decodeSlot 0xA200_0000_0000_0600_0000_0000#96 = .ok (.sen 6#8) := by decide +kernel

theorem test_decode_vector :
  decodeSlot 0xB300_0886_4000_0000_0000_0000#96 = .ok (.vfma 1#5 2#5 3#5 4#5 0#4 0#3 0#2) ∧
  decodeSlot 0xBB00_2840_0000_0000_0000_0000#96 = .ok (.vredSum 5#5 1#5 0#4 0#3) ∧
  decodeSlot 0xB720_1844_0209_0000_0001_0000#96 = .ok (.vcmp 2#4 3#5 1#5 2#5 2#4 2#3 1#2 1#32) ∧
  decodeSlot 0xBC00_3044_0100_0000_0000_0000#96 = .ok (.vdot 6#5 1#5 2#5 1#4 0#3 0#2) ∧
  decodeSlot 0xBE00_1040_0000_FFFF_FFFD_0000#96 = .ok (.vsclI 2#5 1#5 0#4 0#3 0xFFFFFFFD#32) := by decide +kernel

theorem test_decode_images :
  decodeSlot 0xC800_1040_0320_0000_0001_0000#96 = .ok (.cvt 0#4 2#5 1#5 3#4 1#3 1#32) ∧
  decodeSlot 0xA500_2040_0200_0000_0000_0000#96 = .ok (.plane 4#5 1#5 2#4) ∧
  decodeSlot 0xA700_1844_0304_0000_0000_0000#96 = .ok (.spack 3#5 1#5 2#5 3#4 1#3) ∧
  decodeSlot 0xA710_2840_060C_0000_0000_0000#96 = .ok (.spackChk 5#5 1#5 6#4 3#3) ∧
  decodeSlot 0xA800_2040_0208_0000_0000_0000#96 = .ok (.nfscan 4#5 1#5 2#4 2#3) := by decide +kernel

theorem test_decode_cube :
  decodeSlot 0xD000_0000_0100_0000_0000_0000#96 = .ok (.cclaim 1#6) ∧
  decodeSlot 0xD200_0000_0900_0000_0000_0000#96 = .ok (.ccfg 9#6) ∧
  decodeSlot 0xD300_0420_D410_0020_0000_0000#96 = .ok (.cmul 1#6 2#6 3#6 20#6 4#6 0#9 0#1 1#1) ∧
  decodeSlot 0xD400_1460_1510_0080_0000_0000#96 = .ok (.cprom 5#6 6#6 21#6 4#6 0#9 2#2) ∧
  decodeSlot 0xD700_5000_0000_0000_0000_0000#96 = .ok (.cwait 20#6) ∧
  decodeSlot 0xD800_1C00_0010_4000_0000_0000#96 = .ok (.cstorAcc 7#6 4#6 32#9) ∧
  decodeSlot 0xDA00_1C00_0020_0000_0000_0000#96 = .ok (.cring 7#6 8#6) ∧
  decodeSlot 0xDB00_24A0_0000_0000_0000_0000#96 = .ok (.cretry 9#6 10#6) := by decide +kernel

theorem test_decode_copies :
  decodeSlot 0xE000_3032_0002_0000_0000_0000#96 = .ok (.cqput 12#6 3#6 8#6 1#3) ∧
  decodeSlot 0xE100_2400_0300_0000_0000_0000#96 = .ok (.hstat 9#6 3#6) ∧
  decodeSlot 0xE200_2400_0340_0000_0000_0000#96 = .ok (.hwait 9#6 3#6 4#4) ∧
  decodeSlot 0xE310_0000_0302_0000_0000_0000#96 = .ok (.hsetFree 3#6 1#3) ∧
  decodeSlot 0xE400_00A2_C504_0000_0000_0000#96 = .ok (.halloc 10#6 11#6 5#6 2#3) ∧
  decodeSlot 0xE600_0041_4002_0000_0000_0000#96 = .ok (.cqinitBind 4#6 5#6 1#3) := by decide +kernel

theorem test_decode_supervisor :
  decodeSlot 0xF000_2800_0000_0000_0000_0000#96 = .ok (.trecv 10#6) ∧
  decodeSlot 0xF010_2800_0001_0000_0000_0000#96 = .ok (.trecvTry 10#6 2#3) ∧
  decodeSlot 0xF100_1420_0000_8000_0000_0009#96 = .ok (.tread 5#6 2#6 0#12 1#3 9#32) ∧
  decodeSlot 0xF200_0021_8000_8000_0000_0400#96 = .ok (.twrite 2#6 6#6 0#12 1#3 0x400#32) ∧
  decodeSlot 0xF310_0020_0000_8000_0000_0000#96 = .ok (.tresumeNext 2#6 1#3) ∧
  decodeSlot 0xF400_0020_0000_8000_0000_0000#96 = .ok (.tkill 2#6 1#3) := by decide +kernel

theorem test_decode_firmware :
  decodeSlot 0xF500_0041_4000_0000_0000_0000#96 = .ok (.xlinvVa 4#6 5#6) ∧
  decodeSlot 0xF600_0000_0000_0000_0000_0000#96 = .ok .xlsync ∧
  decodeSlot 0xF720_2440_0000_8000_0000_0000#96 = .ok (.ckptStat 9#6 4#6 1#3) ∧
  decodeSlot 0xF810_0040_0000_8000_0000_0000#96 = .ok (.bflipDev 4#6 1#3) ∧
  decodeSlot 0xF900_1841_4000_8000_0000_0000#96 = .ok (.keyldInst 6#6 4#6 5#6 1#3) ∧
  decodeSlot 0xFA10_0041_4000_8000_0000_0000#96 = .ok (.energySet 4#6 5#6 1#3) ∧
  decodeSlot 0xFB00_2440_0000_8000_0000_0000#96 = .ok (.gauge 9#6 4#6 1#3) ∧
  decodeSlot 0xFC00_2420_C000_8000_0000_0000#96 = .ok (.scopt 9#6 2#6 3#6 1#3) ∧
  decodeSlot 0xFD20_2440_0000_0000_0000_0000#96 = .ok (.partctlStat 9#6 4#6) := by decide +kernel

/-! ### Ill-formed instructions: one for each check of the well-formedness (R40) -/

theorem test_ill_scalar : ∀ i ∈ [Instr.trap 12#4 0#6 0#6 0#32, .mfs 1#6 0x007#12, .mfs 1#6 0x011#12, .mts 1#6 0x004#12,
    .mulh 1#6 2#6 3#6 8#4, .rem 1#6 2#6 3#6 8#4, .and 1#6 2#6 3#6 8#4, .or 1#6 2#6 3#6 8#4, .xor 1#6 2#6 3#6 8#4,
    .andn 1#6 2#6 3#6 8#4, .min 1#6 2#6 3#6 8#4, .max 1#6 2#6 3#6 8#4, .absd 1#6 2#6 3#6 8#4, .sel 1#6 2#6 3#6 1#6 2#4,
    .sel 1#6 2#6 3#6 8#6 3#4, .adds 4#4 1#6 2#6 3#6 3#4, .andi 1#6 2#6 8#4 0#64, .ori 1#6 2#6 8#4 0#64, .xori 1#6 2#6 8#4 0#64,
    .ldi 1#6 2#4 0#64, .lea 1#6 2#4 0#64, .sll 1#6 2#6 3#6 8#4, .srl 1#6 2#6 3#6 8#4, .sra 1#6 2#6 3#6 8#4, .rot 1#6 2#6 3#6 8#4,
    .slli 1#6 2#6 0#4 8#64, .slli 1#6 2#6 8#4 0#64, .srli 1#6 2#6 1#4 16#64, .srai 1#6 2#6 3#4 64#64, .clz 1#6 2#6 4#4,
    .ctz 1#6 2#6 8#4, .popc 1#6 2#6 4#4, .brev 1#6 2#6 4#4, .bfx 1#6 2#6 3#6 4#6 2#4, .bfi 1#6 2#6 3#6 4#6 7#4], operandsOk i = false := by
  decide

theorem test_ill_predicates_and_branches : ∀ i ∈ [Instr.cmp 12#4 1#6 2#6 3#6 3#4, .cmp 0#4 8#6 2#6 3#6 3#4, .cmp 0#4 1#6 2#6 3#6 7#4,
    .cmpi 12#4 1#6 2#6 3#4 0#64, .cmpi 0#4 8#6 2#6 3#4 0#64, .cmpi 0#4 1#6 2#6 11#4 0#64, .plog 8#4 1#6 2#6 3#6, .plog 0#4 8#6 2#6 3#6,
    .plog 0#4 1#6 8#6 3#6, .plog 0#4 1#6 2#6 8#6, .pmovNz 8#6 1#6, .loop 0#6 0#37 0#3, .brz 1#6 12#4 0#37 0#3,
    .brcmp 1#6 2#6 12#4 0#37 0#3], operandsOk i = false := by decide

theorem test_ill_memory : ∀ i ∈ [Instr.ld 2#4 1#6 2#6 3#6 0#2 3#3 0#3 0#3 0#3 0#48, .ld 0#4 1#6 2#6 3#6 0#2 4#3 0#3 0#3 0#3 0#48,
    .ld 1#4 1#6 2#6 3#6 0#2 3#3 0#3 0#3 0#3 0#48, .ld 0#4 1#6 2#6 3#6 0#2 3#3 3#3 0#3 0#3 0#48, .ld 0#4 1#6 2#6 3#6 0#2 3#3 0#3 0#3 3#3 0#48,
    .ld 0#4 1#6 2#6 3#6 0#2 3#3 0#3 1#3 0#3 0#48, .ld 0#4 1#6 2#6 3#6 0#2 3#3 1#3 7#3 0#3 0#48, .st 1#6 2#6 3#6 0#2 4#3 0#3 0#3 0#3 0#48,
    .st 1#6 2#6 3#6 0#2 3#3 2#3 0#3 0#3 0#48, .st 1#6 2#6 3#6 0#2 3#3 0#3 0#3 1#3 0#48, .st 1#6 2#6 3#6 0#2 3#3 0#3 1#3 0#3 0#48,
    .ldf 32#6 2#6 3#6 0#2 2#3 0#3 0#3 0#3 0#48, .ldf 1#6 2#6 3#6 0#2 0#3 0#3 0#3 0#3 0#48, .stf 32#6 2#6 3#6 0#2 2#3 0#3 0#3 0#3 0#48,
    .stf 1#6 2#6 3#6 0#2 4#3 0#3 0#3 0#3 0#48, .ldp 63#6 2#6 3#6 0#2 4#3 0#3 0#3 0#3 0#48, .ldp 1#6 2#6 3#6 0#2 3#3 0#3 0#3 0#3 0#48,
    .stp 63#6 2#6 3#6 0#2 4#3 0#3 0#3 0#3 0#48, .stp 1#6 2#6 3#6 0#2 3#3 0#3 0#3 0#3 0#48, .ldb 2#4 1#6 2#6 3#6 0#2 0#3 0#3 0#48,
    .prefL1 1#6 2#6 0#2 2#3 0#48, .prefL2 1#6 2#6 0#2 2#3 0#48, .amoAdd 1#6 2#6 3#6 1#3 1#3 0#3 0#48, .amoAdd 1#6 2#6 3#6 2#3 0#3 0#3 0#48,
    .amoAdd 1#6 2#6 3#6 2#3 7#3 0#3 0#48, .amoAdd 1#6 2#6 3#6 2#3 1#3 7#3 0#48, .cas 1#6 2#6 3#6 4#3 1#3 0#3 0#48,
    .amofAdd 1#6 2#6 3#6 3#3 1#3 0#3 0#48, .amofMin 32#6 2#6 3#6 2#3 1#3 0#3 0#48, .amofMax 1#6 2#6 32#6 2#3 1#3 0#3 0#48,
    .fence 1#3 0#3, .fence 7#3 0#3, .fence 2#3 7#3, .barw 1#6 2#6 3#6 0#2 2#3 4#3 0#3 0#48, .barw 1#6 2#6 3#6 0#2 3#3 3#3 0#3 0#48,
    .waitv 12#4 1#6 2#6 3#6 3#3 1#3 0#3 0#48, .waitv 0#4 1#6 2#6 3#6 1#3 1#3 0#3 0#48, .waitv 0#4 1#6 2#6 3#6 3#3 3#3 0#3 0#48,
    .waitf 1#6 2#6 3#6 0#2 2#3 0#48, .waitfE 1#6 2#6 3#6 0#2 2#3 0#48, .fill 1#6 2#6 3#6 0#2 2#3 0#48, .empty 1#6 2#6 0#2 2#3 0#48],
    operandsOk i = false := by decide

theorem test_ill_threads_and_sets : ∀ i ∈ [Instr.fork 1#6 60#6 1#3 0#37 0#3, .forkJ 1#6 2#6 60#6 1#3 0#37 0#3, .forkJ 1#6 0#6 3#6 1#3 0#37 0#3,
    .retireJ 0#6, .send 1#6 0#6, .send 1#6 57#6, .dqpush 57#6 1#3, .dqpop 0#6 1#3, .dqsplit 61#6 1#3 0#37 0#3, .dqsteal 57#6 1#3,
    .dqstealAt 0#6 1#6 1#3, .launch 1#6 2#6 57#6 1#3, .qalloc 1#3 9#32, .qfree 9#32, .qmask 1#3 2#3 3#3 8#32, .qmovTox 1#3 61#6,
    .qmovFromx 1#3 0#6, .scfg 8#5 1#6 2#6 0#2 0#1 0#1 0#4 1#3, .scfg 1#5 1#6 2#6 0#2 0#1 0#1 5#4 1#3, .scfg 1#5 1#6 63#6 0#2 0#1 0#1 0#4 1#3,
    .scfg 1#5 1#6 57#6 3#2 0#1 0#1 0#4 1#3, .scfgm 8#5 0#1 0#1 0#4 0#3 1#3, .scfgm 1#5 0#1 0#1 7#4 0#3 1#3, .sen 0#8, .sdis 0#8, .swait 0#8],
    operandsOk i = false := by decide

theorem test_ill_vector : ∀ i ∈ [Instr.vadd 1#5 2#5 3#5 3#4 0#3 0#2, .vadd 1#5 2#5 3#5 0#4 7#3 0#2, .vadd 1#5 2#5 3#5 0#4 0#3 2#2,
    .vfma 1#5 2#5 3#5 4#5 3#4 0#3 0#2, .vfmaMs 1#5 2#5 3#5 4#5 0#4 7#3 0#2, .vmin 1#5 2#5 3#5 6#4 0#2, .vsgnNeg 1#5 2#5 3#5 0#4 2#2,
    .vcmp 8#4 0#5 1#5 2#5 0#4 1#3 0#2 0#32, .vcmp 0#4 0#5 1#5 2#5 3#4 1#3 0#2 0#32, .vcmp 0#4 1#5 1#5 2#5 0#4 1#3 0#2 0#32,
    .vcmp 0#4 1#5 1#5 2#5 0#4 1#3 0#2 2#32, .vsel 1#5 2#5 3#5 4#5 5#4 0#2, .vmov 1#5 2#5 7#4, .vsqrt 1#5 2#5 0#4 7#3,
    .vredSum 1#5 2#5 3#4 0#3, .vdot 1#5 2#5 3#5 0#4 0#3 2#2, .vsclI 1#5 2#5 3#4 0#3 0#32, .vsclE 1#5 2#5 3#5 0#4 7#3 0#2,
    .vcls 1#5 2#5 0#4 1#3 512#32, .vexp 1#5 2#5 3#4, .viaddAdd 1#5 2#5 3#5 0#4 0#2, .vimulHiu 1#5 2#5 3#5 6#4 2#2, .vlogicNot 1#5 2#5 0#4,
    .vshfRot 1#5 2#5 3#5 7#4 0#2], operandsOk i = false := by decide

theorem test_ill_images_cube_and_system : ∀ i ∈ [Instr.cvt 6#4 1#5 2#5 0#4 0#3 0#32, .cvt 0#4 1#5 2#5 8#4 0#3 0#32, .cvt 0#4 1#5 2#5 1#4 7#3 0#32,
    .cvt 0#4 1#5 2#5 1#4 0#3 2#32, .cvti 0#4 1#5 2#5 1#4 0#3 0#32, .cvti 6#4 1#5 2#5 8#4 0#3 0#32, .pack 3#4 1#5 2#5 3#5 5#4 0#3 0#32,
    .pack 0#4 1#5 2#5 3#5 6#4 0#3 0#32, .pack 0#4 1#5 2#5 3#5 5#4 0#3 2#32, .packStrm 0#4 1#5 2#5 8#4 0#3 5#32, .packStrm 0#4 1#5 2#5 5#4 0#3 1#32,
    .unpk 6#4 1#5 2#5 0#4 0#3 0#32, .unpkHi 5#4 1#5 2#5 0#4 0#3 1#32, .unpkStrm 9#4 1#5 2#5 0#4 0#3 4#32, .plane 1#5 2#5 0#4, .unplane 1#5 2#5 8#4,
    .spack 1#5 2#5 3#5 0#4 1#3, .spackChk 1#5 2#5 5#4 1#3, .nfscan 1#5 2#5 5#4 1#3, .cclaim 8#6, .cprom 1#6 2#6 3#6 4#6 0#9 3#2,
    .cqput 1#6 2#6 0#6 1#3, .hwait 1#6 2#6 0#4, .trecv 0#6, .trecvTry 61#6 1#3, .tread 1#6 2#6 0#12 1#3 64#32, .tread 1#6 2#6 1#12 1#3 0x600#32,
    .twrite 1#6 2#6 0x002#12 1#3 0x600#32, .slotTurn 0, .loadReplyArrival 1], operandsOk i = false := by decide

/-- Reserved encodings are refused by name (R40): an opcode, a SUBF, a field, a value. -/
theorem test_reserved_encodings :
    decodeSlot 0x0800_0000_0000_0000_0000_0000#96 = .error .reservedOpcode ∧
    decodeSlot 0x0430_2800_0010_0000_0000_0000#96 = .error .reservedSubf ∧
    decodeSlot 0x0600_0000_0000_0000_0000_0001#96 = .error .reservedField ∧
    decodeSlot 0x3AC0_0841_4030_0000_0000_0000#96 = .error .reservedValue := by decide +kernel

/-- The encoder gives the words of the spec, with a guard in bits 83:80 (R30). -/
theorem test_encode :
    encode ⟨0#3, false⟩ (.add 6#6 7#6 8#6 14#4) = some 0x1000_1872_00E0_0000_0000_0000#96 ∧
    encode ⟨3#3, true⟩ (.br 0x1FFFFFFFFE#37 1#3) = some 0x4007_0000_0000_00FF_FFFF_FFF1#96 ∧
    encode ⟨3#3, false⟩ (.mfs 21#6 4#12) = some 0x0406_5400_0010_0000_0000_0000#96 ∧
    encode ⟨0#3, false⟩ (.twrite 2#6 6#6 0#12 1#3 0x400#32) = some 0xF200_0021_8000_8000_0000_0400#96 ∧
    encode ⟨0#3, false⟩ (.slotTurn 0) = none := by decide +kernel

/-- The guard of a slot, and the classes of the opcodes (R23, R30, R38). -/
theorem test_guard_and_class :
    slotGuard 0x8403_0000_0000_0000_0000_0000#96 = ⟨1#3, true⟩ ∧ classI 0x10#8 = true ∧ classV 0x10#8 = false ∧ classV 0xB3#8 = true := by
  decide +kernel


/-! ### A small machine: partition 0 with one launch and one thread, in slot 0 of core 0 -/

/-- A thread of launch 1 with x registers set: x2 the base of the window, x3 an aligned global address. -/
def tstThread (xs : List (BitVec 6 × Word)) : Thread :=
  (xs ++ [(2#6, 0xFF80000000000000#64), (3#6, 0x20000#64)]).foldl (fun t e => t.setX e.1 e.2)
    { Thread.blank with dom := 0, asn := 1, launch := 1, root := 0x10000, pc := 0x1000, lastPc := 0x1000, allot := 4, gen := 1 }

/-- Launch 1 with 4 KiB of local memory. -/
def tstLaunch : Launch :=
  { Launch.none with
    serial := 1, asn := 1, root := 0x10000, cores := [0], roles := [0], work := 1, crecPa := 0x8000
    hdr := { Hdr.zero with clusters := 1, cols := 1, rows := 1, lmem := 4096, deque := 4, inbox := 2, handles := 4, sluice := 2,
                           conf := 4, openMax := 100, qregs := 8, cube := true } }

/-- Partition 0, running, with one launch. -/
def tstDom : Dom := { Dom.blank 0 with st := .running, groups := 1, llcs := 1, stks := 1, launches := [(1, tstLaunch)], nextSerial := 2, bias := 0x40000 }

/-- The machine: the thread `t` in slot 0 of core 0. -/
def tst (t : Thread) : State :=
  { State.reset with
    cores := [(0, { Core.idle 0 0 with part := some 0, slots := [(0, t)] })], doms := [(0, tstDom)], ready := true, bootStep := 7
    iss := { Issue.empty with pc := 0x1000, npc := 0x100C } }

/-- Change core 0. -/
def tstCore (s : State) (g : Core → Core) : State := s.modCore 0 g
/-- Change domain 0. -/
def tstPart (s : State) (g : Dom → Dom) : State := s.modDom 0 g

/-- The effective address of base x2, offset `o`. -/
def tstEa (s : State) (o : Nat) : Word := s.rx 2#6 + s.rx 0#6 * 2#64 ^ 0 + (BitVec.ofNat 48 o).signExtend 64

/-- The thread of the small machine, alone. -/
def tst0 : State := tst (tstThread [(4#6, 5#64), (5#6, 64#64), (6#6, 1#64)])

/-! ### Witnesses: the hypotheses of the statements are met together -/

theorem witness_shift_count : wBits 0#4 ≤ (8#64).toNat ∧ (7#64).toNat < wBits 0#4 := by decide
theorem witness_sel : tst0.rp ((0#6).setWidth 3) = true ∧ tst0.rp ((1#6).setWidth 3) = false := by decide +kernel
theorem witness_bfx : 1 ≤ (tst0.rx 5#6).toNat % 128 ∧ (tst0.rx 5#6).toNat % 128 ≤ 64 ∧ (tst0.rx 0#6).toNat % 128 = 0 := by
  decide +kernel
theorem witness_branch : conditionOf 0 64 (tst0.rx 0#6) 0#64 ∧ ¬conditionOf 1 64 (tst0.rx 0#6) 0#64 ∧
    conditionOf 11 64 (tst0.rx 4#6) 0#64 ∧ tst0.rx 6#6 = 1#64 ∧ tst0.rx 4#6 ≠ 1#64 := by
  simp only [conditionOf]; decide +kernel
theorem witness_software_trap : conditionOf 5 64 (tst0.rx 4#6) (tst0.rx 6#6) ∧ ¬conditionOf 0 64 (tst0.rx 4#6) (tst0.rx 6#6) := by
  simp only [conditionOf]; decide +kernel
theorem witness_levels : tst0.cur.lvl.toNat < 1 ∧ tst0.cur.lvl.toNat < 2 ∧ tst0.cur.lvl.toNat < 3 := by decide +kernel
theorem witness_mfs : tst0.iss.core < 3840 ∧ tst0.iss.slot < 16 ∧ tst0.cur.dom < 16 ∧ tst0.cur.asn < 65536 ∧ tst0.cur.launch < 2 ^ 32 ∧
    tst0.curCore.cyc < 2 ^ 64 ∧ tst0.cur.allot ≤ 8 ∧ tst0.curLaunch.hdr.qregs ≤ 8 ∧ tst0.curLaunch.hdr.deque ≤ 4096 ∧
    tst0.curLaunch.lbase + tst0.curLaunch.hdr.lmem < 2 ^ 18 ∧ (tst0.cache 0).lines.length < 4096 ∧ tst0.curDom.acct.snapStage ≤ 4 ∧
    (∀ o ∈ tst0.curCore.vec.ops, ¬(o.slot = tst0.iss.slot ∧ o.gen = tst0.cur.gen)) := by decide +kernel

/-- A V-operation of the thread in flight. -/
def tstOp : VecOp := ⟨1, 0, 1, 0x1000, 20, some (1#5, 7#64), none, 0, none, 0, 2, 0, 0⟩
def tstBusy : State := tstCore tst0 fun k => { k with vec := ⟨none, [tstOp]⟩ }

theorem witness_mfs_waits : ¬∀ o ∈ tstBusy.curCore.vec.ops, ¬(o.slot = tstBusy.iss.slot ∧ o.gen = tstBusy.cur.gen) := by decide +kernel
theorem witness_mfs_trap_queue : 1 ≤ (tst { tstThread [] with lvl := 1 }).cur.lvl.toNat := by decide +kernel
theorem witness_cubest : tst0.curCore.cube.queue.length ≤ 2 ∧ tst0.curCore.cube.owner = none ∧
    (tstCore tst0 fun k => { k with cube := { k.cube with owner := some 0 } }).curCore.cube.owner = some 0 := by decide +kernel
theorem witness_mts : (tst0.rx 0#6).toNat % 4 ≤ tst0.cur.lvl.toNat ∧ tst0.cur.lvl.toNat < (tst0.rx 4#6).toNat % 4 ∧
    (tst0.rx 4#6).toNat % 8 < 6 ∧ 6 ≤ ((tst (tstThread [(4#6, 6#64)])).rx 4#6).toNat % 8 ∧ tst0.iss.slot ≠ 15 := by decide +kernel

theorem witness_local_access : tst0.InRegion (tstEa tst0 8) 8 ∧ tst0.Unpoisoned (tst0.localOf (tstEa tst0 8)) 8 ∧ tst0.Plain 3#5 ∧
    tst0.InRegion (tstEa tst0 4080) 16 ∧ tst0.InRegion (tstEa tst0 4095) 1 ∧ tst0.Unpoisoned (tst0.localOf (tstEa tst0 4080)) 16 ∧
    tst0.curOutstanding = [] ∧ tst0.curReleases = [] ∧ tst0.InRegion (tst0.rx 2#6 + (4#48).signExtend 64) 4 ∧
    tst0.Unpoisoned (tst0.localOf (tst0.rx 2#6 + (4#48).signExtend 64)) 4 := by
  unfold State.InRegion State.Unpoisoned State.Plain; decide +kernel
/-- The last bit of the region. -/
theorem witness_bit_access : let b : Int := (tst0.rx 4#6).toNat + (tst0.rx 0#6).toNat * 2 ^ 0 + (32762#48).toInt
    0 ≤ b ∧ b + 1 ≤ 8 * tst0.curLaunch.hdr.lmem ∧ tst0.Unpoisoned (tst0.curLaunch.lbase + b.toNat / 8) 1 := by
  unfold State.Unpoisoned; decide +kernel
/-- A store of the thread on its way home, for which a release waits. -/
def tstOut : State := { tst0 with net := [{ tst0.newMsg 0 0 .store 0x20000 8 0x20000 with }], nextId := 2 }
theorem witness_release_waits : 3 ≤ (3#3).toNat ∧ tstOut.curOutstanding ≠ [] ∧ tstOut.InRegion (tstEa tstOut 8) 8 := by
  unfold State.InRegion; decide +kernel
theorem witness_cas : (∀ j < 64, tst0.lbit (tst0.localOf (tstEa tst0 8)) j = (tst0.rx 0#6).getLsbD j) ∧
    ¬∀ j < 64, tst0.lbit (tst0.localOf (tstEa tst0 8)) j = (tst0.rx 4#6).getLsbD j := by decide +kernel
theorem witness_access_traps : (tstEa tst0 4).toNat % 8 ≠ 0 ∧ (tstEa tst0 4096).toNat % 8 = 0 ∧
    tst0.curLaunch.hdr.lmem < (tstEa tst0 4096).toNat - Config.windowBase + 8 ∧
    ¬(tstCore tst0 fun k => { k with lpoison := [1] }).Unpoisoned 8 8 := by
  unfold State.Unpoisoned; decide +kernel

/-- Word 1 of local memory is full. -/
def tstFull : State := tstCore tst0 fun k => { k with full := [1] }
/-- Slots 1 and 2 wait for word 1, slot 1 to take it. -/
def tstWaiters : State := tstCore tst0 fun k => { k with slots := k.slots ++
  [(1, { tstThread [] with gen := 2, st := .parked (.word 8 true 9#6) }), (2, { tstThread [] with gen := 3, st := .parked (.word 8 false 9#6) })] }
theorem witness_full_word : tstFull.InRegion (tstEa tstFull 8) 8 ∧ tstFull.localOf (tstEa tstFull 8) / 8 ∈ (tstFull.core tstFull.iss.core).full ∧
    tstFull.Unpoisoned (tstFull.localOf (tstEa tstFull 8)) 8 ∧ tst0.localOf (tstEa tst0 8) / 8 ∉ (tst0.core tst0.iss.core).full ∧
    tst0.iss.slot ≠ 14 ∧ ({ tst0 with iss := { tst0.iss with slot := 14 } }).iss.slot = 14 := by
  unfold State.InRegion State.Unpoisoned; decide +kernel
theorem witness_fill : tstWaiters.InRegion (tstEa tstWaiters 8) 8 ∧ tstWaiters.curOutstanding = [] ∧ tstWaiters.cur.st = .ready ∧
    keysRise tstWaiters.curCore.slots = true ∧
    (tstWaiters.thread? 0 1).map (·.st) = some (.parked (.word (tstWaiters.localOf (tstEa tstWaiters 8)) true 9#6)) := by
  unfold State.InRegion; decide +kernel

/-! ### Turns and fetches -/

/-- A line whose slots are `ws`, its line word clear. -/
def tstLine (ws : List (BitVec 96)) : BitVec 512 :=
  ws.foldr (fun w l => (l <<< 96) ||| w.setWidth 512) 0#512

/-- The small machine at its turn: the thread runs on in a line that it holds. -/
noncomputable def tstTurn (ws : List (BitVec 96)) : State :=
  { tst { tstThread [(7#6, 3#64), (8#6, 4#64)] with held := some ⟨0x1000, tstLine ws⟩, xfer := false } with agenda := [.slotTurn 0] }

theorem witness_step (w : BitVec 96) (h : w = 0x1000_1872_0030_0000_0000_0000#96 ∨ w = 0x0800_0000_0000_0000_0000_0000#96 ∨
    w = 0x1002_1872_0030_0000_0000_0000#96 ∨ w = 0xFF00_0000_0000_0000_0000_0000#96) :
    (tstTurn [w]).latch = none ∧ (tstTurn [w]).agenda = [.slotTurn 0] ∧ { tstTurn [w] with agenda := [] }.mayTurn 0 = true ∧
    { tstTurn [w] with agenda := [] }.enabled ((tstTurn [w]).core 0) = true ∧ ((tstTurn [w]).core 0).tc % 16 = 0 ∧
    { tstTurn [w] with agenda := [] }.expiryDue 0 0 ((tstTurn [w]).thread 0 0) = false ∧
    ((tstTurn [w]).thread 0 0).hold.all (tstTurn [w]).acked = true ∧
    ({ tstTurn [w] with agenda := [] }.fetchLine 0 0).2 = some (tstLine [w]) ∧ pcSlot 0x1000#64 = some 0 ∧
    0 ∉ tplPairs (lineTpl (tstLine [w])) ∧ (tstTurn [w]).curCore.vec.ops = [] ∧ (tstTurn [w]).curCore.vec.stage = none := by
  rcases h with h | h | h | h <;> subst h <;> decide +kernel
theorem witness_step_slots : guardOn (tstThread []) 0x1000_1872_0030_0000_0000_0000#96 = true ∧
    decodeSlot 0x1000_1872_0030_0000_0000_0000#96 = .ok (.add 6#6 7#6 8#6 3#4) ∧
    decodeSlot 0x0800_0000_0000_0000_0000_0000#96 = .error .reservedOpcode ∧
    guardOn (tstThread []) 0x1002_1872_0030_0000_0000_0000#96 = false ∧ slotOpc 0xFF00_0000_0000_0000_0000_0000#96 = 0xFF#8 := by
  decide +kernel

/-- R106, R89: a step at the thread's turn runs ADD x6, x7, x8 and leaves the PC at the next slot. -/
theorem test_step_add : (match step (tstTurn [0x1000_1872_0030_0000_0000_0000#96]) with
    | .next t => (t.thread 0 0).getX 6#6 == 7#64 && (t.thread 0 0).pc == 0x100C#64 && (t.core 0).cyc == 1
    | _ => false) = true := by decide +kernel

/-- The first instruction after reset that withFetchWord places runs in the very next step. -/
theorem test_first_step : (match step (State.reset.withFetchWord 96 0x2500_0803_0000_0000_0000_1234) with
    | .next t => (t.thread 0 0).getX 2#6 == 0x1234#64
    | _ => false) = true := by decide +kernel
theorem test_table_word : decodeTableWord 96 0x2500_0803_0000_0000_0000_1234 = some (.ldi 2#6 3#4 0x1234#64) := by decide +kernel

/-! ### Global memory -/

/-- Flags of a leaf: V, R, W and C; the page is cached. -/
def tstFlags : BitVec 10 := 0x2D
/-- The TLB entry of the page at 0x20000, which maps to itself. -/
def tstEnt (fl : BitVec 10) (bias : BitVec 2) : TlbEnt := ⟨0, 1, 0x20000, 12, 0x20000, fl, 0, [(0, bias)], 4⟩
/-- The small machine with a translation for the page at 0x20000. -/
def tstG (fl : BitVec 10) (bias : BitVec 2) : State := tstCore tst0 fun k => { k with tlb := [tstEnt fl bias] }
/-- A line at 0x20000 of the core's L1. -/
def tstLineL1 (valid dirty : BitVec 128) (poison : BitVec 16) : L1Line := ⟨0, 0x400, 0, valid, dirty, 0, false, poison, 0, 0, []⟩
/-- With the line in the L1 of core 0. -/
def tstHit (s : State) (valid dirty : BitVec 128) (poison : BitVec 16) : State :=
  s.setCache 0 { Cache.empty with lines := [tstLineL1 valid dirty poison] }
/-- With a store of the thread under way that is a release or not. -/
def tstSent (s : State) (k : MKind) : State := { s with net := [s.newMsg 0 0 k 0x30000 8 0x30000], nextId := 2 }

theorem witness_global_load_hit : let s := tstHit (tstG tstFlags 0) (BitVec.allOnes 128) 0 0
    let p := tstHit (tstG tstFlags 0) (BitVec.allOnes 128) 0 0xFFFF
    s.translateCur (s.rx 3#6) .read = (s, .ok 0x20000 (tstEnt tstFlags 0)) ∧ Global (s.rx 3#6) 8 ∧ Global (s.rx 3#6) 16 ∧
    s.curReleases = [] ∧ s.loadL1 (s.agentOf 0) 0 0x20000 8 = some (0, false) ∧ s.loadL1 (s.agentOf 0) 0 0x20000 16 = some (0, false) ∧
    p.translateCur (p.rx 3#6) .read = (p, .ok 0x20000 (tstEnt tstFlags 0)) ∧ p.loadL1 (p.agentOf 0) 0 0x20000 8 = some (0, true) ∧
    (tstEnt tstFlags 0).flags.getLsbD 5 = true := by
  unfold Global; decide +kernel
theorem witness_global_load_miss : let s := tstG tstFlags 0
    let u := tstG 0x0D 0
    let r := tstSent (tstG tstFlags 0) .release
    s.translateCur (s.rx 3#6) .read = (s, .ok 0x20000 (tstEnt tstFlags 0)) ∧ s.loadL1 (s.agentOf 0) 0 0x20000 8 = none ∧
    u.translateCur (u.rx 3#6) .read = (u, .ok 0x20000 (tstEnt 0x0D 0)) ∧ (tstEnt 0x0D 0).flags.getLsbD 5 = false ∧
    r.translateCur (r.rx 3#6) .read = (r, .ok 0x20000 (tstEnt tstFlags 0)) ∧ r.curReleases ≠ [] := by decide +kernel
theorem witness_global_store : let s := tstHit (tstG tstFlags 0) 0xFF#128 0xF#128 0
    let c := tstHit (tstG tstFlags 0) 0xFF#128 0 0
    let m := tstG tstFlags 0
    let u := tstG 0x0D 0
    let b := (tstG tstFlags 0).setCache 0 { Cache.empty with relcnt := 0x7FFFFF#64, fold := some (false, []) }
    (∀ z ∈ [s, c, m], z.translateCur (z.rx 3#6) .write = (z, .ok 0x20000 (tstEnt tstFlags 0)) ∧ z.curReleases = [] ∧
      z.curOutstanding = [] ∧ z.foldBlocks (z.agentOf 0) = false) ∧
    (s.cache 0).find 0 0x400 = some (tstLineL1 0xFF#128 0xF#128 0) ∧ (c.cache 0).find 0 0x400 = some (tstLineL1 0xFF#128 0 0) ∧
    (m.cache 0).find 0 0x400 = none ∧
    u.translateCur (u.rx 3#6) .write = (u, .ok 0x20000 (tstEnt 0x0D 0)) ∧ u.curOutstanding = [] ∧
    b.translateCur (b.rx 3#6) .both = (b, .ok 0x20000 (tstEnt tstFlags 0)) ∧
    b.translateCur (b.rx 3#6) .write = (b, .ok 0x20000 (tstEnt tstFlags 0)) ∧ b.foldBlocks (b.agentOf 0) = true ∧
    s.translateCur (s.rx 3#6) .both = (s, .ok 0x20000 (tstEnt tstFlags 0)) ∧ Global (s.rx 3#6) 4 := by
  unfold Global; decide +kernel
/-- Prefetches: in the window, where the address does not translate, where nothing is needed, where a line is. -/
theorem witness_prefetch : let n := tst0
    let h := tstHit (tstG tstFlags 0) (BitVec.allOnes 128) 0 0
    let m := tstG tstFlags 0
    (Config.windowBase ≤ (n.rx 2#6).toNat ∧ (n.rx 2#6).toNat < Config.windowBase + Config.windowBytes) ∧
    ¬(Config.windowBase ≤ (n.rx 3#6).toNat) ∧ (∃ s c i, n.translateCur (n.rx 3#6) .read = (s, .fail c i)) ∧
    h.translateCur (h.rx 3#6) .read = (h, .ok 0x20000 (tstEnt tstFlags 0)) ∧ h.loadL1 h.curAgent h.cur.dom 0x20000 128 ≠ none ∧
    m.translateCur (m.rx 3#6) .read = (m, .ok 0x20000 (tstEnt tstFlags 0)) ∧ m.loadL1 m.curAgent m.cur.dom 0x20000 128 = none :=
  ⟨by decide +kernel, by decide +kernel, ⟨_, _, _, rfl⟩, by decide +kernel, by decide +kernel, by decide +kernel, by decide +kernel⟩

/-- A request of thread 0 at its home, with what the statement at hand needs changed by `g`. -/
def tstReq (k : MKind) (g : Msg → Msg) : Msg := g (tst0.newMsg 0 0 k 0x20008 8 0x20008)
/-- The small machine with that request and the domain changed by `h`. -/
def tstHome (m : Msg) (h : Dom → Dom) : State := { tstPart tst0 h with net := [m], nextId := 10 }
/-- A decidable form of AtHome. -/
def tstAtHome (s : State) (id : Nat) (write : Bool) (m : Msg) : Bool :=
  decide (s.findMsg id = some m) && decide (m.st = .sent) && decide (m.group = []) && s.atHome m &&
    (match s.gate m.dom m.pa id write with | .ready t => decide (t = s) | .blocked _ => false) && decide ((s.dom m.dom).reqs = [])
theorem atHome_of (s : State) (id : Nat) (write : Bool) (m : Msg) (h : tstAtHome s id write m = true) : s.AtHome id write m := by
  simp only [tstAtHome, Bool.and_eq_true, decide_eq_true_eq] at h
  refine ⟨h.1.1.1.1.1, h.1.1.1.1.2, h.1.1.1.2, h.1.1.2, ?_, h.2⟩
  have g := h.1.2
  split at g
  · rename_i t e; rw [e, of_decide_eq_true g]
  · cases g
/-- A record of the line by core 1, in state `st`; none for 0. -/
def tstRec (st : Nat) (v : Dom) : Dom := { v with recs := if st = 0 then [] else [(0x400, ⟨1, 3, 3, st⟩)] }

/-- A request of each kind, and whether it writes. -/
def tstReqs : List (Bool × Msg) := [(false, tstReq (.load true false true) id),
      (true, tstReq .writeBack fun m => { m with pa := 0x20000, n := 128, mask := 0xF }), (true, tstReq .store id),
      (true, tstReq .store fun m => { m with wait := true }), (true, tstReq (.atomic 0 0) id), (true, tstReq (.atomic 9 0) id),
      (true, tstReq (.atomic 9 1) id), (true, tstReq (.atomic 0 0) fun m => { m with ord := 5, scope := 3 }),
      (true, tstReq .release fun m => { m with ord := 3, scope := 3 }), (false, tstReq .read fun m => { m with ord := 2, scope := 3 })]
theorem witness_home : ∀ st ∈ [0, 1, 2, 3], ∀ m ∈ tstReqs,
    (tstHome m.2 (tstRec st)).AtHome m.2.id m.1 m.2 ∧ m.2.id < (tstHome m.2 (tstRec st)).nextId := by
  intro st hs m hm
  have : ∀ st ∈ [0, 1, 2, 3], ∀ m ∈ tstReqs, tstAtHome (tstHome m.2 (tstRec st)) m.2.id m.1 m.2 = true ∧
      m.2.id < (tstHome m.2 (tstRec st)).nextId := by decide +kernel
  exact ⟨atHome_of _ _ _ _ (this st hs m hm).1, (this st hs m hm).2⟩
theorem witness_atomic_words : amoNew 0 8 7 5 0 = some 12 ∧ amoNew 9 8 7 5 0 = none ∧ amoNew 9 8 0 5 0 = some 5 := by decide +kernel
theorem witness_drain_first (st : Nat) (h : st = 1 ∨ st = 2) : let m := tstReq .read fun m => { m with ord := 2, scope := 3 }
    mustDrainFirst (tstHome m (tstRec st)) m ⟨1, 3, 3, st⟩ ∧ mustOverwriteFirst (tstHome m (tstRec st)) m ⟨1, 3, 3, st⟩ := by
  rcases h with rfl | rfl <;> (unfold mustDrainFirst mustOverwriteFirst; decide +kernel)
/-- Without a record, or with a drained one, nothing has to be drained first. -/
theorem witness_no_drain (st : Nat) (e : st = 0 ∨ st = 3) (m : Msg)
    (k : m = tstReq .read id ∨ m = tstReq .release id ∨ m = tstReq (.atomic 0 0) id) :
    (∀ r, ¬mustDrainFirst (tstHome m (tstRec st)) m r) ∧ ∀ r, ¬mustOverwriteFirst (tstHome m (tstRec st)) m r := by
  have e : ∀ r, lookup ((tstHome m (tstRec st)).dom m.dom).recs (m.pa / 128) = some r → r.st = 3 := by
    intro r
    rcases e with rfl | rfl <;> rcases k with rfl | rfl | rfl <;> intro q <;> first | (cases q; done) | (injection q with q; subst q; rfl)
  refine ⟨fun r hr => ?_, fun r hr => ?_⟩ <;> (have := e r hr.1; have := hr.2.1; omega)

/-- Core 1 owes a drain; it serves it and then the home hears of it. -/
def tstDrain (st : MSt) : Msg := tstReq (.drain 1 3 7) fun m => { m with st := st }
theorem witness_drains : (tstHome (tstDrain .sent) (tstRec 2)).findMsg (tstDrain .sent).id = some (tstDrain .sent) ∧
    (tstDrain .sent).id < (tstHome (tstDrain .sent) (tstRec 2)).nextId ∧
    (tstHome (tstDrain .replied) (tstRec 2)).findMsg (tstDrain .replied).id = some (tstDrain .replied) ∧
    (∀ x ∈ (tstDrain .replied).after, (tstHome (tstDrain .replied) (tstRec 2)).acked x = true) := by decide +kernel
theorem witness_folds : let c (n : Nat) (f : Option (Bool × List Nat)) := (tst0.setCache 0 { Cache.empty with relcnt := BitVec.ofNat 64 n, fold := f })
    ((c 0x7FFFFF none).cache 0).relcnt.toNat + 1 = 2 ^ 23 ∧ (((c 0 none).cache 0).relcnt + 1#64).toNat % 2 ^ 23 ≠ 0 ∧
    ((c 0 (some (false, []))).cache 0).fold = some (false, []) ∧ (∀ x ∈ [5], (c 0 (some (true, [5]))).acked x = true) ∧
    ∃ x ∈ [1], ({ c 0 (some (true, [1])) with net := [tstReq .writeBack id] }).acked x = false := by decide +kernel
theorem witness_evictions : ∀ st ∈ [1, 2, 3], lookup ((tstHome (tstReq .store id) (tstRec st)).dom 0).recs 0x400 = some ⟨1, 3, 3, st⟩ := by
  decide +kernel

/-! ### Replies, fences and waits -/

/-- The thread of the small machine waits for request 1. -/
def tstParked (s : State) : State := s.modThread 0 0 fun t => { t with st := .parked (.home 1) }
/-- A request of the thread that has been answered. -/
def tstReply (k : MKind) (g : Msg → Msg) : Msg := tstReq k fun m => g { m with st := .replied, wait := true, dst := .x 7#6 false }

theorem witness_load_reply : let m := tstReply (.load true false false) id
    let b := tstReply (.load false false false) fun m => { m with pmask := 2 }
    ∀ z ∈ [(m, tstParked (tstHome m id)), (m, tstHit (tstParked (tstHome m id)) 0xF00#128 0xF00#128 0), (b, tstParked (tstHome b id))],
    z.2.findMsg 1 = some z.1 ∧ z.1.st = .replied ∧ Waiting z.2 z.1 (z.2.thread 0 0) ∧ z.1.dst = .x 7#6 false ∧
    z.1.pa % 128 + z.1.n ≤ 128 ∧ z.1.n ≤ 8 := by
  unfold Waiting; decide +kernel
/-- Word 1 of the reply is poisoned and the access reads it. -/
theorem witness_load_reply_poison : let m := tstReply (.load false false false) fun m => { m with pmask := 2 }
    ∃ i < 16, m.pa % 128 < 8 * i + 8 ∧ 8 * i < m.pa % 128 + m.n ∧ m.pmask.getLsbD i = true := by decide +kernel
theorem witness_ordered_reply : let m (k : MKind) (i p : Bool) := tstReply k fun m => { m with inval := i, poisoned := p }
    ∀ k ∈ [MKind.read, .store, .atomic 0 0], ∀ i ∈ [true, false], ∀ p ∈ [true, false],
    (tstParked (tstHome (m k i p) id)).findMsg 1 = some (m k i p) ∧ (m k i p).st = .replied ∧ (m k i p).n ≤ 8 ∧
    Waiting (tstParked (tstHome (m k i p) id)) (m k i p) ((tstParked (tstHome (m k i p) id)).thread 0 0) ∧
    (m k i p).mask.getLsbD 1 = false ∧ (m k i p).dst = .x 7#6 false := by
  unfold Waiting; decide +kernel
theorem witness_acknowledgement : ∀ k ∈ [MKind.atomic 0 0, .release, .counter true], ∀ p ∈ [true, false],
    let m := tstReq k fun m => { m with st := .replied, poisoned := p, inval := p }
    let s := tstHome m id
    s.findMsg 1 = some m ∧ m.wait = false ∧ s.thread? 0 0 = some (s.thread 0 0) ∧ (s.thread 0 0).gen = m.gen ∧
    (s.thread 0 0).st = .ready ∧ m.slot ≠ 15 := by decide +kernel

/-- The thread has begun its instruction and waits for request 1. -/
def tstProg (s : State) : State := s.modThread 0 0 fun t => { t with prog := some ⟨1, [1], 0⟩ }
theorem witness_drain_fence : let o := tstSent tst0 .store
    let a := tstSent tst0 (.atomic 0 0)
    let d := tstHit tst0 0xF#128 0xF#128 0
    tst0.cur.prog = none ∧ d.cur.prog = none ∧ (d.cache 0).lines ≠ [] ∧ (tstProg tst0).cur.prog = some ⟨1, [1], 0⟩ ∧
    (∀ id ∈ [1], (tstProg tst0).acked id = true) ∧ (∃ id ∈ [1], (tstProg o).acked id = false) ∧
    o.curOutstanding ≠ [] ∧ a.curAtomics ≠ [] ∧ tst0.curOutstanding = [] ∧ tst0.curAtomics = [] ∧ (tstProg tst0).curAtomics = [] := by
  decide +kernel
theorem witness_drain_line : let s := tstG tstFlags 0
    (∃ u c i, tst0.translateCur (tst0.rx 3#6) .any = (u, .fail c i)) ∧
    s.cur.prog = none ∧ Config.windowBase ≤ (s.rx 2#6).toNat ∧ (s.rx 2#6).toNat < Config.windowBase + Config.windowBytes ∧
    ¬Config.windowBase ≤ (s.rx 3#6).toNat ∧ s.translateCur (s.rx 3#6) .any = (s, .ok 0x20000 (tstEnt tstFlags 0)) :=
  ⟨⟨_, _, _, rfl⟩, by decide +kernel⟩

/-- The small machine with `v` in the local word at `a`. -/
def tstWord (a v : Nat) : State := tstCore tst0 fun k => { k with lmem := Memory.write k.lmem a 8 v }
/-- The thread in the handler slot. -/
def tstHandler (s : State) : State :=
  { tstCore s fun k => { k with slots := [(14, s.cur)] } with iss := { s.iss with slot := 14 } }
theorem witness_local_wait : let r := (tstWord 0 1).rx 2#6
    (∀ s ∈ [tstWord 0 1, tst0, tstHandler tst0], s.curReleases = [] ∧ s.InRegion r 8 ∧ s.InRegion r 4 ∧ s.Unpoisoned (s.localOf r) 8 ∧ r.toNat % 32 = 0) ∧
    Memory.read (tstWord 0 1).curCore.lmem ((tstWord 0 1).localOf r) 8 = 1 ∧ Memory.read tst0.curCore.lmem (tst0.localOf r) 8 = 0 ∧
    (tstHandler tst0).iss.slot = 14 ∧ tst0.iss.slot ≠ 14 ∧ (r + 8#64).toNat % 32 ≠ 0 := by
  unfold State.InRegion State.Unpoisoned; decide +kernel
theorem witness_wait_condition : conditionOf 0 64 0#64 0#64 ∧ ¬conditionOf 1 64 0#64 0#64 := by
  simp only [conditionOf]; decide +kernel
/-- Barrier words: TARGET 0, the last of 2 and the first of 2. -/
theorem witness_barrier_words : barDone 0#64 = true ∧ barDone 0x2000001#64 = false ∧ barLast 0x2000001#64 = true ∧
    barDone 0x2000000#64 = false ∧ barLast 0x2000000#64 = false ∧
    BitVec.ofNat 64 (Memory.read (tstWord 0 0x2000001).curCore.lmem 0 8) = 0x2000001#64 ∧
    (tstWord 0 0x2000001).localOf (tst0.rx 2#6) = 0 ∧ (tstWord 0 0x2000001).curOutstanding = [] := by decide +kernel

/-! ### Waits at the home, threads and messages -/

theorem witness_global_wait : let s := tstG tstFlags 0
    let b := s.setCache 0 { Cache.empty with relcnt := 0x7FFFFF#64, fold := some (false, []) }
    Global (s.rx 3#6) 8 ∧ (s.rx 3#6).toNat % 32 = 0 ∧ s.translateCur (s.rx 3#6) .read = (s, .ok 0x20000 (tstEnt tstFlags 0)) ∧
    s.translateCur (s.rx 3#6) .both = (s, .ok 0x20000 (tstEnt tstFlags 0)) ∧ s.foldBlocks (s.agentOf 0) = false ∧
    b.translateCur (b.rx 3#6) .both = (b, .ok 0x20000 (tstEnt tstFlags 0)) ∧ b.foldBlocks (b.agentOf 0) = true := by
  unfold Global; decide +kernel

/-- Requests that wait at a home, with the word at 0x20008 set to `v`. -/
def tstWaitMsg (k : MKind) (slot : Nat) : Msg := tstReq k fun m => { m with slot := slot, wait := true, dst := .x 7#6 false }
def tstMem (v : Nat) (d : Dom) : Dom := { d with mem := Memory.write d.mem 0x20008 8 v }
theorem witness_waiting_reads : ∀ k ∈ [MKind.join, .lwait, .waitv 0 0, .barw, .counter true, .counter false], ∀ sl ∈ [0, 14], ∀ v ∈ [0, 1, 0x2000000, 0x2000001],
    let m := tstWaitMsg k sl
    let s := tstHome m (tstMem v)
    s.AtHome 1 false m ∧ s.AtHome 1 true m ∧ m.id < s.nextId ∧ m.n = 8 ∧ m.mask = 0#128 ∧ Memory.read (s.dom m.dom).mem m.pa m.n = v ∧
    lookup (s.dom m.dom).recs (m.pa / 128) = none ∧ (s.dom m.dom).poison = [] := by
  intro k hk sl hs v hv
  have : ∀ k ∈ [MKind.join, .lwait, .waitv 0 0, .barw, .counter true, .counter false], ∀ sl ∈ [0, 14], ∀ v ∈ [0, 1, 0x2000000, 0x2000001],
      let m := tstWaitMsg k sl
      let s := tstHome m (tstMem v)
      tstAtHome s 1 false m = true ∧ tstAtHome s 1 true m = true ∧ m.id < s.nextId ∧ m.n = 8 ∧ m.mask = 0#128 ∧ Memory.read (s.dom m.dom).mem m.pa m.n = v ∧
      lookup (s.dom m.dom).recs (m.pa / 128) = none ∧ (s.dom m.dom).poison = [] := by decide +kernel
  have h := this k hk sl hs v hv
  exact ⟨atHome_of _ _ _ _ h.1, atHome_of _ _ _ _ h.2.1, h.2.2⟩
theorem witness_waiters : ∀ k ∈ [MKind.join, .lwait, .waitv 0 0, .barw], ∀ st ∈ [MSt.poked, .replied],
    let m := tstReq k fun m => { m with st := st, wait := true, dst := .x 7#6 false }
    let l := { m with dom := bankDom 0, pa := 8 }
    let s := tstParked (tstHome m (tstMem 0))
    let t := tstParked (tstHome l id)
    s.findMsg 1 = some m ∧ m.dom < 32 ∧ Waiting s m (s.thread 0 0) ∧ (s.thread 0 0).awaits ≠ some m.id ∧
    m.mask.getLsbD 1 = false ∧ m.poisoned = false ∧ m.inval = false ∧
    t.findMsg 1 = some l ∧ l.dom = bankDom l.core ∧ (∀ i < l.n, (l.pa + i) / 8 ∉ (t.core l.core).lpoison) := by
  unfold Waiting; decide +kernel

/-- No user slot is free, with `n` items in the deque of the launch. -/
def tstCrowd (n : Nat) : State := tstCore tst0 fun k => { k with
  slots := k.slots ++ (List.range 13).map fun j => (j + 1, { tstThread [] with gen := j + 2 })
  deques := [(1, List.replicate n ⟨[], none, none, [], 0⟩)] }
theorem witness_fork : tst0.thread? 0 tst0.iss.slot = some tst0.cur ∧ tst0.freeSlot 0 tst0.cur = some 1 ∧
    (∀ n ∈ [0, 3, 4], (tstCrowd n).thread? 0 (tstCrowd n).iss.slot = some (tstCrowd n).cur ∧ (tstCrowd n).freeSlot 0 (tstCrowd n).cur = none ∧
      (tstCrowd n).dqrunSlot 0 1 = none ∧ ((tstCrowd n).core 0).deque 1 = List.replicate n ⟨[], none, none, [], 0⟩ ∧
      (tstCrowd n).curLaunch.hdr.deque = 4 ∧ (tstCrowd n).foldBlocks ((tstCrowd n).agentOf 0) = false) ∧
    (tst0.rx 2#6 + 1#64).toNat % 8 ≠ 0 ∧ tst0.InRegion (tst0.rx 2#6) 8 ∧ (tstCrowd 4).InRegion ((tstCrowd 4).rx 2#6) 8 := by
  unfold State.InRegion; decide +kernel
theorem witness_retire : let f := { tst0 with iss := { tst0.iss with slot := 15 } }
    let a := tstSent tst0 (.atomic 0 0)
    let g := tstG tstFlags 0
    f.iss.slot = 15 ∧ a.iss.slot ≠ 15 ∧ a.curAtomics ≠ [] ∧ tst0.curAtomics = [] ∧ tst0.curOutstanding = [] ∧
    lookup (tst0.dom tst0.cur.dom).launches tst0.cur.launch = some tstLaunch ∧ tst0.InRegion (tst0.rx 2#6) 8 ∧
    Global (g.rx 3#6) 8 ∧ g.translateCur (g.rx 3#6) .both = (g, .ok 0x20000 (tstEnt tstFlags 0)) ∧ g.foldBlocks (g.agentOf 0) = false ∧
    lookup (g.dom g.cur.dom).launches g.cur.launch = some tstLaunch ∧ g.curAtomics = [] := by
  unfold State.InRegion Global; decide +kernel
theorem witness_park : tst0.iss.slot ≠ 14 ∧ (tstHandler tst0).iss.slot = 14 ∧ tst0.curCore.cyc < (tst0.rx 4#6).toNat ∧
    (tst0.rx 0#6).toNat ≤ tst0.curCore.cyc ∧ min (tst0.curCore.cyc + (tst0.rx 0#6).toNat) (2 ^ 64 - 1) ≤ tst0.curCore.cyc ∧
    tst0.curCore.cyc < min (tst0.curCore.cyc + (tst0.rx 4#6).toNat) (2 ^ 64 - 1) := by decide +kernel

/-- A message to core 0. -/
def tstMessage (rel : Option RelRec) : Message := ⟨0, 16, (List.range 8).map (BitVec.ofNat 64), 0, 1, rel, [], 0⟩
def tstOutq (n : Nat) (m : Message) (s : State) : State := tstCore s fun k => { k with outq := List.replicate n m }
theorem witness_send : 0 ∈ tst0.curLaunch.cores ∧ 6 ∉ tst0.curLaunch.cores ∧ (tst0.rx 0#6).toNat = 0 ∧ (tst0.rx 6#6).toNat ∉ tst0.curLaunch.cores ∧
    tst0.curLaunch.hdr.inbox ≠ 0 ∧ tst0.curCore.outq.length < 16 ∧ tst0.foldBlocks (tst0.agentOf 0) = false ∧
    16 ≤ (tstOutq 16 (tstMessage none) tst0).curCore.outq.length ∧ (tstHandler (tstOutq 16 (tstMessage none) tst0)).iss.slot = 14 ∧
    16 ≤ (tstHandler (tstOutq 16 (tstMessage none) tst0)).curCore.outq.length ∧
    0 ∈ (tstHandler (tstOutq 16 (tstMessage none) tst0)).curLaunch.cores := by decide +kernel
theorem witness_message_delivery : let m := tstMessage none
    let w := { m with retryAt := 64 }
    let s := tstOutq 1 m tst0
    let u := tstOutq 1 w tst0
    let f := tstCore s fun k => { k with inbox := [m, m] }
    (s.core 0).outq.find? (fun x => x.target == 0) = some m ∧ (u.core 0).outq.find? (fun x => x.target == 0) = some w ∧
    (u.core 0).cyc < w.retryAt ∧ (∀ id ∈ m.after, s.acked id = true) ∧ m.retryAt ≤ (s.core 0).cyc ∧
    ¬((s.launch 0 1).hdr.inbox ≤ (s.core 0).inboxHeld 1) ∧ (s.launch 0 1).evictedAt 0 = false ∧
    (f.core 0).outq.find? (fun x => x.target == 0) = some m ∧ (f.launch 0 1).hdr.inbox ≤ (f.core 0).inboxHeld 1 := by decide +kernel
theorem witness_handler_start : ∀ r ∈ [none, some ⟨0, 1, 2, 1⟩, some ⟨1, 1, 2, 3⟩, some ⟨1, 1, 2, 1⟩],
    let m := tstMessage r
    let s := tstCore tst0 fun k => { k with inbox := [m] }
    s.thread? 0 14 = none ∧ (s.core 0).inbox = m :: [] ∧ (∀ id ∈ m.after, s.acked id = true) ∧ m.w.length = 8 ∧ m.rel = r ∧
    s.agentOf 0 = 0 ∧ scopeCovers 2 1 (s.agentOf 0) = true ∧ (tstHandler tst0).thread? 0 14 ≠ none := by decide +kernel

/-! ### Deques, query sets and nodes -/

/-- The launch of the small machine changed by `g`. -/
def tstLn (s : State) (g : Launch → Launch) : State := s.modLaunch 0 1 g
/-- Another slot runs DQRUN and is parked. -/
def tstDqrun (s : State) (round : Option Round) : State := tstCore s fun k => { k with slots := k.slots ++
  [(5, { tstThread [] with gen := 9, st := .parked (.deque 100), round := round })] }
/-- Items in the deque of the launch on core `c`. -/
def tstItems (s : State) (c : Nat) (q : List Item) : State := s.modCore c fun k => { k with deques := [(1, q)] }
/-- An item of a kind, with its range. -/
def tstItem (g0 lo hi : Word) : Item := ⟨[g0, lo, hi, 3, 4, 5, 6, 7], none, none, [], 0⟩

theorem witness_deque_push : let s := tst (tstThread [(4#6, 3#64), (6#6, 1#64), (7#6, 0x1000#64)])
    let z := tstLn s fun l => { l with hdr := { l.hdr with qregs := 0 } }
    let w := tstDqrun s none
    (s.rx 4#6).toNat % 4 = 3 ∧ (z.rx 6#6).toNat % 4 = 1 ∧ z.curLaunch.hdr.qregs = 0 ∧ (s.rx 7#6).toNat % 4 = 0 ∧ s.dqrunSlot 0 1 = none ∧
    ((s.core 0).deque 1).length < s.curLaunch.hdr.deque ∧ s.foldBlocks (s.agentOf 0) = false ∧ w.dqrunSlot 0 1 = some 5 ∧
    5 ≠ w.iss.slot ∧ (w.rx 7#6).toNat % 4 = 0 ∧ w.foldBlocks (w.agentOf 0) = false ∧
    (s.setCache 0 { Cache.empty with relcnt := 0x7FFFFF#64, fold := some (false, []) }).foldBlocks 0 = true ∧
    ((tstItems s 0 (List.replicate 4 (tstItem 0 0 0))).core 0).deque 1 = List.replicate 4 (tstItem 0 0 0) := by decide +kernel
theorem witness_deque_split : 2 ≤ (tst0.rx 4#6 - tst0.rx 0#6).toNat ∧
    ((tst (tstThread [(8#6, 4#64), (9#6, 6#64)])).rx 9#6 - (tst (tstThread [(8#6, 4#64), (9#6, 6#64)])).rx 8#6).toNat = 2 ∧
    (tst0.rx 7#6 - tst0.rx 6#6).toNat = 2 ^ 64 - 1 ∧ (tst0.rx 9#6 - tst0.rx 8#6).toNat < 2 ∧ tst0.dqrunSlot 0 1 = none := by decide +kernel
/-- The store of a core has room while it holds few entries. -/
theorem witness_store_has_room : StoreHasRoom tst0 := by
  intro it h
  have e : (tst0.curCore.setDeque tst0.cur.launch (it :: tst0.curCore.deque tst0.cur.launch)).deques = [(1, [it])] := rfl
  simp [Core.stored, e, h]
/-- An item that has spilled to the first place of the launch's spill area. -/
def tstSpilled : Item := { tstItem 0 0 0 with spill := some 0 }
/-- An item whose push has not taken effect. -/
def tstLate : Item := { tstItem 0 0 4 with after := [1] }
theorem witness_item_words (s : State) (c : Nat) (l : Launch) : itemWords s c l (tstItem 0x2000 0 4) (tstItem 0x2000 0 4).w :=
  ⟨rfl, fun _ => rfl, fun _ h => by cases h⟩
theorem witness_spilled_words : itemWords tst0 0 tst0.curLaunch tstSpilled (List.replicate 8 0) :=
  ⟨rfl, (nomatch ·), fun i h => by cases h; decide +kernel⟩
theorem witness_deque_pop : let s := tstItems tst0 0 [tstItem 0x2000 0 4, tstItem 1 0 0]
    (s.core 0).deque s.cur.launch = tstItem 0x2000 0 4 :: [tstItem 1 0 0] ∧ (∀ j ∈ (tstItem 0x2000 0 4).after, s.acked j = true) ∧
    (tst0.core 0).deque tst0.cur.launch = [] ∧ ∃ j ∈ tstLate.after, (tstSent tst0 .store).acked j = false := by decide +kernel
/-- The launch holds cores 0 and 1 and steals within the cluster. -/
def tstTwo : State := tstLn (tst (tstThread [(4#6, 1#64), (5#6, 0x10000#64)])) fun l => { l with cores := [0, 1], hdr := { l.hdr with steal := 2 } }
/-- Placed cores that a core visits: of the launch on cores 0 and 1 core 1, and of the one on core 0 none. -/
theorem witness_victims : victimsOf tstTwo.curLaunch 0 1 = [1] ∧ victimsOf tst0.curLaunch 0 1 = [] ∧ victimsOf tst0.curLaunch 0 2 = [] ∧
    victimsOf tst0.curLaunch 0 3 = [] := by decide +kernel
/-- A new round first visits core 1, by a draw; one that has made its draw goes on without. -/
theorem witness_visit (q : BitVec 32) : nextVisitIs tstTwo.curLaunch 0 3 newRound q 1 ⟨1, some [], 8⟩ (drawn q) ∧
    nextVisitIs tstTwo.curLaunch 0 3 ⟨1, some [1], 8⟩ q 1 ⟨1, some [], 8⟩ q := by
  have h : victimsOf tstTwo.curLaunch 0 1 = [1] := witness_victims.1
  refine ⟨Or.inl ⟨by decide, by decide +kernel, by simp [newRound, h], Or.inr (Or.inl ⟨rfl, rfl, rfl, [], ?_, rfl⟩)⟩,
    Or.inl ⟨by decide, by decide +kernel, by simp [h], Or.inl ⟨rfl, rfl, [], rfl, rfl⟩⟩⟩
  simp [newRound, h, Nat.mod_one]
/-- Where a launch reaches all three levels, a round that has visited its cluster draws for its die. -/
theorem witness_visit_die (l : Launch) (h : l.hdr.steal = 0) (d : victimsOf l 0 2 = [6]) (q : BitVec 32) :
    nextVisitIs l 0 3 ⟨1, some [], 8⟩ q 6 ⟨2, some [], 7⟩ (drawn q) := by
  refine Or.inr ⟨⟨by simp [h], Or.inr (Or.inl ⟨rfl, rfl⟩)⟩, Or.inl ⟨by decide, by simp [h], by simp [d], Or.inr (Or.inr ⟨by decide, rfl, 7, rfl, ?_, rfl⟩)⟩⟩
  simp [d, Nat.mod_one]
theorem witness_victims_die : victimsOf { tstLaunch with cores := [0, 6] } 0 2 = [6] ∧ tstLaunch.hdr.steal = 0 := by decide +kernel
/-- A launch on one core has nothing to visit, and a round that has visited all of its cluster is over. -/
theorem witness_round_over : roundOver tst0.curLaunch 0 3 newRound ∧ roundOver tstTwo.curLaunch 0 3 ⟨1, some [], 8⟩ := by
  have h := witness_victims
  refine ⟨Or.inr ⟨⟨by decide +kernel, Or.inl h.2.1⟩, Or.inr ⟨⟨by decide +kernel, Or.inl h.2.2.1⟩, Or.inr ⟨⟨by decide +kernel, Or.inl h.2.2.2⟩, ?_⟩⟩⟩,
    Or.inr ⟨⟨by decide +kernel, Or.inr (Or.inl ⟨rfl, rfl⟩)⟩, Or.inl ?_⟩⟩
  · show 3 < 4 + tst0.curLaunch.hdr.steal; decide +kernel
  · show 3 < 2 + tstTwo.curLaunch.hdr.steal; decide +kernel
theorem witness_steals : let r := tstTwo.modThread 0 0 fun t => { t with round := some ⟨1, some [], 8⟩ }
    r.cur.prog = none ∧ r.cur.round.getD newRound = ⟨1, some [], 8⟩ ∧ tst0.cur.round.getD newRound = newRound ∧ tst0.cur.prog = none ∧
    (1 ∈ tstTwo.curLaunch.cores ∧ 1 / 6 = 0 / 6) ∧ (tstTwo.rx 4#6).toNat = 1 ∧ 8192 ≤ (tstTwo.rx 5#6).toNat := by decide +kernel
theorem witness_steal_answers : let m (st : MSt) (it : Option Item) := tstReq (.steal 1 [] it) fun m => { m with st := st, dst := .steal 8#6 1#3 }
    ∀ z ∈ [m .sent none, m .replied none, m .poked none, m .poked (some (tstItem 0 0 4))],
    let s := tstProg (tstHome z id)
    s.cur.prog = some ⟨1, [1], 0⟩ ∧ s.findMsg 1 = some z ∧ (tstItem 0 0 4).w.length = 8 ∧ z.after = [] ∧
    z.slot ∉ (s.core z.core).ghosts := by decide +kernel
theorem witness_runs_items : let s := tstItems tst0 0 [tstItem 0x2000 0 4]
    let h := tstHandler tst0
    s.thread? 0 s.iss.slot = some s.cur ∧ s.iss.slot ≠ 14 ∧ s.curAtomics = [] ∧ (s.core 0).deque 1 = tstItem 0x2000 0 4 :: [] ∧
    h.thread? 0 14 = some h.cur ∧ (tstSent tst0 (.atomic 0 0)).curAtomics ≠ [] ∧ (tst0.core 0).deque 1 = [] ∧
    tstTwo.curAtomics = [] ∧ (tstTwo.core 0).deque 1 = [] ∧ (tstItems (tstSent tst0 .store) 0 [tstLate]).curAtomics = [] := by decide +kernel
theorem witness_steal_events : let s := tstDqrun tst0 (some ⟨1, some [], 8⟩)
    let u := tstDqrun tst0 none
    let d := tstCore u fun k => { k with cyc := 100 }
    let m := tstReq (.steal 1 [] none) fun m => { m with slot := 5 }
    let b := { s with net := [m] }
    let a := tstReq (.steal 1 [] (some (tstItem 0 0 4))) fun m => { m with slot := 5, st := .replied }
    let v (it : Item) := tstItems (tstHome m id) 1 [tstItem 0 0 0, it]
    s.thread? 0 5 = some (s.thread 0 5) ∧ (s.thread 0 5).st = .parked (.deque 100) ∧ (s.thread 0 5).round = some ⟨1, some [], 8⟩ ∧
    s.stealing 0 5 = false ∧ b.stealing 0 5 = true ∧ (u.thread 0 5).round = none ∧ (u.core 0).cyc < 100 ∧ 100 ≤ (d.core 0).cyc ∧
    (d.thread 0 5).round = none ∧ d.stealing 0 5 = false ∧
    (tstHome m id).findMsg 1 = some m ∧ m.st = .sent ∧ ((tstHome m id).core 1).deque m.launch = [] ∧
    (∀ it ∈ [tstItem 1 0 4, tstItem 0 0 4, tstItem 0 3 4], (v it).findMsg 1 = some m ∧
      ((v it).core 1).deque m.launch = [tstItem 0 0 0] ++ [it] ∧ it.after = []) ∧ (v tstLate).acked 1 = false ∧
    (tstItem 1 0 4).w.getD 0 0 = 1 ∧ (tstHome a id).findMsg 1 = some a ∧ a.after = [] ∧ a.dst = .none ∧ (tstItem 0 0 4).rel = none := by
  decide +kernel
/-- Answers with an item of another core: its record undrained, or drained; and an answer that waits for a drain. -/
theorem witness_steal_acquires : ∀ st ∈ [1, 3], let it : Item := { tstItem 0 0 4 with rel := some ⟨1, 3, 2, st⟩ }
    let a := tstReq (.steal 1 [] (some it)) fun m => { m with slot := 5, st := .replied, dst := .steal 8#6 1#3 }
    let w := { a with after := [2] }
    let g := tstCore (tstHome a id) fun k => { k with ghosts := [5] }
    (tstHome a id).findMsg 1 = some a ∧ it.rel = some ⟨1, 3, 2, st⟩ ∧ 1 ≠ a.agent ∧ scopeCovers 2 1 a.agent = true ∧
    a.slot ∉ ((tstHome a id).core a.core).ghosts ∧ a.slot ∈ (g.core a.core).ghosts ∧
    ∃ j ∈ w.after, ({ tstHome w id with net := [w, { a with id := 2 }] }).acked j = false := by decide +kernel

/-- The q registers of the thread. -/
def tstQ (qs : List (BitVec 3 × QSet)) : State := tst (qs.foldl (fun t e => t.setQ e.1 e.2) (tstThread [(4#6, 255#64), (5#6, 256#64)]))
theorem witness_query : let s := tstQ [(0#3, 6#256), (1#3, 4#256)]
    s.cur.allot = 4 ∧ s.curLaunch.hdr.qregs = 8 ∧ s.rq 0#3 = 6#256 ∧ s.rq 1#3 = 4#256 ∧ s.rq 2#3 = 0#256 ∧ (3#3).toNat < s.cur.allot ∧
    s.cur.allot ≤ (4#3).toNat ∧ (s.rx 4#6).toNat < 256 ∧ 256 ≤ (s.rx 5#6).toNat ∧ (s.rq 0#3).getLsbD 1 = true ∧ (s.rq 0#3).getLsbD 0 = false ∧
    (tstLn s fun l => { l with hdr := { l.hdr with qregs := 4 } }).curLaunch.hdr.qregs < (8#32).toNat := by decide +kernel
theorem witness_query_moves : let s := tstG 0x0D 0
    s.InRegion (s.rx 2#6 + (0#32).signExtend 64) 32 ∧ s.Unpoisoned (s.localOf (s.rx 2#6 + (0#32).signExtend 64)) 32 ∧
    (s.rx 2#6 + (8#32).signExtend 64).toNat % 32 ≠ 0 ∧ Global (s.rx 3#6 + (0#32).signExtend 64) 32 ∧
    s.translateCur (s.rx 3#6 + (0#32).signExtend 64) .read = (s, .ok 0x20000 (tstEnt 0x0D 0)) ∧
    s.translateCur (s.rx 3#6 + (0#32).signExtend 64) .write = (s, .ok 0x20000 (tstEnt 0x0D 0)) ∧
    (tstEnt 0x0D 0).flags.getLsbD 5 = false ∧ (1#6).toNat ≤ 60 := by
  unfold State.InRegion State.Unpoisoned Global; decide +kernel

/-- A Confluence entry of the small machine's key, that the thread leads. -/
def tstConf (st : ConfSt) (m : Msg) : ConfEnt :=
  { id := 5, slice := homeSlice (tst0.dom 0) (m.pa / 128), way := 0, key := nodeKey m.dom m.asn 0 0 m.pa, st := st, leader := 0, lgen := 1, launch := 1,
    union := 6#256, count := 2, born := 0, openMax := 0, pin := false }
theorem witness_nodes : let a := tstWaitMsg (.arrive 1#256 0 0) 0
    let d (w : Bool) := tstWaitMsg (.depart w 0 0) 0
    (∀ m ∈ [a, d true, d false], ∀ st ∈ [ConfSt.opened, .sealed, .closed], ∀ e ∈ [true, false],
      let s := tstHome m fun v => { v with conf := if e then [tstConf st m] else [] }
      tstAtHome s 1 false m = true ∧ m.id < s.nextId ∧ lookup (s.dom m.dom).recs (m.pa / 128) = none ∧
      ((s.dom m.dom).confWay (homeSlice (s.dom m.dom) (m.pa / 128)) (keySet 0 0 m.pa)).isSome = true) ∧
    (tstConf .opened a).key = nodeKey a.dom a.asn 0 0 a.pa ∧ (tstConf .opened a).lgen = (d true).gen := by decide +kernel
/-- All ways of the key's set are taken by entries of other keys. -/
theorem witness_nodes_full : let a := tstWaitMsg (.arrive 1#256 0 0) 0
    let s := tstHome a fun v => { v with conf := (List.range 16).map fun w => { tstConf .opened a with id := w, way := keySet 0 0 a.pa * 16 + w, key := 0 } }
    (s.dom 0).confWay (homeSlice (s.dom 0) (a.pa / 128)) (keySet 0 0 a.pa) = none ∧ tstAtHome s 1 false a = true := by decide +kernel
theorem witness_node_issue : let s := tstG tstFlags 0
    let b := s.setCache 0 { Cache.empty with relcnt := 0x7FFFFF#64, fold := some (false, []) }
    (s.rx 3#6).toNat % 8 = 0 ∧ s.translateCur (s.rx 3#6) .read = (s, .ok 0x20000 (tstEnt tstFlags 0)) ∧ s.foldBlocks (s.agentOf 0) = false ∧
    b.translateCur (b.rx 3#6) .read = (b, .ok 0x20000 (tstEnt tstFlags 0)) ∧ b.foldBlocks (b.agentOf 0) = true ∧
    (s.rx 4#6).toNat % 8 ≠ 0 ∧ s.iss.slot ≠ 14 ∧ (tstHandler s).iss.slot = 14 := by decide +kernel
theorem witness_node_replies : ∀ k ∈ [(MKind.arrive 1#256 0 0, Dst.arrive 0#3 7#6 1#3), (.depart true 0 0, .depart 0#3 7#6 1#3)],
    ∀ v ∈ [0, 1, 2 ^ 272],
    let m := tstReq k.1 fun m => { m with data := BitVec.ofNat 1024 v, st := .replied, wait := true, dst := k.2 }
    let s := tstParked (tstHome m id)
    s.findMsg 1 = some m ∧ m.st = .replied ∧ m.inval = false ∧ m.poisoned = false ∧ Waiting s m (s.thread 0 0) := by
  unfold Waiting; decide +kernel
theorem witness_entries_age : let m := tstWaitMsg (.depart true 0 0) 0
    ∀ st ∈ [ConfSt.opened, .closed], let s := tstHome { m with st := .waiting } fun v => { v with conf := [tstConf st m] }
    (s.dom 0).conf.find? (fun x => x.id == 5) = some (tstConf st m) ∧ (tstConf st m).born + (tstConf st m).openMax ≤ s.cycle ∧
    lookup (s.dom 0).served 0 = none ∧ lookup ({ s.dom 0 with served := [(homeSlice (s.dom 0) (m.pa / 128), (s.cycle, 5))] }).served
      (tstConf st m).slice = some (s.cycle, 5) ∧
    s.findMsg 1 = some { m with st := .waiting } ∧ m.gen = (tstConf st m).lgen ∧ nodeKey m.dom m.asn 0 0 m.pa = (tstConf st m).key := by
  decide +kernel
theorem witness_combines : ∀ k ∈ [MKind.load true false false, .atomic 0 0], ∀ d ∈ [0, 1],
    let a := tstReq k fun m => { m with ord := if k = .atomic 0 0 then 1 else 0 }
    let b := { a with id := 2, dom := d }
    let s := { tst0 with net := [a, b], nextId := 3 }
    s.findMsg 1 = some a ∧ s.findMsg 2 = some b ∧ a.st = .sent ∧ a.group = [] ∧ b.group = [] ∧ a.n = b.n ∧ a.n ≤ 8 ∧ a.pa / 8 = b.pa / 8 ∧
    a.scope = b.scope := by
  decide +kernel
theorem witness_combines_arrivals : ∀ sl ∈ [0, 3], let a := tstWaitMsg (.arrive 1#256 7 9) 0
    let b := { tstWaitMsg (.arrive 4#256 7 9) 0 with id := 2, slot := sl }
    let s := { tst0 with net := [a, b], nextId := 3 }
    s.findMsg 1 = some a ∧ s.findMsg 2 = some b ∧ a.kind = .arrive 1#256 7 9 ∧ b.kind = .arrive 4#256 7 9 ∧ a.mask = 0#128 ∧ b.mask = 0#128 ∧
    a.asn = b.asn ∧ a.dom = b.dom ∧ a.pa / 8 = b.pa / 8 ∧ a.st = .sent ∧ b.st = .sent := by decide +kernel

/-! ### What an access waits for -/

/-- An access of any order may act where nothing of the thread is under way; a release under way holds back one with an order,
and a store one of ORD 6 or with a release part (R264, R274). -/
theorem witness_may : let r := tstSent tst0 .release
    (∀ o : BitVec 3, tst0.LoadMay o ∧ tst0.StoreMay o) ∧ ¬r.LoadMay 1#3 ∧ ¬r.StoreMay 1#3 ∧ ¬tstOut.LoadMay 6#3 ∧ ¬tstOut.StoreMay 3#3 ∧
    tstOut.LoadMay 1#3 := by
  unfold State.LoadMay State.StoreMay; decide +kernel
/-- An access of ORD 5 with nothing dirty acts at once, its drain counted; with a dirty line it drains first; once its
write-backs are acknowledged it acts. -/
theorem witness_acts : tst0.ActsIn (tst0.countDrain tst0.curAgent 0) 5#3 ∧ tst0.ActsIn tst0 3#3 ∧ (tstProg tst0).ActsIn (tstProg tst0) 5#3 ∧
    (tstHit tst0 0xF#128 0xF#128 0).DrainsFirst 5#3 ∧ (tstProg (tstSent tst0 .writeBack)).DrainsFirst 5#3 := by
  refine ⟨Or.inr ⟨by decide +kernel, Or.inr ⟨rfl, ⟨by decide +kernel, by decide +kernel⟩, rfl⟩⟩, Or.inr ⟨by decide +kernel, Or.inl ⟨by decide, rfl⟩⟩,
    Or.inl ⟨⟨1, [1], 0⟩, by decide +kernel, by decide +kernel, rfl⟩, Or.inr ⟨by decide +kernel, rfl, fun h => ?_⟩,
    Or.inl ⟨⟨1, [1], 0⟩, by decide +kernel, 1, by decide, by decide +kernel⟩⟩
  exact absurd (h.1 _ (by decide +kernel : tstLineL1 0xF#128 0xF#128 0 ∈ _)) (by decide +kernel)
/-- The bank of the core holds back a FILL. -/
def tstFill : State := tstCore tst0 fun k => { k with fill := some ⟨1, 8, 7#64, [1]⟩ }
theorem witness_fill_held : tstFill.curCore.fill ≠ none ∧ tst0.curCore.fill = none ∧ (tstEa tstFill 8).toNat % 8 = 0 ∧
    (Config.windowBase ≤ (tstEa tstFill 8).toNat ∧ (tstEa tstFill 8).toNat < Config.windowBase + Config.windowBytes) ∧
    ¬tstFill.curLaunch.hdr.lmem < (tstEa tstFill 8).toNat - Config.windowBase + 8 ∧ tstOut.curOutstanding ≠ [] := by decide +kernel

/-- The walk of x3 meets a root entry that the host owns. -/
def tstWalkWaits : State := tstPart tst0 fun v => { v with dir := [{ line := 0x200, size := 9, owned := true, coarse := false, nptr := 1, holders := 1, last := 0 }] }
theorem witness_translation_waits : ∀ n ∈ [Need.read, .write, .both, .exec, .any], ∃ u, tstWalkWaits.translateCur (tstWalkWaits.rx 3#6) n = (u, .wait) := by
  intro n h
  refine ⟨(tstWalkWaits.translateCur (tstWalkWaits.rx 3#6) n).1, Prod.ext rfl ?_⟩
  revert n; decide +kernel

/-- A prefetch of a page that the L1 caches, one of a page that it does not, and the PREF.L1 that asks for nothing. -/
theorem witness_prefetch_needs : let cached (e : TlbEnt) : Bool := e.flags.getLsbD 5 && e.bias.all fun b => b.2 != 1#2 && b.2 != 2#2
    cached (tstEnt tstFlags 0) = true ∧ cached (tstEnt 0x0D 0) = false ∧ cached (tstEnt tstFlags 1) = false := by decide +kernel

/-- A drain that a core serves while an older write-back of it is under way, and an acknowledgement that waits for one. -/
theorem witness_drain_waits : let m := { tstDrain .replied with after := [2] }
    let s := { tstHome m (tstRec 2) with net := [m, { tstReq .writeBack id with id := 2, agent := 1 }] }
    s.findMsg 1 = some m ∧ (∃ x ∈ m.after, s.acked x = false) ∧ (∃ x ∈ s.net, x.kind = .writeBack ∧ x.agent = 1) ∧
    lookup (s.dom m.dom).recs (m.pa / 128) = some ⟨1, 3, 3, 2⟩ := by decide +kernel
/-- A request that is held for the line, with the one that it waits for. -/
theorem witness_held_requests : let m := tstDrain .replied
    let x := { tstReq .store id with id := 2, st := .held }
    let s := { tstHome m (tstRec 2) with net := [m, x] }
    (∀ y ∈ m.after, s.acked y = true) ∧ x ∈ s.net ∧ x.id ≠ 1 ∧ x.st = .held ∧ x.dom = m.dom ∧ x.pa / 128 = m.pa / 128 := by decide +kernel

/-- Waits at a home: the thread is parked for its request, or a late fault has taken it meanwhile. -/
theorem witness_parked_for : ∀ k ∈ [MKind.join, .lwait, .waitv 1#4 0], let m := tstReq k id
    ParkedFor (tstParked (tstHome m id)) m ∧ ¬ParkedFor (tstHome m id) m := by
  unfold ParkedFor; decide +kernel
/-- Words that a store has written whole since, and others: poison of a reply. -/
theorem witness_reply_whole : let m := tstReply (.load true false false) fun m => { m with pmask := 2 }
    let s (w : BitVec 16) := (tstParked (tstHome m id)).setCache 0 { Cache.empty with lines := [{ tstLineL1 0xFF00#128 0xFF00#128 0 with whole := w }] }
    ((s 2).cache m.agent).find m.dom (m.pa / 128) ≠ none ∧ m.pmask.getLsbD 1 = true ∧ (∀ i < 16, i ≠ 1 → m.pmask.getLsbD i = false) ∧
    (∀ l, ((s 2).cache m.agent).find m.dom (m.pa / 128) = some l → l.whole.getLsbD 1 = true ∧ l.dpoison = 0) ∧
    (∀ l, ((s 0).cache m.agent).find m.dom (m.pa / 128) = some l → l.whole.getLsbD 1 = false) := by
  refine ⟨by decide +kernel, by decide, by decide, ?_, ?_⟩ <;> (intro l h; obtain rfl := Option.some.inj (h.symm.trans (by rfl)); decide +kernel)

/-! ### Streams and the vector engine -/

/-- Bounds and strides of one loop in x8 and x9, and a misaligned base in x10. -/
def tstLoop (b st : Nat) : State := tst (tstThread [(8#6, BitVec.ofNat 64 b), (9#6, BitVec.ofNat 64 st), (10#6, 0xFF80000000000001#64)])
theorem witness_stream_loops : (2 ^ 32 < ((tstLoop (2 ^ 33) 4).rx 8#6).toNat) ∧ ((tstLoop 4 4).rx 10#6).toNat % elemBytes 0 ≠ 0 ∧
    ((tstLoop 4 2).rx 9#6).toInt % elemBytes 0 ≠ 0 ∧
    (((tstLoop 4 4).rx 2#6).toNat % elemBytes 0 = 0 ∧ ((tstLoop 4 4).rx 9#6).toInt % elemBytes 0 = 0 ∧ ¬2 ^ 32 < ((tstLoop 4 4).rx 8#6).toNat) ∧
    (1 < ((tstLoop 2 8192).rx 8#6).toNat ∧ (Config.windowBase : Int) + (tstLoop 2 8192).curLaunch.hdr.lmem < ((tstLoop 2 8192).rx 2#6).toNat + 1 * ((tstLoop 2 8192).rx 9#6).toInt + 4) ∧
    (tstLoop 4 4).curCore.gens = [] := by decide +kernel
/-- The four elements of the small loop lie in the region. -/
theorem witness_stream_inside (ix : Nat) (h : ix < ((tstLoop 4 4).rx 8#6).toNat) :
    ¬((((tstLoop 4 4).rx 2#6).toNat + ix * ((tstLoop 4 4).rx 9#6).toInt : Int) < Config.windowBase ∨
      (Config.windowBase : Int) + (tstLoop 4 4).curLaunch.hdr.lmem < ((tstLoop 4 4).rx 2#6).toNat + ix * ((tstLoop 4 4).rx 9#6).toInt + 4) := by
  have a : ((tstLoop 4 4).rx 8#6).toNat = 4 := by decide +kernel
  have b : ((tstLoop 4 4).rx 2#6).toNat = Config.windowBase := by decide +kernel
  have c : ((tstLoop 4 4).rx 9#6).toInt = 4 := by decide +kernel
  have d : (tstLoop 4 4).curLaunch.hdr.lmem = 4096 := by decide +kernel
  rw [b, c, d]; omega
/-- A generator of the thread on f register `r`: read or write, local, of bytes, with 4 elements. -/
def tstGen (r : BitVec 3) (wr : Bool) (n : Nat) : Gen :=
  { slot := 0, gen := 1, freg := r, wr := wr, glob := false, fmt := 6, base := 0xFF80000000000000, loops := [(n, 1)], members := none, total := n,
    enabled := true, pos := 0, ahead := [], pushes := [], closing := false, dom := 0, asn := 1, root := 0x10000, launch := 1, lbase := 0, lines := [],
    sent := [] }
/-- The small machine with these generators. -/
def tstGens (gs : List (Nat × Gen)) : State := tstCore (tstQ [(0#3, 6#256)]) fun k => { k with gens := gs }
theorem witness_lowest_free : tst0.LowestFree 0 ∧ (tstGens [(0, tstGen 1 false 4)]).LowestFree 1 ∧
    (∀ j < 16, lookup (tstGens ((List.range 16).map fun j => (j, { tstGen 1 false 4 with slot := 7 }))).curCore.gens j ≠ none) ∧
    (∀ e ∈ (tstGens ((List.range 16).map fun j => (j, { tstGen 1 false 4 with slot := 7 }))).curCore.gens,
      (tstGens ((List.range 16).map fun j => (j, { tstGen 1 false 4 with slot := 7 }))).genOf (· == 1#3) e.2 = false) := by
  unfold State.LowestFree; decide +kernel
/-- Members 1 and 2 of Q[0]. -/
def tstMembers (qsb qss : Word) : State := tst { (tstThread []).setQ 0#3 6#256 with qsb := qsb, qss := qss }
theorem witness_member_streams : let good := tstMembers 0xFF80000000000000#64 64#64
    let skew := tstMembers 0xFF80000000000002#64 64#64
    let stray := tstMembers 0xFF80000000000000#64 4096#64
    let ms (s : State) := (List.range 256).filter fun j => (s.rq 0#3).getLsbD j
    ms good = [1, 2] ∧ good.cur.qsb.toNat % 4 = 0 ∧ good.cur.qss.toNat % 4 = 0 ∧ skew.cur.qsb.toNat % 4 ≠ 0 ∧
    (∀ k < (ms good).length, ¬((good.cur.qsb + BitVec.ofNat 64 ((ms good).getD k 0) * good.cur.qss).toNat < Config.windowBase ∨
      Config.windowBase + good.curLaunch.hdr.lmem < (good.cur.qsb + BitVec.ofNat 64 ((ms good).getD k 0) * good.cur.qss).toNat + 4)) ∧
    (∃ k < (ms stray).length, Config.windowBase + stray.curLaunch.hdr.lmem < (stray.cur.qsb + BitVec.ofNat 64 ((ms stray).getD k 0) * stray.cur.qss).toNat + 4) ∧
    good.curCore.gens = [] := by decide +kernel
theorem witness_stream_enables : let s := tstGens [(0, tstGen 1 true 4), (1, tstGen 2 false 4)]
    let named (m : BitVec 8) (e : Nat × Gen) := s.genOf (fun r => m.getLsbD r.toNat) e.2
    ((s.curCore.gens.filter (named 6#8)).map fun e => e.2.freg) = [1#3, 2#3] ∧ ((s.curCore.gens.filter (named 14#8)).map fun e => e.2.freg) = [1#3, 2#3] ∧
    (14#8).getLsbD (3#3).toNat = true ∧ (∀ r : BitVec 3, (6#8).getLsbD r.toNat = true → r ∈ [1#3, 2#3]) := by decide +kernel
theorem witness_stream_waits : let w := { tstGen 1 true 4 with pushes := [⟨0, 5#32, 0x1000, 1, 2⟩] }
    let s := tstGens [(0, w)]
    let d := tstGens [(0, { tstGen 1 true 4 with sent := [1], lines := [0x400] })]
    let o := { d with net := [tstReq .store id] }
    s.cur.prog = none ∧ s.genOf (fun r => (2#8).getLsbD r.toNat) w = true ∧ w.wr = true ∧ w.pushes ≠ [] ∧ d.cur.prog = none ∧
    (∀ e ∈ d.curCore.gens, e.2.pushes = [] ∧ ∀ id ∈ e.2.sent, d.acked id = true) ∧ o.acked 1 = false ∧
    (tstProg d).cur.prog = some ⟨1, [1], 0⟩ ∧ (tstProg d).acked 1 = true ∧ (tstProg o).acked 1 = false := by decide +kernel
theorem witness_query_masks : let g := { tstGen 1 false 4 with ahead := [.ok 1, .ok 0] }
    let b := { tstGen 1 false 4 with ahead := [.bad .poison 0 0] }
    let w := tstGen 1 true 4
    (∀ x ∈ [g, b, w], (tstGens [(0, x)]).curCore.gens.find? (fun e => (tstGens [(0, x)]).genOf (· == 1#3) e.2) = some (0, x) ∧
      lookup (tstGens [(0, x)]).curCore.gens 0 = some x) ∧
    (∀ e ∈ (tstGens [(0, g)]).curCore.gens, (tstGens [(0, g)]).genOf (· == 2#3) e.2 = false) ∧
    g.ahead.take 2 = [1#32, 0#32].map Elem.ok ∧ 2 = min ((List.range 256).filter fun j => ((tstGens [(0, g)]).rq 0#3).getLsbD j).length (g.total - g.pos) ∧
    b.pos < b.total ∧ g.wr = false ∧ g.enabled = true ∧ w.wr = true ∧
    (∀ o ∈ [{ tstGen 1 false 4 with enabled := false }], (tstGens [(0, o)]).curCore.gens.find? (fun e => (tstGens [(0, o)]).genOf (· == 1#3) e.2) = some (0, o) ∧
      o.wr = false ∧ o.pos < o.total ∧ o.enabled = false) ∧
    (List.range 256).filter (fun j => ((tstGens [(0, g)]).rq 0#3).getLsbD j) ≠ [] := by decide +kernel
/-- A write-back of a line with written elements is under way: SWAIT waits for it. -/
theorem witness_stream_wait_backs : let d := tstGens [(0, { tstGen 1 true 4 with lines := [0x400] })]
    let o := { d with net := [tstReq .writeBack id] }
    o.cur.prog = none ∧ (∀ e ∈ o.curCore.gens, e.2.pushes = []) ∧ ∃ x ∈ o.net, x.kind = .writeBack ∧ x.agent = 0 ∧ x.dom = o.cur.dom ∧
      ∃ e ∈ o.curCore.gens, o.genOf (fun r => (2#8).getLsbD r.toNat) e.2 = true ∧ e.2.wr = true ∧ x.pa / 128 ∈ e.2.lines := by decide +kernel
theorem witness_stream_events : let g := tstGen 1 false 4
    let b := tstCore (tstGens [(0, g)]) fun k => { k with lpoison := [0] }
    let p := { tstGen 1 true 4 with pushes := [⟨0, 5#32, 0x1000, 1, 2⟩] }
    lookup ((tstGens [(0, g)]).core 0).gens 0 = some g ∧ g.glob = false ∧ g.ahead.length < 64 ∧ g.pos + g.ahead.length < g.total ∧
    (∃ w ∈ (b.core 0).lpoison, g.lbase + ((g.addr 0).toNat - Config.windowBase) < 8 * w + 8) ∧ ((tstGens [(0, g)]).core 0).lpoison = [] ∧
    ((tstGens [(0, g)]).core 0).fill = none ∧ (tstFill.core 0).fill ≠ none ∧
    lookup ((tstGens [(0, p)]).core 0).gens 0 = some p ∧ lookup ((tstGens [(0, { p with pushes := [], closing := true })]).core 0).gens 0 =
      some { p with pushes := [], closing := true } := by decide +kernel

theorem witness_exact_arithmetic : let x : Dy := ⟨false, 3, 0, false⟩
    let z : Dy := ⟨false, 0, 0, false⟩
    let n : Dy := ⟨true, 3, 0, false⟩
    x.more = false ∧ x.m ≠ 0 ∧ x.neg = false ∧ z.m = 0 ∧ z.more = false ∧ n.neg = true ∧ n.m ≠ 0 := by decide
/-- The largest finite value of each format, positive and exact. -/
theorem witness_roundings : ∀ f ∈ [0, 1, 2, 3, 4, 5, 11], ∃ top, maxCode f < 2 ^ fmtBits f ∧ valueOf f (maxCode f) = .fin top ∧
    top.neg = false ∧ top.more = false ∧ top.m ≠ 0 := by
  intro f hf
  simp only [List.mem_cons, List.not_mem_nil, or_false] at hf
  rcases hf with rfl | rfl | rfl | rfl | rfl | rfl | rfl <;> exact ⟨_, by decide +kernel, rfl, by decide +kernel, by decide +kernel, by decide +kernel⟩
/-- Values at and beyond the largest finite one. -/
theorem witness_rounding_sizes (top : Dy) (h : top.neg = false) : |ratOf top| ≤ ratOf top ∧ 2 * ratOf top ≤ |ratOf { top with e := top.e + 1 }| := by
  have p : (0 : ℚ) < (2 : ℚ) ^ top.e := zpow_pos (by norm_num) _
  have q : (0 : ℚ) ≤ top.m := Nat.cast_nonneg _
  simp only [ratOf, h, Bool.false_eq_true, if_false, one_mul]
  rw [zpow_add₀ (by norm_num), zpow_one, abs_of_nonneg (mul_nonneg q p.le), abs_of_nonneg (by positivity)]
  exact ⟨le_refl _, by linarith⟩

theorem witness_plain_registers : ∀ r ∈ [3#5, 4#5, 8#5], tst0.Plain r := by unfold State.Plain; decide +kernel
theorem witness_vector_select : (1#4).toNat < 8 ∧ (0#4).toNat ∈ [0, 1, 2, 3, 4] ∧ (0#32).getLsbD 0 = false := by decide +kernel
/-- Streams with elements at hand and a write stream beside it, of `n` and `k` elements. -/
def tstFeed (n k : Nat) : State := tstGens [(0, { tstGen 1 false n with ahead := List.replicate n (.ok 3) }), (1, tstGen 2 true k)]
theorem witness_feeds : ∀ e ∈ [(4, 4), (2, 1), (32, 24), (1, 2), (24, 32), (512, 512), (1024, 1024), (1024, 640), (128, 640), (1024, 4)],
    let s := tstFeed e.1 e.2
    let g := { tstGen 1 false e.1 with ahead := List.replicate e.1 (.ok 3) }
    let b := tstGen 2 true e.2
    Feeds s 1#5 6 0 g (List.replicate e.1 3#32) ∧ Takes s 2#5 6 1 b e.2 ∧ s.Plain 3#5 ∧ s.streamOf 3#5 = none ∧ (List.replicate e.1 3#32).length = g.total - g.pos := by
  unfold Feeds Takes State.Plain; decide +kernel
/-- The element formats of the two streams of a conversion. -/
def tstFmt (n k : Nat) (f h : BitVec 4) : State :=
  tstGens [(0, { tstGen 1 false n with ahead := List.replicate n (.ok 3), fmt := f }), (1, { tstGen 2 true k with fmt := h })]
theorem witness_feeds_formats : ∀ e ∈ [(2, 1, 0#4, 6#4), (32, 24, 0#4, 6#4), (1, 2, 6#4, 0#4), (24, 32, 6#4, 0#4), (1024, 1024, 3#4, 6#4), (1024, 4, 3#4, 6#4)],
    let s := tstFmt e.1 e.2.1 e.2.2.1 e.2.2.2
    let g := { tstGen 1 false e.1 with ahead := List.replicate e.1 (.ok 3), fmt := e.2.2.1 }
    let b := { tstGen 2 true e.2.1 with fmt := e.2.2.2 }
    Feeds s 1#5 e.2.2.1.toNat 0 g (List.replicate e.1 3#32) ∧ Takes s 2#5 e.2.2.2.toNat 1 b e.2.1 := by
  unfold Feeds Takes; decide +kernel
theorem witness_stream_fault : let s := tstFeed 4 4
    s.streamOf 2#5 = some (1, tstGen 2 true 4) ∧ (tstGen 2 true 4).wr = true ∧ (tstGen 2 true 4).fmt ≠ 0#4 := by decide +kernel
theorem witness_outlier_group : let g := List.replicate 24 0x80
    0 < 16 ∧ g.length = 24 ∧ (∀ x ∈ g, x < 256) ∧ g.getD 0 0 % 16 ≠ 8 ∧ g.getD 0 0 / 16 = 8 ∧ (8 : Nat) % 16 = 8 := by decide +kernel
theorem witness_vector_completion : let f := { tstOp with fault := some (.vectorStream, 0, 0), doneAt := 0 }
    let s (o : VecOp) : State := tstCore tst0 fun k => { k with vec := ⟨some 5, [o]⟩ }
    (∀ o ∈ [tstOp, f, { tstOp with doneAt := 0 }], ((s o).core 0).vec.ops.find? (fun x => x.seq == 1#16) = some o ∧ (s o).thread? 0 o.slot = some (s o).cur ∧
      (s o).cur.gen = o.gen ∧ (s o).cur.st = .ready ∧ ((s o).core 0).cube.queue = [] ∧ ((s o).core 0).vec.stage = some 5) ∧
    ((s tstOp).core 0).cyc < tstOp.doneAt ∧ f.doneAt ≤ ((s f).core 0).cyc ∧ ((tstCore (s f) fun k => { k with cyc := 5 }).core 0).cyc = 5 := by
  decide +kernel

/-! ### The cube -/

/-- The cube of core 0 changed by `g`; thread 0 owns it. -/
def tstCube (s : State) (g : Cube → Cube) : State := tstCore s fun k => { k with cube := g { k.cube with owner := some 0, cfg := 0x100000033 } }
/-- A command of thread 0: dense, or a promotion. -/
def tstCmd (prom : Bool) : CubeCmd := ⟨1, 0, 1, 0, 0x1000, prom, 0x100000033, 0, 1024, 0, 1, 0, false, false, 0, 0, [], [], none, 0, 0, 0⟩
/-- Bases of tiles in x8, x10 and x13, sizes in x9 and x11, configurations in x14 and x15. -/
def tstTiles : State := tst (tstThread [(8#6, 0xFF80000000000400#64), (9#6, 16#64), (10#6, 0xFF80000000000800#64), (11#6, 8#64),
  (12#6, 0xFF80000000000008#64), (13#6, 0xFF80000000000F80#64), (14#6, 0x100000033#64), (15#6, 0x8000#64), (16#6, 7#64)])
theorem witness_cube_control : let s := tstCube tstTiles id
    let o := tstCore tstTiles fun k => { k with cube := { k.cube with owner := some 3 } }
    let b := tstCube tstTiles fun k => { k with queue := [tstCmd false], exec := some { tstCmd false with seq := 7 } }
    let n := tstLn tstTiles fun l => { l with hdr := { l.hdr with cube := false } }
    OwnsCube s ∧ CubeQuiet s ∧ ¬OwnsCube o ∧ (o.core 0).cube.owner ≠ none ∧ (tstTiles.core 0).cube.owner = none ∧ ¬OwnsCube tstTiles ∧
    OwnsCube b ∧ ¬CubeQuiet b ∧ n.curLaunch.hdr.cube = false ∧ tstTiles.curLaunch.hdr.cube = true ∧ s.curOutstanding = [] ∧
    (s.rx 14#6 &&& 0xFFFFF880FEC08000#64 = 0#64 ∧ ((s.rx 14#6).extractLsb' 32 7).toNat = 1) ∧ s.rx 15#6 &&& 0xFFFFF880FEC08000#64 ≠ 0#64 ∧
    ((s.rx 0#6).extractLsb' 32 7).toNat = 0 ∧ (b.core 0).cube.exec = some { tstCmd false with seq := 7 } ∧ (b.rx 16#6).setWidth 16 = 7#16 ∧
    ¬(∃ m ∈ (s.core 0).cube.queue, m.seq = (s.rx 16#6).setWidth 16) ∧ (s.core 0).cube.exec = none ∧
    OwnsCube (tstSent s .store) ∧ (tstSent s .store).curOutstanding ≠ [] := by
  unfold OwnsCube CubeQuiet; decide +kernel

/-- Whether a row of R210 fails can be decided. -/
def tstRowDec (s : State) (xa xb xg xn : BitVec 6) (acb : BitVec 9) (spa : Bool) (r : Nat) : Decidable (RowFails s xa xb xg xn acb spa r) := by
  unfold RowFails; dsimp only; split <;> infer_instance
def tstRow (s : State) (xa xb xg xn : BitVec 6) (acb : BitVec 9) (spa : Bool) (r : Nat) : Bool := @decide _ (tstRowDec s xa xb xg xn acb spa r)
theorem tstRow_spec (s : State) (xa xb xg xn : BitVec 6) (acb : BitVec 9) (spa : Bool) (r : Nat) :
    tstRow s xa xb xg xn acb spa r = true ↔ RowFails s xa xb xg xn acb spa r := by
  unfold tstRow; exact @decide_eq_true_iff _ (tstRowDec s xa xb xg xn acb spa r)
/-- The owner's cube under a configuration. -/
def tstCfg (cfg : BitVec 43) : State := tstCube tstTiles fun k => { k with cfg := cfg }
/-- For each row of R210 operands for which it is the first that fails. -/
theorem witness_cube_rows : ∀ e ∈ [(1, 0x100000033#43, 2#6, 11#6, 0#9, false), (2, 0x100000033#43, 2#6, 9#6, 511#9, false),
      (3, 0x100000030#43, 2#6, 9#6, 0#9, false), (4, 0x100000016#43, 2#6, 9#6, 0#9, false), (5, 0x100005133#43, 2#6, 9#6, 0#9, false),
      (6, 0x100034133#43, 2#6, 9#6, 0#9, false), (7, 0x101000011#43, 2#6, 9#6, 0#9, false), (8, 0x100001133#43, 2#6, 9#6, 0#9, true),
      (9, 0x100000033#43, 12#6, 9#6, 0#9, false), (10, 0x100000033#43, 13#6, 9#6, 0#9, false)],
    OwnsCube (tstCfg e.2.1) ∧ RowFails (tstCfg e.2.1) e.2.2.1 8#6 10#6 e.2.2.2.1 e.2.2.2.2.1 e.2.2.2.2.2 e.1 ∧
    ∀ q < e.1, ¬RowFails (tstCfg e.2.1) e.2.2.1 8#6 10#6 e.2.2.2.1 e.2.2.2.2.1 e.2.2.2.2.2 q := by
  simp only [← tstRow_spec, OwnsCube]; decide +kernel
/-- Operands for which no row fails, up to the last column. -/
theorem witness_cube_multiply (r : Nat) : ∀ acb ∈ [0#9, 496#9], ¬RowFails (tstCfg 0x100000033#43) 2#6 8#6 10#6 9#6 acb false r := by
  intro acb h
  by_cases e : r < 11
  · simp only [← tstRow_spec]
    have : ∀ acb ∈ [0#9, 496#9], ∀ r < 11, ¬tstRow (tstCfg 0x100000033#43) 2#6 8#6 10#6 9#6 acb false r = true := by decide +kernel
    exact this acb h r e
  · obtain ⟨k, rfl⟩ : ∃ k, r = k + 11 := ⟨r - 11, by omega⟩
    simp [RowFails]
theorem witness_cube_queue : let f := tstCube tstTiles fun k => { k with queue := [tstCmd false, tstCmd true] }
    OwnsCube f ∧ 2 ≤ (f.core 0).cube.queue.length ∧ OwnsCube (tstCfg 0x100000033#43) ∧ ((tstCfg 0x100000033#43).core 0).cube.queue.length < 2 := by
  unfold OwnsCube; decide +kernel
/-- CPROM: its formats, scale tiles in the region, outside it and misaligned. -/
theorem witness_cube_promote : let s := tstCube tstTiles id
    ((s.rx 9#6).toNat % 16 = 0 ∧ (s.rx 9#6).toNat = 16 ∧ (0#9).toNat + 16 ≤ 512 ∧ ¬(511#9).toNat + 16 ≤ 512 ∧ (s.rx 11#6).toNat % 16 ≠ 0) ∧
    ((s.core 0).cube.cfg.extractLsb' 0 4).toNat = 3 ∧ (((tstCfg 0x100000066#43).core 0).cube.cfg.extractLsb' 0 4).toNat = 6 ∧
    (((tstCfg 0x100000030#43).core 0).cube.cfg.extractLsb' 0 4).toNat = 0 ∧ (1#2).toNat ≠ 0 ∧ (s.rx 12#6).toNat % 128 ≠ 0 ∧
    ((s.rx 2#6).toNat % 128 = 0 ∧ Config.windowBase ≤ (s.rx 2#6).toNat ∧ (s.rx 2#6).toNat - Config.windowBase + 48 ≤ s.curLaunch.hdr.lmem) ∧
    ((s.rx 13#6).toNat % 128 = 0 ∧ s.curLaunch.hdr.lmem = (s.rx 13#6).toNat - Config.windowBase + 128 ∧
      (tstLn s fun l => { l with hdr := { l.hdr with lmem := 3984 } }).curLaunch.hdr.lmem < (s.rx 13#6).toNat - Config.windowBase + 16 * 3) := by
  decide +kernel
theorem witness_cube_images : let s := tstCube tstTiles id
    let p := tstCore s fun k => { k with lpoison := [1] }
    let f := { s with iss := { s.iss with slot := 15 } }
    s.cur.prog = none ∧ OwnsCube s ∧ CubeQuiet s ∧ f.iss.slot = 15 ∧ ¬OwnsCube tstTiles ∧ tstTiles.iss.slot ≠ 15 ∧ s.curLaunch.lbase % 8 = 0 ∧
    s.curLaunch.hdr.lmem ≤ Config.windowBytes ∧ (s.rx 2#6).toNat % 128 = 0 ∧ (s.rx 12#6).toNat % 128 ≠ 0 ∧
    (s.rx 2#6).toNat - Config.windowBase + 64 * (s.rx 9#6).toNat ≤ s.curLaunch.hdr.lmem ∧ (s.rx 2#6).toNat < Config.windowBase + Config.windowBytes ∧
    s.Unpoisoned (s.localOf (s.rx 2#6)) (64 * (s.rx 9#6).toNat) ∧ (p.localOf (s.rx 2#6) + 8 * 1) / 8 ∈ p.curCore.lpoison ∧
    p.Unpoisoned (p.localOf (s.rx 2#6)) (8 * 1) ∧ (((tstCfg 0x100000066#43).core 0).cube.cfg.extractLsb' 0 4) = 6#4 := by
  unfold OwnsCube CubeQuiet State.Unpoisoned; decide +kernel

/-- An entry of the ring. -/
def tstRing (seq : BitVec 16) (st : BitVec 3) (opc : BitVec 8) (passes : BitVec 6) : RingEnt := ⟨seq, 0, st, opc, passes, 0x1000, 0, 0, 0⟩
/-- The thread at level 1. -/
def tstSup (s : State) : State := s.modThread 0 0 fun t => { t with lvl := 1 }
theorem witness_ring_dump : let s := tstSup (tstCore tstTiles fun k => { k with ring := [tstRing 1 0 0xD3 0, tstRing 0 1 0xD4 1] })
    let e := tstSup tstTiles
    let w := tstProg (tstSent e .store)
    tstTiles.cur.lvl.toNat < 1 ∧ 1 ≤ s.cur.lvl.toNat ∧ s.cur.prog = none ∧ (s.rx 2#6).toNat % 32 = 0 ∧ (s.rx 12#6).toNat % 32 ≠ 0 ∧
    min (s.rx 0#6).toNat 64 = 0 ∧ 0 < min (s.rx 9#6).toNat 64 ∧ (s.rx 2#6).toNat - Config.windowBase + 32 * min (s.rx 9#6).toNat 64 ≤ s.curLaunch.hdr.lmem ∧
    s.curLaunch.lbase % 8 = 0 ∧ (s.core 0).ring ≠ [] ∧ (e.core 0).ring = [] ∧ 1 ≤ w.cur.lvl.toNat ∧ w.cur.prog = some ⟨1, [1], 0⟩ ∧
    (∃ m ∈ w.net, m.id ∈ [1]) ∧ (tstProg e).net = [] := by decide +kernel
theorem witness_cube_retry : let r (q : List RingEnt) := tstSup (tstCore (tst (tstThread [(8#6, 1#64), (9#6, 2#64)])) fun k => { k with ring := q })
    let a := tstRing 1 2 0xD3 2
    let b := tstRing 1 3 0xD3 0
    let c := tstRing 1 1 0xD4 2
    (∀ e ∈ [a, b, c], 1 ≤ (r [e]).cur.lvl.toNat ∧ ((r [e]).core 0).ring = [] ++ e :: [] ∧ e.seq = ((r [e]).rx 8#6).setWidth 16 ∧ (e.opc = 0xD3#8 ∨ e.opc = 0xD4#8) ∧
      ((r [e]).core 0).cube.queue.length < 2) ∧ a.st = 2#3 ∧ b.st = 3#3 ∧ c.st ≠ 2#3 ∧ c.st ≠ 3#3 ∧ ((r [b]).rx 9#6).toNat ≠ 0 ∧
    ¬a.passes.toNat < ((r [a]).rx 9#6).toNat ∧ (tstRing 1 2 0xD3 1).passes.toNat < ((r [a]).rx 9#6).toNat ∧
    ((r [a, tstRing 0 2 0xD3 0]).core 0).ring = [] ++ a :: [tstRing 0 2 0xD3 0] ∧ ((r []).core 0).ring = [] ∧ tst0.cur.lvl.toNat < 1 ∧
    2 ≤ ((tstCore (r [a]) fun k => { k with cube := { k.cube with queue := [tstCmd true, tstCmd true] } }).core 0).cube.queue.length := by decide +kernel

/-- The array at work on a command. -/
def tstWork (m : CubeCmd) (g : Core → Core) : State := tstCore (tstCube tst0 fun k => { k with exec := some m }) g
theorem witness_cube_dispatch : ∀ m ∈ [tstCmd false, tstCmd true, { tstCmd false with readyAt := 5 }],
    let s := tstCube tst0 fun k => { k with queue := [m] }
    (s.core 0).cube.exec = none ∧ (s.core 0).cube.queue = m :: [] ∧ m.spa = false ∧ (s.core 0).lpoison = [] ∧ (s.core 0).cyc = 0 := by decide +kernel
theorem witness_slab : let one : FVal := .fin ⟨false, 1, 0, false⟩
    (.nan ∈ [FVal.nan] ∧ .inf true ∈ [FVal.inf true, .inf false] ∧ .nan ∉ [FVal.inf true] ∧ .inf false ∉ [FVal.inf true]) ∧
    (∀ p ∈ [one], ∃ v, p = .fin v ∧ v.more = false) ∧ (2 : ℚ) ^ (0 : Int) ≤ |ratOf ⟨false, 1, 0, false⟩| ∧ |ratOf ⟨false, 1, 0, false⟩| < (2 : ℚ) ^ ((0 : Int) + 1) ∧
    |ratOf ⟨false, 0, 0, false⟩| = 0 := by
  refine ⟨by decide, fun p h => ⟨⟨false, 1, 0, false⟩, by simpa using h, rfl⟩, ?_, ?_, ?_⟩ <;> norm_num [ratOf]
theorem witness_cube_pass : let m := tstCmd false
    let s := tstWork m id
    (s.core 0).cube.exec = some m ∧ m.prom = false ∧ m.pass < m.n16 ∧ m.readyAt ≤ (s.core 0).cyc ∧ m.bad = none ∧ m.spa = false ∧ m.za = false ∧
    m.acb + 16 * m.n16 ≤ 512 ∧ m.cfg.getLsbD 24 = false ∧ (m.cfg.extractLsb' 0 4).toNat ≠ 6 ∧ (m.cfg.extractLsb' 0 4).toNat ≠ 7 ∧
    (s.core 0).lpoison = [] ∧ 0 < panelB m.cfg := by decide +kernel
theorem witness_cube_complete : ∀ m ∈ [{ tstCmd false with pass := 1 }, tstCmd true], let s := tstWork m id
    (s.core 0).cube.exec = some m ∧ m.readyAt ≤ (s.core 0).cyc ∧ keysRise (s.core 0).slots = true ∧ (m.prom = true ∨ m.n16 ≤ m.pass) ∧ m.flags = 0#4 ∧
    m.nsc = 0 ∧ m.cfg.getLsbD 24 = false := by decide +kernel
theorem witness_cube_data : let m := tstCmd false
    let s := tstWork m fun k => { k with lpoison := [130] }
    (s.core 0).cube.exec = some m ∧ (s.core 0).cube.queue = [] ∧ s.thread? 0 m.slot = some s.cur ∧ s.cur.gen = m.gen ∧ s.cur.st = .ready ∧ m.pass < 64 ∧
    struckAt s 0 (m.lbase + m.offB + m.pass * panelB m.cfg) (panelB m.cfg) 1040 ∧ keysRise (s.core 0).slots = true := by
  unfold struckAt; decide +kernel
/-- An owner that is leaving the cube, a core that holds a fill, and a command whose entry stands in the ring. -/
theorem witness_cube_leaving : let l := tstCube tstTiles fun k => { k with leaving := true }
    let f := tstCore (tstCube tstTiles id) fun k => { k with fill := some ⟨1, 8, 7#64, [1]⟩ }
    let e := tstRing 1 1 0xD3 0
    let r := tstWork (tstCmd false) fun k => { k with ring := [e], cube := { k.cube with leaving := true } }
    ¬OwnsCube l ∧ (l.core 0).cube.leaving = true ∧ (l.core 0).cube.after = [] ∧ OwnsCube f ∧ CubeQuiet f ∧ f.curCore.fill ≠ none ∧ tstTiles.curCore.fill = none ∧
    (r.core 0).cube.exec = some (tstCmd false) ∧ (r.core 0).ring.find? (fun y => y.seq == (tstCmd false).seq && y.isCube) = some e ∧
    (r.core 0).cube.leaving = true := by unfold OwnsCube CubeQuiet; decide +kernel

/-! ### Handles, queues and the copy engine -/

/-- No holder of the line of `pa` stands in the way, and it changes nothing to ask. -/
def tstGate (s : State) (d pa : Nat) (write : Bool) : Bool :=
  match s.gate d pa 0 write with | .ready t => decide (t = s) | .blocked _ => false
def tstGates (s : State) (d : Nat) (write : Bool) (l : List (Nat × Nat)) : Bool :=
  match s.gateAll d write l with | .ok t => decide (t = s) | .error _ => false
/-- Every page of a queue at `a` translates, and the translations are at hand. -/
def tstPages (s : State) (a : Word) (n : Nat) : Bool :=
  match s.translateAll a .both n with | .ok r => decide (r = (s, none)) | .error _ => false

/-- Handle 1 of the launch on core 0. -/
def tstHandleIs (s : State) (h : Handle) : State := tstCore s fun k => { k with handles := [(64 + 1, h)] }
def tstBuf (st : BitVec 2) : Handle := ⟨0x400, 64, st, false, 0⟩
theorem witness_handles : let s := tst (tstThread [(8#6, 64#64), (9#6, 0xFF80000000000F80#64), (10#6, 256#64)])
    (∀ st ∈ [0#2, 1#2, 2#2, 3#2], ((tstHandleIs s (tstBuf st)).core 0).handle 1 1 = some (tstBuf st) ∧ (tstHandleIs s (tstBuf st)).cur.st = .ready ∧
      keysRise ((tstHandleIs s (tstBuf st)).core 0).slots = true ∧ (tstHandleIs s (tstBuf st)).curOutstanding = []) ∧ (s.core 0).handle 1 1 = none ∧
    (3#6).toNat < s.curLaunch.hdr.handles ∧ s.curLaunch.hdr.handles ≤ (4#6).toNat ∧ (4#4).getLsbD (2#2).toNat = true ∧ (4#4).getLsbD (1#2).toNat = false ∧
    (tstHandler s).iss.slot = 14 ∧ (tstSent s .store).curOutstanding ≠ [] ∧ ((s.rx 2#6).toNat % 64 = 0 ∧ (s.rx 8#6).toNat % 64 = 0 ∧ 64 ≤ (s.rx 8#6).toNat) ∧
    (s.rx 9#6).toNat - Config.windowBase + 64 ≤ s.curLaunch.hdr.lmem ∧ s.curLaunch.hdr.lmem < (s.rx 9#6).toNat - Config.windowBase + (s.rx 10#6).toNat ∧
    (s.rx 9#6).toNat % 64 = 0 ∧ (s.rx 10#6).toNat % 64 = 0 := by decide +kernel

/-- Eight-byte words in the domain's memory. -/
def tstMem8 (l : List (Nat × Nat)) (v : Dom) : Dom := { v with mem := l.foldl (fun m e => Memory.write m e.1 8 e.2) v.mem }
/-- Page tables from 0x10000 on: 0x20000 for reading and writing, 0x21000 for reading, 0x22000 holds model ciphertext. -/
def tstTabs : List (Nat × Nat) := [(0x10000, 0x11003), (0x11000, 0x12003), (0x12000, 0x13003), (0x13000, 0x14003), (0x14100, 0x2002D), (0x14108, 0x21025),
  (0x14110, 0x22225)]
theorem witness_claims_leave : let s := tstG tstFlags 0
    (s.rx 3#6).toNat % 64 = 0 ∧ (s.rx 4#6).toNat % 64 ≠ 0 ∧ (s.rx 2#6).toNat % 64 = 0 ∧ Config.windowBase ≤ (s.rx 2#6).toNat ∧
    ¬Config.windowBase ≤ (s.rx 3#6).toNat ∧ s.translateCur (s.rx 3#6) .both = (s, .ok 0x20000 (tstEnt tstFlags 0)) := by decide +kernel
/-- A claim at a header of CAP 2, BIND as given and WI as given. -/
def tstClaim (launch : Bool) (lvl : BitVec 2) : Msg := tstReq (.claim launch 0x20000 (List.replicate 8 0) lvl) fun m => { m with pa := 0x20000, n := 32 }
theorem witness_claims_home : ∀ launch ∈ [true, false], ∀ e ∈ [(0, 0), (0, 0x80001FFF), (2, 0x80001FFF), (0, 0x80201FFF)],
    let m := tstClaim launch 1
    let s := tstHome m (tstMem8 [(0x20000, e.1), (0x20010, 2), (0x20018, e.2)])
    s.AtHome 1 false m ∧ m.id < s.nextId ∧ lookup (s.dom m.dom).recs (m.pa / 128) = none ∧ (s.dom m.dom).poison = [] ∧
    wordAt s 0 0x20000 8 = e.1 ∧ wordAt s 0 0x20008 8 = 0 ∧ wordAt s 0 0x20010 4 = 2 ∧ wordAt s 0 0x20018 8 = e.2 := by
  intro l hl e he
  have : ∀ launch ∈ [true, false], ∀ e ∈ [(0, 0), (0, 0x80001FFF), (2, 0x80001FFF), (0, 0x80201FFF)],
      let m := tstClaim launch 1
      let s := tstHome m (tstMem8 [(0x20000, e.1), (0x20010, 2), (0x20018, e.2)])
      tstAtHome s 1 false m = true ∧ m.id < s.nextId ∧ lookup (s.dom m.dom).recs (m.pa / 128) = none ∧ (s.dom m.dom).poison = [] ∧
      wordAt s 0 0x20000 8 = e.1 ∧ wordAt s 0 0x20008 8 = 0 ∧ wordAt s 0 0x20010 4 = 2 ∧ wordAt s 0 0x20018 8 = e.2 := by decide +kernel
  exact ⟨atHome_of _ _ _ _ (this l hl e he).1, (this l hl e he).2⟩
/-- BIND 0 is unbound; 0x80001FFF is bound to a launch unit at level 0 and 0x80201FFF at level 2. -/
theorem witness_claim_codes : (0#64).getLsbD 31 = false ∧ (0x80001FFF#64).getLsbD 31 = true ∧ (0x80001FFF#64).extractLsb' 0 13 = 0x1FFF#13 ∧
    (1#2).toNat < ((0x80201FFF#64).extractLsb' 20 2).toNat ∧ ¬(1#2).toNat < ((0x80001FFF#64).extractLsb' 20 2).toNat := by decide +kernel
/-- The reply of a claim: a code, WI 0, CAP 2. -/
def tstClaimed (code : Nat) (poisoned : Bool) : Msg :=
  tstReq (.claim false 0x20000 [0x20000000#64, 0, 0, 0, 0, 0, 0, 0] 0) fun m => { m with
    st := .replied, wait := true, dst := .claim 7#6 1#3, data := BitVec.ofNat 1024 (code + 2 * 2 ^ 128), poisoned := poisoned }
/-- That reply, with the page of the slot as given. -/
def tstClaimAt (code : Nat) (p : Bool) (fl : BitVec 10) : State :=
  tstParked { tstG fl 0 with net := [tstClaimed code p], nextId := 10 }
theorem witness_claim_replies : ∀ code ∈ [0, 1, 2, 3], ∀ p ∈ [true, false], let m := tstClaimed code p
    let s := tstClaimAt code p tstFlags
    s.findMsg 1 = some m ∧ m.st = .replied ∧ Waiting s m (s.thread 0 0) ∧ m.dst = .claim 7#6 1#3 ∧ (m.data.extractLsb' 0 64).toNat = code ∧
    (m.data.extractLsb' 64 64).toNat = 0 ∧ (m.data.extractLsb' 128 64).toNat = 2 ∧ s.foldBlocks m.agent = false ∧ s.outstanding m.core m.slot = [] := by
  unfold Waiting; decide +kernel
/-- The slot of that claim translates, is read-only, or does not translate. -/
theorem witness_claim_slots : let as (s : State) : State := { s.dropMsg 1 with iss := { s.iss with core := 0, slot := 0 } }
    let r (fl : BitVec 10) := as (tstClaimAt 0 false fl)
    (r tstFlags).translateCur 0x20040#64 .write = (r tstFlags, .ok 0x20040 (tstEnt tstFlags 0)) ∧
    (∃ i, (r 0x25).translateCur 0x20040#64 .write = (r 0x25, .fail .protection i)) ∧ (r 0x25).translateCur 0x20040#64 .any = (r 0x25, .ok 0x20040 (tstEnt 0x25 0)) ∧
    (∃ s1 i, (as (tstParked (tstHome (tstClaimed 0 false) id))).translateCur 0x20040#64 .write = (s1, .fail .translation i)) ∧ 1 ≤ min 6 ((0x20000000#64).extractLsb' 28 3).toNat :=
  ⟨by decide +kernel, ⟨_, rfl⟩, by decide +kernel, ⟨_, _, rfl⟩, by decide +kernel⟩

/-- The queue at 0x20000, of CAP 2, bound to the engine of core 0. -/
def tstQueue : EngQueue := ⟨0x20000, 1, 0, 1, 0x10000, 1, 2, 0⟩
/-- X8 asks for CAP 2 and PRIO 1, x9 for CAP 3. -/
def tstBind : State := tstCore (tst (tstThread [(8#6, 0x100000002#64), (9#6, 3#64), (10#6, 0x40000#64)])) fun k => { k with tlb := [tstEnt tstFlags 0] }
theorem witness_queue_bind : let s := tstBind
    let cap (v : Word) := (v.extractLsb' 0 32).toNat
    let b := tstPart s (tstMem8 [(0x20018, 0x80000000)])
    (s.rx 8#6).extractLsb' 35 29 = 0#29 ∧ cap (s.rx 8#6) = 2 ^ 1 ∧ (∀ n < 21, cap (s.rx 9#6) ≠ 2 ^ n) ∧ (s.rx 3#6).toNat % 64 = 0 ∧ (s.rx 4#6).toNat % 64 = 0 ∧
    (s.rx 8#6).toNat % 64 ≠ 0 ∧ ¬Config.windowBase ≤ (s.rx 3#6).toNat ∧ Config.windowBase ≤ (s.rx 2#6).toNat ∧
    tstPages s (s.rx 3#6) (pagesOf (s.rx 3#6) (64 + 64 * 2)) = true ∧ s.translateCur (s.rx 3#6) .both = (s, .ok 0x20000 (tstEnt tstFlags 0)) ∧
    s.cur.prog = none ∧ (s.cache (s.agentOf 0)).find 0 0x400 = none ∧ s.cur = { s.cur with prog := none } ∧
    tstGate s 0 0x20000 true = true ∧ (s.dom 0).poison = [] ∧ s.boundCap 1 0 = 0 ∧
    (s.core 0).eng.queues.length < 8 ∧ 0 + 2 ≤ s.curLaunch.hdr.sluice ∧ (BitVec.ofNat 64 (wordAt s 0 0x20018 8)).getLsbD 31 = false ∧
    (BitVec.ofNat 64 (wordAt b 0 0x20018 8)).getLsbD 31 = true ∧ tstPages b (b.rx 3#6) (pagesOf (b.rx 3#6) (64 + 64 * 2)) = true ∧
    tstGate b 0 0x20000 true = true := by decide +kernel
theorem witness_queue_bind_fails : ∃ s1 c f i, tstBind.translateAll (tstBind.rx 10#6) .both (pagesOf (tstBind.rx 10#6) (64 + 64 * 2)) = .ok (s1, some (c, f, i)) ∧ c ≠ .poison :=
  ⟨_, _, _, _, rfl, by decide +kernel⟩
/-- A packet of that queue in the engine. -/
def tstXfer (w : List Word) : Xfer := ⟨0x20000, 1, 0, 1, 0x10000, 0, w, none, 0, 0, [], [], [], false, false, none, none, none⟩
theorem witness_queue_unbind : let s := tstCore tstBind fun k => { k with eng := ⟨[tstQueue], none, none⟩ }
    let p (x : Option Xfer) : State := (tstCore s fun k => { k with eng := ⟨[], none, x⟩ }).modThread 0 0 fun t => { t with prog := some ⟨2, [], 0#64⟩ }
    (tstQueue ∈ (s.core 0).eng.queues ∧ tstQueue.va = s.rx 3#6 ∧ tstQueue.launch = s.cur.launch ∧ tstQueue.dom = s.cur.dom) ∧
    s.translateCur (s.rx 3#6) .both = (s, .ok 0x20000 (tstEnt tstFlags 0)) ∧ s.cur.prog = none ∧ (s.core 0).eng.cur = none ∧
    (tstBind.core 0).eng.queues = [] ∧ (p none).cur.prog = some ⟨2, [], 0#64⟩ ∧ ((p none).core 0).eng.cur = none ∧
    ((p (some (tstXfer []))).core 0).eng.cur = some (tstXfer []) ∧ (tstXfer []).qva = s.rx 3#6 ∧ (tstXfer []).launch = s.cur.launch ∧
    tstGate s 0 0x20000 true = true ∧ s.cur = { s.cur with prog := none } := by decide +kernel

/-- The small machine with the queue bound, the page tables in memory, and the words `w` in the queue's first slot. -/
def tstEngine (w : List Nat) (g : Core → Core) : State :=
  tstCore (tstPart tst0 (tstMem8 (tstTabs ++ (List.range w.length).map fun j => (0x20040 + 8 * j, w.getD j 0)))) fun k =>
    g { k with eng := ⟨[tstQueue], none, none⟩ }
/-- A copy of 8 bytes within the window, in word 0 `w0` and word 7 `w7`. -/
def tstPkt (w0 w7 : Nat) : List Nat := [w0, 0xFF80000000000000, 0xFF80000000000040, 0x100000008, 0, 0, 0, w7]
theorem witness_copy_accept : ∀ e ∈ [(1, 1), (0, 1), (1, 0x100000001), (0x801, 1), (0x101, 1)],
    let s := ((tstEngine (tstPkt e.1 e.2) id).chooseQueue 0).1
    (s.core 0).eng.cur = none ∧ (∀ r ∈ (s.core 0).trapq.drop 16, r.w0.getLsbD 10 = false) ∧ s.chooseQueue 0 = (s, some (tstQueue, 0x20040, 0x20000)) ∧
    s.slotDrain 0 tstQueue 0x20040 = none ∧ tstQueue ∈ (s.core 0).eng.queues ∧
    tstGates s 0 true [(0x20000, 8)] = true := by decide +kernel
theorem witness_copy_checks : let w (a b : Nat) := (tstPkt a b).map (BitVec.ofNat 64)
    let s := tstEngine (tstPkt 1 1) id
    pktReserved (w 0x801 1) = true ∧ pktReserved (w 0x101 1) = false ∧ pktTransformsOk (w 0x101 1) none = true ∧
    s.checkPacket 0 tstQueue 0x20040#64 (w 1 1) = (s, .good none) ∧ tst0.chooseQueue 0 = (tst0, none) := by decide +kernel
/-- A packet in the engine, with what has been read and written changed by `g`. -/
def tstCopy (src dst w0 : Nat) (g : Xfer → Xfer) (h : Core → Core) : State :=
  tstEngine [] fun k => h { k with eng := { k.eng with cur := some (g (tstXfer (([w0, src, dst, 0x100000008, 0, 0, 0, 1]).map (BitVec.ofNat 64)))) } }
theorem witness_copy_reads : let win := 0xFF80000000000000
    let s (src : Nat) := tstCopy src win 1 id id
    let p := tstCopy win win 1 id fun k => { k with lpoison := [0] }
    (∀ z ∈ [s win, s 0x20000, s 0x40000, s 0x22000, p], ((z.core 0).eng.cur.map fun x => (x.fail, x.closed, x.out, x.buf, x.rpos)) = some (none, false, [], [], 0)) ∧
    (p.core 0).lpoison = [0] ∧ ((s win).core 0).lpoison = [] ∧
    (∃ s1 e, (s 0x20000).translateUnit 0 1 0x10000 0x20000#64 .read = (s1, .ok 0x20000 e) ∧ e.flags.getLsbD 9 = false) ∧
    (∃ s1 e, (s 0x22000).translateUnit 0 1 0x10000 0x22000#64 .read = (s1, .ok 0x22000 e) ∧ e.flags.getLsbD 9 = true) ∧
    (∃ s1 i, (s 0x40000).translateUnit 0 1 0x10000 0x40000#64 .read = (s1, .fail .translation i)) ∧ 0x20000 + 8 ≤ ((s 0x20000).dom 0).bytes :=
  ⟨by decide +kernel, by decide +kernel, by decide +kernel, ⟨_, _, rfl, by decide +kernel⟩, ⟨_, _, rfl, by decide +kernel⟩, ⟨_, _, rfl⟩, by decide +kernel⟩
theorem witness_copy_writes : let win := 0xFF80000000000000
    let full (x : Xfer) : Xfer := { x with rpos := 8, out := List.replicate 8 5 }
    let s (dst : Nat) := tstCopy win dst 1 full id
    let h := tstCopy win 0 0x101 full fun k => { k with handles := [(64, tstBuf 1)] }
    (∀ z ∈ [s win, s 0x20000, s 0x40000, s 0x21000, h], (z.core 0).eng.cur.map (fun x => (x.fail, x.closed, x.out.length)) = some (none, false, 8)) ∧
    (h.core 0).handle 1 0 = some (tstBuf 1) ∧ (∃ s1 e, (s 0x20000).copyXlate tstQueue 0x20000#64 .write = (s1, .ok 0x20000 e)) ∧
    (∃ s1 i, (s 0x21000).copyXlate tstQueue 0x21000#64 .write = (s1, .fail .protection i)) ∧ (∃ s1 i, (s 0x40000).copyXlate tstQueue 0x40000#64 .write = (s1, .fail .translation i)) :=
  ⟨by decide +kernel, by decide +kernel, ⟨_, _, rfl⟩, ⟨_, _, rfl⟩, ⟨_, _, rfl⟩⟩
theorem witness_copy_ends : let fin (w0 w6 : Nat) : Xfer := { tstXfer (([w0, 0, 0, 0x100000008, 0, 0, w6, 1]).map (BitVec.ofNat 64)) with rpos := 8, wpos := 8, caddr := some 0x20008 }
    let s (x : Xfer) := tstEngine [] fun k => { k with eng := { k.eng with cur := some x } }
    (∀ x ∈ [fin 1 0, fin 0x201 0x80000000000000, fin 0x201 0x20008, { fin 1 0 with fail := some (3, 0) }, { fin 1 0 with out := [0] }],
      ((s x).core 0).eng.cur = some x ∧ (∀ e ∈ ((s x).core 0).slots, e.2.st = .ready) ∧ x.closed = false ∧
      x.rpos = ((x.w.getD 3 0#64).extractLsb' 32 32).toNat * ((x.w.getD 3 0#64).extractLsb' 0 32).toNat ∧ x.buf = [] ∧
      ((s x).dom 0).recAt 0x20008 = none ∧ 0x20008 + 8 ≤ ((s x).dom 0).bytes) ∧
    ((0x20008#64).extractLsb' 3 53 ++ 0#3).signExtend 64 = 0x20008#64 ∧ ((0x80000000000000#64).extractLsb' 3 53 ++ 0#3).signExtend 64 = 0xFF80000000000000#64 := by
  decide +kernel
/-- No request of the core is on its way to the header. -/
theorem witness_queue_quiet : let s := tstBind
    s.onWay s.curAgent 0 0x400 (lineMask 0 32) s.nextId = false ∧ (s.dom 0).bytes ≥ 0x20040 := by decide +kernel
/-- A record of core 1 at the slot, whose drain has not begun or is under way. -/
theorem witness_copy_drains : ∀ st ∈ [1, 2],
    let s := ((tstPart (tstEngine (tstPkt 1 1) id) (tstRec st)).chooseQueue 0).1
    s.chooseQueue 0 = (s, some (tstQueue, 0x20040, 0x20000)) ∧ s.slotDrain 0 tstQueue 0x20040 = some ⟨1, 3, 3, st⟩ ∧
    tstGates s 0 true [(0x20000, 8)] = true := by decide +kernel
/-- An invalidation of the packet's address space that the engine has still to receive. -/
def tstShoot (s : State) : State := { s with invals := [⟨1, 0, 1, .space 1, [8192], []⟩] }
theorem witness_copy_pauses : let win := 0xFF80000000000000
    let s := tstShoot (tstCopy win win 1 id id)
    let x := tstXfer (([1, win, win, 0x100000008, 0, 0, 0, 1]).map (BitVec.ofNat 64))
    let y : Xfer := { x with rpos := 8, wpos := 8, caddr := some 0x20008 }
    (s.core 0).eng.cur = some x ∧ x.refill = x ∧ x.inPage = false ∧ s.shootdown 0 x = true ∧ s.shootdown 0 y = true ∧
    tst0.shootdown 0 x = false := by decide +kernel
/-- The engine holds the page of the source, or of the destination, at the frame 0x30000, which is there or not. -/
theorem witness_copy_held_pages : let x (pa : Nat) : Xfer := { tstXfer (([1, 0x20000, 0xFF80000000000000, 0x100000008, 0, 0, 0, 1]).map (BitVec.ofNat 64)) with spage := some (0x20, pa) }
    let y (pa : Nat) : Xfer := { tstXfer (([1, 0xFF80000000000000, 0x20000, 0x100000008, 0, 0, 0, 1]).map (BitVec.ofNat 64)) with
      dpage := some (0x20, pa), rpos := 8, out := List.replicate 8 5 }
    let s (z : Xfer) := tstEngine [] fun k => { k with eng := { k.eng with cur := some z } }
    (∀ z ∈ [x 0x30000, y 0x30000, x (2 ^ 50), y (2 ^ 50)], ((s z).core 0).eng.cur = some z ∧ z.fail = none ∧ z.closed = false ∧ z.buf = []) ∧
    (x 0x30000).inPage = true ∧ (∀ p, (x p).spage = some ((0x20000#64).toNat / 4096, p)) ∧ (∀ p, (y p).dpage = some ((0x20000#64).toNat / 4096, p)) ∧
    ((s (y 0)).dom 0).bytes < 2 ^ 50 + 8 ∧ 0x30000 + 8 ≤ ((s (x 0)).dom 0).bytes ∧
    tstGates (s (x 0x30000)) 0 false (linePieces 33 0x30000 8) = true ∧ tstGates (s (y 0x30000)) 0 true (linePieces 33 0x30000 8) = true := by
  refine ⟨by decide +kernel, by decide +kernel, fun _ => rfl, fun _ => rfl, by decide +kernel, by decide +kernel, by decide +kernel, by decide +kernel⟩
/-- A record that the release of a completion overwrites, and one that it does not; a completion address that is not there. -/
theorem witness_copy_release : let x (pa : Nat) : Xfer := { tstXfer (([0x60000201, 0, 0, 0x100000008, 0, 0, 0x20008, 1]).map (BitVec.ofNat 64)) with
      rpos := 8, wpos := 8, caddr := some pa }
    let s (pa st : Nat) := tstPart (tstEngine [] fun k => { k with eng := { k.eng with cur := some (x pa) } }) (tstRec st)
    (∀ st ∈ [0, 1, 2, 3], ((s 0x20008 st).core 0).eng.cur = some (x 0x20008) ∧ tstGates (s 0x20008 st) 0 true [(0x20008, 8)] = true) ∧
    ((s 0x20008 1).dom 0).recAt 0x20008 = some ⟨1, 3, 3, 1⟩ ∧ ((s 0x20008 2).dom 0).recAt 0x20008 = some ⟨1, 3, 3, 2⟩ ∧ scopeCovers 3 1 8192 = true ∧
    ((s 0x20008 3).dom 0).recAt 0x20008 = some ⟨1, 3, 3, 3⟩ ∧ ((s (2 ^ 50) 0).dom 0).bytes < 2 ^ 50 + 8 := by decide +kernel
/-- A completion address that must be translated again and is read-only. -/
theorem witness_copy_again : let x : Xfer := { tstXfer (([0x201, 0, 0, 0x100000008, 0, 0, 0x21000, 1]).map (BitVec.ofNat 64)) with closed := true }
    let s := tstEngine [] fun k => { k with eng := { k.eng with cur := some x } }
    (s.core 0).eng.cur = some x ∧ (∃ s1 i, s.copyXlate x.ctx 0x21000#64 .write = (s1, .fail .protection i)) ∧ x.caddr = none ∧ x.fail = none :=
  ⟨by decide +kernel, ⟨_, _, rfl⟩, rfl, rfl⟩

/-! ### The supervisor, turns and fetches -/

theorem witness_trap_records : let r : TrapRec := ⟨1, 2, 3, 4⟩
    let s := tstSup (tstCore tst0 fun k => { k with trapq := [r] })
    1 ≤ s.cur.lvl.toNat ∧ (s.core 0).trapq = r :: [] ∧ 1 ≤ (8#6).toNat ∧ (8#6).toNat ≤ 60 ∧ ((tstSup tst0).core 0).trapq = [] ∧
    (tstHandler (tstSup tst0)).iss.slot = 14 ∧ 1 ≤ (tstHandler (tstSup tst0)).cur.lvl.toNat ∧ ((tstHandler (tstSup tst0)).core 0).trapq = [] := by decide +kernel
/-- The thread, in slot 0, serves the one in slot 3, which is TRAPPED; x8 holds 3. -/
def tstServe (g : Thread → Thread) (h : Core → Core) : State :=
  tstSup (tstCore (tst (tstThread [(8#6, 3#64), (9#6, 15#64), (10#6, 7#64), (11#6, 12#64)])) fun k =>
    h { k with slots := k.slots ++ [(3, g { tstThread [] with gen := 5, st := .trapped })] })
theorem witness_target : let s := tstServe id id
    Target s 8#6 3 (s.thread 0 3) ∧ (s.thread 0 3).st = .trapped ∧ 3 ≠ s.iss.slot ∧ 1 ≤ s.cur.lvl.toNat ∧
    ((5#3).toNat < 8 ∧ (s.thread 0 3).allot ≤ (5#3).toNat ∧ (1#3).toNat < (s.thread 0 3).allot) ∧ (s.rx 11#6).toNat % 64 = 12 ∧
    (s.rx 10#6).toNat % 64 = 7 ∧ 6 ≤ (s.rx 10#6).toNat % 8 ∧ (s.rx 8#6).toNat % 8 < 6 ∧ s.cur.lvl.toNat < (s.rx 8#6).toNat % 4 ∧ (s.rx 11#6).toNat % 4 ≤ s.cur.lvl.toNat := by
  unfold Target; decide +kernel
/-- No slot that a register names is taken, or its thread is not TRAPPED. -/
theorem witness_no_target (sl : Nat) (x : Thread) : ¬Target (tstServe id id) 9#6 sl x ∧ (Target (tstServe (fun t => { t with st := .ready }) id) 8#6 sl x → x.st ≠ .trapped) := by
  refine ⟨fun h => ?_, fun h => ?_⟩
  · have e : ((tstServe id id).rx 9#6).toNat = 15 := by decide +kernel
    have := h.1; have := h.2.1; omega
  · have e : ((tstServe (fun t => { t with st := .ready }) id).rx 8#6).toNat = 3 := by decide +kernel
    have k : sl = 3 := h.1.symm.trans e
    subst k
    have g := h.2.2
    have f : ∀ y, (tstServe (fun t => { t with st := .ready }) id).thread? 0 3 = some y → y.st ≠ .trapped := by
      intro y hy
      have : ((tstServe (fun t => { t with st := .ready }) id).thread? 0 3).all (fun y => y.st != .trapped) = true := by decide +kernel
      rw [hy] at this
      simpa using this
    exact f x g
theorem witness_resume : let w := tstServe id fun k => { k with trapq := [⟨(tidOf 0 3).setWidth 64 <<< 16, 0, 0, 0⟩] }
    let o := tstServe id fun k => { k with cube := { k.cube with owner := some 3 } }
    (∃ r ∈ (w.core 0).trapq, r.w0.getLsbD 10 = false ∧ r.w0.extractLsb' 16 17 = tidOf 0 3) ∧ Target w 8#6 3 (w.thread 0 3) ∧ (w.thread 0 3).st = .trapped ∧
    Target o 8#6 3 (o.thread 0 3) ∧ (o.thread 0 3).st = .trapped ∧ (o.core 0).cube.owner = some 3 ∧ (o.core 0).trapq = [] ∧ (tstServe id id).stealing 0 3 = false ∧
    ((tstServe id id).core 0).trapq = [] ∧ ((tstServe id id).core 0).cube.owner ≠ some 3 := by unfold Target; decide +kernel
theorem witness_kill : let s (st : ThreadSt) := tstServe (fun t => { t with st := st }) id
    Target (s .ready) 8#6 3 ((s .ready).thread 0 3) ∧ Target (s (.parked (.deque 5))) 8#6 3 ((s (.parked (.deque 5))).thread 0 3) ∧
    ((s (.parked (.deque 5))).thread 0 3).st = .parked (.deque 5) ∧ (s (.parked (.deque 5))).stealing 0 3 = false := by unfold Target; decide +kernel
theorem witness_supervisor_restart : let r : TrapRec := ⟨1, 2, 3, 4⟩
    let s := tstCore tst0 fun k => { k with supFault := some r }
    (s.core 0).supFault = some r ∧ (s.core 0).part = some 0 ∧ (s.core 0).supAt = none ∧ (tst0.core 0).supFault = none := by decide +kernel
/-- Every state of the thread whose turn it is. -/
theorem witness_turns : ∀ st ∈ [ThreadSt.trapped, .parked (.home 1), .parked (.turns 1), .parked (.deadline 5), .ready],
    let s := tst0.modThread 0 0 fun t => { t with st := st }
    0 < Config.cores ∧ (∀ e ∈ s.cores, (s.core 0).cyc < e.2.cyc + 4) ∧ s.latch = none ∧ (s.core 0).tc % 16 = 0 ∧ (s.core 0).part = some 0 ∧
    (s.dom 0).acct.stage < 4 ∧ s.thread? 0 0 = some (s.thread 0 0) ∧ (s.thread 0 0).st = st ∧ (s.core 0).cyc ≤ 5 ∧ (s.thread 0 0).startAt ≤ (s.core 0).cyc ∧
    s.expiryDue 0 0 (s.thread 0 0) = false := by decide +kernel
theorem witness_turn_kinds : let t (g : Thread → Thread) := tst0.modThread 0 0 g
    let off := tstCore (tstPart tst0 fun v => { v with acct := { v.acct with stage := 4 } }) fun k => { k with cyc := 1 }
    ((tstCore tst0 fun k => { k with slots := [] }).thread? 0 0 = none) ∧ ((t fun x => { x with startAt := 4 }).core 0).cyc < ((t fun x => { x with startAt := 4 }).thread 0 0).startAt ∧
    ((t fun x => { x with late := true }).thread 0 0).late = true ∧ ((t fun x => { x with awaits := some 1 }).thread 0 0).awaits ≠ none ∧
    ¬((off.dom 0).acct.stage < 4 ∨ (off.core 0).cyc % 2 = 0) ∧ (off.core 0).part = some 0 ∧ (∀ e ∈ off.cores, (off.core 0).cyc < e.2.cyc + 4) := by decide +kernel
/-- The launch is being pre-empted and its quantum is over. -/
def tstLeaving (s : State) : State := tstLn (tstPart s fun v => { v with quantum := 0 }) fun l => { l with phase := .preempting 0 }
theorem witness_thread_events : let p (n : Nat) := tst0.modThread 0 0 fun t => { t with st := .parked (.deadline n) }
    let y := tst0.modThread 0 0 fun t => { t with st := .parked (.turns 0) }
    let l := tst0.modThread 0 0 fun t => { t with late := true }
    let q := tstLeaving tst0
    (∀ n ∈ [0, 5], (p n).thread? 0 0 = some ((p n).thread 0 0) ∧ ((p n).thread 0 0).st = .parked (.deadline n)) ∧ ((p 0).core 0).cyc = 0 ∧
    (y.thread 0 0).st = .parked (.turns 0) ∧ (l.thread 0 0).late = true ∧ (l.thread 0 0).st = .ready ∧ q.enabled (q.core 0) = true ∧ (q.core 0).tc % 16 = 0 ∧
    q.expiryDue 0 0 (q.thread 0 0) = true ∧ (q.launch 0 1).phase = .preempting 0 ∧ (∀ e ∈ q.cores, (q.core 0).cyc < e.2.cyc + 4) := by decide +kernel
theorem witness_line_arrival : ∀ f ∈ [(0x20000, false), (0x20000, true)], ∀ p ∈ [[], [0x4000]],
    let s := (tstPart tst0 fun v => { v with poison := p }).modThread 0 0 fun t => { t with fetching := some f }
    s.thread? 0 0 = some (s.thread 0 0) ∧ (s.thread 0 0).fetching = some f ∧ 0x20000 + 64 ≤ (s.dom 0).bytes ∧
    tstGate s 0 0x20000 false = true ∧ (s.dom 0).poison = p ∧ (0x4000 : Nat) = 0x20000 / 8 := by decide +kernel
/-- A fill that the core holds, for a request that has been acknowledged or not; a steal of a killed thread; a line that is not there. -/
theorem witness_turn_fill : let f : Fill := ⟨1, 8, 7#64, [1]⟩
    let s := tstCore tst0 fun k => { k with fill := some f }
    (s.core 0).fill = some f ∧ (∀ i ∈ f.after, s.acked i = true) ∧ (tst0.core 0).cube.after = [] ∧
    (∃ i ∈ f.after, ({ s with net := [tstReq .store id] } : State).acked i = false) ∧ ({ s with net := [tstReq .store id] } : State).core 0 = s.core 0 := by decide +kernel
theorem witness_kill_steal : let s : State := { tstServe (fun t => { t with st := .parked (.home 1), launch := 1 }) id with net := [{ tst0.newMsg 0 3 (.steal 1 [] none) 0 8 0 with gen := 5 }] }
    Target s 8#6 3 (s.thread 0 3) ∧ s.stealing 0 3 = true := by unfold Target; decide +kernel
theorem witness_line_absent : let s := tst0.modThread 0 0 fun t => { t with fetching := some (2 ^ 50, false) }
    (s.thread 0 0).fetching = some (2 ^ 50, false) ∧ (s.dom 0).bytes < 2 ^ 50 + 64 := by decide +kernel
theorem witness_first_fetch : (tst0.thread 0 0).st = .ready ∧ (tst0.thread 0 0).held = none ∧ (tst0.thread 0 0).xfer = true ∧ (tst0.thread 0 0).fetching = none := by
  decide +kernel
/-- Where the bits of a line come from: the window, the instruction cache, a miss, and no translation. -/
theorem witness_line_fetch : let w := tst0.modThread 0 0 fun t => { t with pc := 0xFF80000000000000 }
    let e := tst0.modThread 0 0 fun t => { t with pc := 0xFF80000000001000 }
    let g := (tstCore tst0 fun k => { k with tlb := [tstEnt 0x35 0], icache := [⟨0, 0x20000, 0⟩] }).modThread 0 0 fun t => { t with pc := 0x20000 }
    let m := (tstCore tst0 fun k => { k with tlb := [tstEnt 0x35 0] }).modThread 0 0 fun t => { t with pc := 0x20000 }
    (∃ s1 c i, tst0.translate 0 0 1 0x10000 0x20000#64 .exec = (s1, .fail c i)) ∧
    (inWindow (pcLine (w.thread 0 0).pc) = true ∧ winOff (pcLine (w.thread 0 0).pc) + 64 ≤ (w.launch 0 1).hdr.lmem ∧ (w.core 0).lpoison = []) ∧
    (w.launch 0 1).hdr.lmem < winOff (pcLine (e.thread 0 0).pc) + 64 ∧ inWindow (pcLine (e.thread 0 0).pc) = true ∧
    (g.translate 0 0 1 0x10000 0x20000#64 .exec = (g, .ok 0x20000 (tstEnt 0x35 0)) ∧ (g.core 0).icache.find? (fun l => l.dom == 0 && l.pa == 0x20000) = some ⟨0, 0x20000, 0⟩) ∧
    (m.translate 0 0 1 0x10000 0x20000#64 .exec = (m, .ok 0x20000 (tstEnt 0x35 0)) ∧ (m.core 0).icache.find? (fun l => l.dom == 0 && l.pa == 0x20000) = none) ∧
    inWindow (pcLine 0x20000#64) = false ∧ pcLine 0x20000#64 = 0x20000#64 ∧ (g.thread 0 0).held = none :=
  ⟨⟨_, _, _, rfl⟩, by decide +kernel⟩
/-- A line of illegal instructions with even parity, one of bad parity, and the checks of a line on entry. -/
theorem witness_line_checks : lineParityOk 0#512 = true ∧ lineParityOk 1#512 = false ∧ lineCheck 0#512 = .ok := by decide +kernel

/-! ### Launches, contexts and checkpoints -/

/-- A head of one cluster with every dependence met, that asks for 7 KiB of save area. -/
def tstHead (g : Hdr → Hdr) : QHead :=
  { idx := 0, h := 0x30000, asn := 1, root := 0x10000, save := 0x60000, saveKb := 7168, hdr := g { Hdr.zero with clusters := 1, cols := 1, rows := 1, lmem := 128 },
    lvl := 0, prio := 3, crec := 0x20800, crecPa := 0x20800, deps := [], dfail := false, depsOk := true, arg0 := 0, arg1 := 0, origin := 0,
    roleMap := [], entries := [0x1000], preload := [1], digest := 0 }
/-- The small machine with that head in queue 0, and the launch as `g` leaves it. -/
def tstUnit (x : QHead) (g : Launch → Launch) : State :=
  tstPart (tstLn tst0 g) fun v => { v with heads := [(0, x)], launches := v.launches.map fun e => (e.1, { e.2 with save := 1 }) }
theorem witness_place : let s := tstUnit (tstHead id) id
    s.findPlace 0 (tstHead id) [] = some ([0, 1, 2, 3, 4, 5], 4352) ∧ lookup (s.dom 0).heads 0 = some (tstHead id) ∧ (s.dom 0).st = .running ∧
    (s.dom 0).failedDep = none ∧ (s.dom 0).choose = some ⟨false, 0, 3, [], 0x20800⟩ ∧ (s.dom 0).never (tstHead id) = none ∧
    (tstHead id).hdr.fuse = false ∧ (tstHead id).hdr.ckpt = 0 := by decide +kernel
theorem witness_no_place : let x := tstHead fun h => { h with lmem := 262144 }
    let y := tstHead fun h => { h with cols := 16, clusters := 16, rows := 2 }
    let s := tstUnit x id
    let u := tstUnit y id
    s.findPlace 0 x [] = none ∧ (s.dom 0).never x = none ∧ (s.dom 0).choose = some ⟨false, 0, 3, [], 0x20800⟩ ∧ (u.dom 0).never y = some 1 ∧
    (u.dom 0).choose = some ⟨false, 0, 3, [], 0x20800⟩ ∧ (s.dom 0).failedDep = none ∧ (u.dom 0).failedDep = none := by decide +kernel
theorem writable_of (s : State) (d pa : Nat) (h : decide (pa % 32 = 0 ∧ pa + 32 ≤ (s.dom d).bytes ∧ (s.dom d).recAt pa = none) &&
    tstGates s d true [(pa, 32)] = true) : Writable s d pa := by
  simp only [Bool.and_eq_true, decide_eq_true_eq] at h
  refine ⟨h.1.1, h.1.2.1, ?_, h.1.2.2⟩
  have g := h.2
  unfold tstGates at g
  split at g
  · rename_i t e; rw [e, of_decide_eq_true g]
  · cases g
theorem witness_failed_dependence : let x := { tstHead id with dfail := true, deps := [0x20820] }
    let s := tstPart (tstUnit x id) fun v => { v with mem := Memory.write v.mem 0x20820 1 4 }
    (s.dom 0).failedDep = some (0, x) ∧ Writable s 0 x.crecPa := ⟨by decide +kernel, writable_of _ _ _ (by decide +kernel)⟩
theorem witness_dependences : ∀ v ∈ [0, 1], let x := { tstHead id with depsOk := false, deps := [0x20820] }
    let s := tstPart (tstUnit x id) fun w => { w with mem := Memory.write w.mem 0x20820 1 v }
    lookup (s.dom 0).heads 0 = some x ∧ (0x20820 % 32 = 0 ∧ 0x20820 + 32 ≤ (s.dom 0).bytes) ∧
    tstGates s 0 false [(0x20820, 32)] = true ∧ (s.dom 0).recAt 0x20820 = none ∧ (s.dom 0).poison = [] ∧
    wordAt s 0 0x20820 1 = v := by decide +kernel
/-- Launch 1 waits for the record of the head, which has a lower base priority. -/
theorem witness_priorities : let s := tstUnit { tstHead id with prio := 1 } fun l => { l with prio := 5, deps := [0x20800] }
    (s.dom 0).effective = [⟨true, 1, 5, [0x20800], 0x8000⟩, ⟨false, 0, 5, [], 0x20800⟩] := by decide +kernel
theorem witness_entry_start : let s := tstLn tst0 fun l => { l with left := [0], entries := [0x1000] }
    lookup (s.dom 0).launches 1 = some (s.launch 0 1) ∧ (s.launch 0 1).left = 0 :: [] ∧ (s.launch 0 1).phase = .running ∧ (s.core 0).free.head? = some 1 ∧
    (s.launch 0 1).cores[0]? = some 0 := by decide +kernel
theorem witness_completion : let s (w : Nat) (p : LPhase) := tstLn tst0 fun l => { l with work := w, phase := p }
    let n := { s 0 (.draining [1]) with net := [tstReq .writeBack id] }
    (∀ e ∈ [(1, LPhase.running), (0, .running), (0, .draining [1])], lookup ((s e.1 e.2).dom 0).launches 1 = some ((s e.1 e.2).launch 0 1) ∧
      ((s e.1 e.2).launch 0 1).serial = 1 ∧ ((s e.1 e.2).launch 0 1).hdr.fuse = false ∧ ((s e.1 e.2).launch 0 1).work = e.1 ∧
      ((s e.1 e.2).launch 0 1).phase = e.2 ∧ (s e.1 e.2).engineQuiet 0 1 = (s e.1 e.2, some true) ∧ ((s e.1 e.2).launch 0 1).crecPa = 0x8000) ∧
    (s 0 (.draining [1])).net = [] ∧ ∃ m ∈ n.net, m.id ∈ [1] := by decide +kernel
theorem witness_record_writable : Writable (tstLn tst0 fun l => { l with work := 0, phase := .draining [1] }) 0 0x8000 := writable_of _ _ _ (by decide +kernel)
/-- The head needs the cube that launch 1, of a lower priority, holds. -/
theorem witness_preempt : let x := tstHead fun h => { h with cube := true }
    let s := tstUnit x id
    (s.dom 0).choose = some ⟨false, 0, 3, [], 0x20800⟩ ∧ keysRise (s.dom 0).launches = true ∧ (s.dom 0).st = .running ∧
    s.wouldFit 0 ⟨false, 0, 3, [], 0x20800⟩ [] = false ∧
    takeUntil (s.wouldFit 0 ⟨false, 0, 3, [], 0x20800⟩) [] ((s.dom 0).victims 3) = some [1] ∧ (s.launch 0 1).phase = .running := by decide +kernel
theorem witness_eviction : ∀ st ∈ [Wake.deadline 5, .turns 1, .word 8 true 7#6, .handle 0 1 7#6, .cube 1, .scheduler, .deque 5],
    let s := (tstLeaving tst0).modThread 0 0 fun t => { t with st := .parked st }
    s.thread? 0 0 = some (s.thread 0 0) ∧ lookup (s.dom (s.thread 0 0).dom).launches (s.thread 0 0).launch = some (s.launch 0 1) ∧
    (s.launch 0 1).phase = .preempting 0 ∧ s.evictable 0 0 (s.thread 0 0) = true ∧ s.net = [] := by decide +kernel
theorem witness_core_save : let s := tstCore (tstLeaving tst0) fun k => { k with slots := [], lmem := [(0, 1)] }
    (s.core 0).part = some 0 ∧ lookup (s.dom 0).launches 1 = some (s.launch 0 1) ∧ (s.launch 0 1).serial = 1 ∧ (s.launch 0 1).phase = .preempting 0 ∧
    0 ∈ (s.launch 0 1).cores ∧ ((s.launch 0 1).savedAt 0).ended = false ∧ s.activeOn 0 (s.launch 0 1) true 0 = false ∧ s.foldBlocks (s.agentOf 0) = false ∧
    (s.launch 0 1).hdr.fuse = false := by decide +kernel
/-- What the save area holds of core 0. -/
def tstSaved : SavedCore := ⟨0, true, [⟨2, tstThread [], none, []⟩], [(0, 1)], [], [], [], [], none, [], [], []⟩
theorem witness_restore : let s := tstLn tst0 fun l => { l with phase := .out, saved := [tstSaved], prio := 2 }
    (s.dom 0).choose = some ⟨true, 1, 2, [], 0x8000⟩ ∧ lookup (s.dom 0).launches 1 = some (s.launch 0 1) ∧ (s.dom 0).st = .running ∧
    (s.launch 0 1).evicted = true ∧ s.contextFits 0 (s.launch 0 1) [] = true ∧ (s.launch 0 1).hdr.fuse = false ∧ (s.launch 0 1).saved = [tstSaved] ∧
    keysRise tstSaved.lmem = true := by decide +kernel
theorem witness_no_restore : let s := tstCore (tstLn tst0 fun l => { l with phase := .out, saved := [tstSaved], prio := 2 }) fun k =>
      { k with slots := k.slots ++ [(2, tstThread [])] }
    (s.dom 0).choose = some ⟨true, 1, 2, [], 0x8000⟩ ∧ s.contextFits 0 (s.launch 0 1) [] = false := by decide +kernel
/-- A thread of partition firmware whose x8 names launch 1, which takes checkpoints. -/
def tstCkpt (p : LPhase) : State := tstLn ((tst (tstThread [(8#6, 1#64)])).modThread 0 0 fun t => { t with lvl := 2 }) fun l =>
  { l with hdr := { l.hdr with ckpt := 1000 }, phase := p, ckptDue := 5, ckpt := some ⟨[tstSaved], [], 1, []⟩ }
theorem witness_containment : let s := tstCkpt .running
    lookup (s.dom 0).launches 1 = some (s.launch 0 1) ∧ (s.launch 0 1).serial = 1 ∧ (s.launch 0 1).phase = .running ∧ 2 ≤ s.cur.lvl.toNat ∧ s.cur.dom = 0 ∧
    (s.rx 8#6).toNat % 2 ^ 32 = 1 ∧ (s.launch 0 1).hdr.ckpt ≠ 0 := by decide +kernel
theorem witness_checkpoints : (∀ p ∈ [LPhase.running, .checkpointing 0, .out, .ckptDrain [7]], lookup ((tstCkpt p).dom 0).launches 1 = some ((tstCkpt p).launch 0 1) ∧
      ((tstCkpt p).launch 0 1).phase = p ∧ 2 ≤ (tstCkpt p).cur.lvl.toNat ∧ (tstCkpt p).net = []) ∧ (tstCkpt .running).cycle < ((tstCkpt .running).launch 0 1).ckptDue ∧
    ((tstCkpt .running).launch 0 1).undo.length < 2 ^ 20 ∧ ((tstCkpt .running).launch 0 1).ckptDue ≤ { tstCkpt .running with cycle := 5 }.cycle ∧
    lookup ((tstCkpt .running).dom 0).launches (((tstCkpt .running).rx 4#6).toNat % 2 ^ 32) = none := by decide +kernel
theorem witness_rollback : (∀ o ∈ [true, false], lookup ((tstCkpt (.failed o)).dom 0).launches 1 = some ((tstCkpt (.failed o)).launch 0 1) ∧
      ((tstCkpt (.failed o)).launch 0 1).phase = .failed o ∧ ((tstCkpt (.failed o)).launch 0 1).ckpt = some ⟨[tstSaved], [], 1, []⟩ ∧
      (tstCkpt (.failed o)).slotsFit [tstSaved] = true) ∧ (tstLn tst0 fun l => { l with phase := .failed false }).launch 0 1 = { tstLaunch with phase := .failed false } ∧
    tstLaunch.ckpt = none := by decide +kernel
theorem witness_terminate_writable : Writable (tstLn tst0 fun l => { l with phase := .failed false }) 0 tstLaunch.crecPa := writable_of _ _ _ (by decide +kernel)
/-- A queue's header that the unit may write, a packet of the launch in the engine, a thread idle in DQRUN, and a core that is clear. -/
theorem witness_completion_more : let s (p : LPhase) := tstCore (tstLn tst0 fun l => { l with work := 0, phase := p }) fun k => { k with slots := [] }
    let b := tstCore (s .running) fun k => { k with eng := { k.eng with cur := some (tstXfer []) } }
    let q := (tstLn tst0 fun l => { l with work := 0 }).modThread 0 0 fun t => { t with st := .parked (.deque 5) }
    (∀ p ∈ [LPhase.running, .draining [1]], ((s p).launch 0 1).phase = p ∧ (s p).activeOn 0 ((s p).launch 0 1) true 0 = false ∧ ((s p).launch 0 1).saved = [] ∧
      (s p).boundQueues 0 1 = [] ∧ (s p).engineQuiet 0 1 = (s p, some true)) ∧ b.engineQuiet 0 1 = (b, some false) ∧
    (q.thread 0 0).st = .parked (.deque 5) ∧ q.stealing 0 0 = false ∧ q.engineQuiet 0 1 = (q, some true) ∧ (q.thread 0 0).launch = 1 := by decide +kernel
theorem witness_unbind_none (s : State) : s.unbindEach [] = .ok s := rfl
/-- The chosen launch stands evicted; a head that needs the cube, one that is fused, and one with checkpoints. -/
theorem witness_admissions : let out (x : QHead) := tstUnit x fun l => { l with phase := .out, prio := 1, hdr := { l.hdr with cube := false } }
    let c := tstUnit (tstHead id) fun l => { l with phase := .out, prio := 7, saved := [] }
    (c.dom 0).choose = some ⟨true, 1, 7, [], 0x8000⟩ ∧ (c.dom 0).failedDep = none ∧ tstGates c 0 true [(0x30000, 16)] = true ∧
    (∀ g ∈ [fun h : Hdr => { h with cube := true }, fun h => { h with fuse := true }, fun h => { h with ckpt := 1000 }],
      let x := tstHead g
      (out x).findPlace 0 x [] = some ([0, 1, 2, 3, 4, 5], 0) ∧ ((out x).dom 0).choose = some ⟨false, 0, 3, [], 0x20800⟩ ∧ ((out x).dom 0).never x = none ∧
      ((out x).dom 0).failedDep = none ∧ (∀ k ∈ [0, 1, 2, 3, 4, 5], ((out x).cache k).lines = []) ∧ (out x).net = [] ∧ tstGates (out x) 0 true [(0x30000, 16)] = true) := by
  decide +kernel
theorem witness_allotted : let s := tstLn tst0 fun l => { l with left := [0], entries := [0x1000] }
    (s.core 0).allotted ≠ some ((s.core 0).cyc - 1) ∧ ((tstCore s fun k => { k with cyc := 9, allotted := some 8 }).core 0).allotted = some (9 - 1) := by decide +kernel
/-- The chosen head is to be refused; a launch that is already on its way out would do. -/
theorem witness_preempt_more : let y := tstHead fun h => { h with cols := 16, clusters := 16, rows := 2 }
    let u := tstUnit y id
    let x := tstHead fun h => { h with cube := true }
    let s := tstUnit x fun l => { l with phase := .preempting 0 }
    (u.dom 0).choose = some ⟨false, 0, 3, [], 0x20800⟩ ∧ (u.dom 0).mustRefuse ⟨false, 0, 3, [], 0x20800⟩ = true ∧
    ((tstUnit x id).dom 0).mustRefuse ⟨false, 0, 3, [], 0x20800⟩ = false ∧ (s.dom 0).choose = some ⟨false, 0, 3, [], 0x20800⟩ ∧
    s.wouldFit 0 ⟨false, 0, 3, [], 0x20800⟩ [1] = true ∧ keysRise (s.dom 0).launches = true := by decide +kernel
/-- A thread of the launch that stands on a wait list, in place or on its way out, and one that DEPART.W keeps. -/
theorem witness_evict_waiters : ∀ p ∈ [LPhase.preempting 0, .checkpointing 0], ∀ k ∈ [MKind.read, .depart true 0#64 0#64],
    let m := tstReq k fun m => { m with st := .waiting, wait := true }
    let s : State := { tstParked (tstLn tst0 fun l => { l with phase := p }) with net := [m], nextId := 10 }
    s.thread? 0 0 = some (s.thread 0 0) ∧ lookup (s.dom 0).launches 1 = some (s.launch 0 1) ∧ (s.launch 0 1).phase = p ∧ s.evictable 0 0 (s.thread 0 0) = true ∧
    m.core = 0 ∧ m.slot = 0 ∧ m.gen = (s.thread 0 0).gen ∧ m.st = .waiting ∧ (s.thread 0 0).st = .parked (.home m.id) := by decide +kernel
/-- A save area with a thread that waits for a record and one that a timer keeps. -/
def tstSavedTwo : SavedCore := { tstSaved with threads := [⟨2, { tstThread [] with st := .parked (.record 8#6) }, none, []⟩, ⟨4, { tstThread [] with st := .parked (.deadline 7) }, none, []⟩] }
theorem witness_restore_watchers : let s := tstLn tst0 fun l => { l with phase := .out, saved := [tstSavedTwo], prio := 2 }
    (s.dom 0).choose = some ⟨true, 1, 2, [], 0x8000⟩ ∧ (s.launch 0 1).evicted = true ∧ s.contextFits 0 (s.launch 0 1) [] = true ∧
    tstSavedTwo.threads.Pairwise (fun a b => a.slot ≠ b.slot) ∧ (s.launch 0 1).saved.Pairwise (fun a b => a.core ≠ b.core) ∧
    (s.core 0).stored.length + tstSavedTwo.items.length ≤ 64 := by decide +kernel

/-! ### A kernel image and its launch -/

/-- The first 384 bytes of a small image (R47 to R53): its header, three sections, 64 bytes of code, the kernel header. -/
def tstImage : List Byte :=
  natToBytes 8 mbaedMagic ++ natToBytes 4 0x10000 ++ natToBytes 4 3 ++ natToBytes 8 448 ++ natToBytes 8 0 ++
  (natToBytes 4 1 ++ natToBytes 4 0 ++ natToBytes 8 128 ++ natToBytes 8 64 ++ natToBytes 8 0) ++
  (natToBytes 4 4 ++ natToBytes 4 0 ++ natToBytes 8 192 ++ natToBytes 8 192 ++ natToBytes 8 0) ++
  (natToBytes 4 7 ++ natToBytes 4 0 ++ natToBytes 8 384 ++ natToBytes 8 64 ++ natToBytes 8 0) ++
  natToBytes 64 0 ++
  (natToBytes 2 0 ++ natToBytes 2 1 ++ natToBytes 1 1 ++ natToBytes 1 1 ++ natToBytes 58 0 ++ natToBytes 8 0 ++ natToBytes 120 (2 ^ 960 - 1))
/-- Its digest by an implementation of FIPS 202 outside the model, byte 0 lowest. -/
def tstDigest : BitVec 512 :=
  0x5bc5a9ea893b866901b5bbdff54d1029585b29b6714349d2f10cef1f37ab17841221b8efdc1ea83d7061bf1a793c1f4e1938f651610282184f343485992ba8ce#512
theorem test_digest : shake256 tstImage = tstDigest := by decide +kernel
/-- The whole image. -/
def tstWhole : List Byte := tstImage ++ natToBytes 64 tstDigest.toNat
/-- What the image gives a launch. -/
def tstMbaed : Mbaed :=
  { hdr := { Hdr.zero with clusters := 1, cols := 1, rows := 1 }, entries := some 128 :: List.replicate 15 none, placement := [], preload := [], digest := tstDigest }
theorem test_image (full : Bool) : (match parseMbaed tstWhole 0 full with | .ok m => decide (m = tstMbaed) | .error _ => false) = true := by
  cases full <;> decide +kernel
/-- Bytes from an address on as cells. -/
def tstPlace (a : Nat) : List Byte → List Host.Cell
  | [] => []
  | b :: t => if b = 0#8 then tstPlace (a + 1) t else (a, b) :: tstPlace (a + 1) t

/-- The tables of the partition: a launch queue at 0x30000 whose header is bound at level 0, its context, and the packet in the first slot. -/
def tstTables (w : List Nat) : List Host.Cell :=
  (tstMem8 (tstTabs ++ [(0x40000, 0x30000), (0x30000, 1), (0x30010, 2), (0x30018, 0x80001FFF), (0x50020, 0x10001), (0x50028, 0x60000), (0x50030, 7168)] ++
    (List.range w.length).map fun j => (0x30040 + 8 * j, w.getD j 0)) (Dom.blank 0)).mem
/-- The packet of a launch of the image at 0x20000 with its record at 0x20800. -/
def tstPacket : List Nat := [0x100000001, 0x20000, 0x20800, 0, 0, 0, 0, 1]
/-- The small machine with them, and the image between them. -/
def tstQueued (w : List Nat) : State :=
  let cells := tstTables w
  tstPart tst0 fun v => { v with
    lqt := 0x40000, ctxt := 0x50000, nctx := 2
    mem := cells.filter (fun e => e.1 < 0x20000) ++ tstPlace 0x20000 tstWhole ++ cells.filter fun e => 0x20000 ≤ e.1 }

theorem witness_launch_queue : ∀ w ∈ [tstPacket, [0, 0, 0, 0, 0, 0, 0, 1], [0x500000001, 0, 0, 0, 0, 0, 0, 1], [1, 0, 0, 0, 0, 0, 0, 0]], let s := tstQueued w
    let lq : LQueue := ⟨0x30000, 0, 2, 0x80001FFF⟩
    (s.dom 0).st = .running ∧ lookup (s.dom 0).heads 0 = none ∧ s.launchQueue 0 0 = some lq ∧ s.lqtEntry 0 0 + 64 ≤ (s.dom 0).bytes ∧
    0x30040 + 64 ≤ (s.dom 0).bytes ∧ (s.dom 0).poison = [] ∧ (s.dom 0).recAt 0x30040 = none ∧
    tstGate s 0 0x30040 false = true ∧
    tstGate s 0 0x30000 true = true ∧ wordAt s 0 (0x30040 + 56) 8 % 2 = w.getD 7 0 := by decide +kernel
theorem witness_absent_header : let s := tstPart tst0 fun v => { v with lqt := 0x40000, mem := Memory.write v.mem 0x40000 8 0x7FFFFFFFFFC0 }
    (s.dom 0).st = .running ∧ s.lqtEntry 0 0 ≠ 0 ∧ (s.dom 0).bytes < s.lqtEntry 0 0 + 64 ∧ s.launchQueue 0 0 = none := by decide +kernel
/-- The packet that names the image becomes the head of its queue, once the reads of the unit have been made. -/
theorem witness_launch_head : let s := tstQueued tstPacket
    let w := tstPacket.map (BitVec.ofNat 64)
    let u := s.touchLines 0 ((0x30040, 64) :: s.takeReads 0 0 ⟨0x30000, 0, 2, 0x80001FFF⟩ w)
    tstGates s 0 false ((0x30060, 32) :: s.takeReads 0 0 ⟨0x30000, 0, 2, 0x80001FFF⟩ w) = true ∧ tstGates s 0 true [(0x30000, 16)] = true ∧
    (match (u.checkLaunch 0 0 0 0 w).2 with | .head x => x.digest == tstDigest && x.entries.length == 16 | _ => false) = true := by decide +kernel
/-- Packets that end in a refusal. -/
theorem witness_launch_refusals : let w (a b : Nat) : List Word := ([a, b, 0x20800, 0, 0, 0, 0, 1]).map (BitVec.ofNat 64)
    ((tstQueued tstPacket).checkLaunch 0 0 0 0 (w 0x100000002 0x20000)).2 = .refuse 0x20800 3 ∧ ((tstQueued tstPacket).checkLaunch 0 0 0 0 (w 0x100000001 0x20004)).2 = .refuse 0x20800 1 ∧
    ((w 0x100000002 0x20000).getD 0 0#64).extractLsb' 0 8 ≠ 1#8 ∧ lpFieldsOk (w 0x100000001 0x20004) 0 = true ∧ ((w 0x100000001 0x20004).getD 1 0#64).toNat % 64 ≠ 0 ∧
    ctxReserved ((tstQueued tstPacket).dom 0 |>.context 1) = false ∧ ctxReserved [0x10003#64, 0, 0, 0] = true := by decide +kernel
theorem witness_refusal_writable : Writable (tstQueued tstPacket) 0 0x20800 := writable_of _ _ _ (by decide +kernel)
/-- The checks of a line on entry: a reserved TPL, two instructions of class I as a pair, a slot that is no target. -/
theorem witness_line_refusals : let l := BitVec.ofNat 512 (0x4100 * 2 ^ 480)
    let p := BitVec.ofNat 512 (0x4020 * 2 ^ 480)
    lineParityOk l = true ∧ lineCheck l = .illegalLine ∧ lineParityOk p = true ∧ lineCheck p = .illegalPair ∧ targetOk (tst0.thread 0 0) 0#512 = false ∧
    (tst0.thread 0 0).xfer = true := by decide +kernel

/-! ### The directory -/

/-- An entry at the line of 0x20000. -/
def tstDirEnt (size : Nat) (owned coarse : Bool) (nptr : Nat) (holders : BitVec 64) : DirEnt := ⟨0x400, size, owned, coarse, nptr, holders, 0⟩
/-- The small machine with directory entries, the bias code of the page at 0x20000, and agent 7 in the scope of the partition. -/
def tstDir (es : List DirEnt) (b : Nat) (g : Dom → Dom) : State :=
  tstPart tst0 fun v => g { v with dir := es, scopes := [[], [], [5]], mem := Memory.write v.mem 0x40008 1 b }
theorem witness_external_reads : let s := tstDir [] 0 id
    let h := tstDir [] 1 id
    let f := tstDir [] 2 id
    let p := tstDir [] 0 fun v => { v with pend := [⟨0x401, [7], .flip⟩] }
    (s.dom 0).agentSet = [0, 1, 7] ∧ (s.dom 0).bytes = 96 * 2 ^ 30 ∧ BlockIdle (s.dom 0) 0x20000 ∧ s.biasAt 0 0x20000 = 0#2 ∧ h.biasAt 0 0x20000 = 1#2 ∧
    f.biasAt 0 0x20000 = 2#2 ∧ BlockIdle (f.dom 0) 0x20000 ∧ (∃ q ∈ (p.dom 0).pend, q.line / 512 = 0x20000 / 65536) ∧ (s.dom 0).entryOf 0x400 = none ∧
    ((s.dom 0).setMates (0x400 / 512 * 512)).length < 16 := by
  unfold BlockIdle NoneWaits; decide +kernel
/-- Entries that a request shares, joins, widens or conflicts with: pointers to agents 0, 1 and 7, and groups. -/
theorem witness_external_entries : ∀ x ∈ [(tstDirEnt 9 false false 1 7, [7]), (tstDirEnt 9 false false 2 0x800, [0, 1]), (tstDirEnt 9 true false 1 7, [7]),
      (tstDirEnt 9 false true 0 1, [0, 1, 7]), (tstDirEnt 9 false false 4 0, [0, 0, 0, 0]), (tstDirEnt 9 true false 1 1, [1])],
    let s := tstDir [x.1] 1 id
    (s.dom 0).entryOf 0x400 = some x.1 ∧ x.1.agents (s.dom 0).agentSet = x.2 ∧ BlockIdle (s.dom 0) 0x20000 ∧ s.biasAt 0 0x20000 ≠ 2#2 ∧ x.1.size ≤ 9 ∧
    x.1.holders.toNat < 2 ^ (11 * (x.1.nptr + 1)) := by unfold BlockIdle NoneWaits; decide +kernel
/-- Sixteen entries in the set of 0x20000, of other blocks; sixteen in the set of the half of its block that a split makes first. -/
def tstFullSet (line : Nat) : List DirEnt := (List.range 16).map fun b => ⟨line + 0x400800 * (b + 1), 9, false, false, 1, 7, b⟩
theorem witness_entry_recalls : let s := tstDir (tstFullSet 0x400) 0 id
    let o := tstDirEnt 9 true false 1 1
    let h := tstDir (o :: tstFullSet 0x500) 1 id
    let r := tstDir (tstFullSet 0x400) 0 fun v => { v with pend := [⟨0x400C00, [7], .recall⟩] }
    (∀ z ∈ [s, r], (z.dom 0).entryOf 0x400 = none ∧ 0x20000 < (z.dom 0).bytes ∧ 7 ∈ (z.dom 0).agentSet ∧ z.biasAt 0 0x20000 ≠ 2#2 ∧ BlockIdle (z.dom 0) 0x20000 ∧
      16 ≤ ((z.dom 0).setMates (0x400 / 512 * 512)).length) ∧ (s.dom 0).pend = [] ∧
    (∃ p ∈ (r.dom 0).pend, p.why = DirWhy.recall ∧ (r.dom 0).dirSlice p.line = (r.dom 0).dirSlice (0x400 / 512 * 512)) ∧
    (h.dom 0).entryOf 0x400 = some o ∧ o.owned = true ∧ 7 ∉ o.agents (h.dom 0).agentSet ∧
    ((splitBases 0x400 (h.dom 0).dir).findSome? ((h.dom 0).roomFor 0x400)).isSome = true ∧ BlockIdle (h.dom 0) 0x20000 := by
  unfold BlockIdle NoneWaits; decide +kernel
theorem witness_split_fits : let s := tstDir [tstDirEnt 9 true false 1 1] 1 id
    SplitFits (s.dom 0) 0x400 ∧ 7 ∉ (tstDirEnt 9 true false 1 1).agents (s.dom 0).agentSet := by unfold SplitFits; decide +kernel
/-- A core access waits at the block. -/
theorem witness_core_waits_there : let r : ExtReq := ⟨0, 0x20000, 6, 1, 0, 0⟩
    let s : State := { tstDir [] 1 fun v => { v with reqs := [r] } with net := [tstReq .store id], nextId := 10 }
    (s.dom 0).reqs.find? (fun x => x.pa / 65536 == 0x20000 / 65536) = some r ∧ r.kind = 6 ∧ s.stillAsks r = true ∧ 7 ∈ (s.dom 0).agentSet := by decide +kernel
/-- An invalidation of the line that agent 7, agent 1 or agent 0 has still to acknowledge, and why it was sent. -/
theorem witness_acks : ∀ why ∈ [DirWhy.rds 1, .rdo 1, .core 1 true, .core 1 false, .flip, DirWhy.recall, .rebuild 0x400 0], ∀ a ∈ [[7], [1], [0], [7, 0]],
    ∀ l2 ∈ [[], [0x400]], let p : DirPend := ⟨0x400, a, why⟩
    let e := tstDirEnt 0 false false 2 0x3801
    let s := tstDir [e] 1 fun v => { v with pend := [p], l2 := l2 }
    (∀ q ∈ (s.dom 0).pend, q.line = 0x400 → q = p) ∧ (s.dom 0).pend.count p = 1 ∧ p ∈ (s.dom 0).pend ∧ (s.dom 0).reqs = [] ∧ (s.dom 0).entryOf 0x400 = some e ∧
    (∀ x ∈ (s.dom 0).dir, x.covers 0x400 = true → x.size = 0 → (s.dom 0).entryOf 0x400 = some x) ∧ (s.dom 0).l2 = l2 ∧ 1 ∈ e.agents (s.dom 0).agentSet ∧
    (∀ q ∈ (s.dom 0).pend, q ≠ p → q.why ≠ p.why) ∧ ∀ q ∈ (s.dom 0).pend, 9 ∉ q.agents := by decide +kernel
theorem witness_write_backs : let o := tstDirEnt 0 true false 1 7
    let s := tstDir [o] 1 id
    let n := tstDir [tstDirEnt 1 false false 1 7] 1 id
    7 ∈ (s.dom 0).agentSet ∧ 1 ∈ (s.dom 0).agentSet ∧ 128 * 0x400 + 128 ≤ (s.dom 0).bytes ∧ (s.dom 0).entryOf 0x400 = some o ∧ o.size = 0 ∧ o.coarse = false ∧
    o.owned = true ∧ o.agents (s.dom 0).agentSet = [7] ∧ (s.dom 0).pend = [] ∧ (n.dom 0).entryOf 0x400 = some (tstDirEnt 1 false false 1 7) ∧
    (tstDirEnt 1 false false 1 7).owned = false := by decide +kernel
/-- Two halves at the first cycle at which they may merge, and one cycle before. -/
theorem witness_entry_merges : ∀ n ∈ [0, 8], let e := tstDirEnt n false false 1 7
    let x := { e with line := 0x400 + 2 ^ n }
    let s := tstDir [e, x] 1 id
    let p : DirPend := ⟨0x400, [7], .flip⟩
    (s.dom 0).entryOf (0x20000 / 128) = some e ∧ x ∈ (s.dom 0).dir ∧ x.size = e.size ∧ x.line = e.line + 2 ^ e.size ∧ min e.line x.line % 2 ^ (e.size + 1) = 0 ∧
    (∀ y ∈ (s.dom 0).dir, y.line = x.line → y.size = x.size → y = x) ∧ e.size < 9 ∧ e.last + (2 ^ 20 - 1) ≤ { s with cycle := 2 ^ 20 - 1 }.cycle ∧
    ¬e.last + (2 ^ 20 - 1) ≤ { s with cycle := 2 ^ 20 - 2 }.cycle ∧ (s.dom 0).pend = [] ∧ e.covers p.line = true := by decide +kernel
theorem witness_core_at_directory : let o := tstDirEnt 9 true false 1 7
    let r := tstDirEnt 9 false false 1 7
    let s := tstDir [o] 1 id
    let p := tstDir [r] 1 fun v => { v with pend := [⟨0x400, [7], .flip⟩] }
    s.net = [] ∧ s.biasAt 0 0x20000 = 1#2 ∧ (s.dom 0).entryOf 0x400 = some o ∧ (o.agents (s.dom 0).agentSet).filter (fun a => decide (a ≠ 0)) = [7] ∧ o.owned = true ∧
    (s.dom 0).pend = [] ∧ (∃ q ∈ (p.dom 0).pend, q.line = 0x400) ∧ (tstDir [r] 2 id).biasAt 0 0x20000 = 2#2 ∧ ((tstDir [] 1 id).dom 0).entryOf 0x400 = none := by
  decide +kernel
theorem witness_host_accesses : let s := tstDir [] 0 id
    0x20000 < (s.dom 0).bytes ∧ BlockIdle (s.dom 0) 0x20000 ∧ (s.dom 0).st = .running ∧ s.biasAt 0 0x20000 = 0#2 ∧ (tstDir [] 1 id).biasAt 0 0x20000 = 1#2 ∧
    (∀ w ∈ [true, false], tstGate s 0 0x20000 w = true) ∧ 0x20000 % 128 + 128 ≤ 128 ∧
    0x20000 + 128 ≤ (s.dom 0).bytes := by unfold BlockIdle NoneWaits; decide +kernel
theorem witness_window_refusals : (tst0.dom (3 - 1)).st ≠ .running ∧ (tst0.dom (1 - 1)).bytes < 96 * 2 ^ 30 + 1 ∧ (tst0.dom (1 - 1)).st = .running := by decide +kernel
/-- A region that is being rebuilt, a request before a core access, one that waits itself, and a host that has been asked. -/
theorem witness_core_holds : let r := tstDirEnt 9 false false 1 1
    let q : ExtReq := ⟨7, 0x20000, 2, 0, 0, 0⟩
    let s (g : Dom → Dom) := tstDir [r] 1 g
    (∃ p ∈ ((s fun v => { v with pend := [⟨0x401, [7], .rebuild 0x400 9⟩] }).dom 0).pend, ∃ b n, p.why = .rebuild b n ∧ b ≤ 0x400 ∧ 0x400 < b + 2 ^ n) ∧
    ((s fun v => { v with reqs := [q] }).dom 0).ahead 0x20000 5 = true ∧ ((s fun v => { v with reqs := [⟨0, 0x20000, 6, 5, 0, 0⟩] }).dom 0).ahead 0x20000 5 = false ∧
    (∃ x ∈ r.agents ((s id).dom 0).agentSet, x = 1) ∧ 0x400 ∉ ((s id).dom 0).asked ∧ 0x400 ∈ ((s fun v => { v with asked := [0x400] }).dom 0).asked ∧
    SplitFits ((s id).dom 0) 0x400 ∧ (s id).isBack 5 = false := by
  refine ⟨⟨_, .head _, 0x400, 9, rfl, by decide, by decide⟩, ?_⟩
  unfold SplitFits; decide +kernel
/-- The acknowledgement of one line of several; a write-back of an agent that an invalidation is on its way to. -/
theorem witness_acks_more : let p : DirPend := ⟨0x400, [7], .rebuild 0x400 9⟩
    let q : DirPend := ⟨0x401, [7], .rebuild 0x400 9⟩
    let s := tstDir [tstDirEnt 9 false false 1 7] 1 fun v => { v with pend := [p, q] }
    (∃ x ∈ (s.dom 0).pend, x ≠ p ∧ x.why = .rebuild 0x400 9) ∧ (s.dom 0).pend.count p = 1 ∧ (∀ x ∈ (s.dom 0).pend, x.line = 0x400 → x = p) ∧ (s.dom 0).reqs = [] ∧
    (∃ x ∈ (s.dom 0).pend, x.line = 0x400 ∧ 7 ∈ x.agents) := by decide +kernel
theorem witness_host_more : let o := tstDirEnt 9 true false 1 7
    let s := tstDir [o] 0 id
    let p : DirPend := ⟨0x400, [1], .core 1 true⟩
    let c := tstDir [] 1 fun v => { v with pend := [p] }
    (∀ w : Bool, (s.dom 0).inTheWay 0x400 false w ≠ []) ∧ SplitFits (s.dom 0) 0x400 ∧ BlockIdle (s.dom 0) 0x20000 ∧ s.biasAt 0 0x20000 = 0#2 ∧
    ((tstDir [] 0 id).dom 0).inTheWay 0x400 false true = [] ∧ (c.dom 0).pend = [p] ∧ (c.dom 0).reqs = [] ∧ c.biasAt 0 0x20000 = 1#2 ∧
    (match exec (.rds 0 1 0x20000) (c.setDom 0 { c.dom 0 with pend := [] }) with | .next u => (u.dom 0).reqs.isEmpty | _ => false) = true := by
  unfold SplitFits BlockIdle NoneWaits; decide +kernel
theorem witness_snoops : (lookup (({ tst0 with hostLines := [(4, 7)] } : State).hostLines) (512 / 128)).or none = some 7 ∧
    (lookup tst0.hostLines (512 / 128)).or none = none ∧ (tst0.dom 0).bytes < (tst0.dom 0).window2Bytes ∧
    (tst0.dom 0).bytes < (tst0.dom 0).bytes - 8 + 16 := by decide +kernel

/-! ### Translation, invalidations and bias flips -/

/-- The small machine with page tables in memory. -/
def tstMapped (flags : Nat) : State := tstPart tst0 (tstMem8 (tstTabs ++ [(0x14100, 0x20000 + flags)]))
/-- The state in which `n` tables have been read. -/
def tstWalked (f : Nat) : Nat → State
  | 0 => tstMapped f
  | n + 1 => (tstWalked f n).modDom 0 fun v => v.touchL2 ((0x10000 + 0x1000 * n) / 128) (tstWalked f n).cycle
theorem gate_of (s : State) (d pa : Nat) (w : Bool) (h : tstGate s d pa w = true) : s.gate d pa 0 w = .ready s := by
  unfold tstGate at h
  split at h
  · rename_i t e; rw [e, of_decide_eq_true h]
  · cases h
/-- The tables lead to the leaf of 0x20000, and nowhere else. -/
theorem witness_leads (f : Nat) (h : f ∈ [0x2D, 0, 0x80D]) : Leads (tstMapped f) 0 0x20000 0x10000 4 false 0x14100 (tstWalked f 4) := by
  have a : Leads (tstMapped f) 0 0x20000 0x10000 0 false 0x10000 (tstWalked f 0) := .root
  have e : ∀ n ∈ [0, 1, 2, 3], wordOf (tstMapped f) 0 (0x10000 + 0x1000 * n) = BitVec.ofNat 64 (0x11003 + 0x1000 * n) := by
    clear a; revert f; decide +kernel
  have t : ∀ n ∈ [0, 1, 2, 3], TableEntry (wordOf (tstMapped f) 0 (0x10000 + 0x1000 * n)) n := by
    intro n k; rw [e n k]; revert n; unfold TableEntry; decide +kernel
  have r : ∀ n ∈ [0, 1, 2, 3], Readable (tstMapped f) 0 (0x10000 + 0x1000 * n) := by
    clear a e t; revert f; unfold Readable; decide +kernel
  have g : ∀ n ∈ [0, 1, 2, 3], (tstWalked f n).gate 0 (0x10000 + 0x1000 * n) 0 false = .ready (tstWalked f n) := by
    have : ∀ n ∈ [0, 1, 2, 3], tstGate (tstWalked f n) 0 (0x10000 + 0x1000 * n) false = true := by clear a e t r; revert f; decide +kernel
    exact fun n k => gate_of _ _ _ _ (this n k)
  have b := Leads.down 0 0x10000 false _ _ a (by decide) (t 0 (by decide)) (r 0 (by decide)) (g 0 (by decide)); rw [e 0 (by decide)] at b
  have c := Leads.down 1 0x11000 false _ _ b (by decide) (t 1 (by decide)) (r 1 (by decide)) (g 1 (by decide)); rw [e 1 (by decide)] at c
  have d := Leads.down 2 0x12000 false _ _ c (by decide) (t 2 (by decide)) (r 2 (by decide)) (g 2 (by decide)); rw [e 2 (by decide)] at d
  have k := Leads.down 3 0x13000 false _ _ d (by decide) (t 3 (by decide)) (r 3 (by decide)) (g 3 (by decide)); rw [e 3 (by decide)] at k
  exact k
theorem witness_leads_only (f : Nat) (h : f ∈ [0x2D, 0, 0x80D]) (l : Nat) (t : Bool) (x : Nat) (u : State) (k : Leads (tstMapped f) 0 0x20000 0x10000 l t x u) :
    l ≤ 4 ∧ t = false ∧ x = 0x10000 + 0x1000 * l + (if l = 4 then 0x100 else 0) := by
  induction k with
  | root => exact ⟨by decide, rfl, by decide⟩
  | down l x t u w k m _ _ _ ih =>
    obtain ⟨_, rfl, rfl⟩ := ih
    have e : ∀ l ∈ [0, 1, 2, 3], ∀ f ∈ [0x2D, 0, 0x80D],
        (wordOf (tstMapped f) 0 (0x10000 + 0x1000 * l + (if l = 4 then 0x100 else 0))).getLsbD 8 = false ∧
        addrOf (wordOf (tstMapped f) 0 (0x10000 + 0x1000 * l + (if l = 4 then 0x100 else 0))) + 8 * indexIn 0x20000 (l + 1) false =
          0x10000 + 0x1000 * (l + 1) + (if l + 1 = 4 then 0x100 else 0) := by decide +kernel
    have q := e l (by have : l < 4 := m; simp only [List.mem_cons, List.not_mem_nil, or_false]; omega) f h
    exact ⟨by omega, q.1, by rw [q.1]; exact q.2⟩
/-- The walk reaches the leaf, whose home lets it through, in a word that is poisoned or not; a root that is not there, and a home that waits. -/
theorem witness_walk_ends : (∀ f ∈ [0x2D, 0, 0x80D], tstGate (tstWalked f 4) 0 0x14100 false = true ∧ Readable (tstMapped f) 0 0x14100) ∧
    (let p := tstPart (tstMapped 0x2D) fun v => { v with poison := [0x2000] }
     tstGate p 0 0x10000 false = true ∧ 0x10000 / 8 ∈ (p.dom 0).poison ∧ (p.dom 0).walk = []) ∧
    (tst0.dom 0).bytes < 2 ^ 50 + 8 * indexIn 0x20000 0 false + 8 ∧
    (let b := tstPart (tstMapped 0x2D) fun v => { v with pend := [⟨0x200, [7], .flip⟩] }
     (match b.gate 0 0x10000 0 false with | .blocked _ => true | .ready _ => false) = true ∧ (b.dom 0).walk = []) := by
  unfold Readable; decide +kernel
/-- Leaves that are well formed, invalid and malformed. -/
theorem witness_walks : let e (f : Nat) := wordOf (tstMapped f) 0 0x14100
    LeafEntry (e 0x2D) 4 12 ∧ (e 0x2D).getLsbD 9 = false ∧ (e 0x2D).getLsbD 2 = true ∧ (e 0x2D).getLsbD 4 = false ∧ (e 0).getLsbD 0 = false ∧
    (e 0x80D).getLsbD 0 = true ∧ ¬LeafEntry (e 0x80D) 4 12 ∧ (tstMapped 0x2D).tlbFind 0 0 1 0x20000 = none ∧ ((tstMapped 0x2D).dom 0).walk = [] ∧
    ((tstMapped 0x2D).dom 0).poison = [] ∧ 0x15000 + 8 ≤ ((tstMapped 0x2D).dom 0).bytes ∧ (0x20000#64).toNat / 2 ^ 55 = 0 ∧
    ¬((0x0080000000000000#64).toNat / 2 ^ 55 = 0 ∨ (0x0080000000000000#64).toNat / 2 ^ 55 = 511) := by unfold LeafEntry; decide +kernel

/-- The thread at level 2, with `n` invalidations of its core under way. -/
def tstInv (s : State) (n : Nat) (p : Option Prog) : State :=
  { s.modThread 0 0 fun t => { t with lvl := 2, prog := p } with invals := (List.range n).map fun i => ⟨100 + i, 0, 0, .all, [], [(0, [])]⟩ }
theorem witness_invalidations : let s := tstInv tst0 0 none
    let e := tstInv tst0 8 none
    let d := tstInv (tstHit tst0 0xFF#128 0xFF#128 0) 7 none
    let p := tstInv tst0 1 (some ⟨1, [1], 0⟩)
    2 ≤ s.cur.lvl.toNat ∧ s.cur.dom < 16 ∧ s.cur.prog = none ∧ s.invals = [] ∧ (s.cache 0).lines = [] ∧
    (∀ x ∈ [(e, 8), (d, 7)], (x.1.invals.filter fun i => decide (i.core = x.1.iss.core ∧ i.dom = x.1.cur.dom ∧ i.kind.isPage = false)).length = x.2) ∧
    (∃ l ∈ (d.cache (d.agentOf 0)).lines, l.dirty ≠ 0#128) ∧ p.cur.prog = some ⟨1, [1], 0⟩ ∧ p.acked 1 = true ∧ (∀ i ∈ p.invals, i.id ∉ [1]) := by decide +kernel
/-- A core, a cluster TLB, a copy engine and the walkers receive an invalidation of each kind. -/
theorem witness_receipts : ∀ k ∈ [InvKind.va 1 0x20000, .space 1, .all, .page 0x20000], ∀ n ∈ [0, 4096, 8192, 16384],
    let i : Inval := ⟨100, 0, 0, k, [n], []⟩
    let s := { tstCore (tstHit (tstG tstFlags 0) 0xFF#128 0xFF#128 0) fun c => { c with eng := ⟨[], none, some (tstXfer [])⟩ } with
      invals := [i], ctlbs := [(0, [tstEnt tstFlags 0])] }
    i ∈ s.invals ∧ (∀ j ∈ s.invals, j.id = i.id → j = i) ∧ n ∈ i.todo ∧ (∃ e ∈ (s.core 0).tlb, e = tstEnt tstFlags 0) ∧ (∃ o ∈ (s.cache (s.agentOf 0)).lines, o.dirty ≠ 0#128) ∧
    (s.core (8192 - 8192)).eng.cur = some (tstXfer []) ∧ (tstXfer []).dom = i.dom := by decide +kernel
theorem witness_concerns : (∀ k ∈ [InvKind.va 1 0x20000, .va 1 0x20FFF, .space 1, .all, .page 0x20000], Concerns k 0 (tstEnt tstFlags 0)) ∧
    ∀ k ∈ [InvKind.va 1 0x21000, .va 2 0x20000, .space 2, .page 0x21000], ¬Concerns k 0 (tstEnt tstFlags 0) := by
  refine ⟨fun k h => ?_, fun k h => ?_⟩ <;> (simp only [List.mem_cons, List.not_mem_nil, or_false] at h; rcases h with rfl | rfl | rfl | rfl | rfl) <;>
    (unfold Concerns; decide)
theorem witness_invalidation_ends : let i (todo : List Nat) (acks : List (Nat × List Nat)) : Inval := ⟨100, 0, 0, .all, todo, acks⟩
    let s (x : Inval) : State := { tst0 with invals := [x] }
    let w : State := { tstSent tst0 .writeBack with invals := [i [] [(0, [1])]] }
    (∀ x ∈ [i [] [(0, [1])], i [5] [(0, [1])], i [] [(0, [1]), (6, [])]], x ∈ (s x).invals ∧ (∀ j ∈ (s x).invals, j.id = x.id → j = x) ∧ (0, [1]) ∈ x.acks ∧
      (∀ b ∈ x.acks, b.1 = 0 → b = (0, [1])) ∧ ∀ m ∈ (s x).net, m.id ∉ [1]) ∧
    (∃ m ∈ w.net, m.id ∈ [1]) ∧ ¬((i [5] [(0, [1])]).todo = [] ∧ (i [5] [(0, [1])]).acks = [(0, [1])]) ∧
    ¬((i [] [(0, [1]), (6, [])]).todo = [] ∧ (i [] [(0, [1]), (6, [])]).acks = [(0, [1])]) := by decide +kernel

/-- The thread at level 2, whose x8 holds a page in the device's memory, x9 a misaligned address and x10 one outside. -/
def tstFlip (b : Nat) (p : Option Prog) (h : Dom → Dom) : State :=
  (tstPart (tst (tstThread [(8#6, 0x20000#64), (9#6, 0x20800#64), (10#6, BitVec.ofNat 64 (96 * 2 ^ 30)), (11#6, BitVec.ofNat 64 (96 * 2 ^ 30 - 4096))])) fun v =>
    h { v with scopes := [[], [], [5]], mem := Memory.write v.mem 0x40008 1 b }).modThread 0 0 fun t => { t with lvl := 2, prog := p }
theorem witness_flips : let s (b : Nat) := tstFlip b none id
    2 ≤ (s 0).cur.lvl.toNat ∧ ((s 0).rx 9#6).toNat % 4096 ≠ 0 ∧ ((s 0).rx 10#6).toNat % 4096 = 0 ∧ ((s 0).rx 11#6).toNat + 4096 ≤ (s 0).curDom.bytes ∧
    ¬((s 0).cur.dom < 16 ∧ ((s 0).rx 10#6).toNat + 4096 ≤ (s 0).curDom.bytes) ∧ (s 0).curDom.st = .running ∧ (s 0).cur.prog = none ∧ (s 0).curOutstanding = [] ∧
    (∀ b ∈ [0, 1, 2], (s b).biasAt 0 0x20000 = BitVec.ofNat 2 b) ∧ ((s 0).rx 8#6).toNat = 0x20000 ∧ (tstSent (s 0) .store).curOutstanding ≠ [] := by decide +kernel
theorem witness_flips_end : let p (n : Nat) (ids : List Nat) : Option Prog := some ⟨n, ids, 0⟩
    let e := tstDirEnt 9 false false 1 7
    let s1 := tstFlip 2 (p 1 [5]) fun v => { v with dir := [e] }
    let w1 := { s1 with invals := [⟨5, 0, 0, .page 0x20000, [], [(0, [])]⟩] }
    let r := tstFlip 2 (p 2 []) fun v => { v with recs := [(0x400, ⟨1, 3, 3, 1⟩)] }
    let q := tstFlip 2 (p 2 []) fun v => { v with dir := [e], pend := [⟨0x400, [7], .flip⟩] }
    let d := tstFlip 2 (p 2 []) fun v => { v with dir := [e], l2 := [0x400], recs := [(0x400, ⟨1, 3, 3, 3⟩)] }
    let b := tstSent (tstFlip 2 (p 2 [1]) id) .writeBack
    (∃ i ∈ w1.invals, i.id ∈ [5]) ∧ (s1.invals = [] ∧ keysRise s1.caches = true ∧ (s1.dom 0).pend = [] ∧ ∀ x ∈ (s1.dom 0).dir, x.size ≤ 9) ∧
    (s1.dom 0).entryOf 0x400 = some e ∧ (∃ x ∈ e.agents (s1.dom 0).agentSet, x ≠ 0) ∧ b.acked 1 = false ∧ lookup (r.dom 0).recs 0x400 = some ⟨1, 3, 3, 1⟩ ∧
    (∃ x ∈ (q.dom 0).pend, x.line / 32 = 0x20000 / 4096) ∧ (d.dom 0).pend = [] ∧ (d.dom 0).reqs = [] ∧ (d.dom 0).dir.length ≤ 10 ∧ (d.dom 0).recs = [(0x400, ⟨1, 3, 3, 3⟩)] ∧
    (∀ z ∈ [s1, w1, r, q, d, b], 2 ≤ z.cur.lvl.toNat ∧ (z.rx 8#6).toNat % 4096 = 0 ∧ z.cur.dom < 16 ∧ (z.rx 8#6).toNat + 4096 ≤ (z.dom 0).bytes ∧ z.cur.prog.isSome) := by
  decide +kernel
/-- The engine is in the middle of a page; an access under way that used the entry, which an invalidation of the flipped page does not wait for. -/
theorem witness_receipt_waits : let x : Xfer := { tstXfer (([1, 0x20000, 0xFF80000000000000, 0x100000008, 0, 0, 0, 1]).map (BitVec.ofNat 64)) with spage := some (0x20, 0x30000) }
    let s := tstCore tst0 fun k => { k with eng := { k.eng with cur := some x } }
    let m := tstReq .store id
    (s.core (8192 - 8192)).eng.cur = some x ∧ ConcernsPacket ⟨1, 0, 1, .space 1, [8192], []⟩ x ∧ x.inPage = true ∧
    UsesEntry ⟨1, 0, 1, .space 1, [0], []⟩ [tstEnt tstFlags 0] m ∧ ¬UsesEntry ⟨1, 0, 1, .page 0x20000, [0], []⟩ [tstEnt tstFlags 0] m := by
  refine ⟨by decide +kernel, ⟨rfl, .inr (.inl rfl)⟩, by decide +kernel, ⟨.inl rfl, rfl, ⟨_, .head _, ?_, by decide +kernel⟩, fun _ h => by cases h⟩, fun h => h.2.2.2 _ rfl (by decide +kernel)⟩
  exact ⟨rfl, rfl⟩
theorem witness_invalidation_backs : let p := tstInv tst0 0 (some ⟨1, [1], 0⟩)
    let w : State := { p with net := [tstReq .writeBack id] }
    let n := tstInv tst0 8 (some ⟨1, [1], 0⟩)
    w.cur.prog = some ⟨1, [1], 0⟩ ∧ w.acked 1 = false ∧ p.acked 1 = true ∧ p.invals = [] ∧ n.acked 1 = true ∧
    (n.invals.filter fun i => decide (i.core = n.iss.core ∧ i.dom = n.cur.dom ∧ i.kind.isPage = false)).length = 8 := by decide +kernel
/-- Flips of a page for which a request waits, and whose line an outside agent holds, at an entry that fits. -/
theorem witness_flips_more : let e := tstDirEnt 0 false false 1 7
    let q : ExtReq := ⟨7, 0x20000, 2, 0, 0, 0⟩
    let s := tstFlip 2 (some ⟨2, [], 0⟩) fun v => { v with dir := [e] }
    let h := tstFlip 2 (some ⟨2, [], 0⟩) fun v => { v with reqs := [q] }
    (s.dom 0).entryOf 0x400 = some e ∧ 7 ∈ e.agents (s.dom 0).agentSet ∧ e.size = 0 ∧ (match (s.dom 0).splitFor 0x400 with | .ok _ => true | .error _ => false) = true ∧
    (s.dom 0).pend = [] ∧ (∃ r ∈ (h.dom 0).reqs, r.pa / 65536 = 0x20000 / 65536) := by decide +kernel

/-! ### Partition and device firmware -/

/-- The thread at level 2, with x8 zero, and the partition as `g` leaves it. -/
def tstFirm (xs : List (BitVec 6 × Word)) (g : Dom → Dom) : State :=
  (tstPart (tst (tstThread xs)) g).modThread 0 0 fun t => { t with lvl := 2 }
def tstStaged (n : Nat) : Staging := ⟨1, 2, 3, n, 4⟩
theorem witness_model_keys : let xs : List (BitVec 6 × Word) := [(9#6, 0x2000#64), (10#6, 0x4000#64), (11#6, 0x801#64)]
    let s := tstFirm xs fun v => { v with staging := [(0, tstStaged 2)] }
    let k := tstFirm xs fun v => { v with keys := [(0, ⟨1, 2, 3, 0x4000, 2, 0x2000⟩)] }
    2 ≤ s.cur.lvl.toNat ∧ (s.rx 8#6).toNat = 0 ∧ lookup s.curDom.keys 0 = none ∧ lookup s.curDom.staging 0 = some (tstStaged 2) ∧
    ((s.rx 10#6).toNat % 4096 = 0 ∧ (s.rx 9#6).toNat % 4096 = 0 ∧ (s.rx 10#6).toNat + 4096 * 2 ≤ s.curDom.bytes ∧ (s.rx 9#6).toNat + 16 * 2 ≤ s.curDom.bytes) ∧
    (s.rx 11#6).toNat % 4096 ≠ 0 ∧ lookup k.curDom.keys 0 = some ⟨1, 2, 3, 0x4000, 2, 0x2000⟩ ∧ lookup k.curDom.staging 0 = none := by decide +kernel
theorem witness_energy_accounts : let s := tstFirm [(8#6, 1#64), (9#6, 3000#64), (10#6, 3001#64), (11#6, 2#64), (12#6, BitVec.ofNat 64 (2 ^ 40 + 1)), (13#6, 5#64)] id
    let others := ((s.doms.filter fun y => decide (y.1 < 16 ∧ y.1 ≠ s.cur.dom)).map fun y => y.2.acct.rate).sum
    2 ≤ s.cur.lvl.toNat ∧ ((s.rx 8#6).toNat = 1 ∧ ¬3000 < (s.rx 9#6).toNat + others ∧ 3000 < (s.rx 10#6).toNat + others) ∧
    ((s.rx 11#6).toNat = 2 ∧ 2 ^ 40 < (s.rx 12#6).toNat) ∧ (s.rx 0#6).toNat = 0 ∧ 4 < (s.rx 13#6).toNat ∧ 2 < (s.rx 13#6).toNat := by decide +kernel
theorem witness_energy_intervals : let a (n : Nat) (x : List (Nat × Nat)) : Account := ⟨100, 1000, 1000, 0, 0, 0, 0, 0, x, n⟩
    (∀ x ∈ [[], [(0, 5)], [(1, 7)], [(2, 9)]], let s := tstPart tst0 fun v => { v with acct := a 0 x }
      (s.dom 0).st = .running ∧ (s.dom 0).acct.next ≤ s.cycle ∧ lookup (s.dom 0).launches 1 = some tstLaunch ∧ (s.dom 0).acct.sets = x) ∧
    tst0.cycle < ((tstPart tst0 fun v => { v with acct := a 1 [] }).dom 0).acct.next ∧ (tst0.dom 3).st ≠ .running := by decide +kernel
theorem witness_counters : ∀ x ∈ [(1, 0, 95), (2, 0, 5), (3, 0, 0), (4, 1, 15), (3, 2, 0), (4, 3, 0), (5, 0, 0), (6, 1, 0), (7, 0, 0), (8, 0, 0), (8, 1, 0), (8, 2, 0),
    (8, 3, 0)], MayRead tst0 0 x.1 x.2.1 x.2.2 := by
  intro x h
  simp only [List.mem_cons, List.not_mem_nil, or_false] at h
  rcases h with rfl | rfl | rfl | rfl | rfl | rfl | rfl | rfl | rfl | rfl | rfl | rfl | rfl <;> (dsimp only [MayRead]; decide +kernel)
theorem witness_hidden_counters : ∀ x ∈ [(1, 0, 96), (2, 0, 6), (3, 0, 1), (4, 1, 16), (3, 2, 1), (4, 3, 1), (5, 1, 0), (6, 2, 0), (7, 0, 1), (8, 2, 1), (9, 0, 0)],
    ¬MayRead tst0 0 x.1 x.2.1 x.2.2 := by
  intro x h
  simp only [List.mem_cons, List.not_mem_nil, or_false] at h
  rcases h with rfl | rfl | rfl | rfl | rfl | rfl | rfl | rfl | rfl | rfl | rfl <;> (dsimp only [MayRead]; decide +kernel)
theorem witness_counter_index : ((tstFirm [(8#6, 0x1005F#64)] id).rx 8#6).toNat = 65536 * 1 + 4096 * 0 + 95 ∧ (0x1005F#24).toNat = 65536 * 1 + 4096 * 0 + 95 := by
  decide +kernel
theorem witness_scope_table : let s := tstFirm [(8#6, 1#64), (9#6, 3#64), (10#6, 4#64)] fun v => { v with scopes := [[5], [5, 6], [5, 6, 7]] }
    2 ≤ s.cur.lvl.toNat ∧ (1 ≤ (s.rx 8#6).toNat ∧ (s.rx 9#6).toNat ≤ 3) ∧ (s.curDom.scopes.getD (1 - 1) [])[(s.rx 0#6).toNat]? = some 5 ∧
    (s.curDom.scopes.getD (1 - 1) []).length ≤ (s.rx 8#6).toNat ∧ ¬(1 ≤ (s.rx 0#6).toNat) ∧ ¬(s.rx 10#6).toNat ≤ 3 := by decide +kernel

/-- The words of the descriptor of partition 1, whose supervisor image stands at 0x20000. -/
def tstDescr : List Nat := [1, 1, 1, 1, 1, 1, 4096, 0x50000, 2, 0x40000, 0x80000, 0x70000, 0x20000, 1, 0, 0]
/-- The memory of the device with that descriptor at 0x90000, the tables and the image. -/
def tstFwLow (w : List Nat) : List Host.Cell :=
  (tstMem8 ((List.range 16).map fun j => (0x90000 + 8 * j, w.getD j 0)) { Dom.blank 0 with mem := tstTables [] }).mem
def tstFwMem (w : List Nat) : List Host.Cell :=
  let cells := tstFwLow w
  cells.filter (fun e => e.1 < 0x20000) ++ tstPlace 0x20000 tstWhole ++ cells.filter fun e => 0x20000 ≤ e.1
/-- Device firmware at level 3, for which x8 holds `at'`; partition 0 as `g` leaves it. -/
def tstBoot (w : List Nat) (at' : Word) (p : List Nat) (g : Dom → Dom) : State :=
  { tst { tstThread [(8#6, at')] with dom := 16, lvl := 3, launch := 0 } with
    doms := [(0, g tstDom), (16, { Dom.blank 16 with poison := p, mem := tstFwMem w })] }
theorem witness_descriptors : let idle (v : Dom) : Dom := { v with st := .none }
    let D (s : State) (i : Nat) : Nat := Memory.read (s.dom 16).mem ((s.rx 8#6).toNat + 8 * i) 8
    let r := tstBoot (tstDescr.set 14 1) 0x90000 [] idle
    let z := tstBoot (tstDescr.set 3 0) 0x90000 [] idle
    let u := tstBoot tstDescr 0x90000 [] id
    3 ≤ r.cur.lvl.toNat ∧ D r 14 ≠ 0 ∧ D z 3 % 2 ^ 16 = 0 ∧ (D u 0 = 1 ∧ (u.dom 1).st = .none ∧ (u.dom 0).st ≠ .none ∧ BitVec.ofNat 40 (D u 1) &&& (u.dom 0).groups ≠ 0) ∧
    (∀ s ∈ [r, z, u], (s.rx 8#6).toNat % 64 = 0 ∧ (s.rx 8#6).toNat + 128 ≤ (s.dom 16).bytes ∧ (s.dom 16).poison = []) ∧
    ((tstBoot tstDescr 0x90008 [] idle).rx 8#6).toNat % 64 ≠ 0 ∧ ((tstBoot tstDescr 0x90000 [0x1200F] idle).dom 16).poison = [0x90000 / 8 + 15] := by decide +kernel
def tstCreate : State := tstBoot tstDescr 0x90000 [] fun v => { v with st := .none }
/-- A descriptor that passes every check. -/
theorem witness_partition_created : tstCreate.cur.dom = 16 ∧ (tstCreate.thread? tstCreate.iss.core tstCreate.iss.slot).isSome ∧ tstCreate.iss.slot ≠ 15 ∧
    (tstCreate.rx 8#6).toNat = 0x90000 ∧
    (match tstCreate.checkDesc (Memory.bytes (tstCreate.dom 16).mem 0x90000 128) with | .ok v => v.supPc == 0x20080#64 | .error _ => false) = true := by
  decide +kernel
theorem witness_partition_destroyed : let s := tstBoot tstDescr 0x90000 [] id
    (s.rx 8#6).toNat % 16 = 0 ∧ (s.dom 0).st = .running ∧ s.cur.dom = 16 ∧ (s.thread? s.iss.core s.iss.slot).isSome ∧ (tstCreate.dom 0).st ≠ .running ∧
    3 ≤ tstCreate.cur.lvl.toNat := by decide +kernel

/-! ### The device -/

/-- The small machine with one entry in the management ring of function 1. -/
def tstRings (h lq : Nat) : State := { tstPart tst0 fun v => { v with lqt := lq } with rings := [(1, ⟨[(0, BitVec.ofNat 64 h)], 1, 0⟩)] }
theorem witness_windows : (tst0.dom (1 - 1)).st = .running ∧ (tst0.dom (2 - 1)).st ≠ .running ∧ (∀ o ∈ [0x1000, 0x13F8], 0x1000 ≤ o / 8 * 8 ∧ o / 8 * 8 < 0x1400) ∧
    0x1400 / 8 * 8 = 0x1400 ∧ 0x140F / 8 * 8 = 0x1408 ∧ ¬(0xFFF / 8 * 8 = 0 ∨ 0x1000 ≤ 0xFFF / 8 * 8) ∧ 0x3FFFFF8 + 8 ≤ 2 ^ 26 ∧ 2 ^ 26 < 0x3FFFFF9 + 8 ∧ 0 % 8 + 8 ≤ 8 ∧
    1 ≤ tst0.bootStep ∧ tst0.bootStep ≤ 7 := by decide +kernel
theorem witness_rings : let s := tstRings 0x30000 0x40000
    let r : MRing := (lookup s.rings 1).getD ⟨[], 0, 0⟩
    r.ri ≠ r.wi ∧ ((lookup tst0.rings 1).getD ⟨[], 0, 0⟩ : MRing).ri = ((lookup tst0.rings 1).getD ⟨[], 0, 0⟩ : MRing).wi ∧
    (s.dom (1 - 1)).st = .running ∧ 0x30000 % 64 = 0 ∧ 0x30000 + 64 ≤ (s.dom 0).bytes ∧ (s.dom 0).lqt + 512 ≤ (s.dom 0).bytes ∧ (2#2 : BitVec 2) ≠ 3#2 ∧
    0x30000 + 64 ≤ (s.dom 0).lqt + 8 * 63 ∧ 0x30008 % 64 ≠ 0 := by decide +kernel
/-- A request whose address lies above the memory of its partition. -/
def tstFar (k : MKind) (w : Bool) (now : Nat) : State :=
  { tst0 with net := [tstReq k fun m => { m with pa := 96 * 2 ^ 30, wait := w }], cycle := now, nextId := 2 }
theorem witness_links : ∀ k ∈ [MKind.load true true false, .atomic 0 0, .read, .store], ∀ w ∈ [true, false],
    let m : Msg := tstReq k fun m => { m with pa := 96 * 2 ^ 30, wait := w }
    (tstFar k w 0).findMsg m.id = some m ∧ m.dom ≤ 16 ∧ ((tstFar k w 0).dom m.dom).bytes < m.pa + m.n ∧ m.st = .sent ∧ (tstFar k w (2 ^ 20 - 1)).cycle < m.sentAt + 2 ^ 20 ∧
    m.sentAt + 2 ^ 20 ≤ (tstFar k w (2 ^ 20)).cycle ∧ m.kind = k ∧ m.wait = w := by decide +kernel
theorem witness_bring_up : State.reset.ready = false ∧ State.reset.bootErr = 0#8 ∧ State.reset.bootStep = 1 ∧ tst0.ready = true ∧
    ∀ n ∈ [2, 3, 4, 5, 6, 7], let s := { State.reset with bootStep := n }
      s.ready = false ∧ s.bootErr = 0#8 ∧ s.bootStep = n := by decide +kernel
/-- A session with the responder of partition 0, whose staging entries are free but the first, or all taken. -/
def tstSession (n : Nat) : State :=
  { tstPart tst0 fun v => { v with staging := (List.range n).map fun j => (j, tstStaged 2) } with sessions := [(0x20, 4, 9)] }
theorem witness_key_delivery : RespondsFor 1 0 ∧ RespondsFor 0x20 0 ∧ ((tstSession 1).dom 0).st = .running ∧ OpenAt (tstSession 1) 0x20 4 9 ∧
    (∀ x ∈ (tstSession 1).sessions, (x.1, x.2.1) ≠ (0x20, 5)) ∧ (∃ j < 16, lookup ((tstSession 1).dom 0).staging j = none) ∧
    (∀ j < 16, lookup ((tstSession 16).dom 0).staging j ≠ none) ∧ (none : Option (BitVec 64)) ≠ some 1#64 ∧ (tst0.dom 1).st ≠ .running := by
  have o : OpenAt (tstSession 1) 0x20 4 9 := ⟨.head _, fun j h => by cases h with | head => rfl | tail _ h => cases h⟩
  refine ⟨by unfold RespondsFor; decide, by unfold RespondsFor; decide, by decide +kernel, o, by decide +kernel, by decide +kernel, by decide +kernel, by decide, by decide +kernel⟩
theorem witness_measurements : let s := tstPart tst0 fun v => { v with keys := [(15, ⟨1, 2, 3, 0x4000, 2, 0x2000⟩)] }
    (RespondsFor 0x20 0 ∧ (s.dom 0).st = .running) ∧ lookup (s.dom 0).keys 15 = some ⟨1, 2, 3, 0x4000, 2, 0x2000⟩ ∧ lookup (s.dom 0).keys 0 = none ∧
    s.sessions = [] ∧ (∃ k, (0x20, 4, k) ∈ (tstSession 1).sessions) ∧ (∀ d, ¬RespondsFor 0x50 d) := by
  refine ⟨⟨by unfold RespondsFor; decide, by decide +kernel⟩, by decide +kernel, by decide +kernel, by decide +kernel, ⟨9, .head _⟩, fun d h => ?_⟩
  have := h.1; have := h.2; omega
/-- A request of a ring whose words can be written, and one that waits for an agent outside. -/
theorem witness_ring_gates : let s := tstRings 0x30000 0x40000
    let b := { tstRings 0x30000 0x40000 with doms := [(0, { tstDom with lqt := 0x40000, pend := [⟨0x600, [7], .flip⟩] })] }
    tstGates s 0 true [(0x30000 + 24, 8), (0x40000 + 8 * 63, 8)] = true ∧ (b.dom 0).st = .running ∧ (b.dom 0).lqt + 512 ≤ (b.dom 0).bytes ∧
    (match b.gateAll 0 true [(0x30000 + 24, 8), (0x40000 + 8 * 63, 8)] with | .error _ => true | .ok _ => false) = true := by decide +kernel
theorem witness_links_more : (31 < 32 ∧ ¬32 < 32) ∧ ∀ k ∈ [MKind.release, .counter true, .counter false, .drain 1 3 0, .steal 1 [] none, .writeBack],
    let m : Msg := tstReq k fun m => { m with pa := 96 * 2 ^ 30, st := .combined }
    let s : State := { tst0 with net := [m], cycle := 2 ^ 20, nextId := 2 }
    s.findMsg m.id = some m ∧ m.dom ≤ 16 ∧ (s.dom m.dom).bytes < m.pa + m.n ∧ m.st = .combined ∧ m.sentAt + 2 ^ 20 ≤ s.cycle ∧
    s.thread? m.core m.slot = some (s.thread 0 0) ∧ (s.thread 0 0).gen = m.gen ∧ (s.thread 0 0).st = .ready ∧ m.slot < 15 := by decide +kernel
theorem witness_ordered : Ordered (tstTurn [0x1000_1872_0030_0000_0000_0000#96]) ∧
    (match step (tstTurn [0x1000_1872_0030_0000_0000_0000#96]) with | .next _ => true | _ => false) = true := by
  unfold Ordered; decide +kernel

/-! ### Values of the spec's own tables and examples -/

/-- The rows of R77: FP32 0, E4M3 3, E2M1 5, INT8 6, E8M0 10, FP26 11. -/
theorem test_conversions : let z : RC := ⟨0, 1⟩
    let f (src dst mode : Nat) (sat : Bool) (v : Nat) : Nat × BitVec 5 := let r := convertElem src dst mode sat v z; (r.1, r.2.flags)
    f 0 3 0 false 0x3E99999A = (0x2A, 16#5) ∧ f 0 3 0 false 0x43FA0000 = (0x7F, 20#5) ∧ f 0 3 0 true 0x43FA0000 = (0x7E, 20#5) ∧
    f 0 5 0 false 0x40A00000 = (6, 16#5) ∧ f 0 11 0 false 0x3F800000 = (0xFE0000, 0#5) ∧ f 10 0 0 false 0x85 = (0x42800000, 0#5) ∧
    f 0 6 0 false 0xC0200000 = (0xFE, 16#5) ∧ f 0 6 4 false 0xC0200000 = (0xFD, 16#5) ∧ f 0 6 0 false 0x43480000 = (0x80, 1#5) ∧
    f 0 6 0 true 0x43480000 = (0x7F, 1#5) := by decide +kernel
/-- The reduction of R189: 2^24, 1.0 at 1, 16 and 17. -/
theorem test_reduction : let one := 0x3F800000#32
    let rows := ([0x4B800000#32, one] ++ List.replicate 14 0#32 ++ [one, one]).map fun e => [e]
    let l := redTree 0 0 4 (redRows (fun lane r c => redStep 0 0 lane (valueOf 0 (r.getD 0 0)) c) 0 rows (List.replicate 16 (redInit 0)) ⟨0, 1⟩)
    l.1 = [0x4B800001] ∧ l.2.flags = 16#5 := by decide +kernel
/-- The slab sums of R223. -/
theorem test_slab_sums : let v (m : Nat) (e : Int) (neg : Bool) : FVal := .fin ⟨neg, m, e, false⟩
    slabSum [v 1 0 false, v 1 0 true, v 1 (-60) false] = (0, false) ∧ slabSum [v 1 0 false, v 1 (-18) false, .zero false] = (0xFE0000, false) ∧
    slabSum [v 1 0 false, v 3 (-19) false] = (0xFE0001, false) ∧ slabSum [.zero true, .zero true] = (0x2000000, false) ∧
    slabSum [v 1 127 false, v 1 127 false] = (0x1FE0000, true) ∧ slabSum [(fMul (.zero false) (.inf false) ⟨0, 1⟩).1] = (0x1FF0000, false) ∧
    cubeAdd 11 (valueOf 11 0xFE0000) (valueOf 11 0xFE0001) = (0x1000000, false) := by decide +kernel
/-- Interval 445 of R380's example, in microjoules. -/
theorem test_energy_interval : (match exec (.energyIntervalEnd 0 [(1, 900)] 0) (tstLn (tstPart tst0 fun v => { v with acct := ⟨300, 1000, 733200, 0, 0, 0, 0, 0, [], 0⟩ })
      fun l => { l with energyRes := 400 }) with
    | .next t => (t.dom 0).acct.b == 733000 && (t.launch 0 1).energyRes == 0 && (t.dom 0).acct.used == 900 && (t.dom 0).acct.stage == 0
    | _ => false) = true := by decide +kernel
/-- Interval 1,667: the bucket is empty and STAGE becomes 1. -/
theorem test_energy_stage : (match exec (.energyIntervalEnd 0 [(1, 900)] 0) (tstPart tst0 fun v => { v with acct := ⟨300, 1000, 400, 0, 0, 0, 0, 0, [], 0⟩ }) with
    | .next t => (t.dom 0).acct.b == -200 && (t.dom 0).acct.stage == 1
    | _ => false) = true := by decide +kernel
/-- The agent set of "Six readers and a writer" (after R307): 0, 1, 2 to 47 and 288 to 319; the line stands in partition 0. -/
def tstSix (e : DirEnt) : State :=
  tstPart tst0 fun v => { v with stks := 0xFFFF, dir := [e], scopes := [[], [], List.range 46 ++ (List.range 32).map (286 + ·)] }
def tstX : Nat := 0x4200012380 / 128
/-- Its step 5: the fifth reader makes the entry coarse. -/
theorem test_fifth_reader : (match exec (.rds 0 41 0x4200012380) (tstSix ⟨tstX / 512 * 512, 9, false, false, 4, 40#64 <<< 33 ||| 12#64 <<< 22 ||| 5#64 <<< 11, 0⟩) with
    | .next t => (t.dom 0).dir == [⟨tstX / 512 * 512, 9, false, true, 0, 3#64, 0⟩]
    | _ => false) = true := by decide +kernel
/-- Its step 7: ten entries, each SHARED with HOLDERS 0x203, and 79 invalidations of the one line. -/
theorem test_writer : (match exec (.rdo 0 41 0x4200012380) (tstSix ⟨tstX / 512 * 512, 9, false, true, 0, 0x203#64, 0⟩) with
    | .next t => (t.dom 0).dir.length == 10 && ((t.dom 0).dir.all fun e => e.holders == 0x203#64 && e.coarse && !e.owned) &&
        ((t.dom 0).pend.map fun p => (p.line, p.agents.length, p.agents.contains 41, p.agents.contains 60)) == [(tstX, 79, false, false)]
    | _ => false) = true := by decide +kernel
/-- R26, R97: a CALL leaves its return address in x63 and goes to slot 1 of the line two lines back. -/
theorem test_call : (match exec (.call 0x1FFFFFFFFE#37 1#3) tst0 with
    | .next t => t.rx 63#6 == 0x100C#64 && t.cur.pc == 0xF8C#64
    | _ => false) = true := by decide +kernel
/-- R336, R345: an SVC takes its trap: a record in the queue of the core, and the thread is TRAPPED. -/
theorem test_svc : (match exec (.svc 7#32) tst0 with
    | .next t => (t.core 0).trapq.length == 1 && (t.thread 0 0).st == .trapped
    | _ => false) = true := by decide +kernel
/-- An ENERGY.RD of field 4 gives USED in millijoules. -/
theorem test_energy_rd : (match exec (.energyRd 9#6 4#6 1#3) (tstPart (tst (tstThread [(4#6, 4#64)])) fun v => { v with acct := { v.acct with snapUsed := 12999 } }) with
    | .next t => t.rx 9#6 == 12#64 && t.rp 1#3
    | _ => false) = true := by decide +kernel
/-- A store and a load of local memory, little-endian (R3). -/
theorem test_store_bytes : (match exec (.st 4#6 2#6 0#6 0#2 1#3 0#3 0#3 0#3 6#48) (tst (tstThread [(4#6, 0xAABB#64)])) with
    | .next t => (Memory.get (t.core 0).lmem 6 == 0xBB#8) && (Memory.get (t.core 0).lmem 7 == 0xAA#8) && (Memory.get (t.core 0).lmem 8 == 0#8)
    | _ => false) = true := by decide +kernel
theorem test_load_sign : (match exec (.ld 1#4 7#6 2#6 0#6 0#2 1#3 0#3 0#3 0#3 6#48) (tstCore tst0 fun k => { k with lmem := [(6, 0xBB#8), (7, 0xAA#8)] }) with
    | .next t => t.rx 7#6 == 0xFFFFFFFFFFFFAABB#64
    | _ => false) = true := by decide +kernel
/-- XFOLD.K4 of the example after R93: the line index 0x2469 folds to 9. -/
theorem test_xfold : (match exec (.xfold 3#4 11#6 12#6 0#6) (tst (tstThread [(12#6, 0x2469#64)])) with
    | .next t => t.rx 11#6 == 9#64
    | _ => false) = true := by decide +kernel

end Sys2Proof.Machine
end

section
/-! PROOFS. The statements of the scope: no step refuses (R5), the machine after reset (R383), the special registers (R83,
R103, R217), and what taking a trap and losing a turn come to in the terms of the statements. -/
namespace Sys2Proof.Machine

/-- The outcome is a next state: neither a fault nor a refusal. -/
def Answers (o : Out) : Prop := ∃ t, o = .next t

theorem answers_next (t : State) : Answers (.next t) := ⟨t, rfl⟩

theorem answers_ite {c : Prop} [Decidable c] {o o' : Out} (h : Answers o) (h' : Answers o') :
    Answers (if c then o else o') := by
  split
  · exact h
  · exact h'

/-- The meaning of every instruction and of every event is a next state. -/
theorem exec_answers (i : Instr) (s : State) : Answers (exec i s) := by
  cases i <;> exact answers_next _

/-! ### From a meaning to a step

Whatever meanings the step runs, it adds no fault and no refusal of its own: an outcome that it passes on unchanged is the
answer of a meaning. -/

section
variable {ex : Instr → State → Out} (hex : ∀ i s, Answers (ex i s))
include hex

theorem Half.exec_answers (h : Half) (s : State) : Answers (h.exec ex s) := by
  cases h with
  | off => exact answers_next s
  | illegal => exact answers_next s
  | run i => exact hex i s

theorem runSingle_answers (h : Half) (s : State) : Answers (runSingle ex h s) := by
  unfold runSingle
  split
  · exact answers_next _
  · exact h.exec_answers hex _

theorem runAlone_answers (h : Half) (w : Slot) (s : State) : Answers (runAlone ex h w s) := by
  unfold runAlone
  split
  · exact answers_next _
  · exact h.exec_answers hex _

/-- Whether the V half runs after the I half, before it or not at all, what runs last answers. -/
theorem runPair_answers (hi hv : Half) (w : Slot) (s : State) : Answers (runPair ex hi hv w s) := by
  unfold runPair
  split
  · refine answers_ite (answers_next _) <| answers_ite (answers_next _) <| answers_ite (answers_next _) <|
      answers_ite ?_ ?_
    · split
      · exact answers_next _
      · exact hv.exec_answers hex _
    · split
      · exact answers_ite (hi.exec_answers hex _) (answers_next _)
      · exact hv.exec_answers hex _
  · exact hi.exec_answers hex _

theorem issueBundle_answers (l : Latch) (s : State) : Answers (issueBundle ex l s) := by
  unfold issueBundle
  refine answers_ite (answers_next _) <| answers_ite (answers_next _) <| answers_ite (answers_next _) <|
    answers_ite (answers_next _) <| answers_ite (answers_next _) ?_
  split
  · exact answers_ite (runAlone_answers hex _ _ _) (runSingle_answers hex _ _)
  · exact runPair_answers hex _ _ _ _
  · exact answers_next _

theorem runBundle_answers (l : Latch) (s : State) : Answers (runBundle ex l s) := by
  unfold runBundle
  split
  · exact answers_next _
  · exact issueBundle_answers hex l s

theorem runEvent_answers (i : Instr) (s : State) : Answers (runEvent ex i s) := by
  obtain ⟨t, ht⟩ := hex i s
  rw [runEvent, ht, runLatched]
  split
  · exact runBundle_answers hex _ t
  · exact answers_next t

theorem stepWith_answers (s : State) : Answers (stepWith ex s) := by
  unfold stepWith
  split
  · exact runBundle_answers hex _ s
  · split
    · exact answers_ite (runEvent_answers hex _ _) (answers_next _)
    · exact runEvent_answers hex _ s

end

/-- Settles O22: the meaning of every instruction and event is a next state, and the step around it adds nothing else. -/
theorem noRefusal : Obligations.NoRefusal := fun s => stepWith_answers exec_answers s

/-! ### The machine after reset (R383) -/

theorem State.core_reset (c : Nat) : State.reset.core c = Core.idle c 0 := rfl

theorem State.dom_reset (d : Nat) : State.reset.dom d = Dom.blank d := rfl

theorem State.cache_reset (a : Nat) : State.reset.cache a = Cache.empty := rfl

/-- A partition that does not exist is not the domain of device firmware. -/
theorem Dom.blank_st_of_partition {d : Nat} (h : d < 16) : (Dom.blank d).st = .none :=
  if_neg (Nat.ne_of_lt h)

theorem resetState : Says.ResetState := by
  refine ⟨rfl, rfl, rfl, rfl, rfl, fun d hd => ?_, fun c => ?_, fun a => ?_, fun d a => ?_⟩
  · rw [State.dom_reset]
    exact ⟨Dom.blank_st_of_partition hd, rfl, rfl, rfl⟩
  · rw [State.core_reset]
    exact ⟨rfl, rfl, rfl, rfl, rfl, rfl, rfl, rfl⟩
  · rw [State.cache_reset]
    exact ⟨rfl, rfl, rfl⟩
  · rw [State.dom_reset]
    exact Memory.get_nil a

/-- No memory is listed, and the bring-up stands at its first step. -/
theorem resetSound : Says.ResetSound := ⟨rfl, by decide⟩

/-- The maps are empty. -/
theorem resetOrdered : Says.ResetOrdered :=
  ⟨rfl, rfl, rfl, fun _ h => absurd h List.not_mem_nil, fun _ h => absurd h List.not_mem_nil⟩

/-- Settles O19: every map of the reset state is empty, so each lookup gives the blank piece. -/
theorem resetLeaves : Obligations.ResetLeaves := ⟨resetState, resetSound, resetOrdered⟩

/-! ### Taking a trap (R333, R335, R336, R339, R341) -/

theorem lookup_map_snd {α β : Type} (f : α → β) (m : List (Nat × α)) (k : Nat) :
    lookup (m.map fun e => (e.1, f e.2)) k = (lookup m k).map f := by
  induction m with
  | nil => rfl
  | cons e t ih =>
    obtain ⟨j, v⟩ := e
    by_cases h : j = k
    · simp [lookup, h]
    · simp [lookup, h, ih]

/-- An append of bit vectors as a sum. -/
theorem toNat_append_eq_add {m n : Nat} (x : BitVec m) (y : BitVec n) : (x ++ y).toNat = x.toNat * 2 ^ n + y.toNat := by
  rw [BitVec.toNat_append, ← Nat.shiftLeft_add_eq_or_of_lt y.isLt, Nat.shiftLeft_eq]

/-- The record of a precise trap as mkRec lays it out (R333). -/
theorem mkRec_precise (s : State) (cause : Cause) (addr extra : Word) :
    mkRec cause (recFlags false false false false s.iss.pair) (tidOf s.iss.core s.iss.slot) 0#16 s.iss.pc addr extra =
      s.precise cause addr extra := by
  have hflags : recFlags false false false false s.iss.pair = BitVec.ofNat 8 (16 * s.iss.pair.toNat) := by
    cases s.iss.pair <;> rfl
  have hp : s.iss.pair.toNat ≤ 1 := Bool.toNat_le _
  have hword (f c : BitVec 8) (tid : BitVec 17) :
      (0#16 ++ 0#15 ++ tid ++ f ++ c).toNat = c.toNat + 256 * f.toNat + 65536 * tid.toNat := by
    simp only [toNat_append_eq_add, BitVec.toNat_ofNat]
    omega
  simp only [mkRec, State.precise, TrapRec.mk.injEq, and_true]
  apply BitVec.eq_of_toNat_eq
  rw [hword, hflags, BitVec.toNat_ofNat, BitVec.toNat_ofNat]
  omega

theorem Core.raisedNow_le (k : Core) : k.raisedNow ≤ k.trapq.length := by
  unfold Core.raisedNow
  split
  · exact Nat.min_le_right _ _
  · exact Nat.zero_le _

/-- A record enters behind those of lower or equal rank among the records of its cycle. -/
theorem Core.enters_enterRec (k : Core) (r : TrapRec) : k.Enters (k.enterRec r).trapq r := by
  have hn := k.raisedNow_le
  refine ⟨k.trapq.take (k.trapq.length - k.raisedNow),
    (k.trapq.drop (k.trapq.length - k.raisedNow)).takeWhile (fun x => x.rank ≤ r.rank),
    (k.trapq.drop (k.trapq.length - k.raisedNow)).dropWhile (fun x => x.rank ≤ r.rank), ?_, rfl, ?_, ?_, ?_⟩
  · rw [List.append_assoc, List.takeWhile_append_dropWhile, List.take_append_drop]
  · rw [List.takeWhile_append_dropWhile, List.length_drop]
    omega
  · intro x hx
    simpa using List.mem_takeWhile_imp hx
  · intro x hx
    have hhead := List.head?_dropWhile_not (fun x : TrapRec => decide (x.rank ≤ r.rank))
      (k.trapq.drop (k.trapq.length - k.raisedNow))
    rw [hx] at hhead
    simpa using hhead

/-- A queued record changes the queue of its core, and threads of it that wait for a record return to rotation. -/
theorem State.core_pushRec (s : State) (c : Nat) (r : TrapRec) :
    (s.pushRec c r).core c = { (s.core c).enterRec r with
      slots := (s.core c).slots.map fun e => (e.1, e.2.recordCame (s.core c).cyc) } := by
  rw [State.pushRec, State.core_modCore_self]
  refine congrArg (fun sl => { (s.core c).enterRec r with slots := sl }) (List.map_congr_left fun e _ => ?_)
  cases hst : e.2.st with
  | ready => simp only [Thread.recordCame, hst, Prod.mk.eta]
  | trapped => simp only [Thread.recordCame, hst, Prod.mk.eta]
  | parked w => cases w <;> simp only [Thread.recordCame, hst, Prod.mk.eta]

/-- The issuing thread, stopped at its bundle by a precise trap. -/
def State.stopped (s : State) : Thread :=
  { s.cur with pc := s.iss.pc, npc := s.iss.npc, prog := none, awaits := none, pendV := none, fetching := none }

/-- The issuing thread as a precise trap leaves it in slots 0 to 14: TRAPPED, with its PC and PAIR kept (R26, R336). -/
def State.trappedThread (s : State) : Thread :=
  { s.stopped with st := .trapped, lastTrap := some (s.iss.pc, s.iss.pair) }

theorem State.core_takeTrap (s : State) (cause : Cause) (addr extra : Word) (c : Nat) :
    (s.takeTrap cause addr extra).core c =
      (s.raiseAt s.iss.core s.iss.slot cause addr extra s.iss.pc s.iss.npc s.iss.pair).core c := rfl

/-- The issuing core after a trap of the supervisor: the record waits for its restart (R339). -/
theorem State.core_takeTrap_supervisor (s : State) (h : s.iss.slot = 15) (cause : Cause) (addr extra : Word) :
    (s.takeTrap cause addr extra).core s.iss.core = { s.core s.iss.core with
      supFault := some (s.precise cause addr extra)
      slots := insertKey (s.core s.iss.core).slots s.iss.slot s.stopped } := by
  rw [← mkRec_precise, State.core_takeTrap, State.raiseAt, if_pos h, State.modThread, State.setThread,
    State.core_modCore_self, State.thread, State.thread?, State.core_modCore_self]
  rfl

/-- The issuing core after a trap in another slot: the thread is TRAPPED and its record enters the queue (R336). -/
theorem State.core_takeTrap_thread (s : State) (h : s.iss.slot ≠ 15) (cause : Cause) (addr extra : Word) :
    (s.takeTrap cause addr extra).core s.iss.core = { (s.core s.iss.core).enterRec (s.precise cause addr extra) with
      slots := (insertKey (s.core s.iss.core).slots s.iss.slot s.trappedThread).map
        fun e => (e.1, e.2.recordCame (s.core s.iss.core).cyc) } := by
  rw [← mkRec_precise, State.core_takeTrap, State.raiseAt, if_neg h, State.core_pushRec, State.modThread, State.setThread,
    State.core_modCore_self]
  rfl

theorem State.takeTrap_iss (s : State) (cause : Cause) (addr extra : Word) :
    (s.takeTrap cause addr extra).iss = { s.iss with st := .trapped } := by
  rw [State.takeTrap_eq]

theorem State.thread?_takeTrap (s : State) (cause : Cause) (addr extra : Word) (i : Nat) :
    (s.takeTrap cause addr extra).thread? s.iss.core i = if s.iss.slot = 15
      then if i = s.iss.slot then some s.stopped else s.thread? s.iss.core i
      else (if i = s.iss.slot then some s.trappedThread else s.thread? s.iss.core i).map
        (Thread.recordCame · (s.core s.iss.core).cyc) := by
  rw [State.thread?, State.thread?]
  split
  · next h => rw [State.core_takeTrap_supervisor s h, lookup_insertKey]
  · next h =>
    rw [State.core_takeTrap_thread s h, ← lookup_insertKey]
    exact lookup_map_snd (Thread.recordCame · (s.core s.iss.core).cyc) _ i

/-- The issuing thread after it has trapped: an entered record wakes other threads, and not the one that is TRAPPED. -/
theorem State.cur_takeTrap (s : State) (cause : Cause) (addr extra : Word) :
    (s.takeTrap cause addr extra).cur = if s.iss.slot = 15 then s.stopped else s.trappedThread := by
  rw [State.cur, State.takeTrap_iss, State.thread, State.thread?_takeTrap]
  split
  · rw [if_pos rfl]; rfl
  · rw [if_pos rfl]; rfl

/-- TAKING A TRAP does what the terms of the statements say of a precise trap. -/
theorem State.trapped_takeTrap (s : State) (cause : Cause) (addr extra : Word) :
    s.Trapped (s.takeTrap cause addr extra) cause addr extra := by
  have hrest : ∀ i, i ≠ s.iss.core → (s.takeTrap cause addr extra).core i = s.core i :=
    fun _ h => State.takeTrap_core_ne s h cause addr extra
  have heq := State.takeTrap_eq s cause addr extra
  have hcur := State.cur_takeTrap s cause addr extra
  have hthreads := State.thread?_takeTrap s cause addr extra
  by_cases h : s.iss.slot = 15
  · have hcore := State.core_takeTrap_supervisor s h cause addr extra
    simp only [State.Trapped, decide_eq_true h, if_true]
    rw [if_pos h] at hcur
    simp only [if_pos h] at hthreads
    refine ⟨hcur, ?_, ?_, ?_, ?_, hrest, heq⟩
    · rw [hcore]; exact ⟨rfl, rfl⟩
    · rw [hcore]
    · intro i hi; rw [hthreads, if_neg hi]
    · rw [hcore]
  · have hcore := State.core_takeTrap_thread s h cause addr extra
    simp only [State.Trapped, decide_eq_false h, Bool.false_eq_true, if_false]
    rw [if_neg h] at hcur
    simp only [if_neg h] at hthreads
    refine ⟨hcur, ?_, ?_, ?_, ?_, hrest, heq⟩
    · rw [hcore]; exact ⟨Core.enters_enterRec _ _, rfl⟩
    · rw [hcore]; rfl
    · intro i hi; rw [hthreads, if_neg hi]
    · rw [hcore]; rfl

theorem TrapsWith.of_takeTrap {i : Instr} {s : State} {cause : Cause} {addr extra : Word}
    (h : exec i s = .next (s.takeTrap cause addr extra)) : TrapsWith i s cause addr extra :=
  ⟨_, h, s.trapped_takeTrap cause addr extra⟩

/-! ### Losing a turn (R108) -/

theorem State.cur_loseTurn (s : State) : s.loseTurn.cur = { s.cur with pc := s.iss.pc } :=
  State.cur_modCur s fun t => { t with pc := s.iss.pc }

theorem LosesTurn.of_loseTurn {i : Instr} {s : State} (h : exec i s = .next s.loseTurn) : LosesTurn i s := by
  refine ⟨_, h, rfl, s.cur_loseTurn, ?_⟩
  rw [State.cur_loseTurn]
  rfl

/-! ### The values of the special registers (R83) -/

theorem toNat_ofNat_of_lt {n : Nat} (h : n < 2 ^ 64) : (BitVec.ofNat 64 n).toNat = n := by
  rw [BitVec.toNat_ofNat, Nat.mod_eq_of_lt h]

section
variable {s : State}

theorem sregValue_tid (hcore : s.iss.core < 3840) (hslot : s.iss.slot < 16) : (sregValue s 0x000#12).toNat =
    32768 * (s.iss.core / 960) + 128 * (s.iss.core / 6 % 160) + 16 * (s.iss.core % 6) + s.iss.slot := by
  show ((tidOf s.iss.core s.iss.slot).setWidth 64).toNat = _
  rw [BitVec.toNat_setWidth_of_le (by decide), tidOf, BitVec.toNat_ofNat, coreNum]
  omega

theorem sregValue_core (hcore : s.iss.core < 3840) : (sregValue s 0x001#12).toNat =
    2048 * (s.iss.core / 960) + 8 * (s.iss.core / 6 % 160) + s.iss.core % 6 := by
  show (BitVec.ofNat 64 (coreNum s.iss.core)).toNat = _
  rw [BitVec.toNat_ofNat, coreNum]
  omega

theorem sregValue_part (hdom : s.cur.dom < 16) : (sregValue s 0x002#12).toNat = s.cur.dom := by
  show (BitVec.ofNat 64 (s.cur.dom % 16)).toNat = _
  rw [BitVec.toNat_ofNat]
  omega

theorem sregValue_launch (hasn : s.cur.asn < 65536) (hlaunch : s.cur.launch < 2 ^ 32) :
    (sregValue s 0x003#12).toNat = s.cur.asn + 65536 * s.cur.launch := by
  show (launchWord s.cur).toNat = _
  rw [launchWord, BitVec.toNat_ofNat]
  omega

theorem sregValue_cycle (hcyc : s.curCore.cyc < 2 ^ 64) : (sregValue s 0x004#12).toNat = s.curCore.cyc :=
  toNat_ofNat_of_lt hcyc

theorem sregValue_qallot (hallot : s.cur.allot ≤ 8) (hqregs : s.curLaunch.hdr.qregs ≤ 8) :
    (sregValue s 0x024#12).toNat = 256 * s.curLaunch.hdr.qregs + s.cur.allot :=
  toNat_ofNat_of_lt (by omega)

theorem sregValue_dqspill (hdeque : s.curLaunch.hdr.deque ≤ 4096) : (sregValue s 0x040#12).toNat =
    2 ^ 32 * s.curLaunch.hdr.deque + (s.curLaunch.lbase + s.curLaunch.hdr.lmem) % 2 ^ 18 := by
  show (dqspillWord s.curLaunch).toNat = _
  rw [dqspillWord, BitVec.toNat_ofNat]
  omega

theorem sregValue_drains : (sregValue s 0x051#12).toNat =
    2 ^ 32 * (s.cache (s.agentOf s.iss.core)).dlines.toNat + (s.cache (s.agentOf s.iss.core)).drains.toNat := by
  show ((s.cache (s.agentOf s.iss.core)).dlines ++ (s.cache (s.agentOf s.iss.core)).drains).toNat = _
  rw [toNat_append_eq_add, Nat.mul_comm]

theorem sregValue_dirty (hlines : (s.cache (s.agentOf s.iss.core)).lines.length < 4096) : (sregValue s 0x052#12).toNat =
    ((s.cache (s.agentOf s.iss.core)).lines.filter fun x => x.dirty ≠ 0).length := by
  have hle := List.length_filter_le (fun x : L1Line => x.dirty != 0) (s.cache (s.agentOf s.iss.core)).lines
  show (BitVec.ofNat 64 (List.countP _ _)).toNat = _
  rw [List.countP_eq_length_filter, toNat_ofNat_of_lt (by omega)]
  congr 2
  funext x
  exact (decide_not).symm

/-- ENACC holds STAGE above a signed 56-bit number of millijoules (R379). -/
theorem sregValue_enacc (hstage : s.curDom.acct.snapStage ≤ 4) :
    (sregValue s 0x060#12).toNat / 2 ^ 56 = s.curDom.acct.snapStage ∧
    Int.bmod ((sregValue s 0x060#12).toNat % 2 ^ 56) (2 ^ 56) = Int.bmod (s.curDom.acct.snapB / 1000) (2 ^ 56) := by
  have hval : (sregValue s 0x060#12).toNat =
      s.curDom.acct.snapStage * 2 ^ 56 + (BitVec.ofInt 56 (s.curDom.acct.snapB / 1000)).toNat := by
    show (enaccWord s.curDom.acct).toNat = _
    rw [enaccWord, BitVec.toNat_or, toNat_ofNat_of_lt (by omega), BitVec.toNat_setWidth_of_le (by decide), ← Nat.shiftLeft_eq,
      Nat.shiftLeft_add_eq_or_of_lt (BitVec.isLt _)]
  have hlow := (BitVec.ofInt 56 (s.curDom.acct.snapB / 1000)).isLt
  have hmod : ((sregValue s 0x060#12).toNat % 2 ^ 56 : Int) = (BitVec.ofInt 56 (s.curDom.acct.snapB / 1000)).toNat := by
    omega
  refine ⟨by omega, ?_⟩
  rw [hmod, ← BitVec.toInt_eq_toNat_bmod, BitVec.toInt_ofInt]

theorem sregValue_trapq : (sregValue s 0x070#12).toNat = min s.curCore.trapq.length 16 := by
  show (BitVec.ofNat 64 s.curCore.trapqCount).toNat = _
  rw [Core.trapqCount, BitVec.toNat_ofNat]
  omega

end

/-! ### MFS and CSTAT (R71, R103, R217) -/

/-- An operation of the thread is in flight exactly when the engine lists one of its slot and start (R71). -/
theorem vectorInFlight_eq_false {s : State} :
    vectorInFlight s = false ↔ ∀ o ∈ s.curCore.vec.ops, ¬(o.slot = s.iss.slot ∧ o.gen = s.cur.gen) := by
  simp [vectorInFlight]

/-- MFS of a register that neither needs a level nor waits writes the register's value. -/
theorem exec_mfs_reads {s : State} {i : BitVec 12} (d : BitVec 6) (hlvl : i = 0x070#12 → s.cur.lvl ≠ 0#2)
    (hwait : i = 0x010#12 → vectorInFlight s = false) : exec (.mfs d i) s = .next (s.wx d (sregValue s i)) := by
  rw [exec_mfs, execMfs, if_neg fun h => hlvl h.1 h.2, if_neg fun h => by simp [hwait h.1] at h]

/-- The registers but TRAPQ, which needs a level, and FPCR, which waits. -/
theorem writesX_mfs_plain {s : State} {d : BitVec 6} {i : BitVec 12} {P : Word → Prop} (hv : P (sregValue s i))
    (hi : i ≠ 0x070#12 ∧ i ≠ 0x010#12 := by decide) : WritesX (.mfs d i) s d P :=
  WritesX.of_wx (exec_mfs_reads d (fun h => absurd h hi.1) fun h => absurd h hi.2) hv

theorem mfsReads : Says.MfsReads := by
  intro s d hcore hslot hdom hasn hlaunch hcyc
  refine ⟨writesX_mfs_plain (sregValue_tid hcore hslot), writesX_mfs_plain (sregValue_core hcore),
    writesX_mfs_plain (sregValue_part hdom), writesX_mfs_plain (sregValue_launch hasn hlaunch),
    writesX_mfs_plain (sregValue_cycle hcyc),
    writesX_mfs_plain (BitVec.toNat_setWidth_of_le (b := s.cur.lvl) (by decide)), writesX_mfs_plain rfl,
    writesX_mfs_plain rfl, writesX_mfs_plain rfl, writesX_mfs_plain rfl, writesX_mfs_plain rfl,
    fun hallot hqregs => writesX_mfs_plain (sregValue_qallot hallot hqregs),
    writesX_mfs_plain (BitVec.toNat_setWidth_of_le (b := s.curCore.cube.cfg) (by decide)),
    fun hdeque => writesX_mfs_plain (sregValue_dqspill hdeque), writesX_mfs_plain rfl,
    writesX_mfs_plain sregValue_drains, fun hlines => writesX_mfs_plain (sregValue_dirty hlines),
    fun hstage => writesX_mfs_plain (sregValue_enacc hstage), fun hlvl => ?_, fun free => ?_, fun busy => ?_⟩
  · have hlvl0 : s.cur.lvl ≠ 0#2 := fun h => by simp [h] at hlvl
    exact WritesX.of_wx (exec_mfs_reads d (fun _ => hlvl0) fun h => absurd h (by decide)) sregValue_trapq
  · have hwait : vectorInFlight s = false := vectorInFlight_eq_false.2 free
    constructor
    · exact WritesX.of_wx (exec_mfs_reads d (fun h => absurd h (by decide)) fun _ => hwait)
        (BitVec.toNat_setWidth_of_le (b := s.cur.fpcr) (by decide))
    · refine WritesX.of_wx ?_ (BitVec.toNat_setWidth_of_le (b := s.cur.fpsr) (by decide))
      rw [exec_mfsFpsr, execMfsFpsr, hwait]
      rfl
  · have hwait : vectorInFlight s = true := by
      simpa using mt vectorInFlight_eq_false.1 busy
    refine ⟨LosesTurn.of_loseTurn ?_, LosesTurn.of_loseTurn ?_, LosesTurn.of_loseTurn ?_⟩
    · rw [exec_mfs, execMfs, if_neg (fun h => absurd h.1 (by decide)), if_pos ⟨rfl, hwait⟩]
    · rw [exec_mfsFpsr, execMfsFpsr, if_pos hwait]
    · rw [exec_mtsFpsr, execMtsFpsr, if_pos hwait]

/-- The bits from the width of the lower part on come from the upper part. -/
theorem extract_of_upper {m n i len : Nat} {x : BitVec m} {y : BitVec n} {f : BitVec len}
    (hx : x.extractLsb' (i - n) len = f) (h : n ≤ i := by decide) : (x ++ y).extractLsb' i len = f :=
  (BitVec.extractLsb'_append_eq_of_le h).trans hx

/-- CUBEST field by field (R217). -/
theorem cubestWord_fields (c : Nat) (k : Core) (hqueue : k.cube.queue.length ≤ 2) :
    let v := cubestWord c k
    v.extractLsb' 0 16 = k.cube.done ∧ v.extractLsb' 16 16 = k.seq ∧ (v.extractLsb' 32 2).toNat = k.cube.queue.length ∧
      v.getLsbD 34 = k.cube.owner.isSome ∧
      v.extractLsb' 35 17 = k.cube.owner.elim 0#17 (fun sl => tidOf c (sl % 16)) ∧ v.extractLsb' 52 4 = k.cube.sticky ∧
      v.extractLsb' 56 8 = 0#8 := by
  have hlen : (cubestWord c k).extractLsb' 32 2 = BitVec.ofNat 2 k.cube.queue.length :=
    extract_of_upper <| extract_of_upper BitVec.extractLsb'_append_eq_right
  have hset : (cubestWord c k).extractLsb' 34 1 = BitVec.ofBool k.cube.owner.isSome :=
    extract_of_upper <| extract_of_upper <| extract_of_upper BitVec.extractLsb'_append_eq_right
  refine ⟨BitVec.extractLsb'_append_eq_right, extract_of_upper BitVec.extractLsb'_append_eq_right, ?_, ?_, ?_, ?_,
    ?_⟩
  · rw [hlen, BitVec.toNat_ofNat]
    omega
  · have hbit : (cubestWord c k).getLsbD 34 = ((cubestWord c k).extractLsb' 34 1).getLsbD 0 := by
      rw [BitVec.getLsbD_extractLsb']
      rfl
    rw [hbit, hset]
    simp
  · refine (extract_of_upper <| extract_of_upper <| extract_of_upper <| extract_of_upper
      BitVec.extractLsb'_append_eq_right).trans ?_
    cases k.cube.owner <;> rfl
  · exact extract_of_upper <| extract_of_upper <| extract_of_upper <| extract_of_upper <| extract_of_upper
      BitVec.extractLsb'_append_eq_right
  · exact extract_of_upper <| extract_of_upper <| extract_of_upper <| extract_of_upper <| extract_of_upper
      BitVec.extractLsb'_append_eq_left

theorem cubestFields : Says.CubestFields := by
  intro s d hqueue i hi
  have hexec : exec i s = .next (s.wx d (cubestWord s.iss.core s.curCore)) := by
    simp only [List.mem_cons, List.not_mem_nil, or_false] at hi
    obtain rfl | rfl := hi
    · exact exec_mfs_reads d (fun h => absurd h (by decide)) fun h => absurd h (by decide)
    · rfl
  obtain ⟨hdone, hseq, hlen, hset, howner, hsticky, hzero⟩ := cubestWord_fields s.iss.core s.curCore hqueue
  refine WritesX.of_wx hexec ⟨hdone, hseq, hlen, ?_, ?_, ?_, hsticky, hzero⟩
  · rw [hset, Option.isSome_iff_ne_none]
  · intro h; rw [howner, h]; rfl
  · intro sl h; rw [howner, h]; rfl

/-! ### MTS (R6, R65, R71, R85, R100, R103) -/

/-- What an MTS to register `sr` does that leaves the thread as `t`: at once, or in a pair after the V half. -/
theorem mts_sets {i : Instr} {s : State} {sr : Nat} {v : Word} {t : Thread} (h : exec i s = .next (s.mts sr v))
    (ht : s.cur.setSreg sr v = t) :
    (s.iss.pair = true → exec i s = .next { s with iss := { s.iss with mts := some (sr, v) } }) ∧
    (s.iss.pair = false → exec i s = .next (s.setThread s.iss.core s.iss.slot t)) ∧
    ∀ u : State, u.iss.mts = some (sr, v) → u.cur = s.cur → u.applyMts = u.setThread u.iss.core u.iss.slot t := by
  refine ⟨fun hp => ?_, fun hp => ?_, fun u hu hcur => ?_⟩
  · rw [h, State.mts, if_pos hp]
  · rw [h, State.mts, if_neg (by simp [hp]), State.modCur_eq, ht]
  · rw [State.applyMts, hu, ← ht, ← hcur]
    rfl

theorem and_mask_eq {n : Nat} (hn : n ≤ 64) (v : Word) :
    v &&& BitVec.ofNat 64 (2 ^ n - 1) = BitVec.ofNat 64 (v.toNat % 2 ^ n) := by
  have hpow : 2 ^ n ≤ 2 ^ 64 := Nat.pow_le_pow_right (by decide) hn
  have hpos : 0 < 2 ^ n := Nat.two_pow_pos n
  apply BitVec.eq_of_toNat_eq
  rw [BitVec.toNat_and, toNat_ofNat_of_lt (by omega), Nat.and_two_pow_sub_one_eq_mod,
    toNat_ofNat_of_lt ((Nat.mod_lt _ hpos).trans_le hpow)]

theorem mtsWrites : Says.MtsWrites := by
  intro s a
  have hlvl : ((s.rx a).setWidth 2).toNat = (s.rx a).toNat % 4 := BitVec.toNat_setWidth 2 _
  have hzero : (s.rx a).setWidth 2 = 0#2 ↔ (s.rx a).toNat % 4 = 0 := by
    rw [← hlvl]
    exact BitVec.toNat_inj.symm
  have hrm : ((s.rx a).setWidth 3).toNat = (s.rx a).toNat % 8 := BitVec.toNat_setWidth 3 _
  refine ⟨mts_sets rfl rfl, mts_sets rfl ?_, mts_sets rfl ?_, mts_sets rfl rfl, mts_sets rfl rfl, fun hle hsup => ?_,
    fun hpriv => ?_, fun hbad => ?_, fun hgood quiet => ?_, fun hgood busy => ?_, fun quiet => ?_⟩
  · rw [← and_mask_eq (n := 32) (by decide)]; rfl
  · rw [← and_mask_eq (n := 48) (by decide)]; rfl
  · refine mts_sets ?_ ?_
    · rw [exec_mtsPriv, execMtsPriv, if_neg]
      rw [hlvl, hzero]
      omega
    · rw [BitVec.ofNat_toNat]; rfl
  · refine TrapsWith.of_takeTrap ?_
    rw [exec_mtsPriv, execMtsPriv, if_pos]
    · rfl
    · rwa [hlvl, hzero]
  · refine TrapsWith.of_takeTrap ?_
    rw [exec_mtsFpcr, execMtsFpcr, if_pos (hrm ▸ hbad)]
    rfl
  · refine mts_sets ?_ ?_
    · rw [exec_mtsFpcr, execMtsFpcr, if_neg (by omega), vectorInFlight_eq_false.2 quiet]
      rfl
    · rw [BitVec.ofNat_toNat]; rfl
  · refine LosesTurn.of_loseTurn ?_
    rw [exec_mtsFpcr, execMtsFpcr, if_neg (by omega), if_pos (by simpa using mt vectorInFlight_eq_false.1 busy)]
  · refine mts_sets ?_ ?_
    · rw [exec_mtsFpsr, execMtsFpsr, vectorInFlight_eq_false.2 quiet]
      rfl
    · rw [BitVec.ofNat_toNat]; rfl

/-- Settles O9: MFS and CSTAT by the value of each register, MTS by the one update that its forms share. -/
theorem specialRegisters : Obligations.SpecialRegisters := ⟨mfsReads, cubestFields, mtsWrites⟩

end Sys2Proof.Machine
end

section
/-! PROOFS. Rounding to a floating format (R55, R56, R67, R68, R72): the codes in the order of their magnitudes, and the neighbour
to which a mode takes a magnitude that lies between two of them. -/
namespace Sys2Proof.Machine

/-! ### The codes of a floating format in the order of their magnitudes (R55, R56) -/

/-- The magnitude of code `k`, its sign left out, in a format of `fb` fraction bits, in units of the smallest subnormal. -/
def codeUnits (fb k : Nat) : Nat :=
  if k < 2 ^ fb then k else (2 ^ fb + k % 2 ^ fb) * 2 ^ (k / 2 ^ fb - 1)

/-- A significand `q` at the spacing of binade `E`, the first binade above it included. -/
theorem codeUnits_binade {fb E q : Nat} (hq : q ≤ 2 ^ (fb + 1)) (hE : E = 0 ∨ 2 ^ fb ≤ q) :
    codeUnits fb (E * 2 ^ fb + q) = q * 2 ^ E := by
  have hpos : 0 < 2 ^ fb := Nat.two_pow_pos fb
  rw [Nat.pow_succ] at hq
  have normal {E r : Nat} (hr : r < 2 ^ fb) : codeUnits fb (2 ^ fb * (E + 1) + r) = (2 ^ fb + r) * 2 ^ E := by
    have hle : ¬2 ^ fb * (E + 1) + r < 2 ^ fb := by rw [Nat.mul_succ]; omega
    rw [codeUnits, if_neg hle, Nat.mul_add_mod, Nat.mod_eq_of_lt hr, Nat.mul_add_div hpos, Nat.div_eq_of_lt hr]
    rfl
  obtain hlt | hle := Nat.lt_or_ge q (2 ^ fb)
  · obtain rfl : E = 0 := by omega
    simp [codeUnits, hlt]
  · obtain rfl | hlt := Nat.eq_or_lt_of_le hq
    · have h := normal (E := E + 1) hpos
      rw [show 2 ^ fb * (E + 1 + 1) + 0 = E * 2 ^ fb + 2 ^ fb * 2 by ring] at h
      rw [h]
      ring
    · have h := normal (E := E) (r := q - 2 ^ fb) (by omega)
      rw [show 2 ^ fb * (E + 1) + (q - 2 ^ fb) = E * 2 ^ fb + q by rw [Nat.mul_succ, Nat.mul_comm]; omega] at h
      rw [h, Nat.add_sub_cancel' hle]

/-- Every code is a significand at the spacing of its binade. -/
theorem exists_binade (fb k : Nat) : ∃ E q, k = E * 2 ^ fb + q ∧ q < 2 ^ (fb + 1) ∧ (E = 0 ∨ 2 ^ fb ≤ q) := by
  obtain hlt | hle := Nat.lt_or_ge k (2 ^ fb)
  · exact ⟨0, k, by simp, hlt.trans (Nat.pow_lt_pow_right (by decide) (Nat.lt_succ_self fb)), .inl rfl⟩
  · refine ⟨k / 2 ^ fb - 1, 2 ^ fb + k % 2 ^ fb, ?_, ?_, .inr (Nat.le_add_right _ _)⟩
    · obtain ⟨E, hE⟩ := Nat.exists_eq_add_of_le' (Nat.div_pos hle (Nat.two_pow_pos fb))
      have hdiv := Nat.div_add_mod k (2 ^ fb)
      rw [hE, Nat.mul_add] at hdiv
      rw [hE, Nat.add_sub_cancel, Nat.mul_comm]
      omega
    · have hmod := Nat.mod_lt k (Nat.two_pow_pos fb)
      rw [Nat.pow_succ]
      omega

/-- A code and the next one are neighbours at one spacing. -/
theorem codeUnits_succ (fb k : Nat) : ∃ E q, codeUnits fb k = q * 2 ^ E ∧ codeUnits fb (k + 1) = (q + 1) * 2 ^ E ∧ (k ≠ 0 → q ≠ 0) := by
  obtain ⟨E, q, rfl, hq, hE⟩ := exists_binade fb k
  refine ⟨E, q, codeUnits_binade hq.le hE, ?_, ?_⟩
  · exact codeUnits_binade (q := q + 1) hq (hE.imp_right fun h => h.trans (Nat.le_succ q))
  · rintro h rfl
    have hpos : 0 < 2 ^ fb := Nat.two_pow_pos fb
    obtain rfl | hle := hE
    · simp at h
    · omega

theorem codeUnits_strictMono (fb : Nat) : StrictMono (codeUnits fb) := by
  refine strictMono_nat_of_lt_succ fun k => ?_
  obtain ⟨E, q, hk, hk', -⟩ := codeUnits_succ fb k
  rw [hk, hk']
  exact Nat.mul_lt_mul_of_pos_right (Nat.lt_succ_self q) (Nat.two_pow_pos E)

theorem codeUnits_succ_le_two_mul {fb k : Nat} (hk : k ≠ 0) : codeUnits fb (k + 1) ≤ 2 * codeUnits fb k := by
  obtain ⟨E, q, h, h', hq⟩ := codeUnits_succ fb k
  rw [h, h', ← Nat.mul_assoc]
  have := hq hk
  exact Nat.mul_le_mul_right _ (by omega)

/-- The magnitude of code `k`. -/
def codeMag (fb bias k : Nat) : ℚ := codeUnits fb k * (2 : ℚ) ^ (1 - (bias : Int) - (fb : Int))

section
variable {fb bias : Nat}

theorem codeMag_strictMono : StrictMono (codeMag fb bias) := by
  intro j k h
  have hu : ((codeUnits fb j : Nat) : ℚ) < codeUnits fb k := Nat.cast_lt.2 (codeUnits_strictMono fb h)
  exact mul_lt_mul_of_pos_right hu (by positivity)

theorem codeMag_nonneg (k : Nat) : 0 ≤ codeMag fb bias k := by
  unfold codeMag
  positivity

theorem codeMag_zero : codeMag fb bias 0 = 0 := by
  simp [codeMag, codeUnits]

theorem codeMag_succ_le_two_mul {k : Nat} (hk : k ≠ 0) : codeMag fb bias (k + 1) ≤ 2 * codeMag fb bias k := by
  have hu : ((codeUnits fb (k + 1) : Nat) : ℚ) ≤ 2 * codeUnits fb k := by
    exact_mod_cast codeUnits_succ_le_two_mul (fb := fb) hk
  unfold codeMag
  rw [← mul_assoc]
  exact mul_le_mul_of_nonneg_right hu (by positivity)

theorem codeMag_binade {E q : Nat} (hq : q ≤ 2 ^ (fb + 1)) (hE : E = 0 ∨ 2 ^ fb ≤ q) {u : Int}
    (hu : u = E + (1 - (bias : Int) - (fb : Int))) : codeMag fb bias (E * 2 ^ fb + q) = q * (2 : ℚ) ^ u := by
  rw [codeMag, codeUnits_binade hq hE, hu, zpow_add₀ two_ne_zero]
  push_cast
  rw [zpow_natCast]
  ring

end

/-! ### The values of the codes (R56) -/

/-- The magnitude of a finite value. -/
def Dy.mag (v : Dy) : ℚ := v.m * (2 : ℚ) ^ v.e

theorem Dy.mag_nonneg (v : Dy) : 0 ≤ v.mag := by
  unfold Dy.mag
  positivity

theorem Dy.mag_pos_iff {v : Dy} : 0 < v.mag ↔ v.m ≠ 0 := by
  rw [Dy.mag, mul_pos_iff_of_pos_right (by positivity), Nat.cast_pos, Nat.pos_iff_ne_zero]

theorem ratOf_eq (v : Dy) : ratOf v = (if v.neg then -1 else 1) * v.mag := mul_assoc _ _ _

theorem ratOf_of_neg {v : Dy} (h : v.neg = true) : ratOf v = -v.mag := by simp [ratOf_eq, h]

theorem ratOf_of_not_neg {v : Dy} (h : v.neg = false) : ratOf v = v.mag := by simp [ratOf_eq, h]

theorem abs_ratOf (v : Dy) : |ratOf v| = v.mag := by
  cases h : v.neg
  · rw [ratOf_of_not_neg h, abs_of_nonneg v.mag_nonneg]
  · rw [ratOf_of_neg h, abs_neg, abs_of_nonneg v.mag_nonneg]

/-- `f` is a floating format of `eb` exponent bits, `fb` fraction bits and a bias, whose codes above the largest finite one
are the infinities and the NaNs (R55). -/
structure IsFlt (f eb fb bias : Nat) : Prop where
  params : fltParams f = some (eb, fb, bias)
  bits : fmtBits f = eb + fb + 1
  eb_pos : 0 < eb
  fb_pos : 0 < fb
  top_ne : maxCode f ≠ 0
  top_lt : maxCode f < 2 ^ (eb + fb)
  special : ∀ c < 2 ^ (eb + fb + 1),
    (f = 3 ∧ c % 128 = 127 ∨ hasInf f = true ∧ c / 2 ^ fb % 2 ^ eb = 2 ^ eb - 1) ↔ maxCode f < c % 2 ^ (eb + fb)
  inf : hasInf f = true → infCode f = (2 ^ eb - 1) * 2 ^ fb
  no_inf : hasInf f = false → f = 3 ∨ f = 5
  ne_scale : f ≠ 10
  not_int : isIntFmt f = false

theorem isFlt_fp32 : IsFlt 0 8 23 127 :=
  ⟨rfl, rfl, by decide, by decide, by decide, by decide, fun c hc => by norm_num [hasInf, maxCode]; omega, fun _ => rfl, by decide, by decide, rfl⟩

theorem isFlt_of_mem {f : Nat} (hf : f ∈ [0, 1, 2, 3, 4, 5, 11]) : ∃ eb fb bias, IsFlt f eb fb bias := by
  simp only [List.mem_cons, List.not_mem_nil, or_false] at hf
  obtain rfl | rfl | rfl | rfl | rfl | rfl | rfl := hf
  · exact ⟨8, 23, 127, isFlt_fp32⟩
  · exact ⟨5, 10, 15, rfl, rfl, by decide, by decide, by decide, by decide, fun c hc => by norm_num [hasInf, maxCode]; omega, fun _ => rfl,
      by decide, by decide, rfl⟩
  · exact ⟨8, 7, 127, rfl, rfl, by decide, by decide, by decide, by decide, fun c hc => by norm_num [hasInf, maxCode]; omega, fun _ => rfl,
      by decide, by decide, rfl⟩
  · exact ⟨4, 3, 7, rfl, rfl, by decide, by decide, by decide, by decide, fun c hc => by norm_num [hasInf, maxCode]; omega,
      fun h => absurd h (by decide), by decide, by decide, rfl⟩
  · exact ⟨5, 2, 15, rfl, rfl, by decide, by decide, by decide, by decide, fun c hc => by norm_num [hasInf, maxCode]; omega, fun _ => rfl,
      by decide, by decide, rfl⟩
  · exact ⟨2, 1, 1, rfl, rfl, by decide, by decide, by decide, by decide, fun c hc => by norm_num [hasInf, maxCode]; omega,
      fun h => absurd h (by decide), by decide, by decide, rfl⟩
  · exact ⟨8, 17, 127, rfl, rfl, by decide, by decide, by decide, by decide, fun c hc => by norm_num [hasInf, maxCode]; omega, fun _ => rfl,
      by decide, by decide, rfl⟩

section
variable {f eb fb bias : Nat} (h : IsFlt f eb fb bias)
include h

theorem IsFlt.roundTo_eq (mode : Nat) (sat : Bool) (x : FVal) (c : RC) : roundTo f mode sat x c = roundFlt f mode sat x c := by
  rw [roundTo, if_neg h.ne_scale, h.not_int]
  rfl

/-- The value of a code that is not above the largest finite one. -/
theorem IsFlt.valueOf_fin {c : Nat} (hc : c < 2 ^ (eb + fb + 1)) (htop : c % 2 ^ (eb + fb) ≤ maxCode f) :
    ∃ w, valueOf f c = .fin w ∧ w.neg = decide (2 ^ (eb + fb) ≤ c) ∧ w.more = false ∧
      w.mag = codeMag fb bias (c % 2 ^ (eb + fb)) ∧ (w.m < 2 ^ fb ↔ c % 2 ^ (eb + fb) < 2 ^ fb) := by
  have hsp := mt (h.special c hc).1 (not_lt.2 htop)
  have hpos : 0 < 2 ^ fb := Nat.two_pow_pos fb
  have hex : c / 2 ^ fb % 2 ^ eb = c % 2 ^ (eb + fb) / 2 ^ fb := by
    rw [Nat.pow_add', Nat.mod_mul_right_div_self]
  have hfr : c % 2 ^ fb = c % 2 ^ (eb + fb) % 2 ^ fb :=
    (Nat.mod_mod_of_dvd c (Nat.pow_dvd_pow 2 (Nat.le_add_left fb eb))).symm
  rw [not_or, hex] at hsp
  simp only [valueOf, h.params, h.bits, Nat.mod_eq_of_lt hc, if_neg hsp.1, if_neg hsp.2, hex, hfr]
  generalize c % 2 ^ (eb + fb) = k
  by_cases hk : k < 2 ^ fb
  · rw [if_pos (Nat.div_eq_of_lt hk), Nat.mod_eq_of_lt hk]
    refine ⟨_, rfl, rfl, rfl, ?_, Iff.rfl⟩
    rw [Dy.mag, codeMag, codeUnits, if_pos hk]
  · have hdiv : 0 < k / 2 ^ fb := Nat.div_pos (not_lt.1 hk) hpos
    rw [if_neg hdiv.ne']
    refine ⟨_, rfl, rfl, rfl, ?_, iff_of_false (not_lt.2 (Nat.le_add_right _ _)) hk⟩
    obtain ⟨E, hE⟩ := Nat.exists_eq_add_of_le' hdiv
    rw [Dy.mag, codeMag, codeUnits, if_neg hk, hE]
    rw [show ((E + 1 : Nat) : Int) - bias - fb = E + (1 - (bias : Int) - fb) by push_cast; ring, zpow_add₀ two_ne_zero]
    push_cast
    rw [zpow_natCast]
    ring

/-- A code above the largest finite one has no finite value. -/
theorem IsFlt.valueOf_special {c : Nat} (hc : c < 2 ^ (eb + fb + 1)) (htop : maxCode f < c % 2 ^ (eb + fb)) :
    valueOf f c = .nan ∨ ∃ neg, valueOf f c = .inf neg ∧ hasInf f = true ∧ c = signCode f neg + infCode f := by
  have hsp := (h.special c hc).2 htop
  simp only [valueOf, h.params, h.bits, Nat.mod_eq_of_lt hc]
  by_cases hnan : f = 3 ∧ c % 128 = 127
  · exact .inl (if_pos hnan)
  · obtain ⟨hinf, hex⟩ := hsp.resolve_left hnan
    rw [if_neg hnan, if_pos ⟨hinf, hex⟩]
    by_cases hfr : c % 2 ^ fb = 0
    · refine .inr ⟨_, if_pos hfr, hinf, ?_⟩
      rw [signCode, h.bits, h.inf hinf, ← hex]
      have h1 := Nat.div_add_mod c (2 ^ fb)
      have h2 := Nat.div_add_mod (c / 2 ^ fb) (2 ^ eb)
      have h3 : c / 2 ^ fb / 2 ^ eb = c / 2 ^ (eb + fb) := by rw [Nat.div_div_eq_div_mul, ← Nat.pow_add, Nat.add_comm]
      rw [hfr] at h1
      rw [← h2, h3] at h1
      obtain hlt | hle := Nat.lt_or_ge c (2 ^ (eb + fb))
      · rw [Nat.div_eq_of_lt hlt] at h1
        simp only [not_le.2 hlt, decide_false, Bool.false_eq_true, if_false]
        rw [Nat.zero_add, Nat.mul_comm]
        simpa using h1.symm
      · have hone : c / 2 ^ (eb + fb) = 1 :=
          Nat.div_eq_of_lt_le (by simpa using hle) (by rw [← Nat.pow_succ']; exact hc)
        rw [hone] at h1
        simp only [hle, decide_true, if_true, Nat.add_sub_cancel]
        rw [Nat.pow_add]
        linarith
    · exact .inl (if_neg hfr)

/-- The value of an infinity's code. -/
theorem IsFlt.valueOf_infCode (hinf : hasInf f = true) (neg : Bool) : valueOf f (signCode f neg + infCode f) = .inf neg := by
  have hne : f ≠ 3 := by
    rintro rfl
    simp [hasInf] at hinf
  have hpos : 0 < 2 ^ fb := Nat.two_pow_pos fb
  have heb : 0 < 2 ^ eb := Nat.two_pow_pos eb
  have hB : 2 ^ (eb + fb) = 2 ^ eb * 2 ^ fb := Nat.pow_add 2 eb fb
  obtain ⟨N, hN, hmod, hlt, hneg⟩ : ∃ N, signCode f neg + infCode f = N * 2 ^ fb ∧ N % 2 ^ eb = 2 ^ eb - 1 ∧ N < 2 ^ eb * 2 ∧
      decide (2 ^ eb ≤ N) = neg := by
    rw [signCode, h.bits, h.inf hinf, Nat.add_sub_cancel, hB]
    cases neg
    · refine ⟨2 ^ eb - 1, by simp, Nat.mod_eq_of_lt (by omega), by omega, decide_eq_false (by omega)⟩
    · refine ⟨2 ^ eb + (2 ^ eb - 1), by simp [Nat.add_mul], ?_, by omega, decide_eq_true (Nat.le_add_right _ _)⟩
      rw [Nat.add_mod_left, Nat.mod_eq_of_lt (by omega)]
  have hc : N * 2 ^ fb < 2 ^ (eb + fb + 1) := by
    rw [Nat.pow_succ, hB, Nat.mul_right_comm]
    exact Nat.mul_lt_mul_of_pos_right hlt hpos
  have hsign : decide (2 ^ (eb + fb) ≤ N * 2 ^ fb) = neg := by
    rw [← hneg, hB]
    exact decide_eq_decide.2 (Nat.mul_le_mul_right_iff hpos)
  simp only [valueOf, h.params, h.bits, hN, Nat.mod_eq_of_lt hc, Nat.mul_div_cancel _ hpos, Nat.mul_mod_left, hmod, hinf, hne,
    false_and, if_false, and_self, if_true, hsign]

/-- A finite code is not above the largest finite one. -/
theorem IsFlt.le_maxCode {c : Nat} (hc : c < 2 ^ (eb + fb + 1)) {w : Dy} (hw : valueOf f c = .fin w) :
    c % 2 ^ (eb + fb) ≤ maxCode f := by
  by_contra hgt
  obtain hnan | ⟨neg, hinf, -⟩ := h.valueOf_special hc (not_le.1 hgt)
  · simp [hw] at hnan
  · simp [hw] at hinf

/-- The sign bit above a magnitude. -/
theorem IsFlt.signCode_add {neg : Bool} {k : Nat} (hk : k < 2 ^ (eb + fb)) :
    signCode f neg + k < 2 ^ (eb + fb + 1) ∧ (signCode f neg + k) % 2 ^ (eb + fb) = k ∧
      decide (2 ^ (eb + fb) ≤ signCode f neg + k) = neg := by
  rw [signCode, h.bits, Nat.add_sub_cancel, Nat.pow_succ]
  cases neg
  · simp only [Bool.false_eq_true, if_false, Nat.zero_add, Nat.mod_eq_of_lt hk, decide_eq_false_iff_not, true_and]
    omega
  · simp only [if_true, Nat.add_mod_left, Nat.mod_eq_of_lt hk, decide_eq_true_eq, true_and]
    omega

/-- A code is its sign and its magnitude. -/
theorem IsFlt.eq_signCode_add {c : Nat} (hc : c < 2 ^ (eb + fb + 1)) :
    c = signCode f (decide (2 ^ (eb + fb) ≤ c)) + c % 2 ^ (eb + fb) := by
  rw [signCode, h.bits, Nat.add_sub_cancel]
  obtain hlt | hle := Nat.lt_or_ge c (2 ^ (eb + fb))
  · simp [not_le.2 hlt, Nat.mod_eq_of_lt hlt]
  · rw [Nat.pow_succ] at hc
    simp only [hle, decide_true, if_true]
    rw [Nat.mod_eq_sub_mod hle, Nat.mod_eq_of_lt (by omega)]
    omega

/-- The value of the finite code with a sign and a magnitude. -/
theorem IsFlt.valueOf_signCode_add {neg : Bool} {k : Nat} (hk : k ≤ maxCode f) :
    signCode f neg + k < 2 ^ fmtBits f ∧
      ∃ w, valueOf f (signCode f neg + k) = .fin w ∧ w.neg = neg ∧ w.mag = codeMag fb bias k := by
  obtain ⟨hlt, hmod, hneg⟩ := h.signCode_add (neg := neg) (hk.trans_lt h.top_lt)
  obtain ⟨w, hw, hwneg, -, hmag, -⟩ := h.valueOf_fin hlt (hmod.trans_le hk)
  exact ⟨by rwa [h.bits], w, hw, hwneg.trans hneg, by rw [hmag, hmod]⟩

/-- A finite code has the magnitude of a code. -/
theorem IsFlt.mag_of_finite {c : Nat} (hc : c < 2 ^ fmtBits f) {w : Dy} (hw : valueOf f c = .fin w) :
    ∃ k ≤ maxCode f, w.mag = codeMag fb bias k := by
  rw [h.bits] at hc
  obtain ⟨w', hw', -, -, hmag, -⟩ := h.valueOf_fin hc (h.le_maxCode hc hw)
  obtain rfl : w' = w := by simpa [hw'] using hw
  exact ⟨_, h.le_maxCode hc hw, hmag⟩

end

/-! ### Rounding between two neighbours (R67) -/

/-- A magnitude `a` strictly between the neighbours `lo` and `hi` rounds to `hi`: to the nearest, of two the even one under
mode 0 and the larger under mode 4; under mode 1 never; under modes 2 and 3 by the sign. `odd` says that `lo` is odd. -/
def RoundsUp (mode : Nat) (neg : Bool) (odd : Prop) (lo a hi : ℚ) : Prop :=
  match mode with
  | 0 => hi - a < a - lo ∨ hi - a = a - lo ∧ odd
  | 1 => False
  | 2 => neg = true
  | 3 => neg = false
  | _ => hi - a ≤ a - lo

/-- The choice of roundAt between a quotient and the next, by the remainder `r` of a division by 2^k. -/
theorem roundAt_inexact {mode : Nat} (hmode : mode < 5) {u : Int} {v : Dy} {k : Nat} (hv : v.more = false) (hu : u - v.e = k)
    (hk : k ≠ 0) (hr : v.m % 2 ^ k ≠ 0) (c : RC) {P : Prop} (hodd : P ↔ v.m / 2 ^ k % 2 = 1) {lo hi : ℚ}
    (hlt : hi - v.mag < v.mag - lo ↔ 2 ^ k < 2 * (v.m % 2 ^ k)) (heq : hi - v.mag = v.mag - lo ↔ 2 * (v.m % 2 ^ k) = 2 ^ k) :
    ∃ q, roundAt mode u v c = (q, true, c) ∧
      (q = v.m / 2 ^ k + 1 ∧ RoundsUp mode v.neg P lo v.mag hi ∨ q = v.m / 2 ^ k ∧ ¬RoundsUp mode v.neg P lo v.mag hi) := by
  have hd : ¬((k : Int) ≤ 0) := by omega
  have choose {up : Bool} (h : roundAt mode u v c = (if up then v.m / 2 ^ k + 1 else v.m / 2 ^ k, true, c))
      (hup : up = true ↔ RoundsUp mode v.neg P lo v.mag hi) : ∃ q, roundAt mode u v c = (q, true, c) ∧
      (q = v.m / 2 ^ k + 1 ∧ RoundsUp mode v.neg P lo v.mag hi ∨
        q = v.m / 2 ^ k ∧ ¬RoundsUp mode v.neg P lo v.mag hi) := by
    refine ⟨_, h, ?_⟩
    cases up
    · exact .inr ⟨rfl, fun hn => absurd (hup.2 hn) (by decide)⟩
    · exact .inl ⟨rfl, hup.1 rfl⟩
  have hle : hi - v.mag ≤ v.mag - lo ↔ 2 ^ k ≤ 2 * (v.m % 2 ^ k) := by
    rw [le_iff_lt_or_eq, hlt, heq]
    omega
  unfold roundAt at choose ⊢
  simp only [hu, hd, hv, hr, if_false, Int.toNat_natCast, decide_false, Bool.not_false, Bool.and_true,
    Bool.and_false, Bool.or_false, Bool.false_eq_true] at choose ⊢
  match mode, hmode with
  | 0, _ => exact choose rfl (by simp [RoundsUp, hlt, heq, hodd])
  | 1, _ => exact choose (up := false) rfl (by simp [RoundsUp])
  | 2, _ => exact choose rfl (by simp [RoundsUp])
  | 3, _ => exact choose (up := !v.neg) (by cases v.neg <;> rfl) (by simp [RoundsUp])
  | 4, _ => exact choose rfl (by simp only [RoundsUp, hle, Bool.or_eq_true, decide_eq_true_eq, beq_iff_eq]; omega)

/-- Rounding at spacing 2^u: the magnitude is a multiple of it, or lies between two and goes to one of them. -/
theorem roundAt_spec (mode : Nat) (u : Int) {v : Dy} (hv : v.more = false) (c : RC) : ∃ q : Nat,
    v.mag = q * (2 : ℚ) ^ u ∧ roundAt mode u v c = (q, false, c) ∨
    q * (2 : ℚ) ^ u < v.mag ∧ v.mag < ((q + 1 : Nat) : ℚ) * (2 : ℚ) ^ u ∧ (mode < 5 → ∃ q', roundAt mode u v c = (q', true, c) ∧
      (q' = q + 1 ∧ RoundsUp mode v.neg (q % 2 = 1) (q * (2 : ℚ) ^ u) v.mag (((q + 1 : Nat) : ℚ) * (2 : ℚ) ^ u) ∨
        q' = q ∧ ¬RoundsUp mode v.neg (q % 2 = 1) (q * (2 : ℚ) ^ u) v.mag (((q + 1 : Nat) : ℚ) * (2 : ℚ) ^ u))) := by
  by_cases hd : u - v.e ≤ 0
  · refine ⟨v.m * 2 ^ (-(u - v.e)).toNat, .inl ⟨?_, by simp [roundAt, hd, hv]⟩⟩
    obtain ⟨j, hj⟩ := Int.eq_ofNat_of_zero_le (show 0 ≤ -(u - v.e) by omega)
    rw [Dy.mag, hj, Int.toNat_natCast, show v.e = j + u by omega, zpow_add₀ two_ne_zero, zpow_natCast]
    push_cast
    ring
  · obtain ⟨k, hk⟩ := Int.eq_ofNat_of_zero_le (show 0 ≤ u - v.e by omega)
    have ht : (0 : ℚ) < (2 : ℚ) ^ v.e := by positivity
    have hu : (2 : ℚ) ^ u = (2 : ℚ) ^ v.e * 2 ^ k := by
      rw [show u = v.e + k by omega, zpow_add₀ two_ne_zero, zpow_natCast]
    have hdiv := Nat.div_add_mod v.m (2 ^ k)
    have hmod := Nat.mod_lt v.m (Nat.two_pow_pos k)
    have hm : (v.m : ℚ) = 2 ^ k * (v.m / 2 ^ k : Nat) + (v.m % 2 ^ k : Nat) := by exact_mod_cast hdiv.symm
    have hlo : v.mag - (v.m / 2 ^ k : Nat) * (2 : ℚ) ^ u = (v.m % 2 ^ k : Nat) * (2 : ℚ) ^ v.e := by
      rw [Dy.mag, hm, hu]
      ring
    have hhi : ((v.m / 2 ^ k + 1 : Nat) : ℚ) * (2 : ℚ) ^ u - v.mag = (2 ^ k - (v.m % 2 ^ k : Nat)) * (2 : ℚ) ^ v.e := by
      rw [Dy.mag, hm, hu]
      push_cast
      ring
    have hmod' : ((v.m % 2 ^ k : Nat) : ℚ) < 2 ^ k := by exact_mod_cast hmod
    refine ⟨v.m / 2 ^ k, ?_⟩
    by_cases hr : v.m % 2 ^ k = 0
    · refine .inl ⟨?_, by simp [roundAt, hk, show k ≠ 0 by omega, hv, hr]⟩
      rw [hr, Nat.cast_zero, zero_mul] at hlo
      exact sub_eq_zero.1 hlo
    · have hr' : (0 : ℚ) < (v.m % 2 ^ k : Nat) := by exact_mod_cast Nat.pos_of_ne_zero hr
      refine .inr ⟨sub_pos.1 (hlo ▸ mul_pos hr' ht), sub_pos.1 (hhi ▸ mul_pos (sub_pos.2 hmod') ht), fun hmode => ?_⟩
      refine roundAt_inexact hmode hv hk (by omega) hr c Iff.rfl ?_ ?_
      · rw [hlo, hhi, mul_lt_mul_iff_left₀ ht, sub_lt_iff_lt_add, ← two_mul]
        exact_mod_cast Iff.rfl
      · rw [hlo, hhi, mul_left_inj' ht.ne', sub_eq_iff_eq_add, ← two_mul, eq_comm]
        exact_mod_cast Iff.rfl

theorem Dy.log2_le_mag {v : Dy} (h : v.m ≠ 0) : (2 : ℚ) ^ v.log2 ≤ v.mag := by
  rw [Dy.log2, zpow_add₀ two_ne_zero, zpow_natCast]
  exact mul_le_mul_of_nonneg_right (by exact_mod_cast Nat.log2_self_le h) (by positivity)

theorem Dy.mag_lt_log2 (v : Dy) : v.mag < (2 : ℚ) ^ (v.log2 + 1) := by
  rw [Dy.log2, show (Nat.log2 v.m : Int) + v.e + 1 = (Nat.log2 v.m + 1 : Nat) + v.e by push_cast; ring, zpow_add₀ two_ne_zero,
    zpow_natCast]
  exact mul_lt_mul_of_pos_right (by exact_mod_cast Nat.lt_log2_self) (by positivity)

section
variable {f eb fb bias : Nat} (h : IsFlt f eb fb bias)
include h

/-- What roundFlt makes of a significand `q` at the spacing of binade `E`: code E × 2^fb + q, or an overflow. -/
theorem IsFlt.roundFlt_of_roundAt {mode : Nat} (sat : Bool) {v : Dy} (h0 : v.m ≠ 0) {c c' : RC} {E q : Nat} {ix : Bool}
    (he : max v.log2 (1 - (bias : Int)) = E + (1 - (bias : Int)))
    (hr : roundAt mode (E + (1 - (bias : Int)) - fb) v c = (q, ix, c')) (hq : q ≤ 2 ^ (fb + 1)) (hE : E = 0 ∨ 2 ^ fb ≤ q) :
    (E * 2 ^ fb + q ≤ maxCode f → ∃ fl, roundFlt f mode sat (.fin v) c = (signCode f v.neg + (E * 2 ^ fb + q), ⟨fl, c'.rseq⟩) ∧
      (ix = false → fl = c'.flags) ∧ (ix = true → fl.getLsbD 4 = true)) ∧
    (maxCode f < E * 2 ^ fb + q →
      roundFlt f mode sat (.fin v) c = (overflowCode f v.neg mode sat, c'.or (fOF ||| fIX))) := by
  have hpos : 0 < 2 ^ fb := Nat.two_pow_pos fb
  have htwo : 2 ^ (fb + 1) = 2 ^ fb * 2 := pow_succ 2 fb
  have hIX (x y : BitVec 5) : (x ||| fIX).getLsbD 4 = true ∧ (x ||| fIX ||| y).getLsbD 4 = true := by
    constructor <;> simp [fIX]
  have hOF : (if ix then c'.or fIX else c').or (fOF ||| fIX) = c'.or (fOF ||| fIX) := by
    cases ix
    · rfl
    · simp only [if_true, RC.or, RC.mk.injEq, and_true]
      generalize c'.flags = x
      revert x
      decide
  -- significand and exponent once a carry has moved to the next binade
  have finish (q' E' : Nat) (hcarry : (if 2 ^ (fb + 1) ≤ q then (q / 2, (E : Int) + (1 - bias) + 1) else (q, (E : Int) + (1 - bias))) =
        (q', (E' : Int) + (1 - bias)))
      (hcode : (if q' < 2 ^ fb then q' else ((E' : Int) + (1 - bias) + bias).toNat * 2 ^ fb + (q' - 2 ^ fb)) = E * 2 ^ fb + q)
      (hexp : 2 ^ eb ≤ ((E' : Int) + (1 - bias) + bias).toNat → maxCode f < E * 2 ^ fb + q) :
      (E * 2 ^ fb + q ≤ maxCode f → ∃ fl, roundFlt f mode sat (.fin v) c = (signCode f v.neg + (E * 2 ^ fb + q), ⟨fl, c'.rseq⟩) ∧
        (ix = false → fl = c'.flags) ∧ (ix = true → fl.getLsbD 4 = true)) ∧
      (maxCode f < E * 2 ^ fb + q →
        roundFlt f mode sat (.fin v) c = (overflowCode f v.neg mode sat, c'.or (fOF ||| fIX))) := by
    simp only [roundFlt, h.params, h0, if_false, he, hr, hcarry, hcode, hOF]
    refine ⟨fun hle => ?_, fun hgt => if_pos (.inl hgt)⟩
    rw [if_neg (not_or.2 ⟨not_lt.2 hle, mt hexp (not_lt.2 hle)⟩)]
    cases ix
    · exact ⟨_, rfl, fun _ => rfl, fun hn => absurd hn (by decide)⟩
    · by_cases hsub : q' < 2 ^ fb
      · simp only [hsub, decide_true, Bool.and_true, if_true, RC.or]
        exact ⟨_, rfl, fun hn => absurd hn (by decide), fun _ => (hIX _ _).2⟩
      · simp only [hsub, decide_false, Bool.and_false, Bool.false_eq_true, if_false, if_true, RC.or]
        exact ⟨_, rfl, fun hn => absurd hn (by decide), fun _ => (hIX _ 0#5).1⟩
  have hexp (E' : Nat) : ((E' : Int) + (1 - bias) + bias).toNat = E' + 1 := by omega
  have hbig {E' : Nat} (hle : 2 ^ eb ≤ E' + 1) (hk : (E' + 1) * 2 ^ fb ≤ E * 2 ^ fb + q) : maxCode f < E * 2 ^ fb + q := by
    refine (h.top_lt.trans_le ?_).trans_le hk
    rw [Nat.pow_add]
    exact Nat.mul_le_mul_right _ hle
  by_cases hcarry : 2 ^ (fb + 1) ≤ q
  · obtain rfl : q = 2 ^ (fb + 1) := hq.antisymm hcarry
    refine finish (2 ^ fb) (E + 1) ?_ ?_ ?_
    · rw [if_pos hcarry, htwo, Nat.mul_div_cancel _ (by decide)]
      push_cast
      ring_nf
    · rw [if_neg (lt_irrefl _), hexp, htwo, Nat.sub_self]
      ring
    · rw [hexp]
      exact fun hle => hbig hle (by rw [htwo]; linarith)
  · refine finish q E (if_neg hcarry) ?_ ?_
    · by_cases hsub : q < 2 ^ fb
      · obtain rfl : E = 0 := hE.resolve_right (not_le.2 hsub)
        rw [if_pos hsub, Nat.zero_mul, Nat.zero_add]
      · rw [if_neg hsub, hexp, Nat.succ_mul]
        omega
    · rw [hexp]
      intro hle
      obtain rfl | hqle := hE
      · have := Nat.one_lt_two_pow h.eb_pos.ne'
        omega
      · exact hbig hle (by rw [Nat.succ_mul]; omega)

end

section
variable {f eb fb bias : Nat} (h : IsFlt f eb fb bias)
include h

/-- Rounding a finite value: its magnitude is that of a code `k`, which it becomes in every mode, or lies between `k` and the
next code and goes to one of them with IX; above the largest finite code it overflows (R67, R68). -/
theorem IsFlt.roundFlt_fin (mode : Nat) (sat : Bool) {v : Dy} (hv : v.more = false) (h0 : v.m ≠ 0) (c : RC) : ∃ k,
    v.mag = codeMag fb bias k ∧
      (k ≤ maxCode f → roundFlt f mode sat (.fin v) c = (signCode f v.neg + k, c)) ∧
      (maxCode f < k → roundFlt f mode sat (.fin v) c = (overflowCode f v.neg mode sat, c.or (fOF ||| fIX))) ∨
    codeMag fb bias k < v.mag ∧ v.mag < codeMag fb bias (k + 1) ∧ (mode < 5 → ∃ k',
      (k' = k + 1 ∧ RoundsUp mode v.neg (k % 2 = 1) (codeMag fb bias k) v.mag (codeMag fb bias (k + 1)) ∨
        k' = k ∧ ¬RoundsUp mode v.neg (k % 2 = 1) (codeMag fb bias k) v.mag (codeMag fb bias (k + 1))) ∧
      (k' ≤ maxCode f → ∃ fl, roundFlt f mode sat (.fin v) c = (signCode f v.neg + k', ⟨fl, c.rseq⟩) ∧ fl.getLsbD 4 = true) ∧
      (maxCode f < k' → roundFlt f mode sat (.fin v) c = (overflowCode f v.neg mode sat, c.or (fOF ||| fIX)))) := by
  obtain ⟨E, hE⟩ := Int.eq_ofNat_of_zero_le (sub_nonneg.2 (le_max_right v.log2 (1 - (bias : Int))))
  have he : max v.log2 (1 - (bias : Int)) = E + (1 - (bias : Int)) := by rw [← hE]; ring
  have hlog : v.log2 ≤ E + (1 - (bias : Int)) := he ▸ le_max_left _ _
  obtain ⟨q, hq⟩ := roundAt_spec mode (E + (1 - (bias : Int)) - fb) hv c
  have hu : (E : Int) + (1 - bias) - fb = E + (1 - (bias : Int) - fb) := by ring
  have hupos : (0 : ℚ) < (2 : ℚ) ^ ((E : Int) + (1 - bias) - fb) := by positivity
  have hpow : (2 : ℚ) ^ ((E : Int) + (1 - bias)) = 2 ^ fb * (2 : ℚ) ^ ((E : Int) + (1 - bias) - fb) := by
    rw [← zpow_natCast, ← zpow_add₀ two_ne_zero]
    ring_nf
  -- the quotient has at most fb + 1 bits, and fewer only at the lowest binade
  have hlo : q * (2 : ℚ) ^ ((E : Int) + (1 - bias) - fb) ≤ v.mag := by
    obtain ⟨heq, -⟩ | ⟨hlt, -⟩ := hq
    · exact heq.ge
    · exact hlt.le
  have hhi : v.mag < ((q + 1 : Nat) : ℚ) * (2 : ℚ) ^ ((E : Int) + (1 - bias) - fb) := by
    obtain ⟨heq, -⟩ | ⟨-, hlt, -⟩ := hq
    · rw [heq]
      exact mul_lt_mul_of_pos_right (by exact_mod_cast Nat.lt_succ_self q) hupos
    · exact hlt
  have hqlt : q < 2 ^ (fb + 1) := by
    have hmag : v.mag < (2 : ℚ) ^ ((E : Int) + (1 - bias) + 1) :=
      v.mag_lt_log2.trans_le (zpow_le_zpow_right₀ one_le_two (by omega))
    rw [zpow_add₀ two_ne_zero, hpow, zpow_one] at hmag
    have : (q : ℚ) < 2 ^ fb * 2 := by
      refine lt_of_mul_lt_mul_right ?_ hupos.le
      linarith
    rw [pow_succ]
    exact_mod_cast this
  have hqge : E = 0 ∨ 2 ^ fb ≤ q := by
    refine or_iff_not_imp_left.2 fun hne => Nat.le_of_lt_succ ?_
    have heq : v.log2 = E + (1 - (bias : Int)) := by omega
    have hmag := (Dy.log2_le_mag h0).trans_lt hhi
    rw [heq, hpow, mul_lt_mul_iff_left₀ hupos] at hmag
    exact_mod_cast hmag
  have hodd : (E * 2 ^ fb + q) % 2 = q % 2 := by
    obtain ⟨j, hj⟩ := Nat.exists_eq_add_of_le' h.fb_pos
    rw [hj, pow_succ, ← Nat.mul_assoc, Nat.mul_add_mod_self_right]
  have hmag := codeMag_binade (bias := bias) hqlt.le hqge hu
  have hmag' := codeMag_binade (bias := bias) (q := q + 1) hqlt (hqge.imp_right fun hle => hle.trans (Nat.le_succ q)) hu
  refine ⟨E * 2 ^ fb + q, ?_⟩
  rw [Nat.add_assoc, hmag, hmag', hodd]
  obtain ⟨heq, hr⟩ | ⟨hlt, hlt', hr⟩ := hq
  · obtain ⟨hfin, hover⟩ := h.roundFlt_of_roundAt sat h0 he hr hqlt.le hqge
    refine .inl ⟨heq, fun hle => ?_, hover⟩
    obtain ⟨fl, hround, hfl, -⟩ := hfin hle
    rw [hround, hfl rfl]
  · refine .inr ⟨hlt, hlt', fun hmode => ?_⟩
    obtain ⟨q', hr', hchoice⟩ := hr hmode
    have hq' : q' ≤ 2 ^ (fb + 1) ∧ (E = 0 ∨ 2 ^ fb ≤ q') := by
      obtain ⟨rfl, -⟩ | ⟨rfl, -⟩ := hchoice <;> omega
    obtain ⟨hfin, hover⟩ := h.roundFlt_of_roundAt sat h0 he hr' hq'.1 hq'.2
    refine ⟨E * 2 ^ fb + q', ?_, fun hle => ?_, hover⟩
    · rw [← Nat.add_assoc, Nat.add_right_inj]
      simpa only [Nat.add_assoc, Nat.add_right_inj] using hchoice
    · obtain ⟨fl, hround, -, hfl⟩ := hfin hle
      exact ⟨fl, hround, hfl rfl⟩

end

/-- `k` is the code to which a mode rounds the magnitude `a` of a value of sign `neg` in a format (R67): a nearest one under
modes 0 and 4, of two the even one or the larger; the nearest not above `a`, or not below it, under the others. -/
structure RoundsTo (fb bias mode : Nat) (neg : Bool) (a : ℚ) (k : Nat) : Prop where
  nearest : mode = 0 ∨ mode = 4 → ∀ j, |codeMag fb bias k - a| ≤ |codeMag fb bias j - a| ∧
    (|codeMag fb bias k - a| = |codeMag fb bias j - a| → j ≠ k →
      (mode = 0 → k % 2 = 0) ∧ (mode = 4 → codeMag fb bias j < codeMag fb bias k))
  inward : mode = 1 ∨ mode = 2 ∧ neg = false ∨ mode = 3 ∧ neg = true →
    codeMag fb bias k ≤ a ∧ ∀ j, codeMag fb bias j ≤ a → codeMag fb bias j ≤ codeMag fb bias k
  outward : mode = 2 ∧ neg = true ∨ mode = 3 ∧ neg = false →
    a ≤ codeMag fb bias k ∧ ∀ j, a ≤ codeMag fb bias j → codeMag fb bias k ≤ codeMag fb bias j

section
variable {fb bias mode : Nat} {neg : Bool}

theorem roundsTo_exact (k : Nat) : RoundsTo fb bias mode neg (codeMag fb bias k) k where
  nearest _ j := by
    rw [sub_self, abs_zero]
    refine ⟨abs_nonneg _, fun heq hne => absurd ?_ hne⟩
    exact codeMag_strictMono.injective (sub_eq_zero.1 (abs_eq_zero.1 heq.symm))
  inward _ := ⟨le_rfl, fun _ hj => hj⟩
  outward _ := ⟨le_rfl, fun _ hj => hj⟩

section
variable {a : ℚ} {k : Nat} (hlo : codeMag fb bias k < a) (hhi : a < codeMag fb bias (k + 1))
include hlo hhi

/-- Every code lies at or below the lower neighbour, or at or above the upper one. -/
theorem codeMag_outside (j : Nat) : j ≤ k ∧ codeMag fb bias j ≤ codeMag fb bias k ∧ |codeMag fb bias j - a| = a - codeMag fb bias j ∨
    k + 1 ≤ j ∧ codeMag fb bias (k + 1) ≤ codeMag fb bias j ∧ |codeMag fb bias j - a| = codeMag fb bias j - a := by
  obtain hj | hj := Nat.lt_or_ge k j
  · have hle := (codeMag_strictMono (fb := fb) (bias := bias)).monotone hj
    exact .inr ⟨hj, hle, abs_of_pos (sub_pos.2 (hhi.trans_le hle))⟩
  · have hle := (codeMag_strictMono (fb := fb) (bias := bias)).monotone hj
    exact .inl ⟨hj, hle, by rw [abs_of_neg (sub_neg.2 (hle.trans_lt hlo)), neg_sub]⟩

theorem roundsTo_up (hmode : mode < 5) (hup : RoundsUp mode neg (k % 2 = 1) (codeMag fb bias k) a (codeMag fb bias (k + 1))) :
    RoundsTo fb bias mode neg a (k + 1) where
  nearest hm j := by
    rw [abs_of_pos (sub_pos.2 hhi)]
    have hle : codeMag fb bias (k + 1) - a ≤ a - codeMag fb bias k := by
      obtain rfl | rfl := hm
      · exact hup.elim le_of_lt fun heq => heq.1.le
      · exact hup
    obtain ⟨hj, hmag, habs⟩ | ⟨hj, hmag, habs⟩ := codeMag_outside hlo hhi j
    · rw [habs]
      refine ⟨by linarith, fun heq _ => ⟨fun h0 => ?_, fun _ => by linarith⟩⟩
      subst h0
      have hodd := (hup.resolve_left (by linarith)).2
      omega
    · rw [habs]
      refine ⟨by linarith, fun heq hne => absurd ?_ hne⟩
      exact (codeMag_strictMono (fb := fb) (bias := bias)).injective (by linarith)
  inward hm := by
    obtain rfl | ⟨rfl, rfl⟩ | ⟨rfl, rfl⟩ := hm
    · exact hup.elim
    · exact absurd hup Bool.false_ne_true
    · exact absurd hup.symm Bool.false_ne_true
  outward _ := by
    refine ⟨hhi.le, fun j hj => ?_⟩
    obtain ⟨-, hmag, -⟩ | ⟨-, hmag, -⟩ := codeMag_outside hlo hhi j
    · linarith
    · exact hmag

theorem roundsTo_down (hmode : mode < 5) (hup : ¬RoundsUp mode neg (k % 2 = 1) (codeMag fb bias k) a (codeMag fb bias (k + 1))) :
    RoundsTo fb bias mode neg a k where
  nearest hm j := by
    rw [abs_sub_comm, abs_of_pos (sub_pos.2 hlo)]
    have hle : a - codeMag fb bias k ≤ codeMag fb bias (k + 1) - a := by
      obtain rfl | rfl := hm
      · exact not_lt.1 (mt Or.inl hup)
      · exact (not_le.1 hup).le
    obtain ⟨hj, hmag, habs⟩ | ⟨hj, hmag, habs⟩ := codeMag_outside hlo hhi j
    · rw [habs]
      refine ⟨by linarith, fun heq hne => absurd ?_ hne⟩
      exact (codeMag_strictMono (fb := fb) (bias := bias)).injective (by linarith)
    · rw [habs]
      refine ⟨by linarith, fun heq _ => ⟨fun h0 => ?_, fun h4 => ?_⟩⟩
      · subst h0
        have hodd : ¬k % 2 = 1 := fun hodd => hup (.inr ⟨by linarith, hodd⟩)
        omega
      · subst h4
        exact absurd (show _ ≤ _ by linarith) hup
  inward _ := by
    refine ⟨hlo.le, fun j hj => ?_⟩
    obtain ⟨-, hmag, -⟩ | ⟨-, hmag, -⟩ := codeMag_outside hlo hhi j
    · exact hmag
    · linarith
  outward hm := by
    obtain ⟨rfl, rfl⟩ | ⟨rfl, rfl⟩ := hm
    · exact absurd rfl hup
    · exact absurd rfl hup

end
end

section
variable {f eb fb bias : Nat} (h : IsFlt f eb fb bias)
include h

/-- Rounding within the range of a format. -/
theorem IsFlt.roundFlt_in_range {mode : Nat} (hmode : mode < 5) (sat : Bool) {v : Dy} (hv : v.more = false) (h0 : v.m ≠ 0) (c : RC)
    (hle : v.mag ≤ codeMag fb bias (maxCode f)) : ∃ k ≤ maxCode f, ∃ fl,
      roundFlt f mode sat (.fin v) c = (signCode f v.neg + k, ⟨fl, c.rseq⟩) ∧
      (fl.getLsbD 4 = true ↔ c.flags.getLsbD 4 = true ∨ codeMag fb bias k ≠ v.mag) ∧ RoundsTo fb bias mode v.neg v.mag k := by
  have mono {j k : Nat} : codeMag fb bias j ≤ codeMag fb bias k ↔ j ≤ k := codeMag_strictMono.le_iff_le
  obtain ⟨k, ⟨heq, hfin, -⟩ | ⟨hlo, hhi, hr⟩⟩ := h.roundFlt_fin mode sat hv h0 c
  · have hk : k ≤ maxCode f := mono.1 (heq ▸ hle)
    refine ⟨k, hk, c.flags, hfin hk, by simp [heq], ?_⟩
    rw [heq]
    exact roundsTo_exact k
  · obtain ⟨k', hchoice, hfin, -⟩ := hr hmode
    have hk : k < maxCode f := codeMag_strictMono.lt_iff_lt.1 (hlo.trans_le hle)
    have hk' : k' ≤ maxCode f := by omega
    obtain ⟨fl, hround, hfl⟩ := hfin hk'
    refine ⟨k', hk', fl, hround, ?_, ?_⟩
    · refine iff_of_true hfl (.inr ?_)
      obtain ⟨rfl, -⟩ | ⟨rfl, -⟩ := hchoice
      · exact hhi.ne'
      · exact hlo.ne
    · obtain ⟨rfl, hup⟩ | ⟨rfl, hup⟩ := hchoice
      · exact roundsTo_up hlo hhi hmode hup
      · exact roundsTo_down hlo hhi hmode hup

/-- Rounding from twice the largest finite value on. -/
theorem IsFlt.roundFlt_overflow {mode : Nat} (hmode : mode < 5) (sat : Bool) {v : Dy} (hv : v.more = false) (h0 : v.m ≠ 0) (c : RC)
    (hle : 2 * codeMag fb bias (maxCode f) ≤ v.mag) :
    roundFlt f mode sat (.fin v) c = (overflowCode f v.neg mode sat, c.or (fOF ||| fIX)) := by
  have hsucc := (codeMag_succ_le_two_mul (fb := fb) (bias := bias) h.top_ne).trans hle
  obtain ⟨k, ⟨heq, -, hover⟩ | ⟨-, hhi, hr⟩⟩ := h.roundFlt_fin mode sat hv h0 c
  · exact hover (codeMag_strictMono.le_iff_le.1 (hsucc.trans_eq heq))
  · obtain ⟨k', hchoice, -, hover⟩ := hr hmode
    have hk : maxCode f + 1 < k + 1 := codeMag_strictMono.lt_iff_lt.1 (hsucc.trans_lt hhi)
    exact hover (by omega)

end

/-! ### Values of one sign -/

/-- Two values of one sign are as far apart as their magnitudes. -/
theorem abs_ratOf_sub {w v : Dy} (hneg : w.neg = v.neg) : |ratOf w - ratOf v| = |w.mag - v.mag| := by
  cases h : v.neg
  · rw [ratOf_of_not_neg h, ratOf_of_not_neg (hneg.trans h)]
  · rw [ratOf_of_neg h, ratOf_of_neg (hneg.trans h), ← neg_sub_neg, abs_sub_comm]
    ring_nf

theorem abs_mag_sub_le (u v : Dy) : |u.mag - v.mag| ≤ |ratOf u - ratOf v| := by
  rw [← abs_ratOf u, ← abs_ratOf v]
  exact abs_abs_sub_abs_le_abs_sub _ _

/-- A value of the other sign is further away than one of its own magnitude. -/
theorem ratOf_eq_of_mag_eq {u w v : Dy} (hneg : w.neg = v.neg) (hpos : 0 < v.mag) (hmag : u.mag = w.mag)
    (hdist : |ratOf w - ratOf v| = |ratOf u - ratOf v|) : ratOf u = ratOf w := by
  by_cases hu : u.neg = w.neg
  · rw [ratOf_eq, ratOf_eq, hu, hmag]
  · rw [abs_ratOf_sub hneg] at hdist
    have hsum : |ratOf u - ratOf v| = w.mag + v.mag := by
      have hnonneg := add_nonneg w.mag_nonneg v.mag_nonneg
      cases hv : v.neg
      · rw [hneg, hv, Bool.not_eq_false] at hu
        rw [ratOf_of_neg hu, ratOf_of_not_neg hv, hmag, ← neg_add', abs_neg, abs_of_nonneg hnonneg]
      · rw [hneg, hv, Bool.not_eq_true] at hu
        rw [ratOf_of_not_neg hu, ratOf_of_neg hv, hmag, sub_neg_eq_add, abs_of_nonneg hnonneg]
    rw [hsum] at hdist
    have hzero : w.mag = 0 := by
      obtain hle | hle := abs_choice (w.mag - v.mag)
      · rw [hle] at hdist; linarith
      · rw [hle] at hdist; linarith [w.mag_nonneg]
    rw [ratOf_eq, ratOf_eq, hmag, hzero, mul_zero, mul_zero]

theorem ratOf_negate (v : Dy) : ratOf { v with neg := !v.neg } = -ratOf v := by
  cases h : v.neg
  · rw [ratOf_of_not_neg h, ratOf_of_neg (by simp)]; rfl
  · rw [ratOf_of_neg h, ratOf_of_not_neg (by simp), neg_neg]; rfl

section
variable {fb bias mode : Nat} {v w : Dy} {k : Nat}

theorem RoundsTo.ratOf_nearest (hround : RoundsTo fb bias mode v.neg v.mag k) (hneg : w.neg = v.neg)
    (hw : w.mag = codeMag fb bias k) (hpos : 0 < v.mag) (hm : mode = 0 ∨ mode = 4) {u : Dy} {j : Nat} (hu : u.mag = codeMag fb bias j) :
    |ratOf w - ratOf v| ≤ |ratOf u - ratOf v| ∧ (|ratOf w - ratOf v| = |ratOf u - ratOf v| → ratOf u ≠ ratOf w →
      (mode = 0 → k % 2 = 0) ∧ (mode = 4 → |ratOf u| < |ratOf w|)) := by
  obtain ⟨hle, htie⟩ := hround.nearest hm j
  have hmag := abs_mag_sub_le u v
  have hdist := abs_ratOf_sub hneg
  rw [hw] at hdist
  rw [hu] at hmag
  refine ⟨hdist ▸ hle.trans hmag, fun heq hne => ?_⟩
  have hjk : j ≠ k := by
    rintro rfl
    exact hne (ratOf_eq_of_mag_eq hneg hpos (hu.trans hw.symm) heq)
  rw [abs_ratOf, abs_ratOf, hu, hw]
  exact htie (hle.antisymm (hmag.trans_eq (heq.symm.trans hdist))) hjk

theorem RoundsTo.abs_ratOf_le (hround : RoundsTo fb bias 1 v.neg v.mag k) (hw : w.mag = codeMag fb bias k) :
    |ratOf w| ≤ |ratOf v| ∧ ∀ {u : Dy} {j : Nat}, u.mag = codeMag fb bias j → |ratOf u| ≤ |ratOf v| → |ratOf u| ≤ |ratOf w| := by
  obtain ⟨hle, hbest⟩ := hround.inward (.inl rfl)
  simp only [abs_ratOf, hw]
  exact ⟨hle, fun {u j} hu huv => hu ▸ hbest j (hu ▸ huv)⟩

theorem RoundsTo.ratOf_le (hround : RoundsTo fb bias 2 v.neg v.mag k) (hneg : w.neg = v.neg) (hw : w.mag = codeMag fb bias k)
    (hpos : 0 < v.mag) :
    ratOf w ≤ ratOf v ∧ ∀ {u : Dy} {j : Nat}, u.mag = codeMag fb bias j → ratOf u ≤ ratOf v → ratOf u ≤ ratOf w := by
  cases hv : v.neg
  · obtain ⟨hle, hbest⟩ := hround.inward (.inr (.inl ⟨rfl, hv⟩))
    rw [ratOf_of_not_neg (hneg.trans hv), ratOf_of_not_neg hv, hw]
    refine ⟨hle, fun {u j} hu huv => ?_⟩
    cases hun : u.neg
    · rw [ratOf_of_not_neg hun, hu] at huv ⊢
      exact hbest j huv
    · rw [ratOf_of_neg hun]
      exact (neg_nonpos.2 u.mag_nonneg).trans (codeMag_nonneg k)
  · obtain ⟨hle, hbest⟩ := hround.outward (.inl ⟨rfl, hv⟩)
    rw [ratOf_of_neg (hneg.trans hv), ratOf_of_neg hv, hw]
    refine ⟨neg_le_neg hle, fun {u j} hu huv => ?_⟩
    cases hun : u.neg
    · rw [ratOf_of_not_neg hun] at huv
      linarith [u.mag_nonneg]
    · rw [ratOf_of_neg hun, hu] at huv ⊢
      exact neg_le_neg (hbest j (neg_le_neg_iff.1 huv))

/-- Rounding up is rounding down of the negated value. -/
theorem RoundsTo.negate {neg : Bool} {a : ℚ} (hround : RoundsTo fb bias 3 neg a k) : RoundsTo fb bias 2 (!neg) a k where
  nearest hm := by omega
  inward hm := by
    refine hround.inward (.inr (.inr ⟨rfl, ?_⟩))
    simpa using hm
  outward hm := by
    refine hround.outward (.inr ⟨rfl, ?_⟩)
    simpa using hm

theorem RoundsTo.le_ratOf (hround : RoundsTo fb bias 3 v.neg v.mag k) (hneg : w.neg = v.neg) (hw : w.mag = codeMag fb bias k)
    (hpos : 0 < v.mag) :
    ratOf v ≤ ratOf w ∧ ∀ {u : Dy} {j : Nat}, u.mag = codeMag fb bias j → ratOf v ≤ ratOf u → ratOf w ≤ ratOf u := by
  obtain ⟨hle, hbest⟩ := RoundsTo.ratOf_le (v := { v with neg := !v.neg }) (w := { w with neg := !w.neg }) hround.negate
    (by rw [hneg]) hw hpos
  rw [ratOf_negate, ratOf_negate] at hle
  refine ⟨neg_le_neg_iff.1 hle, fun {u j} hu huv => ?_⟩
  have hdown := hbest (u := { u with neg := !u.neg }) (j := j) hu
  rw [ratOf_negate, ratOf_negate, ratOf_negate] at hdown
  exact neg_le_neg_iff.1 (hdown (neg_le_neg huv))

end

/-! ### Overflow (R68) -/

/-- The formats and modes whose overflow gives the largest finite code. -/
def OverflowsToTop (f mode : Nat) (neg : Bool) : Prop :=
  f = 5 ∨ mode = 1 ∨ mode = 2 ∧ neg = false ∨ mode = 3 ∧ neg = true

theorem overflowCode_top {f mode : Nat} {neg : Bool} (htop : OverflowsToTop f mode neg) :
    overflowCode f neg mode false = signCode f neg + maxCode f := by
  unfold overflowCode
  obtain rfl | rfl | ⟨rfl, rfl⟩ | ⟨rfl, rfl⟩ := htop <;> simp

theorem overflowCode_not_top {f mode : Nat} {neg : Bool} (hmode : mode < 5) (htop : ¬OverflowsToTop f mode neg) :
    overflowCode f neg mode false = if hasInf f then signCode f neg + infCode f else canonNaN f := by
  simp only [OverflowsToTop, not_or] at htop
  obtain ⟨h5, h1, h2, h3⟩ := htop
  unfold overflowCode
  match mode, hmode with
  | 0, _ => simp [h5]
  | 2, _ => simp [h5, show neg = true by simpa using h2]
  | 3, _ => simp [h5, show neg = false by simpa using h3]
  | 4, _ => simp [h5]

/-- Any other overflow gives the infinity of the sign, or the NaN of E4M3. -/
theorem IsFlt.valueOf_overflowCode {f eb fb bias : Nat} (h : IsFlt f eb fb bias) {mode : Nat} {neg : Bool} (hmode : mode < 5)
    (htop : ¬OverflowsToTop f mode neg) :
    valueOf f (overflowCode f neg mode false) = if f = 3 then .nan else .inf neg := by
  rw [overflowCode_not_top hmode htop]
  cases hinf : hasInf f
  · obtain rfl := (h.no_inf hinf).resolve_right fun h5 => htop (.inl h5)
    rfl
  · rw [if_pos rfl, h.valueOf_infCode hinf, if_neg]
    rintro rfl
    simp [hasInf] at hinf

/-! ### O42 -/

/-- Settles O42: the magnitudes of the codes rise with the codes, the rounding of a magnitude is one of its two neighbours, and
what holds of magnitudes carries over to values of one sign. -/
theorem roundings : Obligations.Roundings := by
  intro f mode v c hf hmode hv h0
  obtain ⟨eb, fb, bias, h⟩ := isFlt_of_mem hf
  have hpos : 0 < v.mag := Dy.mag_pos_iff.2 h0
  intro r x finite top htop
  have htopMag : ratOf top = codeMag fb bias (maxCode f) := by
    obtain ⟨-, w, hw, hneg, hmag⟩ := h.valueOf_signCode_add (neg := false) le_rfl
    rw [signCode, if_neg Bool.false_ne_true, Nat.zero_add, htop.2] at hw
    obtain rfl : top = w := by simpa using hw
    rw [ratOf_of_not_neg hneg, hmag]
  rw [htopMag, show |x| = v.mag from abs_ratOf v]
  have hr : r = roundFlt f mode false (.fin v) c := h.roundTo_eq mode false (.fin v) c
  refine ⟨fun hle => ?_, fun hle => ?_⟩
  · obtain ⟨k, hk, fl, hround, hfl, hspec⟩ := h.roundFlt_in_range hmode false hv h0 c hle
    rw [← hr] at hround
    obtain ⟨hlt, w, hw, hneg, hmag⟩ := h.valueOf_signCode_add (neg := v.neg) hk
    have hne : ratOf w ≠ x ↔ codeMag fb bias k ≠ v.mag := by
      rw [← hmag, ← sub_ne_zero, ← abs_ne_zero, abs_ratOf_sub hneg, abs_ne_zero, sub_ne_zero]
    have heven : (signCode f v.neg + k) % 2 = k % 2 := by
      obtain ⟨j, hj⟩ := Nat.exists_eq_add_of_le' h.fb_pos
      rw [signCode, h.bits, Nat.add_sub_cancel, hj, ← Nat.add_assoc, Nat.pow_succ]
      split <;> omega
    rw [hround]
    refine ⟨w, ⟨hlt, hw⟩, hneg, rfl, hfl.trans (or_congr_right hne.symm), fun hm code u hu => ?_, ?_, ?_, ?_⟩
    · obtain ⟨j, -, hj⟩ := h.mag_of_finite hu.1 hu.2
      rw [heven]
      exact hspec.ratOf_nearest hneg hmag hpos hm hj
    · rintro rfl
      obtain ⟨hin, hbest⟩ := hspec.abs_ratOf_le hmag
      rw [abs_ratOf v] at hin hbest
      refine ⟨hin, fun code u hu huv => ?_⟩
      obtain ⟨j, -, hj⟩ := h.mag_of_finite hu.1 hu.2
      exact hbest hj huv
    · rintro rfl
      obtain ⟨hin, hbest⟩ := hspec.ratOf_le hneg hmag hpos
      refine ⟨hin, fun code u hu huv => ?_⟩
      obtain ⟨j, -, hj⟩ := h.mag_of_finite hu.1 hu.2
      exact hbest hj huv
    · rintro rfl
      obtain ⟨hin, hbest⟩ := hspec.le_ratOf hneg hmag hpos
      refine ⟨hin, fun code u hu huv => ?_⟩
      obtain ⟨j, -, hj⟩ := h.mag_of_finite hu.1 hu.2
      exact hbest hj huv
  · rw [h.roundFlt_overflow hmode false hv h0 c hle] at hr
    rw [hr]
    refine ⟨rfl, fun hbig => ?_, fun hbig => h.valueOf_overflowCode hmode hbig⟩
    obtain ⟨hlt, w, hw, hneg, hmag⟩ := h.valueOf_signCode_add (neg := v.neg) le_rfl
    rw [overflowCode_top hbig]
    exact ⟨w, ⟨hlt, hw⟩, hneg, by rw [abs_ratOf, hmag]⟩

end Sys2Proof.Machine
end

section
/-! PROOFS. A V-operation enters the engine (R178 to R181), and its operands when they are registers: what every operation over
registers comes to, and then the operations one by one (R185 to R190). -/
namespace Sys2Proof.Machine

/-! ### What an operation leaves alone before it enters the engine (R178 to R181) -/

/-- Between `s` and `t` only streams of the issuing core have changed, and the random sequence of the issuing thread. -/
structure State.PopsAndDraws (s t : State) (rseq : Word) : Prop where
  core : t.core s.iss.core = { s.core s.iss.core with slots := (t.core s.iss.core).slots, gens := (t.core s.iss.core).gens }
  cur : t.cur = { s.cur with rseq := rseq }
  threads : ∀ j, j ≠ s.iss.slot → t.thread? s.iss.core j = s.thread? s.iss.core j
  cores : ∀ j, j ≠ s.iss.core → t.core j = s.core j
  rest : t = { s with cores := t.cores }

theorem State.PopsAndDraws.refl (s : State) : s.PopsAndDraws s s.cur.rseq := ⟨rfl, rfl, fun _ _ => rfl, fun _ _ => rfl, rfl⟩

section
variable {s t u : State} {r r' : Word}

theorem State.PopsAndDraws.iss (h : s.PopsAndDraws t r) : t.iss = s.iss := by rw [h.rest]

theorem State.PopsAndDraws.curCore (h : s.PopsAndDraws t r) :
    t.curCore = { s.curCore with slots := t.curCore.slots, gens := t.curCore.gens } := by
  rw [State.curCore, h.iss]
  exact h.core

theorem State.PopsAndDraws.trans (h : s.PopsAndDraws t r) (h' : t.PopsAndDraws u r') : s.PopsAndDraws u r' where
  core := by
    have hcore := h'.core
    rw [h.iss] at hcore
    rw [hcore, h.core]
  cur := by rw [h'.cur, h.cur]
  threads j hj := by rw [← h.threads j hj, ← h.iss]; exact h'.threads j (h.iss ▸ hj)
  cores j hj := by rw [← h.cores j hj]; exact h'.cores j (h.iss ▸ hj)
  rest := by
    have hrest := h'.rest
    rw [h.rest] at hrest
    exact hrest

theorem State.PopsAndDraws.occupancy (h : s.PopsAndDraws t r) (d : VDesc) (n : Nat) : t.occupancy d n = s.occupancy d n := by
  have hdom : t.curDom = s.curDom := by
    rw [State.curDom, h.cur, h.rest]
    rfl
  rw [State.occupancy, hdom]
  rfl

end

/-- The thread's random sequence has been drawn on. -/
theorem State.popsAndDraws_modCur (s : State) (r : Word) : s.PopsAndDraws (s.modCur fun t => { t with rseq := r }) r where
  core := by simp [State.modCur, State.modThread, State.setThread]
  cur := State.cur_modCur s _
  threads j hj := State.thread?_setThread_ne s _ fun h => hj h.2
  cores j hj := State.core_modCore_ne s _ hj
  rest := rfl

/-- A generator of the issuing core has changed. -/
theorem State.popsAndDraws_setGen (s : State) (i : Nat) (g : Gen) :
    s.PopsAndDraws (s.modCore s.iss.core fun k => k.setGen i g) s.cur.rseq where
  core := by rw [State.core_modCore_self]; rfl
  cur := by
    show ((lookup ((s.modCore s.iss.core _).core s.iss.core).slots _).getD _ : Thread) = _
    rw [State.core_modCore_self]
    rfl
  threads j _ := by
    rw [State.thread?, State.core_modCore_self]
    rfl
  cores j hj := State.core_modCore_ne s _ hj
  rest := rfl

/-! ### Entering the engine (R181, R338) -/

/-- Entering puts the operation into the stage and its entry into the ring, as the statements say. -/
theorem State.enters_enterVec (s : State) (d : VDesc) (n done : Nat) (r : VRes) (wf : Option (BitVec 5 × Word))
    (fault : Option (Cause × Word × Word)) :
    s.Enters (s.enterVec d n done r wf fault) (s.occupancy d n) wf (r.p.map fun v => (d.pd, v)) ⟨r.c.flags, s.cur.rseq⟩ fault ∧
      (s.enterVec d n done r wf fault).curCore.gens = s.curCore.gens := by
  unfold State.enterVec
  have hcore (g : Core → Core) : (s.modCurCore g).curCore = g s.curCore := State.core_modCore_self s _ _
  refine ⟨⟨_, ⟨s.curCore.seq, tidOf s.iss.core s.iss.slot, 0, slotOpc s.iss.raw, 0, s.vpc, s.iss.raw.extractLsb' 16 64,
    BitVec.ofNat 32 done ++ BitVec.ofNat 32 n, 0⟩, by rw [hcore], rfl, rfl, rfl, rfl, rfl, rfl, rfl, rfl, ?_, rfl, rfl, rfl, rfl,
    by rw [hcore]; rfl, ?_, ?_, ?_, ?_, rfl⟩, ?_⟩
  · intro hlen
    rw [hcore]
    exact if_neg (not_lt.2 hlen)
  · rw [hcore]
    rfl
  · show ((lookup ((s.modCore s.iss.core _).core s.iss.core).slots _).getD _ : Thread) = _
    rw [State.core_modCore_self]
    rfl
  · intro j _
    rw [State.thread?, State.modCurCore, State.core_modCore_self]
    rfl
  · exact fun j hj => State.core_modCore_ne s _ hj
  · rw [hcore]
    rfl

/-- An operation that has popped, drawn and entered has entered. -/
theorem State.PopsAndDraws.enters {s s1 t : State} {r : Word} (h : s.PopsAndDraws s1 r) {occ : Nat}
    {wf : Option (BitVec 5 × Word)} {wp : Option (BitVec 3 × Bool)} {c : RC} {fault : Option (Cause × Word × Word)}
    (ht : s1.Enters t occ wf wp c fault) : s.Enters t occ wf wp c fault := by
  obtain ⟨op, e, hvec, hseq, hslot, hgen, hdone, hwf, hwp, hflags, hfault, hring, heseq, hest, hetid, heopc, hnext, hcore, hcur,
    hthreads, hcores, hrest⟩ := ht
  rw [h.curCore] at hvec hseq hdone hring heseq hnext hcore
  rw [h.iss] at hslot hetid heopc hthreads hcores
  rw [h.cur] at hgen hcur
  refine ⟨op, e, hvec, hseq, hslot, hgen, hdone, hwf, hwp, hflags, hfault, hring, heseq, hest, hetid, heopc, hnext, hcore, hcur,
    fun j hj => ?_, fun j hj => ?_, ?_⟩
  · rw [hthreads j hj, h.threads j hj]
  · rw [hcores j hj, h.cores j hj]
  · rw [h.rest] at hrest
    exact hrest

/-! ### Operands in registers (R28, R61, R178) -/

/-- A source that is a register is one value for every iteration. -/
def State.srcWord (s : State) (x : Src) : BitVec 32 := BitVec.ofNat 32 ((s.vf x.r).toNat % 2 ^ fmtBits (x.fmts.headD 0))

theorem State.streamOf_of_plain {s : State} {r : BitVec 5} (h : s.Plain r) : s.streamOf r = none := by
  rw [State.streamOf, Core.stream, Option.bind_eq_none_iff]
  intro e he
  have hmem := List.mem_of_find?_eq_some he
  have hp := List.find?_some he
  simp only [Bool.and_eq_true, beq_iff_eq, Bool.not_eq_true'] at hp
  obtain ⟨⟨⟨hslot, hgen⟩, hreg⟩, hopen⟩ := hp
  have hoff := (h e hmem hslot hgen hreg).resolve_left (by simp [hopen])
  simp [hoff]

theorem State.pullRow_regs (s : State) (c : Nat) (vs : List (BitVec 32)) :
    s.pullRow c (vs.map Opd.reg) = .ok s (vs, vs.map Opd.reg) := by
  induction vs with
  | nil => rfl
  | cons v vs ih => simp only [List.map_cons, State.pullRow, ih]

theorem fmtBits_le (f : Nat) : fmtBits f ≤ 32 := by
  unfold fmtBits
  split <;> decide

theorem codeIn_lt (s : State) (f : Nat) (r : BitVec 5) : codeIn s f r < 2 ^ fmtBits f := Nat.mod_lt _ (Nat.two_pow_pos _)

/-- A source register of format `f` gives its code. -/
theorem State.toNat_srcWord (s : State) (r : BitVec 5) (f : Nat) (fs : List Nat) (bc : Bool) :
    (s.srcWord ⟨r, f :: fs, bc⟩).toNat = codeIn s f r := by
  show (BitVec.ofNat 32 (codeIn s f r)).toNat = _
  rw [BitVec.toNat_ofNat]
  exact Nat.mod_eq_of_lt ((codeIn_lt s f r).trans_le (Nat.pow_le_pow_right (by decide) (fmtBits_le f)))

section
variable {s : State} {d : VDesc} (hsrcs : ∀ x ∈ d.srcs, s.streamOf x.r = none) (hdst : d.dst.isSome = true → s.streamOf d.fd = none)
include hsrcs

theorem State.opdOf_regs : d.srcs.map s.opdOf = (d.srcs.map s.srcWord).map Opd.reg := by
  rw [List.map_map]
  refine List.map_congr_left fun x hx => ?_
  rw [State.opdOf, hsrcs x hx]
  rfl

theorem State.counts_regs : s.counts d.srcs = [] := by
  refine List.filterMap_eq_nil_iff.2 fun x hx => ?_
  rw [hsrcs x hx]

include hdst

theorem State.vecBad_regs : s.vecBad d = d.bad := by
  have hs : d.srcs.any s.srcBad = false := List.any_eq_false.2 fun x hx => by simp [State.srcBad, hsrcs x hx]
  have hd : d.dst.any (s.dstBad d.fd) = false := by
    cases hdd : d.dst with
    | none => rfl
    | some l => simp [State.dstBad, hdst (by simp [hdd])]
  rw [State.vecBad, hs, hd, Bool.or_false, Bool.or_false]

/-- An operation over registers does one iteration, and its results go to registers (R178, R179). -/
theorem State.enters_vecIssue_regs (hbad : d.bad = false) (f : List (List (BitVec 32)) → Bool → RC → VRes) :
    let r := f [d.srcs.map s.srcWord] false ⟨0, s.cur.rseq⟩
    s.Enters (s.vecIssue d f) (s.occupancy d 1) (if d.wr then r.out.getLast?.map fun v => (d.fd, v.setWidth 64) else none)
      (r.p.map fun v => (d.pd, v)) r.c none ∧ (s.vecIssue d f).curCore.gens = s.curCore.gens := by
  intro r
  have hdraw := s.popsAndDraws_modCur r.c.rseq
  have hstream : (if d.dst.isSome ∧ d.count then s.streamOf d.fd else none) = none := by
    split
    · next h => exact hdst h.1
    · rfl
  have hstream' : (if d.dst.isSome then (s.modCur fun t => { t with rseq := r.c.rseq }).streamOf d.fd else none) = none := by
    split
    · next h =>
      rw [State.streamOf, hdraw.curCore, hdraw.iss, hdraw.cur, ← hdst h, State.streamOf]
      simp [Core.stream, Core.bound, State.curCore, State.modCur, State.modThread, State.setThread]
    · rfl
  have heq : s.vecIssue d f = (s.modCur fun t => { t with rseq := r.c.rseq }).enterVec d 1 1 r
      (if d.wr then r.out.getLast?.map fun v => (d.fd, v.setWidth 64) else none) none := by
    rw [State.vecIssue, State.vecBad_regs hsrcs hdst, hbad, hstream]
    simp only [Bool.false_eq_true, if_false, State.counts_regs hsrcs, Option.toList_none, List.map_nil, List.append_nil, leastOr1,
      State.vecRun, State.opdOf_regs hsrcs, State.pullRows, State.pullRow_regs, cutRows, Option.isSome_none, List.length_singleton]
    rw [hstream']
  obtain ⟨henter, hgens⟩ := (s.modCur fun t => { t with rseq := r.c.rseq }).enters_enterVec d 1 1 r
    (if d.wr then r.out.getLast?.map fun v => (d.fd, v.setWidth 64) else none) none
  rw [heq]
  rw [hdraw.occupancy, hdraw.cur] at henter
  refine ⟨hdraw.enters henter, hgens.trans ?_⟩
  simp [State.curCore, State.modCur, State.modThread, State.setThread]

end

/-! ### Operations of one result per element over registers (R61, R179, R181) -/

theorem ceilDiv_eq_one {n r : Nat} (hn : 0 < n) (hr : n ≤ r) : ceilDiv n r = 1 := by
  rw [ceilDiv]
  exact Nat.div_eq_of_lt_le (by omega) (by omega)

theorem rateOf_ge (fs : List Nat) : 16 ≤ rateOf fs := by
  unfold rateOf
  split <;> decide

/-- An operation of base occupancy 1 holds the stage for one cycle, doubled from energy stage 3 on, and its extra cycles. -/
theorem State.occupancy_one (s : State) {d : VDesc} (h : d.base 1 = 1) : s.occupancy d 1 = occOne s + d.extra := by
  rw [State.occupancy, h, occOne]
  rfl

theorem VDesc.plain_base (fd : BitVec 5) (fmt : Nat) (srcs : List Src) (slow : Bool) : (VDesc.plain fd fmt srcs slow).base 1 = 1 := by
  have hr := rateOf_ge [fmt]
  cases slow
  · exact ceilDiv_eq_one (n := 1) (by decide) (by omega)
  · exact ceilDiv_eq_one (n := 4) (by decide) (by omega)

section
variable {i : Instr} {s : State} {fd : BitVec 5}

/-- An operation over registers enters as one of a single iteration, and no stream changes. -/
theorem entersPlain_of_vecIssue {d : VDesc} {f : List (List (BitVec 32)) → Bool → RC → VRes}
    (hexec : exec i s = .next (s.vecIssue d f)) (hfd : d.dst.isSome = true → s.Plain d.fd) (hsrcs : ∀ x ∈ d.srcs, s.Plain x.r)
    (hbad : d.bad = false) (hbase : d.base 1 = 1) :
    let r := f [d.srcs.map s.srcWord] false ⟨0#5, s.cur.rseq⟩
    EntersPlain i s (occOne s + d.extra) (if d.wr then r.out.getLast?.map fun v => (d.fd, v.setWidth 64) else none)
      (r.p.map fun v => (d.pd, v)) r.c := by
  have henter := State.enters_vecIssue_regs (fun x hx => State.streamOf_of_plain (hsrcs x hx))
    (fun h => State.streamOf_of_plain (hfd h)) hbad f
  rw [s.occupancy_one hbase] at henter
  exact ⟨_, hexec, henter⟩

/-- An operation of one result per element, over registers, writes the result of its operands' codes to FD. -/
theorem entersPlain_of_vecMap {d : VDesc} {g : List Nat → RC → Nat × RC} (hexec : exec i s = .next (s.vecMap d g))
    (hfd : s.Plain d.fd) (hsrcs : ∀ x ∈ d.srcs, s.Plain x.r) (hbad : d.bad = false) (hwr : d.wr = true) (hbase : d.base 1 = 1)
    (hextra : d.extra = 0) :
    let r := g ((d.srcs.map s.srcWord).map (·.toNat)) ⟨0#5, s.cur.rseq⟩
    EntersPlain i s (occOne s) (some (d.fd, elemWord r.1)) none r.2 := by
  have h := entersPlain_of_vecIssue hexec (fun _ => hfd) hsrcs hbad hbase
  rw [hextra, Nat.add_zero, hwr] at h
  exact h

section
variable {fmt : Nat} {fa fb fc : BitVec 5} {slow : Bool} {bc : BitVec 2} {g : List Nat → RC → Nat × RC} (hfd : s.Plain fd) (hfa : s.Plain fa)
include hfd hfa

theorem entersPlain_of_vecMap_one (hexec : exec i s = .next (s.vecMap (VDesc.plain fd fmt (src1 fa fmt) slow) g)) :
    let r := g [codeIn s fmt fa] ⟨0#5, s.cur.rseq⟩
    EntersPlain i s (occOne s) (some (fd, elemWord r.1)) none r.2 := by
  have h := entersPlain_of_vecMap hexec hfd (by simpa [VDesc.plain, src1] using hfa) rfl rfl (VDesc.plain_base ..) rfl
  simpa only [VDesc.plain, src1, List.map_cons, List.map_nil, State.toNat_srcWord] using h

theorem entersPlain_of_vecMap_two (hfb : s.Plain fb)
    (hexec : exec i s = .next (s.vecMap (VDesc.plain fd fmt (src2 fa fb fmt bc) slow) g)) :
    let r := g [codeIn s fmt fa, codeIn s fmt fb] ⟨0#5, s.cur.rseq⟩
    EntersPlain i s (occOne s) (some (fd, elemWord r.1)) none r.2 := by
  have h := entersPlain_of_vecMap hexec hfd (by simpa [VDesc.plain, src2] using ⟨hfa, hfb⟩) rfl rfl (VDesc.plain_base ..) rfl
  simpa only [VDesc.plain, src2, List.map_cons, List.map_nil, State.toNat_srcWord] using h

theorem entersPlain_of_vecMap_three (hfb : s.Plain fb) (hfc : s.Plain fc)
    (hexec : exec i s = .next (s.vecMap (VDesc.plain fd fmt (src3 fa fb fc fmt bc) slow) g)) :
    let r := g [codeIn s fmt fa, codeIn s fmt fb, codeIn s fmt fc] ⟨0#5, s.cur.rseq⟩
    EntersPlain i s (occOne s) (some (fd, elemWord r.1)) none r.2 := by
  have h := entersPlain_of_vecMap hexec hfd (by simpa [VDesc.plain, src3] using ⟨hfa, hfb, hfc⟩) rfl rfl (VDesc.plain_base ..) rfl
  simpa only [VDesc.plain, src3, List.map_cons, List.map_nil, State.toNat_srcWord] using h

end
end

/-! ### The floating operations (R66, R185, R188) -/

theorem vectorFloat : Says.VectorFloat := by
  intro s fd fa fb fc fmt rnd bc imm f m a b c e c0 r r0 ops hplain
  obtain ⟨hfd, hfa, hfb, hfc⟩ : s.Plain fd ∧ s.Plain fa ∧ s.Plain fb ∧ s.Plain fc := by simpa using hplain
  have hscale : EntersPlain (.vsclE fd fa fb fmt rnd bc) s (occOne s)
      (some (fd, elemWord (if e = 255 then (canonNaN f, c0.or fIV) else r (fScale a ((e : Int) - 127), c0)).1)) none
      (if e = 255 then (canonNaN f, c0.or fIV) else r (fScale a ((e : Int) - 127), c0)).2 := by
    have h := entersPlain_of_vecMap (i := .vsclE fd fa fb fmt rnd bc) (s := s) rfl hfd
      (by simpa [VDesc.plain] using ⟨hfa, hfb⟩) rfl rfl (VDesc.plain_base ..) rfl
    simp only [VDesc.plain, List.map_cons, List.map_nil, State.toNat_srcWord, List.getD_cons_zero, List.getD_cons_succ] at h
    rw [Nat.mod_eq_of_lt (show codeIn s 10 fb < 256 from codeIn_lt s 10 fb)] at h
    exact h
  simp only [ops, List.forall_mem_cons, List.not_mem_nil, false_imp_iff, implies_true, and_true]
  have one {i g slow} := @entersPlain_of_vecMap_one i s fd f fa slow g hfd hfa
  have two {i g slow} := @entersPlain_of_vecMap_two i s fd f fa fb slow bc g hfd hfa hfb
  have three {i g} := @entersPlain_of_vecMap_three i s fd f fa fb fc false bc g hfd hfa hfb hfc
  exact ⟨(two (i := .vadd fd fa fb fmt rnd bc) rfl :), (two (i := .vsub fd fa fb fmt rnd bc) rfl :),
    (two (i := .vmul fd fa fb fmt rnd bc) rfl :), (three (i := .vfma fd fa fb fc fmt rnd bc) rfl :),
    (three (i := .vfmaMs fd fa fb fc fmt rnd bc) rfl :), (three (i := .vfmaNma fd fa fb fc fmt rnd bc) rfl :),
    (three (i := .vfmaNms fd fa fb fc fmt rnd bc) rfl :), (two (i := .vdiv fd fa fb fmt rnd bc) rfl :),
    (one (i := .vsqrt fd fa fmt rnd) rfl :), (one (i := .vsclI fd fa fmt rnd imm) rfl :), hscale,
    (one (i := .vexp fd fa fmt) rfl :), (one (i := .vlog fd fa fmt) rfl :), (one (i := .vrcp fd fa fmt) rfl :),
    (one (i := .vrsq fd fa fmt) rfl :), (one (i := .vsinpi fd fa fmt) rfl :), (one (i := .vcospi fd fa fmt) rfl :),
    (one (i := .vtanh fd fa fmt) rfl :)⟩

/-! ### Numbers from their bits -/

/-- The number of the low `w` bits that `p` picks. -/
def sumBits (w : Nat) (p : Nat → Bool) : Nat := ((List.range w).map fun j => if p j then 2 ^ j else 0).sum

theorem sumBits_testBit (w n : Nat) : sumBits w n.testBit = n % 2 ^ w := by
  induction w with
  | zero => simp [sumBits, Nat.mod_one]
  | succ w ih =>
    rw [sumBits, List.range_succ, List.map_append, List.sum_append, ← sumBits, ih, Nat.pow_succ, Nat.mod_mul]
    simp only [List.map_cons, List.map_nil, List.sum_cons, List.sum_nil, Nat.add_zero, Nat.testBit_eq_decide_div_mod_eq,
      decide_eq_true_eq]
    obtain h | h := Nat.mod_two_eq_zero_or_one (n / 2 ^ w) <;> simp [h]

/-- A number whose low bits are those that `p` picks. -/
theorem cast_emod_eq_sumBits {w n : Nat} {p : Nat → Bool} (h : ∀ j < w, n.testBit j = p j) :
    (n : Int) % 2 ^ w = (sumBits w p : Int) % 2 ^ w := by
  have hp : sumBits w p = sumBits w n.testBit := by
    unfold sumBits
    refine congrArg List.sum (List.map_congr_left fun j hj => ?_)
    rw [h j (List.mem_range.1 hj)]
  rw [hp, sumBits_testBit]
  push_cast
  rw [Int.emod_emod]

/-! ### Integer elements (R190) -/

section
variable {w : Nat} (hw : 0 < w)
include hw

theorem sgn_eq_bmod {a : Nat} (ha : a < 2 ^ w) : sgn w a = Int.bmod a (2 ^ w) := by
  obtain ⟨j, rfl⟩ := Nat.exists_eq_add_of_le' hw
  rw [Int.bmod_def, sgn, Nat.add_sub_cancel]
  have hpow : 2 ^ (j + 1) = 2 * 2 ^ j := Nat.pow_succ'
  have hmod : (a : Int) % (2 ^ (j + 1) : Nat) = a := by exact_mod_cast Nat.mod_eq_of_lt ha
  rw [hmod]
  push_cast
  rw [show (2 : Int) ^ (j + 1) = 2 * 2 ^ j from pow_succ' 2 j]
  have hcast : ((2 ^ j : Nat) : Int) = 2 ^ j := by push_cast; rfl
  split <;> split <;> omega

omit hw in
theorem satS_eq_clamp (v : Int) : satS w v = max (-(2 ^ (w - 1))) (min v (2 ^ (w - 1) - 1)) := by
  have hpos : (0 : Int) < 2 ^ (w - 1) := by positivity
  unfold satS clampInt
  split <;> [skip; split] <;> omega

variable {a b : Nat} (ha : a < 2 ^ w)
include ha

/-- Bits of an arithmetic right shift: the sign fills in. -/
theorem sgn_div_emod (n : Nat) (hn : n < w) :
    (sgn w a / (2 : Int) ^ n) % 2 ^ w = (sumBits w (fun j => a.testBit (min (j + n) (w - 1))) : Int) % 2 ^ w := by
  have htop : a.testBit (w - 1) = decide (2 ^ (w - 1) ≤ a) := by
    rw [Nat.testBit_eq_decide_div_mod_eq, decide_eq_decide]
    obtain ⟨j, rfl⟩ := Nat.exists_eq_add_of_le' hw
    rw [Nat.add_sub_cancel]
    have hdiv : a / 2 ^ j < 2 := Nat.div_lt_of_lt_mul (by rwa [← Nat.pow_succ])
    rw [Nat.mod_eq_of_lt hdiv, ← Nat.one_le_div_iff (Nat.two_pow_pos j)]
    omega
  by_cases hneg : a < 2 ^ (w - 1)
  · rw [sgn, if_pos hneg, ← cast_emod_eq_sumBits (n := a / 2 ^ n)]
    · push_cast
      rfl
    · intro j _
      rw [Nat.testBit_div_two_pow]
      by_cases hj : j + n ≤ w - 1
      · rw [min_eq_left hj]
      · rw [min_eq_right (by omega), htop, decide_eq_false (not_le.2 hneg), Nat.testBit_lt_two_pow]
        exact hneg.trans_le (Nat.pow_le_pow_right (by decide) (by omega))
  · have hpos := Nat.one_le_two_pow (n := n)
    rw [sgn, if_neg hneg, ← cast_emod_eq_sumBits (n := (2 ^ w * (2 ^ n - 1) + a) / 2 ^ n)]
    · have hne : (2 : Int) ^ n ≠ 0 := by positivity
      push_cast [hpos]
      rw [show (2 : Int) ^ w * (2 ^ n - 1) + a = a - 2 ^ w + 2 ^ n * 2 ^ w by ring, Int.add_mul_ediv_left _ _ hne,
        Int.add_emod_right]
    · intro j hj
      rw [Nat.testBit_div_two_pow, Nat.testBit_two_pow_mul_add _ ha]
      by_cases hlt : j + n < w
      · rw [if_pos hlt, min_eq_left (by omega)]
      · rw [if_neg hlt, min_eq_right (by omega), htop, decide_eq_true (not_lt.1 hneg), Nat.testBit_two_pow_sub_one]
        exact decide_eq_true (by omega)

omit hw in
/-- Bits of a rotation to the right. -/
theorem testBit_rotate {n : Nat} (hn : n < w) {j : Nat} (hj : j < w) :
    (a / 2 ^ n + a * 2 ^ (w - n)).testBit j = a.testBit ((j + n) % w) := by
  have hlow : a / 2 ^ n < 2 ^ (w - n) := by
    refine Nat.div_lt_of_lt_mul ?_
    rwa [← Nat.pow_add, Nat.add_sub_cancel' hn.le]
  rw [Nat.add_comm, Nat.mul_comm, Nat.testBit_two_pow_mul_add _ hlow]
  split
  · rw [Nat.testBit_div_two_pow, Nat.mod_eq_of_lt (by omega)]
  · rw [Nat.mod_eq_sub_mod (by omega), Nat.mod_eq_of_lt (by omega)]
    congr 1
    omega

end

section
variable {i : Instr} {s : State} {fd fa fb : BitVec 5} {fmt : BitVec 4} {bc : BitVec 2} {g : Nat → Nat → Nat → Int}
  (hfd : s.Plain fd) (hfa : s.Plain fa)
include hfd hfa

/-- An integer operation of two registers: its result modulo 2^w. -/
theorem entersPlain_of_vint_two (hfb : s.Plain fb) (hexec : exec i s = .next (s.vint fd fmt (src2 fa fb fmt.toNat bc) g)) {v : Int}
    (hv : g (fmtBits fmt.toNat) (codeIn s fmt.toNat fa) (codeIn s fmt.toNat fb) % 2 ^ fmtBits fmt.toNat = v % 2 ^ fmtBits fmt.toNat) :
    EntersPlain i s (occOne s) (some (fd, elemWord (v % 2 ^ fmtBits fmt.toNat).toNat)) none ⟨0#5, s.cur.rseq⟩ := by
  have h := entersPlain_of_vecMap_two hfd hfa hfb hexec
  simp only [List.getD_cons_zero, List.getD_cons_succ, Nat.mod_eq_of_lt (codeIn_lt s fmt.toNat _)] at h
  rwa [hv] at h

theorem entersPlain_of_vint_one (hexec : exec i s = .next (s.vint fd fmt (src1 fa fmt.toNat) g)) {v : Int}
    (hv : g (fmtBits fmt.toNat) (codeIn s fmt.toNat fa) 0 % 2 ^ fmtBits fmt.toNat = v % 2 ^ fmtBits fmt.toNat) :
    EntersPlain i s (occOne s) (some (fd, elemWord (v % 2 ^ fmtBits fmt.toNat).toNat)) none ⟨0#5, s.cur.rseq⟩ := by
  have h := entersPlain_of_vecMap_one hfd hfa hexec
  simp only [List.getD_cons_zero, List.getD_cons_succ, List.getD_nil, Nat.zero_mod, Nat.mod_eq_of_lt (codeIn_lt s fmt.toNat _)] at h
  rwa [hv] at h

end

theorem vectorIntegers : Says.VectorIntegers := by
  intro s fd fa fb fmt bc hfmt w a b x y lo hi sat bits n ops hplain
  obtain ⟨hfd, hfa, hfb⟩ : s.Plain fd ∧ s.Plain fa ∧ s.Plain fb := by simpa using hplain
  have hw : 0 < w := by obtain rfl | rfl := hfmt <;> decide
  have ha : a < 2 ^ w := codeIn_lt s _ fa
  have hb : b < 2 ^ w := codeIn_lt s _ fb
  have hx : sgn w a = x := sgn_eq_bmod hw ha
  have hy : sgn w b = y := sgn_eq_bmod hw hb
  have hn : n < w := Nat.mod_lt _ hw
  have two {i : Instr} {g : Nat → Nat → Nat → Int} (hexec : exec i s = .next (s.vint fd fmt (src2 fa fb fmt.toNat bc) g)) {v : Int}
      (hv : g w a b % 2 ^ w = v % 2 ^ w) : EntersPlain i s (occOne s) (some (fd, elemWord (v % 2 ^ w).toNat)) none ⟨0#5, s.cur.rseq⟩ :=
    entersPlain_of_vint_two hfd hfa hfb hexec hv
  have bitwise {m : Nat} {p : Nat → Bool} (h : ∀ j < w, m.testBit j = p j) : (m : Int) % 2 ^ w = bits p % 2 ^ w :=
    cast_emod_eq_sumBits h
  simp only [ops, List.forall_mem_cons, List.not_mem_nil, false_imp_iff, implies_true, and_true]
  refine ⟨two rfl ?_, two rfl ?_, two rfl ?_, two rfl ?_, two rfl ?_, two rfl ?_, two rfl ?_, two rfl ?_, two rfl ?_, two rfl rfl,
    two rfl (bitwise ?_), two rfl (bitwise ?_), two rfl (bitwise ?_), two rfl (bitwise ?_),
    entersPlain_of_vint_one hfd hfa rfl (bitwise ?_), two rfl (bitwise ?_), two rfl (bitwise ?_), two rfl ?_, two rfl (bitwise ?_)⟩
  · rw [hx, hy]
  · rw [hx, hy]
  · rw [hx, hy, satS_eq_clamp]
  · rw [hx, hy, satS_eq_clamp]
  · rw [hx, hy]
  · rw [hx, hy]
  · rw [hx, hy]
    congr 1
    omega
  · rw [hx, hy]
  · rw [hx, hy, Int.fdiv_eq_ediv_of_nonneg _ (by positivity)]
  · exact fun j _ => Nat.testBit_and a b j
  · exact fun j _ => Nat.testBit_or a b j
  · exact fun j _ => Nat.testBit_xor a b j
  · intro j hj
    rw [Nat.testBit_and, Nat.sub_right_comm, Nat.sub_sub, Nat.testBit_two_pow_sub_succ hb, decide_eq_true hj, Bool.true_and]
  · intro j hj
    rw [Nat.sub_right_comm, Nat.sub_sub, Nat.testBit_two_pow_sub_succ ha, decide_eq_true hj, Bool.true_and]
  · exact fun j _ => Nat.testBit_mul_two_pow a j n
  · exact fun j _ => Nat.testBit_div_two_pow a j
  · exact sgn_div_emod hw ha n hn
  · exact fun j hj => testBit_rotate ha hn hj

/-! ### Rounding the value of a code gives the code back -/

theorem FVal.isNaN_iff {x : FVal} : x.isNaN = true ↔ x = .nan := by
  cases x <;> simp [FVal.isNaN]

section
variable {f eb fb bias : Nat} (h : IsFlt f eb fb bias)
include h

/-- Codes of one sign and one magnitude are one code. -/
theorem IsFlt.code_eq {x : Nat} (hx : x < 2 ^ fmtBits f) {w : Dy} (hw : valueOf f x = .fin w) {k : Nat}
    (hmag : w.mag = codeMag fb bias k) : x = signCode f w.neg + k := by
  rw [h.bits] at hx
  obtain ⟨w', hw', hneg, -, hmag', -⟩ := h.valueOf_fin hx (h.le_maxCode hx hw)
  obtain rfl : w' = w := by simpa [hw'] using hw
  have hk := codeMag_strictMono.injective (hmag'.symm.trans hmag)
  rw [hneg, ← hk]
  exact h.eq_signCode_add hx

/-- A value of the format is exact in every mode. -/
theorem IsFlt.roundTo_fin {x : Nat} (hx : x < 2 ^ fmtBits f) {w : Dy} (hw : valueOf f x = .fin w) (mode : Nat) (sat : Bool) (c : RC) :
    roundTo f mode sat (.fin w) c = (x, c) := by
  have hx' := hx
  rw [h.bits] at hx'
  obtain ⟨w', hw', -, hmore, hmag, -⟩ := h.valueOf_fin hx' (h.le_maxCode hx' hw)
  obtain rfl : w' = w := by simpa [hw'] using hw
  rw [h.code_eq hx hw hmag, h.roundTo_eq]
  by_cases h0 : w'.m = 0
  · have hzero : codeMag fb bias (x % 2 ^ (eb + fb)) = codeMag fb bias 0 := by
      rw [codeMag_zero, ← hmag, Dy.mag, h0, Nat.cast_zero, zero_mul]
    rw [codeMag_strictMono.injective hzero]
    simp only [roundFlt, h.params, h0, if_true, Nat.add_zero]
  · obtain ⟨k, ⟨heq, hfin, -⟩ | ⟨hlo, hhi, -⟩⟩ := h.roundFlt_fin mode sat hmore h0 c
    · rw [hmag] at heq
      obtain rfl := codeMag_strictMono.injective heq
      exact hfin (h.le_maxCode hx' hw)
    · rw [hmag] at hlo hhi
      have h1 := codeMag_strictMono.lt_iff_lt.1 hlo
      have h2 := codeMag_strictMono.lt_iff_lt.1 hhi
      omega

theorem IsFlt.roundTo_inf (hinf : hasInf f = true) (neg : Bool) (mode : Nat) (sat : Bool) (c : RC) :
    roundTo f mode sat (.inf neg) c = (signCode f neg + infCode f, c) := by
  rw [h.roundTo_eq]
  simp only [roundFlt, h.params, hinf, if_true]

theorem IsFlt.roundTo_nan (hne : f ≠ 5) (mode : Nat) (sat : Bool) (c : RC) : roundTo f mode sat .nan c = (canonNaN f, c) := by
  rw [h.roundTo_eq]
  simp only [roundFlt, h.params, if_neg hne]

/-- An infinity has one code of each sign. -/
theorem IsFlt.code_of_inf {x : Nat} (hx : x < 2 ^ fmtBits f) {neg : Bool} (hv : valueOf f x = .inf neg) :
    hasInf f = true ∧ x = signCode f neg + infCode f := by
  rw [h.bits] at hx
  obtain hle | hlt := Nat.lt_or_ge (maxCode f) (x % 2 ^ (eb + fb))
  · obtain hnan | ⟨neg', hinf, hhas, hcode⟩ := h.valueOf_special hx hle
    · simp [hv] at hnan
    · obtain rfl : neg' = neg := by simpa [hinf] using hv
      exact ⟨hhas, hcode⟩
  · obtain ⟨w, hw, -⟩ := h.valueOf_fin hx hlt
    simp [hv] at hw

/-- A value of the format that is no NaN rounds to its code, in every mode and without a flag. -/
theorem IsFlt.roundTo_valueOf {x : Nat} (hx : x < 2 ^ fmtBits f) (hnan : valueOf f x ≠ .nan) (mode : Nat) (sat : Bool) (c : RC) :
    roundTo f mode sat (valueOf f x) c = (x, c) := by
  cases hv : valueOf f x with
  | nan => exact absurd hv hnan
  | inf neg =>
    obtain ⟨hinf, hcode⟩ := h.code_of_inf hx hv
    rw [h.roundTo_inf hinf, ← hcode]
  | fin w => exact h.roundTo_fin hx hv mode sat c

end

/-! ### The order of the values (R185) -/

/-- The value in units of 2^u. -/
theorem ratOf_eq_units {v : Dy} {u : Int} (hu : u ≤ v.e) : ratOf v = v.units u * (2 : ℚ) ^ u := by
  obtain ⟨j, hj⟩ := Int.eq_ofNat_of_zero_le (sub_nonneg.2 hu)
  have hmag : v.mag = ((v.m * 2 ^ j : Nat) : ℚ) * (2 : ℚ) ^ u := by
    rw [Dy.mag, show v.e = j + u by omega, zpow_add₀ two_ne_zero, zpow_natCast]
    push_cast
    ring
  rw [ratOf_eq, hmag, Dy.units, hj, Int.toNat_natCast]
  cases v.neg
  · simp
  · simp

theorem fLess_asymm {a b : FVal} (h : fLess a b = true) : fLess b a = false := by
  match a, b with
  | .nan, _ => simp [fLess] at h
  | .inf _, .nan => rfl
  | .fin _, .nan => rfl
  | .inf s, .inf t => cases s <;> cases t <;> simp_all [fLess]
  | .inf s, .fin _ => simpa [fLess] using h
  | .fin _, .inf t => simpa [fLess] using h
  | .fin x, .fin y =>
    simp only [fLess, min_comm y.e x.e] at h ⊢
    split at h
    · next hz => rw [if_pos hz.symm]; simp_all
    · next hz =>
      rw [if_neg fun hz' => hz hz'.symm]
      simp_all [le_of_lt]

/-- Finite values neither of which is below the other are one number, of one sign if it is zero. -/
theorem ratOf_eq_of_not_fLess {x y : Dy} (h : fLess (.fin x) (.fin y) = false) (h' : fLess (.fin y) (.fin x) = false) :
    ratOf x = ratOf y ∧ (ratOf x = 0 → x.neg = y.neg) := by
  have hpos : (0 : ℚ) < (2 : ℚ) ^ min x.e y.e := by positivity
  simp only [fLess, min_comm y.e x.e] at h h'
  rw [ratOf_eq_units (min_le_left x.e y.e), ratOf_eq_units (min_le_right x.e y.e)]
  by_cases hz : x.units (min x.e y.e) = 0 ∧ y.units (min x.e y.e) = 0
  · rw [if_pos hz] at h
    rw [if_pos hz.symm] at h'
    rw [hz.1, hz.2]
    refine ⟨rfl, fun _ => ?_⟩
    cases hx : x.neg <;> cases hy : y.neg <;> simp_all
  · rw [if_neg hz] at h
    rw [if_neg fun hz' => hz hz'.symm] at h'
    have heq : x.units (min x.e y.e) = y.units (min x.e y.e) :=
      le_antisymm (not_lt.1 (of_decide_eq_false h')) (not_lt.1 (of_decide_eq_false h))
    refine ⟨by rw [heq], fun h0 => absurd ?_ hz⟩
    have hx : x.units (min x.e y.e) = 0 := by
      exact_mod_cast (mul_eq_zero.1 h0).resolve_right hpos.ne'
    exact ⟨hx, heq ▸ hx⟩

theorem neg_eq_of_ratOf_eq {x y : Dy} (h : ratOf x = ratOf y) (h0 : ratOf x ≠ 0) : x.neg = y.neg := by
  have hy0 : ratOf y ≠ 0 := h ▸ h0
  cases hx : x.neg <;> cases hy : y.neg
  · rfl
  · rw [ratOf_of_not_neg hx] at h h0
    rw [ratOf_of_neg hy] at h hy0
    exact absurd (by linarith [x.mag_nonneg, y.mag_nonneg]) h0
  · rw [ratOf_of_neg hx] at h h0
    rw [ratOf_of_not_neg hy] at h hy0
    exact absurd (by linarith [x.mag_nonneg, y.mag_nonneg]) h0
  · rfl

section
variable {f eb fb bias : Nat} (h : IsFlt f eb fb bias) {x y : Nat} (hx : x < 2 ^ fmtBits f) (hy : y < 2 ^ fmtBits f)
include h hx hy

/-- The order is total on the codes that are no NaN. -/
theorem IsFlt.code_eq_of_not_fLess (hxn : valueOf f x ≠ .nan) (hyn : valueOf f y ≠ .nan)
    (hl : fLess (valueOf f x) (valueOf f y) = false) (hl' : fLess (valueOf f y) (valueOf f x) = false) : x = y := by
  cases hvx : valueOf f x with
  | nan => exact absurd hvx hxn
  | inf s =>
    rw [hvx] at hl hl'
    cases hvy : valueOf f y with
    | nan => exact absurd hvy hyn
    | inf t =>
      rw [hvy] at hl hl'
      obtain rfl : s = t := by cases s <;> cases t <;> simp_all [fLess]
      rw [(h.code_of_inf hx hvx).2, (h.code_of_inf hy hvy).2]
    | fin w =>
      rw [hvy] at hl hl'
      cases s <;> simp [fLess] at hl hl'
  | fin v =>
    rw [hvx] at hl hl'
    cases hvy : valueOf f y with
    | nan => exact absurd hvy hyn
    | inf t =>
      rw [hvy] at hl hl'
      cases t <;> simp [fLess] at hl hl'
    | fin w =>
      rw [hvy] at hl hl'
      obtain ⟨hrat, hzero⟩ := ratOf_eq_of_not_fLess hl hl'
      have hneg : v.neg = w.neg := by
        by_cases h0 : ratOf v = 0
        · exact hzero h0
        · exact neg_eq_of_ratOf_eq hrat h0
      have hmag : v.mag = w.mag := by rw [← abs_ratOf, ← abs_ratOf, hrat]
      obtain ⟨k, -, hk⟩ := h.mag_of_finite hy hvy
      rw [h.code_eq hx hvx (hmag.trans hk), h.code_eq hy hvy hk, hneg]

end

/-- The code of a format's value, a NaN's being canonical. -/
theorem IsFlt.exactCode_valueOf {f eb fb bias : Nat} (h : IsFlt f eb fb bias) (hne : f ≠ 5) {x : Nat} (hx : x < 2 ^ fmtBits f) :
    exactCode f (valueOf f x) = if valueOf f x = .nan then canonNaN f else x := by
  rw [exactCode]
  split
  · next hnan => rw [hnan, h.roundTo_nan hne]
  · next hnan => rw [h.roundTo_valueOf hx hnan]

/-! ### Minima, maxima, signs, moves and selections (R185) -/

section
variable {f eb fb bias : Nat} (h : IsFlt f eb fb bias) (hne : f ≠ 5) {x y : Nat} (hx : x < 2 ^ fmtBits f) (hy : y < 2 ^ fmtBits f)
include h hne hx hy

/-- The code that VMAX gives. -/
theorem IsFlt.exactCode_max : exactCode f (fMinMax true (valueOf f x) (valueOf f y)) =
    if valueOf f x = .nan then (if valueOf f y = .nan then canonNaN f else y)
    else if valueOf f y = .nan then x else if fLess (valueOf f x) (valueOf f y) then y else x := by
  by_cases hxn : valueOf f x = .nan
  · simp only [hxn, if_true, fMinMax, h.exactCode_valueOf hne hy]
  · by_cases hyn : valueOf f y = .nan
    · rw [hyn, fMinMax, ← hyn]
      · simp only [h.exactCode_valueOf hne hx, hxn, hyn, if_false, if_true]
      · exact hxn
    · simp only [hxn, hyn, if_false]
      rw [fMinMax]
      · cases hl : fLess (valueOf f x) (valueOf f y)
        · simp [h.exactCode_valueOf hne hx, hxn]
        · simp [h.exactCode_valueOf hne hy, hyn]
      · exact hxn
      · exact hyn

/-- The code that VMIN gives: of two equal values either is the other. -/
theorem IsFlt.exactCode_min : exactCode f (fMinMax false (valueOf f x) (valueOf f y)) =
    if valueOf f x = .nan then (if valueOf f y = .nan then canonNaN f else y)
    else if valueOf f y = .nan then x else if fLess (valueOf f y) (valueOf f x) then y else x := by
  by_cases hxn : valueOf f x = .nan
  · simp only [hxn, if_true, fMinMax, h.exactCode_valueOf hne hy]
  · by_cases hyn : valueOf f y = .nan
    · rw [hyn, fMinMax, ← hyn]
      · simp only [h.exactCode_valueOf hne hx, hxn, hyn, if_false, if_true]
      · exact hxn
    · simp only [hxn, hyn, if_false]
      rw [fMinMax]
      · cases hl : fLess (valueOf f x) (valueOf f y)
        · cases hl' : fLess (valueOf f y) (valueOf f x)
          · simp [h.exactCode_valueOf hne hy, hyn, h.code_eq_of_not_fLess hx hy hxn hyn hl hl']
          · simp [h.exactCode_valueOf hne hy, hyn]
        · simp [h.exactCode_valueOf hne hx, hxn, fLess_asymm hl]
      · exact hxn
      · exact hyn

omit hne hy in
/-- The sign bit of a code. -/
theorem IsFlt.testBit_sign : x.testBit (fmtBits f - 1) = decide (2 ^ (fmtBits f - 1) ≤ x) := by
  rw [h.bits, Nat.pow_succ] at hx
  rw [Nat.testBit_eq_decide_div_mod_eq, decide_eq_decide, h.bits, Nat.add_sub_cancel,
    Nat.mod_eq_of_lt (Nat.div_lt_of_lt_mul hx), ← Nat.one_le_div_iff (Nat.two_pow_pos _)]
  have := Nat.div_lt_of_lt_mul hx
  omega

end

/-- VMOV and VSEL make a NaN canonical. -/
theorem IsFlt.canonCode_eq {f eb fb bias : Nat} (h : IsFlt f eb fb bias) {x : Nat} (hx : x < 2 ^ fmtBits f) :
    canonCode f x = if valueOf f x = .nan then canonNaN f else x := by
  rw [canonCode, h.params, Nat.mod_eq_of_lt hx]
  simp only [Option.isSome_some, Bool.true_and, FVal.isNaN_iff]

/-! ### Comparing and classifying (R187) -/

/-- The table of the conditions, by whether a NaN is among the operands, whether they are equal and whether one is below. -/
theorem vcmpHolds_eq {cc : Nat} (hcc : cc < 8) (a b : FVal) :
    let un : Bool := decide (a = .nan ∨ b = .nan)
    let eq : Bool := fEq a b
    let lt : Bool := fLess a b && !eq
    vcmpHolds cc a b =
      [!un && eq, un || !eq, !un && lt, !un && (lt || eq), !un && !lt && !eq, !un && !lt, un, !un].getD cc false := by
  have hun : (a.isNaN || b.isNaN) = decide (a = .nan ∨ b = .nan) := by
    rw [Bool.eq_iff_iff, Bool.or_eq_true, FVal.isNaN_iff, FVal.isNaN_iff, decide_eq_true_iff]
  have table : ∀ cc < 8, ∀ un eq less : Bool, (if un = true then cc == 1 || cc == 6 else
      match cc with
      | 0 => eq
      | 1 => !eq
      | 2 => !eq && less
      | 3 => !eq && less || eq
      | 4 => !(!eq && less || eq)
      | 5 => !(!eq && less)
      | 6 => false
      | _ => true) = [!un && eq, un || !eq, !un && (less && !eq), !un && (less && !eq || eq), !un && !(less && !eq) && !eq,
        !un && !(less && !eq), un, !un].getD cc false := by decide
  intro un eq lt
  rw [vcmpHolds, hun]
  exact table cc hcc un eq (fLess a b)

/-- One bit of a mask of nine. -/
theorem two_pow_and_ne_zero (m : BitVec 32) {n : Nat} (hn : n < 9) : (BitVec.ofNat 32 (2 ^ n) &&& m &&& 511#32 != 0) = m.getLsbD n := by
  have hpow : BitVec.ofNat 32 (2 ^ n) = BitVec.twoPow 32 n := by
    apply BitVec.eq_of_toNat_eq
    rw [BitVec.toNat_ofNat, BitVec.toNat_twoPow]
  have h511 : (511#32).getLsbD n = true := by
    rw [BitVec.getLsbD_ofNat, show 511 = 2 ^ 9 - 1 from rfl, Nat.testBit_two_pow_sub_one, decide_eq_true hn,
      decide_eq_true (by omega), Bool.and_self]
  have hne : BitVec.twoPow 32 n ≠ 0 := fun h0 => by
    have hbit : (BitVec.twoPow 32 n).getLsbD n = (0#32).getLsbD n := congrArg (BitVec.getLsbD · n) h0
    simp [show n < 32 by omega] at hbit
  rw [hpow, BitVec.twoPow_and]
  cases m.getLsbD n
  · simp
  · rw [if_pos rfl, BitVec.twoPow_and, h511, if_pos rfl]
    simpa using hne

section
variable {s : State} {fd fa fb : BitVec 5} {fmt : BitVec 4} {pd : BitVec 3} (hfa : s.Plain fa)
include hfa

/-- VCMP without a mask stream writes its predicate. -/
theorem entersPlain_vcmp {sub : BitVec 4} {bc : BitVec 2} {imm : BitVec 32} (hfb : s.Plain fb) (himm : imm.getLsbD 0 = false) :
    EntersPlain (.vcmp sub fd fa fb fmt pd bc imm) s (occOne s) none
      (some (pd, vcmpHolds sub.toNat (valueOf fmt.toNat (codeIn s fmt.toNat fa)) (valueOf fmt.toNat (codeIn s fmt.toNat fb))))
      ⟨0#5, s.cur.rseq⟩ := by
  have hexec : exec (.vcmp sub fd fa fb fmt pd bc imm) s = .next (s.vecIssue
      { VDesc.plain fd fmt.toNat (src2 fa fb fmt.toNat bc) false with pd := pd, dst := none, wr := false } fun rows _ c =>
        let r := mapRows (fun r c => ((vcmpHolds sub.toNat (valueOf fmt.toNat (r.getD 0 0)) (valueOf fmt.toNat (r.getD 1 0))).toNat, c))
          rows c
        ⟨r.1, r.2, some (r.1.any fun v => v != 0)⟩) := by
    rw [exec_vcmp, execVcmp]
    simp only [himm, Bool.false_and, Bool.false_eq_true, if_false]
    rfl
  have h := entersPlain_of_vecIssue hexec (fun hn => absurd hn Bool.false_ne_true)
    (by simpa [VDesc.plain, src2] using ⟨hfa, hfb⟩) rfl (VDesc.plain_base fd fmt.toNat (src2 fa fb fmt.toNat bc) false)
  simp only [VDesc.plain, src2, List.map_cons, List.map_nil, mapRows, State.toNat_srcWord, List.getD_cons_zero, List.getD_cons_succ,
    Bool.false_eq_true, if_false, Nat.add_zero, List.any_cons, List.any_nil, Bool.or_false, Option.map_some] at h
  have hbit (b : Bool) : (BitVec.ofNat 32 b.toNat != 0) = b := by cases b <;> rfl
  rwa [hbit] at h

/-- VCLS writes the bit of the class, and to the predicate whether the mask has it. -/
theorem entersPlain_vcls {mask : BitVec 32} (hfd : s.Plain fd) :
    EntersPlain (.vcls fd fa fmt pd mask) s (occOne s) (some (fd, elemWord (2 ^ classBit fmt.toNat (codeIn s fmt.toNat fa))))
      (some (pd, mask.getLsbD (classBit fmt.toNat (codeIn s fmt.toNat fa)))) ⟨0#5, s.cur.rseq⟩ := by
  have h := entersPlain_of_vecIssue (i := .vcls fd fa fmt pd mask) (s := s) rfl (fun _ => hfd)
    (by simpa [VDesc.plain, src1] using hfa) rfl
    (VDesc.plain_base fd fmt.toNat (src1 fa fmt.toNat) false)
  simp only [VDesc.plain, src1, List.map_cons, List.map_nil, mapRows, State.toNat_srcWord, List.getD_cons_zero, List.isEmpty_cons,
    Bool.false_eq_true, if_false, if_true, Nat.add_zero, List.any_cons, List.any_nil, Bool.or_false, Option.map_some,
    List.getLast?_singleton] at h
  have hclass : classBit fmt.toNat (codeIn s fmt.toNat fa) < 9 := by
    unfold classBit
    repeat' split
    all_goals decide
  rwa [two_pow_and_ne_zero mask hclass] at h

end

theorem vectorSelect : Says.VectorSelect := by
  intro s sub fd fa fb fc fmt pd bc imm mask hsub hfmt himm f w x y a b canon sgn signed un eq lt c0 ops hplain
  obtain ⟨hfd, hfa, hfb, hfc⟩ : s.Plain fd ∧ s.Plain fa ∧ s.Plain fb ∧ s.Plain fc := by simpa using hplain
  have hx : x < 2 ^ fmtBits f := codeIn_lt s f fa
  have hy : y < 2 ^ fmtBits f := codeIn_lt s f fb
  have hne : f ≠ 5 := by
    intro h5
    rw [show fmt.toNat = 5 from h5] at hfmt
    simp at hfmt
  obtain ⟨eb, fb', bias, h⟩ : ∃ eb fb bias, IsFlt f eb fb bias := isFlt_of_mem (by
    simp only [List.mem_cons, List.not_mem_nil, or_false] at hfmt ⊢
    omega)
  have one {i g} := @entersPlain_of_vecMap_one i s fd f fa false g hfd hfa
  have two {i g} := @entersPlain_of_vecMap_two i s fd f fa fb false bc g hfd hfa hfb
  -- VSGN replaces the sign by a function of both signs
  have sgnOp {i : Instr} {g : Bool → Bool → Bool} (hexec : exec i s = .next (s.vsgn fd fa fb fmt bc g)) :
      EntersPlain i s (occOne s) (some (fd, elemWord (signed (g (sgn x) (sgn y))))) none c0 := by
    have henter := two hexec
    have hcond : ((valueOf f x).isNaN = true) = (a = .nan) := propext FVal.isNaN_iff
    simp only [List.getD_cons_zero, List.getD_cons_succ] at henter
    change EntersPlain i s _ (some (fd, elemWord (if (valueOf f x).isNaN = true then canonNaN f else
      x % 2 ^ (fmtBits f - 1) + signCode f (g (x.testBit (fmtBits f - 1)) (y.testBit (fmtBits f - 1)))))) _ _ at henter
    simp only [hcond, h.testBit_sign hx, h.testBit_sign hy] at henter
    exact henter
  have hsel : EntersPlain (.vsel fd fa fb fc fmt bc) s (occOne s)
      (some (fd, elemWord (if (s.vf fc).getLsbD 0 then canon x else canon y))) none c0 := by
    have henter := entersPlain_of_vecMap (i := .vsel fd fa fb fc fmt bc) (s := s) rfl hfd
      (by simpa [VDesc.plain, src2] using ⟨hfa, hfb, hfc⟩) rfl rfl (VDesc.plain_base ..) rfl
    simp only [VDesc.plain, src2, List.cons_append, List.nil_append, List.map_cons, List.map_nil, State.toNat_srcWord,
      List.getD_cons_zero, List.getD_cons_succ] at henter
    have hbit : (codeIn s 6 fc).testBit 0 = (s.vf fc).getLsbD 0 := Nat.testBit_mod_two_pow _ 8 0
    rw [hbit, apply_ite (canonCode f), h.canonCode_eq hx, h.canonCode_eq hy] at henter
    exact henter
  refine ⟨?_, ?_, entersPlain_vcls hfa hfd⟩
  · simp only [ops, List.forall_mem_cons, List.not_mem_nil, false_imp_iff, implies_true, and_true]
    refine ⟨?_, ?_, (sgnOp (i := .vsgnCpy fd fa fb fmt bc) rfl :), (sgnOp (i := .vsgnNeg fd fa fb fmt bc) rfl :),
      (sgnOp (i := .vsgnXor fd fa fb fmt bc) rfl :), ?_, hsel⟩
    · rw [← h.exactCode_min hne hx hy]
      exact (two (i := .vmin fd fa fb fmt bc) rfl :)
    · rw [← h.exactCode_max hne hx hy]
      exact (two (i := .vmax fd fa fb fmt bc) rfl :)
    · rw [show canon x = canonCode f x from (h.canonCode_eq hx).symm]
      exact (one (i := .vmov fd fa fmt) rfl :)
  · have hcmp := entersPlain_vcmp (sub := sub) (pd := pd) (fd := fd) (fmt := fmt) (bc := bc) hfa hfb himm
    rwa [vcmpHolds_eq hsub] at hcmp

theorem vectorClasses : Says.VectorClasses := by
  intro f code hf hcode
  obtain ⟨eb, fb, bias, h⟩ := isFlt_of_mem (show f ∈ [0, 1, 2, 3, 4, 5, 11] by
    simp only [List.mem_cons, List.not_mem_nil, or_false] at hf ⊢
    omega)
  have hbits := h.bits
  cases hv : valueOf f code with
  | nan => simp [classBit, hv]
  | inf neg => cases neg <;> simp [classBit, hv]
  | fin w =>
    rw [hbits] at hcode
    obtain ⟨w', hw', -, -, hmag, hsub⟩ := h.valueOf_fin hcode (h.le_maxCode hcode hv)
    obtain rfl : w' = w := by simpa [hw'] using hv
    have hclass : classBit f code = if w'.m = 0 then (if w'.neg then 3 else 4)
        else if w'.m < 2 ^ fb then (if w'.neg then 2 else 5) else (if w'.neg then 1 else 6) := by
      simp only [classBit, hv, h.params]
    -- a magnitude below the smallest normal one is that of a subnormal code
    have hnormal : w'.m < 2 ^ fb ↔ |ratOf w'| < (2 : ℚ) ^ (1 - (bias : Int)) := by
      have hpow := codeMag_binade (bias := bias) (E := 0) (q := 2 ^ fb) (Nat.pow_le_pow_right (by decide) (Nat.le_succ fb))
        (.inl rfl) (u := 1 - (bias : Int) - fb) (by simp)
      have hsmall : ((2 ^ fb : Nat) : ℚ) * (2 : ℚ) ^ (1 - (bias : Int) - fb) = (2 : ℚ) ^ (1 - (bias : Int)) := by
        push_cast
        rw [← zpow_natCast, ← zpow_add₀ two_ne_zero]
        ring_nf
      rw [hsub, abs_ratOf, hmag, ← hsmall, ← hpow, codeMag_strictMono.lt_iff_lt, Nat.zero_mul, Nat.zero_add]
    have hrange : 1 ≤ classBit f code ∧ classBit f code ≤ 6 := by
      rw [hclass]
      repeat' split
      all_goals decide
    have hother {n : Nat} {x : FVal} (hn : n = 0 ∨ 6 < n) (hx : x ≠ .fin w') : classBit f code = n ↔ FVal.fin w' = x :=
      iff_of_false (by omega) fun h => hx h.symm
    refine ⟨hother (by decide) (by simp), hother (by decide) (by simp), hother (by decide) (by simp), fun v hfin => ?_⟩
    obtain rfl : w' = v := by simpa using hfin
    have hparams {P : Nat → Prop} (hP : P bias) (eb' fb' bias' : Nat) (hp : fltParams f = some (eb', fb', bias')) : P bias' := by
      rw [h.params] at hp
      obtain ⟨-, -, rfl⟩ : eb = eb' ∧ fb = fb' ∧ bias = bias' := by simpa using hp
      exact hP
    have hsubnormal : classBit f code = 2 ∨ classBit f code = 5 ↔ w'.m ≠ 0 ∧ |ratOf w'| < (2 : ℚ) ^ (1 - (bias : Int)) := by
      rw [hclass, ← hnormal]
      by_cases h0 : w'.m = 0 <;> by_cases hs : w'.m < 2 ^ fb <;> cases w'.neg <;> simp [h0, hs]
    refine ⟨?_, ?_, hparams hsubnormal, ?_⟩
    all_goals
      rw [hclass]
      by_cases h0 : w'.m = 0 <;> by_cases hs : w'.m < 2 ^ fb <;> cases w'.neg <;> simp [h0, hs]

/-! ### Reductions (R189) -/

section
variable {op m init : Nat} (hinit : ∀ c, redStep op m init (valueOf 0 init) c = (init, c))
include hinit

/-- Lanes that hold the initial value combine to it. -/
theorem redLevel_replicate (n : Nat) (c : RC) : redLevel op m (List.replicate (2 * n) init) c = (List.replicate n init, c) := by
  induction n with
  | zero => rfl
  | succ n ih => simp only [Nat.mul_succ, List.replicate_succ, redLevel, hinit, ih]

theorem redLevel_cons_replicate (x n : Nat) (c : RC) :
    redLevel op m (x :: List.replicate (2 * n + 1) init) c =
      ((redStep op m x (valueOf 0 init) c).1 :: List.replicate n init, (redStep op m x (valueOf 0 init) c).2) := by
  simp only [List.replicate_succ, redLevel, redLevel_replicate hinit]

/-- The tree over one lane in use: the other lanes are idle, and where the first combination with an idle lane has settled the
others change nothing. -/
theorem redTree_cons_replicate (x : Nat) (c : RC)
    (hfix : ∀ c', redStep op m (redStep op m x (valueOf 0 init) c).1 (valueOf 0 init) c' = ((redStep op m x (valueOf 0 init) c).1, c')) :
    redTree op m 4 (x :: List.replicate 15 init, c) = ([(redStep op m x (valueOf 0 init) c).1], (redStep op m x (valueOf 0 init) c).2) := by
  simp only [redTree, redLevel_cons_replicate hinit x 7, redLevel_cons_replicate hinit _ 3, redLevel_cons_replicate hinit _ 1,
    redLevel_cons_replicate hinit _ 0, hfix, List.replicate_zero]

end

theorem valueOf_mod (f code : Nat) : valueOf f (code % 2 ^ fmtBits f) = valueOf f code := by
  simp only [valueOf, Nat.mod_mod]

/-- A value of the sign and magnitude of a code is exact. -/
theorem IsFlt.roundTo_of_mag {f eb fb bias : Nat} (h : IsFlt f eb fb bias) {v : Dy} (hmore : v.more = false) (h0 : v.m ≠ 0) {k : Nat}
    (hk : k ≤ maxCode f) (hmag : v.mag = codeMag fb bias k) (mode : Nat) (sat : Bool) (c : RC) :
    roundTo f mode sat (.fin v) c = (signCode f v.neg + k, c) := by
  rw [h.roundTo_eq]
  obtain ⟨j, ⟨heq, hfin, -⟩ | ⟨hlo, hhi, -⟩⟩ := h.roundFlt_fin mode sat hmore h0 c
  · obtain rfl := codeMag_strictMono.injective (heq.symm.trans hmag)
    exact hfin hk
  · rw [hmag] at hlo hhi
    have h1 := codeMag_strictMono.lt_iff_lt.1 hlo
    have h2 := codeMag_strictMono.lt_iff_lt.1 hhi
    omega

/-! ### Sums -/

theorem valueOf_fp32_zero (neg : Bool) : valueOf 0 (signCode 0 neg) = .fin ⟨neg, 0, -149, false⟩ := by
  cases neg <;> decide

/-- The sum with +0 of a value that is zero, and of one that is not. -/
theorem fAdd_zero_right (m : Nat) (v : Dy) (c : RC) : fAdd m (.fin v) (.fin ⟨false, 0, -149, false⟩) c =
    (if v.m = 0 then .zero (if v.neg = false then v.neg else decide (m = 2))
      else .fin ⟨v.neg, (v.units (min v.e (-149))).natAbs, min v.e (-149), false⟩, c) := by
  have hpos (n : Nat) : 0 < 2 ^ n := Nat.two_pow_pos n
  have hzero : (⟨false, 0, -149, false⟩ : Dy).units (min v.e (-149)) = 0 := by simp [Dy.units]
  have hunits : v.units (min v.e (-149)) = 0 ↔ v.m = 0 := by
    rw [Dy.units]
    have := hpos (v.e - min v.e (-149)).toNat
    cases v.neg <;> simp
  have hneg (h0 : v.m ≠ 0) : decide (v.units (min v.e (-149)) < 0) = v.neg := by
    have hlt : 0 < v.m * 2 ^ (v.e - min v.e (-149)).toNat := Nat.mul_pos (Nat.pos_of_ne_zero h0) (hpos _)
    rw [Dy.units]
    cases v.neg
    · simp
    · simpa using (Nat.cast_pos.2 hlt : (0 : Int) < _)
  simp only [fAdd, hzero, add_zero, hunits]
  by_cases h0 : v.m = 0
  · simp [h0]
  · simp [h0, hneg h0]

theorem mag_units (v : Dy) (e : Int) : (⟨v.neg, (v.units (min v.e e)).natAbs, min v.e e, false⟩ : Dy).mag = v.mag := by
  rw [← abs_ratOf v, ratOf_eq_units (min_le_left v.e e), abs_mul, abs_of_pos (show (0 : ℚ) < 2 ^ min v.e e by positivity), Dy.mag]
  simp

/-- What adding +0 to a lane of FP32 gives: the lane itself, a NaN made canonical and a zero with the sign of the mode. -/
theorem redStep_sum_zero (m x : Nat) (c : RC) : redStep 0 m x (valueOf 0 0) c = (match valueOf 0 x with
    | .nan => canonNaN 0
    | .inf neg => signCode 0 neg + infCode 0
    | .fin v => if v.m = 0 then signCode 0 (if v.neg = false then v.neg else decide (m = 2)) else x % 2 ^ fmtBits 0, c) := by
  have hzero : valueOf 0 0 = .fin ⟨false, 0, -149, false⟩ := valueOf_fp32_zero false
  have hx : x % 2 ^ fmtBits 0 < 2 ^ fmtBits 0 := Nat.mod_lt _ (Nat.two_pow_pos _)
  simp only [redStep, hzero]
  cases hv : valueOf 0 x with
  | nan => exact isFlt_fp32.roundTo_nan (by decide) m false c
  | inf neg => exact isFlt_fp32.roundTo_inf rfl neg m false c
  | fin v =>
    rw [fAdd_zero_right]
    by_cases h0 : v.m = 0
    · simp only [if_pos h0, FVal.zero, isFlt_fp32.roundTo_eq, roundFlt, isFlt_fp32.params]
      rfl
    · rw [← valueOf_mod] at hv
      obtain ⟨k, hk, hmag⟩ := isFlt_fp32.mag_of_finite hx hv
      have hm : (⟨v.neg, (v.units (min v.e (-149))).natAbs, min v.e (-149), false⟩ : Dy).m ≠ 0 := by
        rw [← Dy.mag_pos_iff, mag_units, Dy.mag_pos_iff]
        exact h0
      simp only [if_neg h0]
      rw [isFlt_fp32.roundTo_of_mag rfl hm hk ((mag_units v _).trans hmag), ← isFlt_fp32.code_eq hx hv hmag]

/-- Adding +0 a second time changes nothing. -/
theorem redStep_sum_settles (m x : Nat) (c c' : RC) :
    redStep 0 m (redStep 0 m x (valueOf 0 0) c).1 (valueOf 0 0) c' = ((redStep 0 m x (valueOf 0 0) c).1, c') := by
  have hnan : valueOf 0 (canonNaN 0) = .nan := by decide
  rw [redStep_sum_zero m x]
  cases hv : valueOf 0 x with
  | nan =>
    simp only []
    rw [redStep_sum_zero, hnan]
  | inf neg =>
    simp only []
    rw [redStep_sum_zero, isFlt_fp32.valueOf_infCode rfl]
  | fin v =>
    by_cases h0 : v.m = 0
    · simp only [if_pos h0]
      rw [redStep_sum_zero, valueOf_fp32_zero]
      cases v.neg <;> simp
    · simp only [if_neg h0]
      rw [redStep_sum_zero, valueOf_mod, hv]
      simp only [if_neg h0, Nat.mod_mod]

/-! ### Minima and maxima -/

/-- The reduction that takes the minimum or the maximum. -/
def pickOp (mx : Bool) : Nat := if mx then 2 else 1

theorem redStep_pick (mx : Bool) (m lane : Nat) (x : FVal) (c : RC) :
    redStep (pickOp mx) m lane x c = (exactCode 0 (fMinMax mx (valueOf 0 lane) x), c) := by
  cases mx <;> rfl

theorem valueOf_redInit (mx : Bool) : valueOf 0 (redInit (pickOp mx)) = .inf mx := by
  cases mx <;> decide

theorem exactCode_inf (mx : Bool) : exactCode 0 (.inf mx) = redInit (pickOp mx) := by
  cases mx <;> rfl

/-- The infinity of an idle lane is above every value, or below. -/
theorem fMinMax_inf (mx : Bool) (v : FVal) : fMinMax mx v (.inf mx) = if v = .nan then .inf mx else v := by
  cases v with
  | nan => rfl
  | inf s => cases s <;> cases mx <;> rfl
  | fin w => cases mx <;> simp [fMinMax, fLess]

theorem redStep_pick_settles (mx : Bool) (m x : Nat) (c c' : RC) :
    redStep (pickOp mx) m (redStep (pickOp mx) m x (.inf mx) c).1 (.inf mx) c' = ((redStep (pickOp mx) m x (.inf mx) c).1, c') := by
  have hx : x % 2 ^ fmtBits 0 < 2 ^ fmtBits 0 := Nat.mod_lt _ (Nat.two_pow_pos _)
  simp only [redStep_pick, fMinMax_inf]
  by_cases hnan : valueOf 0 x = .nan
  · simp only [if_pos hnan, exactCode_inf, valueOf_redInit, reduceCtorEq, if_false]
  · have hcode : exactCode 0 (valueOf 0 x) = x % 2 ^ fmtBits 0 := by
      rw [← valueOf_mod] at hnan ⊢
      rw [isFlt_fp32.exactCode_valueOf (by decide) hx, if_neg hnan]
    simp only [if_neg hnan, hcode, valueOf_mod]

/-! ### The reductions -/

section
variable {op m init : Nat} (hinit : ∀ c, redStep op m init (valueOf 0 init) c = (init, c))
  (hsettle : ∀ x c c', redStep op m (redStep op m x (valueOf 0 init) c).1 (valueOf 0 init) c' =
    ((redStep op m x (valueOf 0 init) c).1, c'))
include hinit hsettle

/-- One row goes to lane 0, and lane 0 then meets the idle lanes. -/
theorem redTree_redRows_one (step : Nat → List Nat → RC → Nat × RC) (row : List (BitVec 32)) (c : RC) :
    let v := step init (row.map (·.toNat)) c
    let l := redTree op m 4 (redRows step 0 [row] (List.replicate 16 init) c)
    (l.1.headD 0, l.2) = redStep op m v.1 (valueOf 0 init) v.2 := by
  intro v l
  have hl : l = ([(redStep op m v.1 (valueOf 0 init) v.2).1], (redStep op m v.1 (valueOf 0 init) v.2).2) :=
    redTree_cons_replicate hinit v.1 v.2 (hsettle v.1 v.2)
  rw [hl]
  rfl

end

/-- What a reduction issues: one result of FP32, whatever the number of iterations. -/
def reduceDesc (fd : BitVec 5) (fm : Nat) (srcs : List Src) : VDesc :=
  { VDesc.plain fd fm srcs false with dst := some [0], count := false, extra := 4 }

/-- What a reduction computes, when `step` takes a row into its lane. -/
def reduceRes (op m : Nat) (step : Nat → List Nat → RC → Nat × RC) (rows : List (List (BitVec 32))) (_ : Bool) (c : RC) : VRes :=
  let l := redTree op m 4 (redRows step 0 rows (List.replicate 16 (redInit op)) c)
  ⟨[BitVec.ofNat 32 (l.1.headD 0)], l.2, none⟩

/-- A reduction over registers: the row meets the initial lane, and then the lanes that stayed idle (R189). -/
theorem entersPlain_of_reduceRes {i : Instr} {s : State} {op m fm : Nat} {step : Nat → List Nat → RC → Nat × RC} {fd : BitVec 5}
    {srcs : List Src} (hexec : exec i s = .next (s.vecIssue (reduceDesc fd fm srcs) (reduceRes op m step)))
    (hinit : ∀ c, redStep op m (redInit op) (valueOf 0 (redInit op)) c = (redInit op, c))
    (hsettle : ∀ x c c', redStep op m (redStep op m x (valueOf 0 (redInit op)) c).1 (valueOf 0 (redInit op)) c' =
      ((redStep op m x (valueOf 0 (redInit op)) c).1, c'))
    (hfd : s.Plain fd) (hsrcs : ∀ x ∈ srcs, s.Plain x.r) :
    let v := step (redInit op) ((srcs.map s.srcWord).map (·.toNat)) ⟨0#5, s.cur.rseq⟩
    let r := redStep op m v.1 (valueOf 0 (redInit op)) v.2
    EntersPlain i s (occOne s + 4) (some (fd, elemWord r.1)) none r.2 := by
  intro v r
  have h := entersPlain_of_vecIssue hexec (fun _ => hfd) hsrcs rfl (VDesc.plain_base fd fm srcs false)
  have hr : r = _ := (redTree_redRows_one hinit hsettle step (srcs.map s.srcWord) ⟨0#5, s.cur.rseq⟩).symm
  rw [hr]
  exact h

theorem redStep_sum_init (m : Nat) (c : RC) : redStep 0 m (redInit 0) (valueOf 0 (redInit 0)) c = (redInit 0, c) := by
  have hzero : valueOf 0 0 = .fin ⟨false, 0, -149, false⟩ := valueOf_fp32_zero false
  exact (redStep_sum_zero m 0 c).trans (by rw [hzero]; rfl)

theorem redStep_pick_init (mx : Bool) (m : Nat) (c : RC) :
    redStep (pickOp mx) m (redInit (pickOp mx)) (valueOf 0 (redInit (pickOp mx))) c = (redInit (pickOp mx), c) := by
  rw [redStep_pick, valueOf_redInit, fMinMax_inf, if_neg (by simp), exactCode_inf]

theorem vectorReductions : Says.VectorReductions := by
  intro s fd fa fb fmt rnd bc f m a b c0 rd more pick ends ops hplain
  obtain ⟨hfd, hfa, hfb⟩ : s.Plain fd ∧ s.Plain fa ∧ s.Plain fb := by simpa using hplain
  have hsrc1 : ∀ x ∈ src1 fa f, s.Plain x.r := by simpa [src1] using hfa
  have hsrc2 : ∀ x ∈ src2 fa fb f bc, s.Plain x.r := by simpa [src2] using ⟨hfa, hfb⟩
  have hsum := entersPlain_of_reduceRes (i := .vredSum fd fa fmt rnd) (s := s) (m := m) (fm := f) (op := 0) rfl
    (redStep_sum_init m) (redStep_sum_settles m) hfd hsrc1
  have hdot := entersPlain_of_reduceRes (i := .vdot fd fa fb fmt rnd bc) (s := s) (m := m) (fm := f) (op := 0) rfl
    (redStep_sum_init m) (redStep_sum_settles m) hfd hsrc2
  have hpick (mx : Bool) (i : Instr) (hexec : exec i s = .next (s.reduce (pickOp mx) fd fmt rnd (src1 fa fmt.toNat))) :
      EntersPlain i s (occOne s + 4) (some (fd, elemWord (ends mx).1)) none (ends mx).2 := by
    have h := entersPlain_of_reduceRes hexec (redStep_pick_init mx m)
      (by rw [valueOf_redInit]; exact redStep_pick_settles mx m) hfd hsrc1
    simp only [src1, List.map_cons, List.map_nil, State.toNat_srcWord, redStep_pick, valueOf_redInit] at h
    exact h
  simp only [src1, src2, List.map_cons, List.map_nil, State.toNat_srcWord] at hsum hdot
  simp only [ops, List.forall_mem_cons, List.not_mem_nil, false_imp_iff, implies_true, and_true]
  exact ⟨hsum, hdot, hpick false _ rfl, hpick true _ rfl⟩

/-- Settles O43: each family of operations, over registers, enters the engine with the result of its rule. -/
theorem vectorArithmetic : Obligations.VectorArithmetic :=
  ⟨vectorFloat, vectorReductions, vectorSelect, vectorClasses, vectorIntegers⟩

end Sys2Proof.Machine
end

section
/-! PROOFS. V-operations over streams (R77, R178 to R181), their completion (R181, R337, R338), and the conversions, in registers
and on streams (R62, R63, R74 to R76). -/
namespace Sys2Proof.Machine

/-! ### A generator moves on (R176, R179) -/

/-- A search passes over a generator that it would not stop at, before or after. -/
theorem find?_insertKey {α : Type} {m : List (Nat × α)} {i : Nat} {g g' : α} {p : Nat × α → Bool} (hg : lookup m i = some g)
    (hp : p (i, g) = false) (hp' : p (i, g') = false) : (insertKey m i g').find? p = m.find? p := by
  induction m with
  | nil => simp [lookup] at hg
  | cons e m ih =>
    obtain ⟨j, v⟩ := e
    rw [insertKey]
    by_cases hlt : i < j
    · rw [if_pos hlt, List.find?_cons, hp']
    · rw [if_neg hlt]
      by_cases heq : i = j
      · subst heq
        obtain rfl : v = g := by simpa [lookup] using hg
        rw [if_pos rfl, List.find?_cons, List.find?_cons, hp, hp']
      · rw [if_neg heq, List.find?_cons, List.find?_cons, ih (by simpa [lookup, Ne.symm heq] using hg)]

/-- Between `s` and `t` generator `i` of the issuing core has gone from `g` to `g'`, and nothing else has changed. -/
structure State.Moves (s t : State) (i : Nat) (g g' : Gen) : Prop where
  pops : s.PopsAndDraws t s.cur.rseq
  gen : lookup t.curCore.gens i = some g'
  others : ∀ k, k ≠ i → lookup t.curCore.gens k = lookup s.curCore.gens k
  freg : g'.freg = g.freg
  streams : ∀ r : BitVec 5, r.toNat ≠ g.freg.toNat → t.streamOf r = s.streamOf r

section
variable {s t u : State} {i : Nat} {g g' g'' : Gen}

theorem State.Moves.refl (hg : lookup s.curCore.gens i = some g) : s.Moves s i g g :=
  ⟨.refl s, hg, fun _ _ => rfl, rfl, fun _ _ => rfl⟩

theorem State.Moves.trans (h : s.Moves t i g g') (h' : t.Moves u i g' g'') : s.Moves u i g g'' where
  pops := by
    have hpops := h.pops.trans h'.pops
    rwa [h.pops.cur] at hpops
  gen := h'.gen
  others k hk := (h'.others k hk).trans (h.others k hk)
  freg := h'.freg.trans h.freg
  streams r hr := (h'.streams r (by rwa [h.freg])).trans (h.streams r hr)

theorem State.Moves.cur (h : s.Moves t i g g') : t.cur = s.cur := h.pops.cur

theorem State.moves_setGen (hg : lookup s.curCore.gens i = some g) (hfreg : g'.freg = g.freg) :
    s.Moves (s.modCore s.iss.core fun k => k.setGen i g') i g g' := by
  have hpops := s.popsAndDraws_setGen i g'
  have hgens : (s.modCore s.iss.core fun k => k.setGen i g').curCore.gens = insertKey s.curCore.gens i g' := by
    show ((s.modCore s.iss.core _).core s.iss.core).gens = _
    rw [State.core_modCore_self]
    rfl
  refine ⟨hpops, ?_, fun k hk => ?_, hfreg, fun r hr => ?_⟩
  · rw [hgens, lookup_insertKey_self]
  · rw [hgens, lookup_insertKey_ne _ _ hk]
  · rw [State.streamOf, State.streamOf, Core.stream, Core.stream, Core.bound, Core.bound, hgens, hpops.iss, hpops.cur,
      find?_insertKey hg]
    · simp [hr.symm]
    · simp [hfreg, hr.symm]

end

/-! ### Popping elements at hand (R178, R179) -/

section
variable {s : State} {i : Nat} {g : Gen}

theorem State.pullOne_ahead {v : BitVec 32} {l : List Elem} (hg : lookup s.curCore.gens i = some g) (hahead : g.ahead = .ok v :: l)
    (hleft : 0 < g.left) : s.pullOne s.iss.core i = .ok (s.modCore s.iss.core fun k => k.setGen i g.popped) v := by
  have hg' : lookup (s.core s.iss.core).gens i = some g := hg
  simp only [State.pullOne, hg', State.nextElem, hahead, if_neg hleft.ne']

/-- The elements at hand are popped one to a row, beside the registers. -/
theorem State.pullRows_stream (regs vs : List (BitVec 32)) (hg : lookup s.curCore.gens i = some g)
    (hahead : g.ahead.take vs.length = vs.map Elem.ok) (hleft : vs.length ≤ g.left) :
    ∃ t, s.pullRows s.iss.core vs.length (.stream i :: regs.map Opd.reg) = .rows t (vs.map (· :: regs)) none ∧
      s.Moves t i g { g with pos := g.pos + vs.length, ahead := g.ahead.drop vs.length } := by
  induction vs generalizing s g with
  | nil => exact ⟨s, rfl, .refl hg⟩
  | cons v vs ih =>
    obtain ⟨l, hl⟩ : ∃ l, g.ahead = .ok v :: l := by
      cases ha : g.ahead with
      | nil => simp [ha] at hahead
      | cons e l =>
        rw [ha] at hahead
        exact ⟨l, by simpa using (List.cons.inj hahead).1⟩
    have hpos : 0 < g.left := Nat.lt_of_lt_of_le (Nat.succ_pos _) hleft
    have hmove := State.moves_setGen (g' := g.popped) hg rfl
    obtain ⟨t, hrows, hmoves⟩ := ih hmove.gen (by simpa [Gen.popped, hl] using hahead) (by
      simp only [Gen.popped, Gen.left, List.length_cons] at hleft ⊢
      omega)
    have hiss : (s.modCore s.iss.core fun k => k.setGen i g.popped).iss = s.iss := rfl
    rw [hiss] at hrows
    refine ⟨t, ?_, ?_⟩
    · simp only [List.length_cons, State.pullRows, State.pullRow, State.pullOne_ahead hg hl hpos, State.pullRow_regs, hrows,
        List.map_cons]
    · have h := hmove.trans hmoves
      simpa [Gen.popped, List.drop_drop, Nat.add_assoc, Nat.add_comm 1] using h

end

/-! ### Pushing results to a stream of the local window (R176, R180) -/

/-- A generator after the elements `out` were pushed to it. -/
def Gen.pushed (b : Gen) (out : List (BitVec 32)) (pc : Word) (seq : BitVec 16) : Gen :=
  { b with
    pos := b.pos + out.length
    pushes := b.pushes ++ (List.range out.length).map fun k =>
      ⟨b.pos + k, elemImage b.fmt (out.getD k 0#32), pc, seq, seq + 1#16⟩ }

theorem Gen.pushed_nil (b : Gen) (pc : Word) (seq : BitVec 16) : b.pushed [] pc seq = b := by
  simp [Gen.pushed]

theorem Gen.pushed_push (b : Gen) (v : BitVec 32) (vs : List (BitVec 32)) (pc : Word) (seq : BitVec 16) :
    (b.push v pc seq (seq + 1)).pushed vs pc seq = b.pushed (v :: vs) pc seq := by
  simp [Gen.pushed, Gen.push, List.range_succ_eq_map, Function.comp_def, Nat.add_assoc, Nat.add_comm 1]

theorem State.pushAll_local {s : State} {o : Nat} {b : Gen} (pc : Word) (seq : BitVec 16) (out : List (BitVec 32)) (n : Nat)
    (hb : lookup s.curCore.gens o = some b) (hglob : b.glob = false) (hfill : s.curCore.fill = none) (hleft : out.length ≤ b.left) :
    ∃ t, s.pushAll s.iss.core o pc seq n out = .done t (n + out.length) none ∧ s.Moves t o b (b.pushed out pc seq) := by
  induction out generalizing s b n with
  | nil => exact ⟨s, rfl, by rw [Gen.pushed_nil]; exact .refl hb⟩
  | cons v vs ih =>
    have hpos : b.left ≠ 0 := Nat.ne_of_gt (Nat.lt_of_lt_of_le (Nat.succ_pos _) hleft)
    have hmove := State.moves_setGen (g' := b.push v pc seq (seq + 1)) hb rfl
    obtain ⟨t, hpush, hmoves⟩ := ih (n + 1) hmove.gen hglob (by rw [hmove.pops.curCore]; exact hfill) (by
      simp only [Gen.push, Gen.left, List.length_cons] at hleft ⊢
      omega)
    have hb' : lookup (s.core s.iss.core).gens o = some b := hb
    have hfill' : (s.core s.iss.core).fill = none := hfill
    have hiss : (s.modCore s.iss.core fun k => k.setGen o (b.push v pc seq (seq + 1))).iss = s.iss := rfl
    rw [hiss] at hpush
    refine ⟨t, ?_, by rw [← Gen.pushed_push]; exact hmove.trans hmoves⟩
    simp only [State.pushAll, hb', if_neg hpos, State.spot, hglob, State.spotBank, hfill', hpush, List.length_cons,
      Option.isSome_none, Bool.not_false, if_true, Bool.false_eq_true, if_false]
    rw [Nat.add_right_comm, Nat.add_assoc]

/-! ### A V-operation from one stream to another (R178 to R181) -/

@[simp] theorem State.gens_modCur (s : State) (f : Thread → Thread) : (s.modCur f).curCore.gens = s.curCore.gens := by
  simp [State.curCore, State.modCur, State.modThread, State.setThread]

theorem State.streamOf_modCur_rseq (s : State) (w : Word) (r : BitVec 5) :
    (s.modCur fun t => { t with rseq := w }).streamOf r = s.streamOf r := by
  have hdraw := s.popsAndDraws_modCur w
  rw [State.streamOf, State.streamOf, Core.stream, Core.stream, Core.bound, Core.bound, State.gens_modCur, hdraw.iss, hdraw.cur]

/-- The stream of a register is a generator bound to it. -/
theorem State.freg_of_streamOf {s : State} {r : BitVec 5} {i : Nat} {g : Gen} (h : s.streamOf r = some (i, g)) :
    g.freg.toNat = r.toNat := by
  obtain ⟨e, he, hen⟩ := Option.bind_eq_some_iff.1 h
  have hp := List.find?_some he
  split at hen
  · obtain rfl := Option.some.inj hen
    simp only [Bool.and_eq_true, beq_iff_eq] at hp
    exact hp.1.2
  · simp at hen

/-- Streams of two generators have two registers. -/
theorem State.register_ne_of_streamOf {s : State} {r r' : BitVec 5} {i o : Nat} {g b : Gen} (h : s.streamOf r = some (i, g))
    (h' : s.streamOf r' = some (o, b)) (hio : i ≠ o) : r'.toNat ≠ g.freg.toNat := by
  intro heq
  have hreg : r' = r := BitVec.eq_of_toNat_eq (heq.trans (State.freg_of_streamOf h))
  rw [hreg, h] at h'
  exact hio (Prod.mk.inj (Option.some.inj h')).1

section
variable {s : State} {d : VDesc} {x : Src} {rest : List Src} {i o fi fo : Nat} {g b : Gen} {vs : List (BitVec 32)}

/-- An operation that pops from one generator and pushes to another, beside operands in registers. -/
theorem State.enters_vecRun (hsrcs : d.srcs = x :: rest) (hbc : x.bc = false) (hrest : ∀ y ∈ rest, s.streamOf y.r = none)
    (hdst : d.dst.isSome = true) (htells : d.tells = false) (hio : i ≠ o) (f : List (List (BitVec 32)) → Bool → RC → VRes) {n : Nat}
    (hfeeds : Feeds s x.r fi i g vs) (htakes : Takes s d.fd fo o b n)
    (hout : (f (vs.map (· :: rest.map s.srcWord)) false ⟨0, s.cur.rseq⟩).out.length ≤ n) :
    let r := f (vs.map (· :: rest.map s.srcWord)) false ⟨0, s.cur.rseq⟩
    s.Enters (s.vecRun d vs.length none f) (s.occupancy d vs.length) none (r.p.map fun v => (d.pd, v)) r.c none ∧
      Streamed s (s.vecRun d vs.length none f) i g vs.length o b r.out := by
  intro r
  obtain ⟨hsi, hgi, -, -, hahead, hleft⟩ := hfeeds
  obtain ⟨hso, hbo, -, hglob, -, hroom, hfill⟩ := htakes
  have hopds : d.srcs.map s.opdOf = .stream i :: (rest.map s.srcWord).map Opd.reg := by
    rw [hsrcs, List.map_cons, State.opdOf_regs (d := { d with srcs := rest }) hrest, State.opdOf, hsi]
    simp [hbc]
  obtain ⟨s1, hrows, hpop⟩ := State.pullRows_stream (rest.map s.srcWord) vs hgi hahead hleft
  have hdraw := s1.popsAndDraws_modCur r.c.rseq
  have hne := State.register_ne_of_streamOf hsi hso hio
  have hstream : (s1.modCur fun t => { t with rseq := r.c.rseq }).streamOf d.fd = some (o, b) := by
    rw [State.streamOf_modCur_rseq, hpop.streams _ hne, hso]
  have hpops := hpop.pops.trans hdraw
  obtain ⟨s3, hpush, hmove⟩ := State.pushAll_local (s := s1.modCur fun t => { t with rseq := r.c.rseq }) s.vpc s.curCore.seq r.out 0
    (o := o) (b := b) (by rw [State.gens_modCur, hpop.others o hio.symm, hbo]) hglob (by rw [hpops.curCore]; exact hfill)
    (hout.trans hroom)
  have hvpc : (s1.modCur fun t => { t with rseq := r.c.rseq }).vpc = s.vpc := by rw [State.vpc, hpops.iss]; rfl
  have hseq : (s1.modCur fun t => { t with rseq := r.c.rseq }).curCore.seq = s.curCore.seq := by rw [hpops.curCore]
  have hrseq : s1.cur.rseq = s.cur.rseq := by rw [hpop.cur]
  have heq : s.vecRun d vs.length none f = s3.enterVec d vs.length vs.length r none none := by
    have hlen : (vs.map (· :: rest.map s.srcWord)).length = vs.length := List.length_map _
    simp only [State.vecRun, hopds, hrows, cutRows, hdst, if_true, Option.isSome_none, hrseq]
    simp only [r] at hstream hpush hvpc hseq
    rw [hstream]
    simp only [hvpc, hseq, hpush, htells, Bool.false_eq_true, if_false, hlen, Option.isSome_none]
    rfl
  obtain ⟨henter, hgens⟩ := s3.enters_enterVec d vs.length vs.length r none none
  have hall : s.PopsAndDraws s3 r.c.rseq := by
    have h := hpops.trans hmove.pops
    rwa [hdraw.cur] at h
  rw [hall.occupancy, hall.cur] at henter
  rw [heq]
  refine ⟨hall.enters henter, ?_, ?_, fun k hki hko => ?_⟩
  · rw [hgens, hmove.others i hio, State.gens_modCur, hpop.gen]
  · rw [hgens, hmove.gen]
    rfl
  · rw [hgens, hmove.others k hko, State.gens_modCur, hpop.others k hki]

/-- The streams of an operation from one stream to another keep the rule of R180. -/
theorem State.vecBad_streams (hsrcs : d.srcs = x :: rest) (hrest : ∀ y ∈ rest, s.streamOf y.r = none) (hbad : d.bad = false)
    {l : List Nat} (hdst : d.dst = some l) (hfi : fi ∈ x.fmts) (hfo : fo ∈ l) {n : Nat} (hfeeds : Feeds s x.r fi i g vs)
    (htakes : Takes s d.fd fo o b n) : s.vecBad d = false := by
  obtain ⟨hsi, -, hrd, hfmt, -⟩ := hfeeds
  obtain ⟨hso, -, hwr, -, hfmt', -⟩ := htakes
  have hany : rest.any s.srcBad = false := List.any_eq_false.2 fun y hy => by simp [State.srcBad, hrest y hy]
  have hx : s.srcBad x = false := by simp [State.srcBad, hsi, hrd, hfmt, hfi]
  have hd : s.dstBad d.fd l = false := by simp [State.dstBad, hso, hwr, hfmt', hfo]
  rw [State.vecBad, hsrcs, hdst, hbad, List.any_cons, hany, hx, Option.any_some, hd]
  rfl

/-- Over streams the number of iterations is the least that remains (R178). -/
theorem State.vecIssue_streams (hsrcs : d.srcs = x :: rest) (hbc : x.bc = false) (hrest : ∀ y ∈ rest, s.streamOf y.r = none)
    (hbad : d.bad = false) {l : List Nat} (hdst : d.dst = some l) (hcount : d.count = true) (hfi : fi ∈ x.fmts) (hfo : fo ∈ l) {n : Nat}
    (hfeeds : Feeds s x.r fi i g vs) (htakes : Takes s d.fd fo o b n) (f : List (List (BitVec 32)) → Bool → RC → VRes) :
    s.vecIssue d f = s.vecRun d (min g.left b.left) none f := by
  have hbad := State.vecBad_streams hsrcs hrest hbad hdst hfi hfo hfeeds htakes
  obtain ⟨hsi, -⟩ := hfeeds
  obtain ⟨hso, -, -, hglob, -⟩ := htakes
  have hcounts : s.counts d.srcs = [g.left] := by
    have hregs : s.counts rest = [] := State.counts_regs (d := { d with srcs := rest }) hrest
    rw [hsrcs, State.counts, List.filterMap_cons, hsi]
    simp only [hbc, Bool.false_eq_true, if_false]
    exact congrArg _ hregs
  simp [State.vecIssue, hbad, hcounts, hdst, hcount, hso, hglob, leastOr1]

end

/-! ### Elements of streams (R178, R179, R181) -/

/-- A map that raises no flag and draws nothing gives the elements one by one. -/
theorem mapRows_pure (h : List Nat → Nat) (rows : List (List (BitVec 32))) (c : RC) :
    mapRows (fun r c => (h r, c)) rows c = (rows.map fun r => BitVec.ofNat 32 (h (r.map (·.toNat))), c) := by
  induction rows with
  | nil => rfl
  | cons r rows ih => rw [mapRows, ih, List.map_cons]

/-- An operation of base occupancy `d.base n` holds the stage that long, doubled from energy stage 3 on. -/
theorem State.occupancy_eq (s : State) (d : VDesc) (n : Nat) : s.occupancy d n = max 1 (d.base n) * occOne s + d.extra := by
  rw [State.occupancy, occOne]
  split <;> simp [Nat.mul_comm]

/-- An operation of one result per element, a stream and a register giving a stream: element k of the one gives element k of
the other. -/
theorem enters_of_vecMap_stream {x : Instr} {s : State} {fd fa fb : BitVec 5} {fmt : Nat} {bc : BitVec 2} {slow : Bool}
    {h : List Nat → Nat} {i o : Nat} {g b : Gen} {vs : List (BitVec 32)}
    (hexec : exec x s = .next (s.vecMap (VDesc.plain fd fmt (src2 fa fb fmt bc) slow) fun r c => (h r, c)))
    (hio : i ≠ o) (hfeeds : Feeds s fa fmt i g vs) (htakes : Takes s fd fmt o b vs.length) (hfb : s.Plain fb)
    (hlen : vs.length = min g.left b.left) :
    ∃ t, exec x s = .next t ∧
      s.Enters t (s.occupancy (VDesc.plain fd fmt (src2 fa fb fmt bc) slow) vs.length) none none ⟨0#5, s.cur.rseq⟩ none ∧
      Streamed s t i g vs.length o b (vs.map fun v => BitVec.ofNat 32 (h [v.toNat, codeIn s fmt fb])) := by
  have hrest : ∀ y ∈ [(⟨fb, [fmt], bc.getLsbD 0⟩ : Src)], s.streamOf y.r = none := by
    simpa using State.streamOf_of_plain hfb
  have hissue := State.vecIssue_streams (d := VDesc.plain fd fmt (src2 fa fb fmt bc) slow) (x := ⟨fa, [fmt], false⟩) rfl rfl hrest rfl
    rfl rfl (List.mem_singleton.2 rfl) (List.mem_singleton.2 rfl) hfeeds htakes
    (fun rows _ c => let r := mapRows (fun r c => (h r, c)) rows c; ⟨r.1, r.2, none⟩)
  have hrun := State.enters_vecRun (d := VDesc.plain fd fmt (src2 fa fb fmt bc) slow) (x := ⟨fa, [fmt], false⟩) rfl rfl hrest rfl rfl hio
    (fun rows _ c => let r := mapRows (fun r c => (h r, c)) rows c; ⟨r.1, r.2, none⟩) hfeeds htakes (by simp [mapRows_pure])
  rw [← hlen] at hissue
  refine ⟨_, hexec.trans (congrArg Host.Outcome.next hissue), ?_⟩
  simp only [mapRows_pure, List.map_map, Function.comp_def, List.map_cons, List.map_nil, State.toNat_srcWord] at hrun ⊢
  exact hrun

theorem vectorStreamElements : Says.VectorStreams := by
  intro s fd fa fb fmt bc i o g b vs hfmt hio hfeeds htakes hfb hlen w y r occ
  have hw : w = 8 ∨ w = 32 := by rcases hfmt with rfl | rfl <;> [left; right] <;> rfl
  have hpos : 0 < w := by omega
  have hpow : (0 : Int) < 2 ^ w := by positivity
  obtain ⟨t, hexec, henter, hstreamed⟩ := enters_of_vecMap_stream (x := .viaddAdd fd fa fb fmt bc)
    (h := fun r => ((sgn w (r.getD 0 0 % 2 ^ w) + sgn w (r.getD 1 0 % 2 ^ w)) % (2 ^ w : Int)).toNat) rfl hio hfeeds htakes hfb hlen
  refine ⟨t, _, hexec, ?_, List.length_map _, hstreamed, fun k hk => ?_⟩
  · have hrate : rateOf [fmt.toNat] = r := by rcases hfmt with rfl | rfl <;> rfl
    rw [State.occupancy_eq] at henter
    simpa [VDesc.plain, hrate, ceilDiv] using henter
  · have hmod (n : Nat) : sgn w (n % 2 ^ w) = Int.bmod n (2 ^ w) := by
      rw [sgn_eq_bmod hpos (Nat.mod_lt _ (Nat.two_pow_pos w)), Int.natCast_mod, Int.emod_bmod]
    have hle : (2 : Int) ^ w ≤ 2 ^ 32 := by rcases hw with hw | hw <;> norm_num [hw]
    simp only [List.getD_eq_getElem?_getD, List.getElem?_map, List.getElem?_eq_getElem hk, Option.map_some, Option.getD_some,
      List.getElem?_cons_zero, List.getElem?_cons_succ, hmod, BitVec.toNat_ofNat]
    have h0 := Int.emod_nonneg (Int.bmod (vs[k].toNat : Int) (2 ^ w) + y) hpow.ne'
    have h1 := Int.emod_lt_of_pos (Int.bmod (vs[k].toNat : Int) (2 ^ w) + y) hpow
    rw [Nat.mod_eq_of_lt (by omega), Int.toNat_of_nonneg h0]

/-! ### Streams bound wrongly (R77, R180) -/

section
variable {s : State} {d : VDesc} {x : Src}

/-- An operation that is refused enters the engine with its fault alone. -/
theorem late_of_vecRefuse {i : Instr} (hexec : exec i s = .next (s.vecRefuse d)) :
    ∃ t occ, exec i s = .next t ∧ s.Enters t occ none none ⟨0#5, s.cur.rseq⟩ (some (.vectorStream, 0#64, 0#64)) ∧
      t.curCore.gens = s.curCore.gens :=
  ⟨_, _, hexec, s.enters_enterVec d 0 0 ⟨[], ⟨0, s.cur.rseq⟩, none⟩ none (some (.vectorStream, 0, 0))⟩

theorem State.vecBad_of_srcBad (hmem : x ∈ d.srcs) (hx : s.srcBad x = true) : s.vecBad d = true := by
  rw [State.vecBad, List.any_eq_true.2 ⟨x, hmem, hx⟩]
  simp

theorem State.vecIssue_refused (hmem : x ∈ d.srcs) (hx : s.srcBad x = true) (f : List (List (BitVec 32)) → Bool → RC → VRes) :
    s.vecIssue d f = s.vecRefuse d := if_pos (State.vecBad_of_srcBad hmem hx)

theorem State.vecUnits_refused {rest : List Src} (hsrcs : d.srcs = x :: rest) (hx : s.srcBad x = true) (u w : Nat)
    (most : Option Nat) (f : List Nat → Nat → Bool → RC → List (BitVec 32) × RC) : s.vecUnits d u w most f = s.vecRefuse d := by
  have hbad : s.vecBad d = true := State.vecBad_of_srcBad (by rw [hsrcs]; exact List.mem_cons_self) hx
  rw [State.vecUnits, hsrcs]
  simp only [hbad, if_true]
  split <;> rfl

theorem State.srcBad_of_streamOf {r : BitVec 5} {f : Nat} {i : Nat} {g : Gen} (hs : s.streamOf r = some (i, g))
    (hg : g.wr = true ∨ g.fmt.toNat ≠ f) (bc : Bool) : s.srcBad ⟨r, [f], bc⟩ = true := by
  rw [State.srcBad, hs]
  simpa using hg

end

/-- NFSCAN looks at the streams itself, and refuses them as every operation does. -/
theorem exec_nfscan_of_srcBad {s : State} {fd fa : BitVec 5} {fmt : BitVec 4} (pd : BitVec 3)
    (hx : s.srcBad ⟨fa, [fmt.toNat], false⟩ = true) : ∃ d, exec (.nfscan fd fa fmt pd) s = .next (s.vecRefuse d) := by
  rw [exec_nfscan, execNfscan]
  have hbad : s.vecBad { sparseDesc fd pd [⟨fa, [fmt.toNat], false⟩] (some [6]) fun n => ceilDiv n 32 with tells := true } = true :=
    State.vecBad_of_srcBad (List.mem_singleton.2 rfl) hx
  simp only [hbad, if_true]
  split <;> exact ⟨_, rfl⟩

/-- SPACK.CHK looks at its stream itself too, and refuses it in the same way. -/
theorem exec_spackChk_of_srcBad {s : State} {fd fa : BitVec 5} {fmt : BitVec 4} (pd : BitVec 3)
    (hx : s.srcBad ⟨fa, [6], false⟩ = true) : ∃ d, exec (.spackChk fd fa fmt pd) s = .next (s.vecRefuse d) := by
  rw [exec_spackChk, execSpackChk]
  have hbad : s.vecBad { sparseDesc fd pd [⟨fa, [6], false⟩] none fun _ => 8 with bad := (s.streamOf fd).isSome } = true :=
    State.vecBad_of_srcBad (List.mem_singleton.2 rfl) hx
  simp only [hbad, if_true]
  split <;> exact ⟨_, rfl⟩

theorem vectorStreamFaults : Says.VectorStreamFaults := by
  intro s fd fa fb fc sub fmt rnd pd bc imm i g hs late
  have issue {d : VDesc} {f : Nat} {bc : Bool} {x : Instr} {h : List (List (BitVec 32)) → Bool → RC → VRes}
      (hg : s.srcBad ⟨fa, [f], bc⟩ = true) (hmem : ⟨fa, [f], bc⟩ ∈ d.srcs) (hexec : exec x s = .next (s.vecIssue d h)) : late x :=
    late_of_vecRefuse (hexec.trans (congrArg _ (State.vecIssue_refused hmem hg h)))
  have units {d : VDesc} {f u w : Nat} {most : Option Nat} {bc : Bool} {x : Instr}
      {h : List Nat → Nat → Bool → RC → List (BitVec 32) × RC} (hg : s.srcBad ⟨fa, [f], bc⟩ = true) (hsrcs : d.srcs = [⟨fa, [f], bc⟩])
      (hexec : exec x s = .next (s.vecUnits d u w most h)) : late x :=
    late_of_vecRefuse (hexec.trans (congrArg _ (State.vecUnits_refused hsrcs hg u w most h)))
  have hbad {f : BitVec 4} (hg : g.wr = true ∨ g.fmt ≠ f) (bc : Bool) : s.srcBad ⟨fa, [f.toNat], bc⟩ = true :=
    State.srcBad_of_streamOf hs (hg.imp_right fun h => fun heq => h (BitVec.eq_of_toNat_eq heq)) bc
  simp only [List.forall_mem_cons, List.not_mem_nil, false_imp_iff, implies_true, and_true]
  refine ⟨fun hg => ?_, fun hg => ?_, fun hg => ?_⟩
  · have hfmt := hbad hg false
    obtain ⟨d, hscan⟩ := exec_nfscan_of_srcBad (fd := fd) pd hfmt
    have m {l : List Src} : (⟨fa, [fmt.toNat], false⟩ : Src) ∈ ⟨fa, [fmt.toNat], false⟩ :: l := List.mem_cons_self
    exact ⟨(issue (x := .vadd fd fa fb fmt rnd bc) hfmt m rfl :), (issue (x := .vmul fd fa fb fmt rnd bc) hfmt m rfl :),
      (issue (x := .vmov fd fa fmt) hfmt m rfl :), (issue (x := .vsel fd fa fb fc fmt bc) hfmt m rfl :),
      (issue (x := .vcls fd fa fmt pd imm) hfmt m rfl :), (issue (x := .vredSum fd fa fmt rnd) hfmt m rfl :),
      (issue (x := .viaddAdd fd fa fb fmt bc) hfmt m rfl :), (issue (x := .vlogicNot fd fa fmt) hfmt m rfl :),
      (issue (x := .vexp fd fa fmt) hfmt m rfl :), late_of_vecRefuse hscan⟩
  · have hsub := hbad hg false
    refine ⟨(issue (x := .cvt sub fd fa fmt rnd imm) hsub List.mem_cons_self rfl :),
      (issue (x := .cvti sub fd fa fmt rnd imm) hsub List.mem_cons_self rfl :), ?_⟩
    by_cases holi : fmt = 8#4
    · exact units (x := .packStrm sub fd fa fmt rnd imm) hsub rfl (by rw [exec_packStrm, execPackStrm, if_pos holi])
    · exact units (x := .packStrm sub fd fa fmt rnd imm) hsub rfl (by rw [exec_packStrm, execPackStrm, if_neg holi])
  · have hbyte : s.srcBad ⟨fa, [6], false⟩ = true := hbad hg false
    obtain ⟨d, hchk⟩ := exec_spackChk_of_srcBad (fd := fd) (fmt := fmt) pd hbyte
    exact ⟨(issue (x := .unpk sub fd fa fmt rnd imm) hbyte List.mem_cons_self rfl :),
      (issue (x := .unpkHi sub fd fa fmt rnd imm) hbyte List.mem_cons_self rfl :),
      (units (x := .unpkStrm sub fd fa fmt rnd imm) hbyte rfl rfl :), (units (x := .unplane fd fa fmt) hbyte rfl rfl :),
      late_of_vecRefuse hchk⟩

/-! ### Completions (R61, R70, R179 to R181, R337, R338) -/

theorem Core.setRing_eq (k : Core) (p : RingEnt → Bool) (g : RingEnt → RingEnt) : k.setRing p g = { k with ring := (k.setRing p g).ring } := by
  rw [Core.setRing]
  split <;> rfl

section
variable (o : VecOp) (x : Thread)

/-- Results and flags reach the registers of the thread, and nothing else of it. -/
theorem VecOp.land_eq : o.land x = { x with f := (o.land x).f, p := (o.land x).p, fpsr := (o.land x).fpsr } := by
  simp only [VecOp.land, Thread.orFlags, Thread.setF, Thread.setP]
  cases o.wf <;> cases o.wp <;> simp only [] <;> split_ifs <;> rfl

theorem VecOp.fpsr_land : (o.land x).fpsr = x.fpsr ||| o.flags := by
  simp only [VecOp.land, Thread.orFlags, Thread.setF, Thread.setP]
  cases o.wf <;> cases o.wp <;> simp only [] <;> split_ifs <;> rfl

theorem VecOp.getF_land (r : BitVec 5) :
    (o.land x).getF r = match o.wf with | some (d, v) => if r = d then v else x.getF r | none => x.getF r := by
  have horF (t : Thread) : (t.orFlags o.flags).getF r = t.getF r := rfl
  rw [VecOp.land, horF]
  cases o.wp with
  | none => cases o.wf <;> simp [Thread.getF_setF]
  | some w => cases o.wf <;> simp [Thread.getF_setF]

theorem VecOp.getP_land (r : BitVec 3) :
    (o.land x).getP r = match o.wp with | some (p, v) => if r = p then (p == 0#3 || v) else x.getP r | none => x.getP r := by
  have hset (t : Thread) (ht : t.getP r = x.getP r) (p : BitVec 3) (v : Bool) :
      (t.setP p v).getP r = if r = p then (p == 0#3 || v) else x.getP r := by
    rw [Thread.getP_setP, ht]
    by_cases hr : r = 0#3
    · subst hr
      by_cases hp : 0#3 = p
      · simp [hp.symm]
      · simp [hp, Thread.getP]
    · by_cases hp : r = p
      · subst hp
        simp [hr]
      · simp [hr, hp]
  have horP (t : Thread) : (t.orFlags o.flags).getP r = t.getP r := rfl
  rw [VecOp.land, horP]
  cases o.wp with
  | none => cases o.wf <;> rfl
  | some w =>
    cases o.wf with
    | none => exact hset x rfl w.1 w.2
    | some y => exact hset (x.setF y.1 y.2) rfl w.1 w.2

end

section
variable {s : State} {c : Nat} {seq : BitVec 16} {o : VecOp} {x : Thread}

/-- The core without an operation that completes, its ring entry marked. -/
def Core.dropOp (k : Core) (seq : BitVec 16) (o : VecOp) : Core :=
  { k with vec := { k.vec with ops := k.vec.ops.filter fun x => x.seq != seq } }.setRing
    (fun e => e.seq == seq && e.opc != 0xD3#8 && e.opc != 0xD4#8) fun e => { e with st := if o.fault.isSome then 2 else 1 }

theorem Core.dropOp_eq (k : Core) (seq : BitVec 16) (o : VecOp) : k.dropOp seq o =
    { k with vec := { k.vec with ops := k.vec.ops.filter fun x => x.seq != seq }, ring := (k.dropOp seq o).ring } := by
  rw [Core.dropOp, Core.setRing_eq]

/-- The state in which the results of an operation have reached thread `x`. -/
def State.landOp (s : State) (c : Nat) (seq : BitVec 16) (o : VecOp) (x : Thread) : State :=
  (s.modCore c fun k => k.dropOp seq o).setThread c o.slot (o.land x)

/-- The core after an operation's results were delivered. -/
theorem State.core_landOp (s : State) (c : Nat) (seq : BitVec 16) (o : VecOp) (x : Thread) : (s.landOp c seq o x).core c =
    { (s.core c).dropOp seq o with slots := insertKey (s.core c).slots o.slot (o.land x) } := by
  rw [State.landOp, State.setThread, State.core_modCore_self, State.core_modCore_self, Core.dropOp_eq]

theorem State.thread?_landOp_self : (s.landOp c seq o x).thread? c o.slot = some (o.land x) := State.thread?_setThread_self ..

theorem State.thread?_landOp_ne {k : Nat} (hk : k ≠ o.slot) : (s.landOp c seq o x).thread? c k = s.thread? c k := by
  rw [State.landOp, State.thread?_setThread_ne _ _ fun h => hk h.2, State.thread?, State.core_modCore_self, Core.dropOp_eq]
  rfl

/-- The results reach a thread that is still there. -/
theorem State.landOp_of_thread (hx : s.thread? c o.slot = some x) (hgen : x.gen = o.gen) :
    (if ((s.modCore c fun k => k.dropOp seq o).thread? c o.slot).any fun t => t.gen == o.gen then
      (s.modCore c fun k => k.dropOp seq o).modThread c o.slot o.land else s.modCore c fun k => k.dropOp seq o) =
      s.landOp c seq o x := by
  have hx' : (s.modCore c fun k => k.dropOp seq o).thread? c o.slot = some x := by
    rw [State.thread?, State.core_modCore_self, Core.dropOp_eq]
    exact hx
  rw [hx', State.modThread, State.thread, hx']
  simp only [Option.any_some, hgen, beq_self_eq_true, if_true, Option.getD_some]
  rfl

variable (hfind : (s.core c).vec.ops.find? (fun o => o.seq == seq) = some o)
include hfind

theorem exec_vectorOpComplete_early (hcyc : (s.core c).cyc < o.doneAt) : exec (.vectorOpComplete c seq) s = .next s := by
  rw [exec_vectorOpComplete, execVectorOpComplete, hfind]
  simp only [hcyc, if_true]

variable (hcyc : o.doneAt ≤ (s.core c).cyc) (hx : s.thread? c o.slot = some x) (hgen : x.gen = o.gen)
include hcyc hx hgen

theorem exec_vectorOpComplete_due (hfault : o.fault = none) : exec (.vectorOpComplete c seq) s = .next (s.landOp c seq o x) := by
  rw [exec_vectorOpComplete, execVectorOpComplete, hfind, ← State.landOp_of_thread hx hgen]
  simp only [not_lt.2 hcyc, if_false, hfault, Core.dropOp]

theorem exec_vectorOpComplete_fault {cause : Cause} {a e : Word} (hfault : o.fault = some (cause, a, e)) :
    exec (.vectorOpComplete c seq) s =
      .next ((s.landOp c seq o x).engineFault c o.slot o.gen cause seq (seq + 1) o.pc a e) := by
  rw [exec_vectorOpComplete, execVectorOpComplete, hfind, ← State.landOp_of_thread hx hgen]
  simp only [not_lt.2 hcyc, if_false, hfault, Core.dropOp]

end

/-! ### A late record (R333, R337) -/

/-- The fields of the first word of a late record that cancels nothing. -/
theorem mkRec_late (cause : Cause) (tid : BitVec 17) (seq : BitVec 16) (pc addr extra : Word) :
    let r := mkRec cause (recFlags true false false false false) tid seq pc addr extra
    r.w0.extractLsb' 0 8 = cause.code ∧ r.w0.extractLsb' 8 8 = 1#8 ∧ r.w0.extractLsb' 16 17 = tid ∧ r.w0.extractLsb' 48 16 = seq := by
  have hword : (mkRec cause (recFlags true false false false false) tid seq pc addr extra).w0.toNat =
      cause.code.toNat + 256 + 65536 * tid.toNat + 2 ^ 48 * seq.toNat := by
    simp only [mkRec, recFlags, toNat_append_eq_add, BitVec.toNat_ofBool, BitVec.toNat_ofNat]
    simp
    omega
  intro r
  have hcode := cause.code.isLt
  have htid := tid.isLt
  have hseq := seq.isLt
  refine ⟨?_, ?_, ?_, ?_⟩ <;> apply BitVec.eq_of_toNat_eq <;>
    rw [BitVec.extractLsb'_toNat, hword, Nat.shiftRight_eq_div_pow]
  · omega
  · simp only [BitVec.toNat_ofNat]
    omega
  · omega
  · omega

/-- A late fault of a READY thread outside slot 15 notes itself there and queues its record. -/
theorem State.raiseLate_ready {s : State} {c sl : Nat} {y : Thread} (hy : s.thread? c sl = some y) (hst : y.st = .ready)
    (hsl : sl ≠ 15) (cause : Cause) (cancel : Bool) (seq : BitVec 16) (pc a e : Word) :
    s.raiseLate c sl cause cancel seq pc a e =
      (s.setThread c sl { y with late := true, lastTrap := some (pc, false) }).pushRec c
        (mkRec cause (recFlags true cancel false false false) (tidOf c sl) seq pc a e) := by
  rw [State.raiseLate, if_neg hsl]
  simp only [hst, State.modThread, State.setThread_setThread, State.thread, hy, State.thread?_setThread_self,
    Option.getD_some]

/-- A record that comes leaves a READY thread as it is. -/
theorem State.thread?_pushRec_ready {s : State} {c sl : Nat} {y : Thread} (hy : s.thread? c sl = some y) (hst : y.st = .ready)
    (r : TrapRec) : (s.pushRec c r).thread? c sl = some y := by
  rw [State.thread?, State.core_pushRec, lookup_map_snd (fun t : Thread => t.recordCame (s.core c).cyc)]
  have hy' : lookup (s.core c).slots sl = some y := hy
  rw [hy', Option.map_some, Thread.recordCame, hst]

/-- A fault of an engine that finds no command of the cube to cancel. -/
theorem State.engineFault_of_queue_nil {s : State} {c sl gen : Nat} {y : Thread} (hq : (s.core c).cube.queue = [])
    (hy : s.thread? c sl = some y) (hgen : y.gen = gen) (cause : Cause) (seq next : BitVec 16) (pc a e : Word) :
    s.engineFault c sl gen cause seq next pc a e = s.raiseLate c sl cause false seq pc a e := by
  simp [State.engineFault, hq, hy, hgen]

theorem vectorCompletions : Says.VectorCompletions := by
  intro s c seq o x hfind hx hgen i landed
  refine ⟨exec_vectorOpComplete_early hfind, fun hcyc hfault => ?_, fun hcyc cause a e hfault hst hsl hq => ?_,
    fun u hu => ⟨fun hle => ?_, fun hlt => ?_⟩⟩
  · have hlanded : landed (o.land x) := ⟨o.getF_land x, o.getP_land x, o.fpsr_land x⟩
    refine ⟨_, _, exec_vectorOpComplete_due hfind hcyc hx hgen hfault, State.thread?_landOp_self, hlanded, o.land_eq x, ?_, ?_,
      fun k hk => State.thread?_landOp_ne hk, rfl⟩
    · rw [State.core_landOp, Core.dropOp_eq]
    · rw [State.core_landOp, Core.dropOp_eq]
  · obtain ⟨y, hy⟩ : ∃ y, y = o.land x := ⟨_, rfl⟩
    have hland : (s.landOp c seq o x).thread? c o.slot = some y := hy ▸ State.thread?_landOp_self
    have hlanded : landed y := by rw [hy]; exact ⟨o.getF_land x, o.getP_land x, o.fpsr_land x⟩
    have hxy : y = { x with f := y.f, p := y.p, fpsr := y.fpsr } := by rw [hy]; exact o.land_eq x
    have hyst : y.st = .ready := by rw [hxy]; exact hst
    have hygen : y.gen = o.gen := by rw [hxy]; exact hgen
    have hqueue : ((s.landOp c seq o x).core c).cube.queue = [] := by rw [State.core_landOp, Core.dropOp_eq]; exact hq
    have hexec := exec_vectorOpComplete_fault hfind hcyc hx hgen hfault
    rw [State.engineFault_of_queue_nil hqueue hland hygen, State.raiseLate_ready hland hyst hsl] at hexec
    have hnoted := State.thread?_setThread_self (s.landOp c seq o x) c o.slot { y with late := true, lastTrap := some (o.pc, false) }
    have hkept := State.thread?_pushRec_ready hnoted hyst (mkRec cause (recFlags true false false false false) (tidOf c o.slot) seq o.pc a e)
    obtain ⟨hcode, hflags, htid, hseq⟩ := mkRec_late cause (tidOf c o.slot) seq o.pc a e
    refine ⟨_, _, _, hexec, hkept, hlanded, ?_, ?_, hcode, hflags, htid, hseq, rfl, rfl, rfl⟩
    · exact congrArg (fun z : Thread => { z with late := true, lastTrap := some (o.pc, false) }) hxy
    · rw [State.core_pushRec, State.setThread, State.core_modCore_self, State.core_landOp, Core.dropOp_eq]
      exact Core.enters_enterRec (s.core c) _
  · rw [exec_vectorStageFree, execVectorStageFree, hu]
    simp only [hle, if_true]
    rfl
  · rw [exec_vectorStageFree, execVectorStageFree, hu]
    simp only [not_le.2 hlt, if_false]

/-- Settles O44: elements of streams one by one, streams bound wrongly, and what a completion delivers. -/
theorem vectorStreams : Obligations.VectorStreams := ⟨vectorStreamElements, vectorStreamFaults, vectorCompletions⟩

/-! ### Conversions in registers (R74 to R76) -/

theorem fltParams_isSome_iff {a : Nat} (ha : a ≤ 11) : (fltParams a).isSome = true ↔ a ≤ 5 ∨ a = 11 := by
  interval_cases a <;> decide

/-- What CVT does to a code of its source format. -/
theorem convertElem_eq {a : Nat} (ha : a ≤ 11) {code : Nat} (hcode : code < 2 ^ fmtBits a) (f m : Nat) (sat : Bool) (c : RC) :
    convertElem a f m sat code c =
      if a = f ∧ a ≤ 5 ∨ a = f ∧ a = 11 then (if valueOf a code = .nan then canonNaN a else code, c)
      else if a = f ∧ a = 10 then (code, if code = 255 then c.or fIV else c) else roundTo f m sat (valueOf a code) c := by
  have hflt : (a = f ∧ (fltParams a).isSome = true) ↔ (a = f ∧ a ≤ 5 ∨ a = f ∧ a = 11) := by
    rw [fltParams_isSome_iff ha, and_or_left]
  simp only [convertElem, hflt]
  by_cases h : a = f ∧ a ≤ 5 ∨ a = f ∧ a = 11
  · have hmem : a ∈ [0, 1, 2, 3, 4, 5, 11] := by
      simp only [List.mem_cons, List.not_mem_nil, or_false]
      omega
    obtain ⟨eb, fb, bias, hF⟩ := isFlt_of_mem hmem
    rw [if_pos h, if_pos h, hF.canonCode_eq hcode]
  · rw [if_neg h, if_neg h]
    by_cases h10 : a = f ∧ a = 10
    · rw [h10.2] at hcode
      rw [if_pos h10, if_pos h10, Nat.mod_eq_of_lt (show code < 256 from hcode)]
    · rw [if_neg h10, if_neg h10]

theorem VDesc.rateOf_base (fs : List Nat) : ceilDiv 1 (rateOf fs) = 1 := ceilDiv_eq_one Nat.one_pos (by have := rateOf_ge fs; omega)

theorem entersPlain_of_cvtDesc {i : Instr} {s : State} {fd fa : BitVec 5} {a b : Nat} {g : List Nat → RC → Nat × RC}
    (hexec : exec i s = .next (s.vecMap (cvtDesc fd fa a b) g)) (hfd : s.Plain fd) (hfa : s.Plain fa) :
    let r := g [codeIn s a fa] ⟨0#5, s.cur.rseq⟩
    EntersPlain i s (occOne s) (some (fd, elemWord r.1)) none r.2 := by
  have h := entersPlain_of_vecMap hexec hfd (by simpa [cvtDesc, VDesc.plain] using hfa) rfl rfl (VDesc.rateOf_base [a, b]) rfl
  simpa only [cvtDesc, VDesc.plain, List.map_cons, List.map_nil, State.toNat_srcWord] using h

theorem registerConversions : Says.RegisterConversions := by
  intro s sub fmt fd fa fb rnd imm a f m sat c0 conv x y pair hplain ha hf
  obtain ⟨hfd, hfa, hfb⟩ : s.Plain fd ∧ s.Plain fa ∧ s.Plain fb := by simpa using hplain
  have hconv {code : Nat} (hcode : code < 2 ^ fmtBits a) (sat : Bool) (c : RC) : convertElem a f m sat code c = conv code sat c :=
    convertElem_eq ha hcode f m sat c
  have hcvt (i : Instr) (hexec : exec i s = .next (s.vecCvt sub fd fa fmt rnd imm)) :
      EntersPlain i s (occOne s) (some (fd, elemWord (conv (codeIn s a fa) sat c0).1)) none (conv (codeIn s a fa) sat c0).2 := by
    have h := entersPlain_of_cvtDesc hexec hfd hfa
    rw [← hconv (codeIn_lt s a fa)]
    exact h
  have hpair : codeIn s 6 fa < 256 := codeIn_lt s 6 fa
  have hunpk (i : Instr) (hi : Bool) (hexec : exec i s = .next (s.vecUnpk sub fd fa fmt rnd imm hi)) :
      EntersPlain i s (occOne s) (some (fd, elemWord (unpkNibble a f m sat hi pair c0).1)) none (unpkNibble a f m sat hi pair c0).2 := by
    have h := entersPlain_of_cvtDesc hexec hfd hfa
    simp only [List.getD_cons_zero, Nat.mod_eq_of_lt hpair] at h
    exact h
  refine ⟨?_, fun _ => ?_, hunpk _ false rfl, hunpk _ true rfl⟩
  · simp only [List.forall_mem_cons, List.not_mem_nil, false_imp_iff, implies_true, and_true]
    exact ⟨hcvt _ rfl, hcvt _ rfl⟩
  · have h := entersPlain_of_vecMap (i := .pack sub fd fa fb fmt rnd imm) (s := s) rfl hfd
      (by simpa [VDesc.plain] using ⟨hfa, hfb⟩) rfl rfl (VDesc.rateOf_base [a, f]) rfl
    simp only [VDesc.plain, List.map_cons, List.map_nil, State.toNat_srcWord, List.getD_cons_zero, List.getD_cons_succ] at h
    have hx : convertElem a f m (sat || f == 5) (codeIn s a fa) c0 = x := hconv (codeIn_lt s a fa) _ _
    have hy : convertElem a f m (sat || f == 5) (codeIn s a fb) x.2 = y := hconv (codeIn_lt s a fb) _ _
    rw [← hy, ← hx]
    exact h

/-! ### Units of a stream (R62, R63, R75, R76) -/

theorem overUnits_nil (u : Nat) (f : List Nat → RC → List Nat × RC) (bad : Bool) (n : Nat) (c : RC) :
    overUnits u f bad n [] c = ([], c) := by
  cases n <;> rfl

theorem unitValues_nil (u : Nat) (f : List Nat → RC → List FVal × RC) (bad : Bool) (n : Nat) (c : RC) :
    unitValues u f bad n [] c = ([], c) := by
  cases n <;> rfl

/-- A source of one whole unit. -/
theorem overUnits_one (f : List Nat → RC → List Nat × RC) {l : List Nat} (hl : l ≠ []) (c : RC) :
    overUnits l.length f false l.length l c = f l c := by
  obtain ⟨x, l, rfl⟩ := List.exists_cons_of_ne_nil hl
  simp [overUnits, overUnits_nil]

theorem unitValues_one (f : List Nat → RC → List FVal × RC) {l : List Nat} (hl : l ≠ []) (c : RC) :
    unitValues l.length f false l.length l c = f l c := by
  obtain ⟨x, l, rfl⟩ := List.exists_cons_of_ne_nil hl
  simp [unitValues, unitValues_nil]

/-- What an operation on units computes of its rows. -/
def unitRes (f : List Nat → Nat → Bool → RC → List (BitVec 32) × RC) (room : Nat) (rows : List (List (BitVec 32))) (bad : Bool)
    (c : RC) : VRes :=
  let r := f (rows.map fun r => (r.headD 0).toNat) room bad c
  ⟨r.1, r.2, none⟩

theorem unitRes_singletons (f : List Nat → Nat → Bool → RC → List (BitVec 32) × RC) (room : Nat) (vs : List (BitVec 32)) (bad : Bool)
    (c : RC) : unitRes f room (vs.map fun v => [v]) bad c = ⟨(f (vs.map (·.toNat)) room bad c).1, (f (vs.map (·.toNat)) room bad c).2, none⟩ := by
  simp [unitRes, Function.comp_def]

theorem length_roundAll (f m : Nat) (sat : Bool) (l : List FVal) (c : RC) : (roundAll f m sat l c).1.length = l.length := by
  induction l generalizing c with
  | nil => rfl
  | cons v l ih => simp only [roundAll, List.length_cons, ih]

section
variable {x : Instr} {s : State} {d : VDesc} {u w fi fo i o : Nat} {g b : Gen} {vs : List (BitVec 32)} {fa : BitVec 5}
  (hsrcs : d.srcs = [⟨fa, [fi], false⟩]) (hdst : d.dst = some [fo]) (hbad : d.bad = false) (htells : d.tells = false) (hio : i ≠ o)
  (hlen : vs.length = g.total - g.pos) (hu : vs.length = u) (hu0 : 0 < u) (hw0 : 0 < w) (hfeeds : Feeds s fa fi i g vs)
  (htakes : Takes s d.fd fo o b w)
include hsrcs hdst hbad htells hio hlen hu hu0 hw0 hfeeds htakes

/-- An operation on units, over a source that ends after one and a destination that takes all its results. -/
theorem repacks_of_vecUnits {f : List Nat → Nat → Bool → RC → List (BitVec 32) × RC}
    (hexec : exec x s = .next (s.vecUnits d u w none f))
    (hout : (f (vs.map (·.toNat)) b.left false ⟨0#5, s.cur.rseq⟩).1.length ≤ w) :
    let r := f (vs.map (·.toNat)) b.left false ⟨0#5, s.cur.rseq⟩
    Repacks x s i g vs o b r.1 none r.2 := by
  intro r
  have hgood := State.vecBad_streams hsrcs (List.forall_mem_nil _) hbad hdst (List.mem_singleton.2 rfl) (List.mem_singleton.2 rfl)
    hfeeds htakes
  have hrun := State.enters_vecRun hsrcs rfl (List.forall_mem_nil _) (by rw [hdst]; rfl) htells hio
    (unitRes f b.left) hfeeds htakes (by rw [List.map_nil, unitRes_singletons]; exact hout)
  rw [List.map_nil, unitRes_singletons] at hrun
  obtain ⟨hsi, -⟩ := hfeeds
  obtain ⟨hso, -, -, -, -, hroom, -⟩ := htakes
  have hgleft : g.left = u := hlen.symm.trans hu
  have hbleft : w ≤ b.left := hroom
  have hmin : min g.left (u * ((b.left + w - 1) / w)) = vs.length := by
    have hceil : 1 ≤ (b.left + w - 1) / w := (Nat.one_le_div_iff hw0).2 (by omega)
    rw [hgleft, hu]
    exact min_eq_left (Nat.le_mul_of_pos_right u hceil)
  have hsome : ¬(g.left = 0 ∨ b.left = 0) := by omega
  have hunits : s.vecUnits d u w none f = s.vecRun d vs.length none (unitRes f b.left) := by
    simp only [State.vecUnits, hsrcs, hsi, hso, hgood, if_neg hsome, hmin, Bool.false_eq_true, if_false]
    rfl
  exact ⟨_, _, hexec.trans (congrArg _ hunits), hrun⟩

/-- A unit of elements that becomes a unit of bytes. -/
theorem repacks_of_overUnits {F : List Nat → RC → List Nat × RC}
    (hexec : exec x s = .next (s.vecUnits d u w none fun l _ bad c => asElems (overUnits u F bad l.length l c)))
    (hout : (F (vs.map (·.toNat)) ⟨0#5, s.cur.rseq⟩).1.length ≤ w) :
    let r := F (vs.map (·.toNat)) ⟨0#5, s.cur.rseq⟩
    Repacks x s i g vs o b (r.1.map (BitVec.ofNat 32)) none r.2 := by
  have hone : overUnits u F false (vs.map (·.toNat)).length (vs.map (·.toNat)) ⟨0#5, s.cur.rseq⟩ =
      F (vs.map (·.toNat)) ⟨0#5, s.cur.rseq⟩ := by
    have hne : vs.map (·.toNat) ≠ [] := List.ne_nil_of_length_pos (by rw [List.length_map]; omega)
    rw [← overUnits_one F hne, List.length_map, hu]
  have h := repacks_of_vecUnits hsrcs hdst hbad htells hio hlen hu hu0 hw0 hfeeds htakes hexec
    (by rw [hone]; exact (List.length_map _).trans_le hout)
  rw [hone] at h
  exact h

/-- A unit of bytes that becomes a unit of elements. -/
theorem repacks_of_unitValues {F : List Nat → RC → List FVal × RC} {f m : Nat} {sat : Bool}
    (hexec : exec x s = .next (s.vecUnits d u w none fun l room bad c =>
      let v := unitValues u F bad l.length l c
      asElems (roundAll f m sat (v.1.take room) v.2)))
    (hout : (F (vs.map (·.toNat)) ⟨0#5, s.cur.rseq⟩).1.length = w) :
    let d := F (vs.map (·.toNat)) ⟨0#5, s.cur.rseq⟩
    let r := roundAll f m sat d.1 d.2
    Repacks x s i g vs o b (r.1.map (BitVec.ofNat 32)) none r.2 := by
  have hone : unitValues u F false (vs.map (·.toNat)).length (vs.map (·.toNat)) ⟨0#5, s.cur.rseq⟩ =
      F (vs.map (·.toNat)) ⟨0#5, s.cur.rseq⟩ := by
    have hne : vs.map (·.toNat) ≠ [] := List.ne_nil_of_length_pos (by rw [List.length_map]; omega)
    rw [← unitValues_one F hne, List.length_map, hu]
  have htake : (F (vs.map (·.toNat)) ⟨0#5, s.cur.rseq⟩).1.take b.left = (F (vs.map (·.toNat)) ⟨0#5, s.cur.rseq⟩).1 := by
    obtain ⟨-, -, -, -, -, hroom, -⟩ := htakes
    exact List.take_of_length_le (hout.trans_le hroom)
  have h := repacks_of_vecUnits hsrcs hdst hbad htells hio hlen hu hu0 hw0 hfeeds htakes hexec
    (by simp only [hone, htake]; exact ((List.length_map _).trans (length_roundAll ..)).trans_le hout.le)
  simp only [hone, htake] at h
  exact h

end

/-! ### Groups of OLI4 (R62, R63) -/

theorem length_oliPairs (src mode n : Nat) (l : List Nat) (c : RC) :
    (oliPairs src mode n l c).1.length = n ∧ (oliPairs src mode n l c).2.1.length = n := by
  induction n generalizing l c with
  | zero => exact ⟨rfl, rfl⟩
  | succ n ih =>
    obtain ⟨h1, h2⟩ := ih (l.drop 2) (oliPair mode (valueOf src (l.getD 0 0)) (valueOf src (l.getD 1 0)) c).2.2
    simp only [oliPairs, List.length_cons, h1, h2, and_self]

theorem length_nibbleBytes (l : List Nat) : (nibbleBytes l).length = (l.length + 1) / 2 := by
  induction l using nibbleBytes.induct with
  | case1 a b rest ih =>
    simp only [nibbleBytes, List.length_cons, ih]
    omega
  | case2 a => simp [nibbleBytes]
  | case3 => simp [nibbleBytes]

/-- A group of OLI4 is 24 bytes. -/
theorem length_oliGroup (src mode : Nat) (l : List Nat) (c : RC) : (oliGroup src mode l c).1.length = 24 := by
  obtain ⟨h1, h2⟩ := length_oliPairs src mode 16 l c
  rw [oliGroup, List.length_append, length_nibbleBytes, h1, h2]

/-- A decoded group of OLI4 is 32 elements. -/
theorem length_oliDecode (g : List Nat) (c : RC) : (oliDecode g c).1.length = 32 := by
  simp [oliDecode, List.length_flatten, Function.comp_def]

/-! ### The stream forms -/

/-- What UNPK issues over streams, when `u` bytes make `per` elements. -/
def unpkDesc (fd fa : BitVec 5) (a f u per : Nat) : VDesc :=
  { strmDesc fd fa 6 f [a, f] with base := fun n => ceilDiv ((n + u - 1) / u * per) (rateOf [a, f]) }

/-- The two values of a byte, the low half first. -/
def byteValues (a : Nat) (l : List Nat) (c : RC) : List FVal × RC := ([l.headD 0 % 16, l.headD 0 / 16 % 16].map (valueOf a), c)

section
variable (s : State) {sub : BitVec 4} (fd fa : BitVec 5) (fmt : BitVec 4) (rnd : BitVec 3) (imm : BitVec 32)

theorem exec_unpkStrm_pair (h : sub ≠ 8#4) : exec (.unpkStrm sub fd fa fmt rnd imm) s =
    .next (s.vecUnits (unpkDesc fd fa sub.toNat fmt.toNat 1 2) 1 2 none fun l room bad c =>
      let v := unitValues 1 (byteValues sub.toNat) bad l.length l c
      asElems (roundAll fmt.toNat (s.rmode rnd) (imm.getLsbD 0) (v.1.take room) v.2)) := by
  rw [exec_unpkStrm, execUnpkStrm]
  simp only [if_neg h]
  rfl

theorem exec_unpkStrm_group (h : sub = 8#4) : exec (.unpkStrm sub fd fa fmt rnd imm) s =
    .next (s.vecUnits (unpkDesc fd fa sub.toNat fmt.toNat 24 32) 24 32 none fun l room bad c =>
      let v := unitValues 24 oliDecode bad l.length l c
      asElems (roundAll fmt.toNat (s.rmode rnd) (imm.getLsbD 0) (v.1.take room) v.2)) := by
  rw [exec_unpkStrm, execUnpkStrm]
  simp only [if_pos h]
  rfl

end

theorem streamConversions : Says.StreamConversions := by
  intro s sub fmt fd fa rnd imm i o g b vs hio hlen a f m sat c0 v words
  refine ⟨fun h2 hfmt hfeeds htakes => ?_, fun h32 hfmt hfeeds htakes => ?_, fun h1 hsub hfeeds htakes => ?_,
    fun h24 hsub hfeeds htakes => ?_⟩
  · have holi : fmt ≠ 8#4 := by rcases hfmt with rfl | rfl <;> decide
    obtain ⟨p, q, rfl⟩ := List.length_eq_two.1 h2
    exact repacks_of_overUnits (d := strmDesc fd fa a 6 [a, f])
      (F := fun l c => let r := packByte a f m sat (l.getD 0 0) (l.getD 1 0) c; ([r.1], r.2)) rfl rfl rfl rfl hio hlen h2
      (by decide) (by decide) hfeeds htakes (by rw [exec_packStrm, execPackStrm, if_neg holi]; rfl) le_rfl
  · exact repacks_of_overUnits (d := strmDesc fd fa a 6 [a, f]) (F := oliGroup a m) rfl rfl rfl rfl hio hlen h32 (by decide) (by decide)
      hfeeds htakes (by rw [exec_packStrm, execPackStrm, if_pos hfmt]; rfl) (length_oliGroup ..).le
  · have holi : sub ≠ 8#4 := by rcases hsub with rfl | rfl <;> decide
    obtain ⟨p, rfl⟩ := List.length_eq_one_iff.1 h1
    exact repacks_of_unitValues (d := unpkDesc fd fa a f 1 2) (F := byteValues a) rfl rfl rfl rfl hio hlen h1 (by decide) (by decide)
      hfeeds htakes (exec_unpkStrm_pair s fd fa fmt rnd imm holi) rfl
  · exact ⟨length_oliDecode .., repacks_of_unitValues (d := unpkDesc fd fa a f 24 32) rfl rfl rfl rfl hio hlen h24 (by decide)
      (by decide) hfeeds htakes (exec_unpkStrm_group s fd fa fmt rnd imm hsub) (length_oliDecode ..)⟩

/-! ### Pairs of a decoded group (R62, R63) -/

/-- A nibble as INT4. -/
theorem valueOf_int4 {n : Nat} (hn : n < 16) : valueOf 7 n = .ofInt (if n < 8 then n else (n : Int) - 16) := by
  interval_cases n <;> decide

/-- The elements of pair `j` stand at 2j and 2j + 1. -/
theorem getD_flatten_pairs {α β : Type} (f h : β → α) (z : α) (l : List β) {j : Nat} (hj : j < l.length) :
    ((l.map fun x => [f x, h x]).flatten).getD (2 * j) z = f l[j] ∧ ((l.map fun x => [f x, h x]).flatten).getD (2 * j + 1) z = h l[j] := by
  induction l generalizing j with
  | nil => exact absurd hj (Nat.not_lt_zero j)
  | cons x l ih =>
    cases j with
    | zero => exact ⟨rfl, rfl⟩
    | succ j => exact ih (Nat.lt_of_succ_lt_succ hj)

/-- What the slots of pair `j` mean, by their nibbles and the companion nibble. -/
theorem oliValues_eq {g : List Nat} {j : Nat} (hb : g.getD j 0 < 256) (hc : g.getD (16 + j / 2) 0 < 256) :
    let lo := g.getD j 0 % 16
    let hi := g.getD j 0 / 16
    let comp := if j % 2 = 0 then g.getD (16 + j / 2) 0 % 16 else g.getD (16 + j / 2) 0 / 16
    oliValues g j = if lo = 8 then (valueOf 3 (16 * hi + comp), .zero false, 0#5)
      else if hi = 8 then (valueOf 7 lo, .zero false, fIV) else (valueOf 7 lo, valueOf 7 hi, 0#5) := by
  intro lo hi comp
  have hcomp : g.getD (16 + j / 2) 0 / 16 ^ (j % 2) % 16 = comp := by
    obtain h | h := Nat.mod_two_eq_zero_or_one j
    · simp [comp, h]
    · rw [h, Nat.pow_one, Nat.mod_eq_of_lt (by omega)]
      simp [comp, h]
  rw [oliValues, hcomp, Nat.mod_eq_of_lt hb, Nat.mul_comm (g.getD j 0 / 16) 16]
  rfl

theorem outlierPairs : Says.OutlierPairs := by
  intro g j hj hlen hg s0 s1 comp int p
  have hbyte (k : Nat) : g.getD k 0 < 256 := by
    rw [List.getD_eq_getElem?_getD]
    by_cases hk : k < g.length
    · rw [List.getElem?_eq_getElem hk]
      exact hg _ (List.getElem_mem hk)
    · rw [List.getElem?_eq_none (by omega)]
      decide
  have hp := oliValues_eq (hbyte j) (hbyte (16 + j / 2))
  have h0 : valueOf 7 s0 = int s0 := valueOf_int4 (Nat.mod_lt _ (by decide))
  have h1 : valueOf 7 s1 = int s1 := valueOf_int4 (Nat.div_lt_of_lt_mul (hbyte j))
  refine ⟨fun hs => hp.trans (if_pos hs), fun hs hs1 => ?_, fun hs hs1 => ?_, fun c => ?_⟩
  · rw [← h0]
    exact (hp.trans (if_neg hs)).trans (if_pos hs1)
  · rw [← h0, ← h1]
    exact (hp.trans (if_neg hs)).trans (if_neg hs1)
  · have h := getD_flatten_pairs (fun x : FVal × FVal × BitVec 5 => x.1) (fun x => x.2.1) .nan ((List.range 16).map (oliValues g))
      (j := j) (by simpa using hj)
    rw [List.getElem_map, List.getElem_range] at h
    exact h

/-- Settles O45: conversions, packing and unpacking in registers and over streams, and the pairs of an OLI4 group. -/
theorem conversions : Obligations.Conversions := ⟨registerConversions, streamConversions, outlierPairs⟩

end Sys2Proof.Machine
end

section
/-! PROOFS. Two statements that states no step reaches refute: the eviction of a parked DQRUN (R140, R323), and a steal round at
a level that is none (R134, R139). -/
namespace Sys2Proof.Machine

/-! ### A parked DQRUN whose slot another thread's steal still names (O54) -/

/-- A thread parked in DQRUN, the first of its launch. -/
def idleThread : Thread := { Thread.blank with gen := 1, st := .parked (.deque 0), launch := 1 }

/-- Its launch, which is being pre-empted. -/
def leavingLaunch : Launch := { Launch.none with serial := 1, cores := [0], phase := .preempting 0 }

/-- The machine with that thread in slot 0 of core 0, and a steal of an earlier thread of the slot under way. -/
def staleStealState : State :=
  { State.reset with
    cores := [(0, { Core.idle 0 0 with slots := [(0, idleThread)] })]
    doms := [(0, { Dom.blank 0 with launches := [(1, leavingLaunch)] })]
    net := [State.reset.newMsg 0 0 (.steal 1 [] none) 0 8 0] }

theorem staleSteal_not_mine : ∀ m ∈ staleStealState.net, ¬(m.core = 0 ∧ m.slot = 0 ∧ m.gen = idleThread.gen) := by decide

theorem staleSteal_evictable : staleStealState.evictable 0 0 idleThread = true := by decide +kernel

/-- The model takes the slot for one with a steal in flight and saves the thread. -/
theorem staleSteal_saves : ∀ t, exec (.threadEvict 0 0) staleStealState = .next t →
    (lookup (t.dom 0).launches 1).map (fun l => l.saved.length) = some 1 := by
  rintro t ⟨⟩
  decide +kernel

/-- Refutes O54: THREAD_EVICT of a thread parked in DQRUN does not only free its slot when a steal request of an earlier
thread of the slot is still under way: `State.stealing` looks at no generation, and the thread goes to the save area. -/
theorem not_scheduling : ¬ Obligations.Scheduling := by
  rintro ⟨-, hevictions, -⟩
  obtain ⟨hnone, -⟩ := hevictions staleStealState 0 0 0 idleThread leavingLaunch rfl rfl (.inl rfl) staleSteal_evictable
  obtain ⟨-, -, -, hdeque⟩ := hnone staleSteal_not_mine
  obtain ⟨t, ht, -, hlaunch⟩ := hdeque 0 rfl
  have hsaved := staleSteal_saves t ht
  have hd : idleThread.dom = 0 := rfl
  have hn : idleThread.launch = 1 := rfl
  rw [hd, hn] at hlaunch
  rw [hlaunch] at hsaved
  exact absurd hsaved (by decide)

/-! ### A round at level 0 (O35) -/

/-- A thread whose steal round stands at no level that R134 has. -/
def levelZeroThread : Thread := { Thread.blank with gen := 1, launch := 1, round := some ⟨0, none, 8⟩ }

/-- A launch on two cores of one cluster. -/
def twoCoreLaunch : Launch := { Launch.none with serial := 1, cores := [0, 1] }

def levelZeroState : State :=
  { State.reset with
    cores := [(0, { Core.idle 0 0 with slots := [(0, levelZeroThread)] })]
    doms := [(0, { Dom.blank 0 with launches := [(1, twoCoreLaunch)] })] }

theorem victimsOf_levelZero : victimsOf twoCoreLaunch 0 0 = [] ∧ victimsOf twoCoreLaunch 0 2 = [1] := by decide +kernel

/-- The statement passes over levels 0 and 1 and visits core 1 at level 2. -/
theorem nextVisitIs_levelZero (q : BitVec 32) :
    nextVisitIs twoCoreLaunch 0 3 ⟨0, none, 8⟩ q 1 ⟨2, some [], 7⟩ (drawn q) := by
  obtain ⟨h0, h2⟩ := victimsOf_levelZero
  have hlevel0 : levelOver twoCoreLaunch 0 ⟨0, none, 8⟩ := ⟨by decide, .inl h0⟩
  have hlevel1 : levelOver twoCoreLaunch 0 ⟨1, some [], 8⟩ := ⟨by decide, .inr (.inl ⟨rfl, rfl⟩)⟩
  refine .inr ⟨hlevel0, .inr ⟨hlevel1, .inl ⟨by decide, by decide, ?_, .inr (.inr ⟨by decide, rfl, 7, rfl, ?_, rfl⟩)⟩⟩⟩
  · change victimsOf twoCoreLaunch 0 2 ≠ []
    rw [h2]
    exact List.cons_ne_nil 1 []
  · change 1 = (victimsOf twoCoreLaunch 0 2).getD ((drawn q).toNat % 65536 % (victimsOf twoCoreLaunch 0 2).length) 0
    rw [h2, List.length_singleton, Nat.mod_one]
    rfl

/-- The round of the issuing thread after a meaning. -/
def roundAfter : Out → Option Round
  | .next t => t.cur.round
  | _ => none

/-- The model makes the visit at level 0. -/
theorem levelZero_round : roundAfter (exec (.dqsteal 1#6 1#3) levelZeroState) = some ⟨0, none, 7⟩ := by decide +kernel

/-- Refutes O35: DQSTEAL of a thread whose round stands at level 0. The victims of that level are those of none of the three
levels of R134, so the statement goes on to level 2, where the model visits the cluster's cores at level 0. -/
theorem not_stealsAndRuns : ¬ Obligations.StealsAndRuns := by
  rintro ⟨hsteals, -⟩
  obtain ⟨hissue, -⟩ := hsteals levelZeroState 1#6 0#6 1#3
  obtain ⟨hvisit, -⟩ := hissue rfl
  obtain ⟨t, m, ht, -, -, -, -, -, -, hcur, -⟩ := hvisit 1 ⟨2, some [], 7⟩ _ (nextVisitIs_levelZero _)
  have hround := levelZero_round
  rw [ht, roundAfter, hcur] at hround
  exact absurd hround (by decide)

end Sys2Proof.Machine
end

section
/-! PROOFS. What the operations under the instructions of the issuing thread come to in the terms of the statements: bytes and
their bits, local reads, and where an access goes. -/
namespace Sys2Proof.Machine

/-! ### Bytes and their bits (R3) -/

theorem Memory.read_lt (m : List Host.Cell) (a n : Nat) : Memory.read m a n < 256 ^ n := by
  induction n generalizing a with
  | zero => exact Nat.one_pos
  | succ n ih =>
    have hbyte := (Memory.get m a).isLt
    have hrest := ih (a + 1)
    rw [Memory.read, Nat.pow_succ]
    omega

/-- Bit `j` of the number that bytes stand for is a bit of byte `j / 8`. -/
theorem Memory.testBit_read (m : List Host.Cell) (a n : Nat) {j : Nat} (h : j < 8 * n) :
    (Memory.read m a n).testBit j = (Memory.get m (a + j / 8)).getLsbD (j % 8) := by
  induction n generalizing a j with
  | zero => omega
  | succ n ih =>
    rw [Memory.read, show (256 : Nat) = 2 ^ 8 from rfl, Nat.add_comm, Nat.testBit_two_pow_mul_add _ (Memory.get m a).isLt]
    by_cases hj : j < 8
    · rw [if_pos hj, Nat.div_eq_of_lt hj, Nat.mod_eq_of_lt hj, Nat.add_zero]
      rfl
    · rw [if_neg hj, ih (a + 1) (by omega), show a + 1 + (j - 8) / 8 = a + j / 8 by omega, show (j - 8) % 8 = j % 8 by omega]

theorem Memory.pow_bytes (n : Nat) : 256 ^ n = 2 ^ (8 * n) := by
  rw [show (256 : Nat) = 2 ^ 8 from rfl, ← Nat.pow_mul]

theorem Memory.read_lt_two_pow (m : List Host.Cell) (a n : Nat) : Memory.read m a n < 2 ^ (8 * n) := by
  rw [← Memory.pow_bytes]; exact Memory.read_lt m a n

theorem Memory.read_lt_word (m : List Host.Cell) (a : Nat) {n : Nat} (h : n ≤ 8) : Memory.read m a n < 2 ^ 64 :=
  lt_of_lt_of_le (Memory.read_lt_two_pow m a n) (Nat.pow_le_pow_right (by decide) (by omega))

/-- A word made of up to eight bytes has their bits, and zeros above. -/
theorem hasBits_ofNat_of_lt {n v : Nat} {f : Nat → Bool} (hv : v < 2 ^ n) (hf : ∀ j < n, v.testBit j = f j) :
    HasBits n false f (BitVec.ofNat 64 v) := by
  intro j hj
  rw [BitVec.getLsbD_ofNat, decide_eq_true hj, Bool.true_and]
  split
  · next h => exact hf j h
  · next h => exact Nat.testBit_lt_two_pow (lt_of_lt_of_le hv (Nat.pow_le_pow_right (by decide) (not_lt.1 h)))

/-- A word of 64 bits is fixed by them. -/
theorem eq_of_hasBits_word {f : Nat → Bool} {v w : Word} (hv : HasBits 64 false f v) (hw : HasBits 64 false f w) : v = w := by
  apply BitVec.eq_of_getLsbD_eq
  intro j hj
  rw [hv j hj, hw j hj]

/-- Bit `b` of byte `i` of a number written byte by byte. -/
theorem byte_getLsbD (v i : Nat) {b : Nat} (h : b < 8) : (BitVec.ofNat 8 (v / 256 ^ i)).getLsbD b = v.testBit (8 * i + b) := by
  rw [BitVec.getLsbD_ofNat, decide_eq_true h, Bool.true_and, Memory.pow_bytes, Nat.testBit_div_two_pow, Nat.add_comm]

variable (s : State)

theorem State.hasBits_localRead (a n : Nat) :
    HasBits (8 * n) false (s.lbit a) (BitVec.ofNat 64 (s.localRead s.iss.core a n)) :=
  hasBits_ofNat_of_lt (Memory.read_lt_two_pow _ _ _) fun _ hj => Memory.testBit_read _ _ _ hj

theorem State.localRead_lt (c a : Nat) {n : Nat} (h : n ≤ 8) : s.localRead c a n < 2 ^ 64 := Memory.read_lt_word _ _ h

/-! ### Where an access goes (R161, R248) -/

variable {s}

theorem State.InRegion.facts {ea : Word} {n : Nat} (h : s.InRegion ea n) :
    alignedTo ea n = true ∧ inWindow ea = true ∧ inRegion s.curLaunch.hdr.lmem (winOff ea) n = true := by
  obtain ⟨halign, hlo, hhi, hregion⟩ := h
  exact ⟨by simp [alignedTo, halign], by simp [inWindow, hlo, hhi], decide_eq_true hregion⟩

theorem State.place_window {ea : Word} {n : Nat} (h : s.InRegion ea n) (hfill : s.curCore.fill = none) (need : Need) :
    s.place ea n need = .window (s.localOf ea) := by
  obtain ⟨halign, hwin, hregion⟩ := h.facts
  have hheld : s.bankHeld = false := by rw [State.bankHeld, hfill]; rfl
  simp only [State.place, halign, hwin, hregion, hheld, Bool.not_true, Bool.false_eq_true, if_true, if_false]
  rfl

theorem State.place_misaligned {ea : Word} {n : Nat} (h : ea.toNat % n ≠ 0) (need : Need) :
    s.place ea n need = .trap (s.takeTrap .alignment ea 0) := by
  simp [State.place, alignedTo, h]

theorem Global.facts {ea : Word} {n : Nat} (h : Global ea n) : alignedTo ea n = true ∧ inWindow ea = false := by
  obtain ⟨halign, hwin⟩ := h
  refine ⟨by simp [alignedTo, halign], Bool.eq_false_iff.2 fun hin => hwin ?_⟩
  simpa [inWindow] using hin

theorem State.place_global {ea : Word} {n : Nat} {need : Need} {s1 : State} {pa : Nat} {e : TlbEnt} (h : Global ea n)
    (ht : s.translateCur ea need = (s1, .ok pa e)) : s.place ea n need = .global s1 pa e := by
  obtain ⟨halign, hwin⟩ := h.facts
  simp [State.place, halign, hwin, ht]

/-- A full/empty access, a window access without a bank that holds a FILL back (R167, R273). -/
theorem State.bankWord_window {ea : Word} (h : s.InRegion ea 8) (hfill : (s.core s.iss.core).fill = none)
    (k : State → Nat → State) : s.bankWord ea k = k s (s.localOf ea) := by
  obtain ⟨halign, hwin, hregion⟩ := h.facts
  have hheld : s.bankHeld = false := by rw [State.bankHeld, State.curCore, hfill]; rfl
  simp only [State.bankWord, State.window, halign, hwin, hregion, hheld, Bool.not_true, Bool.false_eq_true, if_true, if_false]
  rfl

theorem State.localPoison_eq_false {a n : Nat} (hn : 0 < n) (h : s.Unpoisoned a n) : s.localPoison s.iss.core a n = false := by
  refine List.any_eq_false.2 fun w hw => ?_
  simp only [decide_eq_true_eq, not_and, not_lt]
  intro hlo
  by_contra hhi
  by_cases ha : a ≤ 8 * w
  · exact h (8 * w - a) (by omega) (by rwa [show (a + (8 * w - a)) / 8 = w by omega])
  · exact h 0 hn (by rwa [show (a + 0) / 8 = w by omega])

theorem eaOf_cur (base idx : BitVec 6) (scl : BitVec 2) (off : BitVec 48) :
    eaOf s.cur base idx scl off = s.rx base + s.rx idx * 2#64 ^ scl.toNat + off.signExtend 64 := by
  have hshift (n : Nat) : BitVec.twoPow 64 n = (2#64 : Word) ^ n := by
    apply BitVec.eq_of_toNat_eq
    rw [BitVec.toNat_twoPow, BitVec.toNat_pow]
    rfl
  rw [eaOf, BitVec.shiftLeft_eq_mul_twoPow, hshift]
  rfl

end Sys2Proof.Machine
end

section
/-! PROOFS. Operations on the state that instructions of threads and events share: writes of local memory, changes of launches,
requests of the issuing thread, L1 data caches. -/
namespace Sys2Proof.Machine

variable (s : State)

/-! ### Writes of local memory (R163, R249, R349) -/

theorem State.localWrite_eq (c a n v : Nat) : s.localWrite c a n v = { s with
    cores := (s.localWrite c a n v).cores
    net := s.net.map fun m => if m.watches (bankDom c) a n then { m with st := .poked } else m } := rfl

/-- What a write of local memory makes of its core: the bytes are there, and words written whole lose their poison (R249). -/
def Core.bankWrite (k : Core) (a n v : Nat) : Core := { k with
  lmem := Memory.write k.lmem a n v
  lpoison := k.lpoison.filter fun w => !decide (a ≤ 8 * w ∧ 8 * w + 8 ≤ a + n) }

theorem State.core_localWrite_modCore (c a n v i : Nat) :
    (s.localWrite c a n v).core i = (s.modCore c fun k => k.bankWrite a n v).core i := rfl

theorem State.core_localWrite_self (c a n v : Nat) : (s.localWrite c a n v).core c = (s.core c).bankWrite a n v := by
  rw [State.core_localWrite_modCore, State.core_modCore_self]

theorem State.core_localWrite_ne {c i : Nat} (h : i ≠ c) (a n v : Nat) : (s.localWrite c a n v).core i = s.core i := by
  rw [State.core_localWrite_modCore, State.core_modCore_ne s _ h]

/-- A write of local memory touches nothing of a core but its bytes and their poison. -/
theorem State.core_localWrite (c a n v i : Nat) : (s.localWrite c a n v).core i = { s.core i with
    lmem := ((s.localWrite c a n v).core i).lmem, lpoison := ((s.localWrite c a n v).core i).lpoison } := by
  by_cases h : i = c
  · subst h; rw [State.core_localWrite_self]; rfl
  · rw [State.core_localWrite_ne s h]

@[simp] theorem State.thread?_localWrite (c a n v i sl : Nat) : (s.localWrite c a n v).thread? i sl = s.thread? i sl := by
  rw [State.thread?, State.core_localWrite]; rfl

@[simp] theorem State.thread_localWrite (c a n v i sl : Nat) : (s.localWrite c a n v).thread i sl = s.thread i sl := by
  rw [State.thread, State.thread?_localWrite]; rfl

@[simp] theorem State.cur_localWrite (c a n v : Nat) : (s.localWrite c a n v).cur = s.cur := State.thread_localWrite s c a n v _ _

@[simp] theorem State.dom_localWrite (c a n v d : Nat) : (s.localWrite c a n v).dom d = s.dom d := rfl
@[simp] theorem State.cache_localWrite (c a n v d : Nat) : (s.localWrite c a n v).cache d = s.cache d := rfl
@[simp] theorem State.iss_localWrite (c a n v : Nat) : (s.localWrite c a n v).iss = s.iss := rfl
@[simp] theorem State.nextId_localWrite (c a n v : Nat) : (s.localWrite c a n v).nextId = s.nextId := rfl

theorem State.lbyte_localWrite_outside {a n v b : Nat} (h : b < a ∨ a + n ≤ b) :
    (s.localWrite s.iss.core a n v).lbyte b = s.lbyte b := by
  rw [State.lbyte, State.curCore, State.iss_localWrite, State.core_localWrite_self]
  exact Memory.get_write_outside _ _ _ _ _ h

theorem State.lbit_localWrite {a n v j : Nat} (h : j < 8 * n) : (s.localWrite s.iss.core a n v).lbit a j = v.testBit j := by
  rw [State.lbit, State.lbyte, State.curCore, State.iss_localWrite, State.core_localWrite_self]
  show (Memory.get (Memory.write _ a n v) _).getLsbD _ = _
  rw [Memory.get_write_inside _ _ _ _ _ (by omega), byte_getLsbD _ _ (by omega), show 8 * (j / 8) + j % 8 = j by omega]

theorem State.lbit_localWrite_word {a v j : Nat} (h : j < 64) :
    (s.localWrite s.iss.core a 8 v).lbit a j = (BitVec.ofNat 64 v).getLsbD j := by
  rw [s.lbit_localWrite (by omega), BitVec.getLsbD_ofNat, decide_eq_true h, Bool.true_and]

theorem State.localRead_cur (a n : Nat) : s.localRead s.iss.core a n = Memory.read s.curCore.lmem a n := rfl

/-- A write of the issuing core's local memory does what the terms of the statements say of one. -/
theorem State.localWrite_localWrite (a n v : Nat) :
    s.LocalWrite (s.localWrite s.iss.core a n v) a n v.testBit (Whole a n) := by
  refine ⟨fun j hj => s.lbit_localWrite hj, fun b hb => s.lbyte_localWrite_outside hb, fun w => ?_, s.core_localWrite _ _ _ _ _,
    fun i hi => s.core_localWrite_ne hi _ _ _, ⟨fun m => m.watches (bankDom s.iss.core) a n, rfl, fun m _ => ?_⟩, rfl⟩
  · rw [State.curCore, State.iss_localWrite, State.core_localWrite_self]
    simp only [Core.bankWrite, Whole, State.curCore, List.mem_filter, Bool.not_eq_true', decide_eq_false_iff_not]
  · simp [Msg.watches, and_assoc]

/-! ### Launches -/

@[simp] theorem State.core_modLaunch (d n : Nat) (g : Launch → Launch) (c : Nat) : (s.modLaunch d n g).core c = s.core c := by
  rw [State.modLaunch_eq]; rfl
@[simp] theorem State.thread?_modLaunch (d n : Nat) (g : Launch → Launch) (c sl : Nat) :
    (s.modLaunch d n g).thread? c sl = s.thread? c sl := by rw [State.modLaunch_eq]; rfl
@[simp] theorem State.cache_modLaunch (d n : Nat) (g : Launch → Launch) (a : Nat) : (s.modLaunch d n g).cache a = s.cache a := by
  rw [State.modLaunch_eq]; rfl
@[simp] theorem State.net_modLaunch (d n : Nat) (g : Launch → Launch) : (s.modLaunch d n g).net = s.net := by
  rw [State.modLaunch_eq]
@[simp] theorem State.iss_modLaunch (d n : Nat) (g : Launch → Launch) : (s.modLaunch d n g).iss = s.iss := by
  rw [State.modLaunch_eq]
@[simp] theorem State.caches_modLaunch (d n : Nat) (g : Launch → Launch) : (s.modLaunch d n g).caches = s.caches := by
  rw [State.modLaunch_eq]
@[simp] theorem State.cur_modLaunch (d n : Nat) (g : Launch → Launch) : (s.modLaunch d n g).cur = s.cur := by
  rw [State.modLaunch_eq]; rfl

/-- A change of one launch of a domain changes nothing else of the domain. -/
theorem State.dom_modLaunch (d n : Nat) (g : Launch → Launch) (e : Nat) :
    (s.modLaunch d n g).dom e = { s.dom e with launches := ((s.modLaunch d n g).dom e).launches } := by
  by_cases h : e = d
  · subst h
    unfold State.modLaunch
    split
    · rw [State.dom_modDom_self]
    · rfl
  · rw [State.modLaunch_dom_ne s h]

@[simp] theorem State.mem_modLaunch (d n : Nat) (g : Launch → Launch) (e : Nat) :
    ((s.modLaunch d n g).dom e).mem = (s.dom e).mem := by rw [State.dom_modLaunch]

theorem State.lookup_modLaunch_self (d n : Nat) (g : Launch → Launch) :
    lookup ((s.modLaunch d n g).dom d).launches n = (lookup (s.dom d).launches n).map g := by
  unfold State.modLaunch
  split
  · next l h => rw [State.dom_modDom_self, lookup_insertKey_self, h]; rfl
  · next h => rw [h]; rfl

theorem State.lookup_modLaunch_ne {d n e k : Nat} (h : ¬(e = d ∧ k = n)) (g : Launch → Launch) :
    lookup ((s.modLaunch d n g).dom e).launches k = lookup (s.dom e).launches k := by
  by_cases hd : e = d
  · subst hd
    unfold State.modLaunch
    split
    · rw [State.dom_modDom_self, lookup_insertKey_ne _ _ fun hk => h ⟨rfl, hk⟩]
    · rfl
  · rw [State.modLaunch_dom_ne s hd]

/-- A change of launches changes no memory. -/
theorem State.SameMemory.modLaunch (d n : Nat) (g : Launch → Launch) : s.SameMemory (s.modLaunch d n g) :=
  ⟨fun _ _ => by rw [State.mem_modLaunch], fun _ _ => by rw [State.core_modLaunch], fun _ => by rw [State.cache_modLaunch]⟩

theorem State.SameMemory.trans {s t u : State} (h : s.SameMemory t) (h' : t.SameMemory u) : s.SameMemory u := by
  obtain ⟨hd, hc, ha⟩ := h
  obtain ⟨hd', hc', ha'⟩ := h'
  exact ⟨fun d a => (hd' d a).trans (hd d a), fun c a => (hc' c a).trans (hc c a), fun a => (ha' a).trans (ha a)⟩

theorem State.SameMemory.lbyte {s t : State} (h : s.SameMemory t) (hi : t.iss = s.iss) (k : Nat) : t.lbyte k = s.lbyte k := by
  obtain ⟨-, hc, -⟩ := h
  rw [State.lbyte, State.curCore, hi]
  exact hc _ k

/-- A change of a core that keeps its local memory changes no memory. -/
theorem State.SameMemory.modCore (c : Nat) {g : Core → Core} (h : (g (s.core c)).lmem = (s.core c).lmem) :
    s.SameMemory (s.modCore c g) := by
  refine ⟨fun _ _ => rfl, fun i a => ?_, fun _ => rfl⟩
  by_cases hi : i = c
  · subst hi; rw [State.core_modCore_self, h]
  · rw [State.core_modCore_ne s _ hi]

/-- A change of a domain that keeps its memory changes no memory. -/
theorem State.SameMemory.modDom (d : Nat) {g : Dom → Dom} (h : (g (s.dom d)).mem = (s.dom d).mem) :
    s.SameMemory (s.modDom d g) := by
  refine ⟨fun e a => ?_, fun _ _ => rfl, fun _ => rfl⟩
  by_cases he : e = d
  · subst he; rw [State.dom_modDom_self, h]
  · rw [State.dom_modDom_ne s _ he]

/-! ### Requests of the issuing thread (R109, R126) -/

theorem State.mem_net_post (m : Msg) : { m with id := s.nextId } ∈ (s.post m).net := List.mem_append_right _ (List.mem_singleton.2 rfl)

/-- A request of the issuing thread is its own whatever it asks and carries. -/
theorem State.mine_curMsg (kind : MKind) (pa n : Nat) (va : Word) (ord scope : Nat) (epoch : BitVec 24) (after : List Nat)
    (data : BitVec 1024) (dst : Dst) (wait : Bool) : s.Mine { s.curMsg kind pa n va with
      id := s.nextId, ord := ord, scope := scope, epoch := epoch, after := after, data := data, dst := dst, wait := wait } :=
  ⟨rfl, rfl, rfl, rfl, rfl, rfl, rfl, rfl, rfl, rfl, rfl, rfl, rfl, rfl, rfl, rfl, rfl⟩

/-- Posting a request for which the thread waits sends it, and parks the thread, or in slot 14 makes it lose turns. -/
theorem State.postWait_eq (m : Msg) : s.postWait m = { s.setThread s.iss.core s.iss.slot
    (if s.iss.slot = 14 then { s.cur with awaits := some s.nextId } else { s.cur with st := .parked (.home s.nextId) }) with
      net := s.net ++ [{ m with wait := true, id := s.nextId }], nextId := s.nextId + 1 } := by
  unfold State.postWait State.awaitReply
  show (if s.iss.slot = 14 then _ else _) = _
  split <;> rfl

/-- Posting a request and waiting for its reply is what the terms of the statements call so. -/
theorem State.sendsAndWaits_postWait {m : Msg} (h : s.Mine { m with wait := true, id := s.nextId }) :
    s.SendsAndWaits (s.postWait m) { m with wait := true, id := s.nextId } :=
  ⟨h, rfl, s.postWait_eq m⟩

/-- A request of the issuing thread as it stands on the wait list of a local word (R110). -/
def State.bankWaiter (s : State) (m : Msg) (a : Nat) : Msg :=
  { m with dom := bankDom s.iss.core, pa := a, st := .waiting, wait := true, id := s.nextId }

/-- A thread outside slot 14 that waits at a bank is parked on its wait list (R110). -/
theorem State.waitAtBank_eq (hsl : s.iss.slot ≠ 14) (m : Msg) (a : Nat) : s.waitAtBank m a =
    { s.setThread s.iss.core s.iss.slot { s.cur with st := .parked (.home s.nextId) } with
      net := s.net ++ [s.bankWaiter m a], nextId := s.nextId + 1 } := by
  rw [State.waitAtBank, State.postWait_eq, if_neg hsl]; rfl

/-! ### L1 data caches (R242, R261, R262) -/

theorem State.sendWriteBack_eq (agent : Nat) (l : L1Line) : s.sendWriteBack agent l =
    { s with net := (s.sendWriteBack agent l).net, nextId := s.nextId + 1 } := rfl

theorem State.cache_sendWriteBack (agent : Nat) (l : L1Line) (a : Nat) : (s.sendWriteBack agent l).cache a = s.cache a := rfl

theorem State.flushLine_eq (agent d pa : Nat) : s.flushLine agent d pa = { s with
    caches := (s.flushLine agent d pa).caches, net := (s.flushLine agent d pa).net, nextId := (s.flushLine agent d pa).nextId } := by
  unfold State.flushLine
  dsimp only
  split
  · rfl
  · split <;> rfl

theorem Cache.find_drop (k : Cache) (d line : Nat) : (k.drop d line).find d line = none := by
  rw [Cache.find, Cache.drop, List.find?_eq_none]
  intro l hl hit
  have hkept := (List.mem_filter.1 hl).2
  rw [hit] at hkept
  exact absurd hkept (by decide)

/-- The cache of an agent after a flush: the line is gone, the counters stay. -/
theorem State.cache_flushLine (agent d pa : Nat) : (s.flushLine agent d pa).cache agent = (s.cache agent).drop d (lineOf pa) := by
  unfold State.flushLine
  dsimp only
  split
  · next h =>
    show s.cache agent = _
    have hnone : ∀ l ∈ (s.cache agent).lines, ¬(l.dom == d && l.line == lineOf pa) = true := List.find?_eq_none.1 h
    rw [Cache.drop, List.filter_eq_self.2 fun l hl => by rw [Bool.eq_false_iff.2 (hnone l hl)]; rfl]
  · split
    · exact State.cache_modCache_self (s.spoilLine agent d (lineOf pa)) agent _
    · rw [State.cache_sendWriteBack, State.cache_modCache_self]; rfl

@[simp] theorem State.cur_flushLine (agent d pa : Nat) : (s.flushLine agent d pa).cur = s.cur := by
  rw [State.flushLine_eq]; rfl
@[simp] theorem State.dom_flushLine (agent d pa e : Nat) : (s.flushLine agent d pa).dom e = s.dom e := by
  rw [State.flushLine_eq]; rfl
@[simp] theorem State.core_flushLine (agent d pa e : Nat) : (s.flushLine agent d pa).core e = s.core e := by
  rw [State.flushLine_eq]; rfl
@[simp] theorem State.iss_flushLine (agent d pa : Nat) : (s.flushLine agent d pa).iss = s.iss := by
  rw [State.flushLine_eq]
@[simp] theorem State.thread?_flushLine (agent d pa c sl : Nat) : (s.flushLine agent d pa).thread? c sl = s.thread? c sl := by
  rw [State.flushLine_eq]; rfl

theorem State.countRelease_eq (agent : Nat) : s.countRelease agent = { s with caches := (s.countRelease agent).caches } := rfl

theorem State.relcnt_countRelease (agent : Nat) : ((s.countRelease agent).cache agent).relcnt = (s.cache agent).relcnt + 1#64 := by
  rw [State.countRelease, State.cache_modCache_self]; rfl

theorem State.lines_countRelease (agent : Nat) : ((s.countRelease agent).cache agent).lines = (s.cache agent).lines := by
  rw [State.countRelease, State.cache_modCache_self]

end Sys2Proof.Machine
end

section
/-! PROOFS. What a translation leaves alone: a walk uses lines of its domain's homes, and its leaf enters the TLBs (R235, R239,
R244, R302). -/
namespace Sys2Proof.Machine

/-- A home that uses a line changes its slices and its directory (R244, R302). -/
theorem Dom.touchL2_eq (v : Dom) (line now : Nat) :
    v.touchL2 line now = { v with l2 := (v.touchL2 line now).l2, llc := (v.touchL2 line now).llc, dir := (v.touchL2 line now).dir } := by
  have hspill (w : Dom) : w.spillL2 line = { w with l2 := (w.spillL2 line).l2, llc := (w.spillL2 line).llc } := by
    unfold Dom.spillL2
    dsimp only
    split
    · rfl
    · split
      · rfl
      · split <;> rfl
  unfold Dom.touchL2
  split
  · rfl
  · rw [hspill]; rfl

/-- Between `s` and `t` an address has been translated for a core: TLBs and walker caches have been filled, and the homes have
used the lines of the tables. -/
structure State.Translated (s t : State) : Prop where
  state : t = { s with cores := t.cores, ctlbs := t.ctlbs, doms := t.doms }
  core : ∀ c, t.core c = { s.core c with tlb := (t.core c).tlb }
  dom : ∀ d, t.dom d = { s.dom d with
    l2 := (t.dom d).l2, llc := (t.dom d).llc, dir := (t.dom d).dir, reqs := (t.dom d).reqs, asked := (t.dom d).asked,
    walk := (t.dom d).walk }

namespace State.Translated
variable {s t u : State}

theorem refl (s : State) : s.Translated s := ⟨rfl, fun _ => rfl, fun _ => rfl⟩

theorem trans (h : s.Translated t) (h' : t.Translated u) : s.Translated u := by
  refine ⟨?_, fun c => ?_, fun d => ?_⟩
  · rw [h'.state, h.state]
  · rw [h'.core, h.core]
  · rw [h'.dom, h.dom]

theorem iss (h : s.Translated t) : t.iss = s.iss := by rw [h.state]
theorem net (h : s.Translated t) : t.net = s.net := by rw [h.state]
theorem nextId (h : s.Translated t) : t.nextId = s.nextId := by rw [h.state]
theorem cycle (h : s.Translated t) : t.cycle = s.cycle := by rw [h.state]
theorem cache (h : s.Translated t) (a : Nat) : t.cache a = s.cache a := by rw [h.state]; rfl
theorem slots (h : s.Translated t) (c : Nat) : (t.core c).slots = (s.core c).slots := by rw [h.core]
theorem thread? (h : s.Translated t) (c sl : Nat) : t.thread? c sl = s.thread? c sl := by rw [State.thread?, h.slots]; rfl
theorem thread (h : s.Translated t) (c sl : Nat) : t.thread c sl = s.thread c sl := by rw [State.thread, h.thread?]; rfl
theorem cur (h : s.Translated t) : t.cur = s.cur := by rw [State.cur, h.iss, h.thread]; rfl
theorem agentOf (h : s.Translated t) (c : Nat) : t.agentOf c = s.agentOf c := by rw [State.agentOf, h.core]; rfl
theorem curAgent (h : s.Translated t) : t.curAgent = s.curAgent := by rw [State.curAgent, h.iss, h.agentOf]; rfl
theorem launches (h : s.Translated t) (d : Nat) : (t.dom d).launches = (s.dom d).launches := by rw [h.dom]
theorem launch (h : s.Translated t) (d n : Nat) : t.launch d n = s.launch d n := by rw [State.launch, h.launches]; rfl
theorem curLaunch (h : s.Translated t) : t.curLaunch = s.curLaunch := by rw [State.curLaunch, h.cur, h.launch]; rfl
theorem lmem (h : s.Translated t) (c : Nat) : (t.core c).lmem = (s.core c).lmem := by rw [h.core]
theorem mem (h : s.Translated t) (d : Nat) : (t.dom d).mem = (s.dom d).mem := by rw [h.dom]
theorem sameMemory (h : s.Translated t) : s.SameMemory t :=
  ⟨fun d a => by rw [h.mem], fun c a => by rw [h.lmem], h.cache⟩
theorem rx (h : s.Translated t) (r : BitVec 6) : t.rx r = s.rx r := by rw [State.rx, h.cur]; rfl

/-- A change of a domain's slices, directory, waiting requests and walker cache. -/
theorem setDom {d : Nat} {v : Dom} (h : v = { s.dom d with
    l2 := v.l2, llc := v.llc, dir := v.dir, reqs := v.reqs, asked := v.asked, walk := v.walk }) : s.Translated (s.setDom d v) := by
  refine ⟨rfl, fun _ => rfl, fun e => ?_⟩
  by_cases he : e = d
  · subst he; rw [State.dom_setDom_self]; exact h
  · rw [State.dom_setDom_ne s _ he]

/-- A request that the gate lets through. -/
theorem of_gate {d pa id : Nat} {write : Bool} (h : s.gate d pa id write = .ready t) : s.Translated t := by
  have hpass (line id : Nat) (host : Bool) : s.Translated (s.pass d line id host) := by
    unfold State.pass
    dsimp only
    split
    · exact setDom (by split <;> rfl)
    · exact refl s
  unfold State.gate at h
  dsimp only at h
  split at h
  · cases h
  · split at h
    · cases h
    · split at h
      · cases h
      · split at h
        · cases h; exact hpass _ _ _
        · cases h

/-- A home that uses a line. -/
theorem touchL2 (d line now : Nat) : s.Translated (s.modDom d fun v => v.touchL2 line now) :=
  setDom (v := (s.dom d).touchL2 line now) (by rw [Dom.touchL2_eq])

end State.Translated

variable {s t : State}

/-- The walker's read of an entry (R239). -/
theorem State.translated_of_walkRead {d asn va level addr : Nat} {w : Word}
    (h : State.walkRead d asn va s level addr = (t, .word w)) : s.Translated t := by
  unfold State.walkRead at h
  dsimp only at h
  split at h
  · cases h; exact .refl s
  · split at h
    · cases h
    · split at h
      · cases h
      · next hg =>
        obtain ⟨rfl, -⟩ := Prod.mk.inj h
        exact (State.Translated.of_gate hg).trans (.touchL2 _ _ _)

/-- A walk that reaches a leaf (R235). -/
theorem State.translated_of_walkFrom {d asn va : Nat} {pte : Word} {shift lv : Nat} {path : List (Nat × Word)} :
    ∀ {fuel level table : Nat} {tg : Bool} {acc : List (Nat × Word)} {s : State},
      walkFrom (State.walkRead d asn va) va s fuel level table tg acc = (t, .leaf pte shift lv path) → s.Translated t
  | 0, _, _, _, _, _, h => by cases h
  | fuel + 1, level, table, tg, acc, s, h => by
    rw [walkFrom] at h
    split at h
    · cases h
    · cases h
    · next hread =>
      have hstep := State.translated_of_walkRead hread
      split at h
      · cases h
      · split at h
        · cases h
        · split at h
          · exact hstep.trans (State.translated_of_walkFrom h)
          · cases h; exact hstep

theorem State.translated_installTlb (s : State) (c : Nat) (e : TlbEnt) (va : Nat) (path : List (Nat × Word)) :
    s.Translated (s.installTlb c e va path) := by
  refine ⟨rfl, fun i => ?_, fun d => ?_⟩
  · have hcore : (s.installTlb c e va path).core i =
        (s.modCore c fun k => { k with tlb := (putTlb k.tlb e).take 64 }).core i := rfl
    rw [hcore]
    by_cases hi : i = c
    · subst hi; rw [State.core_modCore_self]
    · rw [State.core_modCore_ne s _ hi]
  · unfold State.installTlb
    by_cases hd : d = e.dom
    · subst hd; rw [State.dom_modDom_self]; rfl
    · rw [State.dom_modDom_ne _ _ hd]; rfl

/-- A translation of the issuing thread that succeeds (R237). -/
theorem State.translated_of_translateCur {a : Word} {need : Need} {pa : Nat} {e : TlbEnt}
    (h : s.translateCur a need = (t, .ok pa e)) : s.Translated t := by
  unfold State.translateCur State.translate at h
  split at h
  · cases h
  · split at h
    · cases h
    · dsimp only at h
      split at h
      · obtain ⟨rfl, -⟩ := Prod.mk.inj h
        exact .refl s
      · split at h
        · cases h
        · cases h
        · next hwalk =>
          obtain ⟨rfl, -⟩ := Prod.mk.inj h
          exact (State.translated_of_walkFrom hwalk).trans (State.translated_installTlb _ _ _ _ _)

end Sys2Proof.Machine
end

section
/-! PROOFS. Groups of x registers, the start of a thread, and self-invalidation (R80, R113, R265). -/
namespace Sys2Proof.Machine

/-! ### Groups of x registers -/

theorem Thread.getD_getXs (t : Thread) (r : BitVec 6) {n j : Nat} (h : j < n) :
    (t.getXs r n).getD j 0#64 = t.getX (r + BitVec.ofNat 6 j) := by
  simp [Thread.getXs, regAt, h]

theorem Thread.length_getXs (t : Thread) (r : BitVec 6) (n : Nat) : (t.getXs r n).length = n := by simp [Thread.getXs]

/-- A write of a group changes x registers alone. -/
theorem Thread.setXs_eq (vs : List Word) : ∀ (t : Thread) (r : BitVec 6), t.setXs r vs = { t with x := (t.setXs r vs).x } := by
  induction vs with
  | nil => exact fun _ _ => rfl
  | cons v vs ih =>
    intro t r
    rw [Thread.setXs, ih, Thread.setX]
    split <;> rfl

theorem Thread.getX_setX_ne (t : Thread) {d k : BitVec 6} (v : Word) (h : k ≠ d) : (t.setX d v).getX k = t.getX k := by
  rw [Thread.getX_setX, if_neg h]
  split
  · next h0 => rw [h0]; rfl
  · rfl

/-- A group that lies above x0: its registers hold its words, and the others are as before. -/
theorem Thread.getX_setXs (vs : List Word) : ∀ {t : Thread} {r k : BitVec 6}, 0 < r.toNat → r.toNat + vs.length ≤ 64 →
    (t.setXs r vs).getX k =
      if r.toNat ≤ k.toNat ∧ k.toNat < r.toNat + vs.length then vs.getD (k.toNat - r.toNat) 0#64 else t.getX k := by
  induction vs with
  | nil =>
    intro t r k _ _
    rw [Thread.setXs, if_neg (by simp)]
  | cons v vs ih =>
    intro t r k h0 hlen
    rw [List.length_cons] at hlen ⊢
    have hself : (t.setX r v).getX r = v := by
      rw [Thread.getX_setX, if_neg (fun h => by rw [h] at h0; exact absurd h0 (by decide)), if_pos rfl]
    have htail : ((t.setX r v).setXs (r + 1#6) vs).getX k =
        if r.toNat + 1 ≤ k.toNat ∧ k.toNat < r.toNat + 1 + vs.length then vs.getD (k.toNat - (r.toNat + 1)) 0#64
        else (t.setX r v).getX k := by
      cases vs with
      | nil => rw [Thread.setXs, if_neg (by simp)]
      | cons w ws =>
        have hnext : (r + 1#6).toNat = r.toNat + 1 := by
          rw [BitVec.toNat_add]
          exact Nat.mod_eq_of_lt (by rw [List.length_cons] at hlen; show r.toNat + 1 < 2 ^ 6; omega)
        rw [ih (by omega) (by omega), hnext]
    rw [Thread.setXs, htail]
    by_cases hk : k = r
    · subst hk
      rw [if_neg (by omega), if_pos (by omega), Nat.sub_self, hself]; rfl
    · have hne : k.toNat ≠ r.toNat := fun h => hk (BitVec.eq_of_toNat_eq h)
      rw [Thread.getX_setX_ne t v hk]
      by_cases hin : r.toNat + 1 ≤ k.toNat ∧ k.toNat < r.toNat + 1 + vs.length
      · rw [if_pos hin, if_pos (by omega), show k.toNat - r.toNat = k.toNat - (r.toNat + 1) + 1 by omega, List.getD_cons_succ]
      · rw [if_neg hin, if_neg (by omega)]

/-! ### The start of a thread (R80, R113) -/

/-- The thread that a start gives a slot before its registers are set: it is blank but for its context, and READY. -/
def State.freshAt (s : State) (c sl : Nat) (p : Thread) (pc : Word) : Thread :=
  { Thread.blank with
    gen := s.nextId, pc := pc, npc := pc, startAt := (s.core c).cyc + 16, lvl := s.startLevel p, rseq := rseqStart (tidOf c sl),
    dom := p.dom, asn := p.asn, root := p.root, launch := p.launch }

theorem State.startThread_eq (s : State) (c sl : Nat) (p : Thread) (pc : Word) (setup : Thread → Thread) :
    s.startThread c sl p pc setup = { s with nextId := s.nextId + 1 }.setThread c sl (setup (s.freshAt c sl p pc)) := rfl

theorem State.core_setThread_self (s : State) (c sl : Nat) (t : Thread) :
    (s.setThread c sl t).core c = { s.core c with slots := insertKey (s.core c).slots sl t } := State.core_modCore_self s c _

theorem State.core_setThread_ne (s : State) {c i : Nat} (h : i ≠ c) (sl : Nat) (t : Thread) :
    (s.setThread c sl t).core i = s.core i := State.core_modCore_ne s _ h

theorem State.core_startThread_self (s : State) (c sl : Nat) (p : Thread) (pc : Word) (setup : Thread → Thread) :
    (s.startThread c sl p pc setup).core c =
      { s.core c with slots := insertKey (s.core c).slots sl (setup (s.freshAt c sl p pc)) } := by
  rw [State.startThread_eq, State.core_setThread_self]; rfl

theorem State.core_startThread_ne (s : State) {c i : Nat} (h : i ≠ c) (sl : Nat) (p : Thread) (pc : Word) (setup : Thread → Thread) :
    (s.startThread c sl p pc setup).core i = s.core i := by
  rw [State.startThread_eq, State.core_setThread_ne _ h]; rfl

/-! ### Self-invalidation (R265) -/

/-- Self-invalidation touches no domain and no core, and loads under way of the agent no longer allocate. -/
theorem State.selfInvalidate_eq (s : State) (agent : Nat) : s.selfInvalidate agent = { s with
    net := (s.selfInvalidate agent).net, caches := (s.selfInvalidate agent).caches } := rfl

/-- What stays of a line under self-invalidation. -/
def L1Line.dirtyOnly (l : L1Line) : L1Line := if l.keep then l else { l with valid := l.dirty, poison := 0 }

theorem State.lines_selfInvalidate (s : State) (agent : Nat) : ((s.selfInvalidate agent).cache agent).lines =
    ((s.cache agent).lines.filter fun l => l.keep || l.dirty != 0).map L1Line.dirtyOnly := by
  unfold State.selfInvalidate
  rw [State.cache_modCache_self]; rfl

theorem selfInvalidated_selfInvalidate (s : State) (agent : Nat) : selfInvalidated s (s.selfInvalidate agent) agent := by
  refine ⟨fun a ha => State.cache_modCache_ne (s.spoilFills agent fun _ _ => true) _ ha, rfl, rfl, fun l => ?_⟩
  rw [State.lines_selfInvalidate]
  simp only [List.mem_map, List.mem_filter]
  refine exists_congr fun o => ?_
  by_cases hkeep : o.keep = true
  · have hstays : o.dirtyOnly = o := if_pos hkeep
    rw [hstays, eq_comm (b := l)]
    simp [hkeep]
  · have hstays : o.dirtyOnly = { o with valid := o.dirty, poison := 0#16 } := if_neg hkeep
    rw [hstays, eq_comm (b := l)]
    simp [hkeep, and_assoc]

end Sys2Proof.Machine
end

section
/-! PROOFS. O32: RETIRE, RETIRE.J, YIELD and PARK (R109, R111, R115, R118 to R120, R126, R251). -/
namespace Sys2Proof.Machine

variable (s : State)

/-! ### Ending a thread (R118) -/

/-- What ends a thread changes of its core the streams and the cube. -/
theorem State.core_endEffects (c sl i : Nat) : (s.endEffects c sl).core i =
    { s.core i with gens := ((s.endEffects c sl).core i).gens, cube := ((s.endEffects c sl).core i).cube } := by
  have hcore : (s.endEffects c sl).core i =
      (s.modCore c fun k => (k.dropStreams sl (s.thread c sl).gen fun _ => true).leaveCube sl).core i :=
    State.core_modLaunch _ _ _ _ i
  rw [hcore]
  by_cases hi : i = c
  · subst hi
    rw [State.core_modCore_self]
    unfold Core.leaveCube
    split
    · split <;> rfl
    · rfl
  · rw [State.core_modCore_ne s _ hi]

theorem State.net_endEffects (c sl : Nat) : (s.endEffects c sl).net = s.net := State.net_modLaunch _ _ _ _
theorem State.iss_endEffects (c sl : Nat) : (s.endEffects c sl).iss = s.iss := State.iss_modLaunch _ _ _ _

@[simp] theorem State.thread?_endEffects (c sl i k : Nat) : (s.endEffects c sl).thread? i k = s.thread? i k := by
  rw [State.thread?, State.core_endEffects]; rfl

/-- What ends a thread touches no work count. -/
theorem State.work_endEffects (c sl d n : Nat) :
    (lookup ((s.endEffects c sl).dom d).launches n).map Launch.work = (lookup (s.dom d).launches n).map Launch.work := by
  have hdom : ∀ e, (((s.modCore c fun k => (k.dropStreams sl (s.thread c sl).gen fun _ => true).leaveCube sl).modDom (s.thread c sl).dom
      fun v => v.closeLed (s.thread c sl).gen).dom e).launches = (s.dom e).launches := by
    intro e
    by_cases he : e = (s.thread c sl).dom
    · rw [he, State.dom_modDom_self]; rfl
    · rw [State.dom_modDom_ne _ _ he]; rfl
  unfold State.endEffects
  dsimp only
  by_cases h : d = (s.thread c sl).dom ∧ n = (s.thread c sl).launch
  · obtain ⟨rfl, rfl⟩ := h
    rw [State.lookup_modLaunch_self, hdom, Option.map_map]; rfl
  · rw [State.lookup_modLaunch_ne _ h, hdom]

/-- What ends a thread changes no memory. -/
theorem State.SameMemory.endEffects (c sl : Nat) : s.SameMemory (s.endEffects c sl) := by
  refine ⟨fun d a => ?_, fun i a => by rw [State.core_endEffects], fun a => State.cache_modLaunch _ _ _ _ a⟩
  unfold State.endEffects
  dsimp only
  rw [State.mem_modLaunch]
  by_cases he : d = (s.thread c sl).dom
  · rw [he, State.dom_modDom_self]; rfl
  · rw [State.dom_modDom_ne _ _ he]; rfl

theorem State.core_freeSlotAt_self (c sl : Nat) :
    (s.freeSlotAt c sl).core c = { s.core c with slots := eraseKey (s.core c).slots sl } := State.core_modCore_self s c _

theorem State.thread?_freeSlotAt_self (c sl : Nat) : (s.freeSlotAt c sl).thread? c sl = none := by
  rw [State.thread?, State.core_freeSlotAt_self]; exact lookup_eraseKey_self _ _

theorem State.thread?_freeSlotAt_ne {c sl k : Nat} (h : k ≠ sl) : (s.freeSlotAt c sl).thread? c k = s.thread? c k := by
  rw [State.thread?, State.core_freeSlotAt_self]; exact lookup_eraseKey_ne _ h

/-- The state after effects 1 to 4: the thread is gone. -/
def State.cleared (s : State) (c sl : Nat) : State := (s.endEffects c sl).freeSlotAt c sl

theorem State.endThread_eq (c sl : Nat) (counted : Bool) : s.endThread c sl counted =
    if counted && !(s.thread c sl).ended then (s.cleared c sl).subWork (s.thread c sl).dom (s.thread c sl).launch else s.cleared c sl :=
  rfl

theorem State.thread?_endThread_self (c sl : Nat) (counted : Bool) : (s.endThread c sl counted).thread? c sl = none := by
  rw [State.endThread_eq]
  split
  · exact (State.thread?_modLaunch _ _ _ _ _ _).trans (State.thread?_freeSlotAt_self _ _ _)
  · exact State.thread?_freeSlotAt_self _ _ _

theorem State.thread?_endThread_ne {c sl k : Nat} (h : k ≠ sl) (counted : Bool) :
    (s.endThread c sl counted).thread? c k = s.thread? c k := by
  have hcleared : (s.cleared c sl).thread? c k = s.thread? c k :=
    (State.thread?_freeSlotAt_ne _ h).trans (State.thread?_endEffects s c sl c k)
  rw [State.endThread_eq]
  split
  · exact (State.thread?_modLaunch _ _ _ _ _ _).trans hcleared
  · exact hcleared

theorem State.SameMemory.endThread (c sl : Nat) (counted : Bool) : s.SameMemory (s.endThread c sl counted) := by
  have hcleared : s.SameMemory (s.cleared c sl) :=
    (State.SameMemory.endEffects s c sl).trans (State.SameMemory.modCore _ c rfl)
  rw [State.endThread_eq]
  split
  · exact hcleared.trans (State.SameMemory.modLaunch _ _ _ _)
  · exact hcleared

theorem State.iss_endThread (c sl : Nat) (counted : Bool) : (s.endThread c sl counted).iss = s.iss := by
  rw [State.endThread_eq]
  split
  · exact (State.iss_modLaunch _ _ _ _).trans (State.iss_endEffects s c sl)
  · exact State.iss_endEffects s c sl

theorem State.net_endThread (c sl : Nat) (counted : Bool) : (s.endThread c sl counted).net = s.net := by
  rw [State.endThread_eq]
  split
  · exact (State.net_modLaunch _ _ _ _).trans (State.net_endEffects s c sl)
  · exact State.net_endEffects s c sl

/-- The end of a thread that is counted takes one from the work of its launch (R115). -/
theorem State.work_endThread {c sl : Nat} {l : Launch} (hended : (s.thread c sl).ended = false)
    (hl : lookup (s.dom (s.thread c sl).dom).launches (s.thread c sl).launch = some l) :
    (lookup ((s.endThread c sl true).dom (s.thread c sl).dom).launches (s.thread c sl).launch).map Launch.work =
      some (l.work - 1) := by
  have hcleared : (lookup ((s.cleared c sl).dom (s.thread c sl).dom).launches (s.thread c sl).launch).map Launch.work = some l.work :=
    (s.work_endEffects c sl _ _).trans (by rw [hl]; rfl)
  rw [State.endThread_eq, hended, Bool.not_false, Bool.and_true, if_pos rfl, State.subWork, State.lookup_modLaunch_self, Option.map_map]
  obtain ⟨l', hl', hwork⟩ := Option.map_eq_some_iff.1 hcleared
  rw [hl', ← hwork]; rfl

/-- One that is not counted leaves the work of its launch (R115). -/
theorem State.work_endThread_uncounted (c sl d n : Nat) :
    (lookup ((s.endThread c sl false).dom d).launches n).map Launch.work = (lookup (s.dom d).launches n).map Launch.work :=
  s.work_endEffects c sl d n

/-! ### RETIRE and RETIRE.J (R118, R251) -/

variable {s}

theorem exec_retire_ends (hsl : s.iss.slot ≠ 15) (hamo : s.curAtomics = []) :
    exec .retire s = .next (s.endThread s.iss.core s.iss.slot true) := by
  rw [exec_retire, execRetire, if_neg hsl, if_neg (not_not_intro hamo)]

theorem exec_retire_illegal (hsl : s.iss.slot = 15) : exec .retire s = .next (s.takeTrap .illegalInstruction 0#64 0#64) := by
  rw [exec_retire, execRetire, if_pos hsl]; rfl

theorem exec_retire_waits (hsl : s.iss.slot ≠ 15) (hamo : s.curAtomics ≠ []) : exec .retire s = .next s.loseTurn := by
  rw [exec_retire, execRetire, if_neg hsl, if_pos hamo]

theorem exec_retireJ_illegal (a : BitVec 6) (hsl : s.iss.slot = 15) :
    exec (.retireJ a) s = .next (s.takeTrap .illegalInstruction 0#64 0#64) := by
  rw [exec_retireJ, execRetireJ, if_pos hsl]; rfl

theorem exec_retireJ_waits (a : BitVec 6) (hsl : s.iss.slot ≠ 15) (hamo : s.curAtomics ≠ []) :
    exec (.retireJ a) s = .next s.loseTurn := by
  rw [exec_retireJ, execRetireJ, if_neg hsl, if_pos hamo]

theorem exec_retireJ_window {a : BitVec 6} (hsl : s.iss.slot ≠ 15) (hamo : s.curAtomics = []) (hin : s.InRegion (s.rx a) 8)
    (hfill : s.curCore.fill = none) (hout : s.curOutstanding = []) : let o := s.localOf (s.rx a)
    exec (.retireJ a) s = .next ((s.localWrite s.iss.core o 8 (s.localRead s.iss.core o 8 + (2 ^ 64 - 1))).endThread
      s.iss.core s.iss.slot true) := by
  rw [exec_retireJ, execRetireJ, if_neg hsl, if_neg (not_not_intro hamo), State.place_window hin hfill]
  dsimp only
  rw [if_neg (not_not_intro hout)]

/-- The line of a counter has left the L1 and a release has been counted: the state from which a release to its home is sent
(R256, R261). -/
def State.released (s : State) (pa : Nat) : State := (s.flushLine s.curAgent s.cur.dom pa).countRelease s.curAgent

/-- The decrement that a RETIRE.J sends to the home of its counter (R118). -/
def State.decrementMsg (s : State) (pa : Nat) (ea : Word) : Msg :=
  let u := s.released pa
  { u.curMsg (.counter true) pa 8 ea with
    ord := 3, scope := 2, epoch := u.epochOf u.curAgent, after := s.curOutstanding ++ sentSince s u }

theorem exec_retireJ_global {a : BitVec 6} {s1 : State} {pa : Nat} {e : TlbEnt} (hsl : s.iss.slot ≠ 15) (hamo : s.curAtomics = [])
    (hg : Global (s.rx a) 8) (ht : s.translateCur (s.rx a) .both = (s1, .ok pa e)) (hfold : s1.foldBlocks s1.curAgent = false) :
    exec (.retireJ a) s =
      .next (((s1.released pa).post (s1.decrementMsg pa (s1.rx a))).endThread s1.iss.core s1.iss.slot false) := by
  rw [exec_retireJ, execRetireJ, if_neg hsl, if_neg (not_not_intro hamo), State.place_global hg ht]
  dsimp only
  rw [if_neg (by rw [hfold]; decide)]
  rfl

theorem retires : Says.Retires := by
  intro s a l c sl gone o
  have hgone (u : State) (b : Bool) (hu : ∀ k, u.thread? c k = s.thread? c k) : gone (u.endThread c sl b) :=
    ⟨u.thread?_endThread_self c sl b, fun k hk => (u.thread?_endThread_ne hk b).trans (hu k)⟩
  refine ⟨fun h15 => ⟨.of_takeTrap (exec_retire_illegal h15), .of_takeTrap (exec_retireJ_illegal a h15)⟩,
    fun h15 hamo => ⟨.of_loseTurn (exec_retire_waits h15 hamo), .of_loseTurn (exec_retireJ_waits a h15 hamo)⟩,
    fun h15 hamo hended hl => ⟨?_, ?_, ?_⟩⟩
  · exact ⟨_, exec_retire_ends h15 hamo, hgone s true fun _ => rfl, State.SameMemory.endThread s c sl true,
      s.work_endThread hended hl⟩
  · intro hin hfill hout
    have hbyte (u : State) (k : Nat) : (u.endThread c sl true).lbyte k = u.lbyte k :=
      (State.SameMemory.endThread u c sl true).lbyte (u.iss_endThread c sl true) k
    refine ⟨_, exec_retireJ_window h15 hamo hin hfill hout, hgone _ true fun k => s.thread?_localWrite _ _ _ _ c k,
      fun j hj => ?_, fun k hk => ?_, ?_⟩
    · rw [State.lbit, hbyte]
      rw [← State.lbit, State.lbit_localWrite_word s hj, State.localRead_cur]
    · rw [hbyte, State.lbyte_localWrite_outside s hk]
    · have hthread (v : Nat) : (s.localWrite c o 8 v).thread c sl = s.cur := s.thread_localWrite c o 8 v c sl
      have hwork (v : Nat) := State.work_endThread (s.localWrite c o 8 v) (c := c) (sl := sl) (l := l)
      simp only [hthread] at hwork
      exact hwork _ hended hl
  · intro s1 pa e hg ht hfold
    have hs1 := State.translated_of_translateCur ht
    have hagent : s1.agentOf c = s1.curAgent := by rw [hs1.agentOf, hs1.curAgent]; rfl
    rw [← hs1.agentOf, hagent] at hfold
    refine ⟨_, s1.decrementMsg pa (s1.rx a), exec_retireJ_global h15 hamo hg ht hfold, ?_, ?_, rfl, rfl, rfl, rfl, rfl, rfl, ?_⟩
    · rw [hs1.iss]
      exact hgone _ false fun k => (State.thread?_flushLine _ _ _ _ _ _).trans (hs1.thread? c k)
    · rw [State.net_endThread]; exact State.mem_net_post _ _
    · rw [State.work_endThread_uncounted]
      show (lookup ((s1.flushLine _ _ _).dom _).launches _).map _ = _
      rw [State.dom_flushLine, hs1.launches, hl]; rfl

theorem yieldAndPark : Says.YieldAndPark := by
  intro s a parks x now
  refine ⟨fun h14 i hi => .of_takeTrap ?_, fun h14 => ⟨?_, fun h => ?_, fun h => ?_, fun h => ?_, fun h => ?_⟩⟩
  · simp only [List.mem_cons, List.not_mem_nil, or_false] at hi
    rcases hi with rfl | rfl | rfl
    · rw [exec_yield, execYield, if_pos h14]; rfl
    · rw [exec_park, execPark, State.parkUntil, if_pos h14]; rfl
    · rw [exec_parkRel, execParkRel, State.parkUntil, if_pos h14]; rfl
  · show exec (.yield a) s = _
    rw [exec_yield, execYield, if_neg h14]; rfl
  · rw [exec_park, execPark, State.parkUntil, if_neg h14, if_pos h]
  · show exec (.park a) s = _
    rw [exec_park, execPark, State.parkUntil, if_neg h14, if_neg (not_le.2 h)]; rfl
  · rw [exec_parkRel, execParkRel, State.parkUntil, if_neg h14, if_pos h]
  · show exec (.parkRel a) s = _
    rw [exec_parkRel, execParkRel, State.parkUntil, if_neg h14, if_neg (not_le.2 h)]; rfl


/-- Settles O32: RETIRE and RETIRE.J by what ends a thread, YIELD and PARK by their cases. -/
theorem endsAndPauses : Obligations.EndsAndPauses := ⟨retires, yieldAndPark⟩

end Sys2Proof.Machine
end

section
/-! PROOFS. O33: SEND, delivery of messages and handlers (R113, R115, R121 to R125, R264, R273). -/
namespace Sys2Proof.Machine

/-! ### SEND (R123) -/

theorem coreOfWord_eq_some {v : Word} (h : v.toNat < 8192 ∧ v.toNat / 8 % 256 < 160 ∧ v.toNat % 8 < 6) :
    coreOfWord v = some (v.toNat / 2048 * 960 + v.toNat / 8 % 256 * 6 + v.toNat % 8) := by
  obtain ⟨hlt, -⟩ := id h
  rw [coreOfWord, if_pos hlt, coreOfNum, if_pos h]

theorem coreOfWord_eq_none {v : Word} (h : ¬(v.toNat < 8192 ∧ v.toNat / 8 % 256 < 160 ∧ v.toNat % 8 < 6)) : coreOfWord v = none := by
  rw [coreOfWord]
  split
  · exact if_neg h
  · rfl

/-- The message of a SEND, whose release has left record `r` (R123, R273). -/
def State.sentMessage (s : State) (b : BitVec 6) (tgt : Nat) (r : RelRec) : Message :=
  { target := tgt, sender := (tidOf s.iss.core s.iss.slot).toNat, w := s.cur.getXs b 8, dom := s.cur.dom,
    launch := s.cur.launch, rel := some r, after := s.curOutstanding, retryAt := 0 }

/-- The state after a SEND that has found room. -/
def State.afterSend (s : State) (b : BitVec 6) (tgt : Nat) : State :=
  let r := s.releaseEvent s.curAgent 2
  (r.1.modCurCore fun k => { k with outq := k.outq ++ [s.sentMessage b tgt r.2] }).addWork s.cur.dom s.cur.launch 1

variable (s : State)

/-- What SEND does once its target is known (R123). -/
theorem exec_send_named {a : BitVec 6} (b : BitVec 6) {tgt : Nat} (htgt : coreOfWord (s.rx a) = some tgt) : exec (.send a b) s =
    .next (if !s.curLaunch.cores.contains tgt || s.curLaunch.hdr.inbox == 0 then s.protTrap 0
      else if 16 ≤ s.curCore.outq.length then if s.iss.slot = 14 then s.takeTrap .handlerBlock 0 0 else s.loseTurn
      else if s.foldBlocks s.curAgent then s.loseTurn else s.afterSend b tgt) := by
  rw [exec_send, execSend, htgt]; rfl

theorem State.cur_afterSend (b : BitVec 6) (tgt : Nat) : (s.afterSend b tgt).cur = s.cur := by
  rw [State.afterSend, State.addWork, State.cur_modLaunch]
  show ((State.modCore _ s.iss.core _).thread? s.iss.core s.iss.slot).getD _ = _
  rw [State.thread?, State.core_modCore_self]; rfl

theorem State.core_afterSend (b : BitVec 6) (tgt : Nat) : (s.afterSend b tgt).core s.iss.core =
    { s.core s.iss.core with
      outq := (s.core s.iss.core).outq ++ [s.sentMessage b tgt (s.releaseEvent s.curAgent 2).2] } := by
  rw [State.afterSend, State.addWork, State.core_modLaunch]
  exact State.core_modCore_self (s.countRelease s.curAgent) s.iss.core _

theorem State.cache_afterSend (b : BitVec 6) (tgt a : Nat) : (s.afterSend b tgt).cache a = (s.countRelease s.curAgent).cache a := by
  rw [State.afterSend, State.addWork, State.cache_modLaunch]; rfl

theorem State.moreWork_afterSend (b : BitVec 6) (tgt : Nat) : moreWork s (s.afterSend b tgt) := by
  intro l hl
  rw [State.afterSend, State.addWork, State.lookup_modLaunch_self]
  show (lookup (s.dom _).launches _).map _ = _
  rw [hl]; rfl

theorem State.sameMemory_afterSend (b : BitVec 6) (tgt : Nat) : s.SameMemory { s.afterSend b tgt with caches := s.caches } := by
  have hmem : (s.countRelease s.curAgent).SameMemory (s.afterSend b tgt) :=
    (State.SameMemory.modCore _ s.iss.core rfl).trans (State.SameMemory.modLaunch _ _ _ _)
  obtain ⟨hd, hc, -⟩ := hmem
  exact ⟨hd, hc, fun _ => rfl⟩

theorem sends : Says.Sends := by
  intro s a b c v tgt named ag
  have htgt (h : named) : coreOfWord (s.rx a) = some tgt := by
    obtain ⟨h1, h2, h3, -⟩ := h
    exact coreOfWord_eq_some ⟨h1, h2, h3⟩
  have hmember (h : named) (hin : s.curLaunch.hdr.inbox ≠ 0) :
      (!s.curLaunch.cores.contains tgt || s.curLaunch.hdr.inbox == 0) = false := by
    obtain ⟨-, -, -, h4⟩ := h
    simp [h4, hin]
  refine ⟨fun h => ?_, fun h hin hfull => ⟨fun h14 => .of_takeTrap ?_, fun h14 => .of_loseTurn ?_⟩,
    fun h hin hroom hfold => .of_loseTurn ?_, fun h hin hroom hfold => ?_⟩
  · refine ⟨((s.freeWord &&& 15#64) <<< 4) ||| 7#64, ?_⟩
    by_cases hcore : v < 8192 ∧ v / 8 % 256 < 160 ∧ v % 8 < 6
    · rw [exec_send_named s b (tgt := tgt) (coreOfWord_eq_some hcore), if_pos]
      · rfl
      · rcases h with h | h
        · have hout : tgt ∉ s.curLaunch.cores := fun hmem => h ⟨hcore.1, hcore.2.1, hcore.2.2, hmem⟩
          simp [hout]
        · simp [h]
    · rw [exec_send, execSend, coreOfWord_eq_none hcore]; rfl
  · rw [exec_send_named s b (htgt h), hmember h hin, if_neg Bool.false_ne_true, if_pos hfull, if_pos h14]; rfl
  · rw [exec_send_named s b (htgt h), hmember h hin, if_neg Bool.false_ne_true, if_pos hfull, if_neg h14]
  · rw [exec_send_named s b (htgt h), hmember h hin, if_neg Bool.false_ne_true, if_neg (by omega),
      if_pos (c := s.foldBlocks s.curAgent = true) hfold]
  · refine ⟨s.afterSend b tgt, s.sentMessage b tgt (s.releaseEvent s.curAgent 2).2, ?_, ?_, rfl, rfl, rfl, ?_, ?_, ?_, ?_, rfl,
      s.cur_afterSend b tgt, s.moreWork_afterSend b tgt, s.sameMemory_afterSend b tgt, ?_⟩
    · rw [exec_send_named s b (htgt h), hmember h hin, if_neg Bool.false_ne_true, if_neg (by omega),
        if_neg (c := s.foldBlocks s.curAgent = true) (Bool.not_eq_true _ ▸ hfold)]
    · rw [State.core_afterSend]
    · exact Thread.length_getXs _ _ _
    · exact fun k hk => Thread.getD_getXs _ _ hk
    · rw [State.cache_afterSend]; rfl
    · rw [State.cache_afterSend]; exact s.relcnt_countRelease ag
    · rw [State.cache_afterSend]; exact s.lines_countRelease ag

/-! ### Delivery of messages (R122, R124) -/

/-- The offer of an acknowledged message, when its time has come (R124). -/
theorem State.offer_due {c tgt : Nat} {m : Message} (hm : (s.core c).outq.find? (fun x => x.target == tgt) = some m)
    (hafter : ∀ id ∈ m.after, s.acked id = true) (hdue : m.retryAt ≤ (s.core c).cyc) :
    s.offer c tgt (m.retryAt != 0) =
      if (s.launch m.dom m.launch).hdr.inbox ≤ (s.core tgt).inboxHeld m.launch || (s.launch m.dom m.launch).evictedAt tgt then
        s.modCore c fun k => { k with outq := k.outq.map fun x => if x == m then { x with retryAt := k.cyc + 64 } else x }
      else if (s.core tgt).accepted.any fun a => a.1 == (s.core tgt).cyc && decide (c < a.2) then s
      else
        (s.modCore c fun k => { k with outq := k.outq.erase m }).modCore tgt fun k =>
          { k with inbox := k.inbox ++ [m], accepted := some (k.cyc, c) } := by
  have hall : m.after.all s.acked = true := List.all_eq_true.2 hafter
  have hlater : ((m.retryAt != 0) && decide ((s.core c).cyc < m.retryAt)) = false := by
    rw [decide_eq_false (by omega), Bool.and_false]
  simp only [State.offer, hm, hall, hlater, bne_self_eq_false, Bool.not_true, Bool.false_eq_true, if_false]

/-- A message accepted by its target, and what that leaves of any core. -/
theorem State.core_delivered (c tgt : Nat) (m : Message) (k : Nat) :
    ((s.modCore c fun k => { k with outq := k.outq.erase m }).modCore tgt fun k =>
      { k with inbox := k.inbox ++ [m], accepted := some (k.cyc, c) }).core k = { s.core k with
        outq := if k = c then (s.core k).outq.erase m else (s.core k).outq
        inbox := if k = tgt then (s.core k).inbox ++ [m] else (s.core k).inbox
        accepted := if k = tgt then some ((s.core k).cyc, c) else (s.core k).accepted } := by
  have hfirst : (s.modCore c fun k => { k with outq := k.outq.erase m }).core k =
      { s.core k with outq := if k = c then (s.core k).outq.erase m else (s.core k).outq } := by
    by_cases hc : k = c
    · subst hc; rw [State.core_modCore_self, if_pos rfl]
    · rw [State.core_modCore_ne s _ hc, if_neg hc]
  by_cases ht : k = tgt
  · subst ht; rw [State.core_modCore_self, hfirst, if_pos rfl, if_pos rfl]
  · rw [State.core_modCore_ne _ _ ht, hfirst, if_neg ht, if_neg ht]

theorem messageDelivery : Says.MessageDelivery := by
  intro s c tgt m hm hafter l full i
  have hexec : exec i s = .next (s.offer c tgt (m.retryAt != 0)) := by
    show exec (if m.retryAt = 0 then _ else _) s = _
    split
    · next h0 => rw [h0]; rfl
    · next h0 => rw [bne_iff_ne.2 h0]; rfl
  have hfull : ((decide (l.hdr.inbox ≤ (s.core tgt).inboxHeld m.launch) || l.evictedAt tgt) = true) ↔ full := by
    simp [full]
  refine ⟨fun h0 hearly => ?_, ?_⟩
  · rw [hexec, State.offer, hm]
    simp [h0, hearly]
  · intro late
    have hlate : ((s.core tgt).accepted.any fun a => a.1 == (s.core tgt).cyc && decide (c < a.2)) = true ↔ late := by
      simp [late, Option.any_eq_true]
    refine ⟨fun hdue hroom hl => ?_, fun hdue hroom hl => ?_, fun hdue h => ?_⟩
    · rw [hexec, s.offer_due hm hafter hdue, if_neg (hfull.not.2 hroom), if_pos (hlate.2 hl)]
    · refine ⟨_, by rw [hexec, s.offer_due hm hafter hdue, if_neg (hfull.not.2 hroom), if_neg (hlate.not.2 hl)], ?_, ?_, ?_, ?_, ?_,
        ?_, ?_, rfl⟩
      · rw [State.core_delivered, if_pos rfl]
      · rw [State.core_delivered, if_pos rfl]
      · intro k hk; rw [State.core_delivered, if_neg hk]
      · intro k hk; rw [State.core_delivered]; exact if_neg hk
      · rw [State.core_delivered]; exact if_pos rfl
      · intro k; rw [State.core_delivered]
      · intro k hk; rw [State.core_delivered]; exact if_neg hk
    · refine ⟨_, by rw [hexec, s.offer_due hm hafter hdue, if_pos (hfull.2 h)], ?_, fun k hk => State.core_modCore_ne s _ hk, rfl⟩
      rw [State.core_modCore_self]
      simp only [beq_iff_eq]

/-! ### Handlers (R125) -/

/-- The registers that the words of a message set (R125). -/
def Message.setup (m : Message) (t : Thread) : Thread := (t.setXs 1#6 (m.w.drop 1)).setX 8#6 (BitVec.ofNat 64 m.sender)

/-- The handler of message `m` starts, `rest` staying in the inbox. -/
def State.startHandler (s : State) (c : Nat) (m : Message) (rest : List Message) : State :=
  (s.modCore c fun k => { k.allot with inbox := rest }).startThread c 14 (s.launchCtx m.dom m.launch) (m.w.getD 0 0) m.setup

/-- The thread of that handler. -/
def State.handlerThread (s : State) (c : Nat) (m : Message) : Thread :=
  m.setup (s.freshAt c 14 (s.launchCtx m.dom m.launch) (m.w.getD 0 0))

theorem State.core_startHandler_self (c : Nat) (m : Message) (rest : List Message) : (s.startHandler c m rest).core c =
    { (s.core c).allot with inbox := rest, slots := insertKey (s.core c).slots 14 (s.handlerThread c m) } := by
  have hfresh : (s.modCore c fun k => { k.allot with inbox := rest }).freshAt c 14 (s.launchCtx m.dom m.launch) (m.w.getD 0 0) =
      s.freshAt c 14 (s.launchCtx m.dom m.launch) (m.w.getD 0 0) := by
    unfold State.freshAt
    rw [State.core_modCore_self]; rfl
  rw [State.startHandler, State.core_startThread_self, hfresh, State.core_modCore_self]; rfl

theorem State.core_startHandler_ne {c i : Nat} (h : i ≠ c) (m : Message) (rest : List Message) :
    (s.startHandler c m rest).core i = s.core i := by
  rw [State.startHandler, State.core_startThread_ne _ h, State.core_modCore_ne s _ h]

/-- The words of a message change x registers of its handler alone. -/
theorem Message.setup_eq (m : Message) (t : Thread) : m.setup t = { t with x := (m.setup t).x } := by
  rw [Message.setup, Thread.setX, Thread.setXs_eq]; rfl

theorem Message.getX_setup {m : Message} (hlen : m.w.length = 8) (t : Thread) {k : BitVec 6} (h1 : 1 ≤ k.toNat) (h7 : k.toNat ≤ 7) :
    (m.setup t).getX k = m.w.getD k.toNat 0#64 := by
  have hne : k ≠ 8#6 := fun h => by subst h; exact absurd h7 (by decide)
  have htail : (m.w.drop 1).length = 7 := by rw [List.length_drop, hlen]
  have hone : (1#6).toNat = 1 := rfl
  rw [Message.setup, Thread.getX_setX_ne _ _ hne, Thread.getX_setXs _ (by decide) (by rw [htail]; decide), if_pos (by omega), hone,
    List.getD_eq_getElem?_getD, List.getElem?_drop, ← List.getD_eq_getElem?_getD, show 1 + (k.toNat - 1) = k.toNat by omega]

theorem Message.getX_setup_sender (m : Message) (t : Thread) : (m.setup t).getX 8#6 = BitVec.ofNat 64 m.sender := by
  rw [Message.setup, Thread.getX_setX]; rfl

/-- A handler starts at the level of its launch (R85). -/
theorem State.startLevel_launchCtx (d n : Nat) : s.startLevel (s.launchCtx d n) = (s.launch d n).lvl := by
  unfold State.startLevel
  split <;> rfl

/-- The acquire of a record that needs no drain. -/
theorem State.acquire_done {d c a sc : Nat} {r : RelRec} (ha : r.agent ≠ a) (hst : r.st ≠ 1) :
    s.acquire d c a sc r = .done (s.selfInvalidate a) := by
  rw [State.acquire, if_neg ha, if_neg (by simp [hst])]

/-- The drain that the acquire of a record sends to its releaser (R265, R273). -/
def State.drainMsg (s : State) (d c a : Nat) (r : RelRec) : Msg :=
  { s.newMsg c 16 (.drain r.agent r.epoch 0) (2 ^ 60) 8 0 with dom := d, agent := a }

/-- The acquire of a record that needs its releaser drained sends the drain and waits (R265, R273). -/
theorem State.acquire_wait {d c a : Nat} {r : RelRec} (ha : r.agent ≠ a) (hst : r.st = 1)
    (hcovers : scopeCovers r.scope r.agent a = true) :
    s.acquire d c a 2 r = .wait (s.post (s.drainMsg d c a r)) { r with st := 2 } s.nextId := by
  have hdrain : r.mustDrain a 2 = true := by
    simp [RelRec.mustDrain, hst, ha, hcovers, show scopeCovers 2 a r.agent = true from rfl]
  rw [State.acquire, if_neg ha, hdrain, hst, if_pos (by decide)]; rfl

/-- What HANDLER_START does when slot 14 is free for it (R125). -/
theorem exec_handlerStart_due {c : Nat} {m : Message} {rest : List Message} (h14 : s.thread? c 14 = none)
    (hghost : 14 ∉ (s.core c).ghosts) (hallot : (s.core c).allotted ≠ some ((s.core c).cyc - 1)) (hin : (s.core c).inbox = m :: rest)
    (hafter : ∀ id ∈ m.after, s.acked id = true) : exec (.handlerStart c) s = .next (match m.rel with
      | none => s.startHandler c m rest
      | some r => match s.acquire m.dom c (s.agentOf c) 2 r with
        | .done s => s.startHandler c m rest
        | .wait s r id => s.modCore c fun k => { k with inbox := { m with rel := some r, after := [id] } :: rest }) := by
  have hslot : (lookup (s.core c).slots 14).isSome = false := by
    rw [show lookup (s.core c).slots 14 = none from h14]; rfl
  have hfree : ((lookup (s.core c).slots 14).isSome || (s.core c).ghosts.contains 14 || (s.core c).allottedNow) = false := by
    simp [hslot, hghost, Core.allottedNow, hallot]
  have hall : m.after.all s.acked = true := List.all_eq_true.2 hafter
  rw [exec_handlerStart, execHandlerStart]
  simp only [hfree, hin, hall, Bool.not_true, Bool.false_eq_true, if_false]
  rfl

theorem handlerStarts : Says.HandlerStarts := by
  intro s c m rest starts
  have hstarts (u : State) (hdom : ∀ d, u.dom d = s.dom d) (hcore : ∀ i, u.core i = s.core i)
      (he : exec (.handlerStart c) s = .next (u.startHandler c m rest)) : starts u := by
    have hlaunch : u.launch m.dom m.launch = s.launch m.dom m.launch := by rw [State.launch, hdom]; rfl
    have hx := m.setup_eq (u.freshAt c 14 (u.launchCtx m.dom m.launch) (m.w.getD 0 0))
    refine ⟨_, u.handlerThread c m, he, ?_, ?_, ?_, ?_, ?_, ?_, ?_, ?_, ?_, ?_, ?_, ?_, rfl⟩
    · rw [State.core_startHandler_self]
    · rw [State.thread?, State.core_startHandler_self]; exact lookup_insertKey_self _ _ _
    · rw [State.handlerThread, hx]; rfl
    · exact fun k h1 h7 hlen => Message.getX_setup hlen _ h1 h7
    · exact m.getX_setup_sender _
    · rw [State.handlerThread, hx]; exact (u.startLevel_launchCtx _ _).trans (by rw [hlaunch])
    · rw [State.handlerThread, hx]; rfl
    · rw [State.handlerThread, hx]; rfl
    · rw [State.handlerThread, hx]; rfl
    · rw [State.handlerThread, hx, ← hcore]; rfl
    · intro k hk
      rw [State.thread?, State.core_startHandler_self, hcore]; exact lookup_insertKey_ne _ _ hk
    · refine ⟨fun d a => ?_, fun i a => ?_, fun _ => rfl⟩
      · show Memory.get (u.dom d).mem a = _
        rw [hdom]
      · show Memory.get ((u.startHandler c m rest).core i).lmem a = _
        by_cases hi : i = c
        · subst hi; rw [State.core_startHandler_self, hcore]; rfl
        · rw [State.core_startHandler_ne u hi, hcore]
  refine ⟨fun h => ?_, fun h14 hghost hallot hin hafter => ?_⟩
  · rw [exec_handlerStart, execHandlerStart]
    have hbusy : ((lookup (s.core c).slots 14).isSome || (s.core c).ghosts.contains 14 || (s.core c).allottedNow) = true := by
      rcases h with h | h | h
      · have hsome : (lookup (s.core c).slots 14).isSome = true := Option.ne_none_iff_isSome.1 h
        rw [hsome]; rfl
      · simp [h]
      · simp [Core.allottedNow, h]
    rw [if_pos hbusy]
  · have hexec := exec_handlerStart_due s h14 hghost hallot hin hafter
    refine ⟨fun h => hstarts s (fun _ => rfl) (fun _ => rfl) ?_, fun r hr ha hst => ⟨s.selfInvalidate (s.agentOf c), selfInvalidated_selfInvalidate s _,
      hstarts _ (fun _ => rfl) (fun _ => rfl) ?_⟩, fun r hr ha hst hcovers => ?_⟩
    · rcases h with h | ⟨r, h, ha⟩
      · rw [hexec, h]
      · rw [hexec, h]
        simp only [State.acquire, ha, if_true]
    · rw [hexec, hr]
      simp only [s.acquire_done ha (show r.st ≠ 1 by omega)]
    · have hwait : exec (.handlerStart c) s = .next ((s.post (s.drainMsg m.dom c (s.agentOf c) r)).modCore c fun k =>
          { k with inbox := { m with rel := some { r with st := 2 }, after := [s.nextId] } :: rest }) := by
        rw [hexec, hr]
        simp only [s.acquire_wait ha hst hcovers]
      refine ⟨_, s.drainMsg m.dom c (s.agentOf c) r, hwait, ?_, s.mem_net_post _, rfl, rfl, ?_⟩
      · rw [State.thread?, State.core_modCore_self]; exact h14
      · rw [State.core_modCore_self]

/-- Settles O33: SEND by its cases, a message by the offer it makes, a handler by the start of its thread. -/
theorem messages : Obligations.Messages := ⟨sends, messageDelivery, handlerStarts⟩

end Sys2Proof.Machine
end

section
/-! PROOFS. O13: WAITF, WAITF.E, EMPTY and FILL (R109, R167, R168, R170). -/
namespace Sys2Proof.Machine

/-! ### WAITF and EMPTY (R168) -/

variable (s : State)

theorem State.modCore_modCore (c : Nat) (f g : Core → Core) : (s.modCore c f).modCore c g = s.modCore c fun k => g (f k) := by
  show (s.setCore c _).setCore c (g ((s.setCore c _).core c)) = s.setCore c _
  rw [State.core_setCore_self, State.setCore_setCore]

/-- Writing back a core as it stands changes nothing that a change of its issuing thread leaves visible. -/
theorem State.modCur_modCurCore_id (g : Thread → Thread) : (s.modCurCore fun k => k).modCur g = s.modCur g := by
  have hcur : (s.modCurCore fun k => k).cur = s.cur := by
    rw [State.cur, State.thread, State.thread?]
    show (lookup ((s.modCore s.iss.core fun k => k).core s.iss.core).slots s.iss.slot).getD _ = _
    rw [State.core_modCore_self]; rfl
  rw [State.modCur_eq, hcur, State.modCur_eq]
  exact s.modCore_modCore s.iss.core (fun k => k) _

theorem Core.mem_full_setFull_false (k : Core) (a w : Nat) : w ∈ (k.setFull a false).full ↔ w ∈ k.full ∧ w ≠ a / 8 := by
  simp [Core.setFull]

theorem mem_addNew (l : List Nat) (v w : Nat) : w ∈ addNew l v ↔ w ∈ l ∨ w = v := by
  unfold addNew
  split
  · next h =>
    have hv : v ∈ l := by simpa using h
    exact ⟨Or.inl, fun h => h.elim id fun h => h ▸ hv⟩
  · simp

theorem Core.mem_full_setFull_true (k : Core) (a w : Nat) : w ∈ (k.setFull a true).full ↔ w ∈ k.full ∨ w = a / 8 := by
  simp [Core.setFull, mem_addNew]

variable {s}

/-- WAITF and WAITF.E on a word of the region (R168). -/
theorem State.waitFull_window {ea : Word} (hin : s.InRegion ea 8) (hfill : (s.core s.iss.core).fill = none) (d : BitVec 6)
    (take : Bool) : s.waitFull ea d take =
      if s.curCore.full.contains (s.localOf ea / 8) then
        if s.localPoison s.iss.core (s.localOf ea) 8 then s.takeTrap .poison ea 0
        else (s.modCurCore fun k => if take then k.setFull (s.localOf ea) false else k).wx d
          (BitVec.ofNat 64 (s.localRead s.iss.core (s.localOf ea) 8))
      else if s.iss.slot = 14 then s.takeTrap .handlerBlock 0 0
      else s.park (.word (s.localOf ea) take d) := by
  rw [State.waitFull, State.bankWord_window hin hfill]

theorem State.waitFull_full {ea : Word} (hin : s.InRegion ea 8) (hfill : (s.core s.iss.core).fill = none)
    (hfull : s.localOf ea / 8 ∈ (s.core s.iss.core).full) (hclean : s.Unpoisoned (s.localOf ea) 8) (d : BitVec 6) (take : Bool) :
    s.waitFull ea d take = (s.modCurCore fun k => if take then k.setFull (s.localOf ea) false else k).wx d
      (BitVec.ofNat 64 (s.localRead s.iss.core (s.localOf ea) 8)) := by
  have hcontains : s.curCore.full.contains (s.localOf ea / 8) = true := List.contains_iff_mem.2 hfull
  rw [State.waitFull_window hin hfill, if_pos hcontains, State.localPoison_eq_false (by decide) hclean, if_neg Bool.false_ne_true]

theorem State.waitFull_empty {ea : Word} (hin : s.InRegion ea 8) (hfill : (s.core s.iss.core).fill = none)
    (hempty : s.localOf ea / 8 ∉ (s.core s.iss.core).full) (d : BitVec 6) (take : Bool) : s.waitFull ea d take =
      if s.iss.slot = 14 then s.takeTrap .handlerBlock 0#64 0#64 else s.park (.word (s.localOf ea) take d) := by
  have hcontains : ¬s.curCore.full.contains (s.localOf ea / 8) = true := fun h => hempty (List.contains_iff_mem.1 h)
  rw [State.waitFull_window hin hfill, if_neg hcontains]; rfl

theorem fullEmptyWords : Says.FullEmptyWords := by
  intro s d base idx scl size off ea a c parks emptied hin hfill
  have hea : eaOf s.cur base idx scl off = ea := eaOf_cur base idx scl off
  have hf : exec (.waitf d base idx scl size off) s = .next (s.waitFull ea d false) := by rw [exec_waitf, execWaitf, hea]
  have hfE : exec (.waitfE d base idx scl size off) s = .next (s.waitFull ea d true) := by rw [exec_waitfE, execWaitfE, hea]
  have hemptied : emptied (s.modCurCore fun k => k.setFull a false) := by
    have hself : (s.modCurCore fun k => k.setFull a false).core c = (s.core c).setFull a false := State.core_modCore_self s c _
    refine ⟨?_, fun w => ?_, fun i hi => State.core_modCore_ne s _ hi, rfl⟩
    · rw [hself]; rfl
    · rw [hself, Core.mem_full_setFull_false]
  refine ⟨fun hfull hclean => ⟨?_, _, _, BitVec.ofNat 64 (s.localRead c a 8), ?_, hemptied, s.hasBits_localRead a 8, ?_,
    State.Frame.wx _ d (BitVec.ofNat 64 (s.localRead c a 8))⟩, fun hempty h14 => ⟨?_, ?_⟩, fun hempty h14 => ⟨.of_takeTrap ?_, .of_takeTrap ?_⟩, ?_⟩
  · refine WritesX.of_wx (v := BitVec.ofNat 64 (s.localRead c a 8)) ?_ (s.hasBits_localRead a 8)
    rw [hf, State.waitFull_full hin hfill hfull hclean]
    exact congrArg Host.Outcome.next (s.modCur_modCurCore_id _)
  · rw [hfE, State.waitFull_full hin hfill hfull hclean]; rfl
  · rw [State.rx_wx]; simp
  · exact hf.trans (by rw [State.waitFull_empty hin hfill hempty, if_neg h14]; rfl)
  · exact hfE.trans (by rw [State.waitFull_empty hin hfill hempty, if_neg h14]; rfl)
  · rw [hf, State.waitFull_empty hin hfill hempty, if_pos h14]
  · rw [hfE, State.waitFull_empty hin hfill hempty, if_pos h14]
  · refine ⟨_, ?_, hemptied⟩
    rw [exec_empty, execEmpty, hea, State.bankWord_window hin hfill]

/-! ### The waiters that a FILL serves (R168) -/

/-- In a list of slots, slot `i` waits for the word at `a`, to take it or not, with register `r`. -/
def WaitsIn (m : List (Nat × Thread)) (a i : Nat) (take : Bool) (r : BitVec 6) : Prop :=
  ∃ x, (i, x) ∈ m ∧ x.st = .parked (.word a take r)

theorem waitsIn_cons {e : Nat × Thread} {m : List (Nat × Thread)} {a i : Nat} {take : Bool} {r : BitVec 6} :
    WaitsIn (e :: m) a i take r ↔ (i = e.1 ∧ e.2.st = .parked (.word a take r)) ∨ WaitsIn m a i take r := by
  constructor
  · rintro ⟨x, hx, hst⟩
    rcases List.mem_cons.1 hx with rfl | hx
    · exact .inl ⟨rfl, hst⟩
    · exact .inr ⟨x, hx, hst⟩
  · rintro (⟨rfl, hst⟩ | ⟨x, hx, hst⟩)
    · exact ⟨e.2, List.mem_cons_self, hst⟩
    · exact ⟨x, List.mem_cons_of_mem _ hx, hst⟩

theorem WaitsIn.above {m : List (Nat × Thread)} {k a i : Nat} {take : Bool} {r : BitVec 6} (hm : keysAbove k m)
    (h : WaitsIn m a i take r) : k < i := by
  obtain ⟨x, hx, -⟩ := h
  exact hm _ hx

/-- A slot that does not wait for the word is passed over. -/
theorem waitersOf_cons_skip {e : Nat × Thread} {m : List (Nat × Thread)} {a : Nat}
    (h : ∀ take r, e.2.st ≠ .parked (.word a take r)) : waitersOf a (e :: m) = waitersOf a m := by
  obtain ⟨sl, t⟩ := e
  rw [waitersOf]
  split
  · next a' take d hst =>
    split
    · next ha => exact absurd (ha ▸ hst) (h take d)
    · rfl
  · rfl

/-- One that takes the word is served last, one that does not before those above it. -/
theorem waitersOf_cons_wait {e : Nat × Thread} {m : List (Nat × Thread)} {a : Nat} {take : Bool} {r : BitVec 6}
    (h : e.2.st = .parked (.word a take r)) : waitersOf a (e :: m) =
      if take then ([(e.1, r)], true) else ((e.1, r) :: (waitersOf a m).1, (waitersOf a m).2) := by
  obtain ⟨sl, t⟩ := e
  rw [waitersOf, h]
  exact if_pos rfl

/-- Some slot of the list waits to take the word at `a`. -/
def TakenIn (m : List (Nat × Thread)) (a i : Nat) : Prop := ∃ r, WaitsIn m a i true r

theorem TakenIn.above {m : List (Nat × Thread)} {k a i : Nat} (hm : keysAbove k m) (h : TakenIn m a i) : k < i := by
  obtain ⟨r, h⟩ := h
  exact h.above hm

/-- Who is served, and whether one took the word. -/
def ServesRight (m : List (Nat × Thread)) (a : Nat) : Prop :=
  (∀ i r, (i, r) ∈ (waitersOf a m).1 ↔ (∃ take, WaitsIn m a i take r) ∧ ∀ j < i, ¬TakenIn m a j) ∧
    ((waitersOf a m).2 = true ↔ ∃ i, TakenIn m a i) ∧ ((waitersOf a m).1.map Prod.fst).Nodup

theorem servesRight_cons_skip {e : Nat × Thread} {m : List (Nat × Thread)} {a : Nat} (ih : ServesRight m a)
    (h : ∀ take r, e.2.st ≠ .parked (.word a take r)) : ServesRight (e :: m) a := by
  have hwaits (i : Nat) (take : Bool) (r : BitVec 6) : WaitsIn (e :: m) a i take r ↔ WaitsIn m a i take r := by
    rw [waitsIn_cons]
    exact or_iff_right fun hh => h take r hh.2
  unfold ServesRight TakenIn
  rw [waitersOf_cons_skip h]
  simp only [hwaits]
  exact ih

theorem servesRight_cons_reader {e : Nat × Thread} {m : List (Nat × Thread)} {a : Nat} {r : BitVec 6} (habove : keysAbove e.1 m)
    (ih : ServesRight m a) (h : e.2.st = .parked (.word a false r)) : ServesRight (e :: m) a := by
  obtain ⟨hmem, htaken, hnodup⟩ := ih
  have hwaits (i : Nat) (take : Bool) (r' : BitVec 6) :
      WaitsIn (e :: m) a i take r' ↔ (i = e.1 ∧ take = false ∧ r' = r) ∨ WaitsIn m a i take r' := by
    rw [waitsIn_cons, h]
    simp [eq_comm]
  have htakes (i : Nat) : TakenIn (e :: m) a i ↔ TakenIn m a i := exists_congr fun r' => by simp [hwaits]
  have hsplit : waitersOf a (e :: m) = ((e.1, r) :: (waitersOf a m).1, (waitersOf a m).2) := by rw [waitersOf_cons_wait h]; rfl
  refine ⟨fun i r' => ?_, ?_, ?_⟩
  · rw [hsplit]
    simp only [List.mem_cons, Prod.mk.injEq, hmem, hwaits, htakes]
    constructor
    · rintro (⟨rfl, rfl⟩ | ⟨⟨take, hw⟩, hnone⟩)
      · exact ⟨⟨false, .inl ⟨rfl, rfl, rfl⟩⟩, fun j hj ht => absurd (ht.above habove) (by omega)⟩
      · exact ⟨⟨take, .inr hw⟩, hnone⟩
    · rintro ⟨⟨take, ⟨rfl, -, rfl⟩ | hw⟩, hnone⟩
      · exact .inl ⟨rfl, rfl⟩
      · exact .inr ⟨⟨take, hw⟩, hnone⟩
  · rw [hsplit]
    simp only [htaken, htakes]
  · rw [hsplit, List.map_cons, List.nodup_cons]
    refine ⟨fun hin => ?_, hnodup⟩
    obtain ⟨⟨i, r'⟩, hir, hi⟩ := List.mem_map.1 hin
    obtain ⟨⟨take, hw⟩, -⟩ := (hmem i r').1 hir
    exact absurd (hw.above habove) (by rw [show i = e.1 from hi]; omega)

theorem servesRight_cons_taker {e : Nat × Thread} {m : List (Nat × Thread)} {a : Nat} {r : BitVec 6} (habove : keysAbove e.1 m)
    (h : e.2.st = .parked (.word a true r)) : ServesRight (e :: m) a := by
  have hwaits (i : Nat) (take : Bool) (r' : BitVec 6) :
      WaitsIn (e :: m) a i take r' ↔ (i = e.1 ∧ take = true ∧ r' = r) ∨ WaitsIn m a i take r' := by
    rw [waitsIn_cons, h]
    simp [eq_comm]
  have hfirst : TakenIn (e :: m) a e.1 := ⟨r, (hwaits _ _ _).2 (.inl ⟨rfl, rfl, rfl⟩)⟩
  have hsplit : waitersOf a (e :: m) = ([(e.1, r)], true) := by rw [waitersOf_cons_wait h]; rfl
  refine ⟨fun i r' => ?_, ?_, ?_⟩
  · rw [hsplit]
    simp only [List.mem_singleton, Prod.mk.injEq]
    constructor
    · rintro ⟨rfl, rfl⟩
      refine ⟨⟨true, (hwaits _ _ _).2 (.inl ⟨rfl, rfl, rfl⟩)⟩, fun j hj ht => ?_⟩
      obtain ⟨r', hw⟩ := ht
      rcases (hwaits _ _ _).1 hw with ⟨rfl, -⟩ | hw
      · exact absurd hj (Nat.lt_irrefl _)
      · exact absurd (hw.above habove) (by omega)
    · rintro ⟨⟨take, hw⟩, hnone⟩
      rcases (hwaits _ _ _).1 hw with ⟨rfl, -, rfl⟩ | hw
      · exact ⟨rfl, rfl⟩
      · exact absurd hfirst (hnone _ (hw.above habove))
  · rw [hsplit]
    exact iff_of_true rfl ⟨_, hfirst⟩
  · rw [hsplit]
    exact List.nodup_singleton _

/-- In a list of rising slots, the waiters served are those that no taker stands before. -/
theorem waitersOf_servesRight {m : List (Nat × Thread)} {a : Nat} (hm : keysRise m = true) : ServesRight m a := by
  induction m with
  | nil =>
    have hnone (i : Nat) (take : Bool) (r : BitVec 6) : ¬WaitsIn [] a i take r := fun ⟨_, hx, _⟩ => List.not_mem_nil hx
    exact ⟨fun i r => by simp [waitersOf, hnone], by simp [waitersOf, TakenIn, hnone], List.nodup_nil⟩
  | cons e m ih =>
    obtain ⟨habove, hm⟩ := keysRise_cons.1 hm
    by_cases h : ∃ take r, e.2.st = .parked (.word a take r)
    · obtain ⟨take, r, h⟩ := h
      cases take with
      | false => exact servesRight_cons_reader habove (ih hm) h
      | true => exact servesRight_cons_taker habove h
    · exact servesRight_cons_skip (ih hm) fun take r hst => h ⟨take, r, hst⟩

theorem lookup_of_mem {α : Type} {m : List (Nat × α)} (hm : keysRise m = true) {k : Nat} {v : α} (h : (k, v) ∈ m) :
    lookup m k = some v := by
  induction m with
  | nil => exact absurd h List.not_mem_nil
  | cons e m ih =>
    obtain ⟨habove, hm⟩ := keysRise_cons.1 hm
    rcases List.mem_cons.1 h with rfl | h
    · exact if_pos rfl
    · have hlt := habove _ h
      exact (if_neg (by simp only at hlt; omega)).trans (ih hm h)

/-! ### Serving them (R109, R168) -/

/-- A waiter that has been served: the word is in its register, and it is ready from the next cycle on. -/
def Thread.served (x : Thread) (cyc : Nat) (r : BitVec 6) (v : Word) : Thread :=
  { x.setX r v with st := .ready, startAt := max x.startAt (cyc + 1) }

/-- One waiter of a word is served. -/
def State.serve (s : State) (c : Nat) (v : Word) (e : Nat × BitVec 6) : State :=
  (s.wakeThread c e.1).modThread c e.1 fun t => t.setX e.2 v

theorem State.serve_eq (s : State) (c : Nat) (v : Word) (e : Nat × BitVec 6) :
    s.serve c v e = s.setThread c e.1 ((s.thread c e.1).served (s.core c).cyc e.2 v) := by
  have hset (x : Thread) (n : Nat) : ({ x with st := .ready, startAt := n } : Thread).setX e.2 v =
      { x.setX e.2 v with st := .ready, startAt := n } := by
    unfold Thread.setX
    split <;> rfl
  unfold State.serve State.wakeThread State.modThread
  dsimp only
  rw [State.thread_setThread_self, State.setThread_setThread, hset]; rfl

/-- All the waiters of a list are served. -/
def State.serveAll (s : State) (c : Nat) (v : Word) (ws : List (Nat × BitVec 6)) : State := ws.foldl (fun s e => s.serve c v e) s

theorem State.serveAll_cons (s : State) (c : Nat) (v : Word) (e : Nat × BitVec 6) (ws : List (Nat × BitVec 6)) :
    s.serveAll c v (e :: ws) = (s.serve c v e).serveAll c v ws := rfl

/-- Serving waiters changes threads of their core alone. -/
theorem State.serveAll_frame (c : Nat) (v : Word) (ws : List (Nat × BitVec 6)) : ∀ s : State,
    (s.serveAll c v ws).core c = { s.core c with slots := ((s.serveAll c v ws).core c).slots } ∧
    (∀ i, i ≠ c → (s.serveAll c v ws).core i = s.core i) ∧
    s.serveAll c v ws = { s with cores := (s.serveAll c v ws).cores } := by
  induction ws with
  | nil => exact fun s => ⟨rfl, fun _ _ => rfl, rfl⟩
  | cons e ws ih =>
    intro s
    rw [State.serveAll_cons, State.serve_eq]
    obtain ⟨hself, hne, hstate⟩ := ih (s.setThread c e.1 ((s.thread c e.1).served (s.core c).cyc e.2 v))
    refine ⟨?_, fun i hi => ?_, ?_⟩
    · rw [hself, State.core_setThread_self]
    · rw [hne i hi, State.core_setThread_ne s hi]
    · rw [hstate]; rfl

/-- Serving waiters of different slots serves each of them, and no other thread. -/
theorem State.thread?_serveAll (c : Nat) (v : Word) (ws : List (Nat × BitVec 6)) : ∀ s : State, (ws.map Prod.fst).Nodup →
    (∀ i r, (i, r) ∈ ws → (s.serveAll c v ws).thread? c i = some ((s.thread c i).served (s.core c).cyc r v)) ∧
    ∀ i, (∀ r, (i, r) ∉ ws) → (s.serveAll c v ws).thread? c i = s.thread? c i := by
  induction ws with
  | nil => exact fun s _ => ⟨fun _ _ h => absurd h List.not_mem_nil, fun _ _ => rfl⟩
  | cons e ws ih =>
    intro s hnodup
    obtain ⟨hnew, hrest⟩ := List.nodup_cons.1 (List.map_cons ▸ hnodup)
    have hout (r : BitVec 6) : (e.1, r) ∉ ws := fun h => hnew (List.mem_map.2 ⟨_, h, rfl⟩)
    rw [State.serveAll_cons, State.serve_eq]
    obtain ⟨hin, hne⟩ := ih (s.setThread c e.1 ((s.thread c e.1).served (s.core c).cyc e.2 v)) hrest
    refine ⟨fun i r h => ?_, fun i h => ?_⟩
    · rcases List.mem_cons.1 h with rfl | h
      · rw [hne _ hout, State.thread?_setThread_self]
      · have hi : i ≠ e.1 := fun hh => hout r (hh ▸ h)
        rw [hin i r h, State.thread_setThread_ne _ _ fun hh => hi hh.2, State.core_setThread_self]
    · have hi : i ≠ e.1 := fun hh => h e.2 (hh ▸ List.mem_cons_self)
      rw [hne i fun r hr => h r (List.mem_cons_of_mem _ hr), State.thread?_setThread_ne _ _ fun hh => hi hh.2]

/-- The word has been written and is full (R168). -/
def State.filled (s : State) (c a : Nat) (v : Word) : State := (s.localWrite c a 8 v.toNat).modCore c fun k => k.setFull a true

theorem State.core_filled (s : State) (c a : Nat) (v : Word) :
    (s.filled c a v).core c = ((s.core c).bankWrite a 8 v.toNat).setFull a true := by
  rw [State.filled, State.core_modCore_self, State.core_localWrite_self]

theorem State.core_filled_ne (s : State) {c i : Nat} (h : i ≠ c) (a : Nat) (v : Word) : (s.filled c a v).core i = s.core i := by
  rw [State.filled, State.core_modCore_ne _ _ h, State.core_localWrite_ne s h]

theorem State.fillWord_eq (s : State) (c a : Nat) (v : Word) :
    let w := waitersOf a (s.core c).slots
    s.fillWord c a v = if w.2 then ((s.filled c a v).serveAll c v w.1).modCore c fun k => k.setFull a false
      else (s.filled c a v).serveAll c v w.1 := by
  have hslots : ((s.filled c a v).core c).slots = (s.core c).slots := by rw [State.core_filled]; rfl
  intro w
  rw [show w = waitersOf a ((s.filled c a v).core c).slots by rw [hslots]]
  rfl

/-- What a FILL leaves of its core: the word, which is full unless a waiter took it, and the threads. -/
theorem State.core_fillWord (s : State) (c a : Nat) (v : Word) :
    let w := waitersOf a (s.core c).slots
    (s.fillWord c a v).core c = { ((s.core c).bankWrite a 8 v.toNat).setFull a true with
      full := if w.2 then (((s.core c).setFull a true).setFull a false).full else ((s.core c).setFull a true).full
      slots := (((s.filled c a v).serveAll c v w.1).core c).slots } := by
  intro w
  obtain ⟨hself, -, -⟩ := State.serveAll_frame c v w.1 (s.filled c a v)
  rw [State.core_filled] at hself
  rw [State.fillWord_eq]
  split
  · rw [State.core_modCore_self, hself]; rfl
  · rw [hself]; rfl

/-- The word of a FILL is full afterwards unless a waiter took it; the others are full as before. -/
theorem State.mem_full_fillWord (s : State) (c a w : Nat) (v : Word) : w ∈ ((s.fillWord c a v).core c).full ↔
    (w ∈ (s.core c).full ∨ w = a / 8) ∧ (w = a / 8 → ¬(waitersOf a (s.core c).slots).2 = true) := by
  rw [State.core_fillWord]
  cases h : (waitersOf a (s.core c).slots).2 with
  | true => simp [Core.mem_full_setFull_false, Core.mem_full_setFull_true]
  | false => simp [Core.mem_full_setFull_true]

theorem State.core_fillWord_ne (s : State) {c i : Nat} (h : i ≠ c) (a : Nat) (v : Word) : (s.fillWord c a v).core i = s.core i := by
  obtain ⟨-, hne, -⟩ := State.serveAll_frame c v (waitersOf a (s.core c).slots).1 (s.filled c a v)
  rw [State.fillWord_eq]
  split
  · rw [State.core_modCore_ne _ _ h, hne i h, State.core_filled_ne s h]
  · rw [hne i h, State.core_filled_ne s h]

theorem State.fillWord_state (s : State) (c a : Nat) (v : Word) :
    s.fillWord c a v = { s with cores := (s.fillWord c a v).cores, net := (s.fillWord c a v).net } := by
  obtain ⟨-, -, hstate⟩ := State.serveAll_frame c v (waitersOf a (s.core c).slots).1 (s.filled c a v)
  rw [State.fillWord_eq]
  split
  · rw [hstate]; rfl
  · rw [hstate]; rfl

theorem State.iss_fillWord (s : State) (c a : Nat) (v : Word) : (s.fillWord c a v).iss = s.iss := by rw [State.fillWord_state]

theorem State.thread?_fillWord (s : State) (c a i : Nat) (v : Word) : (s.fillWord c a v).thread? c i =
    ((s.filled c a v).serveAll c v (waitersOf a (s.core c).slots).1).thread? c i := by
  rw [State.thread?, State.core_fillWord]; rfl

/-- A FILL that must wait is held at its bank (R273). -/
theorem exec_fill_held {d base idx : BitVec 6} {scl : BitVec 2} {size : BitVec 3} {off : BitVec 48} {ea : Word}
    (hea : eaOf s.cur base idx scl off = ea) (hin : s.InRegion ea 8) (hfill : (s.core s.iss.core).fill = none)
    (hout : s.curOutstanding ≠ []) : exec (.fill d base idx scl size off) s = .next (s.setCore s.iss.core { s.core s.iss.core with
      fill := some ⟨s.cur.launch, s.localOf ea, s.rx d, s.curOutstanding⟩ }) := by
  rw [exec_fill, execFill, hea, State.bankWord_window hin hfill, if_neg hout]; rfl

/-- One that need not wait writes its word. -/
theorem exec_fill_fills {d base idx : BitVec 6} {scl : BitVec 2} {size : BitVec 3} {off : BitVec 48} {ea : Word}
    (hea : eaOf s.cur base idx scl off = ea) (hin : s.InRegion ea 8) (hfill : (s.core s.iss.core).fill = none)
    (hout : s.curOutstanding = []) :
    exec (.fill d base idx scl size off) s = .next (s.fillWord s.iss.core (s.localOf ea) (s.rx d)) := by
  rw [exec_fill, execFill, hea, State.bankWord_window hin hfill, if_pos hout]

theorem fillServesWaiters : Says.FillServesWaiters := by
  intro s d base idx scl size off ea a c waits takes hin hfill
  have hea : eaOf s.cur base idx scl off = ea := eaOf_cur base idx scl off
  refine ⟨exec_fill_held hea hin hfill, fun hout hready hrise => ?_⟩
  have hwaits (i : Nat) (take : Bool) (r : BitVec 6) : WaitsIn (s.core c).slots a i take r ↔ ∃ x, waits i x take r :=
    exists_congr fun x => and_congr_left fun _ => ⟨lookup_of_mem hrise, mem_of_lookup⟩
  have htakes (i : Nat) : TakenIn (s.core c).slots a i ↔ takes i := (exists_congr fun r => hwaits i true r).trans exists_comm
  obtain ⟨hmem, htaken, hnodup⟩ := waitersOf_servesRight (m := (s.core c).slots) (a := a) hrise
  obtain ⟨hserved, hothers⟩ := State.thread?_serveAll c (s.rx d) _ (s.filled c a (s.rx d)) hnodup
  have hthread (i : Nat) : (s.filled c a (s.rx d)).thread? c i = s.thread? c i := by
    rw [State.thread?, State.core_filled]; rfl
  have hcyc : ((s.filled c a (s.rx d)).core c).cyc = (s.core c).cyc := by rw [State.core_filled]; rfl
  have hstays (i : Nat) (h : ∀ r, (i, r) ∉ (waitersOf a (s.core c).slots).1) :
      (s.fillWord c a (s.rx d)).thread? c i = s.thread? c i := by
    rw [State.thread?_fillWord, hothers i h, hthread]
  have hidle (i : Nat) (h : ∀ x take r, ¬waits i x take r) : (s.fillWord c a (s.rx d)).thread? c i = s.thread? c i := by
    refine hstays i fun r hr => ?_
    obtain ⟨⟨take, hw⟩, -⟩ := (hmem i r).1 hr
    obtain ⟨x, hx⟩ := (hwaits i take r).1 hw
    exact h x take r hx
  have hbyte (b : Nat) : (s.fillWord c a (s.rx d)).lbyte b = (s.localWrite c a 8 (s.rx d).toNat).lbyte b := by
    rw [State.lbyte, State.curCore, State.iss_fillWord, State.core_fillWord, State.lbyte, State.curCore, State.iss_localWrite,
      State.core_localWrite_self]; rfl
  refine ⟨_, exec_fill_fills hea hin hfill hout, fun j hj => ?_, fun b hb => ?_, ?_, ?_, fun w hw => ?_, fun i x take r hx hfirst => ?_,
    fun i x take r hx hlater => ?_, hidle, ?_, fun i hi => s.core_fillWord_ne hi a _, s.fillWord_state c a _⟩
  · rw [State.lbit, hbyte, ← State.lbit, State.lbit_localWrite_word s hj, BitVec.ofNat_toNat, BitVec.setWidth_eq]
  · rw [hbyte, State.lbyte_localWrite_outside s hb]
  · have hcur : (s.fillWord c a (s.rx d)).thread? c s.iss.slot = s.thread? c s.iss.slot := by
      refine hidle _ fun x take r hx => ?_
      obtain ⟨hx, hst⟩ := hx
      have hcurx : s.cur = x := by rw [State.cur, State.thread, hx]; rfl
      rw [← hcurx, hready] at hst
      cases hst
    rw [State.cur, State.iss_fillWord, State.thread, hcur]; rfl
  · rw [State.mem_full_fillWord, htaken, not_exists, and_iff_right (Or.inr rfl), imp_iff_right rfl]
    exact forall_congr' fun i => not_congr (htakes i)
  · rw [State.mem_full_fillWord, or_iff_left hw, and_iff_left fun h => absurd h hw]
  · have hin : (i, r) ∈ (waitersOf a (s.core c).slots).1 :=
      (hmem i r).2 ⟨⟨take, (hwaits i take r).2 ⟨x, hx⟩⟩, fun j hj ht => hfirst j hj ((htakes j).1 ht)⟩
    obtain ⟨hx, -⟩ := hx
    rw [State.thread?_fillWord, hserved i r hin, State.thread, hthread, hx, hcyc]; rfl
  · obtain ⟨j, hj, ht⟩ := hlater
    exact hstays i fun r' hr' => ((hmem i r').1 hr').2 j hj ((htakes j).2 ht)
  · rw [State.core_fillWord]; rfl

/-- Settles O13: WAITF and EMPTY by the cases of the full bit, FILL by the waiters it serves. -/
theorem fullAndEmptyWords : Obligations.FullAndEmptyWords := ⟨fullEmptyWords, fillServesWaiters⟩

end Sys2Proof.Machine
end

section
/-! PROOFS. Requests at their homes in the terms of the statements: the step that performs one, the line it uses, its answer, and
what must be drained before it (R94, R244, R248, R253, R265, R267, R302). -/
namespace Sys2Proof.Machine

/-! ### Conditions (R94) -/

theorem toInt_setWidth (n : Nat) (x : Word) : (x.setWidth n).toInt = Int.bmod x.toNat (2 ^ n) := by
  rw [BitVec.toInt_eq_toNat_bmod, BitVec.toNat_setWidth, Int.natCast_emod, Int.emod_bmod]

theorem and_setWidth_eq_zero_iff (n : Nat) (x y : Word) :
    x.setWidth n &&& y.setWidth n = 0#n ↔ ¬∃ j < n, x.getLsbD j = true ∧ y.getLsbD j = true := by
  constructor
  · rintro h ⟨j, hj, hx, hy⟩
    have hbit := congrArg (fun v => BitVec.getLsbD v j) h
    simp [hj, hx, hy] at hbit
  · intro h
    apply BitVec.eq_of_getLsbD_eq
    intro j hj
    have hbit : ¬(x.getLsbD j = true ∧ y.getLsbD j = true) := fun hh => h ⟨j, hj, hh⟩
    simpa [hj] using hbit

/-- The model's test of a condition code is the condition of R94. -/
theorem condHolds_iff (n : Nat) (cc : BitVec 4) (x y : Word) :
    condHolds cc n x y = true ↔ conditionOf cc.toNat n x y := by
  have hslt (a b : Word) : (a.setWidth n).slt (b.setWidth n) = true ↔ Int.bmod a.toNat (2 ^ n) < Int.bmod b.toNat (2 ^ n) := by
    rw [BitVec.slt_iff_toInt_lt, toInt_setWidth, toInt_setWidth]
  have hsle (a b : Word) : (a.setWidth n).sle (b.setWidth n) = true ↔ Int.bmod a.toNat (2 ^ n) ≤ Int.bmod b.toNat (2 ^ n) := by
    rw [BitVec.sle_iff_toInt_le, toInt_setWidth, toInt_setWidth]
  have hult (a b : Word) : (a.setWidth n).ult (b.setWidth n) = true ↔ a.toNat % 2 ^ n < b.toNat % 2 ^ n := by
    rw [BitVec.ult_iff_toNat_lt, BitVec.toNat_setWidth, BitVec.toNat_setWidth]
  have hule (a b : Word) : (a.setWidth n).ule (b.setWidth n) = true ↔ a.toNat % 2 ^ n ≤ b.toNat % 2 ^ n := by
    rw [BitVec.ule_iff_toNat_le, BitVec.toNat_setWidth, BitVec.toNat_setWidth]
  have heq : x.setWidth n = y.setWidth n ↔ x.toNat % 2 ^ n = y.toNat % 2 ^ n := by
    rw [← BitVec.toNat_inj, BitVec.toNat_setWidth, BitVec.toNat_setWidth]
  have hand := and_setWidth_eq_zero_iff n x y
  unfold condHolds conditionOf
  match cc.toNat with
  | 0 => exact beq_iff_eq.trans heq
  | 1 => exact bne_iff_ne.trans heq.not
  | 2 => exact hslt x y
  | 3 => exact hsle y x
  | 4 => exact hult x y
  | 5 => exact hule y x
  | 6 => exact hslt y x
  | 7 => exact hsle x y
  | 8 => exact hult y x
  | 9 => exact hule x y
  | 10 => exact bne_iff_ne.trans (hand.not.trans not_not)
  | _ + 11 => exact beq_iff_eq.trans hand

/-! ### The line that a home uses (R244, R302) -/

/-- A domain whose L2 has fetched a line through the LLC, before a full slice gives one up. -/
def Dom.fetched (v : Dom) (line now : Nat) : Dom := { v with
  l2 := line :: v.l2
  llc := line :: v.llc.erase line
  dir := v.dir.map fun e => if e.covers line then { e.addAgent 0 with last := now } else e }

theorem Dom.touchL2_eq_ite (v : Dom) (line now : Nat) : v.touchL2 line now =
    if v.l2.contains line then { v with l2 := line :: v.l2.erase line } else (v.fetched line now).spillL2 line := rfl

/-- A full slice gives up a line that it held before, and no other. -/
theorem Dom.spillL2_fetched (v : Dom) (line now : Nat) :
    (v.fetched line now).spillL2 line = v.fetched line now ∨ ∃ old ∈ v.l2, homeSlice v old = homeSlice v line ∧
      Config.l2Lines ≤ (v.l2.filter fun x => homeSlice v x == homeSlice v line).length ∧
      (v.fetched line now).spillL2 line = { v.fetched line now with l2 := (line :: v.l2).erase old }.putLlc old := by
  have hsame : (v.fetched line now).l2.filter (fun l => homeSlice (v.fetched line now) l == homeSlice (v.fetched line now) line) =
      line :: v.l2.filter fun l => homeSlice v l == homeSlice v line := List.filter_cons_of_pos (beq_self_eq_true _)
  unfold Dom.spillL2
  dsimp only
  rw [hsame]
  split
  · exact .inl rfl
  · split
    · exact .inl rfl
    · next hfull =>
      have hlen : Config.l2Lines ≤ (v.l2.filter fun l => homeSlice v l == homeSlice v line).length := by
        rw [List.length_cons] at hfull; omega
      split
      · next old hold =>
        have hne : (v.l2.filter fun l => homeSlice v l == homeSlice v line) ≠ [] := fun h => by
          rw [h] at hlen; exact absurd hlen (by decide)
        rw [List.getLast?_cons, List.getLast?_eq_some_getLast hne] at hold
        have hin : old ∈ v.l2.filter fun l => homeSlice v l == homeSlice v line := by
          rw [← Option.some.inj hold]; exact List.getLast_mem hne
        obtain ⟨hin, hslice⟩ := List.mem_filter.1 hin
        exact .inr ⟨old, hin, beq_iff_eq.1 hslice, hlen, rfl⟩
      · exact .inl rfl

theorem Dom.used_touchL2 (v : Dom) (line now : Nat) : v.Used (v.touchL2 line now) line now := by
  rw [Dom.touchL2_eq_ite]
  split
  · next h =>
    have hin : line ∈ v.l2 := List.contains_iff_mem.1 h
    refine ⟨List.mem_cons_self, fun l hl => ?_, fun l hl hgone => ?_, (if_pos hin).symm⟩
    · exact (List.mem_cons.1 hl).elim .inr fun hl => .inl (List.mem_of_mem_erase hl)
    · refine absurd (List.mem_cons.2 ?_) hgone
      by_cases hll : l = line
      · exact .inl hll
      · exact .inr ((List.mem_erase_of_ne hll).2 hl)
  · next h =>
    have hnew : line ∉ v.l2 := fun hin => h (List.contains_iff_mem.2 hin)
    rcases Dom.spillL2_fetched v line now with hsame | ⟨old, hold, hslice, hlen, hspill⟩
    · rw [hsame]
      exact ⟨List.mem_cons_self, fun l hl => (List.mem_cons.1 hl).symm,
        fun l hl hgone => absurd (List.mem_cons_of_mem _ hl) hgone, (if_neg hnew).symm⟩
    · have hne : line ≠ old := fun hh => hnew (hh ▸ hold)
      rw [hspill]
      refine ⟨(List.mem_erase_of_ne hne).2 List.mem_cons_self, fun l hl => (List.mem_cons.1 (List.mem_of_mem_erase hl)).symm,
        fun l hl hgone => ?_, (if_neg hnew).symm⟩
      have hl' : l = old := by
        by_contra hh
        exact hgone ((List.mem_erase_of_ne hh).2 (List.mem_cons_of_mem _ hl))
      rw [hl']
      exact ⟨List.mem_cons_self, hlen, hslice⟩

/-! ### The step of a request at its home (R253) -/

variable {s : State}

theorem State.markServed_eq (m : Msg) : s.markServed m = { s with doms := (s.markServed m).doms } := by
  unfold State.markServed
  split <;> rfl

/-- That a home has performed a request is noted in its domain (R253). -/
theorem State.dom_markServed (m : Msg) (d : Nat) :
    (s.markServed m).dom d = { s.dom d with served := ((s.markServed m).dom d).served } := by
  unfold State.markServed
  split
  · rfl
  · by_cases h : d = m.dom
    · subst h; rw [State.dom_modDom_self]
    · rw [State.dom_modDom_ne s _ h]

theorem State.dom_markServed_ne {m : Msg} {d : Nat} (h : d ≠ m.dom) : (s.markServed m).dom d = s.dom d := by
  unfold State.markServed
  split
  · rfl
  · exact State.dom_modDom_ne s _ h

theorem State.AtHome.id_eq {id : Nat} {write : Bool} {m : Msg} (h : s.AtHome id write m) : m.id = id := by
  obtain ⟨hm, -⟩ := h
  simpa using List.find?_some hm

/-- A request at its home is performed at once (R253). -/
theorem State.AtHome.perform {id : Nat} {write : Bool} {m : Msg} {kind : MKind → Bool} {k : State → Msg → State}
    (h : s.AtHome id write m) (hk : kind m.kind = true)
    (hreqs : ((k (s.markServed m) m).dom m.dom).reqs = ((s.markServed m).dom m.dom).reqs) :
    s.perform id kind write k = k (s.markServed m) m := by
  obtain ⟨hm, -, -, hhome, hgate, hnone⟩ := h
  refine State.perform_ready s hm hk hhome hgate ?_
  rw [hreqs, State.dom_markServed]; exact hnone

theorem State.AtHome.found {id : Nat} {write : Bool} {m : Msg} (h : s.AtHome id write m) : s.findMsg id = some m := h.1

/-- A request that no switch has combined is its own only member (R252). -/
theorem State.members_of_group {m : Msg} (h : m.group = []) : s.members m = [m] := by rw [State.members, h]; rfl

/-! ### Requests on the network -/

theorem State.findMsg_setMsg_self {m : Msg} (h : s.findMsg m.id ≠ none) : (s.setMsg m).findMsg m.id = some m := by
  obtain ⟨x, hx⟩ := Option.ne_none_iff_exists'.1 h
  have hcomp : ((fun e : Msg => e.id == m.id) ∘ fun e : Msg => if e.id = m.id then m else e) = fun e => e.id == m.id := by
    funext e
    by_cases he : e.id = m.id
    · simp [he]
    · simp [he]
  have hid : x.id = m.id := by simpa using List.find?_some hx
  rw [State.findMsg, State.setMsg, List.find?_map, hcomp, show s.net.find? (fun e => e.id == m.id) = some x from hx, Option.map_some,
    if_pos hid]

theorem State.findMsg_setMsg_ne {m : Msg} {j : Nat} (h : j ≠ m.id) : (s.setMsg m).findMsg j = s.findMsg j := by
  have hcomp : ((fun e : Msg => e.id == j) ∘ fun e : Msg => if e.id = m.id then m else e) = fun e => e.id == j := by
    funext e
    by_cases he : e.id = m.id
    · simp [he]
    · simp [he]
  rw [State.findMsg, State.setMsg, List.find?_map, hcomp]
  cases hx : s.net.find? fun e => e.id == j with
  | none => exact hx.symm
  | some x =>
    have hid : x.id = j := by simpa using List.find?_some hx
    rw [Option.map_some, if_neg fun hh => h (hid.symm.trans hh)]
    exact hx.symm

/-- A request that is set anew is the only one changed. -/
theorem State.nowIs_setMsg {u : State} {m : Msg} {id : Nat} (hnet : u.net = s.net) (hid : m.id = id) (h : s.findMsg id ≠ none) :
    s.NowIs (u.setMsg m) id m := by
  subst hid
  have hfind (j : Nat) : u.findMsg j = s.findMsg j := by rw [State.findMsg, hnet]; rfl
  refine ⟨State.findMsg_setMsg_self (by rw [hfind]; exact h), ?_, fun j hj => (State.findMsg_setMsg_ne hj).trans (hfind j)⟩
  rw [State.setMsg, List.length_map, hnet]

/-- A request that is answered is the only one changed. -/
theorem State.nowIs_reply {u : State} {m : Msg} {id : Nat} (hnet : u.net = s.net) (hid : m.id = id) (h : s.findMsg id ≠ none) :
    s.NowIs (u.reply m) id { m with st := .replied } := State.nowIs_setMsg hnet hid h

/-- A request that is dropped is the only one that leaves. -/
theorem State.left_dropMsg {u : State} (hnet : u.net = s.net) (id : Nat) : s.Left (u.dropMsg id) id := by
  refine ⟨?_, fun j hj => ?_⟩
  · simp [State.findMsg, State.dropMsg, List.find?_filter]
  · rw [State.findMsg, State.dropMsg, List.find?_filter, hnet]
    refine congrArg (List.find? · s.net) (funext fun e => ?_)
    by_cases he : e.id = j
    · simp [he, hj]
    · simp [he]

end Sys2Proof.Machine
end

section
/-! PROOFS. What a home does for a request it performs: the use of its line, reads, drains that must come first, whole stores and
release records (R246, R249, R263 to R267, R352). -/
namespace Sys2Proof.Machine

variable {s : State}

/-! ### Lines and words (R244, R249) -/

theorem State.useLine_eq (s : State) (m : Msg) : s.useLine m = { s with doms := (s.useLine m).doms } := rfl

/-- The use of a line changes the slices and the directory of its domain (R244, R302). -/
theorem State.dom_useLine (s : State) (m : Msg) (d : Nat) : (s.useLine m).dom d = { s.dom d with
    l2 := ((s.useLine m).dom d).l2, llc := ((s.useLine m).dom d).llc, dir := ((s.useLine m).dom d).dir } := by
  unfold State.useLine
  by_cases h : d = m.dom
  · subst h; rw [State.dom_modDom_self, Dom.touchL2_eq]
  · rw [State.dom_modDom_ne s _ h]

theorem State.reqs_useLine (s : State) (m : Msg) (d : Nat) : ((s.useLine m).dom d).reqs = (s.dom d).reqs := by
  rw [State.dom_useLine]

/-- A request that its home notes and whose line it uses, and then whatever is done to requests. -/
theorem State.usesHome_of_dom {t : State} {m : Msg} (h : ∀ d, t.dom d = ((s.markServed m).useLine m).dom d) : s.UsesHome t m := by
  have hself : t.dom m.dom = ((s.markServed m).dom m.dom).touchL2 (lineOf m.pa) s.cycle := by
    rw [h, State.useLine, State.dom_modDom_self, State.markServed_eq]
  refine ⟨?_, ?_, fun d hd => ?_⟩
  · rw [hself]; exact Dom.used_touchL2 _ _ _
  · rw [hself, Dom.touchL2_eq]
  · rw [h, State.useLine, State.dom_modDom_ne _ _ hd, State.dom_markServed_ne hd]

theorem Dom.poisoned_eq_false {v : Dom} {pa n : Nat} (h : ∀ w, pa / 8 ≤ w → 8 * w < pa + n → w ∉ v.poison) :
    v.poisoned pa n = false := by
  refine List.any_eq_false.2 fun w hw => ?_
  simp only [decide_eq_true_eq, not_and, not_lt]
  intro hlo
  by_contra hhi
  exact h w hlo (by omega) hw

theorem Dom.poisoned_eq_true {v : Dom} {pa n : Nat} (h : ¬∀ w, pa / 8 ≤ w → 8 * w < pa + n → w ∉ v.poison) :
    v.poisoned pa n = true := by
  push Not at h
  obtain ⟨w, hlo, hhi, hw⟩ := h
  exact List.any_eq_true.2 ⟨w, hw, decide_eq_true ⟨hlo, by omega⟩⟩

/-! ### Drains that come first (R265, R267) -/

theorem RelRec.mustDrain_iff (r : RelRec) (a sc : Nat) : r.mustDrain a sc = true ↔
    (r.st = 1 ∨ r.st = 2) ∧ r.agent ≠ a ∧ scopeCovers r.scope r.agent a = true ∧ scopeCovers sc a r.agent = true := by
  simp [RelRec.mustDrain, and_assoc]

theorem RelRec.mustOverwrite_iff (r : RelRec) (a : Nat) : r.mustOverwrite a = true ↔
    (r.st = 1 ∨ r.st = 2) ∧ r.agent ≠ a ∧ scopeCovers r.scope r.agent a = true := by
  simp [RelRec.mustOverwrite, and_assoc]

theorem State.readMustWait_eq_some_iff {m : Msg} {r : RelRec} : s.readMustWait m = some r ↔ mustDrainFirst s m r := by
  have hrec : (s.dom m.dom).recAt m.pa = lookup (s.dom m.dom).recs (m.pa / 128) := rfl
  unfold State.readMustWait mustDrainFirst
  rw [hrec]
  cases lookup (s.dom m.dom).recs (m.pa / 128) with
  | none => simp
  | some r' =>
    simp only [RelRec.mustDrain_iff, Option.ite_none_right_eq_some, Option.some.injEq]
    constructor
    · rintro ⟨⟨hord, hscope, hst, ha, h1, h2⟩, rfl⟩
      exact ⟨rfl, hst, ha, h1, h2, hord, hscope⟩
    · rintro ⟨rfl, hst, ha, h1, h2, hord, hscope⟩
      exact ⟨⟨hord, hscope, hst, ha, h1, h2⟩, rfl⟩

theorem State.writeMustWait_eq_some_iff {m : Msg} {r : RelRec} : s.writeMustWait m = some r ↔ mustOverwriteFirst s m r := by
  have hrec : (s.dom m.dom).recAt m.pa = lookup (s.dom m.dom).recs (m.pa / 128) := rfl
  unfold State.writeMustWait mustOverwriteFirst
  rw [hrec]
  cases lookup (s.dom m.dom).recs (m.pa / 128) with
  | none => simp
  | some r' =>
    simp only [RelRec.mustOverwrite_iff, Option.ite_none_right_eq_some, Option.some.injEq]
    constructor
    · rintro ⟨h, rfl⟩; exact ⟨rfl, h⟩
    · rintro ⟨rfl, h⟩; exact ⟨h, rfl⟩

theorem State.readMustWait_eq_none {m : Msg} (h : ∀ r, ¬mustDrainFirst s m r) : s.readMustWait m = none :=
  Option.eq_none_iff_forall_ne_some.2 fun r hr => h r (State.readMustWait_eq_some_iff.1 hr)

theorem State.writeMustWait_eq_none {m : Msg} (h : ∀ r, ¬mustOverwriteFirst s m r) : s.writeMustWait m = none :=
  Option.eq_none_iff_forall_ne_some.2 fun r hr => h r (State.writeMustWait_eq_some_iff.1 hr)

/-- What must be drained first is what the record says, whatever else the home has noted. -/
theorem mustDrainFirst_markServed (m x : Msg) (r : RelRec) : mustDrainFirst (s.markServed m) x r ↔ mustDrainFirst s x r := by
  unfold mustDrainFirst
  rw [State.dom_markServed]

theorem mustOverwriteFirst_markServed (m x : Msg) (r : RelRec) : mustOverwriteFirst (s.markServed m) x r ↔ mustOverwriteFirst s x r := by
  unfold mustOverwriteFirst
  rw [State.dom_markServed]

theorem State.readMustWait_markServed {m : Msg} (h : ∀ r, ¬mustDrainFirst s m r) : (s.markServed m).readMustWait m = none :=
  State.readMustWait_eq_none fun r => (mustDrainFirst_markServed m m r).not.2 (h r)

theorem State.writeMustWait_markServed {m : Msg} (h : ∀ r, ¬mustOverwriteFirst s m r) : (s.markServed m).writeMustWait m = none :=
  State.writeMustWait_eq_none fun r => (mustOverwriteFirst_markServed m m r).not.2 (h r)

theorem State.SameMemory.markServed (s : State) (m : Msg) : s.SameMemory (s.markServed m) := by
  refine ⟨fun d a => by rw [State.dom_markServed], fun c a => ?_, fun a => ?_⟩
  · rw [State.markServed_eq]; rfl
  · rw [State.markServed_eq]; rfl

theorem State.SameMemory.useLine (s : State) (m : Msg) : s.SameMemory (s.useLine m) :=
  ⟨fun d a => by rw [State.dom_useLine], fun _ _ => rfl, fun _ => rfl⟩

/-! ### Release records (R263, R264) -/

/-- A record changes the records and the replicas of its line. -/
theorem State.dom_setRec_self (s : State) (d pa : Nat) (r : RelRec) : (s.setRec d pa r).dom d = { s.dom d with
    recs := insertKey (s.dom d).recs (lineOf pa) r, replicas := (s.dom d).replicas.filter fun x => x.1 != lineOf pa } :=
  State.dom_modDom_self s d _

theorem State.SameMemory.setRec (s : State) (d pa : Nat) (r : RelRec) : s.SameMemory (s.setRec d pa r) :=
  State.SameMemory.modDom s d rfl

theorem State.SameMemory.leaveRecord (s : State) (m : Msg) : s.SameMemory (s.leaveRecord m) := State.SameMemory.setRec s _ _ _

theorem State.reqs_leaveRecord (s : State) (m : Msg) : ((s.leaveRecord m).dom m.dom).reqs = (s.dom m.dom).reqs := by
  rw [State.leaveRecord, State.dom_setRec_self]

/-- The record that a release leaves names its agent, epoch and scope; one that was eager needs no drain (R264, R269). -/
theorem State.recs_leaveRecord (s : State) (m : Msg) : lookup ((s.leaveRecord m).dom m.dom).recs (m.pa / 128) =
    some ⟨m.agent, m.epoch, m.scope, if m.ord = 5 ∨ m.scope = 6 then 3 else 1⟩ := by
  rw [State.leaveRecord, State.dom_setRec_self]
  exact lookup_insertKey_self _ _ _

theorem State.SameMemory.setMsg (s : State) (m : Msg) : s.SameMemory (s.setMsg m) := ⟨fun _ _ => rfl, fun _ _ => rfl, fun _ => rfl⟩

theorem State.SameMemory.dropMsg (s : State) (id : Nat) : s.SameMemory (s.dropMsg id) := ⟨fun _ _ => rfl, fun _ _ => rfl, fun _ => rfl⟩

/-- A request held for a drain keeps every waiting request at the directory. -/
theorem State.reqs_holdForDrain (s : State) (m : Msg) (r : RelRec) :
    ((s.holdForDrain m r).dom m.dom).reqs = (s.dom m.dom).reqs := by
  unfold State.holdForDrain
  split
  · show ((s.setRec m.dom m.pa _).dom m.dom).reqs = _
    rw [State.dom_setRec_self]
  · rfl

/-- The DRAIN that a held request sends to the releaser that a record names (R265). -/
def Msg.drainFor (m : Msg) (id : Nat) (r : RelRec) : Msg := { m with
  id := id, kind := .drain r.agent r.epoch m.id, after := [], st := .sent, wait := false, dst := .none, slot := 16, group := [] }

theorem heldForDrain_holdForDrain {m : Msg} {r : RelRec} (hm : s.findMsg m.id ≠ none) (hid : m.id < s.nextId) :
    heldForDrain s ((s.markServed m).holdForDrain m r) m r := by
  have hnet : (s.markServed m).net = s.net := by rw [State.markServed_eq]
  have hnext : (s.markServed m).nextId = s.nextId := by rw [State.markServed_eq]
  unfold State.holdForDrain
  by_cases h1 : r.st = 1
  · rw [if_pos h1]
    have hpost : (((s.markServed m).setRec m.dom m.pa { r with st := 2 }).sendDrain m r.agent r.epoch).net =
        s.net ++ [m.drainFor s.nextId r] := by rw [← hnet, ← hnext]; rfl
    have hfound : (((s.markServed m).setRec m.dom m.pa { r with st := 2 }).sendDrain m r.agent r.epoch).findMsg m.id ≠ none := by
      obtain ⟨x, hx⟩ := Option.ne_none_iff_exists'.1 hm
      rw [State.findMsg, hpost, List.find?_append, show s.net.find? (fun e => e.id == m.id) = some x from hx]
      exact Option.some_ne_none x
    refine ⟨State.findMsg_setMsg_self (m := { m with st := .held }) hfound, ?_, fun _ => ⟨?_, m.drainFor s.nextId r, ?_, rfl, rfl, rfl,
      rfl, rfl⟩, fun h2 => by omega⟩
    · exact ((State.SameMemory.markServed s m).trans (State.SameMemory.setRec _ m.dom m.pa { r with st := 2 })).trans
        ⟨fun _ _ => rfl, fun _ _ => rfl, fun _ => rfl⟩
    · show lookup (((s.markServed m).setRec m.dom m.pa { r with st := 2 }).dom m.dom).recs _ = _
      rw [State.dom_setRec_self]
      exact lookup_insertKey_self _ _ _
    · rw [State.setMsg, hpost]
      refine List.mem_map.2 ⟨m.drainFor s.nextId r, List.mem_append_right _ (List.mem_singleton.2 rfl), if_neg ?_⟩
      show s.nextId ≠ m.id
      omega
  · rw [if_neg h1]
    refine ⟨State.findMsg_setMsg_self (m := { m with st := .held }) ?_, ?_, fun h => absurd h h1, fun _ => rfl⟩
    · rw [State.findMsg, hnet]; exact hm
    · exact (State.SameMemory.markServed s m).trans (State.SameMemory.setMsg _ _)

end Sys2Proof.Machine
end

section
/-! PROOFS. A store of whole bytes at a home in the terms of the statements (R110, R246, R249, R349, R352). -/
namespace Sys2Proof.Machine

/-! ### The bytes of a store -/

theorem Memory.get_writeMask (m : List Host.Cell) (a n mask v b : Nat) : Memory.get (Memory.writeMask m a n mask v) b =
    if a ≤ b ∧ b < a + n ∧ mask.testBit (b - a) = true then BitVec.ofNat 8 (v / 256 ^ (b - a)) else Memory.get m b := by
  induction n generalizing m a mask v with
  | zero => rw [if_neg (by omega)]; rfl
  | succ n ih =>
    rw [Memory.writeMask, ih]
    by_cases hb : b = a
    · subst hb
      rw [if_neg (by omega), Nat.sub_self, Nat.testBit_zero, pow_zero, Nat.div_one]
      by_cases hm : mask % 2 = 1
      · rw [if_pos hm, Memory.get_set_self, if_pos ⟨le_refl b, by omega, decide_eq_true hm⟩]
      · rw [if_neg hm, if_neg fun h => hm (of_decide_eq_true h.2.2)]
    · have hkeep : Memory.get (if mask % 2 = 1 then Memory.set m a (BitVec.ofNat 8 v) else m) b = Memory.get m b := by
        split
        · exact Memory.get_set_ne m _ hb
        · rfl
      rw [hkeep]
      by_cases hlo : a + 1 ≤ b
      · have hsub : b - a = b - (a + 1) + 1 := by omega
        have hiff : (a + 1 ≤ b ∧ b < a + 1 + n ∧ (mask / 2).testBit (b - (a + 1)) = true) ↔
            (a ≤ b ∧ b < a + (n + 1) ∧ mask.testBit (b - a) = true) := by
          rw [hsub, Nat.testBit_succ]
          constructor
          · rintro ⟨-, h2, h3⟩; exact ⟨by omega, by omega, h3⟩
          · rintro ⟨-, h2, h3⟩; exact ⟨hlo, by omega, h3⟩
        rw [if_congr hiff rfl rfl, Nat.div_div_eq_div_mul, hsub, pow_succ']
      · rw [if_neg (by omega), if_neg (by omega)]

theorem testBit_ones {n i : Nat} : (2 ^ n - 1).testBit i = decide (i < n) := Nat.testBit_two_pow_sub_one n i

theorem mem_maskedBytes_ones {pa n a : Nat} : a ∈ maskedBytes pa n ((2 ^ n - 1) &&& (2 ^ n - 1)) ↔ pa ≤ a ∧ a < pa + n := by
  rw [Nat.and_self]
  simp only [maskedBytes, List.mem_filterMap, List.mem_range, testBit_ones, decide_eq_true_eq, Option.ite_none_right_eq_some,
    Option.some.injEq]
  constructor
  · rintro ⟨i, hi, -, rfl⟩; omega
  · rintro ⟨h1, h2⟩; exact ⟨a - pa, by omega, by omega, by omega⟩

theorem wholeIn_ones_iff {pa n w : Nat} :
    wholeIn pa n (2 ^ n - 1) w = true ↔ ∀ i < 8, pa ≤ 8 * w + i ∧ 8 * w + i < pa + n ∧ true = true := by
  simp only [wholeIn, List.all_eq_true, List.mem_range, Bool.and_eq_true, decide_eq_true_eq, testBit_ones]
  constructor
  · intro h i hi
    obtain ⟨⟨h1, h2⟩, -⟩ := h i hi
    exact ⟨h1, h2, trivial⟩
  · intro h i hi
    obtain ⟨h1, h2, -⟩ := h i hi
    exact ⟨⟨h1, h2⟩, by omega⟩

/-! ### The store (R249, R352) -/

variable (s : State)

/-- The domain after a store of whole bytes, its undo logs apart. -/
def Dom.stored (v : Dom) (pa n x now : Nat) : Dom := { v.touchL2 (lineOf pa) now with
  mem := Memory.writeMask v.mem pa n (2 ^ n - 1) x
  replicas := v.replicas.filter fun r => r.1 != lineOf pa
  poison := v.poison.filter fun w => !wholeIn pa n (2 ^ n - 1) w }

/-- What bytes of a domain hold, the last first, and which of their words are poisoned, as an undo log takes them (R352). -/
def Dom.oldBytes (v : Dom) (bytes : List Nat) : List Host.Cell := (bytes.map fun a => (a, Memory.get v.mem a)).reverse
def Dom.oldWords (v : Dom) (bytes : List Nat) : List (Nat × Bool) :=
  (bytes.map (· / 8)).eraseDups.map fun w => (w, v.poison.contains w)

theorem Dom.mem_oldBytes (v : Dom) (bytes : List Nat) (e : Host.Cell) :
    e ∈ v.oldBytes bytes ↔ e.1 ∈ bytes ∧ e.2 = Memory.get v.mem e.1 := by
  obtain ⟨a, b⟩ := e
  simp only [Dom.oldBytes, List.mem_reverse, List.mem_map, Prod.mk.injEq]
  constructor
  · rintro ⟨c, hc, rfl, rfl⟩; exact ⟨hc, rfl⟩
  · rintro ⟨ha, hb⟩; exact ⟨a, ha, rfl, hb.symm⟩

theorem Dom.mem_oldWords (v : Dom) (bytes : List Nat) (e : Nat × Bool) :
    e ∈ v.oldWords bytes ↔ (∃ a ∈ bytes, e.1 = a / 8) ∧ (e.2 = true ↔ e.1 ∈ v.poison) := by
  obtain ⟨w, b⟩ := e
  simp only [Dom.oldWords, List.mem_map, List.mem_eraseDups, Prod.mk.injEq]
  constructor
  · rintro ⟨c, ⟨a, ha, rfl⟩, rfl, rfl⟩
    exact ⟨⟨a, ha, rfl⟩, by simp⟩
  · rintro ⟨⟨a, ha, rfl⟩, hb⟩
    refine ⟨_, ⟨a, ha, rfl⟩, rfl, ?_⟩
    rw [Bool.eq_iff_iff, hb]; simp

/-- The launch of a store takes the old bytes when it has checkpoints (R352). -/
def Launch.logged (l : Launch) (v : Dom) (bytes : List Nat) : Launch :=
  if l.hdr.ckpt ≠ 0 then { l with undo := v.oldBytes bytes ++ l.undo, undoPoison := v.oldWords bytes ++ l.undoPoison } else l

theorem State.homeStore_eq (d launch pa n x : Nat) : s.homeStore d launch pa n x =
    { (s.setDom d ((s.dom d).stored pa n x s.cycle)).modLaunch d launch fun l =>
        l.logged (s.dom d) (maskedBytes pa n ((2 ^ n - 1) &&& (2 ^ n - 1))) with
      net := s.net.map fun m => if m.watches d pa n then { m with st := .poked } else m } := by
  unfold State.homeStore State.homeWrite State.performWrite
  simp only [List.foldl_cons, List.foldl_nil, List.filter_nil, List.append_nil, if_true, State.logUndo]
  rw [State.net_modLaunch]
  rfl

variable (d launch pa n x : Nat)

/-- What a store leaves of its domain. -/
theorem State.dom_homeStore_self : (s.homeStore d launch pa n x).dom d = { (s.dom d).stored pa n x s.cycle with
    launches := ((s.homeStore d launch pa n x).dom d).launches } := by
  rw [State.homeStore_eq]
  show (State.modLaunch _ d launch _).dom d = _
  rw [State.dom_modLaunch, State.dom_setDom_self]
  rfl

theorem State.dom_homeStore_ne {e : Nat} (h : e ≠ d) : (s.homeStore d launch pa n x).dom e = s.dom e :=
  State.homeWrite_dom_ne s h _ _ _ _ _

theorem State.launches_homeStore (k : Nat) : lookup ((s.homeStore d launch pa n x).dom d).launches k =
    (lookup (s.dom d).launches k).map fun l =>
      if k = launch then l.logged (s.dom d) (maskedBytes pa n ((2 ^ n - 1) &&& (2 ^ n - 1))) else l := by
  have hstored : ((s.setDom d ((s.dom d).stored pa n x s.cycle)).dom d).launches = (s.dom d).launches := by
    rw [State.dom_setDom_self, Dom.stored, Dom.touchL2_eq]
  rw [State.homeStore_eq]
  show lookup ((State.modLaunch _ d launch _).dom d).launches k = _
  by_cases hk : k = launch
  · subst hk
    rw [State.lookup_modLaunch_self, hstored]
    simp
  · rw [State.lookup_modLaunch_ne _ fun h => hk h.2, hstored]
    simp [hk]

theorem State.state_homeStore : s.homeStore d launch pa n x = { s with
    doms := (s.homeStore d launch pa n x).doms
    net := s.net.map fun m => if m.watches d pa n then { m with st := .poked } else m } := by
  rw [State.homeStore_eq, State.modLaunch_eq]; rfl

theorem Msg.watches_iff (m : Msg) : m.watches d pa n = true ↔ m.st = .waiting ∧ m.dom = d ∧ m.pa < pa + n ∧ pa < m.pa + m.n := by
  simp [Msg.watches, and_assoc]

/-- The bytes that a store of a launch replaces, and their words, as its undo log takes them; no other launch takes any. -/
def Dom.undoBytes (v : Dom) (launch pa n k : Nat) : List Host.Cell :=
  if k = launch then v.oldBytes (maskedBytes pa n ((2 ^ n - 1) &&& (2 ^ n - 1))) else []
def Dom.undoWords (v : Dom) (launch pa n k : Nat) : List (Nat × Bool) :=
  if k = launch then v.oldWords (maskedBytes pa n ((2 ^ n - 1) &&& (2 ^ n - 1))) else []

theorem Dom.mem_undoBytes (v : Dom) {k : Nat} {e : Host.Cell} : e ∈ v.undoBytes launch pa n k ↔
    (pa ≤ e.1 ∧ e.1 < pa + n) ∧ k = launch ∧ e.2 = Memory.get v.mem e.1 := by
  unfold Dom.undoBytes
  split
  · next h => rw [Dom.mem_oldBytes, mem_maskedBytes_ones]; simp [h]
  · next h => simp [h]

theorem Dom.mem_undoWords (v : Dom) {k : Nat} {e : Nat × Bool} : e ∈ v.undoWords launch pa n k ↔
    (∃ a, (pa ≤ a ∧ a < pa + n) ∧ k = launch ∧ e.1 = a / 8) ∧ (e.2 = true ↔ e.1 ∈ v.poison) := by
  unfold Dom.undoWords
  split
  · next h =>
    rw [Dom.mem_oldWords]
    refine and_congr_left fun _ => exists_congr fun a => ?_
    rw [mem_maskedBytes_ones]; simp [h]
  · next h => simp [h]

theorem State.launches_homeStore_undo (k : Nat) : lookup ((s.homeStore d launch pa n x).dom d).launches k =
    (lookup (s.dom d).launches k).map fun l => if l.hdr.ckpt ≠ 0 then
      { l with undo := (s.dom d).undoBytes launch pa n k ++ l.undo,
               undoPoison := (s.dom d).undoWords launch pa n k ++ l.undoPoison } else l := by
  rw [State.launches_homeStore]
  refine congrArg (Option.map · _) (funext fun l => ?_)
  by_cases hk : k = launch
  · rw [if_pos hk, Dom.undoBytes, Dom.undoWords, if_pos hk, if_pos hk]; rfl
  · rw [if_neg hk, Dom.undoBytes, Dom.undoWords, if_neg hk, if_neg hk]
    exact (ite_self l).symm

theorem State.poison_homeStore (w : Nat) : w ∈ ((s.homeStore d launch pa n x).dom d).poison ↔
    w ∈ (s.dom d).poison ∧ ¬∀ i < 8, pa ≤ 8 * w + i ∧ 8 * w + i < pa + n ∧ true = true := by
  rw [← wholeIn_ones_iff, State.dom_homeStore_self]
  simp [Dom.stored]

/-- A store of whole bytes at a home is a write of its launch there. -/
theorem State.homeWrite_homeStore {f : Nat → Bool} (hf : ∀ j < 8 * n, x.testBit j = f j) :
    s.HomeWrite (s.homeStore d launch pa n x) d launch pa n (fun _ => true) f := by
  have hself := s.dom_homeStore_self d launch pa n x
  have hmem (a : Nat) : Memory.get ((s.homeStore d launch pa n x).dom d).mem a =
      if pa ≤ a ∧ a < pa + n ∧ (2 ^ n - 1).testBit (a - pa) = true then BitVec.ofNat 8 (x / 256 ^ (a - pa))
      else Memory.get (s.dom d).mem a := by
    rw [hself]; exact Memory.get_writeMask _ _ _ _ _ _
  refine ⟨fun a ha j hj => ?_, fun a ha => ?_, fun r => ?_, fun w => (s.poison_homeStore d launch pa n x w).trans (or_false _).symm.to_iff,
    ?_, ⟨(s.dom d).undoBytes launch pa n, (s.dom d).undoWords launch pa n, fun k e => ?_, fun k e => ?_,
      s.launches_homeStore_undo d launch pa n x⟩, ?_, fun e he => s.dom_homeStore_ne d launch pa n x he, ?_, ?_⟩
  · obtain ⟨hlo, hhi, -⟩ := ha
    rw [hmem, if_pos ⟨hlo, hhi, by rw [testBit_ones]; exact decide_eq_true (by omega)⟩, byte_getLsbD _ _ hj, hf _ (by omega)]
  · rw [hmem, if_neg fun h => ha ⟨h.1, h.2.1, rfl⟩]
  · rw [hself]
    simp [Dom.stored, lineOf]
  · rw [if_pos rfl, hself]
    exact Dom.used_touchL2 (s.dom d) (lineOf pa) s.cycle
  · rw [Dom.mem_undoBytes]; simp
  · rw [Dom.mem_undoWords]; simp
  · rw [hself, Dom.stored, Dom.touchL2_eq]
  · rw [State.state_homeStore]
    refine List.map_congr_left fun m _ => if_congr (Msg.watches_iff d pa n m) rfl rfl
  · rw [State.state_homeStore]

theorem State.reqs_homeStore : ((s.homeStore d launch pa n x).dom d).reqs = (s.dom d).reqs := by
  rw [State.dom_homeStore_self, Dom.stored, Dom.touchL2_eq]

/-- A store keeps every request on the network. -/
theorem State.findMsg_homeStore {id : Nat} (h : s.findMsg id ≠ none) : (s.homeStore d launch pa n x).findMsg id ≠ none := by
  obtain ⟨m, hm⟩ := Option.ne_none_iff_exists'.1 h
  have hcomp : ((fun e : Msg => e.id == id) ∘ fun e : Msg => if e.watches d pa n then { e with st := .poked } else e) =
      fun e => e.id == id := by
    funext e
    by_cases he : e.watches d pa n
    · simp [he]
    · simp [he]
  rw [State.state_homeStore, State.findMsg]
  show List.find? _ (List.map _ s.net) ≠ none
  rw [List.find?_map, hcomp, show s.net.find? (fun e => e.id == id) = some m from hm]
  exact Option.some_ne_none _

end Sys2Proof.Machine
end

section
/-! PROOFS. O30: arrivals at a barrier word, in local memory and at its home (R110, R163, R279). -/
namespace Sys2Proof.Machine

/-! ### The barrier word (R279) -/

theorem barCount_eq (w : Word) : barCount w = w.toNat % 2 ^ 24 := by
  rw [barCount, BitVec.extractLsb'_toNat]; simp

theorem barTarget_eq (w : Word) : barTarget w = w.toNat / 2 ^ 24 % 2 ^ 24 := by
  rw [barTarget, BitVec.extractLsb'_toNat, Nat.shiftRight_eq_div_pow]

theorem toNat_barGen (w : Word) : (barGen w).toNat = w.toNat / 2 ^ 48 := by
  rw [barGen, BitVec.extractLsb'_toNat, Nat.shiftRight_eq_div_pow]
  have := w.isLt
  omega

theorem barrierWord : Says.BarrierWord := by
  intro w count target gen
  have hcount : barCount w = count := barCount_eq w
  have htarget : barTarget w = target := barTarget_eq w
  have hgen : (barGen w).toNat = gen := toNat_barGen w
  have hlast : barLast w = true ↔ count + 1 = target := by rw [barLast, hcount, htarget, beq_iff_eq]
  have hdone : barDone w = true ↔ target = 0 ∨ target ≤ count := by
    rw [barDone, hcount, htarget, Bool.or_eq_true, beq_iff_eq, decide_eq_true_eq]
  refine ⟨hdone, hlast, fun hnot => ?_⟩
  have hopen : ¬(target = 0 ∨ target ≤ count) := fun h => by rw [hdone.2 h] at hnot; cases hnot
  have hfields : (w.extractLsb' 24 24).toNat = target ∧ (w.extractLsb' 0 24).toNat = count := ⟨htarget, hcount⟩
  have hlt : target < 2 ^ 24 := Nat.mod_lt _ (by decide)
  rw [barNext]
  by_cases h : count + 1 = target
  · rw [if_pos (hlast.2 h), if_pos h, toNat_append_eq_add, toNat_append_eq_add, BitVec.toNat_add, hgen, hfields.1]
    rw [show (1 : BitVec 16).toNat = 1 from rfl, BitVec.toNat_ofNat]
    omega
  · rw [if_neg (fun hh => h (hlast.1 hh)), if_neg h, toNat_append_eq_add, toNat_append_eq_add, BitVec.toNat_add, hgen, hfields.1, hfields.2]
    simp only [BitVec.toNat_ofNat]
    omega

/-! ### An arrival in local memory (R163, R279) -/

variable {s : State}

/-- The waiter that an arrival leaves at its bank (R279). -/
def State.barWaiter (s : State) (a : Nat) (ea : Word) (d : BitVec 6) (old : Word) : Msg :=
  { s.curMsg .barw a 8 ea with data := old.setWidth 1024, mask := 1, dst := .x d false }

/-- BARW on a word of the region, once the releases before it are done (R163, R279). -/
theorem exec_barw_window {d base idx : BitVec 6} {scl : BitVec 2} {size ord scope : BitVec 3} {off : BitVec 48} {ea : Word}
    (hea : eaOf s.cur base idx scl off = ea) (hsl : s.iss.slot ≠ 14) (hin : s.InRegion ea 8) (hfill : s.curCore.fill = none)
    (hclean : s.Unpoisoned (s.localOf ea) 8) (hout : s.curOutstanding = []) :
    let a := s.localOf ea
    let old := BitVec.ofNat 64 (s.localRead s.iss.core a 8)
    let u := s.localWrite s.iss.core a 8 (barNext old).toNat
    exec (.barw d base idx scl size ord scope off) s = .next (if barDone old then s.wx d old
      else if barLast old then u.wx d old else u.waitAtBank (u.barWaiter a ea d old) a) := by
  rw [exec_barw, execBarw, hea]
  dsimp only
  rw [if_neg hsl, State.place_window hin hfill]
  dsimp only
  rw [if_neg (not_not_intro hout), State.localPoison_eq_false (by decide) hclean, if_neg Bool.false_ne_true]
  rfl

/-- An access that is not eager acts at once (R269). -/
theorem State.ActsIn.eq_of_relaxed {s u : State} (h : s.ActsIn u 0#3) : u = s := by
  rcases h with ⟨-, -, -, hu⟩ | ⟨-, ⟨-, hu⟩ | ⟨h5, -⟩⟩
  · exact hu
  · exact hu
  · exact absurd h5 (by decide)

theorem localBarrier : Says.LocalBarrier := by
  intro s d base idx scl size ord scope off ea a w i
  have hea : eaOf s.cur base idx scl off = ea := eaOf_cur base idx scl off
  refine ⟨fun h14 => .of_takeTrap ?_, fun h14 hin hfill hout => .of_loseTurn ?_, fun h14 hin hfill hclean hout => ?_⟩
  · rw [exec_barw, execBarw, if_pos h14]; rfl
  · rw [exec_barw, execBarw, hea]
    dsimp only
    rw [if_neg h14, State.place_window hin hfill]
    dsimp only
    rw [if_pos hout]
  · have hexec : exec i s = .next (if barDone w then s.wx d w
        else if barLast w then (s.localWrite s.iss.core a 8 (barNext w).toNat).wx d w
        else (s.localWrite s.iss.core a 8 (barNext w).toNat).waitAtBank
          ((s.localWrite s.iss.core a 8 (barNext w).toNat).barWaiter a ea d w) a) :=
      exec_barw_window hea h14 hin hfill hclean hout
    have hwrite := s.localWrite_localWrite a 8 (barNext w).toNat
    refine ⟨fun hdone => ?_, fun hdone hlast u hu => ?_, fun hdone hlast => ?_⟩
    · exact WritesX.of_wx (v := w) (hexec.trans (by rw [if_pos hdone])) rfl
    · rw [hu.eq_of_relaxed]
      refine ⟨_, _, w, ?_, s.hasBits_localRead a 8, hwrite, ?_, State.Frame.wx _ d w⟩
      · rw [hexec, hdone, hlast, if_neg Bool.false_ne_true, if_pos rfl]
      · rw [State.rx_wx]; simp
    · let u := s.localWrite s.iss.core a 8 (barNext w).toNat
      refine ⟨u, u.waitAtBank (u.barWaiter a ea d w) a, u.bankWaiter (u.barWaiter a ea d w) a, ?_, hwrite, rfl, rfl, rfl, rfl, rfl, rfl,
        rfl, ?_⟩
      · rw [hexec, hdone, hlast, if_neg Bool.false_ne_true, if_neg Bool.false_ne_true]
      · rw [State.waitAtBank_eq u h14, State.cur_localWrite]; rfl

/-! ### An arrival at its home (R110, R279) -/

theorem ParkedFor.standOnList {m m' : Msg} (h : ParkedFor s m) (hcore : m'.core = m.core) (hslot : m'.slot = m.slot)
    (hgen : m'.gen = m.gen) (hid : m'.id = m.id) : s.standOnList m' = s.setMsg { m' with st := .waiting } := by
  obtain ⟨h1, h2⟩ := h
  rw [State.standOnList, hcore, hslot, hgen, hid]
  exact if_pos ⟨h1, h2⟩

/-- What follows an arrival that writes: the record of a release, and the answer or the place on the wait list. -/
def State.arrived (u : State) (m : Msg) (last : Bool) : State :=
  let u' := if m.scope ≠ 0 then u.leaveRecord m else u
  if last then u'.reply m else u'.standOnList { m with mask := 1 }

/-- An arrival as the home keeps it, with the word it found and whether its core is to self-invalidate (R265, R279). -/
def State.arrival (s : State) (m : Msg) (old : Word) : Msg :=
  { m with data := old.setWidth 1024, inval := (s.useLine m).acqInval m }

/-- It is the same request of the same thread. -/
theorem State.arrival_request (s : State) (m : Msg) (old : Word) : (s.arrival m old).id = m.id ∧ (s.arrival m old).core = m.core ∧
    (s.arrival m old).slot = m.slot ∧ (s.arrival m old).gen = m.gen := by
  simp only [State.arrival, and_self]

/-- What it carries and where it stands. -/
theorem State.arrival_at (s : State) (m : Msg) (old : Word) : (s.arrival m old).dom = m.dom ∧ (s.arrival m old).pa = m.pa ∧
    (s.arrival m old).data = old.setWidth 1024 ∧ (s.arrival m old).agent = m.agent ∧ (s.arrival m old).epoch = m.epoch ∧
    (s.arrival m old).scope = m.scope ∧ (s.arrival m old).ord = m.ord := by
  simp only [State.arrival, and_self]

/-- The arrival of a request at the word `old`, which no poison touches (R279). -/
theorem State.barArrive_eq {m : Msg} {old : Word} (hclean : (s.dom m.dom).poisoned m.pa 8 = false)
    (hold : BitVec.ofNat 64 (s.homeRead m.dom m.pa 8) = old) : s.barArrive m =
      if barDone old then (s.useLine m).reply (s.arrival m old)
      else ((s.useLine m).homeStore m.dom m.launch m.pa 8 (barNext old).toNat).arrived (s.arrival m old) (barLast old) := by
  have hmem : (s.useLine m).homeRead m.dom m.pa 8 = s.homeRead m.dom m.pa 8 := by
    rw [State.homeRead, State.dom_useLine]; rfl
  have hpoison : ((s.useLine m).dom m.dom).poisoned m.pa 8 = false := by rw [State.dom_useLine]; exact hclean
  rw [State.barArrive, hpoison, if_neg Bool.false_ne_true, hmem, hold]
  rfl

/-- An arrival whose thread is parked for it, or the last one, stays on the network. -/
theorem State.arrived_eq {u : State} {m : Msg} {last : Bool} (h : last = true ∨ ParkedFor u m) : ∃ u' m', u.arrived m last = u'.setMsg m' ∧
    m'.id = m.id ∧ m'.data = m.data ∧ m'.st = (if last then .replied else .waiting) ∧ u'.net = u.net ∧
    u' = if m.scope ≠ 0 then u.leaveRecord m else u := by
  have hnet : (if m.scope ≠ 0 then u.leaveRecord m else u).net = u.net := by split <;> rfl
  cases last with
  | true => exact ⟨_, { m with st := .replied }, rfl, rfl, rfl, rfl, hnet, rfl⟩
  | false =>
    have hparked : ParkedFor (if m.scope ≠ 0 then u.leaveRecord m else u) m := by
      split
      · exact h.resolve_left Bool.false_ne_true
      · exact h.resolve_left Bool.false_ne_true
    exact ⟨_, { m with mask := 1, st := .waiting }, ParkedFor.standOnList hparked rfl rfl rfl rfl, rfl, rfl, rfl, hnet, rfl⟩

/-- BARW_ARRIVAL_AT_HOME on a request that need not wait (R279). -/
theorem exec_barwArrivalAtHome_due {id : Nat} {m : Msg} (hat : s.AtHome id true m) (hkind : m.kind = .barw) (hmask : m.mask = 0#128)
    (hdrain : ∀ r, ¬mustDrainFirst s m r) (hover : ∀ r, ¬mustOverwriteFirst s m r)
    (hreqs : (((s.markServed m).barArrive m).dom m.dom).reqs = ((s.markServed m).dom m.dom).reqs) :
    exec (.barwArrivalAtHome id) s = .next ((s.markServed m).barArrive m) := by
  have hdo : (if m.mask ≠ 0 then s.markServed m else
      match (s.markServed m).readMustWait m with
      | some r => (s.markServed m).holdForDrain m r
      | none =>
        match (if m.scope != 0 && !barDone (BitVec.ofNat 64 ((s.markServed m).homeRead m.dom m.pa 8))
          then (s.markServed m).writeMustWait m else none) with
        | some r => (s.markServed m).holdForDrain m r
        | none => (s.markServed m).barArrive m) = (s.markServed m).barArrive m := by
    rw [if_neg (show ¬m.mask ≠ 0 from not_not_intro hmask), State.readMustWait_markServed hdrain,
      State.writeMustWait_markServed hover, ite_self]
  rw [exec_barwArrivalAtHome, execBarwArrivalAtHome]
  exact congrArg Host.Outcome.next ((hat.perform (by rw [hkind]) ((congrArg (fun t => (t.dom m.dom).reqs) hdo).trans hreqs)).trans hdo)

theorem barrierArrivals : Says.BarrierArrivals := by
  intro s id m hat hid hkind hmask hn hdrain hover hclean old
  have hmid : m.id = id := hat.id_eq
  have hmark := s.markServed_eq m
  have hdom := s.dom_markServed m m.dom
  have hnet : (s.markServed m).net = s.net := by rw [hmark]
  have hfound : s.findMsg id ≠ none := by rw [hat.found]; exact Option.some_ne_none m
  have hpoison : ((s.markServed m).dom m.dom).poisoned m.pa 8 = false := by rw [hdom]; exact Dom.poisoned_eq_false hclean
  have hold : BitVec.ofNat 64 ((s.markServed m).homeRead m.dom m.pa 8) = old := by rw [State.homeRead, hdom]
  obtain ⟨harrid, hcore, hslot, hgen⟩ := (s.markServed m).arrival_request m old
  rw [hmid] at harrid
  obtain ⟨hadom, hapa, hdata, hagent, hepoch, hscope, hord⟩ := (s.markServed m).arrival_at m old
  refine ⟨fun hdone => ?_, fun hdone hlast => ?_⟩
  · have harrive := State.barArrive_eq hpoison hold
    rw [hdone, if_pos rfl] at harrive
    have hexec := exec_barwArrivalAtHome_due hat hkind hmask hdrain hover (by rw [harrive]; exact State.reqs_useLine _ m m.dom)
    rw [harrive] at hexec
    refine ⟨_, _, hexec, State.nowIs_reply hnet harrid hfound, rfl, hdata, State.usesHome_of_dom fun _ => rfl, ?_, ?_⟩
    · exact ((State.SameMemory.markServed s m).trans (State.SameMemory.useLine _ m)).trans (State.SameMemory.setMsg _ _)
    · rw [hmark]; rfl
  · have harrive := State.barArrive_eq hpoison hold
    rw [hdone, if_neg Bool.false_ne_true] at harrive
    have hreqs1 : ((s.markServed m).useLine m).dom m.dom = _ := State.dom_useLine _ m m.dom
    obtain ⟨s1, hs1⟩ : ∃ s1, s1 = (s.markServed m).useLine m := ⟨_, rfl⟩
    rw [← hs1] at harrive hreqs1
    have hstate := s1.state_homeStore m.dom m.launch m.pa 8 (barNext old).toNat
    have hstore := s1.dom_homeStore_self m.dom m.launch m.pa 8 (barNext old).toNat
    have hwrite := s1.homeWrite_homeStore m.dom m.launch m.pa 8 (barNext old).toNat (f := (barNext old).getLsbD) fun _ _ => rfl
    obtain ⟨u, hu⟩ : ∃ u, u = s1.homeStore m.dom m.launch m.pa 8 (barNext old).toNat := ⟨_, rfl⟩
    rw [← hu] at harrive hstate hstore hwrite
    have hthread : u.thread m.core m.slot = s.thread m.core m.slot := by
      rw [hstate, hs1, hmark]; rfl
    have hparked : barLast old = true ∨ ParkedFor u ((s.markServed m).arrival m old) := by
      refine hlast.imp (fun h => h) fun h => ?_
      rw [ParkedFor, hcore, hslot, hgen, harrid, hthread, ← hmid]; exact h
    obtain ⟨u', m', heq, hid', hdata', hst, hnet', hu'⟩ := State.arrived_eq hparked
    have hu'dom : (u'.dom m.dom).reqs = (u.dom m.dom).reqs := by
      rw [hu']
      split
      · rw [← hadom]; exact u.reqs_leaveRecord _
      · rfl
    have hreqs : (((s.markServed m).barArrive m).dom m.dom).reqs = ((s.markServed m).dom m.dom).reqs := by
      rw [harrive, heq]
      show (u'.dom m.dom).reqs = _
      rw [hu'dom, hu, State.reqs_homeStore, hs1, State.reqs_useLine]
    have hexec := exec_barwArrivalAtHome_due hat hkind hmask hdrain hover hreqs
    rw [harrive, heq] at hexec
    have hfoundu : u.findMsg id ≠ none := by
      rw [hu]
      refine s1.findMsg_homeStore m.dom m.launch m.pa 8 _ ?_
      rw [hs1, hmark]; exact hfound
    refine ⟨s1, u, _, m', hexec, ?_, ?_, hwrite, State.nowIs_setMsg hnet' (hid'.trans harrid) hfoundu, hdata'.trans hdata, hst, ?_,
      fun h0 => ?_⟩
    · exact State.usesHome_of_dom fun _ => by rw [hs1]
    · rw [hs1, hmark]; rfl
    · refine State.SameMemory.trans ?_ (State.SameMemory.setMsg u' m')
      rw [hu']
      split
      · exact State.SameMemory.leaveRecord u _
      · exact State.SameMemory.refl u
    · show lookup (u'.dom m.dom).recs _ = _
      rw [hu', if_pos (by rw [hscope]; exact h0)]
      have hrec := u.recs_leaveRecord ((s.markServed m).arrival m old)
      rw [hadom, hapa, hagent, hepoch, hscope, hord] at hrec
      exact hrec

/-- Settles O30: the barrier word by its fields, an arrival at a bank and at the home by what it makes of the word. -/
theorem barriers : Obligations.Barriers := ⟨localBarrier, barrierWord, barrierArrivals⟩

end Sys2Proof.Machine
end

section
/-! PROOFS. Releases at issue: what a write-back of an L1 data cache and the count of a release leave alone (R242, R261, R269, R272). -/
namespace Sys2Proof.Machine

/-- Between `s` and `t` L1 data caches have changed and write-backs have left; a drain may have been counted. -/
def State.CacheStep (s t : State) : Prop :=
  t = { s with caches := t.caches, net := t.net, nextId := t.nextId, gauge := t.gauge }

namespace State.CacheStep
variable {s t u : State}

theorem refl (s : State) : s.CacheStep s := rfl
theorem trans (h : s.CacheStep t) (h' : t.CacheStep u) : s.CacheStep u := by
  unfold State.CacheStep at *; rw [h', h]
theorem iss (h : s.CacheStep t) : t.iss = s.iss := by rw [h]
theorem core (h : s.CacheStep t) (c : Nat) : t.core c = s.core c := by rw [h]; rfl
theorem dom (h : s.CacheStep t) (d : Nat) : t.dom d = s.dom d := by rw [h]; rfl
theorem cur (h : s.CacheStep t) : t.cur = s.cur := by rw [h]; rfl
theorem agentOf (h : s.CacheStep t) (c : Nat) : t.agentOf c = s.agentOf c := by rw [h]; rfl
theorem curAgent (h : s.CacheStep t) : t.curAgent = s.curAgent := by rw [h]; rfl

theorem flushLine (s : State) (agent d pa : Nat) : s.CacheStep (s.flushLine agent d pa) := by
  unfold State.CacheStep; rw [State.flushLine_eq]

theorem sendWriteBack (s : State) (agent : Nat) (l : L1Line) : s.CacheStep (s.sendWriteBack agent l) := s.sendWriteBack_eq agent l

theorem sendWriteBacks (agent : Nat) (ls : List L1Line) : ∀ s : State, s.CacheStep (ls.foldl (fun s l => s.sendWriteBack agent l) s) := by
  induction ls with
  | nil => exact .refl
  | cons l ls ih => exact fun s => (sendWriteBack s agent l).trans (ih _)

theorem writeBackAll (s : State) (agent : Nat) (p : L1Line → Bool) : s.CacheStep (s.writeBackAll agent p).1 :=
  State.CacheStep.trans (t := s.setCache agent _) rfl (sendWriteBacks agent _ _)

theorem countDrain (s : State) (agent lines : Nat) : s.CacheStep (s.countDrain agent lines) := by
  unfold State.countDrain
  dsimp only
  split <;> rfl

theorem drainAll (s : State) (agent : Nat) : s.CacheStep (s.drainAll agent).1 :=
  (writeBackAll s agent _).trans (countDrain _ agent _)

theorem eagerDrain (s : State) (eager : Bool) : s.CacheStep (s.eagerDrain eager).1 := by
  cases eager with
  | true => exact drainAll s s.curAgent
  | false => exact refl s

theorem beginRelease (s : State) (eager : Bool) : s.CacheStep (s.beginRelease eager).1 :=
  (eagerDrain s eager).trans rfl

end State.CacheStep

variable (s : State)

theorem State.cache_sendWriteBacks (agent a : Nat) (ls : List L1Line) :
    ∀ s : State, (ls.foldl (fun s l => s.sendWriteBack agent l) s).cache a = s.cache a := by
  induction ls with
  | nil => exact fun _ => rfl
  | cons l ls ih => exact fun s => (ih _).trans (s.cache_sendWriteBack agent l a)

/-- What a write-back of all lines that `p` picks makes of a line. -/
def L1Line.backed (p : L1Line → Bool) (l : L1Line) : L1Line := if l.dirty != 0 && p l then l.clean else l

theorem State.cache_writeBackAll (agent : Nat) (p : L1Line → Bool) :
    (s.writeBackAll agent p).1.cache agent = { s.cache agent with lines := (s.cache agent).lines.map (L1Line.backed p) } := by
  show State.cache (List.foldl _ (s.setCache agent _) _) agent = _
  rw [State.cache_sendWriteBacks, State.cache_setCache_self]; rfl

theorem State.cache_countDrain (agent lines : Nat) : (s.countDrain agent lines).cache agent =
    { s.cache agent with drains := (s.cache agent).drains + 1, dlines := (s.cache agent).dlines + BitVec.ofNat 32 lines } := by
  have hmod := s.cache_modCache_self agent fun k => { k with drains := k.drains + 1, dlines := k.dlines + BitVec.ofNat 32 lines }
  unfold State.countDrain
  dsimp only
  split <;> exact hmod

/-- An L1 that holds no copy of a line still holds none once its lines have been written back. -/
theorem Cache.find_backed {k : Cache} {d line : Nat} (p : L1Line → Bool) (h : k.find d line = none) :
    ({ k with lines := k.lines.map (L1Line.backed p) } : Cache).find d line = none := by
  have hplace (l : L1Line) : (l.backed p).dom = l.dom ∧ (l.backed p).line = l.line := by
    unfold L1Line.backed; split <;> exact ⟨rfl, rfl⟩
  rw [Cache.find, List.find?_eq_none] at h ⊢
  intro l' hl'
  obtain ⟨l, hl, rfl⟩ := List.mem_map.1 hl'
  rw [(hplace l).1, (hplace l).2]
  exact h l hl

/-- The eager drain of a release brings no line back and counts no release (R269). -/
theorem State.cache_eagerDrain (eager : Bool) : ((s.eagerDrain eager).1.cache s.curAgent).relcnt = (s.cache s.curAgent).relcnt ∧
    ∀ d line, (s.cache s.curAgent).find d line = none → ((s.eagerDrain eager).1.cache s.curAgent).find d line = none := by
  cases eager with
  | false => exact ⟨rfl, fun _ _ h => h⟩
  | true =>
    have hcache : (s.eagerDrain true).1.cache s.curAgent = (((s.writeBackAll s.curAgent fun _ => true).1.countDrain s.curAgent
        (s.writeBackAll s.curAgent fun _ => true).2).cache s.curAgent) := rfl
    rw [hcache, State.cache_countDrain, State.cache_writeBackAll]
    exact ⟨rfl, fun d line h => Cache.find_backed _ h⟩

/-- A release of scope 1 or wider counts once and brings no line back (R261, R269). -/
theorem State.cache_beginRelease (eager : Bool) :
    ((s.beginRelease eager).1.cache s.curAgent).relcnt = (s.cache s.curAgent).relcnt + 1#64 ∧
    ∀ d line, (s.cache s.curAgent).find d line = none → ((s.beginRelease eager).1.cache s.curAgent).find d line = none := by
  obtain ⟨hrel, hfind⟩ := s.cache_eagerDrain eager
  have hagent : (s.eagerDrain eager).1.curAgent = s.curAgent := (State.CacheStep.eagerDrain s eager).curAgent
  have hbegin : (s.beginRelease eager).1 = (s.eagerDrain eager).1.countRelease s.curAgent := by rw [State.beginRelease, hagent]
  rw [hbegin, State.relcnt_countRelease, hrel]
  refine ⟨rfl, fun d line h => ?_⟩
  have hlines := (s.eagerDrain eager).1.lines_countRelease s.curAgent
  rw [Cache.find, hlines]
  exact hfind d line h

end Sys2Proof.Machine
end

section
/-! PROOFS. Replies at their core: the thread that waits for one goes on with what the reply brings (R109, R126, R248, R251). -/
namespace Sys2Proof.Machine

/-! ### What a reply brings (R248) -/

/-- The `n` low bits of a value, extended to a word. -/
theorem hasBits_extBits {n v : Nat} (sx : Bool) (hn : n ≤ 64) (hv : v < 2 ^ n) :
    HasBits n sx v.testBit (extBits (BitVec.ofNat 64 v) n sx) := by
  intro j hj
  have hlow (i : Nat) : ((BitVec.ofNat 64 v).setWidth n).getLsbD i = (decide (i < n) && v.testBit i) := by
    rw [BitVec.getLsbD_setWidth, BitVec.getLsbD_ofNat]
    by_cases hi : i < n
    · simp [hi, show i < 64 by omega]
    · simp [hi]
  cases sx with
  | false =>
    show (((BitVec.ofNat 64 v).setWidth n).setWidth 64).getLsbD j = _
    rw [BitVec.getLsbD_setWidth, hlow]
    by_cases hi : j < n <;> simp [hi, hj]
  | true =>
    show (((BitVec.ofNat 64 v).setWidth n).signExtend 64).getLsbD j = _
    rw [BitVec.getLsbD_signExtend, BitVec.msb_eq_getLsbD_last, hlow, hlow]
    by_cases hi : j < n
    · simp [hi, hj]
    · cases n with
      | zero => rw [Nat.lt_one_iff.1 hv]; simp
      | succ n => simp [hi, hj]

/-- What a thread holds once a destination other than a stream has been written is what the terms of the statements say. -/
theorem delivered_deliver {x : Thread} {dst : Dst} {n v : Nat} (hdst : dst = .none ∨ ∃ d sx, dst = .x d sx) (hn : n ≤ 8)
    (hv : v < 2 ^ (8 * n)) : delivered x dst n v (x.deliver dst n v) := by
  rcases hdst with rfl | ⟨d, sx, rfl⟩
  · rfl
  · refine ⟨extBits (BitVec.ofNat 64 v) (8 * n) sx, hasBits_extBits sx (by omega) hv, ?_, ?_, fun r hr => Thread.getX_setX_ne x _ hr⟩
    · exact Thread.setXs_eq [extBits (BitVec.ofNat 64 v) (8 * n) sx] x d
    · rw [Thread.deliver, Thread.getX_setX, if_pos rfl]

/-! ### The thread that waits (R109, R126) -/

variable {s u : State} {m : Msg} {x : Thread}

theorem Waiting.of_core (h : Waiting s m x) (hu : ∀ c, u.core c = s.core c) : Waiting u m x := by
  obtain ⟨hx, hrest⟩ := h
  refine ⟨?_, hrest⟩
  rw [State.thread?, hu]; exact hx

theorem rotated_of_core (hu : ∀ c, u.core c = s.core c) : rotated u m x = rotated s m x := by rw [rotated, hu]; rfl

theorem Waiting.thread_eq (h : Waiting s m x) : s.thread m.core m.slot = x := by
  obtain ⟨hx, -⟩ := h
  rw [State.thread, hx]; rfl

theorem Waiting.waiter (h : Waiting s m x) : s.waiter m = some x := by
  obtain ⟨hx, hgen, hwait, hst⟩ := h
  rw [State.waiter, hx]
  exact if_pos ⟨hgen, hwait, hst⟩

theorem Waiting.goOn (h : Waiting s m x) : s.goOn m = s.setThread m.core m.slot (rotated s m x) := by
  rw [State.goOn, rotated, Waiting.thread_eq h]
  split
  · rw [State.modThread, Waiting.thread_eq h]
  · rw [State.wakeThread, State.modThread, Waiting.thread_eq h]

theorem Waiting.deliver (h : Waiting s m x) (hdst : m.dst = .none ∨ ∃ d sx, m.dst = .x d sx) (n v : Nat) (pc : Word) :
    (s.goOn m).deliver m.core m.slot m.dst n v pc = s.setThread m.core m.slot ((rotated s m x).deliver m.dst n v) := by
  have hmod : (s.goOn m).deliver m.core m.slot m.dst n v pc =
      (s.goOn m).modThread m.core m.slot fun t => t.deliver m.dst n v := by
    rcases hdst with h0 | ⟨d, sx, h0⟩ <;> rw [h0] <;> rfl
  rw [hmod, Waiting.goOn h, State.modThread, State.thread_setThread_self, State.setThread_setThread]

/-- The state once a request is gone and its requester has self-invalidated as the reply asks (R265, R267). -/
def State.taken (s : State) (m : Msg) : State :=
  if m.inval then (s.dropMsg m.id).selfInvalidate m.agent else s.dropMsg m.id

theorem State.core_taken (s : State) (m : Msg) (c : Nat) : (s.taken m).core c = s.core c := by
  unfold State.taken; split <;> rfl

/-- The reply of an ordered access that brings no poison (R251). -/
theorem Waiting.orderedArrives (h : Waiting s m x) (hdst : m.dst = .none ∨ ∃ d sx, m.dst = .x d sx) (hpoison : m.poisoned = false) :
    s.orderedArrives m = (s.taken m).setThread m.core m.slot
      ((rotated s m x).deliver m.dst m.n (m.data.toNat % 2 ^ (8 * m.n))) := by
  have hu := s.core_taken m
  have hdeliver := Waiting.deliver (Waiting.of_core h hu) hdst m.n (m.data.toNat % 2 ^ (8 * m.n)) m.pc
  rw [rotated_of_core hu] at hdeliver
  rw [State.orderedArrives]
  show (match (s.taken m).waiter m with | none => _ | some _ => _) = _
  rw [Waiting.waiter (Waiting.of_core h hu), ← hdeliver]
  exact if_neg (by rw [hpoison]; exact Bool.false_ne_true)

/-- The reply of an ordered access that brings poison (R249). -/
theorem Waiting.orderedArrives_poisoned (h : Waiting s m x) (hpoison : m.poisoned = true) :
    s.orderedArrives m = (s.taken m).replyTrap m .poison m.va 0 := by
  rw [State.orderedArrives]
  show (match (s.taken m).waiter m with | none => _ | some _ => _) = _
  rw [Waiting.waiter (Waiting.of_core h (s.core_taken m))]
  exact if_pos hpoison

end Sys2Proof.Machine
end

section
/-! PROOFS. O29: WAITV, JOIN, LWAIT and BARW at issue (R118, R163, R264, R279, R280, R331). -/
namespace Sys2Proof.Machine

variable {s : State}

/-! ### Words of local memory -/

/-- `i` parks the thread on the wait list of a local word with a request of this kind (R110). -/
def ParksAtBank (i : Instr) (s : State) (kind : MKind) (a n : Nat) : Prop :=
  ∃ t m, exec i s = .next t ∧ m.kind = kind ∧ m.id = s.nextId ∧ m.pa = a ∧ m.n = n ∧ m.dom = bankDom s.iss.core ∧
    m.st = .waiting ∧ m.wait = true ∧ t = { s.setThread s.iss.core s.iss.slot { s.cur with st := .parked (.home m.id) } with
      net := s.net ++ [m], nextId := s.nextId + 1 }

theorem ParksAtBank.of_waitAtBank {i : Instr} {kind : MKind} {a : Nat} {m : Msg} (hsl : s.iss.slot ≠ 14) (hkind : m.kind = kind)
    (h : exec i s = .next (s.waitAtBank m a)) : ParksAtBank i s kind a m.n :=
  ⟨_, s.bankWaiter m a, h, hkind, rfl, rfl, rfl, rfl, rfl, rfl, s.waitAtBank_eq hsl m a⟩

/-- What a wait on a local word does with the outcome of its condition (R118, R126, R280). -/
def State.waitLocal (s : State) (met : Bool) (done : State) (m : Msg) (a : Nat) : State :=
  if met then done else if s.iss.slot = 14 then s.takeTrap .handlerBlock 0#64 0#64 else s.waitAtBank m a

/-- The request of a WAITV or LWAIT, with the register it writes. -/
def State.waitMsg (s : State) (kind : MKind) (a n : Nat) (ea : Word) (d : BitVec 6) : Msg :=
  { s.curMsg kind a n ea with dst := .x d false }

theorem exec_waitv_window {sub : BitVec 4} {d base idx : BitVec 6} {size ord scope : BitVec 3} {off : BitVec 48}
    (hrel : s.curReleases = []) (hfill : s.curCore.fill = none) (hin : s.InRegion (s.rx base + off.signExtend 64) (2 ^ size.toNat))
    (hclean : s.Unpoisoned (s.localOf (s.rx base + off.signExtend 64)) (2 ^ size.toNat)) :
    let a := s.localOf (s.rx base + off.signExtend 64)
    let n := 2 ^ size.toNat
    let w := BitVec.ofNat 64 (s.localRead s.iss.core a n)
    exec (.waitv sub d base idx size ord scope off) s = .next (s.waitLocal (condHolds sub (8 * n) w (s.rx idx)) (s.wx d w)
      (s.waitMsg (.waitv sub (s.rx idx)) a n (s.rx base + off.signExtend 64) d) a) := by
  have hplace := State.place_window hin hfill .read
  rw [exec_waitv, execWaitv, show eaAtomic s.cur base off = s.rx base + off.signExtend 64 from rfl, sizeBytes]
  dsimp only
  rw [hplace]
  dsimp only
  rw [if_neg (not_not_intro hrel), State.localPoison_eq_false (Nat.two_pow_pos _) hclean, if_neg Bool.false_ne_true]
  rfl

theorem exec_join_window {base : BitVec 6} (hrel : s.curReleases = []) (hfill : s.curCore.fill = none) (hin : s.InRegion (s.rx base) 8)
    (hclean : s.Unpoisoned (s.localOf (s.rx base)) 8) (hbase : base ≠ 0#6) :
    exec (.join base) s = .next (s.waitLocal (decide (s.localRead s.iss.core (s.localOf (s.rx base)) 8 = 0)) s
      (s.curMsg .join (s.localOf (s.rx base)) 8 (s.rx base)) (s.localOf (s.rx base))) := by
  rw [exec_join, execJoin]
  dsimp only
  rw [if_neg hbase, State.place_window hin hfill]
  dsimp only
  rw [if_neg (not_not_intro hrel), State.localPoison_eq_false (by decide) hclean, if_neg Bool.false_ne_true, State.waitLocal]
  simp only [decide_eq_true_eq]
  rfl

theorem exec_lwait_window {d base : BitVec 6} (hrel : s.curReleases = []) (hfill : s.curCore.fill = none)
    (hin : s.InRegion (s.rx base) 8) (hclean : s.Unpoisoned (s.localOf (s.rx base)) 8) (hal : (s.rx base).toNat % 32 = 0) :
    let w := s.localRead s.iss.core (s.localOf (s.rx base)) 8
    exec (.lwait d base) s = .next (s.waitLocal (decide (w % 256 ≠ 0)) (s.wx d (BitVec.ofNat 64 w))
      (s.waitMsg .lwait (s.localOf (s.rx base)) 8 (s.rx base) d) (s.localOf (s.rx base))) := by
  rw [exec_lwait, execLwait]
  dsimp only
  rw [if_neg (not_not_intro hal), State.place_window hin hfill]
  dsimp only
  rw [if_neg (not_not_intro hrel), State.localPoison_eq_false (by decide) hclean, if_neg Bool.false_ne_true, State.waitLocal]
  simp only [decide_eq_true_eq]
  rfl

/-- The three outcomes of a wait on a local word. -/
theorem waitLocal_outcomes {i : Instr} {met : Bool} {done : State} {m : Msg} {a : Nat} {kind : MKind} {holds : Prop}
    (h : exec i s = .next (s.waitLocal met done m a)) (hmet : met = true ↔ holds) (hkind : m.kind = kind) :
    (holds → exec i s = .next done) ∧ (¬holds → s.iss.slot = 14 → TrapsWith i s .handlerBlock 0#64 0#64) ∧
    (¬holds → s.iss.slot ≠ 14 → ParksAtBank i s kind a m.n) := by
  rw [State.waitLocal] at h
  refine ⟨fun hh => ?_, fun hh h14 => .of_takeTrap ?_, fun hh h14 => .of_waitAtBank h14 hkind ?_⟩
  · rw [h, if_pos (hmet.2 hh)]
  · rw [h, if_neg (hmet.not.2 hh), if_pos h14]
  · rw [h, if_neg (hmet.not.2 hh), if_neg h14]

theorem localWaits : Says.LocalWaits := by
  intro s sub d base idx size ord scope off hsub hlo hhi ea n a w a' w' parks
  have hw' : w'.toNat = s.localRead s.iss.core a' 8 := Nat.mod_eq_of_lt (s.localRead_lt _ _ (by decide))
  refine ⟨?_, fun hal => .of_takeTrap ?_, fun hrel hfill => ⟨fun hin hclean => ?_, fun hin hclean hbase => ?_⟩⟩
  · rw [exec_join, execJoin, if_pos rfl]
  · rw [exec_lwait, execLwait, if_pos hal]; rfl
  · obtain ⟨hdone, htrap, hpark⟩ := waitLocal_outcomes (exec_waitv_window hrel hfill hin hclean)
      (condHolds_iff (8 * n) sub w (s.rx idx)) (kind := .waitv sub (s.rx idx)) rfl
    exact ⟨fun h => .of_wx (hdone h) (s.hasBits_localRead a n), htrap, hpark⟩
  · have hzero : decide (s.localRead s.iss.core a' 8 = 0) = true ↔ w' = 0#64 := by
      rw [decide_eq_true_iff, ← hw']
      exact ⟨fun h => BitVec.eq_of_toNat_eq h, fun h => by rw [h]; rfl⟩
    obtain ⟨hdone, htrap, hpark⟩ := waitLocal_outcomes (exec_join_window hrel hfill hin hclean hbase) hzero (kind := .join) rfl
    refine ⟨hdone, htrap, hpark, fun hal => ?_⟩
    have hbyte : decide (s.localRead s.iss.core a' 8 % 256 ≠ 0) = true ↔ w'.toNat % 256 ≠ 0 := by rw [decide_eq_true_iff, hw']
    obtain ⟨hdone, htrap, hpark⟩ := waitLocal_outcomes (exec_lwait_window (d := d) hrel hfill hin hclean hal) hbyte (kind := .lwait) rfl
    exact ⟨fun h => .of_wx (hdone h) (s.hasBits_localRead a' 8), fun h => htrap (not_not_intro h), fun h => hpark (not_not_intro h)⟩

/-! ### Words in domains (R264, R265, R279) -/

/-- A wait that leaves for the home of its word, once what L1 holds of the line has left (R256, R264). -/
def State.askHome (s s1 : State) (kind : MKind) (pa n : Nat) (ea : Word) (ord scope : Nat) (dst : Dst) : Msg :=
  { s1.curMsg kind pa n ea with ord := ord, scope := scope, dst := dst, after := s.curReleases ++ sentSince s s1 }

/-- A BARW that leaves for the home of its word with its release (R264, R279). -/
def State.arriveHome (s s2 : State) (pa : Nat) (ea : Word) (ord scope : Nat) (d : BitVec 6) (ids : List Nat) : Msg :=
  { s2.curMsg .barw pa 8 ea with
    ord := ord, scope := scope, epoch := s2.epochOf s2.curAgent, dst := .x d false, after := s.curOutstanding ++ sentSince s s2 ++ ids }

theorem State.mine_askHome (s s1 : State) (kind : MKind) (pa n : Nat) (ea : Word) (ord scope : Nat) (dst : Dst) :
    s1.Mine { s.askHome s1 kind pa n ea ord scope dst with wait := true, id := s1.nextId } := State.mine_curMsg s1 ..

theorem State.mine_arriveHome (s s2 : State) (pa : Nat) (ea : Word) (ord scope : Nat) (d : BitVec 6) (ids : List Nat) :
    s2.Mine { s.arriveHome s2 pa ea ord scope d ids with wait := true, id := s2.nextId } := State.mine_curMsg s2 ..

/-- The state once the copy of a line has left the issuing core's L1. -/
def State.lineGone (s : State) (pa : Nat) : State := s.flushLine s.curAgent s.cur.dom pa

/-- Between a translated access and its request only caches have changed, and the L1 holds no copy of the line. -/
def GoneFor (s s1 : State) (pa : Nat) (s2 : State) : Prop :=
  s2.cur = s1.cur ∧ (∀ d, s2.dom d = s1.dom d) ∧ (s2.cache (s.agentOf s.iss.core)).find s.cur.dom (pa / 128) = none

theorem State.find_lineGone (s : State) (pa : Nat) : ((s.lineGone pa).cache s.curAgent).find s.cur.dom (pa / 128) = none := by
  rw [State.lineGone, State.cache_flushLine]
  exact Cache.find_drop _ _ _

theorem State.Translated.goneFor {s1 : State} (h : s.Translated s1) (pa : Nat) : GoneFor s s1 pa (s1.lineGone pa) := by
  refine ⟨State.cur_flushLine s1 .., fun d => State.dom_flushLine s1 _ _ _ d, ?_⟩
  have hfind := s1.find_lineGone pa
  rw [h.curAgent, h.cur] at hfind
  exact hfind

theorem State.Translated.relcnt_lineGone {s1 : State} (h : s.Translated s1) (pa : Nat) :
    ((s1.lineGone pa).cache (s.agentOf s.iss.core)).relcnt = (s1.cache (s.agentOf s.iss.core)).relcnt := by
  rw [show s.agentOf s.iss.core = s1.curAgent from h.curAgent.symm, State.lineGone, State.cache_flushLine]; rfl

theorem State.Translated.goneFor_beginRelease {s1 : State} (h : s.Translated s1) (pa : Nat) (eager : Bool) :
    GoneFor s s1 pa ((s1.lineGone pa).beginRelease eager).1 ∧
    (((s1.lineGone pa).beginRelease eager).1.cache (s.agentOf s.iss.core)).relcnt = (s1.cache (s.agentOf s.iss.core)).relcnt + 1#64 := by
  have hstep := State.CacheStep.beginRelease (s1.lineGone pa) eager
  have hagent : (s1.lineGone pa).curAgent = s.agentOf s.iss.core :=
    (State.CacheStep.flushLine s1 s1.curAgent s1.cur.dom pa).curAgent.trans h.curAgent
  obtain ⟨hcur, hdom, hfind⟩ := h.goneFor pa
  obtain ⟨hrel, hkeep⟩ := (s1.lineGone pa).cache_beginRelease eager
  rw [hagent] at hrel hkeep
  exact ⟨⟨hstep.cur.trans hcur, fun d => (hstep.dom d).trans (hdom d), hkeep _ _ hfind⟩,
    hrel.trans (congrArg (· + 1#64) (h.relcnt_lineGone pa))⟩

theorem exec_waitv_global {sub : BitVec 4} {d base idx : BitVec 6} {size ord scope : BitVec 3} {off : BitVec 48} {s1 : State} {pa : Nat}
    {e : TlbEnt} (hglobal : Global (s.rx base + off.signExtend 64) (2 ^ size.toNat))
    (htr : s.translateCur (s.rx base + off.signExtend 64) .read = (s1, .ok pa e)) :
    exec (.waitv sub d base idx size ord scope off) s = .next ((s1.lineGone pa).postWait
      (s1.askHome (s1.lineGone pa) (.waitv sub (s.rx idx)) pa (2 ^ size.toNat) (s.rx base + off.signExtend 64) ord.toNat scope.toNat
        (.x d false))) := by
  rw [exec_waitv, execWaitv, show eaAtomic s.cur base off = s.rx base + off.signExtend 64 from rfl, sizeBytes]
  dsimp only
  rw [State.place_global hglobal htr]
  rfl

theorem exec_join_global {base : BitVec 6} {s1 : State} {pa : Nat} {e : TlbEnt} (hbase : base ≠ 0#6) (hglobal : Global (s.rx base) 8)
    (htr : s.translateCur (s.rx base) .read = (s1, .ok pa e)) : exec (.join base) s = .next ((s1.lineGone pa).postWait
      (s1.askHome (s1.lineGone pa) .join pa 8 (s.rx base) 2 2 .none)) := by
  rw [exec_join, execJoin]
  dsimp only
  rw [if_neg hbase, State.place_global hglobal htr]
  rfl

theorem exec_lwait_global {d base : BitVec 6} {s1 : State} {pa : Nat} {e : TlbEnt} (hal : (s.rx base).toNat % 32 = 0)
    (hglobal : Global (s.rx base) 8) (htr : s.translateCur (s.rx base) .read = (s1, .ok pa e)) :
    exec (.lwait d base) s = .next ((s1.lineGone pa).postWait
      (s1.askHome (s1.lineGone pa) .lwait pa 8 (s.rx base) 2 2 (.x d false))) := by
  rw [exec_lwait, execLwait]
  dsimp only
  rw [if_neg (not_not_intro hal), State.place_global hglobal htr]
  rfl

/-- BARW on a word of a domain: at core scope it counts no release, at any other it waits for the epoch fold (R268, R279). -/
theorem exec_barw_global {d base idx : BitVec 6} {scl : BitVec 2} {size ord scope : BitVec 3} {off : BitVec 48} {ea : Word} {s1 : State}
    {pa : Nat} {e : TlbEnt} (hea : eaOf s.cur base idx scl off = ea) (hsl : s.iss.slot ≠ 14) (hglobal : Global ea 8)
    (htr : s.translateCur ea .both = (s1, .ok pa e)) :
    (scope ≠ 0#3 → s1.foldBlocks s1.curAgent = true → exec (.barw d base idx scl size ord scope off) s = .next s1.loseTurn) ∧
    (scope ≠ 0#3 → s1.foldBlocks s1.curAgent = false → exec (.barw d base idx scl size ord scope off) s =
      .next (((s1.lineGone pa).beginRelease (scope == 6#3)).1.postWait (s1.arriveHome ((s1.lineGone pa).beginRelease (scope == 6#3)).1
        pa ea ord.toNat scope.toNat d ((s1.lineGone pa).beginRelease (scope == 6#3)).2))) ∧
    (scope = 0#3 → exec (.barw d base idx scl size ord scope off) s =
      .next ((s1.lineGone pa).postWait (s1.arriveHome (s1.lineGone pa) pa ea ord.toNat scope.toNat d []))) := by
  rw [exec_barw, execBarw, hea]
  dsimp only
  rw [if_neg hsl, State.place_global hglobal htr]
  dsimp only
  refine ⟨fun hsc hfold => ?_, fun hsc hfold => ?_, fun hsc => ?_⟩
  · rw [if_pos ⟨hsc, hfold⟩]
  · rw [if_neg (fun h => by rw [hfold] at h; exact absurd h.2 Bool.false_ne_true), if_pos hsc]
    rfl
  · rw [if_neg (fun h => h.1 hsc), if_neg (not_not_intro hsc)]
    rfl

theorem globalWaits : Says.GlobalWaits := by
  intro s sub d base idx scl size ord scope off s1 pa e hsub hsize hbase ea va n ag gone
  refine ⟨fun hglobal htr => ?_, fun hglobal htr => ⟨?_, fun hal => ?_⟩, fun hsl hglobal htr => ?_⟩
  · have htrans := State.translated_of_translateCur htr
    refine ⟨_, _, _, exec_waitv_global hglobal htr, htrans.goneFor pa, State.sendsAndWaits_postWait _ (State.mine_askHome ..), rfl, rfl,
      rfl, rfl, rfl, rfl, fun id hid => List.mem_append_left _ hid⟩
  · have htrans := State.translated_of_translateCur htr
    exact ⟨_, _, _, exec_join_global hbase hglobal htr, htrans.goneFor pa, State.sendsAndWaits_postWait _ (State.mine_askHome ..), rfl,
      rfl, rfl, rfl, rfl, rfl⟩
  · have htrans := State.translated_of_translateCur htr
    exact ⟨_, _, _, exec_lwait_global hal hglobal htr, htrans.goneFor pa, State.sendsAndWaits_postWait _ (State.mine_askHome ..), rfl,
      rfl, rfl, rfl, rfl, rfl⟩
  · have htrans := State.translated_of_translateCur htr
    obtain ⟨hblocked, hrelease, hplain⟩ := exec_barw_global (d := d) (size := size) (ord := ord) (scope := scope)
      (eaOf_cur base idx scl off) hsl hglobal htr
    rw [htrans.curAgent] at hblocked hrelease
    refine ⟨hblocked, fun hgo => ?_⟩
    by_cases hsc : scope = 0#3
    · refine ⟨_, _, _, hplain hsc, htrans.goneFor pa, State.sendsAndWaits_postWait _ (State.mine_arriveHome ..), rfl, rfl, rfl, rfl, rfl,
        rfl, rfl, ?_, fun id hid => List.mem_append_left _ (List.mem_append_left _ hid)⟩
      rw [if_pos hsc, BitVec.add_zero]
      exact htrans.relcnt_lineGone pa
    · obtain ⟨hgone, hcount⟩ := htrans.goneFor_beginRelease pa (scope == 6#3)
      refine ⟨_, _, _, hrelease hsc (hgo.resolve_left hsc), hgone, State.sendsAndWaits_postWait _ (State.mine_arriveHome ..), rfl, rfl,
        rfl, rfl, rfl, rfl, rfl, ?_, fun id hid => List.mem_append_left _ (List.mem_append_left _ hid)⟩
      rw [if_neg hsc]; exact hcount

/-! ### Waiters look again (R110, R118, R265, R280) -/

theorem State.localPoison_eq_false_of_clean (s : State) {c a n : Nat} (hn : 0 < n) (h : ∀ i < n, (a + i) / 8 ∉ (s.core c).lpoison) :
    s.localPoison c a n = false := by
  refine List.any_eq_false.2 fun w hw => ?_
  simp only [decide_eq_true_eq, not_and, not_lt]
  intro hlo
  by_contra hhi
  by_cases ha : a ≤ 8 * w
  · exact h (8 * w - a) (by omega) (by rwa [show (a + (8 * w - a)) / 8 = w by omega])
  · exact h 0 hn (by rwa [show (a + 0) / 8 = w by omega])

variable {m : Msg} {id : Nat} {x : Thread}

/-- A WAITV that looks again at its bank (R280). -/
theorem exec_waitvReread_bank {cc : BitVec 4} {v : Word} (hm : s.findMsg id = some m) (hkind : m.kind = .waitv cc v)
    (hst : m.st = .poked) (hdom : m.dom = bankDom m.core) (hclean : s.localPoison m.core m.pa m.n = false) :
    exec (.waitvReread id) s = .next (if condHolds cc (8 * m.n) (BitVec.ofNat 64 (s.localRead m.core m.pa m.n)) v
      then s.reply { m with data := BitVec.ofNat 1024 (s.localRead m.core m.pa m.n) } else s.setMsg { m with st := .waiting }) := by
  have hbank : bankDom 0 ≤ m.dom := by rw [hdom]; exact Nat.add_le_add_left (Nat.zero_le _) 32
  rw [exec_waitvReread, execWaitvReread, hm]
  dsimp only
  rw [hkind]
  dsimp only
  rw [decide_eq_true (Or.inl hst), if_neg (by decide), if_pos hbank, State.bankAgain, hclean, if_neg Bool.false_ne_true, hkind]

theorem exec_waitvReread_home {cc : BitVec 4} {v : Word} (hm : s.findMsg id = some m) (hkind : m.kind = .waitv cc v)
    (hst : m.st = .poked) (hdom : m.dom < 32) :
    exec (.waitvReread id) s = exec (.orderedReadAtHome id) (s.setMsg { m with st := .sent }) := by
  have hhome : ¬bankDom 0 ≤ m.dom := Nat.not_le.2 hdom
  rw [exec_waitvReread, execWaitvReread, hm]
  dsimp only
  rw [hkind]
  dsimp only
  rw [decide_eq_true (Or.inl hst), if_neg (by decide), if_neg hhome]
  rfl

/-- The word of a JOIN or LWAIT at its home meets its condition. -/
def WordMet (s : State) (m : Msg) : Prop :=
  (m.kind = .join → Memory.read (s.dom m.dom).mem m.pa m.n = 0) ∧
  (m.kind = .lwait → Memory.read (s.dom m.dom).mem m.pa m.n % 256 ≠ 0)

theorem State.waitHolds_iff (hkind : m.kind = .join ∨ m.kind = .lwait) (hdom : m.dom < 32) : s.waitHolds m = true ↔ WordMet s m := by
  have hhome : ¬bankDom 0 ≤ m.dom := Nat.not_le.2 hdom
  rw [State.waitHolds, if_neg hhome]
  rcases hkind with h | h
  · rw [WordMet, h]; simp [State.homeRead]
  · rw [WordMet, h]; simp [State.homeRead]

theorem exec_wakeNotice_again (hm : s.findMsg id = some m) (hkind : m.kind = .join ∨ m.kind = .lwait) :
    exec (.wakeNotice id) s = .next (s.wakeAgain m) := by
  rw [exec_wakeNotice, execWakeNotice, hm]
  dsimp only
  rcases hkind with h | h <;> rw [h]

theorem exec_wakeNotice_delivers {cc : BitVec 4} {v : Word} (hm : s.findMsg id = some m) (hkind : m.kind = .barw ∨ m.kind = .waitv cc v)
    (hst : m.st = .replied) (hblocked : m.mask.getLsbD 1 = false) : exec (.wakeNotice id) s = .next (s.orderedArrives m) := by
  rw [exec_wakeNotice, execWakeNotice, hm]
  dsimp only
  rcases hkind with h | h
  · rw [h]; exact congrArg Host.Outcome.next (if_pos hst)
  · rw [h]; exact congrArg Host.Outcome.next (if_pos ⟨hst, by rw [Msg.blocked, hblocked]; rfl⟩)

/-- A JOIN or LWAIT whose word now meets its condition goes back to its instruction (R118, R331). -/
theorem Waiting.wakeAgain (h : Waiting s m x) (hst : m.st = .poked) (hmet : s.waitHolds m = true) :
    s.wakeAgain m = (s.dropMsg m.id).setThread m.core m.slot
      { x with st := .ready, startAt := max x.startAt ((s.core m.core).cyc + 1), pc := m.pc, pendV := none } := by
  have hx : (s.dropMsg m.id).thread m.core m.slot = x := Waiting.thread_eq h
  rw [State.wakeAgain, if_neg (not_not_intro hst), hmet, if_neg (by decide), Waiting.waiter h]
  dsimp only
  rw [State.wakeThread, State.modThread, State.modThread, hx, State.thread_setThread_self, State.setThread_setThread]
  rfl

theorem waitersLookAgain : Says.WaitersLookAgain := by
  intro s id m cc v x hm hcc w l
  have hid : m.id = id := by simpa using List.find?_some hm
  refine ⟨fun hkind hst hdom => exec_waitvReread_home hm hkind hst hdom, fun hkind hst hdom hn hclean => ?_,
    fun hkind hst hdom hwait hawaits => ?_, fun hkind hst hblocked hn hpoison hdst hinval hwait => ?_⟩
  · have hexec := exec_waitvReread_bank hm hkind hst hdom (s.localPoison_eq_false_of_clean (by omega) hclean)
    have hcond := condHolds_iff (8 * m.n) cc (BitVec.ofNat 64 l) v
    refine ⟨fun h => ?_, fun h => ?_⟩
    · exact hexec.trans (congrArg Host.Outcome.next (if_pos (hcond.2 h)))
    · exact hexec.trans (congrArg Host.Outcome.next (if_neg (hcond.not.2 h)))
  · have hholds := s.waitHolds_iff hkind hdom
    have hexec := exec_wakeNotice_again hm hkind
    refine ⟨fun h => ?_, fun h => ?_⟩
    · rw [hexec, Waiting.wakeAgain hwait hst (hholds.2 h), hid]
    · rw [hexec, State.wakeAgain, if_neg (not_not_intro hst), Bool.eq_false_iff.2 (hholds.not.2 h)]; rfl
  · obtain ⟨d, hd⟩ := hdst
    have hexec := exec_wakeNotice_delivers hm hkind hst hblocked
    have hdst : m.dst = .none ∨ ∃ d sx, m.dst = .x d sx := .inr ⟨d, false, hd⟩
    have harrives := Waiting.orderedArrives hwait hdst hpoison
    rw [State.taken, if_neg (by rw [hinval]; exact Bool.false_ne_true), hid] at harrives
    refine ⟨_, hexec, ?_, ?_⟩
    · rw [harrives, State.thread_setThread_self]
      exact delivered_deliver hdst hn (Nat.mod_lt _ (Nat.two_pow_pos _))
    · rw [harrives, State.thread_setThread_self]

/-- Settles O29: waits on local words by the outcome of their condition, on words of domains by the request that leaves, and the
notices by what the waiting thread makes of its word. -/
theorem waits : Obligations.Waits := ⟨localWaits, globalWaits, waitersLookAgain⟩

end Sys2Proof.Machine
end

section
/-! PROOFS. Loads and ordered reads at their homes (R118, R126, R246, R248, R249, R265, R280, R331). -/
namespace Sys2Proof.Machine

variable {s : State}

/-! ### A line and its poison -/

/-- A mask built bit by bit. -/
theorem getLsbD_foldl_or (p : Nat → Bool) (l : List Nat) : ∀ {m : BitVec 16} {i : Nat}, i < 16 →
    (l.foldl (fun m i => if p i then m ||| (1#16 <<< i) else m) m).getLsbD i = (m.getLsbD i || (l.contains i && p i)) := by
  induction l with
  | nil => intro m i _; simp
  | cons k l ih =>
    intro m i hi
    rw [List.foldl_cons, ih hi]
    by_cases hk : i = k
    · subst hk
      cases hp : p i <;> simp [hi]
    · have hbit : ((1#16 <<< k).getLsbD i) = false := by
        simp only [BitVec.getLsbD_shiftLeft, BitVec.getLsbD_one]
        by_cases hlt : i < k
        · simp [hlt]
        · simp [show i - k ≠ 0 by omega]
      have hmask : (if p k then m ||| (1#16 <<< k) else m).getLsbD i = m.getLsbD i := by
        split
        · rw [BitVec.getLsbD_or, hbit, Bool.or_false]
        · rfl
      rw [hmask]
      simp [hk]

theorem Dom.getLsbD_linePoison (v : Dom) (line : Nat) {i : Nat} (hi : i < 16) :
    (v.linePoison line).getLsbD i = true ↔ 16 * line + i ∈ v.poison := by
  rw [Dom.linePoison, getLsbD_foldl_or (fun i => v.poison.contains (line * 16 + i)) _ hi]
  simp [hi, Nat.mul_comm line 16]

theorem getLsbD_ofNat_read (m : List Host.Cell) (a : Nat) {n w j : Nat} (hj : j < 8 * n) (hw : j < w) :
    (BitVec.ofNat w (Memory.read m a n)).getLsbD j = (Memory.get m (a + j / 8)).getLsbD (j % 8) := by
  rw [BitVec.getLsbD_ofNat, decide_eq_true hw, Bool.true_and, Memory.testBit_read _ _ _ hj]

/-! ### A request that is answered at its home -/

variable {id : Nat} {m : Msg}

/-- A request whose line its home uses and which it answers, or lets wait: it alone changes on the network, and no byte of memory. -/
theorem State.AtHome.usesLine {write : Bool} (hat : s.AtHome id write m) {m' : Msg} (hid : m'.id = id) :
    let t := ((s.markServed m).useLine m).setMsg m'
    s.NowIs t id m' ∧ s.UsesHome t m ∧ s.SameMemory t ∧ t = { s with doms := t.doms, net := t.net } := by
  have hmark := s.markServed_eq m
  have hfound : s.findMsg id ≠ none := by rw [hat.found]; exact Option.some_ne_none m
  refine ⟨State.nowIs_setMsg ?_ hid hfound, State.usesHome_of_dom fun _ => rfl, ?_, ?_⟩
  · show (s.markServed m).net = s.net
    rw [hmark]
  · exact ((State.SameMemory.markServed s m).trans (State.SameMemory.useLine _ m)).trans (State.SameMemory.setMsg _ _)
  · rw [hmark]; rfl

/-- A request that leaves once its home has used the line. -/
theorem State.left_usesLine (s : State) (m : Msg) (id : Nat) :
    s.Left (((s.markServed m).useLine m).dropMsg id) id ∧ s.SameMemory (((s.markServed m).useLine m).dropMsg id) := by
  have hmark := s.markServed_eq m
  refine ⟨State.left_dropMsg ?_ id, ?_⟩
  · show (s.markServed m).net = s.net
    rw [hmark]
  · exact ((State.SameMemory.markServed s m).trans (State.SameMemory.useLine _ m)).trans (State.SameMemory.dropMsg _ _)

theorem toNat_ofNat_read (l : List Host.Cell) (a : Nat) {n : Nat} (hn : n ≤ 16) :
    (BitVec.ofNat 1024 (Memory.read l a n)).toNat = Memory.read l a n := by
  have hle : 8 * n ≤ 1024 := by omega
  rw [BitVec.toNat_ofNat]
  refine Nat.mod_eq_of_lt ((Memory.read_lt_two_pow l a n).trans_le (Nat.pow_le_pow_right Nat.two_pos hle))

/-! ### Ordered reads (R118, R265) -/

/-- An acquire of scope 1 or wider makes its core self-invalidate, unless the record names the core itself (R265). -/
theorem State.acqInval_iff : s.acqInval m = true ↔ (m.ord = 2 ∨ m.ord = 4 ∨ m.ord = 6) ∧ m.scope ≠ 0 ∧
    ∀ r, lookup (s.dom m.dom).recs (m.pa / 128) = some r → r.agent ≠ m.agent := by
  have hrec : (s.dom m.dom).recAt m.pa = lookup (s.dom m.dom).recs (m.pa / 128) := rfl
  unfold State.acqInval State.recOther
  rw [hrec]
  cases lookup (s.dom m.dom).recs (m.pa / 128) with
  | none => simp [acqPart, or_assoc]
  | some r => simp [acqPart, or_assoc, and_assoc]

/-- The answer of a read that brings its word, with the self-invalidation that it asks for (R118, R265). -/
def Msg.wordReply (m : Msg) (w : Nat) (inval : Bool) : Msg := { m with data := BitVec.ofNat 1024 w, inval := inval, st := .replied }

theorem Msg.wordReply_facts (m : Msg) (w : Nat) (inval : Bool) : (m.wordReply w inval).id = m.id ∧ (m.wordReply w inval).st = .replied ∧
    (m.wordReply w inval).data = BitVec.ofNat 1024 w ∧ (m.wordReply w inval).inval = inval ∧ (m.wordReply w inval).mask = m.mask ∧
    m.wordReply w inval = { m with st := .replied, data := (m.wordReply w inval).data, inval := (m.wordReply w inval).inval } := by
  simp only [Msg.wordReply, and_self]

/-- An ordered read once its home has used the line, as what it finds makes it (R118, R126). -/
def State.readFound (u : State) (m : Msg) (w : Nat) : State :=
  let done := u.setMsg (m.wordReply w (u.acqInval m))
  match m.kind with
  | .join => if w = 0 then done else u.failRead m
  | .lwait => if w % 256 ≠ 0 then done else u.failRead m
  | .waitv cc v => if condHolds cc (8 * m.n) (BitVec.ofNat 64 w) v then done else u.failRead m
  | _ => done

theorem State.readStep_eq (hclean : (s.dom m.dom).poisoned m.pa m.n = false) :
    s.readStep m = (s.useLine m).readFound m (s.homeRead m.dom m.pa m.n) := by
  have hmem : (s.useLine m).homeRead m.dom m.pa m.n = s.homeRead m.dom m.pa m.n := by
    rw [State.homeRead, State.dom_useLine]; rfl
  have hpoison : ((s.useLine m).dom m.dom).poisoned m.pa m.n = false := by rw [State.dom_useLine]; exact hclean
  rw [State.readStep, hpoison, if_neg Bool.false_ne_true, hmem]
  rfl

theorem State.dom_failRead (u : State) (m : Msg) (d : Nat) : (u.failRead m).dom d = u.dom d := by
  unfold State.failRead
  split
  · rfl
  · unfold State.standOnList
    dsimp only
    split
    · rfl
    · split <;> rfl

theorem State.dom_readFound (u : State) (m : Msg) (w d : Nat) : (u.readFound m w).dom d = u.dom d := by
  unfold State.readFound
  dsimp only
  split
  · split
    · rfl
    · exact u.dom_failRead m d
  · split
    · rfl
    · exact u.dom_failRead m d
  · split
    · rfl
    · exact u.dom_failRead m d
  · rfl

/-- ORDERED_READ_AT_HOME on a read that a drain must come before (R265). -/
theorem exec_orderedReadAtHome_drains {r : RelRec} (hat : s.AtHome id false m) (hread : m.kind.isRead = true)
    (hdrain : mustDrainFirst s m r) : exec (.orderedReadAtHome id) s = .next ((s.markServed m).holdForDrain m r) := by
  have hwait : (s.markServed m).readMustWait m = some r :=
    State.readMustWait_eq_some_iff.2 ((mustDrainFirst_markServed m m r).2 hdrain)
  have hdo : (match (s.markServed m).readMustWait m with
      | some r => (s.markServed m).holdForDrain m r
      | none => (s.markServed m).readStep m) = (s.markServed m).holdForDrain m r := by rw [hwait]
  rw [exec_orderedReadAtHome, execOrderedReadAtHome, State.orderedRead]
  exact congrArg Host.Outcome.next ((hat.perform hread
    ((congrArg (fun t => (t.dom m.dom).reqs) hdo).trans (State.reqs_holdForDrain _ m r))).trans hdo)

/-- ORDERED_READ_AT_HOME on a read that need not wait and whose word no poison touches (R265). -/
theorem exec_orderedReadAtHome_reads (hat : s.AtHome id false m) (hread : m.kind.isRead = true) (hdrain : ∀ r, ¬mustDrainFirst s m r)
    (hclean : ∀ w, m.pa / 8 ≤ w → 8 * w < m.pa + m.n → w ∉ (s.dom m.dom).poison) : exec (.orderedReadAtHome id) s =
      .next (((s.markServed m).useLine m).readFound m (Memory.read (s.dom m.dom).mem m.pa m.n)) := by
  have hdom := s.dom_markServed m m.dom
  have hpoison : ((s.markServed m).dom m.dom).poisoned m.pa m.n = false := by rw [hdom]; exact Dom.poisoned_eq_false hclean
  have hword : (s.markServed m).homeRead m.dom m.pa m.n = Memory.read (s.dom m.dom).mem m.pa m.n := by rw [State.homeRead, hdom]
  have hstep := State.readStep_eq hpoison
  rw [hword] at hstep
  have hdo : (match (s.markServed m).readMustWait m with
      | some r => (s.markServed m).holdForDrain m r
      | none => (s.markServed m).readStep m) = ((s.markServed m).useLine m).readFound m (Memory.read (s.dom m.dom).mem m.pa m.n) := by
    rw [State.readMustWait_markServed hdrain, hstep]
  rw [exec_orderedReadAtHome, execOrderedReadAtHome, State.orderedRead]
  refine congrArg Host.Outcome.next ((hat.perform hread ((congrArg (fun t => (t.dom m.dom).reqs) hdo).trans ?_)).trans hdo)
  rw [State.dom_readFound]
  exact State.reqs_useLine _ m m.dom

end Sys2Proof.Machine
end

section
/-! PROOFS. O24: loads and ordered reads performed at their homes (R110, R118, R246, R248, R249, R265, R280, R331). -/
namespace Sys2Proof.Machine

variable {s : State} {id : Nat} {m : Msg}

/-! ### Loads (R246, R248) -/

/-- The answer of a load: the bytes of its line and the poison of its words (R248, R249). -/
def Dom.lineReply (v : Dom) (m : Msg) : Msg :=
  { m with data := BitVec.ofNat 1024 (Memory.read v.mem (lineOf m.pa * 128) 128), pmask := v.linePoison (lineOf m.pa), st := .replied }

theorem Dom.lineReply_facts (v : Dom) (m : Msg) : (v.lineReply m).id = m.id ∧
    v.lineReply m = { m with st := .replied, data := (v.lineReply m).data, pmask := (v.lineReply m).pmask } := by
  simp only [Dom.lineReply, and_self]

/-- The state that the home of a load answers it from: one with HINT .REPL leaves a replica (R246). -/
def State.replicated (s : State) (m : Msg) (repl : Bool) : State :=
  if repl then s.modDom m.dom fun v =>
    if v.hasReplica (lineOf m.pa) (clusterOf m.core) then v else { v with replicas := (lineOf m.pa, clusterOf m.core) :: v.replicas }
  else s

theorem State.dom_replicated (s : State) (m : Msg) (repl : Bool) (d : Nat) :
    (s.replicated m repl).dom d = { s.dom d with replicas := ((s.replicated m repl).dom d).replicas } := by
  unfold State.replicated
  split
  · by_cases hd : d = m.dom
    · subst hd
      rw [State.dom_modDom_self]
      split <;> rfl
    · rw [State.dom_modDom_ne s _ hd]
  · rfl

theorem State.replicated_eq (s : State) (m : Msg) (repl : Bool) :
    s.replicated m repl = { s with doms := (s.replicated m repl).doms } := by
  unfold State.replicated; split <;> rfl

theorem State.mem_replicas_replicated (s : State) (m : Msg) :
    (lineOf m.pa, clusterOf m.core) ∈ ((s.replicated m true).dom m.dom).replicas := by
  rw [State.replicated, if_pos rfl, State.dom_modDom_self]
  split
  · next h => exact List.contains_iff_mem.1 h
  · exact List.mem_cons_self

theorem State.serveLoad_eq {alloc keep repl : Bool} (hkind : m.kind = .load alloc keep repl) :
    s.serveLoad m = ((s.replicated m repl).useLine m).setMsg ((s.dom m.dom).lineReply m) := by
  have hdom := s.dom_replicated m repl m.dom
  have hserve : s.serveLoad m = (s.replicated m repl).takeLine m := by
    rw [State.serveLoad, hkind]
    cases repl <;> rfl
  rw [hserve, State.takeLine, hdom]
  rfl

theorem exec_plainLoadAtHome_serves {alloc keep repl : Bool} (hat : s.AtHome id false m) (hkind : m.kind = .load alloc keep repl) :
    exec (.plainLoadAtHome id) s =
      .next ((((s.markServed m).replicated m repl).useLine m).setMsg (((s.markServed m).dom m.dom).lineReply m)) := by
  have hat' := hat
  obtain ⟨-, -, hgroup, -⟩ := hat'
  have hdo : ((s.markServed m).members m).foldl State.serveLoad (s.markServed m) =
      (((s.markServed m).replicated m repl).useLine m).setMsg (((s.markServed m).dom m.dom).lineReply m) := by
    rw [State.members_of_group hgroup]
    exact State.serveLoad_eq hkind
  have hreqs : ((((s.markServed m).members m).foldl State.serveLoad (s.markServed m)).dom m.dom).reqs =
      ((s.markServed m).dom m.dom).reqs := by
    rw [hdo]
    show ((((s.markServed m).replicated m repl).useLine m).dom m.dom).reqs = _
    rw [State.reqs_useLine, State.dom_replicated]
  rw [exec_plainLoadAtHome, execPlainLoadAtHome]
  exact congrArg Host.Outcome.next ((hat.perform (by rw [hkind]) hreqs).trans hdo)

theorem plainLoadAtHome : Says.PlainLoadAtHome := by
  intro s id m alloc keep repl hat hkind line
  have hdom := s.dom_markServed m m.dom
  have hmark := s.markServed_eq m
  have hrepl := (s.markServed m).replicated_eq m repl
  have hfound : s.findMsg id ≠ none := by rw [hat.found]; exact Option.some_ne_none m
  obtain ⟨hrid, hreply⟩ := ((s.markServed m).dom m.dom).lineReply_facts m
  refine ⟨_, _, exec_plainLoadAtHome_serves hat hkind, State.nowIs_setMsg ?_ (hrid.trans hat.id_eq) hfound, hreply, fun j hj => ?_,
    fun i hi => ?_, fun h => ?_, fun h => ?_, ?_, ?_, ?_⟩
  · show ((s.markServed m).replicated m repl).net = s.net
    rw [hrepl, hmark]
  · rw [hdom]
    exact (getLsbD_ofNat_read _ _ (n := 128) (by omega) hj).trans (by rw [Nat.mul_comm]; rfl)
  · rw [hdom]
    exact Dom.getLsbD_linePoison _ _ hi
  · subst h
    show _ ∈ ((((s.markServed m).replicated m true).useLine m).dom m.dom).replicas
    rw [State.dom_useLine]
    exact (s.markServed m).mem_replicas_replicated m
  · subst h
    exact State.usesHome_of_dom fun _ => rfl
  · show line ∈ ((((s.markServed m).replicated m repl).useLine m).dom m.dom).l2
    rw [State.useLine, State.dom_modDom_self]
    obtain ⟨hin, -⟩ := Dom.used_touchL2 (((s.markServed m).replicated m repl).dom m.dom) line ((s.markServed m).replicated m repl).cycle
    exact hin
  · refine (State.SameMemory.markServed s m).trans (State.SameMemory.trans ?_ ((State.SameMemory.useLine _ m).trans
      (State.SameMemory.setMsg _ _)))
    refine ⟨fun d a => by rw [State.dom_replicated], fun c a => ?_, fun a => ?_⟩
    · rw [hrepl]; rfl
    · rw [hrepl]; rfl
  · rw [hrepl, hmark]; rfl

/-! ### Ordered reads (R265) -/

theorem orderedReadAtHome : Says.OrderedReadAtHome := by
  intro s id m hat hid hkind hn rec?
  have hread : m.kind.isRead = true := by rw [hkind]; rfl
  have hfound : s.findMsg m.id ≠ none := by rw [hat.id_eq, hat.found]; exact Option.some_ne_none m
  refine ⟨fun r hr => ?_, fun hdrain hclean => ?_⟩
  · exact ⟨_, exec_orderedReadAtHome_drains hat hread hr, heldForDrain_holdForDrain hfound (hat.id_eq.symm ▸ hid)⟩
  · have hexec := exec_orderedReadAtHome_reads hat hread hdrain hclean
    obtain ⟨w, hw⟩ : ∃ w, w = Memory.read (s.dom m.dom).mem m.pa m.n := ⟨_, rfl⟩
    have hdone : ((s.markServed m).useLine m).readFound m w = ((s.markServed m).useLine m).setMsg
        (m.wordReply w (((s.markServed m).useLine m).acqInval m)) := by rw [State.readFound, hkind]
    obtain ⟨hrid, -, hdata, hinval, -, hall⟩ := m.wordReply_facts w (((s.markServed m).useLine m).acqInval m)
    obtain ⟨hnow, huses, -, hst⟩ := hat.usesLine (hrid.trans hat.id_eq)
    rw [← hw, hdone] at hexec
    refine ⟨_, _, hexec, hnow, huses, hst, hall, ?_, ?_⟩
    · rw [hdata, hw]; exact toNat_ofNat_read _ _ hn
    · rw [hinval, State.acqInval_iff, State.dom_useLine, State.dom_markServed]

/-! ### Reads that wait (R110, R118, R126, R280) -/

/-- The answer of a read of a handler that found its condition false (R126). -/
def Msg.blockedReply (m : Msg) (inval : Bool) : Msg := { m with mask := m.mask ||| 2, inval := inval, st := .replied }

theorem Msg.blockedReply_facts (m : Msg) (inval : Bool) : (m.blockedReply inval).id = m.id ∧ (m.blockedReply inval).st = .replied ∧
    (m.blockedReply inval).mask = m.mask ||| 2 := by
  simp only [Msg.blockedReply, and_self]

/-- A thread that is no longer parked for a read stands on no list, and its read leaves (R337). -/
theorem State.standOnList_gone {u : State} (h : ¬ParkedFor u m) : ∃ t, u.standOnList m = t ∧ t.net = (u.dropMsg m.id).net ∧
    (u.dropMsg m.id).SameMemory t := by
  rw [ParkedFor] at h
  refine ⟨_, rfl, ?_, ?_⟩
  · rw [State.standOnList, if_neg h]
    split <;> rfl
  · rw [State.standOnList, if_neg h]
    split
    · exact State.SameMemory.setThread _ _ _ _
    · exact State.SameMemory.refl _

/-- What a read that waits finds: its condition holds, or the read fails (R118, R280). -/
theorem State.readFound_waits {u : State} {cc : BitVec 4} {v : Word} (w : Nat) (hkind : m.kind = .join ∨ m.kind = .lwait ∨ m.kind = .waitv cc v) :
    let met := (m.kind = .join → w = 0) ∧ (m.kind = .lwait → w % 256 ≠ 0) ∧
      (m.kind = .waitv cc v → conditionOf cc.toNat (8 * m.n) (BitVec.ofNat 64 w) v)
    (met → u.readFound m w = u.setMsg (m.wordReply w (u.acqInval m))) ∧ (¬met → u.readFound m w = u.failRead m) := by
  have hcond := condHolds_iff (8 * m.n) cc (BitVec.ofNat 64 w) v
  rw [State.readFound]
  rcases hkind with h | h | h
  · rw [h]
    refine ⟨fun hmet => if_pos (hmet.1 rfl), fun hmet => if_neg fun hw => hmet ⟨fun _ => hw, nofun, nofun⟩⟩
  · rw [h]
    refine ⟨fun hmet => if_pos (hmet.2.1 rfl), fun hmet => if_neg fun hw => hmet ⟨nofun, fun _ => hw, nofun⟩⟩
  · rw [h]
    refine ⟨fun hmet => if_pos (hcond.2 (hmet.2.2 rfl)), fun hmet => if_neg fun hw => hmet ⟨nofun, nofun, fun _ => hcond.1 hw⟩⟩

theorem waitingReadsAtHome : Says.WaitingReadsAtHome := by
  intro s id m cc v hat hid hdrain hclean hcc hkind hn w met becomes
  have hread : m.kind.isRead = true := by rcases hkind with h | h | h <;> rw [h] <;> rfl
  have hexec := exec_orderedReadAtHome_reads hat hread hdrain hclean
  obtain ⟨u, hu⟩ : ∃ u, u = (s.markServed m).useLine m := ⟨_, rfl⟩
  have hcore (c : Nat) : u.core c = s.core c := by rw [hu, s.markServed_eq m]; rfl
  have hparked : ParkedFor u m ↔ ParkedFor s m := by
    rw [ParkedFor, ParkedFor, State.thread, State.thread?, hcore]; rfl
  obtain ⟨hyes, hno⟩ := State.readFound_waits (u := u) w hkind
  rw [← hu] at hexec
  refine ⟨fun hmet => ?_, fun hmet hsl hpark => ?_, fun hmet hsl hpark => ?_, fun hmet hsl => ?_⟩
  · obtain ⟨hrid, hst, hdata, -, hmask, -⟩ := m.wordReply_facts w (u.acqInval m)
    obtain ⟨hnow, huses, hmem, hstate⟩ := hat.usesLine (hrid.trans hat.id_eq)
    rw [← hu] at hnow huses hmem hstate
    refine ⟨_, _, hexec.trans (congrArg Host.Outcome.next (hyes hmet)), hnow, huses, hmem, hstate, hst, ?_, hmask⟩
    rw [hdata]
    exact toNat_ofNat_read _ _ (by omega)
  · have hwait : u.failRead m = u.setMsg { m with st := .waiting } := by
      rw [State.failRead, if_neg hsl]
      exact ParkedFor.standOnList (hparked.2 hpark) rfl rfl rfl rfl
    obtain ⟨hnow, huses, hmem, hstate⟩ := hat.usesLine (m' := { m with st := .waiting }) hat.id_eq
    rw [← hu] at hnow huses hmem hstate
    exact ⟨_, _, hexec.trans (congrArg Host.Outcome.next ((hno hmet).trans hwait)), hnow, huses, hmem, hstate, rfl⟩
  · obtain ⟨t, ht, hnet, hmem⟩ := State.standOnList_gone (mt hparked.1 hpark)
    have hfail : u.failRead m = t := by rw [State.failRead, if_neg hsl, ht]
    obtain ⟨hleft, hsame⟩ := s.left_usesLine m id
    rw [← hu] at hleft hsame
    rw [hat.id_eq] at hnet hmem
    refine ⟨t, hexec.trans (congrArg Host.Outcome.next ((hno hmet).trans hfail)), ?_, hsame.trans hmem⟩
    unfold State.Left State.findMsg at *
    rw [hnet]; exact hleft
  · have hfail : u.failRead m = u.setMsg (m.blockedReply (u.acqInval m)) := by rw [State.failRead, if_pos hsl]; rfl
    obtain ⟨hrid, hst, hmask⟩ := m.blockedReply_facts (u.acqInval m)
    obtain ⟨hnow, huses, hmem, hstate⟩ := hat.usesLine (hrid.trans hat.id_eq)
    rw [← hu] at hnow huses hmem hstate
    refine ⟨_, _, hexec.trans (congrArg Host.Outcome.next ((hno hmet).trans hfail)), hnow, huses, hmem, hstate, hst, ?_⟩
    rw [hmask, BitVec.getLsbD_or]; simp

/-- Settles O24: a load by its line, an ordered read by the drain that it needs or its word, a wait by its condition. -/
theorem homeReads : Obligations.HomeReads := ⟨plainLoadAtHome, orderedReadAtHome, waitingReadsAtHome⟩

end Sys2Proof.Machine
end

section
/-! PROOFS. Registers of a thread, targets of forks and the first word of a work item (R79, R98, R117, R129, R157). -/
namespace Sys2Proof.Machine

/-! ### Registers (R79) -/

theorem Thread.setP_eq (t : Thread) (pd : BitVec 3) (v : Bool) : t.setP pd v = { t with p := (t.setP pd v).p } := by
  unfold Thread.setP; split <;> rfl

theorem Thread.setX_eq (t : Thread) (d : BitVec 6) (v : Word) : t.setX d v = { t with x := (t.setX d v).x } := Thread.setXs_eq [v] t d

theorem Thread.getP_setP_self (t : Thread) (d : BitVec 3) (v : Bool) : (t.setP d v).getP d = (d == 0#3 || v) := by
  rw [Thread.getP_setP, if_pos rfl]
  by_cases h : d = 0#3 <;> simp [h]

theorem Thread.getP_setP_ne (t : Thread) {d r : BitVec 3} (v : Bool) (h : r ≠ d) : (t.setP d v).getP r = t.getP r := by
  rw [Thread.getP_setP, if_neg h]
  split
  · next h0 => rw [h0]; rfl
  · rfl

theorem Thread.getX_setX_self (t : Thread) (d : BitVec 6) (v : Word) : (t.setX d v).getX d = if d = 0#6 then 0#64 else v := by
  rw [Thread.getX_setX, if_pos rfl]

/-! ### Targets and items (R98, R129) -/

/-- A target in units of four bytes. -/
def targetQuarter (line slot : Word) : Word := (line <<< 4) + 3#64 * slot

theorem target_eq_shift (line slot : Word) : (line <<< 6) + 12#64 * slot = targetQuarter line slot <<< 2 := by
  apply BitVec.eq_of_toNat_eq
  simp only [targetQuarter, BitVec.toNat_add, BitVec.toNat_shiftLeft, BitVec.toNat_mul, BitVec.toNat_ofNat, Nat.shiftLeft_eq]
  omega

/-- The two low bits of an item's first word are its kind, the others its target (R129). -/
theorem shiftLeft_two_kind (v : Word) {k : Nat} (hk : k < 4) : let w := ((v <<< 2) &&& ~~~3#64) ||| BitVec.ofNat 64 k
    w = (v <<< 2) + BitVec.ofNat 64 k ∧ w &&& ~~~3#64 = v <<< 2 ∧ w &&& 3#64 = BitVec.ofNat 64 k := by
  intro w
  have hk' : ∀ j, 2 ≤ j → k.testBit j = false := fun j hj =>
    Nat.testBit_lt_two_pow (lt_of_lt_of_le hk (Nat.pow_le_pow_right (n := 2) (by decide) hj))
  have hthree (j : Nat) : (3#64).getLsbD j = decide (j < 2) := by
    rw [show (3#64) = BitVec.ofNat 64 (2 ^ 2 - 1) from rfl, BitVec.getLsbD_ofNat, Nat.testBit_two_pow_sub_one]
    by_cases h : j < 2 <;> simp [h]
    omega
  have hclear : (v <<< 2) &&& ~~~3#64 = v <<< 2 := by
    apply BitVec.eq_of_getLsbD_eq
    intro j hj
    rw [BitVec.getLsbD_and, BitVec.getLsbD_not, hthree, BitVec.getLsbD_shiftLeft]
    by_cases h : j < 2 <;> simp [h, hj]
  have hdisjoint : (v <<< 2) &&& BitVec.ofNat 64 k = 0#64 := by
    apply BitVec.eq_of_getLsbD_eq
    intro j hj
    rw [BitVec.getLsbD_and, BitVec.getLsbD_shiftLeft, BitVec.getLsbD_ofNat]
    by_cases h : j < 2
    · simp [h]
    · simp [hk' j (by omega)]
  refine ⟨?_, ?_, ?_⟩
  · rw [BitVec.add_eq_or_of_and_eq_zero _ _ hdisjoint, ← hclear]
  · apply BitVec.eq_of_getLsbD_eq
    intro j hj
    simp only [w, hclear, BitVec.getLsbD_and, BitVec.getLsbD_or, BitVec.getLsbD_not, hthree, BitVec.getLsbD_shiftLeft, BitVec.getLsbD_ofNat]
    by_cases h : j < 2
    · simp [h]
    · simp [h, hj, hk' j (by omega)]
  · apply BitVec.eq_of_getLsbD_eq
    intro j hj
    simp only [w, hclear, BitVec.getLsbD_and, BitVec.getLsbD_or, hthree, BitVec.getLsbD_shiftLeft, BitVec.getLsbD_ofNat]
    by_cases h : j < 2
    · simp [h, hj]
    · simp [h, hk' j (by omega)]

theorem lineStart_eq (pc d : Word) : ((pc >>> 6) + d) <<< 6 = (pc / 64#64 + d) * 64#64 := by
  apply BitVec.eq_of_toNat_eq
  simp only [BitVec.toNat_shiftLeft, BitVec.toNat_add, BitVec.toNat_ushiftRight, BitVec.toNat_mul, BitVec.toNat_udiv, BitVec.toNat_ofNat,
    Nat.shiftLeft_eq, Nat.shiftRight_eq_div_pow]

theorem branchTarget_eq (pc : Word) (disp : BitVec 37) (slot : BitVec 3) :
    branchTarget pc disp slot = (pc / 64#64 + disp.signExtend 64) * 64#64 + 12#64 * slot.setWidth 64 := by
  rw [branchTarget, lineStart_eq]

theorem qforkTarget_eq (pc : Word) (imm : BitVec 32) : qforkTarget pc imm =
    (pc / 64#64 + (BitVec.ofNat 29 (imm.toNat / 8)).signExtend 64) * 64#64 + 12#64 * BitVec.ofNat 64 (imm.toNat % 8) := by
  have hslot : (imm.extractLsb' 0 3).setWidth 64 = BitVec.ofNat 64 (imm.toNat % 8) := by
    apply BitVec.eq_of_toNat_eq
    simp [BitVec.extractLsb'_toNat]
  have hdisp : imm.extractLsb' 3 29 = BitVec.ofNat 29 (imm.toNat / 8) := by
    apply BitVec.eq_of_toNat_eq
    simp [BitVec.extractLsb'_toNat, Nat.shiftRight_eq_div_pow]
  rw [qforkTarget, lineStart_eq, hslot, hdisp]

/-- Targets of branches and forks are multiples of four (R98, R157). -/
theorem branchTarget_shift (pc : Word) (disp : BitVec 37) (slot : BitVec 3) : ∃ v : Word, branchTarget pc disp slot = v <<< 2 :=
  ⟨_, target_eq_shift _ _⟩

theorem qforkTarget_shift (pc : Word) (imm : BitVec 32) : ∃ v : Word, qforkTarget pc imm = v <<< 2 := ⟨_, target_eq_shift _ _⟩

/-- The item of a FORK starts at its target (R117, R129). -/
theorem closureItem_eq (pc : Word) (disp : BitVec 37) (slot : BitVec 3) (args : List Word) (ctr : Word) :
    let w := closureItem (branchTarget pc disp slot) args ctr
    w = (branchTarget pc disp slot + 2#64) :: args ++ [ctr, 0#64] ∧ w.getD 0 0 &&& ~~~3#64 = branchTarget pc disp slot ∧
      itemKind (w.getD 0 0) = 2 := by
  obtain ⟨v, hv⟩ := branchTarget_shift pc disp slot
  obtain ⟨hsum, hstart, hkind⟩ := shiftLeft_two_kind v (k := 2) (by decide)
  rw [hv]
  refine ⟨?_, hstart, ?_⟩
  · rw [closureItem, ← hsum]
  · show (_ &&& 3#64).toNat = 2
    exact congrArg BitVec.toNat hkind

end Sys2Proof.Machine
end

section
/-! PROOFS. O39: ARRIVE and DEPART at issue, at the home of their node and at their thread, and the entries of the Confluence
table (R126, R143 to R145, R154, R155, R158). -/
namespace Sys2Proof.Machine

variable {s : State} {m : Msg} {id : Nat}

/-! ### At issue (R126, R154, R155) -/

/-- An instruction that names q registers traps unless all of them are allotted (R149). -/
theorem NeedsQ.of_needQ {i : Instr} {qs : List (BitVec 3)} {k : State → State} {effect : Prop}
    (hexec : exec i s = .next (s.needQ qs k)) (h : exec i s = .next (k s) → effect) : NeedsQ i s qs effect := by
  refine ⟨fun ⟨r, hr, hle⟩ => .of_takeTrap ?_, fun hall => h ?_⟩
  · rw [hexec, State.needQ, if_neg (fun hall => by
      have hlt := of_decide_eq_true (List.all_eq_true.1 hall r hr)
      omega)]
    rfl
  · rw [hexec, State.needQ, if_pos (List.all_eq_true.2 fun r hr => decide_eq_true (hall r hr))]

theorem State.atNode_misaligned {va : Word} (h : va.toNat % 8 ≠ 0) (k : State → Nat → State) :
    s.atNode va k = s.takeTrap .alignment va 0#64 := by
  rw [State.atNode, alignedTo, beq_false_of_ne h]; rfl

theorem State.atNode_translated {va : Word} {s1 : State} {pa : Nat} {e : TlbEnt} (h : va.toNat % 8 = 0)
    (htr : s.translateCur va .read = (s1, .ok pa e)) (k : State → Nat → State) : s.atNode va k = k s1 pa := by
  rw [State.atNode, alignedTo, h, State.withPa, htr]; rfl

/-- The request of an ARRIVE, a release at partition scope (R154, R158). -/
def State.arriveMsg (s : State) (qa : BitVec 3) (pa : Nat) (va : Word) (dst : Dst) : Msg :=
  let s1 := s.countRelease s.curAgent
  { s1.curMsg (.arrive (s.cur.getQ qa) s.cur.trav s.cur.qwin) pa 8 va with
    ord := 3, scope := 2, epoch := s1.epochOf s1.curAgent, dst := dst, after := s.curOutstanding }

/-- The request of a DEPART (R155). -/
def State.departMsg (s : State) (wait : Bool) (pa : Nat) (va : Word) (dst : Dst) : Msg :=
  { s.curMsg (.depart wait s.cur.trav s.cur.qwin) pa 8 va with ord := 2, scope := 2, dst := dst, after := s.curReleases }

theorem State.mine_arriveMsg (s : State) (qa : BitVec 3) (pa : Nat) (va : Word) (dst : Dst) : (s.countRelease s.curAgent).Mine
    { s.arriveMsg qa pa va dst with wait := true, id := (s.countRelease s.curAgent).nextId } := State.mine_curMsg _ ..

theorem State.mine_departMsg (s : State) (wait : Bool) (pa : Nat) (va : Word) (dst : Dst) :
    s.Mine { s.departMsg wait pa va dst with wait := true, id := s.nextId } := State.mine_curMsg _ ..

theorem State.depart_eq {w : Bool} {qa : BitVec 3} {xa xb : BitVec 6} {pd : BitVec 3} {s1 : State} {pa : Nat} {e : TlbEnt}
    (h : (s.rx xa).toNat % 8 = 0) (htr : s.translateCur (s.rx xa) .read = (s1, .ok pa e)) :
    s.depart w qa xa xb pd = s1.postWait (s1.departMsg w pa (s1.rx xa) (.depart qa xb pd)) := by
  rw [State.depart, State.atNode_translated h htr]; rfl

theorem exec_depart_or_departW (w : Bool) (qa : BitVec 3) (xa xb : BitVec 6) (pd : BitVec 3) :
    exec (if w then .departW qa xa xb pd else .depart qa xa xb pd) s = .next (s.needQ [qa] fun s =>
      if w = true ∧ s.iss.slot = 14 then s.takeTrap .handlerBlock 0#64 0#64 else s.depart w qa xa xb pd) := by
  cases w with
  | true => rw [if_pos rfl, exec_departW, execDepartW]; simp only [true_and]; rfl
  | false => rw [if_neg Bool.false_ne_true, exec_depart, execDepart]; simp

theorem nodesAtIssue : Says.NodesAtIssue := by
  intro s qa xa xb pd s1 pa e va ag arr dep
  refine ⟨?_, fun w => ?_⟩
  · refine NeedsQ.of_needQ rfl fun hexec => ⟨fun hal => .of_takeTrap ?_, fun hal htr => ?_⟩
    · rw [hexec, State.atNode_misaligned hal]
    · have htrans := State.translated_of_translateCur htr
      have hagent : s1.curAgent = ag := htrans.curAgent
      rw [State.atNode_translated hal htr] at hexec
      refine ⟨fun hfold => ?_, fun hfold => ?_⟩
      · rw [hexec, hagent, if_pos hfold]
      · rw [hagent, if_neg (by rw [hfold]; exact Bool.false_ne_true), ← hagent] at hexec
        have hcount := s1.relcnt_countRelease s1.curAgent
        have hlines := s1.lines_countRelease s1.curAgent
        refine ⟨s1.countRelease s1.curAgent, _, _, hexec, State.sendsAndWaits_postWait _ (s1.mine_arriveMsg qa pa (s1.rx xa) (.arrive qa xb pd)),
          ?_, rfl, rfl, rfl, rfl, ?_, rfl, rfl, rfl, rfl, ?_, ?_⟩
        · show MKind.arrive (s1.cur.getQ qa) s1.cur.trav s1.cur.qwin = _
          rw [htrans.cur]; rfl
        · show ((s1.countRelease s1.curAgent).cache s1.curAgent).relcnt.setWidth 24 = _
          rw [hcount, hagent]
        · rw [← hagent]; exact hcount
        · rw [← hagent]; exact hlines
  · refine NeedsQ.of_needQ (exec_depart_or_departW w qa xa xb pd) fun hexec => ⟨fun hw h14 => .of_takeTrap ?_, fun hgo => ?_⟩
    · rw [hexec, if_pos ⟨hw, h14⟩]
    · rw [if_neg (fun h => hgo.elim (fun hw => by rw [hw] at h; exact Bool.false_ne_true h.1) fun hsl => hsl h.2)] at hexec
      refine ⟨fun hal => .of_takeTrap ?_, fun hal htr => ?_⟩
      · rw [hexec]; exact congrArg Host.Outcome.next (State.atNode_misaligned hal _)
      · have htrans := State.translated_of_translateCur htr
        rw [State.depart_eq hal htr] at hexec
        refine ⟨_, _, hexec, State.sendsAndWaits_postWait _ (s1.mine_departMsg w pa (s1.rx xa) _), ?_, rfl, rfl, rfl, rfl, rfl, rfl⟩
        show MKind.depart w s1.cur.trav s1.cur.qwin = _
        rw [htrans.cur]

end Sys2Proof.Machine
end

section
/-! PROOFS. O39: ARRIVE and DEPART performed at the home of their node (R143 to R145, R154, R155, R158). -/
namespace Sys2Proof.Machine

variable {s : State} {m : Msg} {id : Nat}

/-! ### Entries that are overdue (R145) -/

/-- No entry of a slice is OPEN that has been due to be sealed for 16 cycles (R145). -/
def InTime (s : State) (v : Dom) (slice : Nat) : Prop :=
  ∀ e ∈ v.conf, e.slice = slice → e.st = .opened → s.cycle < e.born + e.openMax + 16

theorem State.dom_sealEntry_self (s : State) (d : Nat) (e : ConfEnt) : (s.sealEntry d e).dom d =
    { s.dom d with conf := (s.dom d).conf.map fun x => if x.id == e.id then { x with st := .sealed } else x } :=
  s.dom_modDom_self d fun v => { v with conf := v.conf.map fun x => if x.id == e.id then { x with st := .sealed } else x }

theorem State.dom_sealEntry_ne (s : State) {d k : Nat} (h : k ≠ d) (e : ConfEnt) : (s.sealEntry d e).dom k = s.dom k :=
  s.dom_modDom_ne (fun v => { v with conf := v.conf.map fun x => if x.id == e.id then { x with st := .sealed } else x }) h

theorem State.sealEntry_eq (s : State) (d : Nat) (e : ConfEnt) :
    s.sealEntry d e = { s with doms := (s.sealEntry d e).doms, net := (s.sealEntry d e).net } := rfl

/-- Between `s` and `t` entries of domain `d` with the numbers of `es` have been sealed, and no entry is OPEN that was not. -/
structure SealedAll (s t : State) (d : Nat) (es : List ConfEnt) : Prop where
  state : t = { s with doms := t.doms, net := t.net }
  self : t.dom d = { s.dom d with conf := (t.dom d).conf }
  other : ∀ k, k ≠ d → t.dom k = s.dom k
  opened : ∀ x ∈ (t.dom d).conf, x.st = .opened → x ∈ (s.dom d).conf ∧ ∀ e ∈ es, x.id ≠ e.id

theorem sealedAll_foldl (d : Nat) (es : List ConfEnt) : ∀ s : State, SealedAll s (es.foldl (fun s e => s.sealEntry d e) s) d es := by
  induction es with
  | nil => exact fun s => ⟨rfl, rfl, fun _ _ => rfl, fun x hx _ => ⟨hx, nofun⟩⟩
  | cons e es ih =>
    intro s
    obtain ⟨hstate, hself, hother, hopen⟩ := ih (s.sealEntry d e)
    refine ⟨by rw [List.foldl_cons, hstate]; rfl, ?_, fun k hk => (hother k hk).trans (s.dom_sealEntry_ne hk e), fun x hx hst => ?_⟩
    · rw [List.foldl_cons, hself, State.dom_sealEntry_self]
    · obtain ⟨hin, hne⟩ := hopen x hx hst
      rw [State.dom_sealEntry_self] at hin
      obtain ⟨y, hy, rfl⟩ := List.mem_map.1 hin
      by_cases hid : y.id = e.id
      · rw [if_pos (beq_iff_eq.2 hid)] at hst; cases hst
      · rw [if_neg (mt beq_iff_eq.1 hid)] at hne ⊢
        exact ⟨hy, fun e' he' => (List.mem_cons.1 he').elim (fun h => h ▸ hid) (hne e')⟩

theorem State.sealedAll_sealOverdue (s : State) (m : Msg) : SealedAll s (s.sealOverdue m) m.dom
    ((s.dom m.dom).conf.filter fun e => e.slice == (m.confHome (s.dom m.dom)).1 && e.st == .opened &&
      decide (e.born + e.openMax + 16 ≤ s.cycle)) := sealedAll_foldl _ _ s

/-- Afterwards no entry of the request's slice is overdue. -/
theorem State.inTime_sealOverdue (s : State) (m : Msg) :
    InTime s ((s.sealOverdue m).dom m.dom) (m.confHome (s.dom m.dom)).1 := by
  intro e he hslice hst
  obtain ⟨hin, hne⟩ := (s.sealedAll_sealOverdue m).opened e he hst
  by_contra hlate
  exact hne e (List.mem_filter.2 ⟨hin, by simp [hslice, hst]; omega⟩) rfl

/-- Where no entry is overdue nothing is sealed. -/
theorem State.sealOverdue_inTime (h : InTime s (s.dom m.dom) (m.confHome (s.dom m.dom)).1) : s.sealOverdue m = s := by
  rw [State.sealOverdue, List.filter_eq_nil_iff.2]
  · rfl
  · intro e he
    have hin := h e he
    simp only [Bool.and_eq_true, beq_iff_eq, decide_eq_true_eq, not_and, and_imp]
    intro h1 h2
    have := hin h1 h2
    omega

/-! ### The table of a domain (R143, R144, R155) -/

/-- A node's slice, set and key do not depend on the entries of its domain. -/
theorem confHome_arrive {set : QSet} {trav win : Word} (h : m.kind = .arrive set trav win) (v : Dom) :
    m.confHome v = (homeSlice v (m.pa / 128), keySet trav win m.pa, nodeKey m.dom m.asn trav win m.pa) := by
  rw [Msg.confHome, h]; rfl

theorem confHome_depart {w : Bool} {trav win : Word} (h : m.kind = .depart w trav win) (v : Dom) :
    m.confHome v = (homeSlice v (m.pa / 128), keySet trav win m.pa, nodeKey m.dom m.asn trav win m.pa) := by
  rw [Msg.confHome, h]; rfl

/-- The entry that is OPEN for a key in a slice (R144). -/
def ConfEnt.opensFor (e : ConfEnt) (slice : Nat) (key : BitVec 185) : Bool := e.slice == slice && e.key == key && e.st == .opened

/-- The entry that an arrival which leads begins (R144, R154). -/
def Msg.leads (m : Msg) (id slice way : Nat) (key : BitVec 185) (openMax born : Nat) : ConfEnt :=
  { id := id, slice := slice, way := way, key := key, st := .opened, leader := tidOf m.core m.slot, lgen := m.gen,
    launch := m.launch, union := 0, count := 1, born := born, openMax := openMax, pin := false }

/-- What an arrival makes of the table: its set joins, or it leads, or it finds no way (R144). -/
theorem Dom.arrive_eq (v : Dom) (m : Msg) (set : QSet) (id openMax born : Nat) : v.arrive m set id openMax born =
    if v.conf.any fun e => e.opensFor (m.confHome v).1 (m.confHome v).2.2 then
      ({ v with conf := v.conf.map fun e => if e.opensFor (m.confHome v).1 (m.confHome v).2.2
          then { e with union := e.union ||| set, count := min (e.count + 1) 65535 } else e }, 0)
    else match v.confWay (m.confHome v).1 (m.confHome v).2.1 with
      | none => (v, 3)
      | some w => ({ v with
          conf := m.leads id (m.confHome v).1 w (m.confHome v).2.2 openMax born ::
            v.conf.filter fun e => !(e.slice == (m.confHome v).1 && e.way == w) }, 1) := rfl

theorem Dom.arrive_frame (v : Dom) (m : Msg) (set : QSet) (id openMax born : Nat) :
    (v.arrive m set id openMax born).1 = { v with conf := (v.arrive m set id openMax born).1.conf } := by
  rw [Dom.arrive_eq]
  split
  · rfl
  · split <;> rfl

/-- An arrival leaves no entry overdue where none was. -/
theorem InTime.arrive {v : Dom} {slice : Nat} (h : InTime s v slice) (m : Msg) (set : QSet) (id openMax : Nat) :
    InTime s (v.arrive m set id openMax s.cycle).1 slice := by
  rw [Dom.arrive_eq]
  split
  · intro e he hslice hst
    obtain ⟨x, hx, rfl⟩ := List.mem_map.1 he
    split at hst
    · next hjoin =>
      rw [if_pos hjoin] at hslice ⊢
      exact h x hx hslice hst
    · next hjoin =>
      rw [if_neg hjoin] at hslice ⊢
      exact h x hx hslice hst
  · split
    · exact h
    · intro e he hslice hst
      rcases List.mem_cons.1 he with rfl | hin
      · show s.cycle < s.cycle + openMax + 16
        omega
      · exact h e (List.mem_filter.1 hin).1 hslice hst

/-! ### An arrival (R154, R158) -/

/-- The answer of a request at its node (R154, R155). -/
def Msg.nodeReply (m : Msg) (data : BitVec 1024) (inval : Bool) : Msg := { m with data := data, inval := inval, st := .replied }

theorem Msg.nodeReply_facts (m : Msg) (data : BitVec 1024) (inval : Bool) : (m.nodeReply data inval).id = m.id ∧
    (m.nodeReply data inval).st = .replied ∧ (m.nodeReply data inval).data = data := by
  simp only [Msg.nodeReply, and_self]

/-- The table of the domain and the answer once an arrival has been performed. -/
def State.arriveOn (s : State) (m : Msg) (set : QSet) : Dom × Nat :=
  (s.dom m.dom).arrive m set s.nextId (s.launch m.dom m.launch).openCycles s.cycle

/-- Arrivals are counted, those whose set joins an entry once more. -/
def State.countArrival (s : State) (m : Msg) (ans : Nat) : State :=
  let t := s.count 6 0 (m.confHome (s.dom m.dom)).1
  if ans = 0 then t.count 6 1 (m.confHome (s.dom m.dom)).1 else t

theorem State.countArrival_eq (s : State) (m : Msg) (ans : Nat) :
    s.countArrival m ans = { s with gauge := (s.countArrival m ans).gauge } := by
  unfold State.countArrival
  dsimp only
  split <;> rfl

/-- An arrival changes the table, is counted, leaves the record of its release and is answered (R154, R158). -/
def State.performArrive (s : State) (m : Msg) (set : QSet) : State :=
  let u := s.countArrival m (s.arriveOn m set).2
  (({ u with nextId := u.nextId + 1 }.setDom m.dom (s.arriveOn m set).1).leaveRecord m).setMsg
    (m.nodeReply (BitVec.ofNat 1024 (s.arriveOn m set).2) (s.recOther m))

theorem State.serveArrive_eq {set : QSet} {trav win : Word} (h : m.kind = .arrive set trav win) :
    s.serveArrive m = s.performArrive m set := by
  have hdef : s.serveArrive m = match m.kind with
    | .arrive set _ _ => s.performArrive m set
    | _ => s := rfl
  rw [hdef, h]

/-- What an arrival leaves of the machine. -/
theorem State.serveArrive_frame {set : QSet} {trav win : Word} (h : m.kind = .arrive set trav win) :
    (s.serveArrive m).net = (s.setMsg (m.nodeReply (BitVec.ofNat 1024 (s.arriveOn m set).2) (s.recOther m))).net ∧
    (s.serveArrive m).dom m.dom = { (s.arriveOn m set).1 with
      recs := insertKey (s.dom m.dom).recs (m.pa / 128) ⟨m.agent, m.epoch, m.scope, if m.ord = 5 ∨ m.scope = 6 then 3 else 1⟩
      replicas := (s.dom m.dom).replicas.filter fun x => x.1 != m.pa / 128 } ∧
    s.SameMemory (s.serveArrive m) := by
  have hcount := s.countArrival_eq m (s.arriveOn m set).2
  obtain ⟨u, hu⟩ : ∃ u : State, u = { s.countArrival m (s.arriveOn m set).2 with
      nextId := (s.countArrival m (s.arriveOn m set).2).nextId + 1 } := ⟨_, rfl⟩
  have hserve : s.serveArrive m = ((u.setDom m.dom (s.arriveOn m set).1).leaveRecord m).setMsg
      (m.nodeReply (BitVec.ofNat 1024 (s.arriveOn m set).2) (s.recOther m)) := by rw [State.serveArrive_eq h, hu]; rfl
  rw [hcount] at hu
  have hframe : (s.arriveOn m set).1 = { s.dom m.dom with conf := (s.arriveOn m set).1.conf } := Dom.arrive_frame ..
  rw [hserve]
  refine ⟨?_, ?_, ?_⟩
  · show (u.setMsg _).net = _
    rw [hu]; rfl
  · show (((u.setDom m.dom (s.arriveOn m set).1).leaveRecord m).dom m.dom) = _
    rw [State.leaveRecord, State.dom_setRec_self, State.dom_setDom_self, hframe]
    rfl
  · refine State.SameMemory.trans ?_ ((State.SameMemory.leaveRecord _ m).trans (State.SameMemory.setMsg _ _))
    have hset : s.SameMemory (s.setDom m.dom (s.arriveOn m set).1) :=
      State.SameMemory.modDom s m.dom (g := fun _ => (s.arriveOn m set).1) (by rw [hframe])
    rw [hu]
    obtain ⟨h1, h2, h3⟩ := hset
    exact ⟨h1, h2, h3⟩

/-- ARRIVE_AT_HOME on an arrival that no other releaser holds up (R158). -/
theorem exec_arriveAtHome_serves {set : QSet} {trav win : Word} (hat : s.AtHome id false m) (hkind : m.kind = .arrive set trav win)
    (hover : ∀ r, ¬mustOverwriteFirst s m r) :
    exec (.arriveAtHome id) s = .next (((s.markServed m).sealOverdue m).serveArrive m) := by
  have hat' := hat
  obtain ⟨-, -, hgroup, -⟩ := hat'
  have hdrain : (s.markServed m).drainMembers m = none := by rw [State.drainMembers, State.members_of_group hgroup]; rfl
  have hdo : (match (s.markServed m).writeMustWait m with
      | some r => (s.markServed m).holdForDrain m r
      | none => ((s.markServed m).drainMembers m).getD
          (((s.markServed m).members m).foldl State.serveArrive ((s.markServed m).sealOverdue m))) =
      ((s.markServed m).sealOverdue m).serveArrive m := by
    rw [State.writeMustWait_markServed hover, hdrain, State.members_of_group hgroup]
    rfl
  obtain ⟨-, hdom, -⟩ := State.serveArrive_frame (s := (s.markServed m).sealOverdue m) hkind
  rw [exec_arriveAtHome, execArriveAtHome]
  refine congrArg Host.Outcome.next ((hat.perform (by rw [hkind]) ((congrArg (fun t => (t.dom m.dom).reqs) hdo).trans ?_)).trans hdo)
  rw [hdom, State.arriveOn, Dom.arrive_frame, ((s.markServed m).sealedAll_sealOverdue m).self]

/-- What NodesAtHome says an arrival is told, with the answer `ans` (R154, R158). -/
def ToldAtHome (s : State) (id : Nat) (m : Msg) (t : State) (ans : Nat) : Prop :=
  exec (.arriveAtHome id) s = .next t ∧ s.SameMemory t ∧
    lookup (t.dom m.dom).recs (m.pa / 128) = some ⟨m.agent, m.epoch, m.scope, if m.ord = 5 ∨ m.scope = 6 then 3 else 1⟩ ∧
    ∃ m', s.NowIs t id m' ∧ m'.st = .replied ∧ m'.data = BitVec.ofNat 1024 ans

/-- An arrival that finds no entry overdue is told what the table gives it (R144, R154). -/
theorem State.AtHome.arrive {set : QSet} {trav win : Word} (hat : s.AtHome id false m) (hkind : m.kind = .arrive set trav win)
    (hover : ∀ r, ¬mustOverwriteFirst s m r) (hin : InTime s (s.dom m.dom) (homeSlice (s.dom m.dom) (m.pa / 128))) :
    let r := (s.markServed m).arriveOn m set
    ∃ t, ToldAtHome s id m t r.2 ∧ (t.dom m.dom).conf = r.1.conf := by
  intro r
  have hmark := s.markServed_eq m
  have hmdom := s.dom_markServed m m.dom
  have hfound : s.findMsg id ≠ none := by rw [hat.found]; exact Option.some_ne_none m
  have hseal : (s.markServed m).sealOverdue m = s.markServed m := by
    refine State.sealOverdue_inTime ?_
    rw [confHome_arrive hkind, hmdom, hmark]
    exact hin
  have hexec := exec_arriveAtHome_serves hat hkind hover
  rw [hseal] at hexec
  obtain ⟨hnet, hdom, hmem⟩ := State.serveArrive_frame (s := s.markServed m) hkind
  obtain ⟨hrid, hst, hdata⟩ := m.nodeReply_facts (BitVec.ofNat 1024 r.2) ((s.markServed m).recOther m)
  have hnow := State.nowIs_setMsg (s := s) (u := s.markServed m) (by rw [hmark]) (hrid.trans hat.id_eq) hfound
  refine ⟨_, ⟨hexec, (State.SameMemory.markServed s m).trans hmem, ?_, _, ?_, hst, hdata⟩, by rw [hdom]⟩
  · rw [hdom]; exact lookup_insertKey_self _ _ _
  · unfold State.NowIs State.findMsg at hnow ⊢
    rw [hnet]; exact hnow

/-- Whatever an arrival finds, no entry of its slice is overdue afterwards (R145). -/
theorem State.AtHome.arrive_inTime {set : QSet} {trav win : Word} (hat : s.AtHome id false m) (hkind : m.kind = .arrive set trav win)
    (hover : ∀ r, ¬mustOverwriteFirst s m r) :
    ∃ t, exec (.arriveAtHome id) s = .next t ∧ InTime s (t.dom m.dom) (homeSlice (s.dom m.dom) (m.pa / 128)) := by
  have hmark := s.markServed_eq m
  have hmdom := s.dom_markServed m m.dom
  have hsealed := (s.markServed m).sealedAll_sealOverdue m
  obtain ⟨-, hdom, -⟩ := State.serveArrive_frame (s := (s.markServed m).sealOverdue m) hkind
  refine ⟨_, exec_arriveAtHome_serves hat hkind hover, ?_⟩
  have hcycle : ((s.markServed m).sealOverdue m).cycle = s.cycle := by rw [hsealed.state, hmark]
  have htable : InTime s (((s.markServed m).sealOverdue m).dom m.dom) (homeSlice (s.dom m.dom) (m.pa / 128)) := by
    have hin := (s.markServed m).inTime_sealOverdue m
    rw [confHome_arrive hkind, hmdom] at hin
    rw [hmark] at hin ⊢
    exact hin
  have harrive := htable.arrive m set ((s.markServed m).sealOverdue m).nextId
    (((s.markServed m).sealOverdue m).launch m.dom m.launch).openCycles
  rw [hdom, State.arriveOn, hcycle]
  exact harrive

theorem arrivesAtHome {set : QSet} {trav win : Word} (hat : s.AtHome id false m) (hkind : m.kind = .arrive set trav win)
    (hover : ∀ r, ¬mustOverwriteFirst s m r) :
    let v := s.dom m.dom
    let sl := homeSlice v (m.pa / 128)
    let key := nodeKey m.dom m.asn trav win m.pa
    InTime s v sl →
    (v.conf.any (·.opensFor sl key) = true → ∃ t, ToldAtHome s id m t 0 ∧ (t.dom m.dom).conf = v.conf.map fun e =>
      if e.opensFor sl key then { e with union := e.union ||| set, count := min (e.count + 1) 65535 } else e) ∧
    (v.conf.any (·.opensFor sl key) = false → ∀ way, v.confWay sl (keySet trav win m.pa) = some way →
      ∃ t id' openMax, ToldAtHome s id m t 1 ∧ (t.dom m.dom).conf = m.leads id' sl way key openMax s.cycle ::
        v.conf.filter fun x => !(x.slice == sl && x.way == way)) ∧
    (v.conf.any (·.opensFor sl key) = false → v.confWay sl (keySet trav win m.pa) = none →
      ∃ t, ToldAtHome s id m t 3 ∧ (t.dom m.dom).conf = v.conf) := by
  intro v sl key hin
  have hmark := s.markServed_eq m
  have hmdom := s.dom_markServed m m.dom
  have hconf : ((s.markServed m).dom m.dom).conf = v.conf := by rw [hmdom]
  have hway : ((s.markServed m).dom m.dom).confWay sl (keySet trav win m.pa) = v.confWay sl (keySet trav win m.pa) := by rw [hmdom]; rfl
  have hcycle : (s.markServed m).cycle = s.cycle := by rw [hmark]
  have hhome : m.confHome ((s.markServed m).dom m.dom) = (sl, keySet trav win m.pa, key) := by
    rw [confHome_arrive hkind, hmdom]; rfl
  obtain ⟨t, htold, htable⟩ := hat.arrive hkind hover hin
  have hon := Dom.arrive_eq ((s.markServed m).dom m.dom) m set (s.markServed m).nextId
    ((s.markServed m).launch m.dom m.launch).openCycles (s.markServed m).cycle
  rw [← State.arriveOn, hhome] at hon
  dsimp only at hon
  rw [hconf, hway, hcycle] at hon
  refine ⟨fun hany => ?_, fun hany way hw => ?_, fun hany hw => ?_⟩
  · rw [if_pos hany] at hon
    rw [hon] at htold htable
    exact ⟨t, htold, htable⟩
  · rw [if_neg (by rw [hany]; exact Bool.false_ne_true), hw] at hon
    rw [hon] at htold htable
    exact ⟨t, _, _, htold, htable⟩
  · rw [if_neg (by rw [hany]; exact Bool.false_ne_true), hw] at hon
    rw [hon] at htold htable
    exact ⟨t, htold, htable.trans hconf⟩

/-! ### A collection (R155) -/

theorem getLsbD_foldl_union (es : List ConfEnt) : ∀ (u : QSet) (j : Nat),
    (es.foldl (fun u e => u ||| e.union) u).getLsbD j = (u.getLsbD j || es.any fun e => e.union.getLsbD j) := by
  induction es with
  | nil => intro u j; simp
  | cons e es ih =>
    intro u j
    rw [List.foldl_cons, ih, BitVec.getLsbD_or, List.any_cons, Bool.or_assoc]

theorem foldl_count_eq_sum (es : List ConfEnt) : ∀ c : Nat, es.foldl (fun c e => c + e.count) c = c + (es.map ConfEnt.count).sum := by
  induction es with
  | nil => intro c; rfl
  | cons e es ih =>
    intro c
    rw [List.foldl_cons, ih, List.map_cons, List.sum_cons, Nat.add_assoc]

/-- The answer of a DEPART that collects: success, the union and the count (R155). -/
theorem collected_fields (es : List ConfEnt) : (collected es).getLsbD 272 = true ∧
    (∀ j < 256, (collected es).getLsbD j = es.any fun e => e.union.getLsbD j) ∧
    (collected es).extractLsb' 256 16 = BitVec.ofNat 16 (min (es.map ConfEnt.count).sum 65535) := by
  have hcount := foldl_count_eq_sum es 0
  rw [Nat.zero_add] at hcount
  refine ⟨?_, fun j hj => ?_, ?_⟩
  · simp only [collected, BitVec.getLsbD_setWidth, BitVec.getLsbD_append]
    simp
  · have hunion := getLsbD_foldl_union es 0 j
    simp only [collected, BitVec.getLsbD_setWidth, BitVec.getLsbD_append, hj, if_true]
    rw [hunion]
    simp [show j < 1024 by omega]
  · apply BitVec.eq_of_getLsbD_eq
    intro j hj
    simp only [collected, BitVec.getLsbD_extractLsb', BitVec.getLsbD_setWidth, BitVec.getLsbD_append, hcount]
    simp [hj, show ¬256 + j < 256 by omega, show 256 + j < 1024 by omega]

/-- A DEPART once no entry of its slice is overdue (R155, R158). -/
def State.departFound (s : State) (m : Msg) (wait : Bool) : State :=
  let key := (m.confHome (s.dom m.dom)).2.2
  let es := (s.dom m.dom).conf.filter fun e => e.collects key m.gen
  let sp := (s.launch m.dom m.launch).spilled.filter fun e => e.collects key m.gen
  if (es ++ sp).isEmpty then s.reply m
  else if wait && es.any (fun e => e.st == .opened) then s.standOnList m
  else
    match s.readMustWait m with
    | some r => s.holdForDrain m r
    | none => ((s.setDom m.dom ((s.dom m.dom).closeKey key m.gen)).modLaunch m.dom m.launch fun l =>
        { l with spilled := l.spilled.filter fun e => !e.collects key m.gen }).setMsg
          (m.nodeReply (collected (es ++ sp)) (s.acqInval m))

theorem execDepartAtHome_eq (id : Nat) : execDepartAtHome id s = .next (s.perform id
    (fun k => match k with | .depart _ _ _ => true | _ => false) false fun s m => match m.kind with
      | .depart wait _ _ => (s.sealOverdue m).departFound m wait
      | _ => s) := rfl

theorem State.reqs_departFound (m : Msg) (w : Bool) : ((s.departFound m w).dom m.dom).reqs = (s.dom m.dom).reqs := by
  unfold State.departFound
  dsimp only
  split
  · rfl
  · split
    · unfold State.standOnList
      dsimp only
      split
      · rfl
      · split <;> rfl
    · split
      · exact State.reqs_holdForDrain s m _
      · show (((s.setDom m.dom _).modLaunch m.dom m.launch _).dom m.dom).reqs = _
        rw [State.dom_modLaunch, State.dom_setDom_self]
        rfl

/-- DEPART_AT_HOME where no entry is overdue (R155). -/
theorem exec_departAtHome_inTime {w : Bool} {trav win : Word} (hat : s.AtHome id false m) (hkind : m.kind = .depart w trav win)
    (hin : InTime s (s.dom m.dom) (homeSlice (s.dom m.dom) (m.pa / 128))) :
    exec (.departAtHome id) s = .next ((s.markServed m).departFound m w) := by
  have hseal : (s.markServed m).sealOverdue m = s.markServed m := by
    refine State.sealOverdue_inTime ?_
    rw [confHome_depart hkind, s.dom_markServed, s.markServed_eq m]
    exact hin
  have hdo : (match m.kind with
      | .depart wait _ _ => ((s.markServed m).sealOverdue m).departFound m wait
      | _ => s.markServed m) = (s.markServed m).departFound m w := by rw [hkind, hseal]
  rw [exec_departAtHome, execDepartAtHome_eq]
  exact congrArg Host.Outcome.next ((hat.perform (by rw [hkind])
    ((congrArg (fun t => (t.dom m.dom).reqs) hdo).trans (State.reqs_departFound m w))).trans hdo)

theorem departsAtHome {w : Bool} {trav win : Word} (hat : s.AtHome id false m) (hkind : m.kind = .depart w trav win)
    (hin : InTime s (s.dom m.dom) (homeSlice (s.dom m.dom) (m.pa / 128))) :
    let v := s.dom m.dom
    let mine (e : ConfEnt) : Bool := e.collects (nodeKey m.dom m.asn trav win m.pa) m.gen
    let es := v.conf.filter mine ++ (s.launch m.dom m.launch).spilled.filter mine
    (es = [] → exec (.departAtHome id) s = .next ((s.markServed m).setMsg { m with st := .replied })) ∧
    (w = true → (∃ e ∈ v.conf, mine e = true ∧ e.st = .opened) → ParkedFor s m →
      exec (.departAtHome id) s = .next ((s.markServed m).setMsg { m with st := .waiting })) ∧
    (es ≠ [] → (w = false ∨ ∀ e ∈ v.conf, mine e = true → e.st ≠ .opened) → (∀ r, ¬mustDrainFirst s m r) →
      ∃ t m', exec (.departAtHome id) s = .next t ∧ s.SameMemory t ∧ s.NowIs t id m' ∧ m'.st = .replied ∧
        m'.data = collected es ∧
        (t.dom m.dom).conf = v.conf.map fun e => if mine e then { e with st := .closed, pin := false } else e) := by
  intro v mine es
  have hmark := s.markServed_eq m
  have hmdom := s.dom_markServed m m.dom
  have hexec := exec_departAtHome_inTime hat hkind hin
  have hlaunch : (s.markServed m).launch m.dom m.launch = s.launch m.dom m.launch := by rw [State.launch, hmdom]; rfl
  have hconf : ((s.markServed m).dom m.dom).conf = v.conf := by rw [hmdom]
  have hfound : (s.markServed m).departFound m w = if es.isEmpty then (s.markServed m).reply m
      else if w && (v.conf.filter mine).any (fun e => e.st == .opened) then (s.markServed m).standOnList m
      else match (s.markServed m).readMustWait m with
        | some r => (s.markServed m).holdForDrain m r
        | none => (((s.markServed m).setDom m.dom (((s.markServed m).dom m.dom).closeKey (nodeKey m.dom m.asn trav win m.pa) m.gen)).modLaunch
            m.dom m.launch fun l => { l with spilled := l.spilled.filter fun e => !mine e }).setMsg
              (m.nodeReply (collected es) ((s.markServed m).acqInval m)) := by
    rw [State.departFound, confHome_depart hkind, hlaunch, hconf]
  rw [hfound] at hexec
  refine ⟨fun hnil => ?_, fun hw hopen hpark => ?_, fun hne hclosed hdrain => ?_⟩
  · rw [hexec, hnil]; rfl
  · obtain ⟨e, he, hmine, hst⟩ := hopen
    have hcollected : e ∈ v.conf.filter mine := List.mem_filter.2 ⟨he, hmine⟩
    have hany : (v.conf.filter mine).any (fun e => e.st == .opened) = true := List.any_eq_true.2 ⟨e, hcollected, beq_iff_eq.2 hst⟩
    have hes : es.isEmpty = false := by
      rw [List.isEmpty_eq_false_iff]
      exact List.ne_nil_of_mem (List.mem_append_left _ hcollected)
    have hpark' : ParkedFor (s.markServed m) m := by rw [hmark]; exact hpark
    rw [hexec, hes, if_neg Bool.false_ne_true, hw, hany, Bool.and_self, if_pos rfl]
    exact congrArg Host.Outcome.next (ParkedFor.standOnList hpark' rfl rfl rfl rfl)
  · have hes : es.isEmpty = false := List.isEmpty_eq_false_iff.2 hne
    have hany : (w && (v.conf.filter mine).any (fun e => e.st == .opened)) = false := by
      rcases hclosed with hw | hall
      · rw [hw, Bool.false_and]
      · rw [List.any_eq_false.2, Bool.and_false]
        intro e he
        rw [beq_iff_eq]
        exact hall e (List.mem_filter.1 he).1 (List.mem_filter.1 he).2
    rw [hes, if_neg Bool.false_ne_true, hany, if_neg Bool.false_ne_true, State.readMustWait_markServed hdrain] at hexec
    dsimp only at hexec
    obtain ⟨hrid, hst, hdata⟩ := m.nodeReply_facts (collected es) ((s.markServed m).acqInval m)
    have hfoundId : s.findMsg id ≠ none := by rw [hat.found]; exact Option.some_ne_none m
    refine ⟨_, _, hexec, ?_, State.nowIs_setMsg ?_ (hrid.trans hat.id_eq) hfoundId, hst, hdata, ?_⟩
    · refine (State.SameMemory.markServed s m).trans (State.SameMemory.trans ?_ ((State.SameMemory.modLaunch _ _ _ _).trans
        (State.SameMemory.setMsg _ _)))
      exact State.SameMemory.modDom (s.markServed m) m.dom (g := fun v => v.closeKey _ _) rfl
    · rw [State.net_modLaunch, State.setDom, hmark]
    · show ((State.modLaunch _ m.dom m.launch _).dom m.dom).conf = _
      rw [State.dom_modLaunch, State.dom_setDom_self, Dom.closeKey, hconf]

theorem nodesAtHome : Says.NodesAtHome := by
  intro s id m set trav win w hat hid v key sl opens inTime
  refine ⟨?_, ?_⟩
  · intro hkind hover told
    refine ⟨hat.arrive_inTime hkind hover, fun hin hany => ?_, fun hin hany way hw => ?_, fun hin hany hw => ?_⟩
    · obtain ⟨hjoins, -, -⟩ := arrivesAtHome hat hkind hover hin
      exact hjoins hany
    · obtain ⟨-, hleads, -⟩ := arrivesAtHome hat hkind hover hin
      obtain ⟨t, id', openMax, htold, htable⟩ := hleads hany way hw
      exact ⟨t, _, htold, htable, rfl, rfl, rfl, rfl, rfl, rfl, rfl, rfl, rfl, rfl⟩
    · obtain ⟨-, -, hnone⟩ := arrivesAtHome hat hkind hover hin
      exact hnone hany hw
  · intro hkind hin mine es
    obtain ⟨hempty, hwaits, hcollects⟩ := departsAtHome hat hkind hin
    refine ⟨hempty, hwaits, fun hne hclosed hdrain => ?_⟩
    obtain ⟨t, m', hexec, hmem, hnow, hst, hdata, htable⟩ := hcollects hne hclosed hdrain
    obtain ⟨hsuccess, hunion, hcount⟩ := collected_fields es
    exact ⟨t, m', hexec, hmem, hnow, hst, hdata ▸ hsuccess, fun j hj => hdata ▸ hunion j hj, hdata ▸ hcount, htable⟩

end Sys2Proof.Machine
end

section
/-! PROOFS. O39: replies of ARRIVE and DEPART at their thread, the age of entries, and requests that a switch combines (R109, R143 to
R145, R154, R155, R159, R252). -/
namespace Sys2Proof.Machine

variable {s : State} {m : Msg} {id : Nat} {x : Thread}

/-! ### Replies (R154, R155) -/

/-- What the reply of ARRIVE makes of its thread: an absorbed set leaves its register (R154). -/
def Thread.afterArrive (t : Thread) (m : Msg) (qa : BitVec 3) (xs : BitVec 6) (pd : BitVec 3) : Thread :=
  ((if m.data.getLsbD 0 then t else t.setQ qa 0).setP pd (m.data.getLsbD 0)).setX xs (m.data.setWidth 64)

/-- What the reply of DEPART makes of its thread: the union joins its register, or P[PD] is cleared (R155). -/
def Thread.afterDepart (t : Thread) (m : Msg) (qa : BitVec 3) (xs : BitVec 6) (pd : BitVec 3) : Thread :=
  if m.data.getLsbD 272 then
    ((t.setQ qa (t.getQ qa ||| m.data.setWidth 256)).setX xs ((m.data.extractLsb' 256 16).setWidth 64)).setP pd true
  else t.setP pd false

/-- What the reply of a node makes of its thread. -/
def Thread.afterNode (t : Thread) (m : Msg) : Thread :=
  match m.dst with
  | .arrive qa xs pd => t.afterArrive m qa xs pd
  | .depart qa xs pd => t.afterDepart m qa xs pd
  | _ => t

theorem State.nodeArrives_eq (s : State) (m : Msg) : s.nodeArrives m = match (s.taken m).waiter m with
    | none => s.taken m
    | some _ => if m.poisoned then (s.taken m).replyTrap m .poison m.va 0
      else ((s.taken m).goOn m).modThread m.core m.slot fun t => t.afterNode m := rfl

theorem Waiting.nodeArrives (h : Waiting s m x) (hinval : m.inval = false) (hpoison : m.poisoned = false) : s.nodeArrives m =
    (s.dropMsg m.id).setThread m.core m.slot ((rotated s m x).afterNode m) := by
  have htaken : s.taken m = s.dropMsg m.id := by rw [State.taken, if_neg (by rw [hinval]; exact Bool.false_ne_true)]
  have hdrop : Waiting (s.dropMsg m.id) m x := Waiting.of_core h fun _ => rfl
  rw [State.nodeArrives_eq, htaken, Waiting.waiter hdrop]
  dsimp only
  rw [hpoison, if_neg Bool.false_ne_true, Waiting.goOn hdrop, rotated_of_core (u := s.dropMsg m.id) (s := s) fun _ => rfl, State.modThread,
    State.thread_setThread_self, State.setThread_setThread]

theorem exec_loadReplyArrival_node {set : QSet} {trav win : Word} {w : Bool} (hm : s.findMsg id = some m) (hst : m.st = .replied)
    (hwait : m.wait = true) (hkind : m.kind = .arrive set trav win ∨ m.kind = .depart w trav win) :
    exec (.loadReplyArrival id) s = .next (s.nodeArrives m) := by
  have harrives : s.replyArrives m = s.nodeArrives m := by
    rw [State.replyArrives]
    rcases hkind with h | h <;> rw [h]
  rw [exec_loadReplyArrival, execLoadReplyArrival, hm]
  exact congrArg Host.Outcome.next ((if_pos ⟨hst, .inl hwait⟩).trans harrives)

/-- Beside x, p and q registers a reply of a node leaves its thread as it is. -/
theorem Thread.afterArrive_eq (t : Thread) (m : Msg) (qa : BitVec 3) (xs : BitVec 6) (pd : BitVec 3) : t.afterArrive m qa xs pd =
    { t with x := (t.afterArrive m qa xs pd).x, p := (t.afterArrive m qa xs pd).p, q := (t.afterArrive m qa xs pd).q } := by
  unfold Thread.afterArrive
  split
  · rw [Thread.setX_eq, Thread.setP_eq]
  · rw [Thread.setX_eq, Thread.setP_eq, Thread.setQ]

theorem Thread.afterDepart_eq (t : Thread) (m : Msg) (qa : BitVec 3) (xs : BitVec 6) (pd : BitVec 3) : t.afterDepart m qa xs pd =
    { t with x := (t.afterDepart m qa xs pd).x, p := (t.afterDepart m qa xs pd).p, q := (t.afterDepart m qa xs pd).q } := by
  unfold Thread.afterDepart
  split
  · rw [Thread.setP_eq, Thread.setX_eq, Thread.setQ]
  · rw [Thread.setP_eq]

/-- A thread that goes on keeps its registers (R109). -/
theorem rotated_regs (s : State) (m : Msg) (x : Thread) : (∀ r, (rotated s m x).getX r = x.getX r) ∧
    (∀ r, (rotated s m x).getP r = x.getP r) ∧ ∀ r, (rotated s m x).getQ r = x.getQ r := by
  unfold rotated
  split <;> exact ⟨fun _ => rfl, fun _ => rfl, fun _ => rfl⟩

theorem Thread.afterArrive_regs (t : Thread) (m : Msg) (qa : BitVec 3) (xs : BitVec 6) (pd : BitVec 3) :
    (∀ r, (t.afterArrive m qa xs pd).getX r = (t.setX xs (m.data.setWidth 64)).getX r) ∧
    (∀ r, (t.afterArrive m qa xs pd).getP r = (t.setP pd (m.data.getLsbD 0)).getP r) ∧
    ∀ r, (t.afterArrive m qa xs pd).getQ r = if m.data.getLsbD 0 then t.getQ r else (t.setQ qa 0).getQ r := by
  unfold Thread.afterArrive
  split
  · exact ⟨fun r => by rw [Thread.getX_setX, Thread.getX_setP, ← Thread.getX_setX], fun r => by rw [Thread.getP_setX],
      fun r => by rw [Thread.getQ_setX, Thread.getQ_setP]⟩
  · exact ⟨fun r => by rw [Thread.getX_setX, Thread.getX_setP, Thread.getX_setQ, ← Thread.getX_setX],
      fun r => by rw [Thread.getP_setX, Thread.getP_setP, Thread.getP_setQ, ← Thread.getP_setP],
      fun r => by rw [Thread.getQ_setX, Thread.getQ_setP]⟩

theorem nodeReplies : Says.NodeReplies := by
  intro s id m set trav win w qa xs pd x hm hst hinval hpoison hwait r goes
  have hid : m.id = id := by simpa using List.find?_some hm
  have harrives := Waiting.nodeArrives hwait hinval hpoison
  have hwait' := hwait
  obtain ⟨-, -, hwaits, -⟩ := hwait'
  obtain ⟨hrx, hrp, hrq⟩ := rotated_regs s m x
  rw [hid] at harrives
  refine ⟨fun hkind hdst => ?_, fun hkind hdst => ?_⟩
  · have hexec := exec_loadReplyArrival_node (w := w) hm hst hwaits (.inl hkind)
    have hafter : (rotated s m x).afterNode m = r.afterArrive m qa xs pd := by rw [Thread.afterNode, hdst]
    obtain ⟨hx, hp, hq⟩ := r.afterArrive_regs m qa xs pd
    rw [harrives, hafter] at hexec
    refine ⟨_, _, hexec, rfl, r.afterArrive_eq m qa xs pd, ⟨?_, ?_, ?_⟩, fun k hk => ?_, fun k hk => ?_, fun k hk => ?_⟩
    · rw [hp, Thread.getP_setP_self]
    · rw [hx, Thread.getX_setX_self]
    · rw [hq, Thread.getQ_setQ, if_pos rfl, hrq]; rfl
    · rw [hq, Thread.getQ_setQ, if_neg hk, hrq, ite_self]
    · rw [hx, Thread.getX_setX_ne _ _ hk, hrx]
    · rw [hp, Thread.getP_setP_ne _ _ hk, hrp]
  · have hexec := exec_loadReplyArrival_node (set := set) hm hst hwaits (.inr hkind)
    have hafter : (rotated s m x).afterNode m = r.afterDepart m qa xs pd := by rw [Thread.afterNode, hdst]
    rw [harrives, hafter] at hexec
    cases hfull : m.data.getLsbD 272 with
    | true =>
      have hdone : r.afterDepart m qa xs pd = ((r.setQ qa (r.getQ qa ||| m.data.setWidth 256)).setX xs
          ((m.data.extractLsb' 256 16).setWidth 64)).setP pd true := if_pos hfull
      refine ⟨_, _, hexec, rfl, r.afterDepart_eq m qa xs pd, ⟨fun _ => ⟨?_, ?_, ?_⟩, nofun⟩, fun k hk => ?_, fun k hk => ?_, fun k hk => ?_⟩
      · rw [hdone, Thread.getP_setP_self, Bool.or_true]
      · rw [hdone, Thread.getQ_setP, Thread.getQ_setX, Thread.getQ_setQ, if_pos rfl, hrq]
      · rw [hdone, Thread.getX_setP, Thread.getX_setX_self]
      · rw [hdone, Thread.getQ_setP, Thread.getQ_setX, Thread.getQ_setQ, if_neg hk, hrq]
      · rw [hdone, Thread.getX_setP, Thread.getX_setX_ne _ _ hk, Thread.getX_setQ, hrx]
      · rw [hdone, Thread.getP_setP_ne _ _ hk, Thread.getP_setX, Thread.getP_setQ, hrp]
    | false =>
      have hdone : r.afterDepart m qa xs pd = r.setP pd false := if_neg (by rw [hfull]; exact Bool.false_ne_true)
      refine ⟨_, _, hexec, rfl, r.afterDepart_eq m qa xs pd, ⟨nofun, fun _ => ⟨?_, ?_, ?_⟩⟩, fun k hk => ?_, fun k hk => ?_, fun k hk => ?_⟩
      · rw [hdone, Thread.getP_setP_self, Bool.or_false]
      · rw [hdone, Thread.getQ_setP, hrq]
      · rw [hdone, Thread.getX_setP, hrx]
      · rw [hdone, Thread.getQ_setP, hrq]
      · rw [hdone, Thread.getX_setP, hrx]
      · rw [hdone, Thread.getP_setP_ne _ _ hk, hrp]

/-! ### The age of entries (R143, R145) -/

theorem exec_ageSeal_found {d ent : Nat} {e : ConfEnt} (he : (s.dom d).conf.find? (fun x => x.id == ent) = some e) :
    exec (.ageSeal d ent) s = .next (if e.st = .opened ∧ e.born + e.openMax ≤ s.cycle ∧
      (lookup (s.dom d).served e.slice).all (fun p => p.1 != s.cycle) = true then s.sealEntry d e else s) := by
  rw [exec_ageSeal, execAgeSeal, he]

/-- What a request becomes when entry `e` of domain `d` is sealed: a DEPART.W of its leader goes on (R155). -/
def Msg.wokenBy (m : Msg) (v : Dom) (d : Nat) (e : ConfEnt) : Msg :=
  match m.kind with
  | .depart _ _ _ =>
    if m.st == .waiting && m.dom == d && m.gen == e.lgen && (m.confHome v).2.2 == e.key then { m with st := .sent } else m
  | _ => m

theorem State.net_sealEntry (s : State) (d : Nat) (e : ConfEnt) : (s.sealEntry d e).net = s.net.map fun m =>
    m.wokenBy ((s.modDom d fun v => { v with conf := v.conf.map fun x => if x.id == e.id then { x with st := .sealed } else x }).dom d)
      d e := rfl

theorem Msg.id_wokenBy (m : Msg) (v : Dom) (d : Nat) (e : ConfEnt) : (m.wokenBy v d e).id = m.id := by
  unfold Msg.wokenBy
  split
  · split <;> rfl
  · rfl

/-- A change of requests that keeps their numbers, request by request. -/
theorem State.findMsg_map {u : State} {g : Msg → Msg} (hnet : u.net = s.net.map g) (hg : ∀ x, (g x).id = x.id) (i : Nat) :
    u.findMsg i = (s.findMsg i).map g := by
  rw [State.findMsg, hnet, List.find?_map, State.findMsg]
  refine congrArg (fun p => Option.map g (List.find? p s.net)) (funext fun x => ?_)
  rw [Function.comp, hg]

/-- The DEPART.W of an entry's leader goes on once the entry is sealed (R155). -/
theorem State.findMsg_sealEntry {d : Nat} {e : ConfEnt} {w : Bool} {trav win : Word} (hm : s.findMsg id = some m)
    (hkind : m.kind = .depart w trav win) (hst : m.st = .waiting) (hdom : m.dom = d) (hgen : m.gen = e.lgen)
    (hkey : nodeKey m.dom m.asn trav win m.pa = e.key) : (s.sealEntry d e).findMsg id = some { m with st := .sent } := by
  rw [State.findMsg_map (s.net_sealEntry d e) (fun x => x.id_wokenBy _ d e), hm, Option.map_some, Msg.wokenBy]
  have hall (v : Dom) : (m.st == .waiting && m.dom == d && m.gen == e.lgen && (m.confHome v).2.2 == e.key) = true := by
    rw [confHome_depart hkind]
    simp [hst, hdom, hgen, ← hkey]
  split
  · rw [hall, if_pos rfl]
  · next hno => exact absurd hkind (hno w trav win)

theorem entriesAge : Says.EntriesAge := by
  intro s d ent e he seals
  have hid : e.id = ent := by simpa using List.find?_some he
  have hexec := exec_ageSeal_found he
  have hdue : (e.st = .opened ∧ e.born + e.openMax ≤ s.cycle ∧
      (lookup (s.dom d).served e.slice).all (fun p => p.1 != s.cycle) = true) ↔ seals := by
    refine and_congr_right fun _ => and_congr_right fun _ => ?_
    cases lookup (s.dom d).served e.slice with
    | none => simp
    | some p => simp
  refine ⟨fun hnot => ?_, fun hseals => ?_, ?_⟩
  · rw [hexec, if_neg (mt hdue.1 hnot)]
  · rw [if_pos (hdue.2 hseals)] at hexec
    refine ⟨_, hexec, ?_, fun k hk => s.dom_sealEntry_ne hk e, rfl, fun id m w trav win hm hkind hst hdom hgen hkey =>
      State.findMsg_sealEntry hm hkind hst hdom hgen hkey⟩
    rw [State.dom_sealEntry_self, hid]
    simp only [beq_iff_eq]
  · have hself := s.dom_modDom_self d fun v => { v with conf := v.conf.filter fun e => !(e.id == ent && e.st == .closed) }
    refine ⟨_, rfl, fun x => ?_, ?_, fun k hk => State.dom_modDom_ne s _ hk, rfl⟩
    · rw [hself, List.mem_filter, not_and_or, Bool.not_eq_true', Bool.and_eq_false_iff, beq_eq_false_iff_ne, beq_eq_false_iff_ne]
    · rw [hself]

/-! ### Requests that a switch combines (R159, R252) -/

/-- Two requests of which the first carries the other (R252). -/
def State.carries (s : State) (x y : Msg) : State := (s.setMsg { y with st := .combined }).setMsg { x with group := [y.id] }

/-- What a switch does with two requests that meet it, in the order of their ports. -/
def State.switched (s : State) (a b : Msg) : State :=
  let join := ([b].filter fun m => combines (s.dom a.dom) a m).eraseDups
  match s.memberOrder (a :: join) with
  | m :: more =>
    if join.isEmpty then s
    else (more.foldl (fun s x => s.setMsg { x with st := .combined, group := [] }) s).setMsg { m with st := .sent, group := more.map (·.id) }
  | [] => s

theorem exec_switchCombine_two {p q i j : Nat} {a b : Msg} (ha : s.findMsg i = some a) (hb : s.findMsg j = some b) (hpq : p ≤ q) :
    exec (.switchCombine [(p, i), (q, j)]) s = .next (s.switched a b) ∧
    (p < q → exec (.switchCombine [(q, j), (p, i)]) s = .next (s.switched a b)) := by
  have hfound : [(p, i), (q, j)].filterMap (fun r : Nat × Nat => s.findMsg r.2) = [a, b] := by simp [ha, hb]
  have hsort : sortByKey (fun r : Nat × Nat => r.1) [(p, i), (q, j)] = [(p, i), (q, j)] := by
    simp [sortByKey, putByKey, show ¬q < p by omega]
  refine ⟨?_, fun hlt => ?_⟩
  · rw [exec_switchCombine, execSwitchCombine, hsort, hfound]
    rfl
  · have hturn : sortByKey (fun r : Nat × Nat => r.1) [(q, j), (p, i)] = [(p, i), (q, j)] := by simp [sortByKey, putByKey, hlt]
    rw [exec_switchCombine, execSwitchCombine, hturn, hfound]
    rfl

theorem State.switched_apart {a b : Msg} (h : combines (s.dom a.dom) a b = false) : s.switched a b = s := by
  have hjoin : ([b].filter fun m => combines (s.dom a.dom) a m).eraseDups = [] := by simp [h]
  unfold State.switched
  dsimp only
  rw [hjoin]
  split <;> rfl

/-- Requests of which the first carries the second. -/
theorem State.switched_carries {a b x y : Msg} (h : combines (s.dom a.dom) a b = true) (horder : s.memberOrder [a, b] = [x, y])
    (hx : x.st = .sent) (hy : y.group = []) : s.switched a b = s.carries x y := by
  have hjoin : ([b].filter fun m => combines (s.dom a.dom) a m).eraseDups = [b] := by simp [h, List.eraseDups_cons]
  unfold State.switched
  dsimp only
  rw [hjoin, horder]
  show ((s.setMsg { y with st := .combined, group := [] }).setMsg { x with st := .sent, group := [y.id] }) = _
  have hcombined : ({ y with st := .combined, group := [] } : Msg) = { y with st := .combined } := by rw [← hy]
  have hfirst : ({ x with st := .sent, group := [y.id] } : Msg) = { x with group := [y.id] } := by rw [← hx]
  rw [hcombined, hfirst]
  rfl

theorem switchCombines : Says.SwitchCombines := by
  intro s p q i j a b al ke re al' ke' re' op ca cb sa sb trav win ha hb hij hast hbst hag hbg hpq word arrives carries
  have haid : a.id = i := by simpa using List.find?_some ha
  have hbid : b.id = j := by simpa using List.find?_some hb
  have hne : (a.id != b.id) = true := by rw [haid, hbid]; exact bne_iff_ne.2 hij
  obtain ⟨hexec, hswap⟩ := exec_switchCombine_two ha hb hpq
  have hmembers : ([a, b].map s.members).flatten = [a, b] := by
    simp [State.members_of_group hag, State.members_of_group hbg]
  refine ⟨fun hword hdom hn hpa => ?_, fun harrives hdom hpa => ?_, fun hdom => ?_⟩
  · have hcombine : combines (s.dom a.dom) a b = true := by
      rcases hword with ⟨hka, hkb, hn8, hoa, hob⟩ | ⟨hka, hkb, hop, hoa, hob, hsc⟩
      · simp [combines, hka, hkb, hdom, hast, hbst, bne_iff_ne.1 hne, hoa, hob, ← hn, hn8, hpa]
      · simp [combines, hka, hkb, hdom, hast, hbst, bne_iff_ne.1 hne, hop, hoa, hob, hsc, hn, hpa]
    have horder : s.memberOrder [a, b] = [a, b] := by
      rw [State.memberOrder, hmembers]
      rcases hword with ⟨hka, hkb, -⟩ | ⟨hka, hkb, -⟩ <;> simp [hka, hkb]
    rw [State.switched_carries hcombine horder hast hbg] at hexec hswap
    exact ⟨hexec, hswap⟩
  · obtain ⟨hka, hkb, hma, hmb, hasn⟩ := harrives
    have hline : a.pa / 128 = b.pa / 128 := by omega
    have hhome : a.confHome (s.dom a.dom) = b.confHome (s.dom a.dom) := by
      rw [confHome_arrive hka, confHome_arrive hkb, hline, hdom, hasn, keySet, nodeKey, hpa]
      rfl
    have hcombine : combines (s.dom a.dom) a b = true := by
      rw [hdom] at hhome
      simp [combines, hka, hkb, hast, hbst, bne_iff_ne.1 hne, hma, hmb, hhome, hdom]
    have hsort : s.memberOrder [a, b] = if (tidOf a.core a.slot).toNat ≤ (tidOf b.core b.slot).toNat then [a, b] else [b, a] := by
      rw [State.memberOrder, hmembers]
      simp only [List.any_cons, hka, Bool.true_or, if_true, sortByKey, List.foldl_cons, List.foldl_nil, putByKey]
      by_cases h : (tidOf a.core a.slot).toNat ≤ (tidOf b.core b.slot).toNat
      · rw [if_pos h, if_neg (by omega)]
      · rw [if_neg h, if_pos (by omega)]
    rw [hexec]
    by_cases h : (tidOf a.core a.slot).toNat ≤ (tidOf b.core b.slot).toNat
    · rw [if_pos h] at hsort ⊢
      rw [State.switched_carries hcombine hsort hast hbg]
      rfl
    · rw [if_neg h] at hsort ⊢
      rw [State.switched_carries hcombine hsort hbst hag]
      rfl
  · have happart : combines (s.dom a.dom) a b = false := by simp [combines, hdom]
    rw [hexec, State.switched_apart happart]

/-- Settles O39: the requests that ARRIVE and DEPART send, what the table of the home makes of them, what their replies make of the
thread, the age of entries, and what a switch makes one request of. -/
theorem confluenceNodes : Obligations.ConfluenceNodes := ⟨nodesAtIssue, nodesAtHome, nodeReplies, entriesAge, switchCombines⟩

end Sys2Proof.Machine
end

section
/-! PROOFS. Forks: the start of new work in a free slot, the push of an item, and what both leave alone (R112, R115, R117, R130 to R132,
R157, R273). -/
namespace Sys2Proof.Machine

variable (s : State)

/-! ### The outcomes of a fork (R117, R157) -/

/-- The increment of the counter of a FORK.J, if there is one. -/
def State.bump (s : State) (ctr : Option Place) : State × List Nat :=
  match ctr with
  | some pl => s.bumpCounter pl
  | none => (s, [])

/-- The registers of new work: x7 names the core where the work keeps its own. -/
def workRegs (w : List Word) (own : Bool) (c : Nat) (t : Thread) : Thread :=
  if own then (itemRegs w t).setX 7#6 (BitVec.ofNat 64 (coreNum c)) else itemRegs w t

/-- New work has started in a slot of the issuing core. -/
def State.startWork (s : State) (sl : Nat) (w : List Word) (own : Bool) : State :=
  (s.startThread s.iss.core sl s.cur (w.getD 0 0 &&& ~~~3#64) (workRegs w own s.iss.core)).modCore s.iss.core fun k =>
    { k with allotted := some k.cyc }

/-- The thread that it is. -/
def State.workThread (s : State) (sl : Nat) (w : List Word) (own : Bool) : Thread :=
  workRegs w own s.iss.core (s.freshAt s.iss.core sl s.cur (w.getD 0 0 &&& ~~~3#64))

/-- The end of a fork: one more piece of work, and what the fork tells in X[D] and P[PD] (R115, R117). -/
def State.forked (u : State) (p : Thread) (d : BitVec 6) (pd : BitVec 3) (v : Word) (b : Bool) : State :=
  ((u.addWork p.dom p.launch 1).wx d v).wp pd b

variable {s} (d : BitVec 6) (pd : BitVec 3) (w : List Word) (ctr : Option Place) (own : Bool)

theorem State.forkWith_starts {sl : Nat} (h : s.freeSlot s.iss.core s.cur = some sl) : s.forkWith d pd w ctr own =
    ((s.startWork sl w own).bump ctr).1.forked s.cur d pd ((tidOf s.iss.core sl).setWidth 64) true := by
  rw [State.forkWith]
  dsimp only
  rw [h]
  rfl

theorem State.forkWith_waits (h : s.freeSlot s.iss.core s.cur = none) (hpush : s.canPush s.iss.core s.cur = true)
    (hfold : s.foldBlocks s.curAgent = true) : s.forkWith d pd w ctr own = s.loseTurn := by
  rw [State.forkWith]
  dsimp only
  rw [h]
  dsimp only
  rw [if_pos hpush, if_pos hfold]

theorem State.forkWith_pushes (h : s.freeSlot s.iss.core s.cur = none) (hpush : s.canPush s.iss.core s.cur = true)
    (hfold : s.foldBlocks s.curAgent = false) : s.forkWith d pd w ctr own =
      ((s.bump ctr).1.pushItem w (s.bump ctr).2).forked s.cur d pd (BitVec.allOnes 64) true := by
  rw [State.forkWith]
  dsimp only
  rw [h]
  dsimp only
  rw [if_pos hpush, hfold, if_neg Bool.false_ne_true]
  rfl

theorem State.forkWith_refused (h : s.freeSlot s.iss.core s.cur = none) (hpush : s.canPush s.iss.core s.cur = false) :
    s.forkWith d pd w ctr own = (s.wx d 0xFFFFFFFFFFFFFFFE#64).wp pd false := by
  rw [State.forkWith]
  dsimp only
  rw [h]
  dsimp only
  rw [hpush, if_neg Bool.false_ne_true]

theorem State.canPush_of_room (h : s.dqrunSlot s.iss.core s.cur.launch = none) : s.canPush s.iss.core s.cur = true ↔
    ((s.core s.iss.core).deque s.cur.launch).length < s.curLaunch.hdr.deque := by
  rw [State.canPush, h]
  exact decide_eq_true_iff

/-! ### The free slot (R112) -/

theorem State.freeSlot_free {c sl : Nat} {p : Thread} (h : s.freeSlot c p = some sl) : sl < 14 ∧ s.thread? c sl = none := by
  unfold State.freeSlot at h
  dsimp only at h
  split at h
  · have hin := List.mem_of_find?_eq_some h
    rw [Core.free, List.mem_filter, List.mem_range] at hin
    obtain ⟨hlt, hfree⟩ := hin
    rw [Bool.and_eq_true] at hfree
    exact ⟨hlt, Option.isNone_iff_eq_none.1 hfree.1⟩
  · cases h

/-! ### New work (R112, R113) -/

theorem State.getX_freshAt (s : State) (c sl : Nat) (p : Thread) (pc : Word) (r : BitVec 6) : (s.freshAt c sl p pc).getX r = 0#64 := by
  unfold Thread.getX
  split
  · rfl
  · exact Vector.getElem_replicate _

section
variable (sl : Nat)

theorem State.core_startWork_self : (s.startWork sl w own).core s.iss.core = { s.core s.iss.core with
    slots := insertKey (s.core s.iss.core).slots sl (s.workThread sl w own), allotted := some (s.core s.iss.core).cyc } := by
  rw [State.startWork, State.core_modCore_self, State.core_startThread_self]; rfl

theorem State.core_startWork_ne {i : Nat} (h : i ≠ s.iss.core) : (s.startWork sl w own).core i = s.core i := by
  rw [State.startWork, State.core_modCore_ne _ _ h, State.core_startThread_ne s h]

theorem State.thread?_startWork_self : (s.startWork sl w own).thread? s.iss.core sl = some (s.workThread sl w own) := by
  rw [State.thread?, State.core_startWork_self]
  exact lookup_insertKey_self _ _ _

theorem State.thread?_startWork_ne {k : Nat} (h : k ≠ sl) : (s.startWork sl w own).thread? s.iss.core k = s.thread? s.iss.core k := by
  rw [State.thread?, State.core_startWork_self]
  exact lookup_insertKey_ne _ _ h

theorem State.cur_startWork (h : s.iss.slot ≠ sl) : (s.startWork sl w own).cur = s.cur := by
  show ((s.startWork sl w own).thread? s.iss.core s.iss.slot).getD _ = _
  rw [State.thread?_startWork_ne w own sl h]; rfl

theorem State.lmem_startWork (i : Nat) : ((s.startWork sl w own).core i).lmem = (s.core i).lmem := by
  by_cases h : i = s.iss.core
  · subst h; rw [State.core_startWork_self]
  · rw [State.core_startWork_ne w own sl h]

theorem State.SameMemory.startWork : s.SameMemory (s.startWork sl w own) :=
  ⟨fun _ _ => rfl, fun i _ => by rw [State.lmem_startWork], fun _ => rfl⟩

end

/-! ### The end of a fork (R115, R117) -/

section
variable (u : State) (p : Thread) (v : Word) (b : Bool)

theorem State.rx_forked (r : BitVec 6) : (u.forked p d pd v b).rx r = if r = 0#6 then 0#64 else if r = d then v else u.rx r := by
  rw [State.forked, State.rx_wp, State.rx_wx, State.rx, State.addWork, State.cur_modLaunch]; rfl

theorem State.rx_forked_ne {r : BitVec 6} (h : r ≠ d) : (u.forked p d pd v b).rx r = u.rx r := by
  rw [State.rx_forked, if_neg h]
  split
  · next h0 => rw [h0]; rfl
  · rfl

theorem State.rx_forked_self : (u.forked p d pd v b).rx d = if d = 0#6 then 0#64 else v := by rw [State.rx_forked, if_pos rfl]

theorem State.rp_forked (r : BitVec 3) : (u.forked p d pd v b).rp r = if r = 0#3 then true else if r = pd then b else u.rp r := by
  rw [State.forked, State.rp_wp, State.rp_wx, State.rp, State.addWork, State.cur_modLaunch]; rfl

theorem State.rp_forked_self_true : (u.forked p d pd v true).rp pd = true := by rw [State.rp_forked, if_pos rfl, ite_self]

theorem State.rp_forked_ne {r : BitVec 3} (h : r ≠ pd) : (u.forked p d pd v b).rp r = u.rp r := by
  rw [State.rp_forked, if_neg h]
  split
  · next h0 => rw [h0]; rfl
  · rfl

theorem State.rq_forked (r : BitVec 3) : (u.forked p d pd v b).rq r = u.rq r := by
  rw [State.forked, State.rq_wp, State.rq_wx, State.rq, State.addWork, State.cur_modLaunch]; rfl

/-- The end of a fork changes the issuing thread and its launch. -/
theorem State.forked_eq : u.forked p d pd v b =
    (u.addWork p.dom p.launch 1).setThread u.iss.core u.iss.slot (u.forked p d pd v b).cur := by
  have hiss : (u.addWork p.dom p.launch 1).iss = u.iss := State.iss_modLaunch u _ _ _
  rw [← hiss, State.forked, State.wp, State.wx, State.modCur_modCur]
  exact State.modCur_frame_eq _ _

theorem State.thread?_forked_ne {k : Nat} (h : k ≠ u.iss.slot) : (u.forked p d pd v b).thread? u.iss.core k = u.thread? u.iss.core k := by
  rw [State.forked_eq, State.thread?_setThread_ne _ _ fun hh => h hh.2, State.addWork, State.thread?_modLaunch]

theorem State.net_forked : (u.forked p d pd v b).net = u.net := State.net_modLaunch u _ _ _

theorem State.cache_forked (a : Nat) : (u.forked p d pd v b).cache a = u.cache a := State.cache_modLaunch u _ _ _ a

theorem State.iss_forked : (u.forked p d pd v b).iss = u.iss := State.iss_modLaunch u _ _ _

/-- Of a core the end of a fork changes the slots. -/
theorem State.core_forked (i : Nat) : (u.forked p d pd v b).core i = { u.core i with slots := ((u.forked p d pd v b).core i).slots } := by
  rw [State.forked_eq]
  by_cases h : i = u.iss.core
  · subst h; rw [State.core_setThread_self, State.addWork, State.core_modLaunch]
  · rw [State.core_setThread_ne _ h, State.addWork, State.core_modLaunch]

theorem State.SameMemory.forked : u.SameMemory (u.forked p d pd v b) := by
  rw [State.forked_eq]
  exact (State.SameMemory.modLaunch u _ _ _).trans (State.SameMemory.setThread _ _ _ _)

theorem State.lookup_forked : lookup ((u.forked p d pd v b).dom p.dom).launches p.launch =
    (lookup (u.dom p.dom).launches p.launch).map fun l => { l with work := l.work + 1 } := State.lookup_modLaunch_self u _ _ _

theorem State.moreWork_forked (hdom : u.dom s.cur.dom = s.dom s.cur.dom) : moreWork s (u.forked s.cur d pd v b) := by
  intro l hl
  rw [State.lookup_forked, hdom, hl]; rfl

end

/-! ### A push (R130 to R132, R273) -/

/-- Between `u` and `v` local memory of cores, their deques and caches have changed. -/
structure DequeStep (u v : State) : Prop where
  core : ∀ c, v.core c = { u.core c with lmem := (v.core c).lmem, lpoison := (v.core c).lpoison, deques := (v.core c).deques }
  dom : ∀ d, v.dom d = u.dom d
  iss : v.iss = u.iss

namespace DequeStep
variable {u v x : State}

theorem refl (u : State) : DequeStep u u := ⟨fun _ => rfl, fun _ => rfl, rfl⟩
theorem trans (h : DequeStep u v) (h' : DequeStep v x) : DequeStep u x :=
  ⟨fun c => by rw [h'.core, h.core], fun d => by rw [h'.dom, h.dom], by rw [h'.iss, h.iss]⟩
theorem thread? (h : DequeStep u v) (c sl : Nat) : v.thread? c sl = u.thread? c sl := by rw [State.thread?, h.core]; rfl
theorem cur (h : DequeStep u v) : v.cur = u.cur := by rw [State.cur, State.thread, h.iss, h.thread?]; rfl
theorem rx (h : DequeStep u v) (r : BitVec 6) : v.rx r = u.rx r := by rw [State.rx, h.cur]; rfl
theorem rp (h : DequeStep u v) (r : BitVec 3) : v.rp r = u.rp r := by rw [State.rp, h.cur]; rfl
theorem rq (h : DequeStep u v) (r : BitVec 3) : v.rq r = u.rq r := by rw [State.rq, h.cur]; rfl

theorem localWrite (u : State) (c a n x : Nat) : DequeStep u (u.localWrite c a n x) :=
  ⟨fun i => by rw [State.core_localWrite], fun _ => rfl, rfl⟩

theorem setDeque (u : State) (c n : Nat) (q : List Item) : DequeStep u (u.modCore c fun k => k.setDeque n q) := by
  refine ⟨fun i => ?_, fun _ => rfl, rfl⟩
  by_cases h : i = c
  · subst h; rw [State.core_modCore_self]; rfl
  · rw [State.core_modCore_ne u _ h]

end DequeStep

theorem Core.deque_setDeque_self (k : Core) (n : Nat) (q : List Item) : (k.setDeque n q).deque n = q := by
  rw [Core.deque, Core.setDeque, lookup_insertKey_self]; rfl

theorem Core.deque_setDeque_ne (k : Core) {n j : Nat} (h : j ≠ n) (q : List Item) : (k.setDeque n q).deque j = k.deque j := by
  rw [Core.deque, Core.setDeque, lookup_insertKey_ne _ _ h]; rfl

/-- A spill moves entries of one deque and loses none (R131). -/
theorem State.spillOldest_step (c d : Nat) : DequeStep s (s.spillOldest c d) ∧ (∀ a, (s.spillOldest c d).cache a = s.cache a) ∧
    ∀ n, (((s.spillOldest c d).core c).deque n).length = ((s.core c).deque n).length := by
  unfold State.spillOldest
  dsimp only
  split
  · exact ⟨.refl s, fun _ => rfl, fun _ => rfl⟩
  · split
    · exact ⟨.refl s, fun _ => rfl, fun _ => rfl⟩
    · next n it _ =>
      split
      · exact ⟨.refl s, fun _ => rfl, fun _ => rfl⟩
      · refine ⟨(DequeStep.localWrite s c _ 64 _).trans (.setDeque _ c n _), fun _ => rfl, fun j => ?_⟩
        rw [State.core_modCore_self]
        by_cases hj : j = n
        · subst hj; rw [Core.deque_setDeque_self, List.length_map]
        · rw [Core.deque_setDeque_ne _ hj, State.core_localWrite]; rfl

theorem State.spillOldest_room {c d : Nat} (h : (s.core c).stored.length ≤ 64) : s.spillOldest c d = s := if_pos h

/-- The item that a push of the issuing thread puts at the bottom (R129, R273). -/
def State.pushedItem (s : State) (w : List Word) (more : List Nat) : Item :=
  ⟨w, none, some (s.releaseEvent s.curAgent s.curLaunch.pushScope).2, s.curOutstanding ++ more, s.nextId⟩

/-- A push where no DQRUN waits: the release is counted, and the item stands at the bottom of the deque (R130, R140). -/
theorem State.pushItem_eq (h : s.dqrunSlot s.iss.core s.cur.launch = none) (more : List Nat) : s.pushItem w more =
    ({ s.countRelease s.curAgent with nextId := s.nextId + 1 }.modCore s.iss.core fun k => k.setDeque s.cur.launch
      (s.pushedItem w more :: (s.core s.iss.core).deque s.cur.launch)).spillOldest s.iss.core s.cur.dom := by
  have hnone : (s.releaseEvent s.curAgent s.curLaunch.pushScope).1.dqrunSlot s.iss.core s.cur.launch = none := h
  rw [State.pushItem]
  dsimp only
  rw [hnone]
  rfl

/-- The state of a push before anything spills. -/
theorem State.pushItem_step (h : s.dqrunSlot s.iss.core s.cur.launch = none) (more : List Nat) :
    DequeStep s (s.pushItem w more) ∧ (∀ a, (s.pushItem w more).cache a = (s.countRelease s.curAgent).cache a) ∧
    (((s.pushItem w more).core s.iss.core).deque s.cur.launch).length = ((s.core s.iss.core).deque s.cur.launch).length + 1 := by
  have hset := DequeStep.setDeque { s.countRelease s.curAgent with nextId := s.nextId + 1 } s.iss.core s.cur.launch
    (s.pushedItem w more :: (s.core s.iss.core).deque s.cur.launch)
  obtain ⟨hstep, hcache, hlen⟩ := State.spillOldest_step (s := { s.countRelease s.curAgent with nextId := s.nextId + 1 }.modCore s.iss.core
    fun k => k.setDeque s.cur.launch (s.pushedItem w more :: (s.core s.iss.core).deque s.cur.launch)) s.iss.core s.cur.dom
  rw [State.pushItem_eq w h]
  refine ⟨DequeStep.trans ⟨hset.core, hset.dom, hset.iss⟩ hstep, hcache, ?_⟩
  rw [hlen, State.core_modCore_self, Core.deque_setDeque_self, List.length_cons]

/-- With room in the core's store a push moves nothing (R131). -/
theorem State.pushItem_room (h : s.dqrunSlot s.iss.core s.cur.launch = none) (more : List Nat) (hroom : StoreHasRoom s) :
    s.pushItem w more = { s.countRelease s.curAgent with nextId := s.nextId + 1 }.modCore s.iss.core fun k => k.setDeque s.cur.launch
      (s.pushedItem w more :: (s.core s.iss.core).deque s.cur.launch) := by
  rw [State.pushItem_eq w h]
  refine State.spillOldest_room ?_
  rw [State.core_modCore_self]
  exact hroom (s.pushedItem w more) rfl

theorem pushed_pushItem (h : s.dqrunSlot s.iss.core s.cur.launch = none) (more : List Nat) :
    pushed s (s.pushItem w more) w (s.curOutstanding ++ more) := by
  obtain ⟨-, hcache, hlen⟩ := State.pushItem_step w h more
  have hrel := s.relcnt_countRelease s.curAgent
  have hlines := s.lines_countRelease s.curAgent
  refine ⟨fun hroom => ⟨s.nextId, ?_, fun k hk => ?_⟩, hlen, ?_, ?_⟩
  · rw [hcache]
    rw [State.pushItem_room w h more hroom, State.core_modCore_self, Core.deque_setDeque_self]
    rfl
  · rw [State.pushItem_room w h more hroom, State.core_modCore_self, Core.deque_setDeque_ne _ hk]
    rfl
  · rw [hcache]; exact hrel
  · rw [hcache]; exact hlines

/-- With room in the core's store a push changes no memory (R131). -/
theorem sameMemory_pushItem (h : s.dqrunSlot s.iss.core s.cur.launch = none) (more : List Nat) (hroom : StoreHasRoom s) :
    s.SameMemory { s.pushItem w more with caches := s.caches } := by
  rw [State.pushItem_room w h more hroom]
  obtain ⟨h1, h2, -⟩ := State.SameMemory.modCore { s.countRelease s.curAgent with nextId := s.nextId + 1 } s.iss.core
    (g := fun k => k.setDeque s.cur.launch (s.pushedItem w more :: (s.core s.iss.core).deque s.cur.launch)) rfl
  exact ⟨h1, h2, fun _ => rfl⟩

theorem State.SameMemory.trans_of_caches {u t : State} (h : s.SameMemory { u with caches := s.caches }) (h' : u.SameMemory t) :
    s.SameMemory { t with caches := s.caches } := by
  obtain ⟨hd, hc, -⟩ := h
  obtain ⟨hd', hc', -⟩ := h'
  exact ⟨fun d a => (hd' d a).trans (hd d a), fun c a => (hc' c a).trans (hc c a), fun _ => rfl⟩

/-- What has been pushed is still so once the fork has ended. -/
theorem pushed.forked {t : State} {after : List Nat} (h : pushed s t w after) (p : Thread) (v : Word) (b : Bool) :
    pushed s (t.forked p d pd v b) w after := by
  have hdeque (i n : Nat) : ((t.forked p d pd v b).core i).deque n = (t.core i).deque n := by rw [State.core_forked]; rfl
  unfold pushed at h ⊢
  simp only [hdeque, State.cache_forked]
  exact h

/-! ### What a fork leaves of the issuing core's threads (R112, R117) -/

/-- A fork that has started new work tells in X[D] which thread it is, and sets P[PD]. -/
structure StartedBy (s t : State) (d : BitVec 6) (pd : BitVec 3) (sl : Nat) (y : Thread) : Prop where
  new : t.thread? s.iss.core sl = some y
  others : ∀ k, k ≠ sl → k ≠ s.iss.slot → t.thread? s.iss.core k = s.thread? s.iss.core k
  dest : t.rx d = if d = 0#6 then 0#64 else (tidOf s.iss.core sl).setWidth 64
  pred : t.rp pd = true
  rx : ∀ r, r ≠ d → t.rx r = s.rx r
  rp : ∀ r, r ≠ pd → t.rp r = s.rp r
  rq : ∀ r, t.rq r = s.rq r
  work : moreWork s t

theorem StartedBy.of_startWork {sl : Nat} (hne : s.iss.slot ≠ sl) {v : State} (hv : DequeStep (s.startWork sl w own) v) :
    StartedBy s (v.forked s.cur d pd ((tidOf s.iss.core sl).setWidth 64) true) d pd sl (s.workThread sl w own) := by
  have hiss : v.iss = s.iss := hv.iss
  have hcur : v.cur = s.cur := hv.cur.trans (State.cur_startWork w own sl hne)
  have hthread {k : Nat} (h : k ≠ s.iss.slot) (x : Word) (b : Bool) :
      (v.forked s.cur d pd x b).thread? s.iss.core k = (s.startWork sl w own).thread? s.iss.core k := by
    rw [← hiss] at h ⊢
    rw [State.thread?_forked_ne _ _ _ _ _ _ h, hv.thread?]
  refine ⟨?_, fun k hk hks => ?_, State.rx_forked_self .., State.rp_forked_self_true .., fun r hr => ?_, fun r hr => ?_, fun r => ?_, ?_⟩
  · rw [hthread (fun h => hne h.symm), State.thread?_startWork_self]
  · rw [hthread hks, State.thread?_startWork_ne w own sl hk]
  · rw [State.rx_forked_ne _ _ _ _ _ _ hr, State.rx, hcur]; rfl
  · rw [State.rp_forked_ne _ _ _ _ _ _ hr, State.rp, hcur]; rfl
  · rw [State.rq_forked, State.rq, hcur]; rfl
  · exact State.moreWork_forked _ _ _ _ _ (hv.dom _)

/-- A fork that has pushed its work tells all ones in X[D]. -/
structure PushedBy (s t : State) (d : BitVec 6) (pd : BitVec 3) (b : Bool) : Prop where
  others : ∀ k, k ≠ s.iss.slot → t.thread? s.iss.core k = s.thread? s.iss.core k
  dest : t.rx d = if d = 0#6 then 0#64 else BitVec.allOnes 64
  pred : t.rp pd = (pd == 0#3 || b)
  rx : ∀ r, r ≠ d → t.rx r = s.rx r
  rp : ∀ r, r ≠ pd → t.rp r = s.rp r
  rq : ∀ r, t.rq r = s.rq r
  work : moreWork s t

theorem PushedBy.of_step {v : State} (hv : DequeStep s v) (b : Bool) :
    PushedBy s (v.forked s.cur d pd (BitVec.allOnes 64) b) d pd b := by
  have hiss : v.iss = s.iss := hv.iss
  refine ⟨fun k hk => ?_, State.rx_forked_self .., ?_, fun r hr => ?_, fun r hr => ?_, fun r => ?_, ?_⟩
  · rw [← hiss] at hk ⊢
    rw [State.thread?_forked_ne _ _ _ _ _ _ hk, hv.thread?]
  · exact (congrArg (fun x : Thread => x.getP pd) (State.cur_modCur _ _)).trans (Thread.getP_setP_self _ _ _)
  · rw [State.rx_forked_ne _ _ _ _ _ _ hr, hv.rx]
  · rw [State.rp_forked_ne _ _ _ _ _ _ hr, hv.rp]
  · rw [State.rq_forked, hv.rq]
  · exact State.moreWork_forked _ _ _ _ _ (hv.dom _)

/-- What has been pushed is still so once registers of the issuing thread have been written. -/
theorem pushed.modCur {t : State} {after : List Nat} (h : pushed s t w after) (g : Thread → Thread) : pushed s (t.modCur g) w after := by
  have hdeque (i n : Nat) : ((t.modCur g).core i).deque n = (t.core i).deque n := by
    rw [State.modCur_eq]
    by_cases hi : i = t.iss.core
    · subst hi; rw [State.core_setThread_self]; rfl
    · rw [State.core_setThread_ne _ hi]
  unfold pushed at h ⊢
  simp only [hdeque, State.cache_modCur]
  exact h

theorem State.thread?_modCur_ne (u : State) {k : Nat} (h : k ≠ u.iss.slot) (g : Thread → Thread) :
    (u.modCur g).thread? u.iss.core k = u.thread? u.iss.core k := State.thread?_setThread_ne _ _ fun hh => h hh.2

/-- A fork that is refused writes X[D] and P[PD] and nothing else (R117). -/
theorem refused_frame (s : State) (d : BitVec 6) (pd : BitVec 3) (v : Word) : let t := (s.wx d v).wp pd false
    t.rx d = (if d = 0#6 then 0#64 else v) ∧ t.rp pd = (pd == 0#3) ∧ s.Frame t [d] [pd] [] [] := by
  intro t
  have hframe : s.Frame (s.modCur fun x => (x.setX d v).setP pd false) [d] [pd] [] [] := by
    refine State.Frame.modCur s _ (fun r hr => ?_) (fun r hr => ?_) (fun r _ => ?_) (fun r _ => ?_) ?_
    · rw [Thread.getX_setP, Thread.getX_setX_ne _ _ (List.ne_of_not_mem_cons hr)]
    · rw [Thread.getP_setP_ne _ _ (List.ne_of_not_mem_cons hr), Thread.getP_setX]
    · rw [Thread.getF_setP, Thread.getF_setX]
    · rw [Thread.getQ_setP, Thread.getQ_setX]
    · rw [Thread.setP_eq, Thread.setX_eq]
  refine ⟨?_, ?_, ?_⟩
  · rw [State.rx_wp, State.rx_wx, if_pos rfl]
  · exact (congrArg (fun x : Thread => x.getP pd) (State.cur_modCur (s.wx d v) _)).trans (Thread.getP_setP_self _ _ _ |>.trans (Bool.or_false _))
  · have htwice : t = s.modCur fun x => (x.setX d v).setP pd false := State.modCur_modCur s _ _
    rw [htwice]
    exact hframe

end Sys2Proof.Machine
end

section
/-! PROOFS. O31: FORK, FORK.J and the updates of join counters (R112, R115, R117, R118, R130). -/
namespace Sys2Proof.Machine

variable {s : State}

/-! ### The thread of a fork (R113, R117) -/

/-- New work of a closure item starts at the target with the words of the item in x1 to x6 (R117, R129). -/
theorem State.workThread_closure (sl : Nat) (pc : Word) (disp : BitVec 37) (slot : BitVec 3) {args : List Word} (hargs : args.length = 5)
    (ctr : Word) : let y := s.workThread sl (closureItem (branchTarget pc disp slot) args ctr) false
    y = { freshThread s s.cur s.iss.core sl s.nextId (branchTarget pc disp slot) with x := y.x } ∧
    ∀ r : BitVec 6, y.getX r = if 1 ≤ r.toNat ∧ r.toNat ≤ 6 then (args ++ [ctr]).getD (r.toNat - 1) 0#64 else 0#64 := by
  obtain ⟨-, hstart, hkind⟩ := closureItem_eq pc disp slot args ctr
  obtain ⟨w, hw⟩ : ∃ w, w = closureItem (branchTarget pc disp slot) args ctr := ⟨_, rfl⟩
  have hwords : [w.getD 1 0, w.getD 2 0, w.getD 3 0, w.getD 4 0, w.getD 5 0, w.getD 6 0] = args ++ [ctr] := by
    match args, hargs with
    | [a, b, c, d, e], _ => rw [hw]; rfl
  rw [← hw] at hstart hkind ⊢
  have hregs (t : Thread) : itemRegs w t = t.setXs 1#6 (args ++ [ctr]) := by
    rw [← hwords, itemRegs, hkind]
    rfl
  have hthread : s.workThread sl w false =
      (s.freshAt s.iss.core sl s.cur (branchTarget pc disp slot)).setXs 1#6 (args ++ [ctr]) := by
    rw [State.workThread, hstart, workRegs, if_neg Bool.false_ne_true, hregs]
  intro y
  refine ⟨?_, fun r => ?_⟩
  · show s.workThread sl w false = { freshThread _ _ _ _ _ _ with x := (s.workThread sl w false).x }
    rw [hthread]
    exact Thread.setXs_eq _ _ _
  · show (s.workThread sl w false).getX r = _
    rw [hthread, Thread.getX_setXs _ (by decide) (by rw [List.length_append, hargs]; show 1 + (5 + 1) ≤ 64; omega), State.getX_freshAt, List.length_append, hargs]
    exact if_congr (by show 1 ≤ _ ∧ _ < 1 + 6 ↔ _; omega) rfl rfl

/-- The argument words of a fork (R117). -/
theorem State.forkArgs_facts (b : BitVec 6) : (s.forkArgs b).length = 5 ∧
    ∀ k < 5, (s.forkArgs b).getD k 0#64 = if b = 0#6 then 0#64 else s.rx (b + BitVec.ofNat 6 k) := by
  unfold State.forkArgs
  by_cases h : b = 0#6
  · rw [if_pos h]
    refine ⟨rfl, fun k hk => ?_⟩
    rw [if_pos h]
    match k, hk with
    | 0, _ | 1, _ | 2, _ | 3, _ | 4, _ => rfl
  · rw [if_neg h]
    refine ⟨Thread.length_getXs _ _ _, fun k hk => ?_⟩
    rw [if_neg h]
    exact Thread.getD_getXs _ _ hk

theorem list_eq_of_getD {l : List Word} (h : l.length = 5) :
    l = [l.getD 0 0#64, l.getD 1 0#64, l.getD 2 0#64, l.getD 3 0#64, l.getD 4 0#64] := by
  match l, h with
  | [a, b, c, d, e], _ => rfl

/-- The item of a fork by its words (R117, R129). -/
theorem State.closureItem_forkArgs (b : BitVec 6) (pc : Word) (disp : BitVec 37) (slot : BitVec 3) (ctr : Word) :
    let arg (k : Nat) : Word := if b = 0#6 then 0#64 else s.rx (b + BitVec.ofNat 6 k)
    closureItem (branchTarget pc disp slot) (s.forkArgs b) ctr =
      [branchTarget pc disp slot + 2#64, arg 0, arg 1, arg 2, arg 3, arg 4, ctr, 0#64] := by
  intro arg
  obtain ⟨hlen, hget⟩ := s.forkArgs_facts b
  obtain ⟨hitem, -, -⟩ := closureItem_eq pc disp slot (s.forkArgs b) ctr
  rw [hitem, list_eq_of_getD hlen, hget 0 (by decide), hget 1 (by decide), hget 2 (by decide), hget 3 (by decide), hget 4 (by decide)]
  rfl

/-! ### FORK (R117) -/

/-- The words of a fork's new thread: the arguments in x1 to x5, its counter in x6 (R117). -/
theorem State.getD_forkWords (b : BitVec 6) (ctr : Word) : (s.forkArgs b ++ [ctr]).getD 5 0#64 = ctr ∧
    ∀ k < 5, (s.forkArgs b ++ [ctr]).getD k 0#64 = if b = 0#6 then 0#64 else s.rx (b + BitVec.ofNat 6 k) := by
  obtain ⟨hlen, hget⟩ := s.forkArgs_facts b
  refine ⟨?_, fun k hk => ?_⟩
  · rw [List.getD_append_right _ _ _ _ (by omega), hlen]; rfl
  · rw [List.getD_append _ _ _ _ (by omega), hget k hk]

theorem forks : Says.Forks := by
  intro s d b pd disp slot x0 c i pc arg hx0
  have hpc : branchTarget s.iss.pc disp slot = pc := branchTarget_eq _ _ _
  obtain ⟨w, hw⟩ : ∃ w, w = closureItem (branchTarget s.iss.pc disp slot) (s.forkArgs b) 0 := ⟨_, rfl⟩
  have hexec : exec i s = .next (s.forkWith d pd w none false) := by rw [hw]; rfl
  refine ⟨fun sl hfree => ?_, fun hfree hdq hlen hfold => ?_, fun hfree hdq hlen => ?_, fun hfree hpush hfold => .of_loseTurn ?_⟩
  · obtain ⟨hlt, hnone⟩ := State.freeSlot_free hfree
    have hne : s.iss.slot ≠ sl := fun h => by rw [h, hnone] at hx0; cases hx0
    obtain ⟨hlen, -⟩ := s.forkArgs_facts b
    obtain ⟨hctr, harg⟩ := s.getD_forkWords b 0
    obtain ⟨hy, hyx⟩ := s.workThread_closure sl s.iss.pc disp slot hlen 0
    rw [← hw, hpc] at hy
    rw [← hw] at hyx
    have hstart := StartedBy.of_startWork d pd w false hne (DequeStep.refl _)
    rw [State.forkWith_starts d pd w none false hfree] at hexec
    refine ⟨_, _, hexec, hlt, hnone, hstart.new, hy, fun r => ?_, hstart.dest, hstart.pred, hstart.rx, hstart.rp, hstart.others,
      hstart.work, (State.SameMemory.startWork w false sl).trans (State.SameMemory.forked _ _ _ _ _ _)⟩
    rw [hyx]
    by_cases h6 : r.toNat = 6
    · rw [if_pos (by omega), if_neg (by omega), h6, hctr]; rfl
    · by_cases hin : 1 ≤ r.toNat ∧ r.toNat ≤ 5
      · rw [if_pos (by omega), if_pos hin, harg _ (by omega)]
      · rw [if_neg (by omega), if_neg hin]
  · rw [State.forkWith_pushes d pd w none false hfree ((State.canPush_of_room hdq).2 hlen) hfold] at hexec
    obtain ⟨hstep, -, -⟩ := State.pushItem_step w hdq []
    have hpushed := pushed_pushItem w hdq []
    rw [List.append_nil] at hpushed
    have hby := PushedBy.of_step d pd hstep true
    have hitem : w = [pc + 2#64, arg 0, arg 1, arg 2, arg 3, arg 4, 0#64, 0#64] := by
      rw [hw, s.closureItem_forkArgs b s.iss.pc disp slot 0, hpc]; rfl
    refine ⟨_, hexec, ?_, hby.dest, hby.pred.trans (Bool.or_true _), hby.rx, hby.rp, hby.others, hby.work, fun hroom =>
      State.SameMemory.trans_of_caches (sameMemory_pushItem w hdq [] hroom) (State.SameMemory.forked _ _ _ _ _ _)⟩
    rw [← hitem]
    exact pushed.forked d pd w hpushed _ _ _
  · have hfull : s.canPush s.iss.core s.cur = false := Bool.eq_false_iff.2 ((State.canPush_of_room hdq).not.2 (Nat.not_lt.2 hlen))
    rw [State.forkWith_refused d pd w none false hfree hfull] at hexec
    exact ⟨_, hexec, refused_frame s d pd _⟩
  · exact hexec.trans (congrArg Host.Outcome.next (State.forkWith_waits d pd w none false hfree hpush hfold))

/-! ### FORK.J (R117) -/

variable {d a b : BitVec 6} {pd : BitVec 3} {disp : BitVec 37} {slot : BitVec 3}

/-- The increment of a counter in local memory. -/
def State.increased (s : State) (o : Nat) : State := s.localWrite s.iss.core o 8 (s.localRead s.iss.core o 8 + 1)

/-- A counter in local memory has been increased by one, and no other byte has changed. -/
def CountedUp (s t : State) (o : Nat) : Prop :=
  (∀ j < 64, t.lbit o j = (BitVec.ofNat 64 (Memory.read s.curCore.lmem o 8 + 1)).getLsbD j) ∧
  ∀ k, k < o ∨ o + 8 ≤ k → t.lbyte k = s.lbyte k

theorem CountedUp.of_increased {u t : State} {o : Nat} (hiss : u.iss = s.iss) (hlmem : ∀ i, (u.core i).lmem = (s.core i).lmem)
    (ht : ∀ k, t.lbyte k = (u.increased o).lbyte k) : CountedUp s t o := by
  have hread : u.localRead u.iss.core o 8 = Memory.read s.curCore.lmem o 8 := by rw [State.localRead, hlmem, hiss]; rfl
  refine ⟨fun j hj => ?_, fun k hk => ?_⟩
  · rw [State.lbit, ht, ← hread]
    exact u.lbit_localWrite_word hj
  · rw [ht, State.increased, State.lbyte_localWrite_outside u hk, State.lbyte, State.curCore, hlmem, hiss]
    rfl

/-- A request once bytes have been written: one that waits at them looks again (R110). -/
def Msg.afterWrite (m : Msg) (d a n : Nat) : Msg := if m.watches d a n then { m with st := .poked } else m

theorem Msg.afterWrite_facts (m : Msg) (d a n : Nat) : (m.afterWrite d a n).id = m.id ∧ (m.afterWrite d a n).core = m.core ∧
    (m.afterWrite d a n).slot = m.slot ∧ (m.afterWrite d a n).gen = m.gen ∧ (m.afterWrite d a n).kind = m.kind := by
  unfold Msg.afterWrite
  split <;> exact ⟨rfl, rfl, rfl, rfl, rfl⟩

theorem State.net_localWrite (s : State) (c a n v : Nat) : (s.localWrite c a n v).net = s.net.map fun m => m.afterWrite (bankDom c) a n := rfl

/-- A write of local memory ends no request (R264). -/
theorem State.outstanding_localWrite (s : State) (c a n v i sl : Nat) : (s.localWrite c a n v).outstanding i sl = s.outstanding i sl := by
  have hid : ((fun m : Msg => m.id) ∘ fun m : Msg => m.afterWrite (bankDom c) a n) = fun m => m.id :=
    funext fun m => (m.afterWrite_facts (bankDom c) a n).1
  rw [State.outstanding, State.thread_localWrite, State.net_localWrite, List.filter_map, List.map_map, hid, State.outstanding]
  refine congrArg (List.map fun m : Msg => m.id) (congrArg (List.filter · s.net) (funext fun m => ?_))
  obtain ⟨-, hcore, hslot, hgen, hkind⟩ := m.afterWrite_facts (bankDom c) a n
  rw [Function.comp, hcore, hslot, hgen, hkind]

theorem State.stealing_localWrite (s : State) (c a n v i sl : Nat) : (s.localWrite c a n v).stealing i sl = s.stealing i sl := by
  rw [State.stealing, State.net_localWrite, List.any_map, State.stealing]
  refine congrArg (List.any s.net) (funext fun m => ?_)
  obtain ⟨-, hcore, hslot, -, hkind⟩ := m.afterWrite_facts (bankDom c) a n
  rw [Function.comp, hcore, hslot, hkind]

theorem State.dqrunSlot_localWrite (s : State) (c a n v i l : Nat) : (s.localWrite c a n v).dqrunSlot i l = s.dqrunSlot i l := by
  rw [State.dqrunSlot, State.core_localWrite, State.dqrunSlot]
  simp only [State.stealing_localWrite]

theorem StoreHasRoom.increased (h : StoreHasRoom s) (o : Nat) : StoreHasRoom (s.increased o) := by
  intro it hit
  have hcore : (s.increased o).curCore.deques = s.curCore.deques := by
    rw [State.increased, State.curCore, State.iss_localWrite, State.core_localWrite]; rfl
  have hcur : (s.increased o).cur = s.cur := State.cur_localWrite ..
  rw [Core.stored, Core.setDeque, Core.deque, hcore, hcur]
  exact h it hit

/-- What has been pushed after an increment has been pushed since before it. -/
theorem pushed.of_increased {t : State} {o : Nat} {w : List Word} {after : List Nat} (h : pushed (s.increased o) t w after) :
    pushed s t w after := by
  have hdeque (c n : Nat) : ((s.increased o).core c).deque n = (s.core c).deque n := by rw [State.increased, State.core_localWrite]; rfl
  have hcur : (s.increased o).cur = s.cur := State.cur_localWrite ..
  have hagent (c : Nat) : (s.increased o).agentOf c = s.agentOf c := by
    rw [State.agentOf, State.increased, State.core_localWrite]; rfl
  unfold pushed at h ⊢
  simp only [hdeque, hcur, hagent, show (s.increased o).iss = s.iss from rfl, show ∀ a, (s.increased o).cache a = s.cache a from fun _ => rfl,
    show ∀ d n, (s.increased o).launch d n = s.launch d n from fun _ _ => rfl] at h
  obtain ⟨hitem, hrest⟩ := h
  exact ⟨fun hs => hitem (StoreHasRoom.increased hs o), hrest⟩

/-- New work in another slot leaves the issuing thread's releases as they are (R264). -/
theorem State.curReleases_startWork {sl : Nat} (w : List Word) (own : Bool) (hne : s.iss.slot ≠ sl) :
    (s.startWork sl w own).curReleases = s.curReleases := by
  have hthread : (s.startWork sl w own).thread s.iss.core s.iss.slot = s.thread s.iss.core s.iss.slot := State.cur_startWork w own sl hne
  show (s.startWork sl w own).releases s.iss.core s.iss.slot = s.releases s.iss.core s.iss.slot
  rw [State.releases, hthread]
  rfl

/-- Work that a FORK.J starts, in a state that its counter's translation may have led to. -/
theorem exec_forkJ_starts {i : Instr} {u : State} {w : List Word} {pl : Place} {sl : Nat} {x0 : Thread} {ctr : Word}
    (htr : s.Translated u) (hexec : exec i s = .next (u.forkWith d pd w (some pl) false))
    (hw : w = closureItem (branchTarget s.iss.pc disp slot) (s.forkArgs b) ctr) (hx0 : s.thread? s.iss.core s.iss.slot = some x0)
    (hfree : u.freeSlot u.iss.core u.cur = some sl) (hstep : DequeStep (u.startWork sl w false) ((u.startWork sl w false).bumpCounter pl).1) :
    let t := ((u.startWork sl w false).bumpCounter pl).1.forked u.cur d pd ((tidOf u.iss.core sl).setWidth 64) true
    exec i s = .next t ∧ (∃ y, t.thread? s.iss.core sl = some y ∧
      y = { freshThread s s.cur s.iss.core sl u.nextId (branchTarget s.iss.pc disp slot) with x := y.x } ∧ y.getX 6#6 = ctr ∧
      (∀ k : BitVec 6, 1 ≤ k.toNat → k.toNat ≤ 5 →
        y.getX k = if b = 0#6 then 0#64 else s.rx (b + BitVec.ofNat 6 (k.toNat - 1))) ∧
      t.rx d = (if d = 0#6 then 0#64 else (tidOf s.iss.core sl).setWidth 64) ∧ t.rp pd = true ∧ moreWork u t) := by
  intro t
  obtain ⟨-, hnone⟩ := State.freeSlot_free hfree
  obtain ⟨hlen, -⟩ := s.forkArgs_facts b
  obtain ⟨hctr, harg⟩ := s.getD_forkWords b ctr
  have hiss := htr.iss
  have hne : u.iss.slot ≠ sl := fun h => by
    rw [htr.thread?, hiss, ← h, hiss, hx0] at hnone
    cases hnone
  have hstart := StartedBy.of_startWork d pd w false hne hstep
  obtain ⟨hy, hyx⟩ := u.workThread_closure sl s.iss.pc disp slot hlen ctr
  rw [← hw] at hy hyx
  have hcyc : (u.core s.iss.core).cyc = (s.core s.iss.core).cyc := by rw [htr.core]
  have hfresh (pc : Word) : freshThread u u.cur u.iss.core sl u.nextId pc = freshThread s s.cur s.iss.core sl u.nextId pc := by
    rw [freshThread, freshThread, htr.cur, hiss, hcyc, htr.launch]
  rw [hfresh] at hy
  have hcore : u.iss.core = s.iss.core := by rw [hiss]
  have hnew : t.thread? s.iss.core sl = some (u.workThread sl w false) := by rw [← hcore]; exact hstart.new
  have hdest : t.rx d = if d = 0#6 then 0#64 else (tidOf s.iss.core sl).setWidth 64 := by rw [← hcore]; exact hstart.dest
  have hgo := State.forkWith_starts d pd w (some pl) false hfree
  refine ⟨by rw [hexec, hgo]; rfl, u.workThread sl w false, hnew, hy, ?_, fun k h1 h5 => ?_, hdest, hstart.pred, hstart.work⟩
  · rw [hyx]; exact hctr
  · rw [hyx, if_pos (by omega), harg _ (by omega)]

/-- A fork that is refused in a state that its counter's translation may have led to (R117). -/
theorem exec_forkJ_refused {i : Instr} {u : State} {w : List Word} {pl : Place}
    (hexec : exec i s = .next (u.forkWith d pd w (some pl) false)) (hfree : u.freeSlot u.iss.core u.cur = none)
    (hpush : u.canPush u.iss.core u.cur = false) : ∃ t, exec i s = .next t ∧
      t.rx d = (if d = 0#6 then 0#64 else 0xFFFFFFFFFFFFFFFE#64) ∧ t.rp pd = (pd == 0#3) ∧ u.Frame t [d] [pd] [] [] :=
  ⟨_, hexec.trans (congrArg Host.Outcome.next (State.forkWith_refused d pd w (some pl) false hfree hpush)), refused_frame u d pd _⟩

/-- The increment of a counter in a domain, which leaves for its home (R117). -/
def State.counterMsg (s : State) (pa : Nat) : Msg :=
  let s1 := s.flushLine s.curAgent s.cur.dom pa
  { s1.curMsg (.counter false) pa 8 0 with ord := 1, scope := 2, after := s.curReleases ++ sentSince s s1, id := s1.nextId }

theorem State.bumpCounter_global (s : State) (u : State) (pa : Nat) (e : TlbEnt) :
    DequeStep s (s.bumpCounter (.global u pa e)).1 ∧ s.counterMsg pa ∈ (s.bumpCounter (.global u pa e)).1.net := by
  refine ⟨⟨fun c => ?_, fun d => State.dom_flushLine s _ _ _ d, State.iss_flushLine s _ _ _⟩, State.mem_net_post _ _⟩
  show (s.flushLine s.curAgent s.cur.dom pa).core c = _
  rw [State.core_flushLine]
  show _ = { s.core c with
    lmem := ((s.flushLine s.curAgent s.cur.dom pa).core c).lmem, lpoison := ((s.flushLine s.curAgent s.cur.dom pa).core c).lpoison,
    deques := ((s.flushLine s.curAgent s.cur.dom pa).core c).deques }
  rw [State.core_flushLine]

theorem forksWithCounter : Says.ForksWithCounter := by
  intro s d a b pd disp slot x0 c i o pc old arg starts counted refused hx0
  have hpc : branchTarget s.iss.pc disp slot = pc := branchTarget_eq _ _ _
  obtain ⟨w, hw⟩ : ∃ w, w = closureItem (branchTarget s.iss.pc disp slot) (s.forkArgs b) (s.rx a) := ⟨_, rfl⟩
  have hi : exec i s = execForkJ d a b pd disp slot s := exec_forkJ s d a b pd disp slot
  rw [execForkJ, ← hw] at hi
  refine ⟨fun hal => .of_takeTrap ?_, fun hin hfill => ?_, fun s1 pa e hglobal htr => ?_⟩
  · rw [hi, State.place_misaligned hal]; rfl
  · have hexec : exec i s = .next (s.forkWith d pd w (some (.window o)) false) := by rw [hi, State.place_window hin hfill]
    refine ⟨fun sl hfree => ?_, fun hfree hdq => ⟨fun hlen hfold => ?_, fun hlen => ?_⟩⟩
    · have hstep : DequeStep (s.startWork sl w false) ((s.startWork sl w false).increased o) := DequeStep.localWrite _ _ _ _ _
      obtain ⟨hnext, hy⟩ := exec_forkJ_starts (.refl s) hexec hw hx0 hfree hstep
      rw [hpc] at hy
      refine ⟨_, ⟨hnext, hy⟩, CountedUp.of_increased (u := s.startWork sl w false) rfl (State.lmem_startWork w false sl) fun k => ?_⟩
      exact State.SameMemory.lbyte (State.SameMemory.forked d pd _ _ _ _) (State.iss_forked ..) k
    · have hdq' : (s.increased o).dqrunSlot (s.increased o).iss.core (s.increased o).cur.launch = none := by
        rw [State.increased, State.cur_localWrite, State.dqrunSlot_localWrite]; exact hdq
      have hout : (s.increased o).curOutstanding = s.curOutstanding := State.outstanding_localWrite ..
      obtain ⟨hstep, -, -⟩ := State.pushItem_step w hdq' []
      have hpushed := pushed_pushItem w hdq' []
      rw [List.append_nil, hout] at hpushed
      have hby := PushedBy.of_step d pd ((DequeStep.localWrite s s.iss.core o 8 _).trans hstep) true
      have hitem : w = [pc + 2#64, arg 0, arg 1, arg 2, arg 3, arg 4, s.rx a, 0#64] := by
        rw [hw, s.closureItem_forkArgs b s.iss.pc disp slot _, hpc]
      refine ⟨_, hexec.trans (congrArg Host.Outcome.next (State.forkWith_pushes d pd w (some (.window o)) false hfree
        ((State.canPush_of_room hdq).2 hlen) hfold)), fun hroom => ?_, ?_, hby.dest, hby.pred.trans (Bool.or_true _), hby.work⟩
      · obtain ⟨-, hsame, -⟩ := sameMemory_pushItem w hdq' [] (StoreHasRoom.increased hroom o)
        refine CountedUp.of_increased (u := s) rfl (fun _ => rfl) fun k => ?_
        refine (State.SameMemory.lbyte (State.SameMemory.forked d pd _ _ _ _) (State.iss_forked ..) k).trans ?_
        show Memory.get (((s.increased o).pushItem w []).core ((s.increased o).pushItem w []).iss.core).lmem k = _
        rw [hstep.iss]
        exact hsame _ k
      · rw [← hitem]
        exact pushed.forked d pd w (pushed.of_increased hpushed) _ _ _
    · exact exec_forkJ_refused hexec hfree (Bool.eq_false_iff.2 ((State.canPush_of_room hdq).not.2 (Nat.not_lt.2 hlen)))
  · have htrans := State.translated_of_translateCur htr
    have hexec : exec i s = .next (s1.forkWith d pd w (some (.global s1 pa e)) false) := by rw [hi, State.place_global hglobal htr]
    have hcore : s1.iss.core = c := by rw [htrans.iss]
    refine ⟨fun sl hfree => ?_, fun hfree hpush => exec_forkJ_refused hexec (hcore.symm ▸ hfree) (hcore.symm ▸ hpush)⟩
    rw [← hcore] at hfree
    obtain ⟨hstep, hmem⟩ := (s1.startWork sl w false).bumpCounter_global s1 pa e
    obtain ⟨hnext, hy⟩ := exec_forkJ_starts htrans hexec hw hx0 hfree hstep
    rw [hpc] at hy
    refine ⟨_, (s1.startWork sl w false).counterMsg pa, ⟨hnext, hy⟩, ?_, rfl, rfl, rfl, rfl, rfl, fun id hid => ?_⟩
    · rw [State.net_forked]; exact hmem
    · refine List.mem_append_left _ ?_
      have hne : s1.iss.slot ≠ sl := fun h => by
        obtain ⟨-, hnone⟩ := State.freeSlot_free hfree
        rw [← h, htrans.thread?, htrans.iss, hx0] at hnone
        cases hnone
      rw [State.curReleases_startWork w false hne]
      exact hid

/-! ### Join counters at their home (R117, R118) -/

variable {id : Nat} {m : Msg} {down : Bool}

/-- What the home of a counter does with its update, the count of outstanding work and the record of a release after it among it
(R115, R118). -/
def State.counterUpdated (u : State) (m : Msg) (down inval : Bool) : State :=
  if down then ((u.leaveRecord m).subWork m.dom m.launch).reply { m with inval := inval } else u.dropMsg m.id

theorem State.counterUpdated_reqs (u : State) (m : Msg) (down inval : Bool) :
    ((u.counterUpdated m down inval).dom m.dom).reqs = (u.dom m.dom).reqs := by
  unfold State.counterUpdated
  split
  · show (((u.leaveRecord m).subWork m.dom m.launch).dom m.dom).reqs = _
    rw [State.subWork, State.dom_modLaunch]
    exact u.reqs_leaveRecord m
  · rfl

/-- The count after an update. -/
def countAfter (old : Nat) (down : Bool) : Nat := old + if down then 2 ^ 64 - 1 else 1

/-- The update of a counter that no drain holds up (R117, R118, R249). -/
def State.counterDue (s : State) (id : Nat) (m : Msg) (down : Bool) : State :=
  let bad := (s.dom m.dom).poisoned m.pa 8
  let inv := down && s.recOther m
  let u := if bad then s else s.homeStore m.dom m.launch m.pa 8 (countAfter (s.homeRead m.dom m.pa 8) down)
  if down then ((if bad then u else u.leaveRecord m).subWork m.dom m.launch).reply { m with inval := inv && !bad }
  else
    let u := u.dropMsg id
    if bad && (u.thread? m.core m.slot).any fun t => t.gen == m.gen
    then u.raiseLate m.core m.slot .poison false 0 m.pc m.va 0 else u

theorem State.counterDue_clean (hid : m.id = id) (hclean : (s.dom m.dom).poisoned m.pa 8 = false) : s.counterDue id m down =
    (s.homeStore m.dom m.launch m.pa 8 (countAfter (s.homeRead m.dom m.pa 8) down)).counterUpdated m down (down && s.recOther m) := by
  subst hid
  rw [State.counterDue, hclean, State.counterUpdated]
  cases down with
  | true =>
    dsimp only
    rw [if_pos rfl, if_pos rfl, if_neg Bool.false_ne_true, if_neg Bool.false_ne_true, Bool.not_false, Bool.and_true]
  | false =>
    dsimp only
    rw [if_neg Bool.false_ne_true, if_neg Bool.false_ne_true, if_neg Bool.false_ne_true, Bool.false_and, if_neg Bool.false_ne_true]

theorem execJoinCounterUpdate_eq (id : Nat) : execJoinCounterUpdate id s = .next (s.perform id
    (fun k => match k with | .counter _ => true | _ => false) true fun s m => match m.kind with
      | .counter down => match s.readMustWait m with
        | some r => s.holdForDrain m r
        | none => match (if down then s.writeMustWait m else none) with
          | some r => s.holdForDrain m r
          | none => s.counterDue id m down
      | _ => s) := rfl

theorem exec_joinCounterUpdate_due (hat : s.AtHome id true m) (hkind : m.kind = .counter down) (hdrain : ∀ r, ¬mustDrainFirst s m r)
    (hover : ∀ r, ¬mustOverwriteFirst s m r) (hclean : ∀ w, m.pa / 8 ≤ w → 8 * w < m.pa + 8 → w ∉ (s.dom m.dom).poison) :
    exec (.joinCounterUpdate id) s = .next (((s.markServed m).homeStore m.dom m.launch m.pa 8
      (countAfter (Memory.read (s.dom m.dom).mem m.pa 8) down)).counterUpdated m down (down && (s.markServed m).recOther m)) := by
  have hdom := s.dom_markServed m m.dom
  have hpoison : ((s.markServed m).dom m.dom).poisoned m.pa 8 = false := by rw [hdom]; exact Dom.poisoned_eq_false hclean
  have hword : (s.markServed m).homeRead m.dom m.pa 8 = Memory.read (s.dom m.dom).mem m.pa 8 := by rw [State.homeRead, hdom]
  have hdue := State.counterDue_clean (down := down) hat.id_eq hpoison
  rw [hword] at hdue
  have hdo : (match m.kind with
      | .counter down => match (s.markServed m).readMustWait m with
        | some r => (s.markServed m).holdForDrain m r
        | none => match (if down then (s.markServed m).writeMustWait m else none) with
          | some r => (s.markServed m).holdForDrain m r
          | none => (s.markServed m).counterDue id m down
      | _ => s.markServed m) = (s.markServed m).counterDue id m down := by
    rw [hkind, State.readMustWait_markServed hdrain, State.writeMustWait_markServed hover]
    dsimp only
    rw [ite_self]
  rw [exec_joinCounterUpdate, execJoinCounterUpdate_eq, ← hdue]
  refine congrArg Host.Outcome.next ((hat.perform (by rw [hkind]) ((congrArg (fun t => (t.dom m.dom).reqs) hdo).trans ?_)).trans hdo)
  rw [hdue, State.counterUpdated_reqs, State.reqs_homeStore]

theorem Launch.work_logged (l : Launch) (v : Dom) (bytes : List Nat) : (l.logged v bytes).work = l.work := by
  unfold Launch.logged
  split <;> rfl

theorem joinCounters : Says.JoinCounters := by
  intro s id m down hat hid hkind hdrain hover hclean old new
  have hmark := s.markServed_eq m
  have hexec := exec_joinCounterUpdate_due hat hkind hdrain hover hclean
  have hnew : new = BitVec.ofNat 64 (countAfter old down) := by cases down <;> rfl
  have hwrite := (s.markServed m).homeWrite_homeStore m.dom m.launch m.pa 8 (countAfter old down) (f := new.getLsbD) fun j hj => by
    rw [hnew, BitVec.getLsbD_ofNat, decide_eq_true (by omega), Bool.true_and]
  have hlaunches := (s.markServed m).launches_homeStore m.dom m.launch m.pa 8 (countAfter old down) m.launch
  obtain ⟨u, hu⟩ : ∃ u, u = (s.markServed m).homeStore m.dom m.launch m.pa 8 (countAfter old down) := ⟨_, rfl⟩
  have hfound : u.findMsg id ≠ none := by
    rw [hu]
    refine (s.markServed m).findMsg_homeStore m.dom m.launch m.pa 8 _ ?_
    rw [hmark]
    show s.findMsg id ≠ none
    rw [hat.found]
    exact Option.some_ne_none m
  rw [← hu] at hexec hwrite hlaunches
  refine ⟨u, _, hexec, hwrite, ?_, fun hdown => ?_, fun hdown => ?_⟩
  · cases down with
    | true => exact (State.SameMemory.leaveRecord u m).trans ((State.SameMemory.modLaunch _ _ _ _).trans (State.SameMemory.setMsg _ _))
    | false => exact State.SameMemory.dropMsg u _
  · subst hdown
    rw [State.counterUpdated, if_neg Bool.false_ne_true, hat.id_eq]
    exact ⟨State.left_dropMsg rfl id, rfl⟩
  · subst hdown
    rw [State.counterUpdated, if_pos rfl]
    refine ⟨⟨_, State.nowIs_reply ?_ hat.id_eq hfound, rfl⟩, ?_, fun l hl => ?_⟩
    · exact State.net_modLaunch (u.leaveRecord m) _ _ _
    · show lookup (((u.leaveRecord m).subWork m.dom m.launch).dom m.dom).recs _ = _
      rw [State.subWork, State.dom_modLaunch]
      exact u.recs_leaveRecord m
    · show (lookup (((u.leaveRecord m).subWork m.dom m.launch).dom m.dom).launches m.launch).map _ = _
      rw [State.subWork, State.lookup_modLaunch_self, State.leaveRecord, State.dom_setRec_self]
      show ((lookup (u.dom m.dom).launches m.launch).map _).map _ = _
      rw [hlaunches, s.dom_markServed, hl, Option.map_some, if_pos rfl, Option.map_some, Option.map_some, Launch.work_logged]

/-- Settles O31: the updates of a counter at its home, and each outcome of FORK and FORK.J. -/
theorem forksAndJoins : Obligations.ForksAndJoins := ⟨joinCounters, forks, forksWithCounter⟩

end Sys2Proof.Machine
end

section
/-! PROOFS. O38: QFORK (R112, R115, R140, R157). -/
namespace Sys2Proof.Machine

variable {s : State}

/-- The item of a QFORK: its target, the word of X[XA], the window, the traversal and the set (R129, R157). -/
def queryItem (target x win trav : Word) (q : QSet) : List Word :=
  [(target &&& ~~~3#64) ||| 1#64, x, win, trav] ++ (List.range 4).map fun j => q.extractLsb' (64 * j) 64

theorem queryItem_eq (pc : Word) (imm : BitVec 32) (x win trav : Word) (q : QSet) :
    let w := queryItem (qforkTarget pc imm) x win trav q
    w = [qforkTarget pc imm + 1#64, x, win, trav, q.extractLsb' 0 64, q.extractLsb' 64 64, q.extractLsb' 128 64, q.extractLsb' 192 64] ∧
      w.getD 0 0 &&& ~~~3#64 = qforkTarget pc imm ∧ itemKind (w.getD 0 0) = 1 := by
  obtain ⟨v, hv⟩ := qforkTarget_shift pc imm
  obtain ⟨hsum, hstart, hkind⟩ := shiftLeft_two_kind v (k := 1) (by decide)
  rw [hv]
  refine ⟨?_, hstart, ?_⟩
  · rw [queryItem, ← hsum]; rfl
  · show (_ &&& 3#64).toNat = 1
    exact congrArg BitVec.toNat hkind

theorem set_of_quarters (q : QSet) : q.extractLsb' 192 64 ++ q.extractLsb' 128 64 ++ q.extractLsb' 64 64 ++ q.extractLsb' 0 64 = q := by
  apply BitVec.eq_of_getLsbD_eq
  intro j hj
  simp only [BitVec.getLsbD_append, BitVec.getLsbD_extractLsb']
  by_cases h1 : j < 64
  · simp [h1]
  · by_cases h2 : j - 64 < 64
    · simp [h1, h2, show 64 + (j - 64) = j by omega]
    · by_cases h3 : j - 64 - 64 < 64
      · simp [h1, h2, h3, show 128 + (j - 64 - 64) = j by omega]
      · simp [h1, h2, h3, show 192 + (j - 64 - 64 - 64) = j by omega]
        omega

theorem window_mask (v : Word) : v &&& 0xFFFFFFFFFFFF#64 = BitVec.ofNat 64 (v.toNat % 2 ^ 48) := by
  apply BitVec.eq_of_toNat_eq
  rw [BitVec.toNat_and]
  show v.toNat &&& (2 ^ 48 - 1) = _
  rw [Nat.and_two_pow_sub_one_eq_mod]
  exact (Nat.mod_eq_of_lt (lt_trans (Nat.mod_lt _ (by decide)) (by decide))).symm

/-- The registers of a thread before its first bundle (R80). -/
theorem State.getQ_freshAt (c sl : Nat) (p : Thread) (pc : Word) (r : BitVec 3) : (s.freshAt c sl p pc).getQ r = 0#256 :=
  Vector.getElem_replicate _

/-- What a query item makes of the registers of its thread (R129). -/
def Thread.queried (t : Thread) (x win trav : Word) (q : QSet) : Thread :=
  { (t.setX 1#6 x).setQ 0#3 q with qwin := win &&& 0xFFFFFFFFFFFF#64, trav := trav, allot := 1 }

theorem itemRegs_query {w : List Word} {head x win trav : Word} {q : QSet} (hkind : itemKind (w.getD 0 0) = 1)
    (hw : w = [head, x, win, trav, q.extractLsb' 0 64, q.extractLsb' 64 64, q.extractLsb' 128 64, q.extractLsb' 192 64]) (t : Thread) :
    itemRegs w t = t.queried x win trav q := by
  rw [itemRegs, hkind, hw]
  show { (t.setX 1#6 x).setQ 0#3
    (q.extractLsb' 192 64 ++ q.extractLsb' 128 64 ++ q.extractLsb' 64 64 ++ q.extractLsb' 0 64) with
      qwin := win &&& 0xFFFFFFFFFFFF#64, trav := trav, allot := 1 } = _
  rw [set_of_quarters]
  rfl

/-- New work of a query item (R129, R157). -/
theorem State.workThread_query (sl : Nat) (pc : Word) (imm : BitVec 32) (x win trav : Word) (q : QSet) :
    let y := s.workThread sl (queryItem (qforkTarget pc imm) x win trav q) true
    y = { freshThread s s.cur s.iss.core sl s.nextId (qforkTarget pc imm) with
      x := y.x, q := y.q, allot := 1, qwin := BitVec.ofNat 64 (win.toNat % 2 ^ 48), trav := trav } ∧
    (∀ r : BitVec 6, y.getX r = if r = 1#6 then x else if r = 7#6 then BitVec.ofNat 64 (coreNum s.iss.core) else 0#64) ∧
    ∀ r : BitVec 3, y.getQ r = if r = 0#3 then q else 0#256 := by
  obtain ⟨hitem, hstart, hkind⟩ := queryItem_eq pc imm x win trav q
  obtain ⟨w, hw⟩ : ∃ w, w = queryItem (qforkTarget pc imm) x win trav q := ⟨_, rfl⟩
  rw [← hw] at hitem hstart hkind ⊢
  obtain ⟨t, ht⟩ : ∃ t, t = s.freshAt s.iss.core sl s.cur (qforkTarget pc imm) := ⟨_, rfl⟩
  have hthread : s.workThread sl w true = (t.queried x win trav q).setX 7#6 (BitVec.ofNat 64 (coreNum s.iss.core)) := by
    rw [State.workThread, hstart, workRegs, if_pos rfl, ← ht, itemRegs_query hkind hitem]
  intro y
  have hy : y = (t.queried x win trav q).setX 7#6 (BitVec.ofNat 64 (coreNum s.iss.core)) := hthread
  refine ⟨?_, fun r => ?_, fun r => ?_⟩
  · rw [hy, Thread.setX_eq, Thread.queried, Thread.setX_eq t, ht, window_mask]
    rfl
  · rw [hy]
    have hfirst : (t.queried x win trav q).getX r = (t.setX 1#6 x).getX r := rfl
    have hzero : t.getX r = 0#64 := by rw [ht]; exact s.getX_freshAt _ _ _ _ _
    rw [Thread.getX_setX, hfirst, Thread.getX_setX, hzero]
    by_cases h0 : r = 0#6
    · subst h0; rfl
    · by_cases h1 : r = 1#6
      · subst h1; rfl
      · rw [if_neg h0, if_neg h0, if_neg h1, if_neg h1]
  · rw [hy, Thread.getQ_setX]
    have hset : (t.queried x win trav q).getQ r = (t.setQ 0#3 q).getQ r := by
      show ((t.setX 1#6 x).setQ 0#3 q).getQ r = _
      rw [Thread.getQ_setQ, Thread.getQ_setX, ← Thread.getQ_setQ]
    rw [hset, Thread.getQ_setQ, ht, s.getQ_freshAt]

theorem exec_qfork_eq {qa : BitVec 3} {xa xb : BitVec 6} {pd : BitVec 3} {imm : BitVec 32} :
    exec (.qfork qa xa xb pd imm) s = .next (s.needQ [qa] fun s =>
      let w := queryItem (qforkTarget s.iss.pc imm) (s.rx xa) s.cur.qwin s.cur.trav (s.rq qa)
      match s.freeSlot s.iss.core s.cur with
      | some _ => (s.forkWith xb pd w none true).wq qa 0
      | none =>
        if s.canPush s.iss.core s.cur then
          if s.foldBlocks s.curAgent then s.loseTurn else ((s.forkWith xb pd w none true).wp pd false).wq qa 0
        else s.forkWith xb pd w none true) := rfl

/-- Settles O38: QFORK by the outcomes of a fork whose item is its set. -/
theorem queryForks : Obligations.QueryForks := by
  intro s qa xa xb pd imm x0 c i disp pc q hx0
  have hpc : qforkTarget s.iss.pc imm = pc := qforkTarget_eq _ _
  obtain ⟨w, hw⟩ : ∃ w, w = queryItem (qforkTarget s.iss.pc imm) (s.rx xa) s.cur.qwin s.cur.trav (s.rq qa) := ⟨_, rfl⟩
  refine NeedsQ.of_needQ exec_qfork_eq fun hexec => ?_
  dsimp only at hexec
  rw [← hw] at hexec
  refine ⟨fun sl hfree => ?_, fun hfree hdq hlen hfold => ?_, fun hfree hpush hfold => .of_loseTurn ?_, fun hfree hdq hlen => ?_⟩
  · obtain ⟨-, hnone⟩ := State.freeSlot_free hfree
    have hne : s.iss.slot ≠ sl := fun h => by rw [h, hnone] at hx0; cases hx0
    obtain ⟨hy, hyx, hyq⟩ := s.workThread_query sl s.iss.pc imm (s.rx xa) s.cur.qwin s.cur.trav (s.rq qa)
    rw [← hw, hpc] at hy
    rw [← hw] at hyx hyq
    have hstart := StartedBy.of_startWork xb pd w true hne (DequeStep.refl _)
    rw [hfree] at hexec
    dsimp only at hexec
    rw [State.forkWith_starts xb pd w none true hfree] at hexec
    obtain ⟨t, ht⟩ : ∃ t, t = ((s.startWork sl w true).bump none).1.forked s.cur xb pd ((tidOf s.iss.core sl).setWidth 64) true := ⟨_, rfl⟩
    have hiss : t.iss = s.iss := by rw [ht]; exact State.iss_forked ..
    have hmem : s.SameMemory t := by
      rw [ht]
      exact (State.SameMemory.startWork w true sl).trans (State.SameMemory.forked _ _ _ _ _ _)
    have hstarted : StartedBy s t xb pd sl (s.workThread sl w true) := by rw [ht]; exact hstart
    rw [← ht] at hexec
    refine ⟨t.wq qa 0, s.workThread sl w true, hexec, hnone, ?_, hy, hyx, hyq, ?_, ?_, ?_, fun r hr => ?_, fun r hr => ?_, fun r hr => ?_,
      hstarted.work, hmem.trans (State.SameMemory.modCur t _)⟩
    · have hother := t.thread?_modCur_ne (k := sl) (by rw [hiss]; exact fun h => hne h.symm) fun x => x.setQ qa 0
      rw [hiss] at hother
      exact hother.trans hstarted.new
    · rw [State.rx_wq]; exact hstarted.dest
    · rw [State.rp_wq]; exact hstarted.pred
    · rw [State.rq_wq, if_pos rfl]; rfl
    · rw [State.rx_wq]; exact hstarted.rx r hr
    · rw [State.rp_wq]; exact hstarted.rp r hr
    · rw [State.rq_wq, if_neg hr]; exact hstarted.rq r
  · have hroom := (State.canPush_of_room hdq).2 hlen
    obtain ⟨hstep, -, -⟩ := State.pushItem_step w hdq []
    have hpush := pushed_pushItem w hdq []
    rw [List.append_nil] at hpush
    have hby := PushedBy.of_step xb pd hstep true
    have hsame := State.SameMemory.forked xb pd (s.pushItem w []) s.cur (BitVec.allOnes 64) true
    have hitem : w = [pc + 1#64, s.rx xa, s.cur.qwin, s.cur.trav, q 0, q 1, q 2, q 3] := by
      obtain ⟨hwords, -, -⟩ := queryItem_eq s.iss.pc imm (s.rx xa) s.cur.qwin s.cur.trav (s.rq qa)
      rw [hw, hwords, hpc]
    rw [hfree] at hexec
    dsimp only at hexec
    rw [if_pos hroom, if_neg (show ¬s.foldBlocks s.curAgent = true from fun h => Bool.false_ne_true (hfold.symm.trans h)),
      State.forkWith_pushes xb pd w none true hfree hroom hfold] at hexec
    have hpushed := pushed.forked xb pd w hpush s.cur (BitVec.allOnes 64) true
    obtain ⟨t, ht⟩ : ∃ t, t = (s.pushItem w []).forked s.cur xb pd (BitVec.allOnes 64) true := ⟨_, rfl⟩
    rw [← ht] at hpushed hby hsame
    replace hexec : exec i s = .next ((t.wp pd false).wq qa 0) := by rw [hexec, ht]; rfl
    refine ⟨(t.wp pd false).wq qa 0, hexec, ?_, ?_, ?_, ?_, fun r hr => ?_, fun r hr => ?_, fun r hr => ?_, hby.work, fun hroom =>
      State.SameMemory.trans_of_caches (sameMemory_pushItem w hdq [] hroom) (hsame.trans ((State.SameMemory.modCur t _).trans
        (State.SameMemory.modCur _ _)))⟩
    · rw [← hitem]
      exact pushed.modCur w (pushed.modCur w hpushed _) _
    · rw [State.rx_wq, State.rx_wp]; exact hby.dest
    · rw [State.rp_wq]
      exact (congrArg (fun x : Thread => x.getP pd) (State.cur_modCur t _)).trans
        ((Thread.getP_setP_self _ _ _).trans (Bool.or_false _))
    · rw [State.rq_wq, if_pos rfl]; rfl
    · rw [State.rx_wq, State.rx_wp]; exact hby.rx r hr
    · rw [State.rp_wq]
      exact (congrArg (fun x : Thread => x.getP r) (State.cur_modCur t _)).trans ((Thread.getP_setP_ne _ _ hr).trans (hby.rp r hr))
    · rw [State.rq_wq, if_neg hr, State.rq_wp]; exact hby.rq r
  · rw [hfree] at hexec
    dsimp only at hexec
    rw [if_pos hpush, if_pos (c := s.foldBlocks s.curAgent = true) hfold] at hexec
    exact hexec
  · have hfull : s.canPush s.iss.core s.cur = false := Bool.eq_false_iff.2 ((State.canPush_of_room hdq).not.2 (Nat.not_lt.2 hlen))
    rw [hfree] at hexec
    dsimp only at hexec
    rw [hfull, if_neg Bool.false_ne_true, State.forkWith_refused xb pd w none true hfree hfull] at hexec
    exact ⟨_, hexec, refused_frame s xb pd _⟩

end Sys2Proof.Machine
end

section
/-! PROOFS. Lines that fill an L1 data cache: which bytes and words masks pick, and what a fill leaves in the cache and on the network
(R242, R244, R249). -/
namespace Sys2Proof.Machine

/-! ### Masks of bytes and words -/

/-- The sum of the bytes of a mask that stand below byte `n`. -/
def maskSum (m : BitVec 128) (n : Nat) : Nat :=
  (List.range n).foldl (fun r i => if m.getLsbD i then r + 255 * 2 ^ (8 * i) else r) 0

theorem maskSum_succ (m : BitVec 128) (n : Nat) :
    maskSum m (n + 1) = if m.getLsbD n then maskSum m n + 255 * 2 ^ (8 * n) else maskSum m n := by
  rw [maskSum, List.range_succ, List.foldl_append]
  rfl

theorem maskSum_lt (m : BitVec 128) (n : Nat) : maskSum m n < 2 ^ (8 * n) := by
  induction n with
  | zero => exact Nat.one_pos
  | succ n ih =>
    have hpow : 2 ^ (8 * (n + 1)) = 256 * 2 ^ (8 * n) := by rw [Nat.mul_succ, Nat.pow_add, Nat.mul_comm]
    rw [maskSum_succ, hpow]
    split <;> omega

/-- Each byte of a mask is wholly in the sum or not at all. -/
theorem testBit_maskSum (m : BitVec 128) (n k : Nat) : (maskSum m n).testBit k = (decide (k < 8 * n) && m.getLsbD (k / 8)) := by
  induction n with
  | zero => rw [show maskSum m 0 = 0 from rfl, Nat.zero_testBit]; rfl
  | succ n ih =>
    have hbyte : maskSum m (n + 1) = 2 ^ (8 * n) * (if m.getLsbD n then 2 ^ 8 - 1 else 0) + maskSum m n := by
      rw [maskSum_succ]
      split
      · rw [Nat.add_comm, Nat.mul_comm, show 255 = 2 ^ 8 - 1 from rfl]
      · rw [Nat.mul_zero, Nat.zero_add]
    rw [hbyte, Nat.testBit_two_pow_mul_add _ (maskSum_lt m n)]
    by_cases hlow : k < 8 * n
    · rw [if_pos hlow, ih, decide_eq_true hlow, decide_eq_true (by omega)]
    · rw [if_neg hlow]
      by_cases htop : k < 8 * (n + 1)
      · rw [show k / 8 = n by omega, decide_eq_true htop]
        cases m.getLsbD n with
        | false => exact Nat.zero_testBit _
        | true => rw [if_pos rfl, Nat.testBit_two_pow_sub_one, decide_eq_true (by omega)]; rfl
      · rw [decide_eq_false htop, Bool.false_and]
        split
        · rw [Nat.testBit_two_pow_sub_one, decide_eq_false (by omega)]
        · exact Nat.zero_testBit _

theorem getLsbD_mergeBytes (m : BitVec 128) (a b : BitVec 1024) {k : Nat} (hk : k < 1024) :
    (mergeBytes m a b).getLsbD k = if m.getLsbD (k / 8) then a.getLsbD k else b.getLsbD k := by
  have hspread : (spreadMask m).getLsbD k = m.getLsbD (k / 8) := by
    rw [show spreadMask m = BitVec.ofNat 1024 (maskSum m 128) from rfl, BitVec.getLsbD_ofNat, testBit_maskSum, decide_eq_true hk]
    rfl
  rw [mergeBytes, BitVec.getLsbD_or, BitVec.getLsbD_and, BitVec.getLsbD_and, BitVec.getLsbD_not, hspread, decide_eq_true hk]
  cases m.getLsbD (k / 8) <;> simp

theorem getLsbD_touchedWords (o n : Nat) {i : Nat} (hi : i < 16) :
    (touchedWords o n).getLsbD i = decide (8 * i < o + n ∧ o < 8 * i + 8) := by
  rw [touchedWords, getLsbD_foldl_or (fun i => decide (8 * i < o + n ∧ o < 8 * i + 8)) _ hi]
  simp [hi]

/-- A mask that holds a word. -/
theorem bne_zero_iff {m : BitVec 16} : (m != 0) = true ↔ ∃ i < 16, m.getLsbD i = true := by
  rw [bne_iff_ne]
  constructor
  · intro h
    by_contra hnone
    push Not at hnone
    refine h (BitVec.eq_of_getLsbD_eq fun i hi => ?_)
    rw [Bool.eq_false_iff.2 (hnone i hi)]
    exact BitVec.getLsbD_zero.symm
  · rintro ⟨i, -, hi⟩ rfl
    exact absurd hi (by simp)

/-! ### Lines of a cache -/

theorem Cache.find_put_self (k : Cache) (l : L1Line) : (k.put l).find l.dom l.line = some l :=
  List.find?_cons_of_pos (by simp)

theorem Cache.find_drop_of_ne {k : Cache} {d line d' line' : Nat} (h : ¬(d' = d ∧ line' = line)) :
    (k.drop d' line').find d line = k.find d line := by
  rw [Cache.find, Cache.drop, List.find?_filter, Cache.find]
  refine congrArg (List.find? · k.lines) (funext fun e => ?_)
  by_cases he : (e.dom == d && e.line == line) = true
  · obtain ⟨rfl, rfl⟩ : e.dom = d ∧ e.line = line := by simpa using he
    have hkept : (e.dom == d' && e.line == line') = false := by
      rw [Bool.eq_false_iff]
      intro hit
      obtain ⟨h1, h2⟩ : e.dom = d' ∧ e.line = line' := by simpa using hit
      exact h ⟨h1.symm, h2.symm⟩
    rw [hkept, he]
    rfl
  · simp [he]

/-- The least recently used line of a set that holds more than its most recently used one is another than that. -/
theorem Cache.getLast?_put {k : Cache} {l x : L1Line} (p : L1Line → Bool) (hp : p l = true) {n : Nat} (hn : 1 ≤ n)
    (hlen : n < ((k.put l).lines.filter p).length) (hlast : ((k.put l).lines.filter p).getLast? = some x) :
    ¬(x.dom = l.dom ∧ x.line = l.line) := by
  have hset : (k.put l).lines.filter p = l :: (k.lines.filter fun x => !(x.dom == l.dom && x.line == l.line)).filter p :=
    List.filter_cons_of_pos hp
  rw [hset] at hlen hlast
  have hmem : x ∈ (k.lines.filter fun x => !(x.dom == l.dom && x.line == l.line)).filter p := by
    cases hrest : (k.lines.filter fun x => !(x.dom == l.dom && x.line == l.line)).filter p with
    | nil => rw [hrest, List.length_singleton] at hlen; omega
    | cons y ys =>
      rw [hrest, List.getLast?_cons_cons] at hlast
      exact List.mem_of_getLast? hlast
  rintro ⟨hd, hl⟩
  have hkept := (List.mem_filter.1 (List.mem_filter.1 hmem).1).2
  simp [hd, hl] at hkept

/-- Eviction changes lines of caches and what is on the network; the evicted line is the last of its set. -/
theorem State.CacheStep.evictL1 (s : State) (agent line : Nat) : s.CacheStep (s.evictL1 agent line) := by
  unfold State.evictL1
  dsimp only
  split
  · exact .refl s
  · split
    · exact .refl s
    · split
      · rfl
      · exact State.CacheStep.trans (t := s.setCache agent _) rfl (.sendWriteBack _ agent _)

theorem State.CacheStep.fillL1 (s : State) (agent d line : Nat) (data : BitVec 1024) (pm : BitVec 16) (keep : Bool) :
    s.CacheStep (s.fillL1 agent d line data pm keep) :=
  State.CacheStep.trans (t := s.modCache agent _) rfl (.evictL1 _ agent _)

theorem State.CacheStep.sameMemory {s t : State} (h : s.CacheStep t) : s.SameMemory { t with caches := s.caches } :=
  ⟨fun d a => congrArg (fun v : Dom => Memory.get v.mem a) (h.dom d), fun c a => congrArg (fun k : Core => Memory.get k.lmem a) (h.core c),
    fun _ => rfl⟩

/-- A line that is put into a cache is there, whatever leaves for it (R244). -/
theorem State.find_putL1 (s : State) (agent : Nat) (l : L1Line) : ((s.putL1 agent l).cache agent).find l.dom l.line = some l := by
  have hput : ((s.modCache agent fun k => k.put l).cache agent) = (s.cache agent).put l := State.cache_modCache_self s agent _
  have hfound := (s.cache agent).find_put_self l
  unfold State.putL1 State.evictL1
  dsimp only
  rw [hput]
  split
  · rw [hput, hfound]
  · next hlen =>
    split
    · rw [hput, hfound]
    · next x hlast =>
      have hother := Cache.getLast?_put (fun e => setOf agent e.line == setOf agent l.line) (by simp) (n := Config.l1Ways) (by decide)
        (not_le.1 hlen) hlast
      split
      · rw [State.cache_setCache_self, Cache.find_drop_of_ne hother, hfound]
      · rw [State.cache_sendWriteBack, State.cache_setCache_self, Cache.find_drop_of_ne hother, hfound]

/-- The copy of a line that a reply meets: the one held, or one that holds no byte. -/
def Cache.lineAt (k : Cache) (d line : Nat) (keep : Bool) : L1Line := (k.find d line).getD (L1Line.blank d line keep)

theorem Cache.place_lineAt (k : Cache) (d line : Nat) (keep : Bool) :
    (k.lineAt d line keep).dom = d ∧ (k.lineAt d line keep).line = line := by
  rw [Cache.lineAt]
  cases hfind : k.find d line with
  | none => exact ⟨rfl, rfl⟩
  | some l => simpa using List.find?_some hfind

/-- A copy once its line has arrived: the dirty bytes keep their values, and words that a store has written whole are not
poisoned (R242, R249). -/
def L1Line.filled (l : L1Line) (data : BitVec 1024) (pm : BitVec 16) : L1Line :=
  { l with data := mergeBytes l.dirty l.data data, valid := BitVec.allOnes 128, poison := pm &&& ~~~l.whole }

theorem State.find_fillL1 (s : State) (agent d line : Nat) (data : BitVec 1024) (pm : BitVec 16) (keep : Bool) :
    ((s.fillL1 agent d line data pm keep).cache agent).find d line =
      some (((s.cache agent).lineAt d line keep).filled data pm) := by
  have hput := s.find_putL1 agent (((s.cache agent).lineAt d line keep).filled data pm)
  obtain ⟨hd, hl⟩ := (s.cache agent).place_lineAt d line keep
  rw [show (((s.cache agent).lineAt d line keep).filled data pm).dom = d from hd,
    show (((s.cache agent).lineAt d line keep).filled data pm).line = line from hl] at hput
  exact hput

/-! ### Requests on the network -/

/-- A write-back keeps the number of every request under way and takes a number of its own. -/
theorem State.findMsg_sendWriteBack {s : State} {agent id : Nat} {l : L1Line} (hid : id < s.nextId) (h : s.findMsg id = none) :
    (s.sendWriteBack agent l).findMsg id = none := by
  have hspoil : (s.spoilLine agent l.dom l.line).findMsg id = none := by
    rw [State.findMsg_map (s := s) (u := s.spoilLine agent l.dom l.line) rfl, h]
    · rfl
    · intro x
      dsimp only
      split
      · split <;> rfl
      · rfl
  have hnew : (s.nextId == id) = false := beq_eq_false_iff_ne.2 (Nat.ne_of_gt hid)
  rw [State.findMsg] at hspoil
  rw [State.sendWriteBack, State.findMsg, State.post, List.find?_append, hspoil, Option.none_or]
  exact List.find?_cons_of_neg (Bool.eq_false_iff.1 hnew)

theorem State.findMsg_fillL1 {s : State} {agent d line id : Nat} {data : BitVec 1024} {pm : BitVec 16} {keep : Bool}
    (hid : id < s.nextId) (h : s.findMsg id = none) : (s.fillL1 agent d line data pm keep).findMsg id = none := by
  unfold State.fillL1 State.putL1 State.evictL1
  dsimp only
  split
  · exact h
  · split
    · exact h
    · split
      · exact h
      · exact State.findMsg_sendWriteBack (s := State.setCache _ _ _) hid h

end Sys2Proof.Machine
end

section
/-! PROOFS. Replies and acknowledgements at their core (R109, R242, R248, R249, R251, R256, R264, R265, R267). -/
namespace Sys2Proof.Machine

variable {s : State} {id : Nat} {m : Msg} {x : Thread}

/-! ### Ordered reads, ordered stores and atomics (R251, R265) -/

theorem Waiting.wait (h : Waiting s m x) : m.wait = true := by
  obtain ⟨-, -, hwait, -⟩ := h
  exact hwait

theorem exec_loadReplyArrival_waiting (hm : s.findMsg id = some m) (hst : m.st = .replied) (hwait : m.wait = true) :
    exec (.loadReplyArrival id) s = .next (s.replyArrives m) := by
  rw [exec_loadReplyArrival, execLoadReplyArrival, hm]
  exact congrArg Host.Outcome.next (if_pos ⟨hst, .inl hwait⟩)

theorem State.replyArrives_ordered {op : Nat} {cmp : Word} (hkind : m.kind = .read ∨ m.kind = .store ∨ m.kind = .atomic op cmp)
    (hmask : m.mask.getLsbD 1 = false) : s.replyArrives m = s.orderedArrives m := by
  have hblocked : m.blocked = false := hmask
  rw [State.replyArrives]
  rcases hkind with h | h | h <;> rw [h, hblocked] <;> rfl

theorem selfInvalidated_taken (s : State) (m : Msg) :
    if m.inval then selfInvalidated (s.dropMsg m.id) (s.taken m) m.agent else s.taken m = s.dropMsg m.id := by
  rw [State.taken]
  cases m.inval with
  | true => exact selfInvalidated_selfInvalidate (s.dropMsg m.id) m.agent
  | false => rfl

theorem orderedReplies : Says.OrderedReplies := by
  intro s id m x op cmp hm hst hwaiting hdst hn hmask hkind
  have hid : m.id = id := by simpa using List.find?_some hm
  subst hid
  have hwait := Waiting.wait hwaiting
  have hexec := exec_loadReplyArrival_waiting hm hst hwait
  rw [State.replyArrives_ordered hkind hmask] at hexec
  have hplain : m.dst = .none ∨ ∃ d sx, m.dst = .x d sx := hdst.imp_right fun ⟨d, h⟩ => ⟨d, false, h⟩
  refine ⟨s.taken m, selfInvalidated_taken s m, fun hpoison => ?_, fun hpoison => ?_⟩
  · rw [hexec, Waiting.orderedArrives_poisoned hwaiting hpoison]; rfl
  · rw [Waiting.orderedArrives hwaiting hplain hpoison] at hexec
    refine ⟨_, hexec, ?_, ?_⟩
    · rw [State.thread_setThread_self]
      exact delivered_deliver hplain hn (Nat.mod_lt _ (Nat.two_pow_pos _))
    · rw [State.thread_setThread_self]

/-! ### Acknowledgements that no thread waits for (R251, R264, R267) -/

theorem exec_amoAckArrival_taken {op : Nat} {cmp : Word} (hm : s.findMsg id = some m) (hkind : m.kind = .atomic op cmp)
    (hst : m.st = .replied) (hwait : m.wait = false) : exec (.amoAckArrival id) s = .next (match (s.taken m).thread? m.core m.slot with
      | some t => if m.poisoned ∧ t.gen = m.gen then (s.taken m).raiseLate m.core m.slot .poison false 0 m.pc m.va 0 else s.taken m
      | none => s.taken m) := by
  have hid : m.id = id := by simpa using List.find?_some hm
  subst hid
  have hacks : m.st = .replied ∧ (!m.wait) = true := ⟨hst, by rw [hwait]; rfl⟩
  rw [exec_amoAckArrival, execAmoAckArrival, hm]
  dsimp only
  rw [hkind]
  exact congrArg Host.Outcome.next (if_pos hacks)

theorem State.waiter_of_wait (h : m.wait = false) (u : State) : u.waiter m = none := by
  rw [State.waiter]
  cases u.thread? m.core m.slot with
  | none => rfl
  | some t => exact if_neg fun hh => by rw [h] at hh; exact absurd hh.2.1 Bool.false_ne_true

theorem exec_releaseAckArrival_taken (hm : s.findMsg id = some m) (hkind : m.kind = .release ∨ m.kind = .counter true)
    (hst : m.st = .replied) (hwait : m.wait = false) : exec (.releaseAckArrival id) s = .next (s.taken m) := by
  have harrives : s.orderedArrives { m with dst := .none } = s.taken m := by
    rw [State.orderedArrives]
    dsimp only
    rw [State.waiter_of_wait (m := { m with dst := .none }) hwait]
    rfl
  rw [exec_releaseAckArrival, execReleaseAckArrival, hm]
  exact congrArg Host.Outcome.next ((if_pos ⟨hkind, hst⟩).trans harrives)

theorem acknowledgements : Says.Acknowledgements := by
  intro s id m op cmp hm hst hwait u
  have hid : m.id = id := by simpa using List.find?_some hm
  subst hid
  have hu : u = s.taken m := rfl
  have hcore := s.core_taken m
  refine ⟨fun hinval => ?_, fun hkind hpoison => ?_, fun hkind hpoison x hx hgen hready hslot => ?_, fun hkind => ?_⟩
  · have htaken := selfInvalidated_taken s m
    rw [if_pos hinval] at htaken
    exact htaken
  · rw [exec_amoAckArrival_taken hm hkind hst hwait, hpoison, hu]
    cases (s.taken m).thread? m.core m.slot <;> rfl
  · have hx' : (s.taken m).thread? m.core m.slot = some x := by rw [State.thread?, hcore]; exact hx
    have hexec := exec_amoAckArrival_taken hm hkind hst hwait
    rw [hx'] at hexec
    dsimp only at hexec
    rw [if_pos ⟨hpoison, hgen⟩, State.raiseLate_ready hx' hready hslot] at hexec
    have hnoted := State.thread?_setThread_self (s.taken m) m.core m.slot { x with late := true, lastTrap := some (m.pc, false) }
    have hkept := State.thread?_pushRec_ready hnoted hready
      (mkRec .poison (recFlags true false false false false) (tidOf m.core m.slot) 0 m.pc m.va 0)
    obtain ⟨hcode, hflags, htid, -⟩ := mkRec_late .poison (tidOf m.core m.slot) 0 m.pc m.va 0
    refine ⟨_, _, hexec, ?_, ?_, rfl, rfl, rfl, hcode, hflags, htid⟩
    · rw [State.thread, hkept]; rfl
    · rw [State.core_pushRec, State.setThread, State.core_modCore_self, hcore]
      exact Core.enters_enterRec (s.core m.core) _
  · exact exec_releaseAckArrival_taken hm hkind hst hwait

/-! ### The bytes that a load brings (R242, R248, R249) -/

/-- What a load reads of a copy that its reply meets: its value, and whether it reads poison. -/
def L1Line.load (l : L1Line) (m : Msg) : Nat × Bool :=
  ((mergeBytes l.dirty l.data m.data >>> (8 * (m.pa % 128))).toNat % 2 ^ (8 * m.n),
    ((m.pmask &&& ~~~l.whole) ||| l.dpoison) &&& touchedWords (m.pa % 128) m.n != 0)

theorem loadBytes_eq (k : Cache) (m : Msg) : loadBytes k m = (k.lineAt m.dom (m.pa / 128) false).load m := rfl

/-- A fill changes nothing of what its load reads. -/
theorem L1Line.load_filled (l : L1Line) (m : Msg) (pm : BitVec 16) : (l.filled m.data pm).load m = l.load m := by
  have hdata : mergeBytes l.dirty (mergeBytes l.dirty l.data m.data) m.data = mergeBytes l.dirty l.data m.data := by
    refine BitVec.eq_of_getLsbD_eq fun k hk => ?_
    rw [getLsbD_mergeBytes _ _ _ hk, getLsbD_mergeBytes _ _ _ hk]
    split <;> rfl
  rw [L1Line.load, L1Line.filled]
  dsimp only
  rw [hdata]
  rfl

theorem L1Line.load_lt (l : L1Line) (m : Msg) : (l.load m).1 < 2 ^ (8 * m.n) := Nat.mod_lt _ (Nat.two_pow_pos _)

/-- Bit by bit the value is that of the copy where its byte is dirty, and else that of the reply. -/
theorem L1Line.testBit_load (l : L1Line) {m : Msg} (hin : m.pa % 128 + m.n ≤ 128) {j : Nat} (hj : j < 8 * m.n) :
    (l.load m).1.testBit j = if l.dirty.getLsbD (m.pa % 128 + j / 8) then l.data.getLsbD (8 * (m.pa % 128 + j / 8) + j % 8)
      else m.data.getLsbD (8 * (m.pa % 128 + j / 8) + j % 8) := by
  have hbit : 8 * (m.pa % 128) + j = 8 * (m.pa % 128 + j / 8) + j % 8 := by omega
  have hbyte : (8 * (m.pa % 128 + j / 8) + j % 8) / 8 = m.pa % 128 + j / 8 := by omega
  rw [L1Line.load, Nat.testBit_mod_two_pow, decide_eq_true hj, Bool.true_and, BitVec.testBit_toNat, BitVec.getLsbD_ushiftRight, hbit,
    getLsbD_mergeBytes _ _ _ (by omega), hbyte]

/-- A load reads poison in a word that it touches: poison that was stored, or that of the reply where no store has written the
whole word. -/
theorem L1Line.load_poison_iff (l : L1Line) (m : Msg) : (l.load m).2 = true ↔ ∃ i < 16, m.pa % 128 < 8 * i + 8 ∧
    8 * i < m.pa % 128 + m.n ∧ (l.dpoison.getLsbD i = true ∨ m.pmask.getLsbD i = true ∧ l.whole.getLsbD i = false) := by
  rw [L1Line.load, bne_zero_iff]
  refine exists_congr fun i => and_congr_right fun hi => ?_
  rw [BitVec.getLsbD_and, BitVec.getLsbD_or, BitVec.getLsbD_and, BitVec.getLsbD_not, getLsbD_touchedWords _ _ hi, decide_eq_true hi]
  simp only [Bool.and_eq_true, Bool.or_eq_true, Bool.true_and, Bool.not_eq_true', decide_eq_true_eq]
  constructor
  · rintro ⟨hword, hhi, hlo⟩
    exact ⟨hlo, hhi, hword.symm⟩
  · rintro ⟨hlo, hhi, hword⟩
    exact ⟨hword.symm, hhi, hlo⟩

/-! ### The reply of a load (R109, R248) -/

/-- The state once the reply of a load is gone, and its line in the L1 where the load allocates. -/
def State.landed (s : State) (m : Msg) (alloc keep : Bool) : State :=
  if alloc then (s.dropMsg m.id).fillL1 m.agent m.dom (lineOf m.pa) m.data m.pmask keep else s.dropMsg m.id

theorem State.cacheStep_landed (s : State) (m : Msg) (alloc keep : Bool) : s.CacheStep (s.landed m alloc keep) := by
  cases alloc with
  | false => rfl
  | true => exact State.CacheStep.trans (t := s.dropMsg m.id) rfl (.fillL1 _ ..)

theorem State.findMsg_landed (alloc keep : Bool) (hid : m.id < s.nextId) : (s.landed m alloc keep).findMsg m.id = none := by
  obtain ⟨hgone, -⟩ := State.left_dropMsg (s := s) rfl m.id
  cases alloc with
  | false => exact hgone
  | true => exact State.findMsg_fillL1 hid hgone

theorem State.find_landed (s : State) (m : Msg) (keep : Bool) : ((s.landed m true keep).cache m.agent).find m.dom (m.pa / 128) =
    some (((s.cache m.agent).lineAt m.dom (m.pa / 128) keep).filled m.data m.pmask) :=
  State.find_fillL1 (s.dropMsg m.id) m.agent m.dom (m.pa / 128) m.data m.pmask keep

theorem State.loadBytes_landed (s : State) (m : Msg) (alloc keep : Bool) : loadBytes ((s.landed m alloc keep).cache m.agent) m =
    ((s.cache m.agent).lineAt m.dom (m.pa / 128) keep).load m := by
  have hkeep : ((s.cache m.agent).lineAt m.dom (m.pa / 128) false).load m = ((s.cache m.agent).lineAt m.dom (m.pa / 128) keep).load m := by
    unfold Cache.lineAt
    cases (s.cache m.agent).find m.dom (m.pa / 128) <;> rfl
  cases alloc with
  | false => exact (loadBytes_eq _ m).trans hkeep
  | true => rw [loadBytes_eq, Cache.lineAt, State.find_landed, Option.getD_some, L1Line.load_filled]

theorem Waiting.loadArrives (h : Waiting s m x) {d : BitVec 6} {sx : Bool} (hdst : m.dst = .x d sx) (alloc keep : Bool) :
    let l := (s.cache m.agent).lineAt m.dom (m.pa / 128) keep
    s.loadArrives m alloc keep = if (l.load m).2 then (s.landed m alloc keep).replyTrap m .poison m.va 0
      else (s.landed m alloc keep).setThread m.core m.slot ((rotated s m x).deliver (.x d sx) m.n (l.load m).1) := by
  have hcore := (s.cacheStep_landed m alloc keep).core
  have hwaits := Waiting.of_core h hcore
  intro l
  have hdeliver := Waiting.deliver hwaits (.inr ⟨d, sx, hdst⟩) m.n (l.load m).1 m.pc
  rw [rotated_of_core hcore] at hdeliver
  rw [State.loadArrives]
  show (match (s.landed m alloc keep).waiter m with | none => _ | some _ => _) = _
  rw [Waiting.waiter hwaits, ← hdst, ← hdeliver]
  show (match loadBytes ((s.landed m alloc keep).cache m.agent) m with
    | (v, bad) => if bad then (s.landed m alloc keep).replyTrap m .poison m.va 0
      else ((s.landed m alloc keep).goOn m).deliver m.core m.slot m.dst m.n v m.pc) = _
  rw [State.loadBytes_landed]

theorem exec_loadReplyArrival_load {alloc keep repl : Bool} (hm : s.findMsg id = some m) (hst : m.st = .replied)
    (hwait : m.wait = true) (hkind : m.kind = .load alloc keep repl) :
    exec (.loadReplyArrival id) s = .next (s.loadArrives m alloc keep) := by
  rw [exec_loadReplyArrival_waiting hm hst hwait, State.replyArrives, hkind]

/-- What the statements say of a load's bytes and poison, of the copy that its reply meets. -/
theorem Cache.lineAt_terms (k : Cache) (d line : Nat) (keep : Bool) :
    let l? := k.find d line
    (∀ j, (l?.map fun l => l.dirty.getLsbD j).getD false = (k.lineAt d line keep).dirty.getLsbD j) ∧
    (∀ i, ((∃ l, l? = some l ∧ l.dpoison.getLsbD i = true) ↔ (k.lineAt d line keep).dpoison.getLsbD i = true)) ∧
    (∀ i, ((∀ l, l? = some l → l.whole.getLsbD i = false) ↔ (k.lineAt d line keep).whole.getLsbD i = false)) ∧
    (∀ j, ((∀ l, l? = some l → l.dirty.getLsbD j = false) ↔ (k.lineAt d line keep).dirty.getLsbD j = false)) ∧
    (∀ l, l? = some l → k.lineAt d line keep = l) ∧ (l? = none → k.lineAt d line keep = L1Line.blank d line keep) := by
  unfold Cache.lineAt
  cases k.find d line with
  | none => simp [L1Line.blank]
  | some l => simp

theorem loadReplies : Says.LoadReplies := by
  intro s id m alloc keep repl x d sx hm hkind hst hwaiting hdst hin hn hnext l? held byte bad
  have hid : m.id = id := by simpa using List.find?_some hm
  subst hid
  obtain ⟨l, hl⟩ : ∃ l, l = (s.cache m.agent).lineAt m.dom (m.pa / 128) keep := ⟨_, rfl⟩
  obtain ⟨hdirty, hdpoison, hwhole, hclean, hsome, hnone⟩ := hl ▸ (s.cache m.agent).lineAt_terms m.dom (m.pa / 128) keep
  have hstep := s.cacheStep_landed m alloc keep
  have hexec := exec_loadReplyArrival_load hm hst (Waiting.wait hwaiting) hkind
  rw [Waiting.loadArrives hwaiting hdst, ← hl] at hexec
  have hbad : (l.load m).2 = true ↔ bad := by
    rw [L1Line.load_poison_iff]
    refine exists_congr fun i => and_congr_right fun _ => and_congr_right fun _ => and_congr_right fun _ => ?_
    rw [hdpoison, hwhole]
  refine ⟨fun hok => ?_, fun hpoison => ?_⟩
  · rw [if_neg (hbad.not.2 hok)] at hexec
    refine ⟨_, hexec, State.findMsg_landed alloc keep hnext, ?_, ⟨(l.load m).1, fun j hj => ?_, ?_⟩, fun halloc => ?_⟩
    · exact hstep.sameMemory.trans (State.SameMemory.setThread { s.landed m alloc keep with caches := s.caches } m.core m.slot _)
    · have hheld := hdirty (m.pa % 128 + j / 8)
      rw [L1Line.testBit_load l hin hj]
      show _ = (if held (m.pa % 128 + j / 8) then _ else _ : BitVec 8).getLsbD (j % 8)
      rw [show held (m.pa % 128 + j / 8) = l.dirty.getLsbD (m.pa % 128 + j / 8) from hheld]
      split
      · next hdirt =>
        obtain ho | ⟨o, ho⟩ := Option.eq_none_or_eq_some l?
        · rw [hnone ho] at hdirt
          exact absurd hdirt (by simp [L1Line.blank])
        · rw [hsome o ho, ho, Option.map_some, Option.getD_some, BitVec.getLsbD_extractLsb',
            decide_eq_true (Nat.mod_lt _ (by decide)), Bool.true_and]
      · rw [BitVec.getLsbD_extractLsb', decide_eq_true (Nat.mod_lt _ (by decide)), Bool.true_and]
    · rw [State.thread_setThread_self]
      exact delivered_deliver (.inr ⟨d, sx, rfl⟩) hn (l.load_lt m)
    · have hfill {j b : Nat} (hj : j < 128) (hb : b < 8) : (l.filled m.data m.pmask).data.getLsbD (8 * j + b) =
          if l.dirty.getLsbD j then l.data.getLsbD (8 * j + b) else m.data.getLsbD (8 * j + b) := by
        rw [L1Line.filled, getLsbD_mergeBytes _ _ _ (by omega), show (8 * j + b) / 8 = j by omega]
      subst halloc
      refine ⟨l.filled m.data m.pmask, ?_, fun j hj => ?_, fun i hi => ?_, fun o ho => ⟨?_, fun j hj hheld b hb => ?_⟩,
        fun j hj hfree b hb => ?_, fun ho => ?_⟩
      · rw [State.cache_setThread, State.find_landed, hl]
      · exact (BitVec.getLsbD_allOnes).trans (decide_eq_true hj)
      · show (m.pmask &&& ~~~l.whole).getLsbD i = true ↔ _
        rw [BitVec.getLsbD_and, BitVec.getLsbD_not, decide_eq_true hi, Bool.true_and, Bool.and_eq_true, Bool.not_eq_true', hwhole]
      · show l.dirty = o.dirty
        rw [hsome o ho]
      · have ho' := hsome o ho
        subst ho'
        rw [hfill hj hb, if_pos hheld]
      · rw [hfill hj hb, if_neg (Bool.eq_false_iff.1 ((hclean j).1 hfree))]
      · show l.dirty = 0#128 ∧ l.keep = keep
        rw [hnone ho]
        exact ⟨rfl, rfl⟩
  · rw [if_pos (hbad.2 hpoison)] at hexec
    refine ⟨s.landed m alloc keep, ?_, ?_, fun hno => ?_, hexec⟩
    · rw [hstep]
    · rw [hstep]
    · rw [hno]; rfl

/-- Settles O27: what the replies of loads, of ordered accesses and atomics, and acknowledgements do at their core. -/
theorem replies : Obligations.Replies := ⟨loadReplies, orderedReplies, acknowledgements⟩

end Sys2Proof.Machine
end
